-- ==== Sys2Proof/Word.lean ====
section
/-! DEFINITION. The word types of the M8 and their plainest names. -/

namespace Sys2Proof

/-- A byte. -/
abbrev Byte := BitVec 8
/-- A 48-bit device address. -/
abbrev Addr := BitVec 48
/-- A 64-bit word, as registers and records use it. -/
abbrev Word := BitVec 64
/-- A job id, laid out by R36. -/
abbrev JobId := BitVec 64

/-- A finite map by number: a list of key and value pairs. Its one canonical form (keys strictly rising, no entry
equal to what an unlisted key reads as) is `Machine.mwf`; memory is the case of byte values, a list of `Host.Cell`. -/
abbrev SMap (α : Type) := List (Nat × α)

end Sys2Proof
end

