-- ==== Sys2Proof/Syntax.lean ====
section
/-! DEFINITION. The commands of the M8: one constructor of `Instr` for each row of spec/opcode_table.json, and the
operand types they carry. What an outside standard lays out (an Ethernet frame, a CoaXPress packet, the body of a plan
image, the outcome of a signature check) is an operand already read, because the manual does not lay it out (log 4). -/

namespace Sys2Proof

/-- Who accesses a register: each has its own `SEL` copies (R342). -/
inductive Req where
  | host | core (n : Fin 8) | debug
  deriving DecidableEq, Repr

/-- A row of `IG_STREAM_FMT` as a leader names it (R99). -/
structure PixFmt where
  bits : Nat
  packed : Bool
  bayer : Nat
  deriving DecidableEq, Repr

/-- GVSP packets (R66): leader, payload, trailer, anything else. Every GVSP packet has a packet id: 0 in a leader, and in a trailer
the one after its block's last payload packet (log 4). -/
inductive GvspBody where
  | leader (fmt : PixFmt) (width height : Nat)
  | payload (packetId : Nat) (bytes : List Byte)
  | trailer (packetId lines : Nat)
  | unknown
  deriving DecidableEq, Repr

/-- A GVSP packet with its block id (16-bit in standard mode, 64-bit in extended-ID mode, R66). -/
structure Gvsp where
  blockId : Nat
  body : GvspBody
  deriving DecidableEq, Repr

/-- What stands above Ethernet in a received frame, as R63 tells frames apart. -/
inductive EthBody where
  | ptpEvent | ptpGeneral | badChecksum
  /-- `ackId`: the request id, where the datagram is a GVCP acknowledgement. -/
  | udp (srcIp : BitVec 32) (srcPort dstPort : BitVec 16) (optionsOrFragment : Bool) (ackId : Option (BitVec 16)) (gvsp : Gvsp)
  | pause
  | other
  deriving DecidableEq, Repr

/-- A received Ethernet frame (R62, R63). `content` runs from the destination MAC to the end of the payload, without
the FCS; `len` counts the FCS. -/
structure EthFrame where
  len : Nat
  fcsOk : Bool
  dstMac : BitVec 48
  groupAddr : Bool
  vlan : BitVec 32
  body : EthBody
  content : List Byte
  deriving DecidableEq, Repr

/-- What a CoaXPress packet carries (R70, R71). An image header has the image's pixel format (R99). `lines`: pixel bytes at a line and byte offset, counted from the image
start; `lineGap`: how many lines the line markers show as skipped, `none` when they cannot tell. -/
inductive CxpBody where
  | imageStart (fmt : PixFmt)
  | pixels (line off : Nat) (bytes : List Byte)
  | control (bytes : List Byte) | event (bytes : List Byte) | heartbeat (bytes : List Byte)
  | unknown
  deriving DecidableEq, Repr

/-- What the host programs into configuration space as it brings the function up (R338, R351): maximum payload size 128·2^`mps` bytes,
maximum read request size 128·2^`mrrs` bytes, BAR4 size 2^(30 + `bar4`) bytes. -/
structure HostCfg where
  mps : Fin 3
  mrrs : Fin 6
  bar4 : Fin 7
  msixEn : Bool
  fnMask : Bool
  ecrcGen : Bool
  ecrcCheck : Bool
  deriving DecidableEq, Repr

/-- What is programmed where a command names nothing else: each as after reset, with MSI-X enabled (R338, R351). -/
def HostCfg.usual : HostCfg :=
  { mps := 0, mrrs := 2, bar4 := 6, msixEn := true, fnMask := false, ecrcGen := false, ecrcCheck := false }

/-- What is wrong with an inbound TLP (R350). -/
inductive TlpFault where
  | poisoned | ecrc | other
  deriving DecidableEq, Repr

/-- Agents whose host reads are issued and answered within one command of theirs (R339): a core's load, a PLAN_LOAD of a ring, a feed
of a stream, a transmission of a port. -/
inductive HostReader where
  | core (n : Nat) | planLoad (ring : Nat) | hostFeed (stream : Nat) | transmit (port : Nat)
  deriving DecidableEq, Repr

structure CxpPacket where
  crcOk : Bool
  streamId : BitVec 8
  tag : Nat
  lineGap : Option Nat
  body : CxpBody
  deriving DecidableEq, Repr

/-- Where a job runs: a tile's task context, or a slot of a boundary engine (R34, R120). -/
inductive Place where
  | tile (t : Fin 256) (c : Fin 8)
  | engine (b : Fin 32) (k : Fin 16)
  deriving DecidableEq, Repr

/-! ### The plan image's body (R35; its layout is Frerax's, log 4) -/

/-- An output, halo or statistics dependency on a job of another template, at a row and segment offset (R35, R39). -/
structure Dep where
  template : Nat
  dr : Int
  ds : Int
  deriving DecidableEq, Repr

/-- A buffer entry of the plan (R273, R275). `copy`: the offset of its DRAM copy in the plan's region. -/
structure BufDecl where
  tile : Nat
  handle : Nat
  bank : Nat
  base : Nat
  len : Nat
  maxlen : Nat
  write : Bool
  slotchk : Bool
  tag : Nat
  queue : Option Nat
  slotRows : Nat
  copy : Option Nat
  deriving DecidableEq, Repr

/-- A buffer a template keeps to itself (R275): handle 128 to 143, at a row of the private area of the context the job receives. -/
structure PrivDecl where
  handle : Nat
  bank : Nat
  rows : Nat
  maxlen : Nat
  write : Bool
  row : Nat
  deriving DecidableEq, Repr

/-- The private area that a plan declares for a context of a tile in one bank (R275): its first row and its rows. -/
structure CtxArea where
  tile : Nat
  ctx : Nat
  bank : Nat
  base : Nat
  rows : Nat
  deriving DecidableEq, Repr

/-- A handle queue record as R281 reads it. -/
structure QueueDecl where
  queue : Nat
  kind : Nat
  depth : Nat
  slotRows : Nat
  inDram : Bool
  slotchk : Bool
  tile : Nat
  handle : Nat
  dramAddr : Nat
  prod : Nat
  cons : Nat
  refs : Nat
  sync : Nat
  /-- A reserved bit is not 0. -/
  reserved : Bool
  deriving DecidableEq, Repr

/-- An operator table entry as R235 reads it; its number is its place in the table. -/
structure OpEntry where
  opId : Nat
  mode : Nat
  oFmt : Nat
  baseS : Nat
  baseE : Int
  d0 : Int
  dmin : Int
  dmax : Int
  inputOp : Nat
  measOp : Nat
  satLim : Nat
  mseLim : Nat
  period : Nat
  /-- A reserved bit is not 0. -/
  reserved : Bool
  deriving DecidableEq, Repr

/-- A shape record as R248 reads it, with strides and dilations as values. -/
structure ShapeRec where
  family : Nat
  padMode : Nat
  frc : Nat
  padConst : Nat
  kh : Nat
  kw : Nat
  sy : Nat
  sx : Nat
  dy : Nat
  dx : Nat
  padT : Nat
  padB : Nat
  padL : Nat
  padR : Nat
  groups : Nat
  opId : Nat
  cIn : Nat
  cOut : Nat
  inW : Nat
  inH : Nat
  uy : Nat
  ux : Nat
  /-- A reserved bit is not 0. -/
  reserved : Bool
  deriving DecidableEq, Repr

/-- A first-layer template of a boundary engine, R117; its kernel, strides, padding, channels and operator are those of its template's
shape record. Weights in the order output channel, input plane, ky, kx. -/
structure FirstLayer where
  bayerSplit : Bool
  weights : List Int
  scaleS : List Nat
  scaleE : List Int
  oFmt : Nat
  act : Nat
  clampLo : Int
  clampHi : Int
  /-- Halo columns of each lane of the output map (R253), and the padding rule of its reader for columns beyond the line (R257). -/
  outHalo : Nat
  outPad : Nat
  outConst : Nat
  /-- Output map: offset in the plan's region, and how many maps lie there in turn (log 21). -/
  outOfs : Nat
  slots : Nat
  deriving DecidableEq, Repr

/-- One layer of a last-layer template, R118; its kernel, padding, channels and operator are those of the shape record in its place. -/
structure LastStage where
  weights : List Int
  scaleS : List Nat
  scaleE : List Int
  oFmt : Nat
  aFmt : Nat
  deriving DecidableEq, Repr

/-- A last-layer template, R118 and R119: its layers, the halo columns of each lane of the map it reads, and where that lies. -/
structure LastLayer where
  stages : List LastStage
  inHalo : Nat
  inAddr : Nat
  inSlots : Nat
  argmax : Bool
  background : Nat
  thresholds : List Int
  outOfs : Nat
  countOfs : Nat
  slots : Nat
  deriving DecidableEq, Repr

/-- What a template is for its engine. -/
inductive Engine where
  | tiles | first (f : FirstLayer) | last (l : LastLayer)
  deriving DecidableEq, Repr

/-- A job template (R34, R35, R40, R52, R130, R140, R237, R278, R283, R290). `d` counts units of 0.1 µs. -/
structure Template where
  index : Nat
  kind : Nat
  units : List Nat
  engine : Engine
  d : Nat
  solstice : Bool
  entry : Nat
  resident : Option (Nat × Nat)
  residentImage : List Byte
  deps : List Dep
  halo : List Dep
  stats : List Dep
  raw : List (Int × Int)
  priv : List PrivDecl
  transfers : List Nat
  attemptObjs : Nat
  objArg : Nat
  queues : List (Nat × Bool × Nat)
  bandRows : Nat
  bandSegs : Nat
  emits : Bool
  batchSize : Nat
  batchUs : Nat
  /-- Its operators in the order they are applied: numbers of shape records. -/
  shapes : List Nat
  /-- Argument words of a host job that give the width and height of records without one (R249). -/
  sizeArgs : Option (Nat × Nat)
  handles : List Nat
  deriving DecidableEq, Repr

/-- The body of a plan image. `objects` lists each object's kind and initial value (R277), `standing` the batches of the plan's
own stream contexts (R290) by their offset in its region. The records that R235, R248 and R281 lay out are bytes: 16 for an entry of
the operator table, in the order of `OP_ID` from 1, with its drift period (R239), 32 for a shape or queue record. -/
structure PlanImage where
  templates : List Template
  buffers : List BufDecl
  areas : List CtxArea
  objects : List (Nat × Nat)
  queues : List (List Byte)
  ops : List (List Byte × Nat)
  shapes : List (List Byte)
  standing : List Nat
  experts : Nat
  gate : Int
  recordArea : Nat
  tilesNeeded : Nat
  regionNeeded : Nat
  deriving DecidableEq, Repr

/-- Outcome of a cryptographic check: signer's key accepted, signature good, digests good (R472, R475, R477; log 4). -/
structure Crypto where
  keyOk : Bool
  sigOk : Bool
  digestOk : Bool
  deriving DecidableEq, Repr

/-! ### Reads and reports -/

/-- How a DRAM read checks (R325): the two tries of the check beside the stored block's own state. -/
inductive ReadTry where
  | clean | retryOk | fails
  deriving DecidableEq, Repr

/-- How a read returns to its requester (R306, R312, R349): `meshParity` is a parity error over the payload on a mesh link, which poisons its
bytes (R432). -/
inductive ReadResult where
  | data | hostError | meshParity
  deriving DecidableEq, Repr

/-- Where a fault strikes an output of the array: its sum, in units of 2⁻⁶⁴, or the product with its output scale (R211, R212). -/
inductive MxStage where
  | sum | scaled
  deriving DecidableEq, Repr

/-- A fault of the array: the output of a block that it changes, by channel and position, and by how much. -/
structure MxFault where
  chan : Nat
  pos : Nat
  stage : MxStage
  delta : Int
  deriving DecidableEq, Repr

/-- Unit kinds of the error log, R450. -/
inductive UnitKind where
  | none | tile | boundary | stream | dram | router | core | hostLink | peer | ingest | sched | sync | queue | clock
  deriving DecidableEq, Repr

/-- A fault report: cause, unit, location, job (R434), with the log's AUX and INFO (R450). -/
structure Report where
  cause : Nat
  unitKind : UnitKind
  unit : Nat
  loc : Nat
  job : JobId
  aux : Nat
  deriving DecidableEq, Repr

/-! ### Novgiwick operations (R409; no encodings are given) -/

inductive CoreOp where
  | add | sub | and | or | xor | shl | shr | sra | slt | sltu | min | max | li
  | bfx | bfi | clz | popc | bperm | mul | mulh | mulhu | div | divu | rem | remu
  deriving DecidableEq, Repr

/-- Second operand: a general register, or an immediate. -/
inductive CoreOp2 where
  | reg (r : Fin 16) | imm (v : BitVec 64)
  deriving DecidableEq, Repr

inductive CoreBr where
  | br (cond : Fin 5) (rs : Fin 16) (target : BitVec 32)
  | call (target : BitVec 32)
  | ret
  deriving DecidableEq, Repr

/-- Special registers of R407. -/
inductive CoreSr where
  | dsp | dlo | dhi | rsp | cst | evec | tvec | epc | tpc | tcause | tval | ecl | tpri
  deriving DecidableEq, Repr

inductive SrDir where
  | mfsr | mtsr
  deriving DecidableEq, Repr

/-- What raises a trap at an instruction: `brk`, `trap`, a word that is illegal, or one that failed parity as it was fetched (R420). -/
inductive CoreTrap where
  | brk | trap | illegal | fetchParity
  deriving DecidableEq, Repr

inductive BitOp where
  | bset | bclr | btst
  deriving DecidableEq, Repr

/-! ### The commands -/

/-- One constructor for each row of spec/opcode_table.json, in the table's order. -/
inductive Instr where
  -- registers
  | registerWrite (req : Req) (off size : Nat) (data : Word)
  | registerReadClear (req : Req) (off size : Nat)
  | gcEnableWrite (data : BitVec 32)
  | aclkForceStep (data : BitVec 2)
  | aclkStepChange (hclk : Nat)
  | pllLockLoss
  -- sensor ports
  | portEnable (port : Fin 32) (data : BitVec 32)
  | ethernetFrameRx (port : Fin 32) (frame : EthFrame)
  | resendWaitExpiry (stream : Fin 32)
  | resendDeadline (stream : Fin 32) (blockId packetId : Nat)
  | cxpPacketRx (port : Fin 32) (packet : CxpPacket)
  | cxpSkewTimeout (port : Fin 32)
  | cxpTriggerPacket (port : Fin 32)
  | portTransmit (port : Fin 32)
  | portTransmitComplete (port : Fin 32)
  | linkDown (port : Fin 32)
  | linkUp (port : Fin 32)
  | streamIdle (stream : Fin 32)
  -- ingest
  | ingestTakePacket (port : Fin 32)
  | stripeAnnounce (stream : Fin 64)
  | hostFeedResume (stream : Fin 64)
  | ingestEnable (data : BitVec 32)
  | bApplied (engine : Fin 32)
  | harvestSnapshot (stream : Fin 64)
  -- boundary engines
  | beEnable (engine : Fin 32) (data : BitVec 32)
  | tableLoad (engine : Fin 32) (addr : Addr)
  | tableLoadComplete (engine : Fin 32)
  | tableSwapRequest (engine : Fin 32)
  | tableSwap (engine : Fin 32)
  | tableParityError (engine : Fin 32) (column : Nat)
  -- line timing
  | encoderEnable (enc : Fin 8) (data : Word)
  | encoderCount (enc : Fin 8) (a b : Bool)
  | speedWindow (enc : Fin 8)
  | stripStop (enc : Fin 8)
  | eosStopTimeout (enc : Fin 8)
  | generalInputEdge (input : Fin 16) (pin : Bool)
  | triggerEnable (out : Fin 32) (data : BitVec 32)
  | triggerFire (out : Fin 32)
  | triggerTimer (out : Fin 32)
  | triggerPulseStart (out : Fin 32)
  | triggerPulseEnd (out : Fin 32)
  | timeStep (value : Word)
  | timeAdjust (value : BitVec 32)
  -- jobs and tasks
  | jobDispatch (place : Place) (contexts : List (Fin 32 × Fin 64))
  | jobFirstIssue (place : Place)
  | taskSelect (tile : Fin 256)
  | jobRetire (job : JobId)
  | jobAbort (job : JobId) (cause : BitVec 8)
  | jobDiscardComplete (job : JobId)
  | jobCancelDrained (job : JobId)
  | jobOverrun (job : JobId)
  | waitTimeout (job : JobId)
  | icacheFill (tile : Fin 256) (line : Nat) (tries : ReadTry)
  | storeBufferCommit (tile : Fin 256)
  -- lane engine: the bundle fetched at the running task's pc, and the scratchpad bytes whose parity fails on this read
  | scalarAlu (tile : Fin 256) (bundle : BitVec 128)
  | vtake (tile : Fin 256) (bundle : BitVec 128)
  | vform (tile : Fin 256) (bundle : BitVec 128)
  | predicateLogic (tile : Fin 256) (bundle : BitVec 128)
  | addressOp (tile : Fin 256) (bundle : BitVec 128)
  | li (tile : Fin 256) (bundle : BitVec 128)
  | vectorInteger (tile : Fin 256) (bundle : BitVec 128)
  | vectorCompare (tile : Fin 256) (bundle : BitVec 128)
  | vperm (tile : Fin 256) (bundle : BitVec 128)
  | vcvt (tile : Fin 256) (bundle : BitVec 128)
  | vectorFloat (tile : Fin 256) (bundle : BitVec 128)
  | vectorReduction (tile : Fin 256) (bundle : BitVec 128)
  | vfredsum (tile : Fin 256) (bundle : BitVec 128)
  | vbexp (tile : Fin 256) (bundle : BitVec 128)
  | scalarLoad (tile : Fin 256) (bundle : BitVec 128) (upset : List Nat)
  | scalarStore (tile : Fin 256) (bundle : BitVec 128)
  | vld (tile : Fin 256) (bundle : BitVec 128) (upset : List Nat)
  | vst (tile : Fin 256) (bundle : BitVec 128)
  | vgather (tile : Fin 256) (bundle : BitVec 128) (upset : List Nat)
  | vscatter (tile : Fin 256) (bundle : BitVec 128)
  | ist (tile : Fin 256) (bundle : BitVec 128)
  | br (tile : Fin 256) (bundle : BitVec 128)
  | call (tile : Fin 256) (bundle : BitVec 128)
  | jr (tile : Fin 256) (bundle : BitVec 128)
  | rpt (tile : Fin 256) (bundle next : BitVec 128)
  | sywait (tile : Fin 256) (bundle : BitVec 128)
  | syadd (tile : Fin 256) (bundle : BitVec 128)
  | hqpush (tile : Fin 256) (bundle : BitVec 128)
  | hqpop (tile : Fin 256) (bundle : BitVec 128)
  | hqrel (tile : Fin 256) (bundle : BitVec 128)
  | emit (tile : Fin 256) (bundle : BitVec 128)
  | mxRun (tile : Fin 256) (bundle : BitVec 128)
  | mxCbload (tile : Fin 256) (bundle : BitVec 128)
  | mxSignal (tile : Fin 256) (bundle : BitVec 128)
  | mxfence (tile : Fin 256) (bundle : BitVec 128)
  | isync (tile : Fin 256) (bundle : BitVec 128)
  | done (tile : Fin 256) (bundle : BitVec 128)
  | taskFaultHandler (tile : Fin 256) (ctx : Fin 8)
  | debugHalt (tile : Fin 256)
  -- multiply array
  | mxBlockStart (tile : Fin 256)
  | mxBlockComplete (tile : Fin 256) (fault : Option MxFault)
  | mxCbloadComplete (tile : Fin 256)
  | mxSignalAdd (tile : Fin 256)
  | residueInject (tile : Fin 256)
  | driftCompute (stream : Fin 64) (op : Nat)
  | fillComplete (tile : Fin 256) (entry : Fin 256) (ok : Bool)
  -- stream engines
  | seCtxArm (engine : Fin 32) (ctx : Fin 64) (addr : Addr)
  | seBatchFetch (engine : Fin 32) (ctx : Fin 64)
  | seDescStart (engine : Fin 32) (ctx : Fin 64)
  | seReadIssue (engine : Fin 32)
  | seReadReturn (engine : Fin 32) (ctx : Fin 64) (result : ReadResult) (tries : ReadTry) (index : Nat := 0)
  | seDescComplete (engine : Fin 32) (ctx : Fin 64)
  | pacingUpdate (engine : Fin 32) (ctx : Fin 64)
  | seCancel (engine : Fin 32) (ctx : Fin 64)
  | seResume (engine : Fin 32) (ctx : Fin 64)
  -- stacked memory
  | dramRead (addr : Addr) (tries : ReadTry)
  | dramWrite (addr : Addr) (bytes : List Byte) (poisoned : Bool) (tries : ReadTry)
  | scrubRead (channel : Fin 256) (tries : ReadTry) (written : Bool)
  | refresh (channel : Fin 256)
  | mapCommit
  | crcInject (channel : Fin 256)
  -- host link
  | doorbell (off size : Nat) (data : Word)
  | bar4Read (off len : Nat) (bar2 : Bool := false)
  | bar4Write (off : Nat) (bytes : List Byte) (poisonedTlp : Bool) (reqId : BitVec 16)
  | cplTimeout (tag : Nat) (reader : Option HostReader := none)
  | unexpectedCompletion
  | msixUnmask (vector : Fin 2048)
  | conventionalReset (rise : Bool)
  | functionLevelReset
  | hotReset
  | busMasterDisable
  | d3hot
  -- rings and commands
  | ringEnable (ring : Fin 2097152) (data : BitVec 32)
  | ringDisable (ring : Fin 2097152)
  | qmEnable (data : BitVec 32)
  | descriptorFetch
  | descriptorBurstCheck (hostErrors : List Nat)
  | nop (ring : Fin 2097152)
  | planLoad (ring : Fin 2097152) (crypto : Crypto) (image : PlanImage)
  | planUnload (ring : Fin 2097152)
  | streamBind (ring : Fin 2097152)
  | streamUnbind (ring : Fin 2097152)
  | streamFlush (ring : Fin 2097152)
  | hostFeed (ring : Fin 2097152)
  | jobSubmit (ring : Fin 2097152)
  | jobCancel (ring : Fin 2097152)
  | syncWait (ring : Fin 2097152)
  | syncAdd (ring : Fin 2097152)
  | query (ring : Fin 2097152)
  | streamResume (ring : Fin 2097152)
  | resultRecordWrite (ring : Fin 2097152)
  | coalesceTimer (ring : Fin 2097152)
  -- expert groups
  | tokenSend (peer : Fin 16)
  | resultSend (peer : Fin 16)
  | tokenReceive (window : Fin 64)
  | resultReceive (window : Fin 64)
  | nackReceive (window : Fin 64)
  | creditBlockReceive (window : Fin 64)
  | creditBlockSend (peer : Fin 16)
  | batchTimeout (expert : Fin 256)
  | tokenRetry (token : BitVec 128) (rank : Fin 2)
  | tokenTimeout (token : BitVec 128) (rank : Fin 2)
  | epochAdvance (value : BitVec 32)
  -- event hub and control cores
  | eventSet (source : Fin 1024)
  | eventClear (source : Fin 1024)
  | eventRoute
  | handlerEntry (core : Fin 8)
  | eclClaim (core : Fin 8) (g : Fin 16)
  | evdone (core : Fin 8) (source : BitVec 64)
  | rti (core : Fin 8)
  | wfe (core : Fin 8)
  | asyncEdgeLatch (input : Fin 16)
  | latchApply
  | coreArithmetic (core : Fin 8) (op : CoreOp) (rd rs1 : Fin 16) (op2 : CoreOp2)
  | coreBranch (core : Fin 8) (op : CoreBr)
  | push (core : Fin 8) (rs : Fin 16)
  | pop (core : Fin 8) (rd : Fin 16) (parityFails : Bool := false)
  | coreLoad (core : Fin 8) (size : Fin 4) (signed : Bool) (rd : Fin 16) (addr : BitVec 64) (parityFails busError : Bool)
  | coreStore (core : Fin 8) (size : Fin 4) (rs : Fin 16) (addr : BitVec 64)
  | coreStoreCommit (core : Fin 8) (busError : Bool)
  | bitVariable (core : Fin 8) (op : BitOp) (rd rs : Fin 16)
  | btas (core : Fin 8) (rd rs : Fin 16)
  | mfsrMtsr (core : Fin 8) (dir : SrDir) (sr : CoreSr) (g : Fin 16)
  | trapBrk (core : Fin 8) (imm : BitVec 32) (kind : CoreTrap)
  | fence (core : Fin 8)
  | fenceI (core : Fin 8)
  -- faults and resets
  | faultReport (report : Option Report)
  | frost
  | thaw (failing : List (Fin 272))
  | settleExpiry
  | devReset
  | devDelayExpiry
  | retryTbl (engine : Fin 32)
  | fmLogAck (head : BitVec 16)
  -- bring-up
  | stageS0 (powerGood pllLocked : Bool) (bootMode : Fin 4) (lockUs : Nat)
  | stageS1 (selfTestOk : Bool) (slotA slotB : Crypto) (deviceId : BitVec 128) (idValid idRecord : Bool)
  | stageS2 (speed width : Fin 16) (flit : Bool) (tags : Fin 4)
  | stageS3 (channelsTrained : Nat)
  | stageS4 (failedRows : List (Fin 256 × Fin 16 × Nat)) (failedSpares : List (Fin 256 × Fin 16 × Fin 16))
  | stageS5 (failedTiles : List (Fin 272)) (otherUnit : Option (UnitKind × Nat))
  | stageS6 (failedTiles : List (Fin 272)) (otherUnit : Option (UnitKind × Nat))
  | stageS7 (checks : List (Nat × Crypto))
  | stageS8
  -- licences, identity, debug
  | licApply (crypto : Crypto)
  | licStore (crypto : Crypto)
  | licClear
  | attest
  | certRead
  | debugUnlock (crypto : Crypto)
  | bootGo (crypto : Crypto)
  | slotWrite (crypto : Crypto)
  | flashWrite (refused : Bool)
  -- power, heat, telemetry
  | thermalSample (logic : List Int) (stackTemps : List Int)
  | thermalHysteresisExpiry
  | thermalTripRelease
  | powerSample (deciWatts : Nat)
  | railSample (rail : Fin 8) (mv : Nat)
  | brownOut (rail : Fin 8)
  | brownOutRelease
  | refclkLoss (which : Fin 3)
  | wearSample (counts : List Nat)
  | telemetry
  | serdesCalibration (port : Fin 32)
  | sensorTrim (sensor : Fin 96)
  -- debug port and the rest of the host link
  | debugReset
  | debugCoreHalt (core : Fin 8)
  | debugResume (tile : Option (Fin 256)) (core : Option (Fin 8)) (step : Bool)
  | lowHalfRead (req : Req) (off : Nat)
  | busMasterEnable (cfg : HostCfg := HostCfg.usual)
  | returnToD0
  | pcieLinkUp (speed width : Fin 16) (flit : Bool) (tags : Fin 4)
  | linkError (kind : TlpFault) (bar : Fin 8)
  deriving DecidableEq, Repr

end Sys2Proof
end

