-- ==== Sys2Proof/Machine/RegTable.lean ====
section
/-! DEFINITION. The register fields of BAR0, written out from the register tables of the manual: R16, R56 to R58, R78 to
R83, R97, R98, R121, R122, R153 to R157, R224, R225, R244, R247, R287 to R289, R314 to R316, R329, R333 to R337, R342 to
R354, R357, R383, R384, R396, R403 to R405, R429 to R431, R452 to R454, R459, R460, R473, R483, R487, R489 to R492, R496,
R497 to R506 and R517. Every field not listed is reserved (R7). -/

namespace Sys2Proof.Machine

/-- Access codes (R5). W1S is named there and no field uses it. -/
inductive Acc where
  | ro | rw | wo | w1c | rc
  deriving DecidableEq, Repr

/-- Update codes (R6): none writable, L live, S static, B at an epoch, B at the peer epoch. -/
inductive Upd where
  | none | live | static | epoch | peerEpoch
  deriving DecidableEq, Repr

/-- How a written value is stored (the `stored as` clauses of the field tables). -/
inductive Fix where
  | id
  | ge (lim v : Nat)
  | range (lo hi : Nat)
  | align (bits : Nat)
  | alignRange (bits lo hi : Nat)
  | zeroAs (v : Nat)
  | lowNonzero (lo : Nat)
  | thermT2
  | trigPeriod
  deriving DecidableEq, Repr

/-- What selects the copy of a register: nothing, the selected port, engine, tile, channel or ring, or the requester's own
copy of a `SEL` register (R342). -/
inductive Chan where
  | none | port | be | se | tile | mem | ring | req
  deriving DecidableEq, Repr

/-- The block or channel whose enable a static field answers to (R6, R343). -/
inductive Owner where
  | none | port | lt | enc | trig | stream | ingest | be | se | sched | tile | mem | hostOut | bar4 | peer | ring | qm
  | pmWin | pmSend | pm | hv
  deriving DecidableEq, Repr

/-- One field of one register, or of `cnt` registers `stride` bytes apart. `off` is the BAR0 offset of the first, a multiple
of 8; `lo` counts from bit 0 of the 64-bit word there. `own`: a command of its own performs writes of it. -/
structure Fld where
  off : Nat
  stride : Nat
  cnt : Nat
  lo : Nat
  w : Nat
  acc : Acc
  upd : Upd
  reset : Nat
  fix : Fix
  owner : Owner
  ch : Chan
  own : Bool
  deriving DecidableEq, Repr

namespace Reg

/-- `CK_ACLK_CTL_STEP`: R16. -/
def CK_ACLK_CTL_STEP : Fld := ⟨0x100040, 0, 1, 0, 2, .ro, .none, 0, .id, .none, .none, false⟩
/-- `CK_ACLK_CTL_THERM_STEP`: R16. -/
def CK_ACLK_CTL_THERM_STEP : Fld := ⟨0x100040, 0, 1, 2, 2, .ro, .none, 0, .id, .none, .none, false⟩
/-- `CK_ACLK_CTL_FORCE_STEP`: R16. -/
def CK_ACLK_CTL_FORCE_STEP : Fld := ⟨0x100040, 0, 1, 4, 2, .rw, .live, 0, .ge 3 2, .none, .none, true⟩
/-- `CK_ACLK_CTL_SWITCH_LAT`: R16. -/
def CK_ACLK_CTL_SWITCH_LAT : Fld := ⟨0x100040, 0, 1, 8, 8, .ro, .none, 0, .id, .none, .none, false⟩
/-- `CK_ACLK_CTL_STEP_CHANGES`: R16. -/
def CK_ACLK_CTL_STEP_CHANGES : Fld := ⟨0x100040, 0, 1, 16, 16, .rc, .none, 0, .id, .none, .none, false⟩
/-- `SC_JOB_CTL_EN`: R56. -/
def SC_JOB_CTL_EN : Fld := ⟨0x800010, 0, 1, 0, 1, .rw, .live, 0, .id, .none, .none, false⟩
/-- `SC_JOB_CTL_MAX_RESTART`: R56. -/
def SC_JOB_CTL_MAX_RESTART : Fld := ⟨0x800010, 0, 1, 1, 3, .rw, .static, 3, .range 1 7, .sched, .none, false⟩
/-- `SC_JOB_CTL_WATCHDOG_MULT`: R56. -/
def SC_JOB_CTL_WATCHDOG_MULT : Fld := ⟨0x800010, 0, 1, 8, 8, .rw, .static, 4, .range 2 16, .sched, .none, false⟩
/-- `SC_JOB_CTL_WAIT_LIMIT`: R56. -/
def SC_JOB_CTL_WAIT_LIMIT : Fld := ⟨0x800010, 0, 1, 16, 16, .rw, .static, 10000, .range 100 65535, .sched, .none, false⟩
/-- `SC_DISP_STAT_ELIG_DEPTH`: R57. -/
def SC_DISP_STAT_ELIG_DEPTH : Fld := ⟨0x800018, 0, 1, 0, 17, .ro, .none, 0, .id, .none, .none, false⟩
/-- `SC_DISP_STAT_CTX_BUSY`: R57. -/
def SC_DISP_STAT_CTX_BUSY : Fld := ⟨0x800018, 0, 1, 32, 12, .ro, .none, 0, .id, .none, .none, false⟩
/-- `SC_DISP_STAT_BE_BUSY`: R57. -/
def SC_DISP_STAT_BE_BUSY : Fld := ⟨0x800018, 0, 1, 44, 10, .ro, .none, 0, .id, .none, .none, false⟩
/-- `SP_PORT_CTL_EN`: R79. -/
def SP_PORT_CTL_EN : Fld := ⟨0xa01000, 0, 1, 0, 1, .rw, .live, 0, .id, .none, .port, true⟩
/-- `SP_PORT_CTL_MODE`: R79. -/
def SP_PORT_CTL_MODE : Fld := ⟨0xa01000, 0, 1, 1, 3, .rw, .static, 0, .ge 4 0, .port, .port, false⟩
/-- `SP_PORT_CTL_FEC`: R79. -/
def SP_PORT_CTL_FEC : Fld := ⟨0xa01000, 0, 1, 4, 2, .rw, .static, 0, .ge 3 2, .port, .port, false⟩
/-- `SP_PORT_CTL_CXP_RATE`: R79. -/
def SP_PORT_CTL_CXP_RATE : Fld := ⟨0xa01000, 0, 1, 8, 4, .rw, .static, 0, .id, .port, .port, false⟩
/-- `SP_PORT_CTL_CXP_LANES`: R79. -/
def SP_PORT_CTL_CXP_LANES : Fld := ⟨0xa01000, 0, 1, 12, 2, .rw, .static, 0, .id, .port, .port, false⟩
/-- `SP_LINK_STAT_LINK_UP`: R80. -/
def SP_LINK_STAT_LINK_UP : Fld := ⟨0xa01008, 0, 1, 0, 1, .ro, .none, 0, .id, .none, .port, false⟩
/-- `SP_LINK_STAT_CFG_ERR`: R80. -/
def SP_LINK_STAT_CFG_ERR : Fld := ⟨0xa01008, 0, 1, 1, 1, .w1c, .none, 0, .id, .none, .port, false⟩
/-- `SP_LINK_STAT_FEC_DEGRADED`: R80. -/
def SP_LINK_STAT_FEC_DEGRADED : Fld := ⟨0xa01008, 0, 1, 2, 1, .ro, .none, 0, .id, .none, .port, false⟩
/-- `SP_LINK_STAT_LINK_DOWNS`: R80. -/
def SP_LINK_STAT_LINK_DOWNS : Fld := ⟨0xa01008, 0, 1, 16, 16, .rc, .none, 0, .id, .none, .port, false⟩
/-- `SP_MAC_ADDR_MAC`: R81. -/
def SP_MAC_ADDR_MAC : Fld := ⟨0xa01010, 0, 1, 0, 48, .rw, .static, 0, .id, .port, .port, false⟩
/-- `SP_IP_ADDR_IP`: R81. -/
def SP_IP_ADDR_IP : Fld := ⟨0xa01018, 0, 1, 0, 32, .rw, .static, 0, .id, .port, .port, false⟩
/-- `SP_STREAM_FILT_UDP_DST`: R81. -/
def SP_STREAM_FILT_UDP_DST : Fld := ⟨0xa01020, 0, 1, 0, 16, .rw, .static, 0, .id, .port, .port, false⟩
/-- `SP_STREAM_FILT_CXP_ID`: R81. -/
def SP_STREAM_FILT_CXP_ID : Fld := ⟨0xa01020, 0, 1, 16, 8, .rw, .static, 0, .id, .port, .port, false⟩
/-- `SP_STREAM_FILT_SRC_CHECK`: R81. -/
def SP_STREAM_FILT_SRC_CHECK : Fld := ⟨0xa01020, 0, 1, 24, 1, .rw, .static, 0, .id, .port, .port, false⟩
/-- `SP_SRC_ADDR`: R81. -/
def SP_SRC_ADDR : Fld := ⟨0xa01028, 0, 1, 0, 48, .rw, .static, 0, .id, .port, .port, false⟩
/-- `SP_RESEND_SRC`: R81. -/
def SP_RESEND_SRC : Fld := ⟨0xa01040, 0, 1, 0, 64, .rw, .live, 0, .id, .none, .port, false⟩
/-- `SP_TIMEOUT_IDLE_MS`: R81. -/
def SP_TIMEOUT_IDLE_MS : Fld := ⟨0xa01048, 0, 1, 0, 16, .rw, .live, 1000, .id, .none, .port, false⟩
/-- `SP_CTRL_RING_RING`: R81. -/
def SP_CTRL_RING_RING : Fld := ⟨0xa01050, 0, 1, 0, 21, .rw, .static, 0, .id, .port, .port, false⟩
/-- `SP_CTRL_RING_FWD_OTHER`: R81. -/
def SP_CTRL_RING_FWD_OTHER : Fld := ⟨0xa01050, 0, 1, 24, 1, .rw, .live, 0, .id, .none, .port, false⟩
/-- `SP_TX_RING_RING`: R81. -/
def SP_TX_RING_RING : Fld := ⟨0xa01058, 0, 1, 0, 21, .rw, .static, 0, .id, .port, .port, false⟩
/-- `SP_TS_ADJ_RX_LAT`: R81. -/
def SP_TS_ADJ_RX_LAT : Fld := ⟨0xa01060, 0, 1, 0, 16, .rw, .live, 0, .id, .none, .port, false⟩
/-- `SP_TS_ADJ_TX_LAT`: R81. -/
def SP_TS_ADJ_TX_LAT : Fld := ⟨0xa01060, 0, 1, 16, 16, .rw, .live, 0, .id, .none, .port, false⟩
/-- `SP_CXP_TRIG_EN`: R81. -/
def SP_CXP_TRIG_EN : Fld := ⟨0xa01068, 0, 1, 0, 1, .rw, .live, 0, .id, .none, .port, false⟩
/-- `SP_CXP_TRIG_SRC`: R81. -/
def SP_CXP_TRIG_SRC : Fld := ⟨0xa01068, 0, 1, 1, 5, .rw, .live, 0, .id, .none, .port, false⟩
/-- `SP_GVSP_CTL_EXT_ID`: R82. -/
def SP_GVSP_CTL_EXT_ID : Fld := ⟨0xa01030, 0, 1, 0, 1, .rw, .static, 0, .id, .port, .port, false⟩
/-- `SP_GVSP_CTL_MAX_GAP`: R82. -/
def SP_GVSP_CTL_MAX_GAP : Fld := ⟨0xa01030, 0, 1, 8, 8, .rw, .static, 16, .range 1 255, .port, .port, false⟩
/-- `SP_GVSP_CTL_LINES_PER_BLOCK`: R82. -/
def SP_GVSP_CTL_LINES_PER_BLOCK : Fld := ⟨0xa01030, 0, 1, 16, 16, .rw, .static, 1024, .range 1 65535, .port, .port, false⟩
/-- `SP_RESEND_CTL_EN`: R82. -/
def SP_RESEND_CTL_EN : Fld := ⟨0xa01038, 0, 1, 0, 1, .rw, .live, 0, .id, .none, .port, false⟩
/-- `SP_RESEND_CTL_RESEND_MAX`: R82. -/
def SP_RESEND_CTL_RESEND_MAX : Fld := ⟨0xa01038, 0, 1, 1, 4, .rw, .live, 2, .id, .none, .port, false⟩
/-- `SP_RESEND_CTL_RESEND_WAIT`: R82. -/
def SP_RESEND_CTL_RESEND_WAIT : Fld := ⟨0xa01038, 0, 1, 8, 8, .rw, .live, 20, .range 1 255, .none, .port, false⟩
/-- `SP_RESEND_CTL_DEADLINE`: R82. -/
def SP_RESEND_CTL_DEADLINE : Fld := ⟨0xa01038, 0, 1, 16, 16, .rw, .live, 200, .range 50 10000, .none, .port, false⟩
/-- `SP_CNT_MAC_ERR`: R83. -/
def SP_CNT_MAC_ERR : Fld := ⟨0xa01100, 0, 1, 0, 64, .rc, .none, 0, .id, .none, .port, false⟩
/-- `SP_CNT_MAC_FILT`: R83. -/
def SP_CNT_MAC_FILT : Fld := ⟨0xa01108, 0, 1, 0, 64, .rc, .none, 0, .id, .none, .port, false⟩
/-- `SP_CNT_CSUM`: R83. -/
def SP_CNT_CSUM : Fld := ⟨0xa01110, 0, 1, 0, 64, .rc, .none, 0, .id, .none, .port, false⟩
/-- `SP_CNT_MALFORMED`: R83. -/
def SP_CNT_MALFORMED : Fld := ⟨0xa01118, 0, 1, 0, 64, .rc, .none, 0, .id, .none, .port, false⟩
/-- `SP_CNT_FMT_MISMATCH`: R83. -/
def SP_CNT_FMT_MISMATCH : Fld := ⟨0xa01120, 0, 1, 0, 64, .rc, .none, 0, .id, .none, .port, false⟩
/-- `SP_CNT_DUP`: R83. -/
def SP_CNT_DUP : Fld := ⟨0xa01128, 0, 1, 0, 64, .rc, .none, 0, .id, .none, .port, false⟩
/-- `SP_CNT_OOO`: R83. -/
def SP_CNT_OOO : Fld := ⟨0xa01130, 0, 1, 0, 64, .rc, .none, 0, .id, .none, .port, false⟩
/-- `SP_CNT_LATE`: R83. -/
def SP_CNT_LATE : Fld := ⟨0xa01138, 0, 1, 0, 64, .rc, .none, 0, .id, .none, .port, false⟩
/-- `SP_CNT_DISCONT`: R83. -/
def SP_CNT_DISCONT : Fld := ⟨0xa01140, 0, 1, 0, 64, .rc, .none, 0, .id, .none, .port, false⟩
/-- `SP_CNT_RESEND_REQ`: R83. -/
def SP_CNT_RESEND_REQ : Fld := ⟨0xa01148, 0, 1, 0, 64, .rc, .none, 0, .id, .none, .port, false⟩
/-- `SP_CNT_RESEND_ACK`: R83. -/
def SP_CNT_RESEND_ACK : Fld := ⟨0xa01150, 0, 1, 0, 64, .rc, .none, 0, .id, .none, .port, false⟩
/-- `SP_CNT_RXQ_DROP`: R83. -/
def SP_CNT_RXQ_DROP : Fld := ⟨0xa01158, 0, 1, 0, 64, .rc, .none, 0, .id, .none, .port, false⟩
/-- `SP_CNT_SKEW`: R83. -/
def SP_CNT_SKEW : Fld := ⟨0xa01160, 0, 1, 0, 64, .rc, .none, 0, .id, .none, .port, false⟩
/-- `SP_CNT_FWD`: R83. -/
def SP_CNT_FWD : Fld := ⟨0xa01168, 0, 1, 0, 64, .rc, .none, 0, .id, .none, .port, false⟩
/-- `SP_CNT_CTRL_DROP`: R83. -/
def SP_CNT_CTRL_DROP : Fld := ⟨0xa01170, 0, 1, 0, 64, .rc, .none, 0, .id, .none, .port, false⟩
/-- `SP_CNT_OTHER_DROP`: R83. -/
def SP_CNT_OTHER_DROP : Fld := ⟨0xa01178, 0, 1, 0, 64, .rc, .none, 0, .id, .none, .port, false⟩
/-- `SP_CNT_TRIG_MERGED`: R83. -/
def SP_CNT_TRIG_MERGED : Fld := ⟨0xa01180, 0, 1, 0, 64, .rc, .none, 0, .id, .none, .port, false⟩
/-- `SP_CNT_RX_BYTES`: R83. -/
def SP_CNT_RX_BYTES : Fld := ⟨0xa01188, 0, 1, 0, 64, .rc, .none, 0, .id, .none, .port, false⟩
/-- `LT_CTL_EN`: R97. -/
def LT_CTL_EN : Fld := ⟨0xb00000, 0, 1, 0, 1, .rw, .live, 0, .id, .none, .none, false⟩
/-- `LT_CTL_RING`: R97. -/
def LT_CTL_RING : Fld := ⟨0xb00000, 0, 1, 8, 21, .rw, .static, 0, .id, .lt, .none, false⟩
/-- `LT_GI_LEVEL`: R97. -/
def LT_GI_LEVEL : Fld := ⟨0xb00008, 0, 1, 0, 16, .ro, .none, 0, .id, .none, .none, false⟩
/-- `LT_ENC_CTL_EN`: R97. -/
def LT_ENC_CTL_EN : Fld := ⟨0xb00100, 64, 8, 0, 1, .rw, .live, 0, .id, .none, .none, true⟩
/-- `LT_ENC_CTL_INVERT`: R97. -/
def LT_ENC_CTL_INVERT : Fld := ⟨0xb00100, 64, 8, 1, 1, .rw, .static, 0, .id, .enc, .none, false⟩
/-- `LT_ENC_CTL_FILT`: R97. -/
def LT_ENC_CTL_FILT : Fld := ⟨0xb00100, 64, 8, 2, 8, .rw, .static, 16, .range 1 255, .enc, .none, false⟩
/-- `LT_ENC_CTL_SPD_WIN`: R97. -/
def LT_ENC_CTL_SPD_WIN : Fld := ⟨0xb00100, 64, 8, 16, 16, .rw, .static, 1000, .range 10 65535, .enc, .none, false⟩
/-- `LT_ENC_CTL_REV_HYST`: R97. -/
def LT_ENC_CTL_REV_HYST : Fld := ⟨0xb00100, 64, 8, 32, 16, .rw, .live, 8, .range 1 65535, .none, .none, false⟩
/-- `LT_ENC_CTL_ERR_LIMIT`: R97. -/
def LT_ENC_CTL_ERR_LIMIT : Fld := ⟨0xb00100, 64, 8, 48, 8, .rw, .live, 4, .id, .none, .none, false⟩
/-- `LT_ENC_POS`: R97. -/
def LT_ENC_POS : Fld := ⟨0xb00108, 64, 8, 0, 64, .ro, .none, 0, .id, .none, .none, false⟩
/-- `LT_ENC_SPEED`: R97. -/
def LT_ENC_SPEED : Fld := ⟨0xb00110, 64, 8, 0, 32, .ro, .none, 0, .id, .none, .none, false⟩
/-- `LT_ENC_LIMITS_SPD_MAX`: R97. -/
def LT_ENC_LIMITS_SPD_MAX : Fld := ⟨0xb00118, 64, 8, 0, 32, .rw, .live, 4294967295, .id, .none, .none, false⟩
/-- `LT_ENC_LIMITS_STALL_US`: R97. -/
def LT_ENC_LIMITS_STALL_US : Fld := ⟨0xb00118, 64, 8, 32, 16, .rw, .live, 10000, .range 100 65535, .none, .none, false⟩
/-- `LT_ENC_LIMITS_EOS_MS`: R97. -/
def LT_ENC_LIMITS_EOS_MS : Fld := ⟨0xb00118, 64, 8, 48, 16, .rw, .live, 0, .id, .none, .none, false⟩
/-- `LT_ENC_STAT_STATE`: R97. -/
def LT_ENC_STAT_STATE : Fld := ⟨0xb00120, 64, 8, 0, 2, .ro, .none, 0, .id, .none, .none, false⟩
/-- `LT_ENC_STAT_SPD_RANGE`: R97. -/
def LT_ENC_STAT_SPD_RANGE : Fld := ⟨0xb00120, 64, 8, 2, 1, .ro, .none, 0, .id, .none, .none, false⟩
/-- `LT_ENC_STAT_FAULT`: R97. -/
def LT_ENC_STAT_FAULT : Fld := ⟨0xb00120, 64, 8, 3, 1, .w1c, .none, 0, .id, .none, .none, false⟩
/-- `LT_ENC_HWM`: R97. -/
def LT_ENC_HWM : Fld := ⟨0xb00128, 64, 8, 0, 64, .ro, .none, 0, .id, .none, .none, false⟩
/-- `LT_ENC_ERRS`: R97. -/
def LT_ENC_ERRS : Fld := ⟨0xb00130, 64, 8, 0, 32, .rc, .none, 0, .id, .none, .none, false⟩
/-- `LT_GI_CTL_EN`: R97. -/
def LT_GI_CTL_EN : Fld := ⟨0xb00800, 16, 16, 0, 1, .rw, .live, 0, .id, .none, .none, false⟩
/-- `LT_GI_CTL_POL`: R97. -/
def LT_GI_CTL_POL : Fld := ⟨0xb00800, 16, 16, 1, 1, .rw, .live, 0, .id, .none, .none, false⟩
/-- `LT_GI_CTL_FILT`: R97. -/
def LT_GI_CTL_FILT : Fld := ⟨0xb00800, 16, 16, 2, 8, .rw, .live, 10, .id, .none, .none, false⟩
/-- `LT_GI_CTL_EDGE`: R97. -/
def LT_GI_CTL_EDGE : Fld := ⟨0xb00800, 16, 16, 10, 2, .rw, .live, 0, .id, .none, .none, false⟩
/-- `LT_GI_TIME`: R97. -/
def LT_GI_TIME : Fld := ⟨0xb00808, 16, 16, 0, 64, .ro, .none, 0, .id, .none, .none, false⟩
/-- `LT_TRIG_CTL_EN`: R98. -/
def LT_TRIG_CTL_EN : Fld := ⟨0xb00400, 32, 32, 0, 1, .rw, .live, 0, .id, .none, .none, true⟩
/-- `LT_TRIG_CTL_SRC`: R98. -/
def LT_TRIG_CTL_SRC : Fld := ⟨0xb00400, 32, 32, 1, 3, .rw, .static, 0, .ge 6 0, .trig, .none, false⟩
/-- `LT_TRIG_CTL_SRC_IDX`: R98. -/
def LT_TRIG_CTL_SRC_IDX : Fld := ⟨0xb00400, 32, 32, 4, 5, .rw, .static, 0, .id, .trig, .none, false⟩
/-- `LT_TRIG_CTL_POL`: R98. -/
def LT_TRIG_CTL_POL : Fld := ⟨0xb00400, 32, 32, 9, 1, .rw, .static, 0, .id, .trig, .none, false⟩
/-- `LT_TRIG_CTL_GATE_EN`: R98. -/
def LT_TRIG_CTL_GATE_EN : Fld := ⟨0xb00400, 32, 32, 10, 1, .rw, .live, 0, .id, .none, .none, false⟩
/-- `LT_TRIG_CTL_GATE_GI`: R98. -/
def LT_TRIG_CTL_GATE_GI : Fld := ⟨0xb00400, 32, 32, 11, 4, .rw, .live, 0, .id, .none, .none, false⟩
/-- `LT_TRIG_CTL_ALIGN`: R98. -/
def LT_TRIG_CTL_ALIGN : Fld := ⟨0xb00400, 32, 32, 15, 1, .rw, .static, 0, .id, .trig, .none, false⟩
/-- `LT_TRIG_CTL_CFG_ERR`: R98. -/
def LT_TRIG_CTL_CFG_ERR : Fld := ⟨0xb00400, 32, 32, 16, 1, .w1c, .none, 0, .id, .none, .none, false⟩
/-- `LT_TRIG_FIRE`: R98. -/
def LT_TRIG_FIRE : Fld := ⟨0xb00400, 32, 32, 17, 1, .wo, .live, 0, .id, .none, .none, true⟩
/-- `LT_TRIG_PERIOD`: R98. -/
def LT_TRIG_PERIOD : Fld := ⟨0xb00408, 32, 32, 0, 32, .rw, .live, 1, .trigPeriod, .none, .none, false⟩
/-- `LT_TRIG_SHAPE_DELAY`: R98. -/
def LT_TRIG_SHAPE_DELAY : Fld := ⟨0xb00410, 32, 32, 0, 20, .rw, .live, 0, .id, .none, .none, false⟩
/-- `LT_TRIG_SHAPE_WIDTH`: R98. -/
def LT_TRIG_SHAPE_WIDTH : Fld := ⟨0xb00410, 32, 32, 32, 20, .rw, .live, 1000, .range 8 1048575, .none, .none, false⟩
/-- `LT_TRIG_CNT_PULSES`: R98. -/
def LT_TRIG_CNT_PULSES : Fld := ⟨0xb00418, 32, 32, 0, 32, .rc, .none, 0, .id, .none, .none, false⟩
/-- `LT_TRIG_CNT_MERGED`: R98. -/
def LT_TRIG_CNT_MERGED : Fld := ⟨0xb00418, 32, 32, 32, 32, .rc, .none, 0, .id, .none, .none, false⟩
/-- `LT_TB_TIME`: R98. -/
def LT_TB_TIME : Fld := ⟨0xb00a00, 0, 1, 0, 64, .ro, .none, 0, .id, .none, .none, false⟩
/-- `LT_TB_SET`: R98. -/
def LT_TB_SET : Fld := ⟨0xb00a08, 0, 1, 0, 64, .wo, .live, 0, .id, .none, .none, true⟩
/-- `LT_TB_INCR`: R98. -/
def LT_TB_INCR : Fld := ⟨0xb00a10, 0, 1, 0, 32, .rw, .live, 1073741824, .id, .none, .none, false⟩
/-- `LT_TB_ADJ`: R98. -/
def LT_TB_ADJ : Fld := ⟨0xb00a18, 0, 1, 0, 32, .wo, .live, 0, .id, .none, .none, true⟩
/-- `LT_STREAM_LINK_EN`: R98. -/
def LT_STREAM_LINK_EN : Fld := ⟨0xb00c00, 16, 64, 0, 1, .rw, .static, 0, .id, .stream, .none, false⟩
/-- `LT_STREAM_LINK_ENC`: R98. -/
def LT_STREAM_LINK_ENC : Fld := ⟨0xb00c00, 16, 64, 1, 3, .rw, .static, 0, .id, .stream, .none, false⟩
/-- `LT_STREAM_LINK_TRIG`: R98. -/
def LT_STREAM_LINK_TRIG : Fld := ⟨0xb00c00, 16, 64, 4, 5, .rw, .static, 0, .id, .stream, .none, false⟩
/-- `LT_STREAM_LINK_TRIG_EN`: R98. -/
def LT_STREAM_LINK_TRIG_EN : Fld := ⟨0xb00c00, 16, 64, 9, 1, .rw, .static, 0, .id, .stream, .none, false⟩
/-- `LT_STREAM_LINK_PRESENT_GI`: R98. -/
def LT_STREAM_LINK_PRESENT_GI : Fld := ⟨0xb00c00, 16, 64, 10, 4, .rw, .static, 0, .id, .stream, .none, false⟩
/-- `LT_STREAM_LINK_PRESENT_EN`: R98. -/
def LT_STREAM_LINK_PRESENT_EN : Fld := ⟨0xb00c00, 16, 64, 14, 1, .rw, .static, 0, .id, .stream, .none, false⟩
/-- `LT_STREAM_LINK_WELD_GI`: R98. -/
def LT_STREAM_LINK_WELD_GI : Fld := ⟨0xb00c00, 16, 64, 15, 4, .rw, .static, 0, .id, .stream, .none, false⟩
/-- `LT_STREAM_LINK_WELD_EN`: R98. -/
def LT_STREAM_LINK_WELD_EN : Fld := ⟨0xb00c00, 16, 64, 19, 1, .rw, .static, 0, .id, .stream, .none, false⟩
/-- `LT_STREAM_LINK_EOS_FLUSH`: R98. -/
def LT_STREAM_LINK_EOS_FLUSH : Fld := ⟨0xb00c00, 16, 64, 20, 1, .rw, .static, 1, .id, .stream, .none, false⟩
/-- `LT_STREAM_LINK_WELD_FLUSH`: R98. -/
def LT_STREAM_LINK_WELD_FLUSH : Fld := ⟨0xb00c00, 16, 64, 21, 1, .rw, .static, 0, .id, .stream, .none, false⟩
/-- `LT_STREAM_LAT_LAT`: R98. -/
def LT_STREAM_LAT_LAT : Fld := ⟨0xb00c08, 16, 64, 0, 16, .rw, .live, 0, .id, .none, .none, false⟩
/-- `LT_STREAM_LAT_MAX_LAT`: R98. -/
def LT_STREAM_LAT_MAX_LAT : Fld := ⟨0xb00c08, 16, 64, 16, 16, .rw, .live, 100, .range 1 65535, .none, .none, false⟩
/-- `LT_STREAM_LAT_FALLBACKS`: R98. -/
def LT_STREAM_LAT_FALLBACKS : Fld := ⟨0xb00c08, 16, 64, 32, 32, .rc, .none, 0, .id, .none, .none, false⟩
/-- `IG_CTL_EN`: R121. -/
def IG_CTL_EN : Fld := ⟨0xc00000, 0, 1, 0, 1, .rw, .live, 0, .id, .none, .none, true⟩
/-- `IG_CTL_RING`: R121. -/
def IG_CTL_RING : Fld := ⟨0xc00000, 0, 1, 8, 21, .rw, .static, 0, .id, .ingest, .none, false⟩
/-- `IG_RET_BASE`: R121. -/
def IG_RET_BASE : Fld := ⟨0xc00008, 0, 1, 0, 48, .rw, .static, 0, .align 16, .ingest, .none, false⟩
/-- `IG_RET_SIZE`: R121. -/
def IG_RET_SIZE : Fld := ⟨0xc00010, 0, 1, 0, 36, .rw, .static, 4294967296, .alignRange 16 0x4000000 0x800000000, .ingest, .none, false⟩
/-- `IG_STAT_SRAM_BLOCKS`: R121. -/
def IG_STAT_SRAM_BLOCKS : Fld := ⟨0xc00018, 0, 1, 0, 19, .ro, .none, 0, .id, .none, .none, false⟩
/-- `IG_STAT_RET_UNITS`: R121. -/
def IG_STAT_RET_UNITS : Fld := ⟨0xc00018, 0, 1, 32, 24, .ro, .none, 0, .id, .none, .none, false⟩
/-- `IG_SRAM_HWM`: R121. -/
def IG_SRAM_HWM : Fld := ⟨0xc00020, 0, 1, 0, 19, .rc, .none, 0, .id, .none, .none, false⟩
/-- `IG_RET_STALL`: R121. -/
def IG_RET_STALL : Fld := ⟨0xc00028, 0, 1, 0, 64, .rc, .none, 0, .id, .none, .none, false⟩
/-- `IG_STREAM_FMT_BITS`: R121. -/
def IG_STREAM_FMT_BITS : Fld := ⟨0xc01000, 64, 64, 0, 5, .rw, .static, 12, .id, .stream, .none, false⟩
/-- `IG_STREAM_FMT_PACKED`: R121. -/
def IG_STREAM_FMT_PACKED : Fld := ⟨0xc01000, 64, 64, 5, 1, .rw, .static, 1, .id, .stream, .none, false⟩
/-- `IG_STREAM_FMT_BAYER`: R121. -/
def IG_STREAM_FMT_BAYER : Fld := ⟨0xc01000, 64, 64, 6, 3, .rw, .static, 0, .id, .stream, .none, false⟩
/-- `IG_STREAM_FMT_FILL`: R121. -/
def IG_STREAM_FMT_FILL : Fld := ⟨0xc01000, 64, 64, 9, 1, .rw, .static, 1, .id, .stream, .none, false⟩
/-- `IG_STREAM_FMT_WIDTH`: R121. -/
def IG_STREAM_FMT_WIDTH : Fld := ⟨0xc01000, 64, 64, 32, 16, .rw, .static, 4096, .id, .stream, .none, false⟩
/-- `IG_STREAM_GEOM_SEG`: R121. -/
def IG_STREAM_GEOM_SEG : Fld := ⟨0xc01008, 64, 64, 0, 13, .rw, .static, 1024, .id, .stream, .none, false⟩
/-- `IG_STREAM_GEOM_HCODE`: R121. -/
def IG_STREAM_GEOM_HCODE : Fld := ⟨0xc01008, 64, 64, 16, 3, .rw, .static, 0, .id, .stream, .none, false⟩
/-- `IG_STREAM_GEOM_EPOCH_K`: R121. -/
def IG_STREAM_GEOM_EPOCH_K : Fld := ⟨0xc01008, 64, 64, 32, 10, .rw, .static, 63, .id, .stream, .none, false⟩
/-- `IG_STREAM_STAT_SRAM_BLOCKS`: R121. -/
def IG_STREAM_STAT_SRAM_BLOCKS : Fld := ⟨0xc01010, 64, 64, 0, 19, .ro, .none, 0, .id, .none, .none, false⟩
/-- `IG_STREAM_STAT_RET_UNITS`: R121. -/
def IG_STREAM_STAT_RET_UNITS : Fld := ⟨0xc01010, 64, 64, 32, 24, .ro, .none, 0, .id, .none, .none, false⟩
/-- `IG_CNT_OVERBITS`: R121. -/
def IG_CNT_OVERBITS : Fld := ⟨0xc01018, 64, 64, 0, 64, .rc, .none, 0, .id, .none, .none, false⟩
/-- `IG_CNT_HOST_WAIT`: R121. -/
def IG_CNT_HOST_WAIT : Fld := ⟨0xc01020, 64, 64, 0, 64, .rc, .none, 0, .id, .none, .none, false⟩
/-- `BE_CTL_EN`: R122. -/
def BE_CTL_EN : Fld := ⟨0xd01000, 0, 1, 0, 1, .rw, .live, 0, .id, .none, .be, true⟩
/-- `BE_CTL_STREAM`: R122. -/
def BE_CTL_STREAM : Fld := ⟨0xd01000, 0, 1, 1, 6, .rw, .static, 0, .id, .be, .be, false⟩
/-- `BE_CTL_CFG_ERR`: R122. -/
def BE_CTL_CFG_ERR : Fld := ⟨0xd01000, 0, 1, 7, 1, .w1c, .none, 0, .id, .none, .be, false⟩
/-- `BE_TBL_LOAD`: R122. -/
def BE_TBL_LOAD : Fld := ⟨0xd01008, 0, 1, 0, 48, .wo, .live, 0, .id, .none, .be, true⟩
/-- `BE_TBL_SWAP`: R122. -/
def BE_TBL_SWAP : Fld := ⟨0xd01010, 0, 1, 0, 1, .wo, .epoch, 0, .id, .none, .be, true⟩
/-- `BE_TBL_STAT_READY`: R122. -/
def BE_TBL_STAT_READY : Fld := ⟨0xd01018, 0, 1, 0, 1, .ro, .none, 0, .id, .none, .be, false⟩
/-- `BE_TBL_STAT_LOADING`: R122. -/
def BE_TBL_STAT_LOADING : Fld := ⟨0xd01018, 0, 1, 1, 1, .ro, .none, 0, .id, .none, .be, false⟩
/-- `BE_TBL_STAT_OLD_BUSY`: R122. -/
def BE_TBL_STAT_OLD_BUSY : Fld := ⟨0xd01018, 0, 1, 2, 1, .ro, .none, 0, .id, .none, .be, false⟩
/-- `BE_TBL_STAT_LOAD_ERR`: R122. -/
def BE_TBL_STAT_LOAD_ERR : Fld := ⟨0xd01018, 0, 1, 3, 1, .w1c, .none, 0, .id, .none, .be, false⟩
/-- `BE_TBL_STAT_SWAP_ERR`: R122. -/
def BE_TBL_STAT_SWAP_ERR : Fld := ⟨0xd01018, 0, 1, 4, 1, .w1c, .none, 0, .id, .none, .be, false⟩
/-- `BE_TBL_STAT_VERSION`: R122. -/
def BE_TBL_STAT_VERSION : Fld := ⟨0xd01018, 0, 1, 32, 32, .ro, .none, 0, .id, .none, .be, false⟩
/-- `BE_CNT_JOBS`: R122. -/
def BE_CNT_JOBS : Fld := ⟨0xd01100, 0, 1, 0, 64, .rc, .none, 0, .id, .none, .be, false⟩
/-- `BE_CNT_SAT`: R122. -/
def BE_CNT_SAT : Fld := ⟨0xd01108, 0, 1, 0, 64, .rc, .none, 0, .id, .none, .be, false⟩
/-- `BE_CNT_NOREPL`: R122. -/
def BE_CNT_NOREPL : Fld := ⟨0xd01110, 0, 1, 0, 64, .rc, .none, 0, .id, .none, .be, false⟩
/-- `BE_CNT_PARITY`: R122. -/
def BE_CNT_PARITY : Fld := ⟨0xd01118, 0, 1, 0, 64, .rc, .none, 0, .id, .none, .be, false⟩
/-- `BE_CNT_BUSY`: R122. -/
def BE_CNT_BUSY : Fld := ⟨0xd01120, 0, 1, 0, 64, .rc, .none, 0, .id, .none, .be, false⟩
/-- `TA_SEL_INDEX`: R153. -/
def TA_SEL_INDEX : Fld := ⟨0xf00000, 0, 1, 0, 9, .rw, .live, 0, .id, .none, .req, false⟩
/-- `TA_SEL_PHYS`: R153. -/
def TA_SEL_PHYS : Fld := ⟨0xf00000, 0, 1, 15, 1, .rw, .live, 0, .id, .none, .req, false⟩
/-- `TA_GRID_ROWS`: R154. -/
def TA_GRID_ROWS : Fld := ⟨0xf00008, 0, 1, 0, 5, .ro, .none, 0, .id, .none, .none, false⟩
/-- `TA_GRID_ENABLED`: R154. -/
def TA_GRID_ENABLED : Fld := ⟨0xf00008, 0, 1, 16, 9, .ro, .none, 0, .id, .none, .none, false⟩
/-- `TA_COL_MAP_DISABLED`: R154. -/
def TA_COL_MAP_DISABLED : Fld := ⟨0xf00100, 8, 16, 0, 17, .ro, .none, 0, .id, .none, .none, false⟩
/-- `TA_TILE_MAP_COL`: R155. -/
def TA_TILE_MAP_COL : Fld := ⟨0xf01000, 0, 1, 0, 4, .ro, .none, 0, .id, .none, .tile, false⟩
/-- `TA_TILE_MAP_ROW`: R155. -/
def TA_TILE_MAP_ROW : Fld := ⟨0xf01000, 0, 1, 4, 5, .ro, .none, 0, .id, .none, .tile, false⟩
/-- `TA_TILE_MAP_LOGICAL`: R155. -/
def TA_TILE_MAP_LOGICAL : Fld := ⟨0xf01000, 0, 1, 9, 9, .ro, .none, 511, .id, .none, .tile, false⟩
/-- `TA_TILE_MAP_STATE`: R155. -/
def TA_TILE_MAP_STATE : Fld := ⟨0xf01000, 0, 1, 18, 3, .ro, .none, 0, .id, .none, .tile, false⟩
/-- `TA_TILE_CTL_DISP_EN`: R155. -/
def TA_TILE_CTL_DISP_EN : Fld := ⟨0xf01008, 0, 1, 0, 1, .rw, .live, 1, .id, .none, .tile, false⟩
/-- `TA_TILE_CTL_PREDICT_EN`: R155. -/
def TA_TILE_CTL_PREDICT_EN : Fld := ⟨0xf01008, 0, 1, 1, 1, .rw, .static, 1, .id, .tile, .tile, false⟩
/-- `TA_TILE_CTL_DUAL_EN`: R155. -/
def TA_TILE_CTL_DUAL_EN : Fld := ⟨0xf01008, 0, 1, 2, 1, .rw, .static, 1, .id, .tile, .tile, false⟩
/-- `TA_TILE_CTL_LOOPBUF_EN`: R155. -/
def TA_TILE_CTL_LOOPBUF_EN : Fld := ⟨0xf01008, 0, 1, 3, 1, .rw, .static, 1, .id, .tile, .tile, false⟩
/-- `TA_TASK_SUMMARY_HELD`: R155. -/
def TA_TASK_SUMMARY_HELD : Fld := ⟨0xf01010, 0, 1, 0, 8, .ro, .none, 0, .id, .none, .tile, false⟩
/-- `TA_TASK_SUMMARY_READY`: R155. -/
def TA_TASK_SUMMARY_READY : Fld := ⟨0xf01010, 0, 1, 8, 8, .ro, .none, 0, .id, .none, .tile, false⟩
/-- `TA_TASK_SUMMARY_WAITING`: R155. -/
def TA_TASK_SUMMARY_WAITING : Fld := ⟨0xf01010, 0, 1, 16, 8, .ro, .none, 0, .id, .none, .tile, false⟩
/-- `TA_TASK_SUMMARY_RUNNING`: R155. -/
def TA_TASK_SUMMARY_RUNNING : Fld := ⟨0xf01010, 0, 1, 24, 3, .ro, .none, 0, .id, .none, .tile, false⟩
/-- `TA_TASK_SUMMARY_RUN_VALID`: R155. -/
def TA_TASK_SUMMARY_RUN_VALID : Fld := ⟨0xf01010, 0, 1, 27, 1, .ro, .none, 0, .id, .none, .tile, false⟩
/-- `TA_TASK_JOB`: R156. -/
def TA_TASK_JOB : Fld := ⟨0xf01040, 16, 8, 0, 64, .ro, .none, 0, .id, .none, .tile, false⟩
/-- `TA_TASK_STAT_STATE`: R156. -/
def TA_TASK_STAT_STATE : Fld := ⟨0xf01048, 16, 8, 0, 3, .ro, .none, 0, .id, .none, .tile, false⟩
/-- `TA_TASK_STAT_WAIT`: R156. -/
def TA_TASK_STAT_WAIT : Fld := ⟨0xf01048, 16, 8, 4, 3, .ro, .none, 0, .id, .none, .tile, false⟩
/-- `TA_TASK_STAT_ATTEMPT`: R156. -/
def TA_TASK_STAT_ATTEMPT : Fld := ⟨0xf01048, 16, 8, 8, 8, .ro, .none, 0, .id, .none, .tile, false⟩
/-- `TA_TASK_STAT_SOLSTICE`: R156. -/
def TA_TASK_STAT_SOLSTICE : Fld := ⟨0xf01048, 16, 8, 16, 1, .ro, .none, 0, .id, .none, .tile, false⟩
/-- `TA_TASK_STAT_LONG`: R156. -/
def TA_TASK_STAT_LONG : Fld := ⟨0xf01048, 16, 8, 17, 1, .ro, .none, 0, .id, .none, .tile, false⟩
/-- `TA_TASK_STAT_PC`: R156. -/
def TA_TASK_STAT_PC : Fld := ⟨0xf01048, 16, 8, 32, 32, .ro, .none, 0, .id, .none, .tile, false⟩
/-- `TA_CNT_BUNDLES`: R157. -/
def TA_CNT_BUNDLES : Fld := ⟨0xf01100, 0, 1, 0, 64, .rc, .none, 0, .id, .none, .tile, false⟩
/-- `TA_CNT_DUAL`: R157. -/
def TA_CNT_DUAL : Fld := ⟨0xf01108, 0, 1, 0, 64, .rc, .none, 0, .id, .none, .tile, false⟩
/-- `TA_CNT_ACTIVE`: R157. -/
def TA_CNT_ACTIVE : Fld := ⟨0xf01110, 0, 1, 0, 64, .rc, .none, 0, .id, .none, .tile, false⟩
/-- `TA_CNT_IDLE`: R157. -/
def TA_CNT_IDLE : Fld := ⟨0xf01118, 0, 1, 0, 64, .rc, .none, 0, .id, .none, .tile, false⟩
/-- `TA_CNT_SWITCH`: R157. -/
def TA_CNT_SWITCH : Fld := ⟨0xf01120, 0, 1, 0, 64, .rc, .none, 0, .id, .none, .tile, false⟩
/-- `TA_CNT_SWITCH_CYC`: R157. -/
def TA_CNT_SWITCH_CYC : Fld := ⟨0xf01128, 0, 1, 0, 64, .rc, .none, 0, .id, .none, .tile, false⟩
/-- `TA_CNT_STALL`: R157. -/
def TA_CNT_STALL : Fld := ⟨0xf01130, 0, 1, 0, 64, .rc, .none, 0, .id, .none, .tile, false⟩
/-- `TA_CNT_SB_FWD`: R157. -/
def TA_CNT_SB_FWD : Fld := ⟨0xf01138, 0, 1, 0, 64, .rc, .none, 0, .id, .none, .tile, false⟩
/-- `TA_CNT_SB_PARTIAL`: R157. -/
def TA_CNT_SB_PARTIAL : Fld := ⟨0xf01140, 0, 1, 0, 64, .rc, .none, 0, .id, .none, .tile, false⟩
/-- `TA_CNT_IC_MISS`: R157. -/
def TA_CNT_IC_MISS : Fld := ⟨0xf01148, 0, 1, 0, 64, .rc, .none, 0, .id, .none, .tile, false⟩
/-- `TA_CNT_BR_MISS`: R157. -/
def TA_CNT_BR_MISS : Fld := ⟨0xf01150, 0, 1, 0, 64, .rc, .none, 0, .id, .none, .tile, false⟩
/-- `TA_CNT_TS_STALL`: R157. -/
def TA_CNT_TS_STALL : Fld := ⟨0xf01158, 0, 1, 0, 64, .rc, .none, 0, .id, .none, .tile, false⟩
/-- `TA_CNT_IPARITY`: R157. -/
def TA_CNT_IPARITY : Fld := ⟨0xf01160, 0, 1, 0, 64, .rc, .none, 0, .id, .none, .tile, false⟩
/-- `TA_MX_STAT_QDEPTH`: R224. -/
def TA_MX_STAT_QDEPTH : Fld := ⟨0xf01300, 0, 1, 0, 5, .ro, .none, 0, .id, .none, .tile, false⟩
/-- `TA_MX_STAT_BANKS_BUSY`: R224. -/
def TA_MX_STAT_BANKS_BUSY : Fld := ⟨0xf01300, 0, 1, 5, 2, .ro, .none, 0, .id, .none, .tile, false⟩
/-- `TA_MX_STAT_CB_VALID`: R224. -/
def TA_MX_STAT_CB_VALID : Fld := ⟨0xf01300, 0, 1, 8, 8, .ro, .none, 0, .id, .none, .tile, false⟩
/-- `TA_MX_CTL_INJECT`: R224. -/
def TA_MX_CTL_INJECT : Fld := ⟨0xf01308, 0, 1, 0, 1, .wo, .live, 0, .id, .none, .tile, true⟩
/-- `TA_MX_CMDS`: R225. -/
def TA_MX_CMDS : Fld := ⟨0xf01310, 0, 1, 0, 64, .rc, .none, 0, .id, .none, .tile, false⟩
/-- `TA_MX_BLOCKS`: R225. -/
def TA_MX_BLOCKS : Fld := ⟨0xf01318, 0, 1, 0, 64, .rc, .none, 0, .id, .none, .tile, false⟩
/-- `TA_MX_KCYC`: R225. -/
def TA_MX_KCYC : Fld := ⟨0xf01320, 0, 1, 0, 64, .rc, .none, 0, .id, .none, .tile, false⟩
/-- `TA_MX_BANKWAIT`: R225. -/
def TA_MX_BANKWAIT : Fld := ⟨0xf01328, 0, 1, 0, 64, .rc, .none, 0, .id, .none, .tile, false⟩
/-- `TA_MX_QFULL`: R225. -/
def TA_MX_QFULL : Fld := ⟨0xf01330, 0, 1, 0, 64, .rc, .none, 0, .id, .none, .tile, false⟩
/-- `TA_MX_SAT`: R225. -/
def TA_MX_SAT : Fld := ⟨0xf01338, 0, 1, 0, 64, .rc, .none, 0, .id, .none, .tile, false⟩
/-- `TA_MX_NONFINITE`: R225. -/
def TA_MX_NONFINITE : Fld := ⟨0xf01340, 0, 1, 0, 64, .rc, .none, 0, .id, .none, .tile, false⟩
/-- `TA_MX_SKEW`: R225. -/
def TA_MX_SKEW : Fld := ⟨0xf01348, 0, 1, 0, 64, .rc, .none, 0, .id, .none, .tile, false⟩
/-- `TA_MX_RESIDUE`: R225. -/
def TA_MX_RESIDUE : Fld := ⟨0xf01350, 0, 1, 0, 64, .rc, .none, 0, .id, .none, .tile, false⟩
/-- `IG_STREAM_DRIFT_LAG`: R244. -/
def IG_STREAM_DRIFT_LAG : Fld := ⟨0xc01028, 64, 64, 0, 4, .rw, .static, 4, .range 1 8, .stream, .none, false⟩
/-- `SC_DRIFT_STAT_PENDING`: R247. -/
def SC_DRIFT_STAT_PENDING : Fld := ⟨0x800040, 0, 1, 0, 16, .ro, .none, 0, .id, .none, .none, false⟩
/-- `SC_DRIFT_STAT_TRAILS`: R247. -/
def SC_DRIFT_STAT_TRAILS : Fld := ⟨0x800040, 0, 1, 16, 16, .ro, .none, 0, .id, .none, .none, false⟩
/-- `SC_DRIFT_WAIT`: R247. -/
def SC_DRIFT_WAIT : Fld := ⟨0x800048, 0, 1, 0, 64, .rc, .none, 0, .id, .none, .none, false⟩
/-- `SC_DRIFT_EVENTS`: R247. -/
def SC_DRIFT_EVENTS : Fld := ⟨0x800050, 0, 1, 0, 64, .rc, .none, 0, .id, .none, .none, false⟩
/-- `SC_DRIFT_PINNED`: R247. -/
def SC_DRIFT_PINNED : Fld := ⟨0x800058, 0, 1, 0, 64, .rc, .none, 0, .id, .none, .none, false⟩
/-- `TA_SLOT_CTL_EN`: R287. -/
def TA_SLOT_CTL_EN : Fld := ⟨0xf01018, 0, 1, 0, 1, .rw, .static, 1, .id, .tile, .tile, false⟩
/-- `TA_CNT_WPORT_WAIT`: R288. -/
def TA_CNT_WPORT_WAIT : Fld := ⟨0xf01168, 0, 1, 0, 64, .rc, .none, 0, .id, .none, .tile, false⟩
/-- `TA_CNT_WIDE_WAIT`: R288. -/
def TA_CNT_WIDE_WAIT : Fld := ⟨0xf01170, 0, 1, 0, 64, .rc, .none, 0, .id, .none, .tile, false⟩
/-- `TA_CNT_SP_PARITY`: R288. -/
def TA_CNT_SP_PARITY : Fld := ⟨0xf01178, 0, 1, 0, 64, .rc, .none, 0, .id, .none, .tile, false⟩
/-- `TA_CNT_GROW`: R288. -/
def TA_CNT_GROW : Fld := ⟨0xf01180, 0, 1, 0, 64, .rc, .none, 0, .id, .none, .tile, false⟩
/-- `TA_CNT_ABSENT`: R288. -/
def TA_CNT_ABSENT : Fld := ⟨0xf01188, 0, 1, 0, 64, .rc, .none, 0, .id, .none, .tile, false⟩
/-- `TA_CNT_SLOTPROT`: R288. -/
def TA_CNT_SLOTPROT : Fld := ⟨0xf01190, 0, 1, 0, 64, .rc, .none, 0, .id, .none, .tile, false⟩
/-- `SY_CTL_EN`: R289. -/
def SY_CTL_EN : Fld := ⟨0x700000, 0, 1, 0, 1, .rw, .live, 0, .id, .none, .none, false⟩
/-- `SY_STAT_OBJECTS`: R289. -/
def SY_STAT_OBJECTS : Fld := ⟨0x700008, 0, 1, 0, 15, .ro, .none, 0, .id, .none, .none, false⟩
/-- `SY_STAT_QUEUES`: R289. -/
def SY_STAT_QUEUES : Fld := ⟨0x700008, 0, 1, 16, 13, .ro, .none, 0, .id, .none, .none, false⟩
/-- `SY_STAT_SLOTS`: R289. -/
def SY_STAT_SLOTS : Fld := ⟨0x700008, 0, 1, 32, 17, .ro, .none, 0, .id, .none, .none, false⟩
/-- `SY_STAT_OVF`: R289. -/
def SY_STAT_OVF : Fld := ⟨0x700008, 0, 1, 49, 1, .w1c, .none, 0, .id, .none, .none, false⟩
/-- `SY_WAITERS_USED`: R289. -/
def SY_WAITERS_USED : Fld := ⟨0x700010, 0, 1, 0, 14, .ro, .none, 0, .id, .none, .none, false⟩
/-- `SY_WAITERS_HWM`: R289. -/
def SY_WAITERS_HWM : Fld := ⟨0x700010, 0, 1, 16, 14, .rc, .none, 0, .id, .none, .none, false⟩
/-- `SY_CNT_ADDS`: R289. -/
def SY_CNT_ADDS : Fld := ⟨0x700100, 0, 1, 0, 64, .rc, .none, 0, .id, .none, .none, false⟩
/-- `SY_CNT_WAKES`: R289. -/
def SY_CNT_WAKES : Fld := ⟨0x700108, 0, 1, 0, 64, .rc, .none, 0, .id, .none, .none, false⟩
/-- `SY_CNT_PUSHES`: R289. -/
def SY_CNT_PUSHES : Fld := ⟨0x700110, 0, 1, 0, 64, .rc, .none, 0, .id, .none, .none, false⟩
/-- `SY_CNT_POPS`: R289. -/
def SY_CNT_POPS : Fld := ⟨0x700118, 0, 1, 0, 64, .rc, .none, 0, .id, .none, .none, false⟩
/-- `SY_CNT_CREDIT_WAIT`: R289. -/
def SY_CNT_CREDIT_WAIT : Fld := ⟨0x700120, 0, 1, 0, 64, .rc, .none, 0, .id, .none, .none, false⟩
/-- `SY_OBJ_COUNT`: R289. -/
def SY_OBJ_COUNT : Fld := ⟨0x720000, 8, 16384, 0, 64, .ro, .none, 0, .id, .none, .none, false⟩
/-- `SY_OBJ_CFG_KIND`: R289. -/
def SY_OBJ_CFG_KIND : Fld := ⟨0x740000, 8, 16384, 0, 2, .ro, .none, 0, .id, .none, .none, false⟩
/-- `SY_OBJ_CFG_ALLOC`: R289. -/
def SY_OBJ_CFG_ALLOC : Fld := ⟨0x740000, 8, 16384, 2, 1, .ro, .none, 0, .id, .none, .none, false⟩
/-- `SY_OBJ_CFG_WAITERS`: R289. -/
def SY_OBJ_CFG_WAITERS : Fld := ⟨0x740000, 8, 16384, 3, 8, .ro, .none, 0, .id, .none, .none, false⟩
/-- `SY_Q_STAT_HEAD`: R289. -/
def SY_Q_STAT_HEAD : Fld := ⟨0x760000, 8, 4096, 0, 12, .ro, .none, 0, .id, .none, .none, false⟩
/-- `SY_Q_STAT_TAIL`: R289. -/
def SY_Q_STAT_TAIL : Fld := ⟨0x760000, 8, 4096, 16, 12, .ro, .none, 0, .id, .none, .none, false⟩
/-- `SY_Q_STAT_FULL`: R289. -/
def SY_Q_STAT_FULL : Fld := ⟨0x760000, 8, 4096, 32, 13, .ro, .none, 0, .id, .none, .none, false⟩
/-- `SY_Q_STAT_KIND`: R289. -/
def SY_Q_STAT_KIND : Fld := ⟨0x760000, 8, 4096, 45, 2, .ro, .none, 0, .id, .none, .none, false⟩
/-- `SY_Q_STAT_PROD_ATT`: R289. -/
def SY_Q_STAT_PROD_ATT : Fld := ⟨0x760000, 8, 4096, 47, 1, .ro, .none, 0, .id, .none, .none, false⟩
/-- `SY_Q_STAT_CONS_ATT`: R289. -/
def SY_Q_STAT_CONS_ATT : Fld := ⟨0x760000, 8, 4096, 48, 1, .ro, .none, 0, .id, .none, .none, false⟩
/-- `SE_ENG_CTL_EN`: R314. -/
def SE_ENG_CTL_EN : Fld := ⟨0xe01000, 0, 1, 0, 1, .rw, .live, 0, .id, .none, .se, false⟩
/-- `SE_ENG_CTL_EVT_RING`: R314. -/
def SE_ENG_CTL_EVT_RING : Fld := ⟨0xe01000, 0, 1, 8, 21, .rw, .static, 0, .id, .se, .se, false⟩
/-- `SE_ENG_STAT_CTX_BUSY`: R314. -/
def SE_ENG_STAT_CTX_BUSY : Fld := ⟨0xe01008, 0, 1, 0, 7, .ro, .none, 0, .id, .none, .se, false⟩
/-- `SE_ENG_STAT_OUTSTANDING`: R314. -/
def SE_ENG_STAT_OUTSTANDING : Fld := ⟨0xe01008, 0, 1, 16, 11, .ro, .none, 0, .id, .none, .se, false⟩
/-- `SE_BW_HRD_RATE`: R314. -/
def SE_BW_HRD_RATE : Fld := ⟨0xe01010, 0, 1, 0, 16, .rw, .live, 0, .id, .none, .se, false⟩
/-- `SE_BW_HRD_BURST`: R314. -/
def SE_BW_HRD_BURST : Fld := ⟨0xe01010, 0, 1, 16, 16, .rw, .live, 64, .range 4 65535, .none, .se, false⟩
/-- `SE_BW_HWR_RATE`: R314. -/
def SE_BW_HWR_RATE : Fld := ⟨0xe01018, 0, 1, 0, 16, .rw, .live, 0, .id, .none, .se, false⟩
/-- `SE_BW_HWR_BURST`: R314. -/
def SE_BW_HWR_BURST : Fld := ⟨0xe01018, 0, 1, 16, 16, .rw, .live, 64, .range 4 65535, .none, .se, false⟩
/-- `SE_BW_PWR_RATE`: R314. -/
def SE_BW_PWR_RATE : Fld := ⟨0xe01020, 0, 1, 0, 16, .rw, .live, 0, .id, .none, .se, false⟩
/-- `SE_BW_PWR_BURST`: R314. -/
def SE_BW_PWR_BURST : Fld := ⟨0xe01020, 0, 1, 16, 16, .rw, .live, 64, .range 4 65535, .none, .se, false⟩
/-- `SE_CTX_ARM`: R315. -/
def SE_CTX_ARM : Fld := ⟨0xe02000, 64, 64, 0, 48, .wo, .live, 0, .id, .none, .se, true⟩
/-- `SE_CTX_STAT_STATE`: R315. -/
def SE_CTX_STAT_STATE : Fld := ⟨0xe02008, 64, 64, 0, 3, .ro, .none, 0, .id, .none, .se, false⟩
/-- `SE_CTX_STAT_SHADOW`: R315. -/
def SE_CTX_STAT_SHADOW : Fld := ⟨0xe02008, 64, 64, 3, 1, .ro, .none, 0, .id, .none, .se, false⟩
/-- `SE_CTX_STAT_REARM_REJ`: R315. -/
def SE_CTX_STAT_REARM_REJ : Fld := ⟨0xe02008, 64, 64, 4, 1, .w1c, .none, 0, .id, .none, .se, false⟩
/-- `SE_CTX_STAT_HOLDER`: R315. -/
def SE_CTX_STAT_HOLDER : Fld := ⟨0xe02008, 64, 64, 5, 2, .ro, .none, 0, .id, .none, .se, false⟩
/-- `SE_CTX_STAT_ATTEMPT`: R315. -/
def SE_CTX_STAT_ATTEMPT : Fld := ⟨0xe02008, 64, 64, 8, 8, .ro, .none, 0, .id, .none, .se, false⟩
/-- `SE_CTX_STAT_OUT`: R315. -/
def SE_CTX_STAT_OUT : Fld := ⟨0xe02008, 64, 64, 16, 11, .ro, .none, 0, .id, .none, .se, false⟩
/-- `SE_CTX_STAT_LAST`: R315. -/
def SE_CTX_STAT_LAST : Fld := ⟨0xe02008, 64, 64, 32, 8, .ro, .none, 0, .id, .none, .se, false⟩
/-- `SE_CTX_JOB`: R315. -/
def SE_CTX_JOB : Fld := ⟨0xe02010, 64, 64, 0, 64, .ro, .none, 0, .id, .none, .se, false⟩
/-- `SE_CTX_DESC`: R315. -/
def SE_CTX_DESC : Fld := ⟨0xe02018, 64, 64, 0, 48, .ro, .none, 0, .id, .none, .se, false⟩
/-- `SE_CTX_POS`: R315. -/
def SE_CTX_POS : Fld := ⟨0xe02020, 64, 64, 0, 48, .ro, .none, 0, .id, .none, .se, false⟩
/-- `SE_CTX_POS_OFS`: R315. -/
def SE_CTX_POS_OFS : Fld := ⟨0xe02028, 64, 64, 0, 20, .ro, .none, 0, .id, .none, .se, false⟩
/-- `SE_CTX_CMD_CANCEL`: R315. -/
def SE_CTX_CMD_CANCEL : Fld := ⟨0xe02030, 64, 64, 0, 1, .wo, .live, 0, .id, .none, .se, true⟩
/-- `SE_CTX_CMD_RESUME`: R315. -/
def SE_CTX_CMD_RESUME : Fld := ⟨0xe02030, 64, 64, 1, 1, .wo, .live, 0, .id, .none, .se, true⟩
/-- `SE_CNT_DESC`: R316. -/
def SE_CNT_DESC : Fld := ⟨0xe01100, 0, 1, 0, 64, .rc, .none, 0, .id, .none, .se, false⟩
/-- `SE_CNT_RD_BYTES`: R316. -/
def SE_CNT_RD_BYTES : Fld := ⟨0xe01108, 0, 1, 0, 64, .rc, .none, 0, .id, .none, .se, false⟩
/-- `SE_CNT_WR_BYTES`: R316. -/
def SE_CNT_WR_BYTES : Fld := ⟨0xe01110, 0, 1, 0, 64, .rc, .none, 0, .id, .none, .se, false⟩
/-- `SE_CNT_PARTIAL`: R316. -/
def SE_CNT_PARTIAL : Fld := ⟨0xe01118, 0, 1, 0, 64, .rc, .none, 0, .id, .none, .se, false⟩
/-- `SE_CNT_OUT_STALL`: R316. -/
def SE_CNT_OUT_STALL : Fld := ⟨0xe01120, 0, 1, 0, 64, .rc, .none, 0, .id, .none, .se, false⟩
/-- `SE_CNT_BW_STALL`: R316. -/
def SE_CNT_BW_STALL : Fld := ⟨0xe01128, 0, 1, 0, 64, .rc, .none, 0, .id, .none, .se, false⟩
/-- `SE_CNT_DRY`: R316. -/
def SE_CNT_DRY : Fld := ⟨0xe01130, 0, 1, 0, 64, .rc, .none, 0, .id, .none, .se, false⟩
/-- `SE_CNT_REARM_REJ`: R316. -/
def SE_CNT_REARM_REJ : Fld := ⟨0xe01138, 0, 1, 0, 64, .rc, .none, 0, .id, .none, .se, false⟩
/-- `SE_CNT_POISON`: R316. -/
def SE_CNT_POISON : Fld := ⟨0xe01140, 0, 1, 0, 64, .rc, .none, 0, .id, .none, .se, false⟩
/-- `SE_CNT_DISCARD`: R316. -/
def SE_CNT_DISCARD : Fld := ⟨0xe01148, 0, 1, 0, 64, .rc, .none, 0, .id, .none, .se, false⟩
/-- `SE_CNT_HALT`: R316. -/
def SE_CNT_HALT : Fld := ⟨0xe01150, 0, 1, 0, 64, .rc, .none, 0, .id, .none, .se, false⟩
/-- `SE_CNT_HOST_REFUSED`: R316. -/
def SE_CNT_HOST_REFUSED : Fld := ⟨0xe01158, 0, 1, 0, 64, .rc, .none, 0, .id, .none, .se, false⟩
/-- `MEM_MAP_CTL_HASH`: R335. -/
def MEM_MAP_CTL_HASH : Fld := ⟨0x1000008, 0, 1, 0, 1, .rw, .static, 1, .id, .mem, .none, false⟩
/-- `MEM_MAP_CTL_COMMIT`: R335. -/
def MEM_MAP_CTL_COMMIT : Fld := ⟨0x1000008, 0, 1, 1, 1, .wo, .live, 0, .id, .none, .none, true⟩
/-- `MEM_MAP_RET_BASE`: R335. -/
def MEM_MAP_RET_BASE : Fld := ⟨0x1000010, 0, 1, 0, 48, .rw, .static, 0, .align 16, .mem, .none, false⟩
/-- `MEM_MAP_RET_SIZE`: R335. -/
def MEM_MAP_RET_SIZE : Fld := ⟨0x1000018, 0, 1, 0, 36, .rw, .static, 4294967296, .alignRange 16 0x4000000 0x800000000, .mem, .none, false⟩
/-- `MEM_MAP_STAT_COMMITTED`: R335. -/
def MEM_MAP_STAT_COMMITTED : Fld := ⟨0x1000020, 0, 1, 0, 1, .ro, .none, 0, .id, .none, .none, false⟩
/-- `MEM_MAP_STAT_RET_MISMATCH`: R335. -/
def MEM_MAP_STAT_RET_MISMATCH : Fld := ⟨0x1000020, 0, 1, 1, 1, .w1c, .none, 0, .id, .none, .none, false⟩
/-- `MEM_MAP_STAT_RET_RANGE`: R335. -/
def MEM_MAP_STAT_RET_RANGE : Fld := ⟨0x1000020, 0, 1, 2, 1, .w1c, .none, 0, .id, .none, .none, false⟩
/-- `MEM_REF_CTL_FORCE_DOUBLE`: R335. -/
def MEM_REF_CTL_FORCE_DOUBLE : Fld := ⟨0x1000040, 0, 1, 0, 1, .rw, .live, 0, .id, .none, .none, false⟩
/-- `MEM_WITHHELD_CNT`: R335. -/
def MEM_WITHHELD_CNT : Fld := ⟨0x1000048, 0, 1, 0, 9, .ro, .none, 0, .id, .none, .none, false⟩
/-- `MEM_STACK_STAT_TEMP`: R335. -/
def MEM_STACK_STAT_TEMP : Fld := ⟨0x1000100, 8, 4, 0, 8, .ro, .none, 0, .id, .none, .none, false⟩
/-- `MEM_STACK_STAT_REF_DOUBLE`: R335. -/
def MEM_STACK_STAT_REF_DOUBLE : Fld := ⟨0x1000100, 8, 4, 8, 1, .ro, .none, 0, .id, .none, .none, false⟩
/-- `MEM_STACK_STAT_HOT`: R335. -/
def MEM_STACK_STAT_HOT : Fld := ⟨0x1000100, 8, 4, 9, 1, .w1c, .none, 0, .id, .none, .none, false⟩
/-- `MEM_WITHHELD_ADDR`: R335. -/
def MEM_WITHHELD_ADDR : Fld := ⟨0x1000800, 8, 256, 0, 48, .ro, .none, 0, .id, .none, .none, false⟩
/-- `MEM_WITHHELD_RET`: R335. -/
def MEM_WITHHELD_RET : Fld := ⟨0x1000800, 8, 256, 48, 1, .ro, .none, 0, .id, .none, .none, false⟩
/-- `MEM_CH_INFO_STACK`: R336. -/
def MEM_CH_INFO_STACK : Fld := ⟨0x1001000, 0, 1, 0, 2, .ro, .none, 0, .id, .none, .mem, false⟩
/-- `MEM_CH_INFO_DIE`: R336. -/
def MEM_CH_INFO_DIE : Fld := ⟨0x1001000, 0, 1, 2, 3, .ro, .none, 0, .id, .none, .mem, false⟩
/-- `MEM_CH_INFO_REPAIRS`: R336. -/
def MEM_CH_INFO_REPAIRS : Fld := ⟨0x1001000, 0, 1, 5, 7, .ro, .none, 0, .id, .none, .mem, false⟩
/-- `MEM_CH_INFO_QUEUED`: R336. -/
def MEM_CH_INFO_QUEUED : Fld := ⟨0x1001000, 0, 1, 12, 8, .ro, .none, 0, .id, .none, .mem, false⟩
/-- `MEM_CH_CTL_INJECT`: R336. -/
def MEM_CH_CTL_INJECT : Fld := ⟨0x1001008, 0, 1, 0, 1, .wo, .live, 0, .id, .none, .mem, true⟩
/-- `MEM_REPAIR_BANK`: R336. -/
def MEM_REPAIR_BANK : Fld := ⟨0x1001200, 8, 64, 0, 4, .ro, .none, 0, .id, .none, .mem, false⟩
/-- `MEM_REPAIR_ROW`: R336. -/
def MEM_REPAIR_ROW : Fld := ⟨0x1001200, 8, 64, 4, 14, .ro, .none, 0, .id, .none, .mem, false⟩
/-- `MEM_REPAIR_SPARE`: R336. -/
def MEM_REPAIR_SPARE : Fld := ⟨0x1001200, 8, 64, 18, 4, .ro, .none, 0, .id, .none, .mem, false⟩
/-- `MEM_REPAIR_VALID`: R336. -/
def MEM_REPAIR_VALID : Fld := ⟨0x1001200, 8, 64, 22, 1, .ro, .none, 0, .id, .none, .mem, false⟩
/-- `MEM_REPAIR_SOURCE`: R336. -/
def MEM_REPAIR_SOURCE : Fld := ⟨0x1001200, 8, 64, 23, 1, .ro, .none, 0, .id, .none, .mem, false⟩
/-- `MEM_SUSPECT_BANK`: R336. -/
def MEM_SUSPECT_BANK : Fld := ⟨0x1001400, 8, 8, 0, 4, .ro, .none, 0, .id, .none, .mem, false⟩
/-- `MEM_SUSPECT_ROW`: R336. -/
def MEM_SUSPECT_ROW : Fld := ⟨0x1001400, 8, 8, 4, 14, .ro, .none, 0, .id, .none, .mem, false⟩
/-- `MEM_SUSPECT_FAILS`: R336. -/
def MEM_SUSPECT_FAILS : Fld := ⟨0x1001400, 8, 8, 24, 8, .ro, .none, 0, .id, .none, .mem, false⟩
/-- `MEM_SUSPECT_VALID`: R336. -/
def MEM_SUSPECT_VALID : Fld := ⟨0x1001400, 8, 8, 32, 1, .ro, .none, 0, .id, .none, .mem, false⟩
/-- `MEM_CNT_RD`: R337. -/
def MEM_CNT_RD : Fld := ⟨0x1001100, 0, 1, 0, 64, .rc, .none, 0, .id, .none, .mem, false⟩
/-- `MEM_CNT_WR`: R337. -/
def MEM_CNT_WR : Fld := ⟨0x1001108, 0, 1, 0, 64, .rc, .none, 0, .id, .none, .mem, false⟩
/-- `MEM_CNT_RMW`: R337. -/
def MEM_CNT_RMW : Fld := ⟨0x1001110, 0, 1, 0, 64, .rc, .none, 0, .id, .none, .mem, false⟩
/-- `MEM_CNT_RETRY_OK`: R337. -/
def MEM_CNT_RETRY_OK : Fld := ⟨0x1001118, 0, 1, 0, 64, .rc, .none, 0, .id, .none, .mem, false⟩
/-- `MEM_CNT_CRC`: R337. -/
def MEM_CNT_CRC : Fld := ⟨0x1001120, 0, 1, 0, 64, .rc, .none, 0, .id, .none, .mem, false⟩
/-- `MEM_CNT_POISON_RD`: R337. -/
def MEM_CNT_POISON_RD : Fld := ⟨0x1001128, 0, 1, 0, 64, .rc, .none, 0, .id, .none, .mem, false⟩
/-- `MEM_CNT_POISON_WR`: R337. -/
def MEM_CNT_POISON_WR : Fld := ⟨0x1001130, 0, 1, 0, 64, .rc, .none, 0, .id, .none, .mem, false⟩
/-- `MEM_CNT_SCRUB`: R337. -/
def MEM_CNT_SCRUB : Fld := ⟨0x1001138, 0, 1, 0, 64, .rc, .none, 0, .id, .none, .mem, false⟩
/-- `MEM_CNT_SCRUB_MARK`: R337. -/
def MEM_CNT_SCRUB_MARK : Fld := ⟨0x1001140, 0, 1, 0, 64, .rc, .none, 0, .id, .none, .mem, false⟩
/-- `MEM_CNT_REFRESH`: R337. -/
def MEM_CNT_REFRESH : Fld := ⟨0x1001148, 0, 1, 0, 64, .rc, .none, 0, .id, .none, .mem, false⟩
/-- `MEM_CNT_WITHHELD`: R337. -/
def MEM_CNT_WITHHELD : Fld := ⟨0x1001150, 0, 1, 0, 64, .rc, .none, 0, .id, .none, .mem, false⟩
/-- `MEM_CNT_FULL`: R337. -/
def MEM_CNT_FULL : Fld := ⟨0x1001158, 0, 1, 0, 64, .rc, .none, 0, .id, .none, .mem, false⟩
/-- `HL_LINK_STAT_SPEED`: R353. -/
def HL_LINK_STAT_SPEED : Fld := ⟨0x1100000, 0, 1, 0, 3, .ro, .none, 0, .id, .none, .none, false⟩
/-- `HL_LINK_STAT_WIDTH`: R353. -/
def HL_LINK_STAT_WIDTH : Fld := ⟨0x1100000, 0, 1, 3, 4, .ro, .none, 0, .id, .none, .none, false⟩
/-- `HL_LINK_STAT_FLIT`: R353. -/
def HL_LINK_STAT_FLIT : Fld := ⟨0x1100000, 0, 1, 7, 1, .ro, .none, 0, .id, .none, .none, false⟩
/-- `HL_LINK_STAT_TAGS`: R353. -/
def HL_LINK_STAT_TAGS : Fld := ⟨0x1100000, 0, 1, 8, 2, .ro, .none, 0, .id, .none, .none, false⟩
/-- `HL_LINK_STAT_RETRAINS`: R353. -/
def HL_LINK_STAT_RETRAINS : Fld := ⟨0x1100000, 0, 1, 16, 16, .rc, .none, 0, .id, .none, .none, false⟩
/-- `HL_CPL_TO_US`: R353. -/
def HL_CPL_TO_US : Fld := ⟨0x1100008, 0, 1, 0, 16, .rw, .live, 10000, .range 50 50000, .none, .none, false⟩
/-- `HL_HOST_WIN_BASE`: R353. -/
def HL_HOST_WIN_BASE : Fld := ⟨0x1100010, 0, 1, 0, 64, .rw, .static, 0, .align 12, .hostOut, .none, false⟩
/-- `HL_HOST_WIN_SIZE`: R353. -/
def HL_HOST_WIN_SIZE : Fld := ⟨0x1100018, 0, 1, 0, 41, .rw, .static, 0, .alignRange 12 0 0x10000000000, .hostOut, .none, false⟩
/-- `HL_BAR4_MAP_BASE`: R353. -/
def HL_BAR4_MAP_BASE : Fld := ⟨0x1100020, 0, 1, 0, 48, .rw, .static, 0, .id, .bar4, .none, false⟩
/-- `HL_REG_ERR_CFG_LOCKED`: R353. -/
def HL_REG_ERR_CFG_LOCKED : Fld := ⟨0x1100028, 0, 1, 0, 1, .w1c, .none, 0, .id, .none, .none, false⟩
/-- `HL_REG_ERR_BAD_ACCESS`: R353. -/
def HL_REG_ERR_BAD_ACCESS : Fld := ⟨0x1100028, 0, 1, 1, 1, .w1c, .none, 0, .id, .none, .none, false⟩
/-- `HL_REG_ERR_SEL`: R353. -/
def HL_REG_ERR_SEL : Fld := ⟨0x1100028, 0, 1, 8, 21, .ro, .none, 0, .id, .none, .none, false⟩
/-- `HL_REG_ERR_OFFSET`: R353. -/
def HL_REG_ERR_OFFSET : Fld := ⟨0x1100028, 0, 1, 32, 26, .ro, .none, 0, .id, .none, .none, false⟩
/-- `HL_PEER_BASE`: R353. -/
def HL_PEER_BASE : Fld := ⟨0x1100100, 16, 16, 0, 64, .rw, .static, 0, .align 30, .peer, .none, false⟩
/-- `HL_PEER_CTL_EN`: R353. -/
def HL_PEER_CTL_EN : Fld := ⟨0x1100108, 16, 16, 0, 1, .rw, .live, 0, .id, .none, .none, false⟩
/-- `HL_PEER_CTL_SIZE_LOG2`: R353. -/
def HL_PEER_CTL_SIZE_LOG2 : Fld := ⟨0x1100108, 16, 16, 1, 6, .rw, .static, 30, .range 30 36, .peer, .none, false⟩
/-- `HL_CNT_CFG_LOCKED`: R354. -/
def HL_CNT_CFG_LOCKED : Fld := ⟨0x1100200, 0, 1, 0, 64, .rc, .none, 0, .id, .none, .none, false⟩
/-- `HL_CNT_BAD_ACCESS`: R354. -/
def HL_CNT_BAD_ACCESS : Fld := ⟨0x1100208, 0, 1, 0, 64, .rc, .none, 0, .id, .none, .none, false⟩
/-- `HL_CNT_DB_BAD`: R354. -/
def HL_CNT_DB_BAD : Fld := ⟨0x1100210, 0, 1, 0, 64, .rc, .none, 0, .id, .none, .none, false⟩
/-- `HL_CNT_BAR4_RD`: R354. -/
def HL_CNT_BAR4_RD : Fld := ⟨0x1100218, 0, 1, 0, 64, .rc, .none, 0, .id, .none, .none, false⟩
/-- `HL_CNT_BAR4_DROP`: R354. -/
def HL_CNT_BAR4_DROP : Fld := ⟨0x1100220, 0, 1, 0, 64, .rc, .none, 0, .id, .none, .none, false⟩
/-- `HL_CNT_POISON_IN`: R354. -/
def HL_CNT_POISON_IN : Fld := ⟨0x1100228, 0, 1, 0, 64, .rc, .none, 0, .id, .none, .none, false⟩
/-- `HL_CNT_CPL_TIMEOUT`: R354. -/
def HL_CNT_CPL_TIMEOUT : Fld := ⟨0x1100230, 0, 1, 0, 64, .rc, .none, 0, .id, .none, .none, false⟩
/-- `HL_CNT_UNEXP_CPL`: R354. -/
def HL_CNT_UNEXP_CPL : Fld := ⟨0x1100238, 0, 1, 0, 64, .rc, .none, 0, .id, .none, .none, false⟩
/-- `HL_CNT_NP_STALL`: R354. -/
def HL_CNT_NP_STALL : Fld := ⟨0x1100240, 0, 1, 0, 64, .rc, .none, 0, .id, .none, .none, false⟩
/-- `HL_CNT_BME_STALL`: R354. -/
def HL_CNT_BME_STALL : Fld := ⟨0x1100248, 0, 1, 0, 64, .rc, .none, 0, .id, .none, .none, false⟩
/-- `QM_RING_CFG_EN`: R357. -/
def QM_RING_CFG_EN : Fld := ⟨0x601000, 0, 1, 0, 1, .rw, .live, 0, .id, .none, .ring, true⟩
/-- `QM_RING_CFG_KIND`: R357. -/
def QM_RING_CFG_KIND : Fld := ⟨0x601000, 0, 1, 1, 2, .rw, .static, 0, .id, .ring, .ring, false⟩
/-- `QM_RING_CFG_FORMAT`: R357. -/
def QM_RING_CFG_FORMAT : Fld := ⟨0x601000, 0, 1, 3, 2, .rw, .static, 0, .id, .ring, .ring, false⟩
/-- `QM_RING_CFG_ESZ`: R357. -/
def QM_RING_CFG_ESZ : Fld := ⟨0x601000, 0, 1, 5, 1, .rw, .static, 1, .id, .ring, .ring, false⟩
/-- `QM_RING_CFG_LOG2N`: R357. -/
def QM_RING_CFG_LOG2N : Fld := ⟨0x601000, 0, 1, 6, 5, .rw, .static, 10, .id, .ring, .ring, false⟩
/-- `QM_RING_CFG_PRIO`: R357. -/
def QM_RING_CFG_PRIO : Fld := ⟨0x601000, 0, 1, 11, 2, .rw, .static, 0, .id, .ring, .ring, false⟩
/-- `QM_RING_CFG_IRQ_EN`: R357. -/
def QM_RING_CFG_IRQ_EN : Fld := ⟨0x601000, 0, 1, 13, 1, .rw, .live, 0, .id, .none, .ring, false⟩
/-- `QM_RING_CFG_VECTOR`: R357. -/
def QM_RING_CFG_VECTOR : Fld := ⟨0x601000, 0, 1, 16, 11, .rw, .live, 0, .id, .none, .ring, false⟩
/-- `QM_RING_BASE`: R357. -/
def QM_RING_BASE : Fld := ⟨0x601008, 0, 1, 0, 48, .rw, .static, 0, .id, .ring, .ring, false⟩
/-- `QM_RING_WB`: R357. -/
def QM_RING_WB : Fld := ⟨0x601010, 0, 1, 0, 48, .rw, .static, 0, .id, .ring, .ring, false⟩
/-- `QM_RING_IDX_HEAD`: R357. -/
def QM_RING_IDX_HEAD : Fld := ⟨0x601018, 0, 1, 0, 32, .ro, .none, 0, .id, .none, .ring, false⟩
/-- `QM_RING_IDX_TAIL`: R357. -/
def QM_RING_IDX_TAIL : Fld := ⟨0x601018, 0, 1, 32, 32, .ro, .none, 0, .id, .none, .ring, false⟩
/-- `QM_RING_PAIR_CPL_RING`: R357. -/
def QM_RING_PAIR_CPL_RING : Fld := ⟨0x601020, 0, 1, 0, 21, .rw, .static, 0, .id, .ring, .ring, false⟩
/-- `QM_RING_PAIR_RES_RING`: R357. -/
def QM_RING_PAIR_RES_RING : Fld := ⟨0x601020, 0, 1, 32, 21, .rw, .static, 0, .id, .ring, .ring, false⟩
/-- `QM_RING_PAIR_RES_EN`: R357. -/
def QM_RING_PAIR_RES_EN : Fld := ⟨0x601020, 0, 1, 63, 1, .rw, .static, 0, .id, .ring, .ring, false⟩
/-- `QM_RING_COAL_CNT`: R357. -/
def QM_RING_COAL_CNT : Fld := ⟨0x601028, 0, 1, 0, 16, .rw, .live, 1, .range 1 65535, .none, .ring, false⟩
/-- `QM_RING_COAL_US`: R357. -/
def QM_RING_COAL_US : Fld := ⟨0x601028, 0, 1, 16, 16, .rw, .live, 0, .id, .none, .ring, false⟩
/-- `QM_RING_STAT_ERR`: R357. -/
def QM_RING_STAT_ERR : Fld := ⟨0x601030, 0, 1, 0, 4, .w1c, .none, 0, .id, .none, .ring, false⟩
/-- `QM_RING_STAT_DB_REJ`: R357. -/
def QM_RING_STAT_DB_REJ : Fld := ⟨0x601030, 0, 1, 4, 1, .w1c, .none, 0, .id, .none, .ring, false⟩
/-- `QM_RING_STAT_ARMED`: R357. -/
def QM_RING_STAT_ARMED : Fld := ⟨0x601030, 0, 1, 5, 1, .ro, .none, 1, .id, .none, .ring, false⟩
/-- `QM_RING_STAT_DROPPED`: R357. -/
def QM_RING_STAT_DROPPED : Fld := ⟨0x601030, 0, 1, 32, 32, .rc, .none, 0, .id, .none, .ring, false⟩
/-- `QM_RING_SEQ`: R357. -/
def QM_RING_SEQ : Fld := ⟨0x601038, 0, 1, 0, 39, .ro, .none, 0, .id, .none, .ring, false⟩
/-- `QM_CTL_EN`: R383. -/
def QM_CTL_EN : Fld := ⟨0x600008, 0, 1, 0, 1, .rw, .live, 0, .id, .none, .none, true⟩
/-- `QM_CTL_CFG_ERR`: R383. -/
def QM_CTL_CFG_ERR : Fld := ⟨0x600008, 0, 1, 1, 1, .w1c, .none, 0, .id, .none, .none, false⟩
/-- `QM_CTL_EVT_RING`: R383. -/
def QM_CTL_EVT_RING : Fld := ⟨0x600008, 0, 1, 8, 21, .rw, .static, 0, .id, .qm, .none, false⟩
/-- `QM_RCTX_BASE`: R383. -/
def QM_RCTX_BASE : Fld := ⟨0x600010, 0, 1, 0, 48, .rw, .static, 0, .align 16, .qm, .none, false⟩
/-- `QM_CACHE_STAT_VALID`: R383. -/
def QM_CACHE_STAT_VALID : Fld := ⟨0x600018, 0, 1, 0, 17, .ro, .none, 0, .id, .none, .none, false⟩
/-- `QM_CACHE_STAT_PINNED`: R383. -/
def QM_CACHE_STAT_PINNED : Fld := ⟨0x600018, 0, 1, 32, 17, .ro, .none, 0, .id, .none, .none, false⟩
/-- `QM_STAGE_STAT_ONCHIP`: R383. -/
def QM_STAGE_STAT_ONCHIP : Fld := ⟨0x600020, 0, 1, 0, 12, .ro, .none, 0, .id, .none, .none, false⟩
/-- `QM_STAGE_STAT_SPILLED`: R383. -/
def QM_STAGE_STAT_SPILLED : Fld := ⟨0x600020, 0, 1, 32, 32, .ro, .none, 0, .id, .none, .none, false⟩
/-- `QM_CNT_DB`: R384. -/
def QM_CNT_DB : Fld := ⟨0x600100, 0, 1, 0, 64, .rc, .none, 0, .id, .none, .none, false⟩
/-- `QM_CNT_DB_REJ`: R384. -/
def QM_CNT_DB_REJ : Fld := ⟨0x600108, 0, 1, 0, 64, .rc, .none, 0, .id, .none, .none, false⟩
/-- `QM_CNT_BURSTS`: R384. -/
def QM_CNT_BURSTS : Fld := ⟨0x600110, 0, 1, 0, 64, .rc, .none, 0, .id, .none, .none, false⟩
/-- `QM_CNT_DESC`: R384. -/
def QM_CNT_DESC : Fld := ⟨0x600118, 0, 1, 0, 64, .rc, .none, 0, .id, .none, .none, false⟩
/-- `QM_CNT_RESULTS`: R384. -/
def QM_CNT_RESULTS : Fld := ⟨0x600120, 0, 1, 0, 64, .rc, .none, 0, .id, .none, .none, false⟩
/-- `QM_CNT_EVENTS`: R384. -/
def QM_CNT_EVENTS : Fld := ⟨0x600128, 0, 1, 0, 64, .rc, .none, 0, .id, .none, .none, false⟩
/-- `QM_CNT_EVT_DROP`: R384. -/
def QM_CNT_EVT_DROP : Fld := ⟨0x600130, 0, 1, 0, 64, .rc, .none, 0, .id, .none, .none, false⟩
/-- `QM_CNT_MISROUTE`: R384. -/
def QM_CNT_MISROUTE : Fld := ⟨0x600138, 0, 1, 0, 64, .rc, .none, 0, .id, .none, .none, false⟩
/-- `QM_CNT_SPILL`: R384. -/
def QM_CNT_SPILL : Fld := ⟨0x600140, 0, 1, 0, 64, .rc, .none, 0, .id, .none, .none, false⟩
/-- `QM_CNT_CACHE_MISS`: R384. -/
def QM_CNT_CACHE_MISS : Fld := ⟨0x600148, 0, 1, 0, 64, .rc, .none, 0, .id, .none, .none, false⟩
/-- `QM_CNT_CACHE_WAIT`: R384. -/
def QM_CNT_CACHE_WAIT : Fld := ⟨0x600150, 0, 1, 0, 64, .rc, .none, 0, .id, .none, .none, false⟩
/-- `QM_CNT_MSIX`: R384. -/
def QM_CNT_MSIX : Fld := ⟨0x600158, 0, 1, 0, 64, .rc, .none, 0, .id, .none, .none, false⟩
/-- `PM_CTL_EN`: R403. -/
def PM_CTL_EN : Fld := ⟨0x900000, 0, 1, 0, 1, .rw, .live, 0, .id, .none, .none, false⟩
/-- `PM_CTL_SELF`: R403. -/
def PM_CTL_SELF : Fld := ⟨0x900000, 0, 1, 1, 4, .rw, .static, 0, .id, .pm, .none, false⟩
/-- `PM_CTL_PLAN`: R403. -/
def PM_CTL_PLAN : Fld := ⟨0x900000, 0, 1, 5, 8, .rw, .static, 0, .id, .pm, .none, false⟩
/-- `PM_CTL_RETRY_US`: R403. -/
def PM_CTL_RETRY_US : Fld := ⟨0x900000, 0, 1, 16, 16, .rw, .live, 20, .range 1 65535, .none, .none, false⟩
/-- `PM_TIMEOUT_TOKEN_TO`: R403. -/
def PM_TIMEOUT_TOKEN_TO : Fld := ⟨0x900008, 0, 1, 0, 32, .rw, .live, 10000, .range 100 10000000, .none, .none, false⟩
/-- `PM_TIMEOUT_MAX_RESEND`: R403. -/
def PM_TIMEOUT_MAX_RESEND : Fld := ⟨0x900008, 0, 1, 32, 4, .rw, .live, 3, .id, .none, .none, false⟩
/-- `PM_EPOCH`: R403. -/
def PM_EPOCH : Fld := ⟨0x900010, 0, 1, 0, 32, .ro, .none, 0, .id, .none, .none, false⟩
/-- `PM_EPOCH_ADV`: R403. -/
def PM_EPOCH_ADV : Fld := ⟨0x900018, 0, 1, 0, 32, .wo, .live, 0, .id, .none, .none, true⟩
/-- `PM_WIN_CFG_EN`: R403. -/
def PM_WIN_CFG_EN : Fld := ⟨0x901000, 32, 64, 0, 1, .rw, .peerEpoch, 0, .id, .none, .none, false⟩
/-- `PM_WIN_CFG_PEER`: R403. -/
def PM_WIN_CFG_PEER : Fld := ⟨0x901000, 32, 64, 1, 4, .rw, .static, 0, .id, .pmWin, .none, false⟩
/-- `PM_WIN_CFG_CLASS`: R403. -/
def PM_WIN_CFG_CLASS : Fld := ⟨0x901000, 32, 64, 5, 1, .rw, .static, 0, .id, .pmWin, .none, false⟩
/-- `PM_WIN_BASE`: R403. -/
def PM_WIN_BASE : Fld := ⟨0x901008, 32, 64, 0, 48, .rw, .static, 0, .id, .pmWin, .none, false⟩
/-- `PM_WIN_SIZE`: R403. -/
def PM_WIN_SIZE : Fld := ⟨0x901010, 32, 64, 0, 19, .rw, .static, 16384, .range 64 262143, .pmWin, .none, false⟩
/-- `PM_WIN_STAT_STATE`: R403. -/
def PM_WIN_STAT_STATE : Fld := ⟨0x901018, 32, 64, 0, 2, .ro, .none, 0, .id, .none, .none, false⟩
/-- `PM_WIN_STAT_OPEN_ERR`: R403. -/
def PM_WIN_STAT_OPEN_ERR : Fld := ⟨0x901018, 32, 64, 2, 1, .w1c, .none, 0, .id, .none, .none, false⟩
/-- `PM_WIN_STAT_HELD`: R403. -/
def PM_WIN_STAT_HELD : Fld := ⟨0x901018, 32, 64, 3, 19, .ro, .none, 0, .id, .none, .none, false⟩
/-- `PM_WIN_STAT_EPOCH`: R403. -/
def PM_WIN_STAT_EPOCH : Fld := ⟨0x901018, 32, 64, 32, 32, .ro, .none, 0, .id, .none, .none, false⟩
/-- `PM_SEND_OFS`: R403. -/
def PM_SEND_OFS : Fld := ⟨0x902000, 32, 32, 0, 36, .rw, .static, 0, .id, .pmSend, .none, false⟩
/-- `PM_SEND_CTL_EN`: R403. -/
def PM_SEND_CTL_EN : Fld := ⟨0x902008, 32, 32, 0, 1, .rw, .peerEpoch, 0, .id, .none, .none, false⟩
/-- `PM_SEND_CTL_SIZE`: R403. -/
def PM_SEND_CTL_SIZE : Fld := ⟨0x902008, 32, 32, 1, 19, .rw, .static, 0, .id, .pmSend, .none, false⟩
/-- `PM_SEND_STAT_CREDITS`: R403. -/
def PM_SEND_STAT_CREDITS : Fld := ⟨0x902010, 32, 32, 0, 19, .ro, .none, 0, .id, .none, .none, false⟩
/-- `PM_SEND_STAT_MSG_SEQ`: R403. -/
def PM_SEND_STAT_MSG_SEQ : Fld := ⟨0x902010, 32, 32, 32, 32, .ro, .none, 0, .id, .none, .none, false⟩
/-- `PM_EXPERT_PART`: R403. -/
def PM_EXPERT_PART : Fld := ⟨0x903000, 8, 256, 0, 4, .rw, .peerEpoch, 0, .id, .none, .none, false⟩
/-- `PM_EXPERT_VALID`: R403. -/
def PM_EXPERT_VALID : Fld := ⟨0x903000, 8, 256, 4, 1, .rw, .peerEpoch, 0, .id, .none, .none, false⟩
/-- `PM_DISCARD_LOG_SENDER`: R404. -/
def PM_DISCARD_LOG_SENDER : Fld := ⟨0x904000, 16, 16, 0, 4, .ro, .none, 0, .id, .none, .none, false⟩
/-- `PM_DISCARD_LOG_REQ_ID`: R404. -/
def PM_DISCARD_LOG_REQ_ID : Fld := ⟨0x904000, 16, 16, 4, 16, .ro, .none, 0, .id, .none, .none, false⟩
/-- `PM_DISCARD_LOG_REASON`: R404. -/
def PM_DISCARD_LOG_REASON : Fld := ⟨0x904000, 16, 16, 20, 4, .ro, .none, 0, .id, .none, .none, false⟩
/-- `PM_DISCARD_LOG_WINDOW`: R404. -/
def PM_DISCARD_LOG_WINDOW : Fld := ⟨0x904000, 16, 16, 24, 8, .ro, .none, 0, .id, .none, .none, false⟩
/-- `PM_DISCARD_LOG_EPOCH`: R404. -/
def PM_DISCARD_LOG_EPOCH : Fld := ⟨0x904000, 16, 16, 32, 32, .ro, .none, 0, .id, .none, .none, false⟩
/-- `PM_DISCARD_LOG_TIME`: R404. -/
def PM_DISCARD_LOG_TIME : Fld := ⟨0x904008, 16, 16, 0, 64, .ro, .none, 0, .id, .none, .none, false⟩
/-- `PM_CNT_TOKENS_TX`: R405. -/
def PM_CNT_TOKENS_TX : Fld := ⟨0x900100, 0, 1, 0, 64, .rc, .none, 0, .id, .none, .none, false⟩
/-- `PM_CNT_TOKENS_RX`: R405. -/
def PM_CNT_TOKENS_RX : Fld := ⟨0x900108, 0, 1, 0, 64, .rc, .none, 0, .id, .none, .none, false⟩
/-- `PM_CNT_RESULTS_TX`: R405. -/
def PM_CNT_RESULTS_TX : Fld := ⟨0x900110, 0, 1, 0, 64, .rc, .none, 0, .id, .none, .none, false⟩
/-- `PM_CNT_RESULTS_RX`: R405. -/
def PM_CNT_RESULTS_RX : Fld := ⟨0x900118, 0, 1, 0, 64, .rc, .none, 0, .id, .none, .none, false⟩
/-- `PM_CNT_MERGED`: R405. -/
def PM_CNT_MERGED : Fld := ⟨0x900120, 0, 1, 0, 64, .rc, .none, 0, .id, .none, .none, false⟩
/-- `PM_CNT_DISCARD`: R405. -/
def PM_CNT_DISCARD : Fld := ⟨0x900128, 0, 1, 0, 64, .rc, .none, 0, .id, .none, .none, false⟩
/-- `PM_CNT_NACK_RX`: R405. -/
def PM_CNT_NACK_RX : Fld := ⟨0x900130, 0, 1, 0, 64, .rc, .none, 0, .id, .none, .none, false⟩
/-- `PM_CNT_RESEND`: R405. -/
def PM_CNT_RESEND : Fld := ⟨0x900138, 0, 1, 0, 64, .rc, .none, 0, .id, .none, .none, false⟩
/-- `PM_CNT_DUP`: R405. -/
def PM_CNT_DUP : Fld := ⟨0x900140, 0, 1, 0, 64, .rc, .none, 0, .id, .none, .none, false⟩
/-- `PM_CNT_STRAY`: R405. -/
def PM_CNT_STRAY : Fld := ⟨0x900148, 0, 1, 0, 64, .rc, .none, 0, .id, .none, .none, false⟩
/-- `PM_CNT_BAD_CAND`: R405. -/
def PM_CNT_BAD_CAND : Fld := ⟨0x900150, 0, 1, 0, 64, .rc, .none, 0, .id, .none, .none, false⟩
/-- `PM_CNT_CREDIT_WAIT`: R405. -/
def PM_CNT_CREDIT_WAIT : Fld := ⟨0x900158, 0, 1, 0, 64, .rc, .none, 0, .id, .none, .none, false⟩
/-- `EV_CTL_EN`: R429. -/
def EV_CTL_EN : Fld := ⟨0x500000, 0, 1, 0, 1, .rw, .live, 0, .id, .none, .none, false⟩
/-- `EV_SET_SOURCE`: R429. -/
def EV_SET_SOURCE : Fld := ⟨0x500010, 0, 1, 0, 10, .wo, .live, 0, .id, .none, .none, true⟩
/-- `EV_CLEAR_SOURCE`: R429. -/
def EV_CLEAR_SOURCE : Fld := ⟨0x500018, 0, 1, 0, 10, .wo, .live, 0, .id, .none, .none, true⟩
/-- `EV_CORE_STAT_ACTIVE`: R429. -/
def EV_CORE_STAT_ACTIVE : Fld := ⟨0x500800, 32, 8, 0, 11, .ro, .none, 2047, .id, .none, .none, false⟩
/-- `EV_CORE_STAT_RESERVED`: R429. -/
def EV_CORE_STAT_RESERVED : Fld := ⟨0x500800, 32, 8, 11, 11, .ro, .none, 2047, .id, .none, .none, false⟩
/-- `EV_CORE_STAT_HM`: R429. -/
def EV_CORE_STAT_HM : Fld := ⟨0x500800, 32, 8, 22, 1, .ro, .none, 0, .id, .none, .none, false⟩
/-- `EV_CORE_STAT_EE`: R429. -/
def EV_CORE_STAT_EE : Fld := ⟨0x500800, 32, 8, 23, 1, .ro, .none, 0, .id, .none, .none, false⟩
/-- `EV_CORE_STAT_SLEEP`: R429. -/
def EV_CORE_STAT_SLEEP : Fld := ⟨0x500800, 32, 8, 24, 1, .ro, .none, 0, .id, .none, .none, false⟩
/-- `EV_CORE_STAT_TPRI`: R429. -/
def EV_CORE_STAT_TPRI : Fld := ⟨0x500800, 32, 8, 32, 11, .ro, .none, 1024, .id, .none, .none, false⟩
/-- `EV_SRC_EN`: R429. -/
def EV_SRC_EN : Fld := ⟨0x501000, 8, 1024, 0, 1, .rw, .live, 0, .id, .none, .none, false⟩
/-- `EV_SRC_ROUTE`: R429. -/
def EV_SRC_ROUTE : Fld := ⟨0x501000, 8, 1024, 1, 8, .rw, .live, 255, .id, .none, .none, false⟩
/-- `EV_SRC_STATE`: R429. -/
def EV_SRC_STATE : Fld := ⟨0x501000, 8, 1024, 9, 2, .ro, .none, 0, .id, .none, .none, false⟩
/-- `EV_SRC_ASYNC`: R429. -/
def EV_SRC_ASYNC : Fld := ⟨0x501000, 8, 1024, 11, 1, .ro, .none, 0, .id, .none, .none, false⟩
/-- `EV_SRC_COALESCED`: R429. -/
def EV_SRC_COALESCED : Fld := ⟨0x501000, 8, 1024, 16, 16, .rc, .none, 0, .id, .none, .none, false⟩
/-- `EV_CNT_DELIVERED`: R430. -/
def EV_CNT_DELIVERED : Fld := ⟨0x500100, 0, 1, 0, 64, .rc, .none, 0, .id, .none, .none, false⟩
/-- `EV_CNT_CHAINED`: R430. -/
def EV_CNT_CHAINED : Fld := ⟨0x500108, 0, 1, 0, 64, .rc, .none, 0, .id, .none, .none, false⟩
/-- `EV_CNT_SPURIOUS`: R430. -/
def EV_CNT_SPURIOUS : Fld := ⟨0x500110, 0, 1, 0, 64, .rc, .none, 0, .id, .none, .none, false⟩
/-- `EV_CNT_BAD_DONE`: R430. -/
def EV_CNT_BAD_DONE : Fld := ⟨0x500118, 0, 1, 0, 64, .rc, .none, 0, .id, .none, .none, false⟩
/-- `EV_CNT_COALESCED`: R430. -/
def EV_CNT_COALESCED : Fld := ⟨0x500120, 0, 1, 0, 64, .rc, .none, 0, .id, .none, .none, false⟩
/-- `SC_CORE_STAT_STATE`: R431. -/
def SC_CORE_STAT_STATE : Fld := ⟨0x801000, 256, 8, 0, 3, .ro, .none, 0, .id, .none, .none, false⟩
/-- `SC_CORE_STAT_CAUSE`: R431. -/
def SC_CORE_STAT_CAUSE : Fld := ⟨0x801000, 256, 8, 8, 8, .ro, .none, 0, .id, .none, .none, false⟩
/-- `SC_CORE_STAT_PC`: R431. -/
def SC_CORE_STAT_PC : Fld := ⟨0x801000, 256, 8, 32, 32, .ro, .none, 0, .id, .none, .none, false⟩
/-- `SC_CORE_TVAL`: R431. -/
def SC_CORE_TVAL : Fld := ⟨0x801008, 256, 8, 0, 64, .ro, .none, 0, .id, .none, .none, false⟩
/-- `SC_CORE_FW`: R431. -/
def SC_CORE_FW : Fld := ⟨0x801010, 256, 8, 0, 32, .ro, .none, 0, .id, .none, .none, false⟩
/-- `SC_CORE_CNT_INSTR`: R431. -/
def SC_CORE_CNT_INSTR : Fld := ⟨0x801080, 256, 8, 0, 64, .rc, .none, 0, .id, .none, .none, false⟩
/-- `SC_CORE_CNT_LOOPBUF`: R431. -/
def SC_CORE_CNT_LOOPBUF : Fld := ⟨0x801088, 256, 8, 0, 64, .rc, .none, 0, .id, .none, .none, false⟩
/-- `SC_CORE_CNT_SLEEP`: R431. -/
def SC_CORE_CNT_SLEEP : Fld := ⟨0x801090, 256, 8, 0, 64, .rc, .none, 0, .id, .none, .none, false⟩
/-- `SC_CORE_CNT_SB_FWD`: R431. -/
def SC_CORE_CNT_SB_FWD : Fld := ⟨0x801098, 256, 8, 0, 64, .rc, .none, 0, .id, .none, .none, false⟩
/-- `SC_CORE_CNT_SB_PARTIAL`: R431. -/
def SC_CORE_CNT_SB_PARTIAL : Fld := ⟨0x8010a0, 256, 8, 0, 64, .rc, .none, 0, .id, .none, .none, false⟩
/-- `SC_CORE_CNT_TRAPS`: R431. -/
def SC_CORE_CNT_TRAPS : Fld := ⟨0x8010a8, 256, 8, 0, 64, .rc, .none, 0, .id, .none, .none, false⟩
/-- `FM_CTL_IRQ_EN`: R453. -/
def FM_CTL_IRQ_EN : Fld := ⟨0x300000, 0, 1, 0, 1, .rw, .live, 1, .id, .none, .none, false⟩
/-- `FM_CTL_QMAX`: R453. -/
def FM_CTL_QMAX : Fld := ⟨0x300000, 0, 1, 1, 7, .rw, .live, 8, .range 0 64, .none, .none, false⟩
/-- `FM_CTL_LOG_THRESH`: R453. -/
def FM_CTL_LOG_THRESH : Fld := ⟨0x300000, 0, 1, 8, 7, .rw, .live, 1, .zeroAs 1, .none, .none, false⟩
/-- `FM_CTL_AUTO_DEV`: R453. -/
def FM_CTL_AUTO_DEV : Fld := ⟨0x300000, 0, 1, 15, 1, .rw, .live, 1, .id, .none, .none, false⟩
/-- `FM_CTL_DEV_DELAY`: R453. -/
def FM_CTL_DEV_DELAY : Fld := ⟨0x300000, 0, 1, 16, 16, .rw, .live, 100, .range 0 1000, .none, .none, false⟩
/-- `FM_CTL_SETTLE_MS`: R453. -/
def FM_CTL_SETTLE_MS : Fld := ⟨0x300000, 0, 1, 32, 16, .rw, .live, 100, .range 1 65535, .none, .none, false⟩
/-- `FM_STAT_STATE`: R453. -/
def FM_STAT_STATE : Fld := ⟨0x300008, 0, 1, 0, 3, .ro, .none, 0, .id, .none, .none, false⟩
/-- `FM_STAT_OVERFLOW`: R453. -/
def FM_STAT_OVERFLOW : Fld := ⟨0x300008, 0, 1, 3, 1, .w1c, .none, 0, .id, .none, .none, false⟩
/-- `FM_STAT_DEV_REQ`: R453. -/
def FM_STAT_DEV_REQ : Fld := ⟨0x300008, 0, 1, 4, 1, .ro, .none, 0, .id, .none, .none, false⟩
/-- `FM_STAT_PLAN_HALT`: R453. -/
def FM_STAT_PLAN_HALT : Fld := ⟨0x300008, 0, 1, 5, 1, .w1c, .none, 0, .id, .none, .none, false⟩
/-- `FM_STAT_HALTED_PLAN`: R453. -/
def FM_STAT_HALTED_PLAN : Fld := ⟨0x300008, 0, 1, 8, 8, .ro, .none, 0, .id, .none, .none, false⟩
/-- `FM_STAT_QUARANTINED`: R453. -/
def FM_STAT_QUARANTINED : Fld := ⟨0x300008, 0, 1, 16, 9, .ro, .none, 0, .id, .none, .none, false⟩
/-- `FM_LOG_IDX_HEAD`: R453. -/
def FM_LOG_IDX_HEAD : Fld := ⟨0x300010, 0, 1, 0, 16, .ro, .none, 0, .id, .none, .none, false⟩
/-- `FM_LOG_IDX_TAIL`: R453. -/
def FM_LOG_IDX_TAIL : Fld := ⟨0x300010, 0, 1, 16, 16, .ro, .none, 0, .id, .none, .none, false⟩
/-- `FM_LOG_ACK_HEAD`: R453. -/
def FM_LOG_ACK_HEAD : Fld := ⟨0x300018, 0, 1, 0, 16, .wo, .live, 0, .id, .none, .none, true⟩
/-- `FM_CMD_FROST`: R453. -/
def FM_CMD_FROST : Fld := ⟨0x300020, 0, 1, 0, 1, .wo, .live, 0, .id, .none, .none, true⟩
/-- `FM_CMD_DEV_RESET`: R453. -/
def FM_CMD_DEV_RESET : Fld := ⟨0x300020, 0, 1, 1, 1, .wo, .live, 0, .id, .none, .none, true⟩
/-- `FM_CMD_RETRY_TBL`: R453. -/
def FM_CMD_RETRY_TBL : Fld := ⟨0x300020, 0, 1, 2, 1, .wo, .live, 0, .id, .none, .none, true⟩
/-- `FM_CMD_ENGINE`: R453. -/
def FM_CMD_ENGINE : Fld := ⟨0x300020, 0, 1, 8, 5, .wo, .live, 0, .id, .none, .none, true⟩
/-- `FM_FROST_LAST_US`: R453. -/
def FM_FROST_LAST_US : Fld := ⟨0x300028, 0, 1, 0, 16, .ro, .none, 0, .id, .none, .none, false⟩
/-- `FM_FROST_LAST_CAUSE`: R453. -/
def FM_FROST_LAST_CAUSE : Fld := ⟨0x300028, 0, 1, 16, 8, .ro, .none, 0, .id, .none, .none, false⟩
/-- `FM_LOG`: R453. -/
def FM_LOG : Fld := ⟨0x301000, 8, 256, 0, 64, .ro, .none, 0, .id, .none, .none, false⟩
/-- `FM_CNT_ERRORS`: R454. -/
def FM_CNT_ERRORS : Fld := ⟨0x300100, 0, 1, 0, 64, .rc, .none, 0, .id, .none, .none, false⟩
/-- `FM_CNT_MERGED`: R454. -/
def FM_CNT_MERGED : Fld := ⟨0x300108, 0, 1, 0, 64, .rc, .none, 0, .id, .none, .none, false⟩
/-- `FM_CNT_LOST`: R454. -/
def FM_CNT_LOST : Fld := ⟨0x300110, 0, 1, 0, 64, .rc, .none, 0, .id, .none, .none, false⟩
/-- `FM_CNT_ESCALATED`: R454. -/
def FM_CNT_ESCALATED : Fld := ⟨0x300118, 0, 1, 0, 64, .rc, .none, 0, .id, .none, .none, false⟩
/-- `FM_CNT_QUARANTINE`: R454. -/
def FM_CNT_QUARANTINE : Fld := ⟨0x300120, 0, 1, 0, 64, .rc, .none, 0, .id, .none, .none, false⟩
/-- `FM_CNT_FROST`: R454. -/
def FM_CNT_FROST : Fld := ⟨0x300128, 0, 1, 0, 64, .rc, .none, 0, .id, .none, .none, false⟩
/-- `FM_CNT_PLAN_HALT`: R454. -/
def FM_CNT_PLAN_HALT : Fld := ⟨0x300130, 0, 1, 0, 64, .rc, .none, 0, .id, .none, .none, false⟩
/-- `GC_BOOT_STAGE_STAGE`: R459. -/
def GC_BOOT_STAGE_STAGE : Fld := ⟨0x10, 0, 1, 0, 4, .ro, .none, 0, .id, .none, .none, false⟩
/-- `GC_BOOT_STAGE_FAIL`: R459. -/
def GC_BOOT_STAGE_FAIL : Fld := ⟨0x10, 0, 1, 4, 1, .ro, .none, 0, .id, .none, .none, false⟩
/-- `GC_BOOT_STAGE_LINK_DONE`: R459. -/
def GC_BOOT_STAGE_LINK_DONE : Fld := ⟨0x10, 0, 1, 5, 1, .ro, .none, 0, .id, .none, .none, false⟩
/-- `GC_BOOT_STAGE_FAIL_CODE`: R459. -/
def GC_BOOT_STAGE_FAIL_CODE : Fld := ⟨0x10, 0, 1, 8, 8, .ro, .none, 0, .id, .none, .none, false⟩
/-- `GC_BOOT_STAGE_ELAPSED_MS`: R459. -/
def GC_BOOT_STAGE_ELAPSED_MS : Fld := ⟨0x10, 0, 1, 32, 32, .ro, .none, 0, .id, .none, .none, false⟩
/-- `SEC_STAT_ID_VALID`: R487. -/
def SEC_STAT_ID_VALID : Fld := ⟨0x200000, 0, 1, 0, 1, .ro, .none, 0, .id, .none, .none, false⟩
/-- `SEC_STAT_DEBUG`: R487. -/
def SEC_STAT_DEBUG : Fld := ⟨0x200000, 0, 1, 1, 3, .ro, .none, 0, .id, .none, .none, false⟩
/-- `SEC_STAT_FW_LOCKED`: R487. -/
def SEC_STAT_FW_LOCKED : Fld := ⟨0x200000, 0, 1, 4, 1, .ro, .none, 0, .id, .none, .none, false⟩
/-- `SEC_STAT_BOOT_SRC`: R487. -/
def SEC_STAT_BOOT_SRC : Fld := ⟨0x200000, 0, 1, 5, 2, .ro, .none, 0, .id, .none, .none, false⟩
/-- `SEC_DEVICE_ID_LO`: R487. -/
def SEC_DEVICE_ID_LO : Fld := ⟨0x200008, 0, 1, 0, 64, .ro, .none, 0, .id, .none, .none, false⟩
/-- `SEC_DEVICE_ID_HI`: R487. -/
def SEC_DEVICE_ID_HI : Fld := ⟨0x200010, 0, 1, 0, 64, .ro, .none, 0, .id, .none, .none, false⟩
/-- `SEC_VERSION_FW`: R487. -/
def SEC_VERSION_FW : Fld := ⟨0x200018, 0, 1, 0, 32, .ro, .none, 0, .id, .none, .none, false⟩
/-- `SEC_VERSION_ROM`: R487. -/
def SEC_VERSION_ROM : Fld := ⟨0x200018, 0, 1, 32, 32, .ro, .none, 0, .id, .none, .none, false⟩
/-- `SEC_LIC_SERIAL`: R487. -/
def SEC_LIC_SERIAL : Fld := ⟨0x200020, 0, 1, 0, 64, .ro, .none, 0, .id, .none, .none, false⟩
/-- `SEC_LIC_TILES`: R487. -/
def SEC_LIC_TILES : Fld := ⟨0x200028, 0, 1, 0, 9, .ro, .none, 0, .id, .none, .none, false⟩
/-- `SEC_CMD_OP`: R487. -/
def SEC_CMD_OP : Fld := ⟨0x200030, 0, 1, 0, 4, .wo, .live, 0, .id, .none, .none, true⟩
/-- `SEC_ARG_ADDR`: R487. -/
def SEC_ARG_ADDR : Fld := ⟨0x200038, 0, 1, 0, 48, .rw, .live, 0, .id, .none, .none, false⟩
/-- `SEC_ARG_SLOT`: R487. -/
def SEC_ARG_SLOT : Fld := ⟨0x200038, 0, 1, 48, 1, .rw, .live, 0, .id, .none, .none, false⟩
/-- `SEC_CMD_STAT_BUSY`: R487. -/
def SEC_CMD_STAT_BUSY : Fld := ⟨0x200040, 0, 1, 0, 1, .ro, .none, 0, .id, .none, .none, false⟩
/-- `SEC_CMD_STAT_REJ`: R487. -/
def SEC_CMD_STAT_REJ : Fld := ⟨0x200040, 0, 1, 1, 1, .w1c, .none, 0, .id, .none, .none, false⟩
/-- `SEC_CMD_STAT_STATUS`: R487. -/
def SEC_CMD_STAT_STATUS : Fld := ⟨0x200040, 0, 1, 8, 8, .ro, .none, 0, .id, .none, .none, false⟩
/-- `SEC_CMD_STAT_OP`: R487. -/
def SEC_CMD_STAT_OP : Fld := ⟨0x200040, 0, 1, 16, 4, .ro, .none, 0, .id, .none, .none, false⟩
/-- `SEC_BOOT_OFS_HALF`: R487. -/
def SEC_BOOT_OFS_HALF : Fld := ⟨0x200048, 0, 1, 0, 1, .rw, .live, 0, .id, .none, .none, false⟩
/-- `HV_CTL_EN`: R496. -/
def HV_CTL_EN : Fld := ⟨0x400000, 0, 1, 0, 1, .rw, .live, 0, .id, .none, .none, false⟩
/-- `HV_CTL_RING`: R496. -/
def HV_CTL_RING : Fld := ⟨0x400000, 0, 1, 8, 21, .rw, .static, 0, .id, .hv, .none, false⟩
/-- `HV_TEL_CTL_PERIOD_MS`: R496. -/
def HV_TEL_CTL_PERIOD_MS : Fld := ⟨0x400008, 0, 1, 0, 16, .rw, .live, 1000, .lowNonzero 10, .none, .none, false⟩
/-- `HV_SCRUB_CTL_PERIOD_H`: R496. -/
def HV_SCRUB_CTL_PERIOD_H : Fld := ⟨0x400010, 0, 1, 0, 8, .rw, .live, 24, .range 1 255, .none, .none, false⟩
/-- `HV_SCRUB_CTL_EN`: R496. -/
def HV_SCRUB_CTL_EN : Fld := ⟨0x400010, 0, 1, 8, 1, .rw, .live, 1, .id, .none, .none, false⟩
/-- `HV_SCRUB_STAT_PASSES`: R496. -/
def HV_SCRUB_STAT_PASSES : Fld := ⟨0x400018, 0, 1, 0, 32, .rc, .none, 0, .id, .none, .none, false⟩
/-- `HV_SCRUB_STAT_BEHIND`: R496. -/
def HV_SCRUB_STAT_BEHIND : Fld := ⟨0x400018, 0, 1, 32, 32, .rc, .none, 0, .id, .none, .none, false⟩
/-- `HV_THERM_CTL_T1`: R496. -/
def HV_THERM_CTL_T1 : Fld := ⟨0x400020, 0, 1, 0, 8, .rw, .live, 95, .range 0 103, .none, .none, false⟩
/-- `HV_THERM_CTL_T2`: R496. -/
def HV_THERM_CTL_T2 : Fld := ⟨0x400020, 0, 1, 8, 8, .rw, .live, 100, .thermT2, .none, .none, false⟩
/-- `HV_THERM_CTL_HYST`: R496. -/
def HV_THERM_CTL_HYST : Fld := ⟨0x400020, 0, 1, 16, 4, .rw, .live, 5, .range 1 15, .none, .none, false⟩
/-- `HV_THERM_CTL_STACK_T`: R496. -/
def HV_THERM_CTL_STACK_T : Fld := ⟨0x400020, 0, 1, 24, 8, .rw, .live, 90, .range 0 104, .none, .none, false⟩
/-- `HV_THERM_STAT_LOGIC_MAX`: R496. -/
def HV_THERM_STAT_LOGIC_MAX : Fld := ⟨0x400028, 0, 1, 0, 8, .ro, .none, 0, .id, .none, .none, false⟩
/-- `HV_THERM_STAT_SENSOR`: R496. -/
def HV_THERM_STAT_SENSOR : Fld := ⟨0x400028, 0, 1, 8, 6, .ro, .none, 0, .id, .none, .none, false⟩
/-- `HV_THERM_STAT_DEMAND`: R496. -/
def HV_THERM_STAT_DEMAND : Fld := ⟨0x400028, 0, 1, 16, 2, .ro, .none, 0, .id, .none, .none, false⟩
/-- `HV_CAL_CTL_SERDES_S`: R496. -/
def HV_CAL_CTL_SERDES_S : Fld := ⟨0x400030, 0, 1, 0, 16, .rw, .live, 60, .id, .none, .none, false⟩
/-- `HV_WEAR_CTL_LIMIT_PPM`: R496. -/
def HV_WEAR_CTL_LIMIT_PPM : Fld := ⟨0x400038, 0, 1, 0, 16, .rw, .live, 20000, .id, .none, .none, false⟩
/-- `HV_WEAR_STAT_WORST_PPM`: R496. -/
def HV_WEAR_STAT_WORST_PPM : Fld := ⟨0x400040, 0, 1, 0, 16, .ro, .none, 0, .id, .none, .none, false⟩
/-- `HV_WEAR_STAT_MONITOR`: R496. -/
def HV_WEAR_STAT_MONITOR : Fld := ⟨0x400040, 0, 1, 16, 9, .ro, .none, 0, .id, .none, .none, false⟩
/-- `HV_FLASH_STAT_SECTOR`: R496. -/
def HV_FLASH_STAT_SECTOR : Fld := ⟨0x400048, 0, 1, 0, 16, .ro, .none, 0, .id, .none, .none, false⟩
/-- `HV_FLASH_STAT_REFUSED`: R496. -/
def HV_FLASH_STAT_REFUSED : Fld := ⟨0x400048, 0, 1, 32, 32, .rc, .none, 0, .id, .none, .none, false⟩
/-- `HV_RAIL_MIN_MV`: R496. -/
def HV_RAIL_MIN_MV : Fld := ⟨0x400100, 8, 8, 0, 16, .rc, .none, 65535, .id, .none, .none, false⟩
/-- `HV_RAIL_MAX_MV`: R496. -/
def HV_RAIL_MAX_MV : Fld := ⟨0x400100, 8, 8, 16, 16, .rc, .none, 0, .id, .none, .none, false⟩
/-- `HV_RAIL_ALARM_MV`: R496. -/
def HV_RAIL_ALARM_MV : Fld := ⟨0x400100, 8, 8, 32, 16, .rw, .live, 0, .id, .none, .none, false⟩
/-- `HV_WEAR_COUNT`: R496. -/
def HV_WEAR_COUNT : Fld := ⟨0x401000, 8, 288, 0, 32, .ro, .none, 0, .id, .none, .none, false⟩
/-- `HV_WEAR_BASELINE`: R496. -/
def HV_WEAR_BASELINE : Fld := ⟨0x401000, 8, 288, 32, 32, .ro, .none, 0, .id, .none, .none, false⟩
/-- `HV_SNAP`: R496. -/
def HV_SNAP : Fld := ⟨0x402000, 8, 1024, 0, 64, .ro, .none, 0, .id, .none, .none, false⟩
/-- `GC_ID_PART`: R499. -/
def GC_ID_PART : Fld := ⟨0x0, 0, 1, 0, 16, .ro, .none, 17956, .id, .none, .none, false⟩
/-- `GC_ID_FAMILY`: R499. -/
def GC_ID_FAMILY : Fld := ⟨0x0, 0, 1, 16, 8, .ro, .none, 8, .id, .none, .none, false⟩
/-- `GC_ID_MAJOR`: R499. -/
def GC_ID_MAJOR : Fld := ⟨0x0, 0, 1, 24, 4, .ro, .none, 1, .id, .none, .none, false⟩
/-- `GC_ID_MINOR`: R499. -/
def GC_ID_MINOR : Fld := ⟨0x0, 0, 1, 28, 4, .ro, .none, 0, .id, .none, .none, false⟩
/-- `GC_ID_LANE_ISA`: R499. -/
def GC_ID_LANE_ISA : Fld := ⟨0x0, 0, 1, 32, 8, .ro, .none, 2, .id, .none, .none, false⟩
/-- `GC_CAP_PHYS_TILES`: R500. -/
def GC_CAP_PHYS_TILES : Fld := ⟨0x8, 0, 1, 0, 9, .ro, .none, 272, .id, .none, .none, false⟩
/-- `GC_CAP_SENSOR_LANES`: R500. -/
def GC_CAP_SENSOR_LANES : Fld := ⟨0x8, 0, 1, 16, 6, .ro, .none, 32, .id, .none, .none, false⟩
/-- `GC_CAP_STREAMS`: R500. -/
def GC_CAP_STREAMS : Fld := ⟨0x8, 0, 1, 24, 7, .ro, .none, 64, .id, .none, .none, false⟩
/-- `GC_CAP_DRAM_GIB`: R500. -/
def GC_CAP_DRAM_GIB : Fld := ⟨0x8, 0, 1, 32, 8, .ro, .none, 48, .id, .none, .none, false⟩
/-- `GC_CAP_GROUP_PARTS`: R500. -/
def GC_CAP_GROUP_PARTS : Fld := ⟨0x8, 0, 1, 40, 5, .ro, .none, 16, .id, .none, .none, false⟩
/-- `GC_CAP_M5C`: R500. -/
def GC_CAP_M5C : Fld := ⟨0x8, 0, 1, 45, 1, .ro, .none, 1, .id, .none, .none, false⟩
/-- `GC_ENABLE_SP`: R501. -/
def GC_ENABLE_SP : Fld := ⟨0x18, 0, 1, 0, 1, .rw, .live, 1, .id, .none, .none, true⟩
/-- `GC_ENABLE_LT`: R501. -/
def GC_ENABLE_LT : Fld := ⟨0x18, 0, 1, 1, 1, .rw, .live, 1, .id, .none, .none, true⟩
/-- `GC_ENABLE_IG`: R501. -/
def GC_ENABLE_IG : Fld := ⟨0x18, 0, 1, 2, 1, .rw, .live, 1, .id, .none, .none, true⟩
/-- `GC_ENABLE_BE`: R501. -/
def GC_ENABLE_BE : Fld := ⟨0x18, 0, 1, 3, 1, .rw, .live, 1, .id, .none, .none, true⟩
/-- `GC_ENABLE_SE`: R501. -/
def GC_ENABLE_SE : Fld := ⟨0x18, 0, 1, 4, 1, .rw, .live, 1, .id, .none, .none, true⟩
/-- `GC_ENABLE_SC`: R501. -/
def GC_ENABLE_SC : Fld := ⟨0x18, 0, 1, 5, 1, .rw, .live, 1, .id, .none, .none, true⟩
/-- `GC_ENABLE_SY`: R501. -/
def GC_ENABLE_SY : Fld := ⟨0x18, 0, 1, 6, 1, .rw, .live, 1, .id, .none, .none, true⟩
/-- `GC_ENABLE_QM`: R501. -/
def GC_ENABLE_QM : Fld := ⟨0x18, 0, 1, 7, 1, .rw, .live, 1, .id, .none, .none, true⟩
/-- `GC_ENABLE_PM`: R501. -/
def GC_ENABLE_PM : Fld := ⟨0x18, 0, 1, 8, 1, .rw, .live, 1, .id, .none, .none, true⟩
/-- `GC_ENABLE_EV`: R501. -/
def GC_ENABLE_EV : Fld := ⟨0x18, 0, 1, 9, 1, .rw, .live, 1, .id, .none, .none, true⟩
/-- `GC_ENABLE_HV`: R501. -/
def GC_ENABLE_HV : Fld := ⟨0x18, 0, 1, 10, 1, .rw, .live, 1, .id, .none, .none, true⟩
/-- `CK_PWR_LIMIT_LIMIT_W`: R517. -/
def CK_PWR_LIMIT_LIMIT_W : Fld := ⟨0x100048, 0, 1, 0, 9, .rw, .live, 350, .range 200 400, .none, .none, false⟩
/-- `CK_PWR_LIMIT_HYST_W`: R517. -/
def CK_PWR_LIMIT_HYST_W : Fld := ⟨0x100048, 0, 1, 16, 6, .rw, .live, 10, .range 1 50, .none, .none, false⟩
/-- `CK_PWR_LIMIT_EN`: R517. -/
def CK_PWR_LIMIT_EN : Fld := ⟨0x100048, 0, 1, 24, 1, .rw, .live, 1, .id, .none, .none, false⟩
/-- `CK_PWR_STAT_POWER`: R518. -/
def CK_PWR_STAT_POWER : Fld := ⟨0x100050, 0, 1, 0, 16, .ro, .none, 0, .id, .none, .none, false⟩
/-- `CK_PWR_STAT_DEMAND`: R518. -/
def CK_PWR_STAT_DEMAND : Fld := ⟨0x100050, 0, 1, 16, 2, .ro, .none, 0, .id, .none, .none, false⟩
/-- `CK_PWR_STAT_OVER`: R518. -/
def CK_PWR_STAT_OVER : Fld := ⟨0x100050, 0, 1, 18, 1, .ro, .none, 0, .id, .none, .none, false⟩
/-- `CK_PLL_STAT_LOCKED`: R519. -/
def CK_PLL_STAT_LOCKED : Fld := ⟨0x100000, 0, 1, 0, 1, .ro, .none, 0, .id, .none, .none, false⟩
/-- `CK_PLL_STAT_SYS_REF_OK`: R519. -/
def CK_PLL_STAT_SYS_REF_OK : Fld := ⟨0x100000, 0, 1, 1, 1, .ro, .none, 0, .id, .none, .none, false⟩
/-- `CK_PLL_STAT_PCIE_REF_OK`: R519. -/
def CK_PLL_STAT_PCIE_REF_OK : Fld := ⟨0x100000, 0, 1, 2, 1, .ro, .none, 0, .id, .none, .none, false⟩
/-- `CK_PLL_STAT_SNS_REF_OK`: R519. -/
def CK_PLL_STAT_SNS_REF_OK : Fld := ⟨0x100000, 0, 1, 3, 1, .ro, .none, 0, .id, .none, .none, false⟩
/-- `CK_PLL_STAT_LOCK_US`: R519. -/
def CK_PLL_STAT_LOCK_US : Fld := ⟨0x100000, 0, 1, 16, 16, .ro, .none, 0, .id, .none, .none, false⟩
/-- `SC_RETIRED`: R58. -/
def SC_RETIRED : Fld := ⟨0x800020, 0, 1, 0, 64, .rc, .none, 0, .id, .none, .none, false⟩
/-- `SC_ABORTED`: R58. -/
def SC_ABORTED : Fld := ⟨0x800028, 0, 1, 0, 64, .rc, .none, 0, .id, .none, .none, false⟩
/-- `SC_CTX_WAIT`: R58. -/
def SC_CTX_WAIT : Fld := ⟨0x800030, 0, 1, 0, 64, .rc, .none, 0, .id, .none, .none, false⟩
/-- `GC_SCRATCH`: R502. -/
def GC_SCRATCH : Fld := ⟨0x20, 0, 1, 0, 64, .rw, .live, 0, .id, .none, .none, false⟩
/-- `GC_BOOT_RECORD`: R460. -/
def GC_BOOT_RECORD : Fld := ⟨0x400, 8, 72, 0, 64, .ro, .none, 0, .id, .none, .none, false⟩
/-- `TA_RT_FLITS_N`: R157. -/
def TA_RT_FLITS_N : Fld := ⟨0xf01200, 0, 1, 0, 64, .rc, .none, 0, .id, .none, .tile, false⟩
/-- `TA_RT_FLITS_E`: R157. -/
def TA_RT_FLITS_E : Fld := ⟨0xf01208, 0, 1, 0, 64, .rc, .none, 0, .id, .none, .tile, false⟩
/-- `TA_RT_FLITS_S`: R157. -/
def TA_RT_FLITS_S : Fld := ⟨0xf01210, 0, 1, 0, 64, .rc, .none, 0, .id, .none, .tile, false⟩
/-- `TA_RT_FLITS_W`: R157. -/
def TA_RT_FLITS_W : Fld := ⟨0xf01218, 0, 1, 0, 64, .rc, .none, 0, .id, .none, .tile, false⟩
/-- `TA_RT_FLITS_L`: R157. -/
def TA_RT_FLITS_L : Fld := ⟨0xf01220, 0, 1, 0, 64, .rc, .none, 0, .id, .none, .tile, false⟩
/-- `TA_RT_STALL_REQ`: R157. -/
def TA_RT_STALL_REQ : Fld := ⟨0xf01240, 0, 1, 0, 64, .rc, .none, 0, .id, .none, .tile, false⟩
/-- `TA_RT_STALL_RSP`: R157. -/
def TA_RT_STALL_RSP : Fld := ⟨0xf01248, 0, 1, 0, 64, .rc, .none, 0, .id, .none, .tile, false⟩
/-- `TA_RT_STALL_SYNC`: R157. -/
def TA_RT_STALL_SYNC : Fld := ⟨0xf01250, 0, 1, 0, 64, .rc, .none, 0, .id, .none, .tile, false⟩
/-- `SP_SEL_PORT`: R78. -/
def SP_SEL_PORT : Fld := ⟨0xa00000, 0, 1, 0, 5, .rw, .live, 0, .id, .none, .req, false⟩
/-- `BE_SEL_ENGINE`: R122. -/
def BE_SEL_ENGINE : Fld := ⟨0xd00000, 0, 1, 0, 5, .rw, .live, 0, .id, .none, .req, false⟩
/-- `SE_SEL_ENGINE`: R314. -/
def SE_SEL_ENGINE : Fld := ⟨0xe00000, 0, 1, 0, 5, .rw, .live, 0, .id, .none, .req, false⟩
/-- `MEM_SEL_CHANNEL`: R336. -/
def MEM_SEL_CHANNEL : Fld := ⟨0x1000000, 0, 1, 0, 8, .rw, .live, 0, .id, .none, .req, false⟩
/-- `QM_SEL_RING`: R357. -/
def QM_SEL_RING : Fld := ⟨0x600000, 0, 1, 0, 21, .rw, .live, 0, .id, .none, .req, false⟩
/-- `HL_MSIX_ADDR`: R351. -/
def HL_MSIX_ADDR : Fld := ⟨0x1180000, 16, 2048, 0, 64, .rw, .live, 0, .id, .none, .none, false⟩
/-- `HL_MSIX_DATA`: R351. -/
def HL_MSIX_DATA : Fld := ⟨0x1180008, 16, 2048, 0, 32, .rw, .live, 0, .id, .none, .none, false⟩
/-- `HL_MSIX_MASK`: R351. -/
def HL_MSIX_MASK : Fld := ⟨0x1180008, 16, 2048, 32, 1, .rw, .live, 1, .id, .none, .none, false⟩
/-- `HL_MSIX_PENDING`: R351. -/
def HL_MSIX_PENDING : Fld := ⟨0x1188000, 8, 32, 0, 64, .ro, .none, 0, .id, .none, .none, false⟩
/-- `SEC_DBG_CHAL`: R483. -/
def SEC_DBG_CHAL : Fld := ⟨0x200100, 8, 4, 0, 64, .ro, .none, 0, .id, .none, .none, false⟩
/-- `SEC_STAGE`: R487. -/
def SEC_STAGE : Fld := ⟨0x200800, 8, 64, 0, 64, .rw, .live, 0, .id, .none, .none, false⟩
/-- `SEC_BOOT_WIN`: R473. -/
def SEC_BOOT_WIN : Fld := ⟨0x280000, 8, 65536, 0, 64, .rw, .live, 0, .id, .none, .none, false⟩
/-- `TA_HANDLE`: R273. -/
def TA_HANDLE : Fld := ⟨0xf02000, 8, 512, 0, 64, .ro, .none, 0, .id, .none, .tile, false⟩

/-- The fields of block GC. -/
def gcAll : List Fld :=
  [GC_BOOT_STAGE_STAGE, GC_BOOT_STAGE_FAIL, GC_BOOT_STAGE_LINK_DONE, GC_BOOT_STAGE_FAIL_CODE, GC_BOOT_STAGE_ELAPSED_MS, GC_ID_PART, GC_ID_FAMILY, GC_ID_MAJOR, GC_ID_MINOR, GC_ID_LANE_ISA, GC_CAP_PHYS_TILES, GC_CAP_SENSOR_LANES, GC_CAP_STREAMS, GC_CAP_DRAM_GIB, GC_CAP_GROUP_PARTS, GC_CAP_M5C, GC_ENABLE_SP, GC_ENABLE_LT, GC_ENABLE_IG, GC_ENABLE_BE, GC_ENABLE_SE, GC_ENABLE_SC, GC_ENABLE_SY, GC_ENABLE_QM] ++
  [GC_ENABLE_PM, GC_ENABLE_EV, GC_ENABLE_HV, GC_SCRATCH, GC_BOOT_RECORD]

/-- The fields of block CK. -/
def ckAll : List Fld :=
  [CK_ACLK_CTL_STEP, CK_ACLK_CTL_THERM_STEP, CK_ACLK_CTL_FORCE_STEP, CK_ACLK_CTL_SWITCH_LAT, CK_ACLK_CTL_STEP_CHANGES, CK_PWR_LIMIT_LIMIT_W, CK_PWR_LIMIT_HYST_W, CK_PWR_LIMIT_EN, CK_PWR_STAT_POWER, CK_PWR_STAT_DEMAND, CK_PWR_STAT_OVER, CK_PLL_STAT_LOCKED, CK_PLL_STAT_SYS_REF_OK, CK_PLL_STAT_PCIE_REF_OK, CK_PLL_STAT_SNS_REF_OK, CK_PLL_STAT_LOCK_US]

/-- The fields of block SEC. -/
def secAll : List Fld :=
  [SEC_STAT_ID_VALID, SEC_STAT_DEBUG, SEC_STAT_FW_LOCKED, SEC_STAT_BOOT_SRC, SEC_DEVICE_ID_LO, SEC_DEVICE_ID_HI, SEC_VERSION_FW, SEC_VERSION_ROM, SEC_LIC_SERIAL, SEC_LIC_TILES, SEC_CMD_OP, SEC_ARG_ADDR, SEC_ARG_SLOT, SEC_CMD_STAT_BUSY, SEC_CMD_STAT_REJ, SEC_CMD_STAT_STATUS, SEC_CMD_STAT_OP, SEC_BOOT_OFS_HALF, SEC_DBG_CHAL, SEC_STAGE, SEC_BOOT_WIN]

/-- The fields of block FM. -/
def fmAll : List Fld :=
  [FM_CTL_IRQ_EN, FM_CTL_QMAX, FM_CTL_LOG_THRESH, FM_CTL_AUTO_DEV, FM_CTL_DEV_DELAY, FM_CTL_SETTLE_MS, FM_STAT_STATE, FM_STAT_OVERFLOW, FM_STAT_DEV_REQ, FM_STAT_PLAN_HALT, FM_STAT_HALTED_PLAN, FM_STAT_QUARANTINED, FM_LOG_IDX_HEAD, FM_LOG_IDX_TAIL, FM_LOG_ACK_HEAD, FM_CMD_FROST, FM_CMD_DEV_RESET, FM_CMD_RETRY_TBL, FM_CMD_ENGINE, FM_FROST_LAST_US, FM_FROST_LAST_CAUSE, FM_LOG, FM_CNT_ERRORS, FM_CNT_MERGED] ++
  [FM_CNT_LOST, FM_CNT_ESCALATED, FM_CNT_QUARANTINE, FM_CNT_FROST, FM_CNT_PLAN_HALT]

/-- The fields of block HV. -/
def hvAll : List Fld :=
  [HV_CTL_EN, HV_CTL_RING, HV_TEL_CTL_PERIOD_MS, HV_SCRUB_CTL_PERIOD_H, HV_SCRUB_CTL_EN, HV_SCRUB_STAT_PASSES, HV_SCRUB_STAT_BEHIND, HV_THERM_CTL_T1, HV_THERM_CTL_T2, HV_THERM_CTL_HYST, HV_THERM_CTL_STACK_T, HV_THERM_STAT_LOGIC_MAX, HV_THERM_STAT_SENSOR, HV_THERM_STAT_DEMAND, HV_CAL_CTL_SERDES_S, HV_WEAR_CTL_LIMIT_PPM, HV_WEAR_STAT_WORST_PPM, HV_WEAR_STAT_MONITOR, HV_FLASH_STAT_SECTOR, HV_FLASH_STAT_REFUSED, HV_RAIL_MIN_MV, HV_RAIL_MAX_MV, HV_RAIL_ALARM_MV, HV_WEAR_COUNT] ++
  [HV_WEAR_BASELINE, HV_SNAP]

/-- The fields of block EV. -/
def evAll : List Fld :=
  [EV_CTL_EN, EV_SET_SOURCE, EV_CLEAR_SOURCE, EV_CORE_STAT_ACTIVE, EV_CORE_STAT_RESERVED, EV_CORE_STAT_HM, EV_CORE_STAT_EE, EV_CORE_STAT_SLEEP, EV_CORE_STAT_TPRI, EV_SRC_EN, EV_SRC_ROUTE, EV_SRC_STATE, EV_SRC_ASYNC, EV_SRC_COALESCED, EV_CNT_DELIVERED, EV_CNT_CHAINED, EV_CNT_SPURIOUS, EV_CNT_BAD_DONE, EV_CNT_COALESCED]

/-- The fields of block QM. -/
def qmAll : List Fld :=
  [QM_RING_CFG_EN, QM_RING_CFG_KIND, QM_RING_CFG_FORMAT, QM_RING_CFG_ESZ, QM_RING_CFG_LOG2N, QM_RING_CFG_PRIO, QM_RING_CFG_IRQ_EN, QM_RING_CFG_VECTOR, QM_RING_BASE, QM_RING_WB, QM_RING_IDX_HEAD, QM_RING_IDX_TAIL, QM_RING_PAIR_CPL_RING, QM_RING_PAIR_RES_RING, QM_RING_PAIR_RES_EN, QM_RING_COAL_CNT, QM_RING_COAL_US, QM_RING_STAT_ERR, QM_RING_STAT_DB_REJ, QM_RING_STAT_ARMED, QM_RING_STAT_DROPPED, QM_RING_SEQ, QM_CTL_EN, QM_CTL_CFG_ERR] ++
  [QM_CTL_EVT_RING, QM_RCTX_BASE, QM_CACHE_STAT_VALID, QM_CACHE_STAT_PINNED, QM_STAGE_STAT_ONCHIP, QM_STAGE_STAT_SPILLED, QM_CNT_DB, QM_CNT_DB_REJ, QM_CNT_BURSTS, QM_CNT_DESC, QM_CNT_RESULTS, QM_CNT_EVENTS, QM_CNT_EVT_DROP, QM_CNT_MISROUTE, QM_CNT_SPILL, QM_CNT_CACHE_MISS, QM_CNT_CACHE_WAIT, QM_CNT_MSIX, QM_SEL_RING]

/-- The fields of block SY. -/
def syAll : List Fld :=
  [SY_CTL_EN, SY_STAT_OBJECTS, SY_STAT_QUEUES, SY_STAT_SLOTS, SY_STAT_OVF, SY_WAITERS_USED, SY_WAITERS_HWM, SY_CNT_ADDS, SY_CNT_WAKES, SY_CNT_PUSHES, SY_CNT_POPS, SY_CNT_CREDIT_WAIT, SY_OBJ_COUNT, SY_OBJ_CFG_KIND, SY_OBJ_CFG_ALLOC, SY_OBJ_CFG_WAITERS, SY_Q_STAT_HEAD, SY_Q_STAT_TAIL, SY_Q_STAT_FULL, SY_Q_STAT_KIND, SY_Q_STAT_PROD_ATT, SY_Q_STAT_CONS_ATT]

/-- The fields of block SC. -/
def scAll : List Fld :=
  [SC_JOB_CTL_EN, SC_JOB_CTL_MAX_RESTART, SC_JOB_CTL_WATCHDOG_MULT, SC_JOB_CTL_WAIT_LIMIT, SC_DISP_STAT_ELIG_DEPTH, SC_DISP_STAT_CTX_BUSY, SC_DISP_STAT_BE_BUSY, SC_DRIFT_STAT_PENDING, SC_DRIFT_STAT_TRAILS, SC_DRIFT_WAIT, SC_DRIFT_EVENTS, SC_DRIFT_PINNED, SC_CORE_STAT_STATE, SC_CORE_STAT_CAUSE, SC_CORE_STAT_PC, SC_CORE_TVAL, SC_CORE_FW, SC_CORE_CNT_INSTR, SC_CORE_CNT_LOOPBUF, SC_CORE_CNT_SLEEP, SC_CORE_CNT_SB_FWD, SC_CORE_CNT_SB_PARTIAL, SC_CORE_CNT_TRAPS, SC_RETIRED] ++
  [SC_ABORTED, SC_CTX_WAIT]

/-- The fields of block PM. -/
def pmAll : List Fld :=
  [PM_CTL_EN, PM_CTL_SELF, PM_CTL_PLAN, PM_CTL_RETRY_US, PM_TIMEOUT_TOKEN_TO, PM_TIMEOUT_MAX_RESEND, PM_EPOCH, PM_EPOCH_ADV, PM_WIN_CFG_EN, PM_WIN_CFG_PEER, PM_WIN_CFG_CLASS, PM_WIN_BASE, PM_WIN_SIZE, PM_WIN_STAT_STATE, PM_WIN_STAT_OPEN_ERR, PM_WIN_STAT_HELD, PM_WIN_STAT_EPOCH, PM_SEND_OFS, PM_SEND_CTL_EN, PM_SEND_CTL_SIZE, PM_SEND_STAT_CREDITS, PM_SEND_STAT_MSG_SEQ, PM_EXPERT_PART, PM_EXPERT_VALID] ++
  [PM_DISCARD_LOG_SENDER, PM_DISCARD_LOG_REQ_ID, PM_DISCARD_LOG_REASON, PM_DISCARD_LOG_WINDOW, PM_DISCARD_LOG_EPOCH, PM_DISCARD_LOG_TIME, PM_CNT_TOKENS_TX, PM_CNT_TOKENS_RX, PM_CNT_RESULTS_TX, PM_CNT_RESULTS_RX, PM_CNT_MERGED, PM_CNT_DISCARD, PM_CNT_NACK_RX, PM_CNT_RESEND, PM_CNT_DUP, PM_CNT_STRAY, PM_CNT_BAD_CAND, PM_CNT_CREDIT_WAIT]

/-- The fields of block SP. -/
def spAll : List Fld :=
  [SP_PORT_CTL_EN, SP_PORT_CTL_MODE, SP_PORT_CTL_FEC, SP_PORT_CTL_CXP_RATE, SP_PORT_CTL_CXP_LANES, SP_LINK_STAT_LINK_UP, SP_LINK_STAT_CFG_ERR, SP_LINK_STAT_FEC_DEGRADED, SP_LINK_STAT_LINK_DOWNS, SP_MAC_ADDR_MAC, SP_IP_ADDR_IP, SP_STREAM_FILT_UDP_DST, SP_STREAM_FILT_CXP_ID, SP_STREAM_FILT_SRC_CHECK, SP_SRC_ADDR, SP_RESEND_SRC, SP_TIMEOUT_IDLE_MS, SP_CTRL_RING_RING, SP_CTRL_RING_FWD_OTHER, SP_TX_RING_RING, SP_TS_ADJ_RX_LAT, SP_TS_ADJ_TX_LAT, SP_CXP_TRIG_EN, SP_CXP_TRIG_SRC] ++
  [SP_GVSP_CTL_EXT_ID, SP_GVSP_CTL_MAX_GAP, SP_GVSP_CTL_LINES_PER_BLOCK, SP_RESEND_CTL_EN, SP_RESEND_CTL_RESEND_MAX, SP_RESEND_CTL_RESEND_WAIT, SP_RESEND_CTL_DEADLINE, SP_CNT_MAC_ERR, SP_CNT_MAC_FILT, SP_CNT_CSUM, SP_CNT_MALFORMED, SP_CNT_FMT_MISMATCH, SP_CNT_DUP, SP_CNT_OOO, SP_CNT_LATE, SP_CNT_DISCONT, SP_CNT_RESEND_REQ, SP_CNT_RESEND_ACK, SP_CNT_RXQ_DROP, SP_CNT_SKEW, SP_CNT_FWD, SP_CNT_CTRL_DROP, SP_CNT_OTHER_DROP, SP_CNT_TRIG_MERGED] ++
  [SP_CNT_RX_BYTES, SP_SEL_PORT]

/-- The fields of block LT. -/
def ltAll : List Fld :=
  [LT_CTL_EN, LT_CTL_RING, LT_GI_LEVEL, LT_ENC_CTL_EN, LT_ENC_CTL_INVERT, LT_ENC_CTL_FILT, LT_ENC_CTL_SPD_WIN, LT_ENC_CTL_REV_HYST, LT_ENC_CTL_ERR_LIMIT, LT_ENC_POS, LT_ENC_SPEED, LT_ENC_LIMITS_SPD_MAX, LT_ENC_LIMITS_STALL_US, LT_ENC_LIMITS_EOS_MS, LT_ENC_STAT_STATE, LT_ENC_STAT_SPD_RANGE, LT_ENC_STAT_FAULT, LT_ENC_HWM, LT_ENC_ERRS, LT_GI_CTL_EN, LT_GI_CTL_POL, LT_GI_CTL_FILT, LT_GI_CTL_EDGE, LT_GI_TIME] ++
  [LT_TRIG_CTL_EN, LT_TRIG_CTL_SRC, LT_TRIG_CTL_SRC_IDX, LT_TRIG_CTL_POL, LT_TRIG_CTL_GATE_EN, LT_TRIG_CTL_GATE_GI, LT_TRIG_CTL_ALIGN, LT_TRIG_CTL_CFG_ERR, LT_TRIG_FIRE, LT_TRIG_PERIOD, LT_TRIG_SHAPE_DELAY, LT_TRIG_SHAPE_WIDTH, LT_TRIG_CNT_PULSES, LT_TRIG_CNT_MERGED, LT_TB_TIME, LT_TB_SET, LT_TB_INCR, LT_TB_ADJ, LT_STREAM_LINK_EN, LT_STREAM_LINK_ENC, LT_STREAM_LINK_TRIG, LT_STREAM_LINK_TRIG_EN, LT_STREAM_LINK_PRESENT_GI, LT_STREAM_LINK_PRESENT_EN] ++
  [LT_STREAM_LINK_WELD_GI, LT_STREAM_LINK_WELD_EN, LT_STREAM_LINK_EOS_FLUSH, LT_STREAM_LINK_WELD_FLUSH, LT_STREAM_LAT_LAT, LT_STREAM_LAT_MAX_LAT, LT_STREAM_LAT_FALLBACKS]

/-- The fields of block IG. -/
def igAll : List Fld :=
  [IG_CTL_EN, IG_CTL_RING, IG_RET_BASE, IG_RET_SIZE, IG_STAT_SRAM_BLOCKS, IG_STAT_RET_UNITS, IG_SRAM_HWM, IG_RET_STALL, IG_STREAM_FMT_BITS, IG_STREAM_FMT_PACKED, IG_STREAM_FMT_BAYER, IG_STREAM_FMT_FILL, IG_STREAM_FMT_WIDTH, IG_STREAM_GEOM_SEG, IG_STREAM_GEOM_HCODE, IG_STREAM_GEOM_EPOCH_K, IG_STREAM_STAT_SRAM_BLOCKS, IG_STREAM_STAT_RET_UNITS, IG_CNT_OVERBITS, IG_CNT_HOST_WAIT, IG_STREAM_DRIFT_LAG]

/-- The fields of block BE. -/
def beAll : List Fld :=
  [BE_CTL_EN, BE_CTL_STREAM, BE_CTL_CFG_ERR, BE_TBL_LOAD, BE_TBL_SWAP, BE_TBL_STAT_READY, BE_TBL_STAT_LOADING, BE_TBL_STAT_OLD_BUSY, BE_TBL_STAT_LOAD_ERR, BE_TBL_STAT_SWAP_ERR, BE_TBL_STAT_VERSION, BE_CNT_JOBS, BE_CNT_SAT, BE_CNT_NOREPL, BE_CNT_PARITY, BE_CNT_BUSY, BE_SEL_ENGINE]

/-- The fields of block SE. -/
def seAll : List Fld :=
  [SE_ENG_CTL_EN, SE_ENG_CTL_EVT_RING, SE_ENG_STAT_CTX_BUSY, SE_ENG_STAT_OUTSTANDING, SE_BW_HRD_RATE, SE_BW_HRD_BURST, SE_BW_HWR_RATE, SE_BW_HWR_BURST, SE_BW_PWR_RATE, SE_BW_PWR_BURST, SE_CTX_ARM, SE_CTX_STAT_STATE, SE_CTX_STAT_SHADOW, SE_CTX_STAT_REARM_REJ, SE_CTX_STAT_HOLDER, SE_CTX_STAT_ATTEMPT, SE_CTX_STAT_OUT, SE_CTX_STAT_LAST, SE_CTX_JOB, SE_CTX_DESC, SE_CTX_POS, SE_CTX_POS_OFS, SE_CTX_CMD_CANCEL, SE_CTX_CMD_RESUME] ++
  [SE_CNT_DESC, SE_CNT_RD_BYTES, SE_CNT_WR_BYTES, SE_CNT_PARTIAL, SE_CNT_OUT_STALL, SE_CNT_BW_STALL, SE_CNT_DRY, SE_CNT_REARM_REJ, SE_CNT_POISON, SE_CNT_DISCARD, SE_CNT_HALT, SE_CNT_HOST_REFUSED, SE_SEL_ENGINE]

/-- The fields of block TA. -/
def taAll : List Fld :=
  [TA_SEL_INDEX, TA_SEL_PHYS, TA_GRID_ROWS, TA_GRID_ENABLED, TA_COL_MAP_DISABLED, TA_TILE_MAP_COL, TA_TILE_MAP_ROW, TA_TILE_MAP_LOGICAL, TA_TILE_MAP_STATE, TA_TILE_CTL_DISP_EN, TA_TILE_CTL_PREDICT_EN, TA_TILE_CTL_DUAL_EN, TA_TILE_CTL_LOOPBUF_EN, TA_TASK_SUMMARY_HELD, TA_TASK_SUMMARY_READY, TA_TASK_SUMMARY_WAITING, TA_TASK_SUMMARY_RUNNING, TA_TASK_SUMMARY_RUN_VALID, TA_TASK_JOB, TA_TASK_STAT_STATE, TA_TASK_STAT_WAIT, TA_TASK_STAT_ATTEMPT, TA_TASK_STAT_SOLSTICE, TA_TASK_STAT_LONG] ++
  [TA_TASK_STAT_PC, TA_CNT_BUNDLES, TA_CNT_DUAL, TA_CNT_ACTIVE, TA_CNT_IDLE, TA_CNT_SWITCH, TA_CNT_SWITCH_CYC, TA_CNT_STALL, TA_CNT_SB_FWD, TA_CNT_SB_PARTIAL, TA_CNT_IC_MISS, TA_CNT_BR_MISS, TA_CNT_TS_STALL, TA_CNT_IPARITY, TA_MX_STAT_QDEPTH, TA_MX_STAT_BANKS_BUSY, TA_MX_STAT_CB_VALID, TA_MX_CTL_INJECT, TA_MX_CMDS, TA_MX_BLOCKS, TA_MX_KCYC, TA_MX_BANKWAIT, TA_MX_QFULL, TA_MX_SAT] ++
  [TA_MX_NONFINITE, TA_MX_SKEW, TA_MX_RESIDUE, TA_SLOT_CTL_EN, TA_CNT_WPORT_WAIT, TA_CNT_WIDE_WAIT, TA_CNT_SP_PARITY, TA_CNT_GROW, TA_CNT_ABSENT, TA_CNT_SLOTPROT, TA_RT_FLITS_N, TA_RT_FLITS_E, TA_RT_FLITS_S, TA_RT_FLITS_W, TA_RT_FLITS_L, TA_RT_STALL_REQ, TA_RT_STALL_RSP, TA_RT_STALL_SYNC, TA_HANDLE]

/-- The fields of block MEM. -/
def memAll : List Fld :=
  [MEM_MAP_CTL_HASH, MEM_MAP_CTL_COMMIT, MEM_MAP_RET_BASE, MEM_MAP_RET_SIZE, MEM_MAP_STAT_COMMITTED, MEM_MAP_STAT_RET_MISMATCH, MEM_MAP_STAT_RET_RANGE, MEM_REF_CTL_FORCE_DOUBLE, MEM_WITHHELD_CNT, MEM_STACK_STAT_TEMP, MEM_STACK_STAT_REF_DOUBLE, MEM_STACK_STAT_HOT, MEM_WITHHELD_ADDR, MEM_WITHHELD_RET, MEM_CH_INFO_STACK, MEM_CH_INFO_DIE, MEM_CH_INFO_REPAIRS, MEM_CH_INFO_QUEUED, MEM_CH_CTL_INJECT, MEM_REPAIR_BANK, MEM_REPAIR_ROW, MEM_REPAIR_SPARE, MEM_REPAIR_VALID, MEM_REPAIR_SOURCE] ++
  [MEM_SUSPECT_BANK, MEM_SUSPECT_ROW, MEM_SUSPECT_FAILS, MEM_SUSPECT_VALID, MEM_CNT_RD, MEM_CNT_WR, MEM_CNT_RMW, MEM_CNT_RETRY_OK, MEM_CNT_CRC, MEM_CNT_POISON_RD, MEM_CNT_POISON_WR, MEM_CNT_SCRUB, MEM_CNT_SCRUB_MARK, MEM_CNT_REFRESH, MEM_CNT_WITHHELD, MEM_CNT_FULL, MEM_SEL_CHANNEL]

/-- The fields of block HL. -/
def hlAll : List Fld :=
  [HL_LINK_STAT_SPEED, HL_LINK_STAT_WIDTH, HL_LINK_STAT_FLIT, HL_LINK_STAT_TAGS, HL_LINK_STAT_RETRAINS, HL_CPL_TO_US, HL_HOST_WIN_BASE, HL_HOST_WIN_SIZE, HL_BAR4_MAP_BASE, HL_REG_ERR_CFG_LOCKED, HL_REG_ERR_BAD_ACCESS, HL_REG_ERR_SEL, HL_REG_ERR_OFFSET, HL_PEER_BASE, HL_PEER_CTL_EN, HL_PEER_CTL_SIZE_LOG2, HL_CNT_CFG_LOCKED, HL_CNT_BAD_ACCESS, HL_CNT_DB_BAD, HL_CNT_BAR4_RD, HL_CNT_BAR4_DROP, HL_CNT_POISON_IN, HL_CNT_CPL_TIMEOUT, HL_CNT_UNEXP_CPL] ++
  [HL_CNT_NP_STALL, HL_CNT_BME_STALL, HL_MSIX_ADDR, HL_MSIX_DATA, HL_MSIX_MASK, HL_MSIX_PENDING]

/-- The fields of the block at BAR0 offset `b` × 1 MiB (R8). -/
def block : Nat → List Fld
  | 0 => gcAll
  | 1 => ckAll
  | 2 => secAll
  | 3 => fmAll
  | 4 => hvAll
  | 5 => evAll
  | 6 => qmAll
  | 7 => syAll
  | 8 => scAll
  | 9 => pmAll
  | 10 => spAll
  | 11 => ltAll
  | 12 => igAll
  | 13 => beAll
  | 14 => seAll
  | 15 => taAll
  | 16 => memAll
  | 17 => hlAll
  | _ => []

end Reg
end Sys2Proof.Machine
end

