-- ==== Sys2Proof/Config.lean ====
section
/-! DEFINITION. What an implementation fixes and the manual does not state: the free values. None has a body, so no
proof can rest on a value of it. -/

namespace Sys2Proof.Config

/-- Contents of a DRAM byte after a map commit (R322: "every DRAM address holds undefined contents"), and contents of a
scratchpad byte of a buffer that has no DRAM copy (R275). The argument is the state's free-value counter (log 3). -/
opaque freeByte : Nat → BitVec 8
/-- A free 64-bit value (log 3). -/
opaque freeWord : Nat → BitVec 64
/-- Measured values the manual calls typical or leaves to the part: durations and the like (log 3). -/
opaque freeNat : Nat → Nat
/-- The boot ROM's version (`SEC_VERSION.ROM`, R487: no reset value). -/
opaque romVersion : BitVec 32
/-- Argument words of a stripe-, band- or expert-job's descriptor that no rule lays out (R130): job id, word (log 3). -/
opaque jobArg : BitVec 64 → Nat → BitVec 64
/-- SHA-384 (R472, R474, R481): named, not computed (log 4). -/
opaque sha384 : List (BitVec 8) → BitVec 384
/-- Signature of the device key over a report (R474, R481): the key never leaves the part (log 4). -/
opaque deviceSign : List (BitVec 8) → BitVec 768
/-- The device public key rebuilt at S1 (R480). -/
opaque deviceKey : BitVec 768
/-- A filler column beyond the reach of mirror padding (R257, R258): the rule states no input for its index (log 15). -/
opaque beyondMirror : Int → BitVec 16
/-- Symbol errors of a port's RS-FEC stood above 1 in 10⁶ over the last 1 ms (R80): a measurement on the link; port, millisecond of the
time base (log 3). -/
opaque fecDegraded : Nat → Nat → Bool
/-- What a check finds that a `SEC_CMD` write runs (R472, R475, R477): the state's free-value counter; the signer's key, the signature, the
digests. A row of the command carries the outcome as its operand; a register write has none (log 4). -/
opaque checkGood : Nat → Nat → Bool
/-- The random generator of R483, one draw for each challenge. -/
opaque randomChallenge : Nat → BitVec 256

/-- Which of the sizes 64, 128, 256, 512 and 1,024 Mbit the board's boot flash has (R470): taken modulo 5 (log 3). -/
opaque flashSize : Nat

end Sys2Proof.Config
end

