-- ==== Sys2Proof/Machine/State.lean ====
section
/-! DEFINITION. The state of the M8, piece by piece as the chapters of the manual give it, the stop reasons, and the
state right after reset. Values that software reads as words are words; what only the device knows is plain data. -/

namespace Sys2Proof.Machine

/-- Why the machine stops with a fault. -/
inductive Fault where
  /-- Raised by `DRAM_READ` and `DRAM_WRITE` for a block that lies outside the 48 GiB of R317: the manual gives such a
  device address no DRAM. Safe: the model stops where nothing exists. -/
  | noSuchAddress
  deriving DecidableEq, Repr

/-- Why a command is refused. -/
inductive Refusal where
  /-- Raised by `exec` for a command whose meaning is not written. Safe: nothing can be proved of it. -/
  | notModelled (mnemonic : String)
  deriving DecidableEq, Repr

/-! ### Jobs (R34 to R47) -/

/-- Job states, R37. -/
inductive JobState where
  | waiting | eligible | dispatched | running | suspended | aborted | retired | cancelled
  deriving DecidableEq, Repr

/-- Job kinds, R34. -/
inductive JobKind where
  | stripe | band | expert | host
  deriving DecidableEq, Repr

/-- A staged output of an attempt that becomes visible at retirement (R42): a result record or a token. -/
inductive Staged where
  | record (ring : Nat) (key : List Nat) (bytes : List Byte)
  | token (expert : Nat) (bytes : List Byte)
  deriving DecidableEq, Repr

/-- One job, with the record the dispatcher keeps of it (R36, R43). -/
structure Job where
  id : JobId
  kind : JobKind
  plan : Nat
  tmpl : Nat
  state : JobState
  /-- Full attempt count (R43). -/
  attempt : Nat
  /-- Aborts of this job that have restarted it (R44). -/
  restarts : Nat
  place : Option Place
  prio : Nat
  /-- FCLK cycle in which it became eligible (R40). -/
  eligAt : Nat
  /-- A restarted attempt: it stands at the head of the queue (R40). -/
  restarted : Bool
  /-- A regeneration (R47). -/
  regen : Bool
  /-- The fault manager must act before it restarts (R44). -/
  awaitEsc : Bool
  /-- An abort signal has reached the job: its cause. -/
  abortOrder : Option Nat
  cancelling : Bool
  /-- `DETAIL` of the completion of a cancelled job (R369). -/
  cancelDetail : Nat
  /-- `done` has been executed (R184). -/
  ended : Bool
  /-- COMMIT adds held until retirement: object and amount (R277, R278). -/
  adds : List (Nat × Nat)
  attemptObj : Nat
  staged : List Staged
  /-- Poison has reached an output (R38, R193). -/
  poisonOut : Bool
  /-- Active ACLK cycles of the attempt, and when the present wait began (R55). -/
  activeCyc : Nat
  waitNs : Nat
  /-- Valid lines of the stripe (R28). -/
  validLines : Nat
  /-- Inputs are substituted lines (R47). -/
  substituted : Bool
  /-- Its retained outputs are lost with a frost (R445). -/
  lost : Bool
  /-- Producers of a bad input that must be re-run first (R47). -/
  regenOf : List JobId
  /-- Gap flag of R109, from the inputs. -/
  gap : Bool
  /-- Measure registers of the attempt (R238): operator and largest `EMAX`. -/
  measures : List (Nat × Int)
  /-- Statistics of the attempt by DRIFT operator (R240): outputs, limited outputs, squared error, `EMAX`. -/
  stats : List (Nat × Nat × Nat × Nat × Int)
  /-- Emits of the attempt so far (R374). -/
  emits : Nat
  /-- Cause and location of the last program exception, with its attempt (R440). -/
  lastExc : Option (Nat × Nat × Nat)
  args : List Word
  /-- Tokens of an expert-job, in token id order (R34). -/
  tokens : List (BitVec 128)
  /-- Submit ring of a host job (R366). -/
  ring : Nat
  /-- A host job's descriptor has started; the other kinds have none (R34, R367). -/
  submitted : Bool
  /-- The context or slot that its abort freed, on which its restarted attempt has first claim (R54). -/
  claim : Option Place
  /-- Ranges of DRAM and of shared buffers that the attempt has written: first byte and length (R47, R193). -/
  outs : List (Nat × Nat)
  /-- Time base at dispatch, for its records. -/
  startNs : Nat
  /-- The queue at one of whose ends a boundary engine's job is suspended, and whether it is the producer's end (R280, R283). -/
  waitEnd : Option (Nat × Bool)
  deriving DecidableEq, Repr

/-! ### Tiles and tasks (R123 to R157) -/

/-- Tile-level task states, R156. -/
inductive TaskState where
  | free | dispatched | running | ready | waiting | faulted | halted
  deriving DecidableEq, Repr

/-- What a waiting task waits for (R134). -/
inductive WaitFor where
  | none
  | sync (obj : Nat) (x : Word)
  | pop (q : Nat)
  | push (q : Nat)
  | halo (obj : Nat) (n : Nat)
  | recordCredit (job : JobId)
  | tokenCredit
  | landing (entry : Nat) (bytes : Nat)
  | icache (line : Nat)
  deriving DecidableEq, Repr

/-- A store waiting in a scalar store buffer (R149): device address, bytes, poison (R152). -/
structure SbEntry where
  addr : Nat
  bytes : List Byte
  poison : Bool
  deriving DecidableEq, Repr

/-- The architectural state of a task context (R129). -/
structure Regs where
  s : SMap Word
  a : SMap (BitVec 48)
  m : SMap Word
  v : SMap (BitVec 1024)
  p : SMap (BitVec 128)
  vn : Nat
  vfmt : BitVec 8
  pc : BitVec 32
  tstat : BitVec 32
  /-- Poison bits (R129, R191): scalar, address, modifier registers; bytes of vector registers; predicates. -/
  sPoison : BitVec 32
  aPoison : BitVec 16
  mPoison : BitVec 8
  vPoison : SMap (BitVec 128)
  deriving DecidableEq, Repr

/-- A context's registers after dispatch set them to 0 (R130). -/
def Regs.zero : Regs :=
  { s := [], a := [], m := [], v := [], p := [], vn := 0, vfmt := 0, pc := 0, tstat := 0, sPoison := 0, aPoison := 0,
    mPoison := 0, vPoison := [] }

/-- What the next issue must do first: a branch already taken that still owes its delay slot (R178), and a repeat (R180). -/
structure Flow where
  /-- Target of the taken branch whose delay slot is next. -/
  slot : Option (BitVec 32)
  /-- The next bundle is a delay slot. -/
  inSlot : Bool
  /-- Issues of the repeated bundle still to come. -/
  rpt : Nat
  deriving DecidableEq, Repr

/-- One of the eight contexts of a tile (R129, R134, R156). -/
structure Ctx where
  job : Option JobId
  attempt : Nat
  state : TaskState
  wait : Nat
  waitFor : WaitFor
  regs : Regs
  flow : Flow
  codeBase : Nat
  /-- Dispatch order on the tile (R135). -/
  order : Nat
  /-- Faulting handle address and size, for the handler of R276. -/
  faultAt : Option (Nat × Nat × Nat)
  lastPc : BitVec 32
  /-- The load of the next bundle has been counted in `TA_CNT_SB_PARTIAL` (R157). -/
  loadHeld : Bool
  deriving DecidableEq, Repr

def Ctx.empty : Ctx :=
  { job := none, attempt := 0, state := .free, wait := 0, waitFor := .none, regs := Regs.zero,
    flow := { slot := none, inSlot := false, rpt := 0 }, codeBase := 0, order := 0, faultAt := none, lastPc := 0,
    loadHeld := false }

/-- A handle entry (R273). -/
structure Handle where
  valid : Bool
  present : Bool
  write : Bool
  slotchk : Bool
  bank : Nat
  base : Nat
  len : Nat
  maxlen : Nat
  filling : Bool
  /-- The fill is a stream descriptor's (R299), not one from the plan's copy. -/
  byStream : Bool
  landed : Nat
  tag : Nat
  queue : Option Nat
  slotRows : Nat
  plan : Nat
  /-- DRAM copy the handler of R276 refills from. -/
  copy : Option Nat
  /-- Its chunk has been rotated to another tile: it is evicted once no job of its tile needs it (R308). -/
  evict : Bool
  deriving DecidableEq, Repr

def Handle.empty : Handle :=
  { valid := false, present := false, write := false, slotchk := false, bank := 0, base := 0, len := 0, maxlen := 0,
    filling := false, byStream := false, landed := 0, tag := 0, queue := none, slotRows := 0, plan := 0, copy := none, evict := false }

/-! ### Sync objects and handle queues (R277 to R286) -/

/-- A sync object. Waiters are found in the contexts, stream contexts, slots and commands that wait. -/
structure SyncObj where
  alloc : Bool
  plan : Nat
  kind : Nat
  init : Word
  count : Word
  /-- Job that holds an ATTEMPT object (R278). -/
  owner : Option JobId
  deriving DecidableEq, Repr

def SyncObj.free : SyncObj := { alloc := false, plan := 0, kind := 0, init := 0, count := 0, owner := none }

/-- Slot states, R282. -/
inductive SlotState where
  | empty | filling | pushed | full | draining | released
  deriving DecidableEq, Repr

/-- The tag of a halo entry (R49): stream, template, layer, stripe row, segment, and a sequence number of 16 bits. -/
structure HaloTag where
  stream : Nat
  tmpl : Nat
  layer : Nat
  row : Nat
  seg : Nat
  seq : Nat
  deriving DecidableEq, Repr

def HaloTag.zero : HaloTag := { stream := 0, tmpl := 0, layer := 0, row := 0, seg := 0, seq := 0 }

/-- A slot of a handle queue. For a HALO queue: its entry number, tag, poison and unretired references (R49, R50). -/
structure Slot where
  state : SlotState
  tag : Nat
  entry : Nat
  halo : HaloTag
  poison : Bool
  refs : List JobId
  deriving DecidableEq, Repr

def Slot.zero : Slot := { state := .empty, tag := 0, entry := 0, halo := HaloTag.zero, poison := false, refs := [] }

/-- Who is attached to an end of a queue (R283). -/
inductive QEnd where
  | none | job (id : JobId) | stream (e c : Nat)
  deriving DecidableEq, Repr

/-- A handle queue (R281): its record, its slots and its two ends. `head` and `tail` are the consumer's and the producer's
next slot. In a HALO queue `tail` is the producer's next entry number, `hpos` holds the next entry of each consuming
template, and the count of published entries is the count of its QUEUE object (log 22). -/
structure Queue where
  alloc : Bool
  plan : Nat
  decl : QueueDecl
  slots : SMap Slot
  head : Nat
  tail : Nat
  prod : QEnd
  cons : QEnd
  hpos : SMap Nat
  deriving DecidableEq, Repr

def Queue.free : Queue :=
  { alloc := false, plan := 0,
    decl := { queue := 0, kind := 0, depth := 0, slotRows := 0, inDram := false, slotchk := false, tile := 0, handle := 0,
              dramAddr := 0, prod := 0, cons := 0, refs := 0, sync := 0, reserved := false },
    slots := [], head := 0, tail := 0, prod := .none, cons := .none, hpos := [] }

/-! ### Control cores and event hub (R406 to R431) -/

/-- `SC_CORE_STAT.STATE`. -/
inductive CoreRun where
  | reset | running | sleeping | halted | faulted
  deriving DecidableEq, Repr

/-- An entry of a core's store buffer (R416): address, bytes. -/
structure CoreStore where
  addr : Nat
  bytes : List Byte
  deriving DecidableEq, Repr

/-- A control core (R407). `cst` is kept as its three bits; `rsp` is the length of the return stack. -/
structure Core where
  run : CoreRun
  g : SMap Word
  pc : BitVec 32
  entry : BitVec 32
  dsp : BitVec 32
  dlo : BitVec 32
  dhi : BitVec 32
  rstack : List (BitVec 32)
  ee : Bool
  hm : Bool
  tm : Bool
  evec : BitVec 32
  tvec : BitVec 32
  epc : BitVec 32
  tpc : BitVec 32
  tcause : BitVec 8
  tval : Word
  ecl : BitVec 11
  tpri : Nat
  reserved : Option Nat
  active : Option Nat
  sb : List CoreStore
  lastPc : BitVec 32
  fw : BitVec 32
  /-- Loop buffer (R410): branch offset and target seen taken, how often in succession, and whether the body is held. -/
  loopBr : Option (BitVec 32 × BitVec 32)
  loopSeen : Nat
  loopHeld : Bool
  /-- The debug port steps the core: it halts again after its next instruction (R482). -/
  step : Bool
  /-- The load in execution has been counted in `SC_CORE_CNT_SB_PARTIAL` (R431). -/
  loadHeld : Bool
  /-- The load in execution waits to read the host (R339, R352). -/
  hostWait : Bool
  deriving DecidableEq, Repr

/-- A core held in reset (R407). -/
def Core.zero : Core :=
  { run := .reset, g := [], pc := 0, entry := 0, dsp := 0, dlo := 0, dhi := 0, rstack := [], ee := false, hm := false,
    tm := false, evec := 0, tvec := 0, epc := 0, tpc := 0, tcause := 0, tval := 0, ecl := 0, tpri := 1024,
    reserved := none, active := none, sb := [], lastPc := 0, fw := 0, loopBr := none, loopSeen := 0,
    loopHeld := false, step := false, loadHeld := false, hostWait := false }

/-- States of an event source, R422. -/
inductive SrcState where
  | idle | pending | active | activePending
  deriving DecidableEq, Repr

/-! ### Fault manager (R432 to R454) -/

/-- Containment domains, R436. -/
inductive Domain where
  | none | template (plan tmpl : Nat) | tile (t : Nat) | engine (b : Nat) | channel (c : Nat) | router (r : Nat)
  | sched | device
  deriving DecidableEq, Repr

/-- A report that waits (R434): the report, whether it is a job's exceeded restart limit (R439), when it was detected, and the
attempt of its job then. -/
structure Waiting where
  rep : Report
  esc : Bool
  ns : Nat
  attempt : Nat
  deriving DecidableEq, Repr

/-- A recovery in progress (R435, R437, R438): what it was for, the class it stands at, and the jobs (by id) whose
restarted attempts have not yet retired. -/
structure Recovery where
  dom : Domain
  cls : Nat
  rep : Report
  jobs : List JobId
  /-- A frost's recovery lasts until `SETTLE_MS` after thaw; a requested class 4 until bring-up. -/
  holds : Bool
  deriving DecidableEq, Repr

/-- `FM_STAT.STATE`: normal and recovering are told apart by `recoveries`. -/
inductive FmPhase where
  | normal | frost | devPending
  deriving DecidableEq, Repr

/-- The fault manager. -/
structure Fm where
  /-- Reports waiting, in order of detection; the first 256 are in the intake queue, the rest wait at their units (R434). -/
  intake : List Waiting
  recoveries : List Recovery
  phase : FmPhase
  devReq : Bool
  quarantined : List Nat
  /-- Reports of class 1 and 2 taken during a frost, acted on at thaw, each with its domain and class (R446). -/
  later : List (Waiting × Domain × Nat)
  /-- Cause of the frost or device reset in progress, and the reset cause of R462 that the latter will have. -/
  cause : Nat
  resetCause : Nat
  /-- Each job's latest domain by report, logged or merged (R439). -/
  jobDom : List (JobId × Domain)
  /-- When the frost began, or the device reset was decided; and when the last frost thawed. -/
  since : Nat
  thawNs : Nat
  /-- The message for the present `LOG_THRESH` condition has gone out (R452). -/
  notified : Bool
  deriving DecidableEq, Repr

def Fm.zero : Fm :=
  { intake := [], recoveries := [], phase := .normal, devReq := false, quarantined := [], later := [], cause := 0,
    resetCause := 0, jobDom := [], since := 0, thawNs := 0, notified := false }

/-! ### Plans (R34, R35, R366) -/

/-- A loaded plan: its image, its DRAM region, and what it was given. -/
structure Plan where
  loaded : Bool
  image : PlanImage
  base : Nat
  size : Nat
  /-- Bytes of the image, which a load copies to the start of the region (log 26). -/
  length : Nat
  used : Nat
  halted : Bool
  unloading : Bool
  /-- The sync objects allocated to the plan, in the order of its image (R277). -/
  objs : List Nat
  /-- Tiles to which its first template has been dispatched (R275), and resident images loaded: tile, template (R140). -/
  tilesBegun : List Nat
  resident : List (Nat × Nat)
  deriving DecidableEq, Repr

def Plan.none : Plan :=
  { loaded := false,
    image := { templates := [], buffers := [], areas := [], objects := [], queues := [], ops := [], shapes := [], standing := [], experts := 0,
               gate := 0, recordArea := 0, tilesNeeded := 0, regionNeeded := 0 },
    base := 0, size := 0, length := 0, used := 0, halted := false, unloading := false, objs := [],
    tilesBegun := [], resident := [] }

/-! ### Sensor ports (R59 to R83) -/

/-- A packet position found missing (R68): packet id, when, requests sent, time of the last. -/
structure Gap where
  packet : Nat
  atNs : Nat
  requests : Nat
  lastNs : Nat
  deriving DecidableEq, Repr

/-- An open block of a GVSP stream (R66, R67). `firsts`: from block line k on, line k is stream line L; newest pair first,
since a flush renumbers what follows (R28). `payload`: the payload size, once the packets seen tell it; `held`: payload packets
with their receive stamps that cannot be placed yet (R67); `trailer`, `packets`: lines and payload packets of the block by its
trailer. -/
structure Block where
  id : Nat
  firsts : List (Nat × Nat)
  leader : Bool
  /-- Its leader did not match the binding: everything of it is discarded. -/
  bad : Bool
  payload : Option Nat
  placed : List Nat
  held : List (Nat × List Byte × Nat)
  abandoned : List Nat
  gaps : List Gap
  trailer : Option Nat
  packets : Option Nat
  highest : Nat
  deriving DecidableEq, Repr

/-- A packet in a port's receive queue (R73): where its bytes go. `line` and `off` count from the stream's line 0 and the
line's first byte on the wire. -/
structure QPacket where
  stream : Nat
  line : Nat
  off : Nat
  bytes : List Byte
  stampNs : Nat
  deriving DecidableEq, Repr

/-- The receiving side of one port stream (R66 to R71). -/
structure PortStream where
  blocks : List Block
  lastClosed : Option Nat
  /-- Line number after the last closed block. -/
  nextFirst : Nat
  /-- No leader has been received since binding. -/
  fresh : Bool
  lastPacketNs : Nat
  idlePosted : Bool
  nextReq : Nat
  /-- Blocks closed since the last discontinuity, lost ones included. -/
  closedCount : Nat
  /-- CoaXPress: where the current image's lines lie (as `Block.firsts`), next tag expected. -/
  imageFirsts : List (Nat × Nat)
  nextTag : Option Nat
  /-- Byte of the current image, counted on the wire, up to which its packets have come (R71). -/
  cxpEnd : Nat
  /-- Packets ahead of the next tag of a multi-lane link, within the skew tolerance (R71): packet, receive stamp, arrival. -/
  cxpHeld : List (CxpPacket × Nat × Nat)
  /-- The format of the current image is not the bound one (R99): its lines are missing. -/
  cxpBad : Bool
  deriving DecidableEq, Repr

def PortStream.zero : PortStream :=
  { blocks := [], lastClosed := none, nextFirst := 0, fresh := true, lastPacketNs := 0, idlePosted := false,
    nextReq := 0x8000, closedCount := 0, imageFirsts := [(0, 0)], nextTag := none,
    cxpEnd := 0, cxpHeld := [], cxpBad := false }

/-- What a port has to send: a resend request with the source address and port of `SP_RESEND_SRC` and the camera's GVCP port
(R68), or a trigger packet (R72). -/
inductive TxItem where
  | resend (stream : Nat) (blockId first last reqId src : Nat)
  | trigger (out : Nat) (level : Bool)
  deriving DecidableEq, Repr

/-- Something a port has sent. -/
inductive TxSent where
  | frame (bytes : List Byte) (stampNs : Option Nat)
  | control (bytes : List Byte)
  | item (i : TxItem)
  deriving DecidableEq, Repr

/-- A transmit descriptor being sent: its ring, its sequence number, the stamp to report (R77). -/
structure TxBusy where
  ring : Nat
  seq : Nat
  stampNs : Nat
  deriving DecidableEq, Repr

/-- A port (R59 to R77). -/
structure Port where
  linkUp : Bool
  rxq : List QPacket
  rxBytes : Nat
  txq : List TxItem
  txBusy : Option TxBusy
  fwdSeq : Nat
  sent : List TxSent
  calNs : Nat
  deriving DecidableEq, Repr

def Port.zero : Port :=
  { linkUp := false, rxq := [], rxBytes := 0, txq := [], txBusy := none, fwdSeq := 0, sent := [], calNs := 0 }

/-! ### Streams and ingest (R25 to R33, R99 to R110) -/

/-- Why a line slot holds no received line (R108, R110). -/
inductive LineGap where
  | none | overrun | missing | rawLost | absent
  deriving DecidableEq, Repr

/-- A line being assembled, or done (R102, R103, R108). `data` holds wire bytes by offset; `have` counts the bytes placed. -/
structure Line where
  data : SMap Byte
  placed : Nat
  gap : LineGap
  complete : Bool
  stampNs : Nat
  pos : Word
  /-- Stamped by fallback (R95). -/
  fallback : Bool
  blocks : Nat
  deriving DecidableEq, Repr

def Line.none : Line :=
  { data := [], placed := 0, gap := .none, complete := false, stampNs := 0, pos := 0, fallback := false, blocks := 0 }

/-- A stripe that is complete (R104 to R107): where it lies once written, and how far it has come. -/
structure Stripe where
  stream : Nat
  row : Nat
  seg : Nat
  /-- Canonical bytes in the layout of R105, until written. -/
  image : List Byte
  valid : Nat
  flushed : Bool
  gapFlag : Bool
  blocks : Nat
  bytes : Nat
  /-- First retention unit of copy A within its half, and units; `none` while it waits (R107). -/
  units : Option (Nat × Nat)
  announced : Bool
  /-- Both copies have failed (R47). -/
  lostA : Bool
  lostB : Bool
  deriving DecidableEq, Repr

/-- The eleven counters of R29, in its order, with `late` of R30. -/
structure Bank where
  received : Nat
  dropped : Nat
  gaps : Nat
  absent : Nat
  stripes : Nat
  bands : Nat
  aborts : Nat
  regens : Nat
  tokens : Nat
  records : Nat
  drifts : Nat
  late : Nat
  deriving DecidableEq, Repr

def Bank.zero : Bank :=
  { received := 0, dropped := 0, gaps := 0, absent := 0, stripes := 0, bands := 0, aborts := 0, regens := 0, tokens := 0,
    records := 0, drifts := 0, late := 0 }

/-- A stream context (R25 to R33). -/
structure Stream where
  bound : Bool
  plan : Nat
  prio : Nat
  resultRing : Nat
  eventRing : Nat
  feedRing : Nat
  /-- Geometry fixed at binding (R25): W, S, H, E, and the format. -/
  w : Nat
  seg : Nat
  h : Nat
  epochLen : Nat
  fmt : PixFmt
  /-- Open stripe row; number of the next line slot; first slot that has no stamp yet (R95). -/
  row : Nat
  nextLine : Nat
  slotPtr : Nat
  /-- Weld edges whose line no stamp has named yet: time base value, input (R96). -/
  welds : List (Nat × Nat)
  /-- Lines of the open and later rows. -/
  lines : SMap Line
  /-- Row and segment of stripes that are not made yet and of which the SRAM has lost bytes (R433). -/
  sramBad : List (Nat × Nat)
  lastLine : Option (List Byte)
  reserve : Nat
  /-- Segments announced of each row are counted in row-then-segment order (R104). -/
  announcedTo : Nat
  /-- Current epoch, its counters, and those of the one before it while its snapshot waits (R29, R30). -/
  epoch : Nat
  bank : Bank
  prev : Option Bank
  /-- Counters of epochs that have not begun, by epoch: events that concern their lines (R29). -/
  ahead : SMap Bank
  /-- Number of epochs whose snapshots have been written. -/
  snaps : Nat
  /-- Being unbound: the last snapshots are due when its jobs have drained (R31). -/
  closing : Bool
  /-- Progress of the oldest host feed: lines done, and its first line's number (R366). -/
  feed : Option (Nat × Nat)
  deriving DecidableEq, Repr

def Stream.unbound : Stream :=
  { bound := false, plan := 0, prio := 0, resultRing := 0, eventRing := 0, feedRing := 0, w := 0, seg := 0, h := 16,
    epochLen := 1024, fmt := { bits := 12, packed := true, bayer := 0 }, row := 0, nextLine := 0, slotPtr := 0,
    welds := [], lines := [], sramBad := [],
    lastLine := none, reserve := 0, announcedTo := 0, epoch := 0, bank := Bank.zero, prev := none, ahead := [],
    snaps := 0, closing := false, feed := none }

/-! ### Boundary engines (R111 to R120) -/

/-- A correction table bank (R112): header, and per column gain, offset, defect. -/
structure TblBank where
  valid : Bool
  addr : Nat
  black : List Nat
  cols : Nat
  dpc : Bool
  version : Nat
  entries : SMap Word
  deriving DecidableEq, Repr

def TblBank.empty : TblBank :=
  { valid := false, addr := 0, black := [], cols := 0, dpc := false, version := 0, entries := [] }

/-- A boundary engine (R111, R115, R120): its job slots, banks, staged swap. -/
structure BEngine where
  slots : List (Nat × JobId)
  active : TblBank
  inactive : TblBank
  ready : Bool
  loading : Option Nat
  /-- Row from which the active bank governs; earlier rows use the old bank, which is busy until they are freed. -/
  since : Nat
  oldBusy : Bool
  swapStaged : Bool
  /-- Epoch in which the swap was staged; whether its B_APPLIED event has been posted; one still owed after the swap. -/
  swapEpoch : Nat
  applied : Bool
  applyDue : Option Nat
  /-- Lost table entries stop dispatch (R441): a column of them, and whether they are the old bank's. -/
  lost : Option Nat
  lostOld : Bool
  deriving DecidableEq, Repr

def BEngine.zero : BEngine :=
  { slots := [], active := TblBank.empty, inactive := TblBank.empty, ready := false, loading := none, since := 0,
    oldBusy := false, swapStaged := false, swapEpoch := 0, applied := false, applyDue := none,
    lost := none, lostOld := false }

/-! ### Rings (R355 to R384) -/

/-- The device's own part of a ring context (R357). The configuration is in its registers. -/
structure Ring where
  head : Nat
  tail : Nat
  seq : Nat
  /-- Entries written since the last message or arming, when that first became nonzero while armed, and the armed bit (R381). -/
  pend : Nat
  timer : Option Nat
  armed : Bool
  /-- Completion entries reserved on this ring (R368). -/
  reserved : Nat
  /-- Events written since enable (R377). -/
  events : Nat
  /-- When its context was last used in the ring context cache, in FCLK cycles plus 1; 0 where it is not cached (R359). -/
  cached : Nat
  /-- Records that wait to be written, each of one or more entries: completions while the ring is disabled or full (R356, R358), and any
  record while no context can be loaded (R359). -/
  waiting : List (List (List Byte))
  deriving DecidableEq, Repr

def Ring.zero : Ring :=
  { head := 0, tail := 0, seq := 0, pend := 0, timer := none, armed := true, reserved := 0, events := 0,
    cached := 0, waiting := [] }

/-- A burst on its way (R363): descriptors with poison or a host error, and its host reads: tag, first byte, bytes. -/
structure Burst where
  ring : Nat
  descs : List (List Byte × Bool)
  tags : List (Nat × Nat × Nat)
  deriving DecidableEq, Repr

/-- A descriptor in the descriptor buffer (R364): eight words, and where it stands. -/
structure Desc where
  ring : Nat
  seq : Nat
  words : List Word
  poison : Bool
  started : Bool
  reserved : Bool
  cplRing : Nat
  deriving DecidableEq, Repr

/-- A result record waiting its turn (R375). `stream` is 0 to 63, or 64 + ring for a host job. -/
structure StageRec where
  ring : Nat
  key : Nat
  order : Word
  bytes : List Byte
  spilled : Bool
  /-- Its place in the record area, where it is spilled. -/
  slot : Nat
  plan : Nat
  deriving DecidableEq, Repr

/-! ### Host link (R338 to R354) -/

/-- An outstanding non-posted request (R339, R349): tag, who waits for it, when it times out, and the timeout it was issued
under. Other agents' reads are issued and answered within one command of theirs. -/
inductive NpOwner where
  | stream (e c : Nat) | queueManager
  deriving DecidableEq, Repr

structure NpReq where
  tag : Nat
  owner : NpOwner
  dueNs : Nat
  limitNs : Nat
  deriving DecidableEq, Repr

/-- AER conditions logged (R346, R349, R350). -/
inductive Aer where
  | unsupportedRequest | completionTimeout | unexpectedCompletion | poisonedTlp | ecrc | other
  deriving DecidableEq, Repr

/-- A posted write to the host or a peer, or a message, in issue order (R347, R351). -/
inductive Posted where
  | host (addr : Nat) (bytes : List Byte)
  | peer (addr : Nat) (bytes : List Byte)
  | msix (vector : Nat)
  deriving DecidableEq, Repr

/-- Configuration space and link state that the manual names (R338, R351, R352). -/
structure HostLink where
  bme : Bool
  mse : Bool
  d3 : Bool
  msixEn : Bool
  fnMask : Bool
  mps : Nat
  mrrs : Nat
  bar4Log2 : Nat
  /-- The host enables ECRC generation and checking (R338). -/
  ecrcGen : Bool
  ecrcCheck : Bool
  /-- Configuration requests receive Request Retry Status (R352). -/
  retry : Bool
  up : Bool
  speed : Nat
  width : Nat
  flit : Bool
  tags : Nat
  np : List NpReq
  /-- Timed-out tags and until when they may not be reissued (R349). -/
  quarantined : List (Nat × Nat)
  /-- Agents whose outstanding host read has timed out: their next one counts as that read, returned with an error (R349). -/
  failed : List HostReader
  /-- Doorbells, with their value, and window accesses that wait for a ring's context (R359), oldest first. -/
  dbWait : List (Nat × Option Nat)
  pending : List Nat
  /-- Vectors for which messages have been sent, newest last. -/
  sent : List Nat
  aer : List Aer
  /-- Memory writes sent to peers: PCIe address and bytes, newest last (R348). -/
  peerWrites : List (Nat × List Byte)
  /-- Posted requests that Bus Master Enable = 0 holds back (R352). -/
  stalled : List Posted
  deriving DecidableEq, Repr

def HostLink.zero : HostLink :=
  { bme := false, mse := false, d3 := false, msixEn := false, fnMask := false, mps := 128, mrrs := 512, bar4Log2 := 36,
    ecrcGen := false, ecrcCheck := false, retry := false,
    up := false, speed := 0, width := 0, flit := false, tags := 0, np := [], quarantined := [], failed := [], dbWait := [],
    pending := [], sent := [], aer := [], peerWrites := [], stalled := [] }

/-! ### Line timing (R84 to R98) -/

/-- Motion states, R87. -/
inductive Motion where
  | moving | stopped | reversed | ended
  deriving DecidableEq, Repr

/-- An encoder (R84 to R87). Position and high-water mark are signed 64-bit counts. -/
structure Encoder where
  a : Bool
  b : Bool
  /-- FCLK cycles since which the A and B inputs have stood at their levels: the filter takes a new one once it has been held for `FILT`
  CCLK cycles (R84). -/
  aFrom : Nat
  bFrom : Nat
  pos : Int
  hwm : Int
  speed : Int
  motion : Motion
  range : Bool
  /-- Position at the start of the speed window, illegal transitions in it, and whether ENC_FAULT was posted in it. -/
  winPos : Int
  winErrs : Nat
  winFault : Bool
  /-- FCLK cycles (1 ns each) of the last accepted count, of the stop, and of the start of the speed window (R86, R87, R96). -/
  countAt : Nat
  stopAt : Nat
  winAt : Nat
  deriving DecidableEq, Repr

def Encoder.zero : Encoder :=
  { a := false, b := false, aFrom := 0, bFrom := 0, pos := 0, hwm := 0, speed := 0, motion := .moving, range := false, winPos := 0, winErrs := 0,
    winFault := false, countAt := 0, stopAt := 0, winAt := 0 }

/-- A trigger output (R88 to R91): from request to end of `WIDTH` it is busy; `active` is the pulse itself. -/
structure Trig where
  busy : Bool
  active : Bool
  delay : Nat
  width : Nat
  /-- FCLK cycle (1 ns each) of the request. -/
  since : Nat
  enabledPos : Int
  /-- Timer source: the end of the last period in FCLK cycles; with `ALIGN`, the last multiple of `PERIOD` of the time base. -/
  timerAt : Nat
  deriving DecidableEq, Repr

def Trig.zero : Trig :=
  { busy := false, active := false, delay := 0, width := 0, since := 0, enabledPos := 0, timerAt := 0 }

/-- A stream's link to line timing (R95): pulse stamps waiting, newest last, and the lines at which the queue is aligned. -/
structure Link where
  stamps : List (Nat × Word)
  aligns : List Nat
  deriving DecidableEq, Repr

def Link.zero : Link := { stamps := [], aligns := [0] }

/-- Clocks and the time base (R14 to R17, R93, R94). -/
structure Clocks where
  /-- FCLK cycles since FCLK started; every fourth is a CCLK cycle. -/
  fclk : Nat
  /-- Time base in units of 2⁻²⁸ ns (R93), and slew still to be applied, in the same units (R94). -/
  tb : Nat
  slew : Int
  /-- Numerator over 125 of the part of a unit of 2⁻²⁸ ns that the slew rate owes (R94). -/
  slewFrac : Nat
  /-- A step change is in progress (R17). -/
  stepTo : Option Nat
  step : Nat
  /-- ACLK cycles so far. -/
  aclk : Nat
  pwrStep : Nat
  pllLocked : Bool
  deriving DecidableEq, Repr

def Clocks.zero : Clocks :=
  { fclk := 0, tb := 0, slew := 0, slewFrac := 0, stepTo := none, step := 0, aclk := 0, pwrStep := 0, pllLocked := false }

/-! ### Stream engines (R290 to R316) -/

/-- A stream descriptor's fields (R292), with counts and lengths as stored plus one where the manual stores minus one. -/
structure SDesc where
  srcMode : Nat
  dstMode : Nat
  dims : Nat
  frc : Nat
  frcEl : Nat
  bar : Bool
  last : Bool
  m5c : Bool
  urg : Nat
  cmpl : Nat
  urgv : Nat
  len0 : Nat
  src : Nat
  dst : Nat
  cnt1 : Nat
  cnt2 : Nat
  cnt3 : Nat
  sstr : List Int
  dstr : List Int
  tag : Nat
  tagStep : Nat
  hent : Nat
  hentEn : Bool
  so : Nat
  soAdd : Nat
  waitSo : Nat
  waitEn : Bool
  waitVal : Nat
  ring : Nat
  hiWm : Nat
  loWm : Nat
  user : Word
  reservedOk : Bool
  deriving DecidableEq, Repr

/-- A fetched descriptor that has not yet started, or has: its address, fields, and whether its bytes came poisoned. -/
structure SFetched where
  addr : Nat
  d : SDesc
  poison : Bool
  deriving DecidableEq, Repr

/-- A read of a context (R306): position in its descriptor's source walk, length there and at its address, PCIe tag of a host read;
whether its data will be discarded; what it has brought, with whether it met an error, while it waits in the funnel for older reads or
for its destination; the attempt that issued it (R43). -/
structure SRead where
  desc : Nat
  at_ : Nat
  len : Nat
  dev : Nat
  addr : Nat
  tag : Option Nat
  discard : Bool
  back : Option (List (Byte × Bool) × Bool)
  job : JobId
  attempt : Nat
  deriving DecidableEq, Repr

/-- A descriptor that has started and not completed: bytes requested, bytes landed, bytes read and held in the funnel with their
poison (R298, R312), the status that stopped it, slots passed on each side. -/
structure SRun where
  f : SFetched
  issued : Nat
  landed : Nat
  held : List (Byte × Bool)
  stopped : Option Nat
  srcSlot : Option Nat
  srcSlots : Nat
  dstSlot : Option Nat
  dstSlots : Nat
  armFclk : Nat
  deriving DecidableEq, Repr

/-- `SE_CTX_STAT.STATE`. -/
inductive SState where
  | free | heldIdle | running | waiting | draining | halted
  deriving DecidableEq, Repr

/-- Who holds a stream context (R290). -/
inductive Holder where
  | none | job (id : JobId) | plan (p : Nat) | host
  deriving DecidableEq, Repr

/-- A stream context (R290, R309, R315). -/
structure SCtx where
  holder : Holder
  attempt : Nat
  state : SState
  /-- An armed batch not yet fetched; descriptors fetched and not started; descriptors started. -/
  armed : Option Nat
  batch : List SFetched
  run : List SRun
  reads : List SRead
  shadow : Option Nat
  last : Nat
  /-- Cancelled by an abort: no record (R311); by command or cancellation: with record (R310). -/
  silent : Bool
  pos : Nat
  posOfs : Nat
  paced : Bool
  haltNs : Nat
  /-- FCLK cycle in which the batch, and the one in the shadow, was armed (R303). -/
  armFclk : Nat
  shadowFclk : Nat
  deriving DecidableEq, Repr

def SCtx.free : SCtx :=
  { holder := .none, attempt := 0, state := .free, armed := none, batch := [], run := [], reads := [], shadow := none,
    last := 0, silent := false, pos := 0, posOfs := 0, paced := false, haltNs := 0, armFclk := 0, shadowFclk := 0 }

/-- A context that nothing holds keeps what its status shows (R315) and the reads still to be discarded (R311). -/
def SCtx.released (k : SCtx) : SCtx :=
  { SCtx.free with last := k.last, pos := k.pos, posOfs := k.posOfs, reads := k.reads }

/-! ### Stacked memory (R317 to R337) -/

/-- Metadata of a DRAM block (R324): poison flag, difference between the stored CRC and the right one, and the map
generation it was written under (R322). -/
structure BlockMeta where
  poison : Bool
  syndrome : BitVec 32
  gen : Nat
  deriving DecidableEq, Repr

def BlockMeta.fresh : BlockMeta := { poison := false, syndrome := 0, gen := 0 }

/-- A repair entry (R332): bank, row, spare, source. -/
structure Repair where
  bank : Nat
  row : Nat
  spare : Nat
  march : Bool
  deriving DecidableEq, Repr

/-- A suspect row (R334). -/
structure Suspect where
  bank : Nat
  row : Nat
  fails : Nat
  deriving DecidableEq, Repr

/-- A channel controller. -/
structure Channel where
  repairs : List Repair
  suspects : List Suspect
  inject : Bool
  deriving DecidableEq, Repr

def Channel.zero : Channel := { repairs := [], suspects := [], inject := false }

/-- The committed map (R320, R322), frames withheld (R333), stack temperatures and refresh (R329, R330). -/
structure Dram where
  committed : Bool
  hash : Bool
  rb : Nat
  rs : Nat
  gen : Nat
  /-- Rows that failed and could not be repaired: channel, bank, row. -/
  badRows : List (Nat × Nat × Nat)
  /-- First device address of each withheld frame, and whether it is a retention pair. -/
  withheld : List (Nat × Bool)
  doubled : List Nat
  /-- Readings in succession at which each stack has been at or below 83 °C. -/
  cool : SMap Nat
  deriving DecidableEq, Repr

def Dram.zero : Dram :=
  { committed := false, hash := true, rb := 0, rs := 0x100000000, gen := 0, badRows := [], withheld := [], doubled := [],
    cool := [] }

/-! ### Peer messaging (R385 to R405) -/

/-- `PM_WIN_STAT.STATE`. -/
inductive WinState where
  | closed | opened | fault
  deriving DecidableEq, Repr

/-- A complete message held in a window (R394, R395), or the blocks skipped at the end of the ring: first block, blocks,
whether it has been freed and judged, whether a block came poisoned, and the requester that wrote it. -/
structure HeldMsg where
  pos : Nat
  blocks : Nat
  freed : Bool
  judged : Bool
  poison : Bool
  reqId : Nat
  deriving DecidableEq, Repr

/-- A receive window: position of the message that arrives, its blocks landed so far and the requester of the first, held messages in ring
order, blocks freed and reported as freed, a credit block written and not yet taken, and whether it has been open since the device was reset. -/
structure Win where
  state : WinState
  expect : Nat
  landed : Nat
  landReq : Nat
  poison : Bool
  held : List HeldMsg
  freed : Nat
  reported : Nat
  credit : Bool
  epoch : Nat
  deriving DecidableEq, Repr

def Win.closed : Win :=
  { state := .closed, expect := 1, landed := 0, landReq := 0, poison := false, held := [], freed := 0, reported := 0, credit := false,
    epoch := 0 }

/-- A send channel (R393, R395): open, write position, blocks sent, `FREED` of the peer, next MSG_SEQ; results sent, with the
count of blocks after each (R399). -/
structure SendCh where
  opened : Bool
  pos : Nat
  sent : Nat
  freed : Nat
  msgSeq : Nat
  results : List (BitVec 128 × Nat × Nat)
  deriving DecidableEq, Repr

def SendCh.closed : SendCh := { opened := false, pos := 1, sent := 0, freed := 0, msgSeq := 0, results := [] }

/-- A route of a token (R389): expert, score, whether it waits to be sent, the part it was last sent to, resends, when; and
its result block (R400). -/
structure Route where
  expert : Nat
  score : Int
  due : Bool
  retryAt : Option Nat
  part : Nat
  resends : Nat
  sentNs : Nat
  /-- `PEER_TIMEOUT` has been reported for it (R401). -/
  told : Bool
  result : Option (List Byte)
  deriving DecidableEq, Repr

/-- An entry of the token store (R390). `blocks` is the token: its header and embedding. -/
structure Token where
  id : BitVec 128
  plan : Nat
  addr : Nat
  bytes : List Byte
  ring : Nat
  key : Nat
  gap : Bool
  routes : List Route
  deriving DecidableEq, Repr

/-- A token accepted for an expert (R398): from a window (with sender and position) or from the local store. -/
structure RxToken where
  id : BitVec 128
  expert : Nat
  rank : Nat
  sender : Nat
  window : Option Nat
  pos : Nat
  addr : Nat
  job : Option JobId
  /-- Its result has been sent (R399). -/
  answered : Bool
  deriving DecidableEq, Repr

/-- An expert's open batch and next batch index (R34, R398). -/
structure Batch where
  opened : List (BitVec 128 × Nat)
  openedNs : Nat
  next : Nat
  deriving DecidableEq, Repr

def Batch.zero : Batch := { opened := [], openedNs := 0, next := 0 }

/-- A message waiting for credit on a class-1 channel: RESULT or NACK with its header fields (R392). -/
structure OutMsg where
  peer : Nat
  nack : Bool
  token : BitVec 128
  expert : Nat
  rank : Nat
  plan : Nat
  reason : Nat
  nackKind : Nat
  block : List Byte
  deriving DecidableEq, Repr

/-- Peer messaging as a whole. -/
structure Pm where
  epoch : Nat
  wins : SMap Win
  chans : SMap SendCh
  tokens : List Token
  rx : List RxToken
  batches : SMap Batch
  out : List OutMsg
  deriving DecidableEq, Repr

def Pm.zero : Pm := { epoch := 0, wins := [], chans := [], tokens := [], rx := [], batches := [], out := [] }

/-! ### The multiply array of a tile (R196 to R225) -/

/-- Commands queued on the array (R213, R216). -/
inductive MxCmd where
  | run (ctx blocks desc act wgt out : Nat) (pc : BitVec 32)
  | cbload (ctx : Nat) (big bf : Bool) (addr : Nat) (pc : BitVec 32)
  | signal (ctx : Nat) (obj : Nat) (amount : Word) (pc : BitVec 32)
  deriving DecidableEq, Repr

/-- The fields of a run descriptor. `rsv` holds every reserved bit. -/
structure RunDesc where
  aFmt : Nat
  wFmt : Nat
  oFmt : Nat
  group : Nat
  oscSrc : Bool
  biasEn : Bool
  relu : Bool
  clamp : Bool
  aZpEn : Bool
  wZpEn : Bool
  aZp : Nat
  eLo : Int
  eHi : Int
  cLo : Nat
  cHi : Nat
  opId : Nat
  npos : Nat
  nch : Nat
  n0 : Nat
  n1 : Nat
  n2 : Nat
  aStr1 : Int
  aStr2 : Int
  aBstr : Int
  oBstr : Int
  oCstr : Int
  scAddr : Nat
  oscAddr : Nat
  biasAddr : Nat
  wzpAddr : Nat
  rsv : Nat
  deriving DecidableEq, Repr

/-- A codebook installed for a context (R205): the signed entries m_e with their residues m_e mod 7, the codebook exponent c, whether the
image held BF16, and whether an entry came poisoned (R222). -/
structure CodeBook where
  valid : Bool
  entries : List Int
  residues : List Nat
  exp : Int
  bf : Bool
  poison : Bool
  deriving DecidableEq, Repr

def CodeBook.none : CodeBook := { valid := false, entries := [], residues := [], exp := 0, bf := false, poison := false }

/-- A run's operands once its descriptor and its addresses have been checked (R218), with the codebook of its task's last CBLOAD ahead
of it (R216). -/
structure RunAt where
  d : RunDesc
  desc : Nat
  act : Nat
  wgt : Nat
  out : Nat
  sc : Nat
  osc : Nat
  bias : Nat
  wzp : Nat
  tag : Nat
  cb : CodeBook
  scale : Option (Nat × Int)
  inDelta : Int
  /-- What the side tables held by channel (R218): output scales and biases with their poison and whether their reserved bits are 0, weight
  zero points with their poison. -/
  oscs : List (Nat × Int × Bool × Bool)
  biases : List (Int × Int × Bool × Bool)
  wzps : List (Nat × Bool)
  deriving DecidableEq, Repr

/-- A queued command with the attempt that queued it, and for a RUN the blocks started and completed, its operands once they have been
checked (R218: once, before its first step), and the accumulator banks of its blocks in progress, oldest first (R195, R224). -/
structure MxEntry where
  cmd : MxCmd
  job : JobId
  attempt : Nat
  started : Nat
  doneBlocks : Nat
  run : Option RunAt
  banks : List Nat
  /-- ACLK cycle in which its `mx` issued (R219). -/
  issue : Nat
  deriving DecidableEq, Repr

/-- A tile (R128 to R157, R196): contexts, handles, store buffer, array, caches and debug state. -/
structure Tile where
  ctxs : SMap Ctx
  handles : SMap Handle
  sb : List SbEntry
  mxq : List MxEntry
  /-- Bank that the last block to start took; the banks alternate (R195, R219). -/
  mxBank : Nat
  /-- Of the last two blocks to start, the latest first: the ACLK cycle from which the cells are free of it, and from which its bank is
  (R219). -/
  mxPrev : List (Nat × Nat)
  cbs : SMap CodeBook
  inject : Bool
  /-- Context running, and the order of dispatch on the tile (R135). -/
  running : Option Nat
  orders : Nat
  /-- Instruction-cache lines present, by line address; stale lines stay until invalidated (R142). -/
  icache : SMap (List Byte)
  /-- Lines that fills are under way or wait for, oldest first; two are under way (R12, R139). -/
  fills : List Nat
  /-- Writes to instruction RAM that the fetch does not see yet: offset and bytes, in their order (R142). -/
  istq : List (Nat × List Byte)
  /-- Loop buffer: branch seen taken twice in succession (R143). -/
  loopBr : Option (BitVec 32 × BitVec 32)
  loopSeen : Nat
  loopHeld : Bool
  /-- Branch predictor: two-bit counters, target buffer (R143). -/
  bht : SMap (BitVec 2)
  btb : SMap (BitVec 32)
  /-- The task that a debug halt stops at its next bundle boundary that R194 allows. -/
  haltReq : Option Nat
  deriving DecidableEq, Repr

def Tile.zero : Tile :=
  { ctxs := [], handles := [], sb := [], mxq := [], mxBank := 1, mxPrev := [], cbs := [], inject := false, running := none, orders := 0,
    icache := [], fills := [], istq := [], loopBr := none, loopSeen := 0, loopHeld := false, bht := [], btb := [], haltReq := none }

/-! ### Drift adaptation (R237 to R247) -/

/-- Drift state of one DRIFT operator of a stream: δ by index, and statistics by index and group (R239 to R242). -/
structure Drift where
  stream : Nat
  op : Nat
  /-- δ[j] for j already computed, newest first. -/
  deltas : List (Nat × Int)
  /-- Statistics: index, outputs, limited outputs, squared error, `EMAX`. -/
  stats : List (Nat × Nat × Nat × Nat × Int)
  deriving DecidableEq, Repr

/-! ### Bring-up, security, power, heat (R455 to R524) -/

/-- Bring-up progress (R455 to R462). -/
structure Boot where
  stage : Nat
  fail : Bool
  failCode : Nat
  linkDone : Bool
  cause : Nat
  faultCause : Nat
  mode : Nat
  s0Us : Nat
  /-- Time base when the stage in progress began, and when S1 ended, for S2. -/
  startNs : Nat
  s1Ns : Nat
  waitHost : Bool
  /-- `D2` of S1's record, while S1 waits for a push; S7 has completed. -/
  s1Info : Nat
  s7Done : Bool
  deriving DecidableEq, Repr

def Boot.start : Boot :=
  { stage := 0, fail := false, failCode := 0, linkDone := false, cause := 1, faultCause := 0, mode := 0, s0Us := 0,
    startNs := 0, s1Ns := 0, waitHost := false, s1Info := 0, s7Done := false }

/-- A licence in force (R476). -/
structure Licence where
  serial : Word
  tiles : Nat
  deriving DecidableEq, Repr

/-- A queued flash write (R494): the SEC operation it serves or 0, and either bytes at an offset or a log entry of a type. -/
structure FlashOp where
  op : Nat
  entry : Nat
  off : Nat
  bytes : List Byte
  deriving DecidableEq, Repr

/-- The security block (R469 to R487). The staging area and the argument registers are registers; the firmware store and
the flash are byte maps. -/
structure Sec where
  idValid : Bool
  devId : BitVec 128
  /-- Debug scopes that are open (R482). -/
  scopes : BitVec 3
  fwLocked : Bool
  bootSrc : Nat
  fwVersion : Nat
  licFloor : Nat
  store : SMap Byte
  licence : Option Licence
  keyHeld : Bool
  chal : BitVec 256
  draws : Nat
  busy : Option Nat
  flash : SMap Byte
  queue : List FlashOp
  /-- Where the flash log goes on, its last entry and sector numbers (R495), and the sector of the newest baseline entry. -/
  logOff : Nat
  logSeq : Nat
  sectorSeq : Nat
  baseAt : Option Nat
  /-- Digests that the loaded plans' signatures covered, by plan id (R481). -/
  planDigests : List (Nat × BitVec 384)
  deriving DecidableEq, Repr

def Sec.zero : Sec :=
  { idValid := false, devId := 0, scopes := 0, fwLocked := false, bootSrc := 0, fwVersion := 0, licFloor := 0,
    store := [], licence := none, keyHeld := false, chal := 0, draws := 0, busy := none, flash := [], queue := [],
    logOff := 0x400000, logSeq := 0, sectorSeq := 0, baseAt := none, planDigests := [] }

/-- Harvest telemetry, thermal and power control (R488 to R496, R516 to R521). The controllers judge one reading every 50 µs, so
their times are counted in readings. -/
structure Hv where
  /-- Last readings, °C: 64 logic sensors, 32 stack sensors. -/
  logic : List Int
  stackReads : List Int
  /-- Sensor being trimmed, 0 to 63 logic and 64 to 95 stack: its last reading is held at the next sample (R488). -/
  trim : Option Nat
  /-- Thermal demand of R489, and readings in succession that lie below its step's thresholds minus `HYST`. -/
  demand : Nat
  low : Nat
  /-- Demand of R520: for a stack above 95 °C and for logic at 105 °C, and readings in succession that are low enough. -/
  hotStack : Bool
  stackLow : Nat
  hotLogic : Bool
  logicLow : Nat
  /-- The last reading was at a trip level (R520); readings in succession that are cool enough during a trip (R521). -/
  tripOnce : Bool
  cool : Nat
  /-- Power readings of the last 1 ms, 0.1 W, newest first; readings until P is judged again; readings in succession at which the
  return test holds; readings for which `OVER` still stands (R516). -/
  power : List Nat
  pwrWait : Nat
  pwrLow : Nat
  overLeft : Nat
  /-- Rails below `ALARM_MV` since their alarm was posted (R490); monitors that have posted theirs (R491). -/
  excursion : List Nat
  wornPosted : List Nat
  scrubAt : SMap Nat
  scrubDone : List Nat
  /-- When the pass in progress began (R488). -/
  scrubNs : Nat
  /-- Passes completed, which the telemetry record gives whole (R493). -/
  passes : Nat
  deriving DecidableEq, Repr

def Hv.zero : Hv :=
  { logic := [], stackReads := [], trim := none, demand := 0, low := 0, hotStack := false, stackLow := 0, hotLogic := false, logicLow := 0,
    tripOnce := false, cool := 0, power := [], pwrWait := 0, pwrLow := 0, overLeft := 0, excursion := [], wornPosted := [],
    scrubAt := [], scrubDone := [], scrubNs := 0, passes := 0 }

/-- Why the device is held in reset (R510, R515, R521). -/
inductive Hold where
  | none | perst | thermal | brownOut
  deriving DecidableEq, Repr

/-- Pins and reset holds (R511 to R523). -/
structure Pins where
  hold : Hold
  perstLow : Bool
  resetOutLow : Bool
  thermTripLow : Bool
  /-- `SPI_RESET_N` is driven low, as it is throughout S0 (R522). -/
  spiResetLow : Bool
  giPins : BitVec 16
  /-- The A and B inputs of the encoders, before their filters (R84). -/
  encA : BitVec 8
  encB : BitVec 8
  /-- Trigger outputs that stand at their active level; the pin's level follows `POL` (R90, R98). -/
  trigOut : BitVec 32
  refSys : Bool
  refPcie : Bool
  refSns : Bool
  fclkRuns : Bool
  deriving DecidableEq, Repr

def Pins.reset : Pins :=
  { hold := .none, perstLow := false, resetOutLow := true, thermTripLow := false, spiResetLow := true, giPins := 0, encA := 0, encB := 0, trigOut := 0,
    refSys := true, refPcie := true, refSns := true, fclkRuns := false }

/-- The logical grid (R124 to R127): physical tiles that have failed at the last cold S5 or S6 or later, m, and the enabled
tile count. -/
structure Grid where
  failed : List Nat
  /-- Positions harvested at the last cold S5 (R467). -/
  cold : List Nat
  rows : Nat
  enabled : Nat
  deriving DecidableEq, Repr

/-- The state of the machine. -/
structure State where
  /-- Commands that wait, first in, first out. -/
  pending : List Instr
  /-- Register fields by key (see `Fld.key`); a field not listed holds its reset value. -/
  regs : SMap Nat
  /-- Shadows of B fields, each value plus one, by key; 0 where none is held (R6, R396). -/
  shadow : SMap Nat
  /-- Held low halves and latched high halves, by requester and offset (R341). -/
  heldLow : SMap Nat
  latched : SMap Nat
  /-- Value the last read returned, and whether it completed with Unsupported Request or poisoned. -/
  readData : List Byte
  readError : Bool
  /-- Counter of the free values (log 3): the model's own field. -/
  free : Nat
  /-- Device memory, DRAM and scratchpads, by device address (R268, R317); host memory by host address. -/
  mem : List Host.Cell
  hostMem : List Host.Cell
  blocks : SMap BlockMeta
  /-- Scratchpad words carrying the poison marker (R191, R269), by address of the 8-byte word. -/
  spPoison : SMap Bool
  iram : SMap Byte
  tcm : SMap Byte
  bitVars : SMap Byte
  clk : Clocks
  pins : Pins
  boot : Boot
  sec : Sec
  hv : Hv
  fm : Fm
  /-- Event sources, their coalesced counts are registers; asynchronous latches (R427). -/
  sources : SMap SrcState
  latches : BitVec 16
  cores : SMap Core
  hl : HostLink
  rings : SMap Ring
  bursts : List Burst
  descs : List Desc
  stage : List StageRec
  /-- Ring last served of each fetch priority (R363). -/
  fetchPtr : SMap Nat
  plans : SMap Plan
  objs : SMap SyncObj
  queues : SMap Queue
  jobs : List Job
  ports : SMap Port
  pstreams : SMap PortStream
  streams : SMap Stream
  stripes : List Stripe
  engines : SMap BEngine
  encs : SMap Encoder
  trigs : SMap Trig
  links : SMap Link
  /-- Filtered level of each general input's pin, and the FCLK cycle since which the pin has stood at its level (R92). -/
  giLevel : BitVec 16
  giFrom : SMap Nat
  tiles : SMap Tile
  grid : Grid
  sctx : SMap SCtx
  bwTokens : SMap Nat
  chans : SMap Channel
  dram : Dram
  pm : Pm
  drifts : List Drift
  deriving DecidableEq, Repr

/-- The machine right after reset: S0 is in progress, nothing has run, every register field at its reset value. Values the
manual does not give are named in log 2. -/
def State.reset : State :=
  { pending := [], regs := [], shadow := [], heldLow := [], latched := [], readData := [], readError := false, free := 0, mem := [],
    hostMem := [], blocks := [], spPoison := [], iram := [], tcm := [], bitVars := [], clk := Clocks.zero,
    pins := Pins.reset, boot := Boot.start, sec := Sec.zero, hv := Hv.zero, fm := Fm.zero, sources := [], latches := 0,
    cores := [], hl := HostLink.zero, rings := [], bursts := [], descs := [], stage := [], fetchPtr := [], plans := [],
    objs := [], queues := [], jobs := [], ports := [], pstreams := [], streams := [], stripes := [],
    engines := [], encs := [], trigs := [], links := [], giLevel := 0, giFrom := [], tiles := [],
    grid := { failed := [], cold := [], rows := 0, enabled := 0 }, sctx := [], bwTokens := [], chans := [], dram := Dram.zero,
    pm := Pm.zero, drifts := [] }

end Sys2Proof.Machine
end

