-- ==== Sys2Proof/Machine/Ops.lean ====
section
/-! DEFINITION. The named operations that the meanings share: maps, bytes, register fields, time, memory, events, rings,
fault reports. -/

namespace Sys2Proof.Machine

/-- The outcome of a command. -/
abbrev Out := Host.Outcome State Fault Refusal

/-! ### Maps -/

/-- The value at a key; an unlisted key reads as `d`. -/
def mget {α : Type} (d : α) : List (Nat × α) → Nat → α
  | [], _ => d
  | e :: m, k => if e.1 = k then e.2 else mget d m k

/-- A list without a key. -/
def mdel {α : Type} : List (Nat × α) → Nat → List (Nat × α)
  | [], _ => []
  | e :: m, k => if e.1 = k then mdel m k else e :: mdel m k

/-- Insertion in key order, before the first greater key. -/
def mins {α : Type} : List (Nat × α) → Nat → α → List (Nat × α)
  | [], k, v => [(k, v)]
  | e :: m, k, v => if k < e.1 then (k, v) :: e :: m else e :: mins m k v

/-- Write a key: the value an unlisted key reads as is not listed. -/
def mset {α : Type} [DecidableEq α] (d : α) (m : List (Nat × α)) (k : Nat) (v : α) : List (Nat × α) :=
  if v = d then mdel m k else mins (mdel m k) k v

/-- Change the value at a key. -/
def mupd {α : Type} [DecidableEq α] (d : α) (m : List (Nat × α)) (k : Nat) (f : α → α) : List (Nat × α) :=
  mset d m k (f (mget d m k))

/-- All keys of a list are above `k`, in rising order, and no value is the default. -/
def mwfFrom {α : Type} [DecidableEq α] (d : α) : Nat → List (Nat × α) → Bool
  | _, [] => true
  | k, e :: m => decide (k ≤ e.1) && !decide (e.2 = d) && mwfFrom d (e.1 + 1) m

/-- The canonical form of a map: keys strictly rising, no default listed. -/
def mwf {α : Type} [DecidableEq α] (d : α) (m : List (Nat × α)) : Bool := mwfFrom d 0 m

/-! ### Bytes and bits -/

/-- Little-endian value of bytes (R4). -/
def leNat : List Byte → Nat
  | [] => 0
  | b :: bs => b.toNat + 256 * leNat bs

/-- `n` little-endian bytes of a value (R4). -/
def natLE : Nat → Nat → List Byte
  | 0, _ => []
  | n + 1, v => BitVec.ofNat 8 v :: natLE n (v / 256)

/-- Bits [lo + w − 1 : lo] of a value. -/
def bitsOf (v lo w : Nat) : Nat := v / 2 ^ lo % 2 ^ w

/-- A value placed at a bit position. -/
def atBit (lo v : Nat) : Nat := v * 2 ^ lo

/-- 0 or 1. -/
def b2n (b : Bool) : Nat := if b then 1 else 0

/-- A signed value read from `w` bits. -/
def sgn (w v : Nat) : Int := if v % 2 ^ w < 2 ^ (w - 1) then (v % 2 ^ w : Nat) else ((v % 2 ^ w : Nat) : Int) - (2 ^ w : Nat)

/-- The `w`-bit two's complement of a signed value. -/
def unsgn (w : Nat) (v : Int) : Nat := (v % (2 ^ w : Nat)).toNat

/-- Zeros. -/
def zeros (n : Nat) : List Byte := List.replicate n 0

/-- The numbers below `n`. -/
def upto (n : Nat) : List Nat := List.range n

/-- Read bytes of a byte map. -/
def rdBytes (d : Byte) (m : SMap Byte) (a : Nat) : Nat → List Byte
  | 0 => []
  | n + 1 => mget d m a :: rdBytes d m (a + 1) n

/-- Write bytes of a byte map. -/
def wrBytes (d : Byte) (m : SMap Byte) (a : Nat) : List Byte → SMap Byte
  | [] => m
  | b :: bs => wrBytes d (mset d m a b) (a + 1) bs

/-- Write parts of a byte map, in order: the address and the bytes of each. -/
def wrParts (d : Byte) : SMap Byte → List (Nat × List Byte) → SMap Byte
  | m, [] => m
  | m, p :: ps => wrParts d (wrBytes d m p.1 p.2) ps

/-- Insertion sort by a key, smallest first, equal keys in their order. -/
def insertBy {α : Type} (le : α → α → Bool) (x : α) : List α → List α
  | [] => [x]
  | y :: ys => if le x y then x :: y :: ys else y :: insertBy le x ys

def sortBy {α : Type} (le : α → α → Bool) : List α → List α
  | [] => []
  | x :: xs => insertBy le x (sortBy le xs)

/-- The first element with the least key. -/
def leastBy {α : Type} (lt : α → α → Bool) : List α → Option α
  | [] => none
  | x :: xs => match leastBy lt xs with
    | none => some x
    | some y => if lt y x then some y else some x

/-- Fold a state through a list. -/
def thread {α β : Type} (f : β → α → β) (b : β) (l : List α) : β := l.foldl f b

/-! ### Register fields (R4 to R7, R497) -/

/-- Key of a field's copy: channel, index, low bit. -/
def fldKey (f : Fld) (ch i : Nat) : Nat := (ch * 2 ^ 26 + (f.off + f.stride * i)) * 64 + f.lo

/-- The value in force of a field of channel `ch`, register `i`. -/
def getF (s : State) (f : Fld) (ch i : Nat) : Nat := mget f.reset s.regs (fldKey f ch i)

/-- Store a field, cut to its width. -/
def setF (s : State) (f : Fld) (ch i v : Nat) : State :=
  { s with regs := mset f.reset s.regs (fldKey f ch i) (v % 2 ^ f.w) }

/-- A field that has neither channel nor index. -/
def fld (s : State) (f : Fld) : Nat := getF s f 0 0

/-- The one-bit form. -/
def bit (s : State) (f : Fld) (ch i : Nat) : Bool := getF s f ch i = 1

/-- Count into a saturating counter (R83 and every other counter table). -/
def addF (s : State) (f : Fld) (ch i n : Nat) : State := setF s f ch i (min (2 ^ f.w - 1) (getF s f ch i + n))

/-- Count one in a counter that has neither channel nor index. -/
def cnt (s : State) (f : Fld) : State := addF s f 0 0 1

/-- Keep the largest value seen. -/
def maxF (s : State) (f : Fld) (ch i v : Nat) : State := setF s f ch i (max (getF s f ch i) v)

/-! ### Enables (R501) -/

/-- The device is ready: stage S8 has been reached and nothing holds it in reset (R456, R457). -/
def ready (s : State) : Bool := s.boot.stage = 8 && s.pins.hold = .none

/-- The value in force of a gated enable is the AND of the field and its bit of `GC_ENABLE`. -/
def gated (s : State) (gate f : Fld) (ch i : Nat) : Bool := ready s && bit s gate 0 0 && bit s f ch i

def ltEn (s : State) : Bool := gated s Reg.GC_ENABLE_LT Reg.LT_CTL_EN 0 0
def igEn (s : State) : Bool := gated s Reg.GC_ENABLE_IG Reg.IG_CTL_EN 0 0
def scEn (s : State) : Bool := gated s Reg.GC_ENABLE_SC Reg.SC_JOB_CTL_EN 0 0
def syEn (s : State) : Bool := gated s Reg.GC_ENABLE_SY Reg.SY_CTL_EN 0 0
def qmEn (s : State) : Bool := gated s Reg.GC_ENABLE_QM Reg.QM_CTL_EN 0 0
def pmEn (s : State) : Bool := gated s Reg.GC_ENABLE_PM Reg.PM_CTL_EN 0 0
def evEn (s : State) : Bool := gated s Reg.GC_ENABLE_EV Reg.EV_CTL_EN 0 0
def hvEn (s : State) : Bool := gated s Reg.GC_ENABLE_HV Reg.HV_CTL_EN 0 0
def beEn (s : State) (b : Nat) : Bool := gated s Reg.GC_ENABLE_BE Reg.BE_CTL_EN b 0
def seEn (s : State) (e : Nat) : Bool := gated s Reg.GC_ENABLE_SE Reg.SE_ENG_CTL_EN e 0

/-! ### Time and free values -/

/-- The time base, in ns (R93). -/
def nowNs (s : State) : Nat := s.clk.tb / 2 ^ 28 % 2 ^ 64

/-- Take one free value: the counter moves on. -/
def drawn (s : State) : State := { s with free := s.free + 1 }

/-- A free byte of the present draw (log 3). -/
def freeByteOf (s : State) (i : Nat) : Byte := Config.freeByte (s.free * 4096 + i)

/-! ### Units -/

def tile (s : State) (t : Nat) : Tile := mget Tile.zero s.tiles t
def updTile (s : State) (t : Nat) (f : Tile → Tile) : State := { s with tiles := mupd Tile.zero s.tiles t f }
def ctxOf (s : State) (t c : Nat) : Ctx := mget Ctx.empty (tile s t).ctxs c
def updCtx (s : State) (t c : Nat) (f : Ctx → Ctx) : State :=
  updTile s t fun u => { u with ctxs := mupd Ctx.empty u.ctxs c f }
def handleOf (s : State) (t e : Nat) : Handle := mget Handle.empty (tile s t).handles e
def updHandle (s : State) (t e : Nat) (f : Handle → Handle) : State :=
  updTile s t fun u => { u with handles := mupd Handle.empty u.handles e f }
def port (s : State) (p : Nat) : Port := mget Port.zero s.ports p
def updPort (s : State) (p : Nat) (f : Port → Port) : State := { s with ports := mupd Port.zero s.ports p f }
def pstream (s : State) (x : Nat) : PortStream := mget PortStream.zero s.pstreams x
def updPstream (s : State) (x : Nat) (f : PortStream → PortStream) : State :=
  { s with pstreams := mupd PortStream.zero s.pstreams x f }
def stream (s : State) (x : Nat) : Stream := mget Stream.unbound s.streams x
def updStream (s : State) (x : Nat) (f : Stream → Stream) : State :=
  { s with streams := mupd Stream.unbound s.streams x f }
def engine (s : State) (b : Nat) : BEngine := mget BEngine.zero s.engines b
def updEngine (s : State) (b : Nat) (f : BEngine → BEngine) : State :=
  { s with engines := mupd BEngine.zero s.engines b f }
def enc (s : State) (e : Nat) : Encoder := mget Encoder.zero s.encs e
def updEnc (s : State) (e : Nat) (f : Encoder → Encoder) : State := { s with encs := mupd Encoder.zero s.encs e f }
def trig (s : State) (t : Nat) : Trig := mget Trig.zero s.trigs t
def updTrig (s : State) (t : Nat) (f : Trig → Trig) : State := { s with trigs := mupd Trig.zero s.trigs t f }
def link (s : State) (x : Nat) : Link := mget Link.zero s.links x
def updLink (s : State) (x : Nat) (f : Link → Link) : State := { s with links := mupd Link.zero s.links x f }
def coreNo (s : State) (n : Nat) : Core := mget Core.zero s.cores n
def updCore (s : State) (n : Nat) (f : Core → Core) : State := { s with cores := mupd Core.zero s.cores n f }
def source (s : State) (n : Nat) : SrcState := mget SrcState.idle s.sources n
def setSource (s : State) (n : Nat) (v : SrcState) : State := { s with sources := mset SrcState.idle s.sources n v }
def ring (s : State) (r : Nat) : Ring := mget Ring.zero s.rings r
def updRing (s : State) (r : Nat) (f : Ring → Ring) : State := { s with rings := mupd Ring.zero s.rings r f }
def plan (s : State) (p : Nat) : Plan := mget Plan.none s.plans p
def updPlan (s : State) (p : Nat) (f : Plan → Plan) : State := { s with plans := mupd Plan.none s.plans p f }
def obj (s : State) (n : Nat) : SyncObj := mget SyncObj.free s.objs n
def updObj (s : State) (n : Nat) (f : SyncObj → SyncObj) : State := { s with objs := mupd SyncObj.free s.objs n f }
def queue (s : State) (q : Nat) : Queue := mget Queue.free s.queues q
def updQueue (s : State) (q : Nat) (f : Queue → Queue) : State := { s with queues := mupd Queue.free s.queues q f }
def sctxKey (e c : Nat) : Nat := e * 64 + c
def sctx (s : State) (e c : Nat) : SCtx := mget SCtx.free s.sctx (sctxKey e c)
def updSctx (s : State) (e c : Nat) (f : SCtx → SCtx) : State :=
  { s with sctx := mupd SCtx.free s.sctx (sctxKey e c) f }
def channel (s : State) (c : Nat) : Channel := mget Channel.zero s.chans c
def updChannel (s : State) (c : Nat) (f : Channel → Channel) : State :=
  { s with chans := mupd Channel.zero s.chans c f }
def winOf (s : State) (w : Nat) : Win := mget Win.closed s.pm.wins w
def updPm (s : State) (f : Pm → Pm) : State := { s with pm := f s.pm }
def updWin (s : State) (w : Nat) (f : Win → Win) : State := updPm s fun p => { p with wins := mupd Win.closed p.wins w f }
def chanOf (s : State) (k : Nat) : SendCh := mget SendCh.closed s.pm.chans k
def updChan (s : State) (k : Nat) (f : SendCh → SendCh) : State :=
  updPm s fun p => { p with chans := mupd SendCh.closed p.chans k f }
def updFm (s : State) (f : Fm → Fm) : State := { s with fm := f s.fm }
def updHl (s : State) (f : HostLink → HostLink) : State := { s with hl := f s.hl }
def updSec (s : State) (f : Sec → Sec) : State := { s with sec := f s.sec }
def updHv (s : State) (f : Hv → Hv) : State := { s with hv := f s.hv }
def updClk (s : State) (f : Clocks → Clocks) : State := { s with clk := f s.clk }
def updPins (s : State) (f : Pins → Pins) : State := { s with pins := f s.pins }
def updBoot (s : State) (f : Boot → Boot) : State := { s with boot := f s.boot }
def updDram (s : State) (f : Dram → Dram) : State := { s with dram := f s.dram }

/-! ### Jobs in the list -/

/-- The job with an id. -/
def jobOf (s : State) (id : JobId) : Option Job := s.jobs.find? fun j => j.id == id

/-- Change the job with an id. -/
def updJob (s : State) (id : JobId) (f : Job → Job) : State :=
  { s with jobs := s.jobs.map fun j => if j.id == id then f j else j }

/-! ### Event hub (R422) -/

/-- Set a source: IDLE to PENDING, ACTIVE to ACTIVE_PENDING, otherwise coalesced and counted. -/
def evSet (s : State) (n : Nat) : State :=
  match source s n with
  | .idle => setSource s n .pending
  | .active => setSource s n .activePending
  | .pending | .activePending => cnt (addF s Reg.EV_SRC_COALESCED 0 n 1) Reg.EV_CNT_COALESCED

/-- Clear a source: PENDING to IDLE, ACTIVE_PENDING to ACTIVE. -/
def evClear (s : State) (n : Nat) : State :=
  match source s n with
  | .pending => setSource s n .idle
  | .activePending => setSource s n .active
  | .idle | .active => s

/-! ### Fault reports (R434) -/

/-- A report joins the order of detection, with the time and its job's attempt. -/
def pushReport (s : State) (r : Report) (esc : Bool) : State :=
  updFm s fun m => { m with intake := m.intake ++ [{ rep := r, esc := esc, ns := nowNs s,
                                                     attempt := (jobOf s r.job).elim 0 (·.attempt) }] }

/-- A unit detects a fault. -/
def report (s : State) (r : Report) : State := pushReport s r false

def mkReport (cause : Nat) (k : UnitKind) (unit loc : Nat) (job : JobId) (aux : Nat) : Report :=
  { cause := cause, unitKind := k, unit := unit, loc := loc, job := job, aux := aux }

/-! ### Address map (R268, R317, R320, R347, R348) -/

def dramTop : Nat := 0xC00000000
def spBase : Nat := 0x1000000000
def hostBase : Nat := 0x3000000000
def peerBase : Nat := 0x4000000000

/-- Where a device address lies. -/
inductive Region where
  | dram | sp (t off : Nat) | host (x : Nat) | peer (p o : Nat) | none
  deriving DecidableEq, Repr

def region (s : State) (a : Nat) : Region :=
  if a < dramTop then .dram
  else if spBase ≤ a ∧ a < spBase + 256 * 0x200000 then
    let t := (a - spBase) / 0x200000
    let o := (a - spBase) % 0x200000
    if o < 0x180000 ∧ t < s.grid.enabled then .sp t o else .none
  else if hostBase ≤ a ∧ a < peerBase then
    if a - hostBase < fld s Reg.HL_HOST_WIN_SIZE then .host (a - hostBase) else .none
  else if peerBase ≤ a ∧ a < peerBase + 16 * 2 ^ 40 then
    let p := (a - peerBase) / 2 ^ 40
    let o := (a - peerBase) % 2 ^ 40
    if bit s Reg.HL_PEER_CTL_EN 0 p ∧ o < 2 ^ getF s Reg.HL_PEER_CTL_SIZE_LOG2 0 p then .peer p o else .none
  else .none

/-- Scratchpad address of a tile's byte (R268). -/
def spAddr (t off : Nat) : Nat := spBase + t * 0x200000 + off

/-- First aperture offset and rows of a bank (R268). -/
def bankBase : Nat → Nat
  | 0 => 0 | 1 => 0x40000 | _ => 0x80000
def bankRows : Nat → Nat
  | 0 => 2048 | 1 => 2048 | _ => 8192

def h8 (f : Nat) : Nat := (f % 256) ^^^ (f / 256 % 256) ^^^ (f / 65536 % 16)
def h7 (f : Nat) : Nat := (f % 128) ^^^ (f / 128 % 128) ^^^ (f / 16384 % 64)

/-- An address lies in the retention area of the committed map. -/
def inRet (s : State) (a : Nat) : Bool := s.dram.rb ≤ a && a < s.dram.rb + s.dram.rs

/-- Channel and local address of a DRAM address, R320. -/
def dramMap (s : State) (a : Nat) : Nat × Nat :=
  let d := s.dram
  if inRet s a then
    let o := a - d.rb
    let b := if d.rs / 2 ≤ o then 1 else 0
    let o2 := o % (d.rs / 2)
    let f := o2 / 2 ^ 15
    let h := if d.hash then h7 f else 0
    (b * 128 + ((o2 / 256 % 128) ^^^ h), (dramTop - d.rs) / 256 + f * 256 + o2 % 256)
  else
    let a2 := if a < d.rb then a else a - d.rs
    let f := a2 / 2 ^ 16
    let h := if d.hash then h8 f else 0
    ((a2 / 256 % 256) ^^^ h, f * 256 + a2 % 256)

/-- Bank and row of a local address, R317. -/
def bankOf (l : Nat) : Nat := l / 1024 % 16
def rowOf (l : Nat) : Nat := l / 16384

/-- The address falls in a withheld frame (R333). -/
def isWithheld (s : State) (a : Nat) : Bool :=
  s.dram.withheld.any fun w =>
    if w.2 then (w.1 ≤ a && a < w.1 + 0x8000) || (w.1 + s.dram.rs / 2 ≤ a && a < w.1 + s.dram.rs / 2 + 0x8000)
    else w.1 ≤ a && a < w.1 + 0x10000

/-- A range lies wholly in the general region of DRAM (R320). -/
def inGeneral (s : State) (a n : Nat) : Bool :=
  a + n ≤ dramTop && (a + n ≤ s.dram.rb || s.dram.rb + s.dram.rs ≤ a || n = 0)

/-- A range lies wholly in the host window (R347). -/
def inHostWin (s : State) (a n : Nat) : Bool :=
  hostBase ≤ a && a + n ≤ hostBase + fld s Reg.HL_HOST_WIN_SIZE && a + n ≤ peerBase

/-! ### CRC-32C (R324) -/

/-- One bit step of the reflected CRC with polynomial 0x1EDC6F41. -/
def crcBit (c : BitVec 32) : BitVec 32 := if c.getLsbD 0 then (c >>> 1) ^^^ 0x82F63B78#32 else c >>> 1

def crcByte (c : BitVec 32) (b : Byte) : BitVec 32 :=
  let x := c ^^^ b.setWidth 32
  crcBit (crcBit (crcBit (crcBit (crcBit (crcBit (crcBit (crcBit x)))))))

/-- CRC-32C of bytes: initial value and final XOR of all ones. -/
def crc32c (bs : List Byte) : Nat := (bs.foldl crcByte 0xFFFFFFFF#32 ^^^ 0xFFFFFFFF#32).toNat

/-! ### DRAM blocks (R324 to R326) -/

def blockMeta (s : State) (b : Nat) : BlockMeta := mget BlockMeta.fresh s.blocks b

/-- The block fails its own check: its CRC is not the right one (`blockWord`), or it was written under an older map (R322, R325). -/
def blockBad (s : State) (b : Nat) : Bool := (blockMeta s b).syndrome != 0 || (blockMeta s b).gen != s.dram.gen

/-- The CRC that R324 asks of block `b` (its device address without the low six bits is the seed): over the seed, the data and the flag. -/
def blockCrc (b : Nat) (bytes : List Byte) (poison : Bool) : BitVec 32 :=
  BitVec.ofNat 32 (crc32c (natLE 8 b ++ bytes ++ natLE 1 (b2n poison)))

/-- The 64 metadata bits stored with a block (R324): its CRC, as far off the right one as its syndrome says, its flag, and reserved bits
of 0. -/
def blockWord (s : State) (b : Nat) : Word :=
  let m := blockMeta s b
  ((blockCrc b (rdBytes 0 s.mem (64 * b) 64) m.poison ^^^ m.syndrome).setWidth 64) ||| (BitVec.ofNat 64 (b2n m.poison * 2 ^ 32))

/-- Stored bytes of a block; a block of an older map holds undefined contents (R322). -/
def blockBytes (s : State) (b : Nat) : List Byte :=
  if (blockMeta s b).gen = s.dram.gen then rdBytes 0 s.mem (64 * b) 64
  else (upto 64).map fun i => freeByteOf s i

/-- A row fails twice: it heads the channel's suspect list of eight distinct rows (R334). -/
def suspectRow (l : List Suspect) (bank row : Nat) : List Suspect :=
  let old := (l.find? fun e => e.bank = bank ∧ e.row = row).elim 0 (·.fails)
  ({ bank := bank, row := row, fails := min 255 (old + 1) } ::
    l.filter fun e => ¬(e.bank = bank ∧ e.row = row)).take 8

/-- Read a block with its check (R325): bytes, poison, and what the read leaves. `scrub` reads are counted apart. -/
def readBlock (s : State) (b : Nat) (tries : ReadTry) (job : JobId) (scrub : Bool) : List Byte × Bool × State :=
  let a := 64 * b
  let (c, l) := dramMap s a
  if isWithheld s a then
    ((upto 64).map fun i => freeByteOf s i, true, drawn (addF s Reg.MEM_CNT_WITHHELD c 0 1))
  else
    let s1 := if scrub then addF s Reg.MEM_CNT_SCRUB c 0 1 else addF s Reg.MEM_CNT_RD c 0 1
    let bytes := blockBytes s b
    let s1 := if (blockMeta s b).gen = s.dram.gen then s1 else drawn s1
    if blockBad s b || tries = .fails then
      let s2 := addF s1 Reg.MEM_CNT_CRC c 0 1
      let s3 := updChannel s2 c fun k => { k with suspects := suspectRow k.suspects (bankOf l) (rowOf l) }
      (bytes, true, report (evSet s3 (512 + c)) (mkReport 0x40 .dram c (a + bankOf l * 2 ^ 48) job (rowOf l)))
    else
      let s2 := if tries = .retryOk then addF s1 Reg.MEM_CNT_RETRY_OK c 0 1 else s1
      if (blockMeta s b).poison then
        (bytes, true, addF s2 Reg.MEM_CNT_POISON_RD c 0 1)
      else (bytes, false, s2)

/-- Store a block with its metadata; an injection spoils bit 0 of its CRC (R336). -/
def putBlock (s : State) (b : Nat) (bytes : List Byte) (poison : Bool) : State :=
  let c := (dramMap s (64 * b)).1
  let m : BlockMeta := { poison := poison, syndrome := if (channel s c).inject then 1 else 0, gen := s.dram.gen }
  let s1 := { s with mem := wrBytes 0 s.mem (64 * b) bytes, blocks := mset BlockMeta.fresh s.blocks b m }
  let s2 := updChannel s1 c fun k => { k with inject := false }
  let s3 := addF s2 Reg.MEM_CNT_WR c 0 1
  if poison then addF s3 Reg.MEM_CNT_POISON_WR c 0 1 else s3

/-- Write within one block at a byte offset, merging a partial write (R326). -/
def writeBlock (s : State) (b off : Nat) (bytes : List Byte) (poison : Bool) (tries : ReadTry) (job : JobId) : State :=
  let c := (dramMap s (64 * b)).1
  if isWithheld s (64 * b) then addF s Reg.MEM_CNT_WITHHELD c 0 1
  else if off = 0 ∧ bytes.length = 64 then putBlock s b bytes poison
  else
    let (old, p, s1) := readBlock s b tries job false
    let merged := old.take off ++ bytes ++ old.drop (off + bytes.length)
    putBlock (addF s1 Reg.MEM_CNT_RMW c 0 1) b merged (p || poison)

/-! ### Device memory, whatever the region -/

/-- Scratchpad bytes with the poison marker of their word (R191, R269). -/
def spRead (s : State) (a n : Nat) : List (Byte × Bool) :=
  (upto n).map fun i => (mget 0 s.mem (a + i), mget false s.spPoison ((a + i) / 8))

/-- A scratchpad write of bytes with their poison: a word with any poisoned byte written, or one only partly overwritten
that was marked, carries the marker (R191, R269). -/
def spWrite (s : State) (a : Nat) (bs : List (Byte × Bool)) : State :=
  let mem := wrBytes 0 s.mem a (bs.map (·.1))
  let words := (upto ((a % 8 + bs.length + 7) / 8)).map fun i => a / 8 + i
  let mark := fun (m : SMap Bool) (w : Nat) =>
    let covered := a ≤ 8 * w && 8 * w + 8 ≤ a + bs.length
    let hit := (upto 8).any fun i => a ≤ 8 * w + i && (bs[8 * w + i - a]?).elim false (·.2)
    mset false m w (hit || (!covered && mget false m w))
  { s with mem := mem, spPoison := thread mark s.spPoison words }

/-- What the last of some writes to cover an address leaves there. -/
def partAt (ps : List (Nat × List (Byte × Bool))) (a : Nat) : Option (Byte × Bool) :=
  ps.foldl (fun acc p => if p.1 ≤ a && a < p.1 + p.2.length then p.2[a - p.1]? else acc) none

/-- One scratchpad store in parts, as a vector store makes: a word carries the marker if any byte written to it is poisoned, be it
overwritten by a later part, and is cleared only if the parts together write all eight of its bytes (R191). -/
def spStore (s : State) (ps : List (Nat × List (Byte × Bool))) : State :=
  let words := (ps.flatMap fun p => (upto p.2.length).map fun i => (p.1 + i) / 8).eraseDups
  let mark := fun (m : SMap Bool) (w : Nat) =>
    let got := (upto 8).map fun i => partAt ps (8 * w + i)
    let hit := ps.any fun p => p.2.zipIdx.any fun b => b.1.2 && (p.1 + b.2) / 8 = w
    mset false m w (hit || (!(got.all (·.isSome)) && mget false m w))
  { s with mem := wrParts 0 s.mem (ps.map fun p => (p.1, p.2.map (·.1))), spPoison := thread mark s.spPoison words }

/-- Split a range at 64-byte boundaries: block, offset within it, length. -/
def pieces (a n : Nat) : List (Nat × Nat × Nat) :=
  (upto (if n = 0 then 0 else (a % 64 + n + 63) / 64)).map fun i =>
    let b := a / 64 + i
    let lo := if i = 0 then a % 64 else 0
    (b, lo, min 64 (a + n - 64 * b) - lo)

/-- Blocks of 64 bytes that `n` bytes at `a` touch. -/
def blocksOf (a n : Nat) : List Nat := (upto ((a + n + 63) / 64 - a / 64)).map fun i => a / 64 + i

/-- Pieces of a posted write: split at every 4 KiB and at the maximum payload size (R347). -/
def chunks (mps : Nat) : Nat → Nat → List Byte → List (Nat × List Byte)
  | 0, _, _ => []
  | n + 1, a, bs =>
    if bs.isEmpty then []
    else
      let k := min mps (4096 - a % 4096)
      (a, bs.take k) :: chunks mps n (a + k) (bs.drop k)

/-- Outbound requests may be issued: Bus Master Enable = 1, and not in D3hot (R352). -/
def busMaster (s : State) : Bool := s.hl.bme && !s.hl.d3

/-- Issue a posted request: it is sent, or held while Bus Master Enable = 0 (R352). -/
def post (s : State) (p : Posted) : State :=
  if busMaster s then
    match p with
    | .host a bs => { s with hostMem := wrBytes 0 s.hostMem a bs }
    | .peer a bs => updHl s fun h => { h with peerWrites := h.peerWrites ++ [(a, bs)] }
    | .msix v => updHl s fun h => { h with sent := h.sent ++ [v] }
  else updHl s fun h => { h with stalled := h.stalled ++ [p] }

/-- Host address of host window offset `x` (R347); bits [11:0] of the base are ignored. -/
def hostAddr (s : State) (x : Nat) : Nat := fld s Reg.HL_HOST_WIN_BASE / 4096 * 4096 + x

/-- Read `n` bytes at a device address with their poison. Nothing lies at an unmapped address: its bytes come poisoned. -/
def devRead (s : State) (a n : Nat) (tries : ReadTry) (job : JobId) : List (Byte × Bool) × State :=
  match region s a with
  | .dram => thread (fun (acc : List (Byte × Bool) × State) p =>
      let (bytes, poison, s') := readBlock acc.2 p.1 tries job false
      (acc.1 ++ ((bytes.drop p.2.1).take p.2.2).map fun x => (x, poison), s')) ([], s) (pieces a n)
  | .sp _ _ => (spRead s a n, s)
  | .host x => ((rdBytes 0 s.hostMem (hostAddr s x) n).map fun b => (b, false), s)
  | .peer _ _ | .none => (List.replicate n (0, true), s)

/-- Write bytes with their poison at a device address. Host and peer writes are split (R347); bytes at or beyond the end of a window are
outside it (R347, R348). -/
def devWrite (s : State) (a : Nat) (bs : List (Byte × Bool)) (tries : ReadTry) (job : JobId) : State :=
  match region s a with
  | .dram => thread (fun s' p =>
      let part := (bs.drop (64 * p.1 + p.2.1 - a)).take p.2.2
      writeBlock s' p.1 p.2.1 (part.map (·.1)) (part.any (·.2)) tries job) s (pieces a bs.length)
  | .sp _ _ => spWrite s a bs
  | .host x => thread (fun s' (k : Nat × List Byte) => post s' (.host k.1 k.2)) s
      (chunks s.hl.mps bs.length (hostAddr s x) ((bs.take (fld s Reg.HL_HOST_WIN_SIZE - x)).map (·.1)))
  | .peer p o => thread (fun s' (k : Nat × List Byte) => post s' (.peer k.1 k.2)) s
      (chunks s.hl.mps bs.length (getF s Reg.HL_PEER_BASE 0 p / 2 ^ 30 * 2 ^ 30 + o)
        ((bs.take (2 ^ getF s Reg.HL_PEER_CTL_SIZE_LOG2 0 p - o)).map (·.1)))
  | .none => s

/-- Clean bytes. -/
def clean (bs : List Byte) : List (Byte × Bool) := bs.map fun b => (b, false)

/-- Write clean bytes. -/
def devPut (s : State) (a : Nat) (bs : List Byte) : State := devWrite s a (clean bs) .clean 0

/-- Read bytes whatever their poison. -/
def devGet (s : State) (a n : Nat) : List Byte := (devRead s a n .clean 0).1.map (·.1)

/-! ### MSI-X (R351) -/

/-- A message on a vector: sent, or pending while it is masked or MSI-X is off. None is sent before S8 (R457). -/
def msix (s : State) (v : Nat) : State :=
  if !ready s then s
  else if !s.hl.msixEn || s.hl.fnMask || bit s Reg.HL_MSIX_MASK 0 v then
    updHl s fun h => { h with pending := if h.pending.contains v then h.pending else h.pending ++ [v] }
  else post s (.msix v)

/-! ### The error log's indices and message (R452) -/

def logHead (s : State) : Nat := fld s Reg.FM_LOG_IDX_HEAD
def logTail (s : State) : Nat := fld s Reg.FM_LOG_IDX_TAIL
def unread (s : State) : Nat := (logTail s + 2 ^ 16 - logHead s) % 2 ^ 16

/-- A message on vector 0, when `IRQ_EN` = 1. -/
def fmNotify (s : State) : State := if bit s Reg.FM_CTL_IRQ_EN 0 0 then msix s 0 else s

/-- One message while at least `LOG_THRESH` records are unread, once `IRQ_EN` = 1. -/
def logNotify (s : State) : State :=
  if unread s < fld s Reg.FM_CTL_LOG_THRESH then updFm s fun m => { m with notified := false }
  else if s.fm.notified || !bit s Reg.FM_CTL_IRQ_EN 0 0 then s
  else msix (updFm s fun m => { m with notified := true }) 0

/-! ### Rings (R355, R357, R376 to R382) -/

def ringEntries (s : State) (r : Nat) : Nat := 2 ^ getF s Reg.QM_RING_CFG_LOG2N r 0
def ringEsz (s : State) (r : Nat) : Nat := if bit s Reg.QM_RING_CFG_ESZ r 0 then 64 else 32
def ringEn (s : State) (r : Nat) : Bool := bit s Reg.QM_RING_CFG_EN r 0
/-- The ring has the kind and format of R355. -/
def ringIs (s : State) (r kind format : Nat) : Bool :=
  r < 2 ^ 21 && getF s Reg.QM_RING_CFG_KIND r 0 = kind && getF s Reg.QM_RING_CFG_FORMAT r 0 = format

/-- The ring's context is pinned in the cache (R359): fetched commands, whose completion entries their submit ring reserves (R368),
records that wait, or a running timer. -/
def ringPinned (s : State) (r : Nat) (k : Ring) : Bool :=
  (k.timer.isSome && getF s Reg.QM_RING_COAL_US r 0 ≠ 0) || !k.waiting.isEmpty || (s.descs.any fun d => d.ring = r) ||
    (s.bursts.any fun b => b.ring = r) || s.stage.any fun e => e.ring = r

/-- The least recently used context that is cached and not pinned. -/
def ringVictim (s : State) : Option Nat :=
  (leastBy (fun (a b : Nat × Ring) => decide (a.2.cached < b.2.cached))
    (s.rings.filter fun e => e.2.cached ≠ 0 && !ringPinned s e.1 e.2)).map (·.1)

/-- The ring's context is cached, or can be loaded: not every cached one is pinned (R359). -/
def ringAble (s : State) (r : Nat) : Bool :=
  (ring s r).cached ≠ 0 || (s.rings.filter fun e => e.2.cached ≠ 0).length < 65536 || (ringVictim s).isSome

/-- A use of a ring's context: one that is not cached is loaded, in the place of another once 65,536 are cached (R359). -/
def useRing (s : State) (r : Nat) : State :=
  let s1 := if (ring s r).cached ≠ 0 then s
    else
      let full := 65536 ≤ (s.rings.filter fun e => e.2.cached ≠ 0).length
      let s0 := cnt s Reg.QM_CNT_CACHE_MISS
      match if full then ringVictim s else none with
      | some v => updRing s0 v fun k => { k with cached := 0 }
      | none => s0
  updRing s1 r fun k => { k with cached := s.clk.fclk + 1 }

def mod32 (n : Nat) : Nat := n % 2 ^ 32
/-- Distance of two free-running indices. -/
def ahead (x y : Nat) : Nat := mod32 (x + 2 ^ 32 - y)

/-- Entries of a device-written ring that are neither used nor reserved. -/
def ringRoom (s : State) (r : Nat) : Nat :=
  ringEntries s r - (ahead (ring s r).tail (ring s r).head + (ring s r).reserved + (ring s r).waiting.flatten.length)

/-- Send a ring's message: it disarms the ring, stops the timer, and clears the pending count (R381). -/
def sendRing (s : State) (r : Nat) : State :=
  msix (cnt (updRing s r fun k => { k with pend := 0, timer := none, armed := false }) Reg.QM_CNT_MSIX)
    (getF s Reg.QM_RING_CFG_VECTOR r 0)

/-- A message is due as soon as the pending count of an armed ring has reached `CNT` (R381). -/
def ringDue (s : State) (r : Nat) : State :=
  if bit s Reg.QM_RING_CFG_IRQ_EN r 0 && (ring s r).armed && getF s Reg.QM_RING_COAL_CNT r 0 ≤ (ring s r).pend then sendRing s r else s

/-- A record has been written: the pending count, and a message when it reaches `CNT` while armed (R381). -/
def ringNotify (s : State) (r n : Nat) : State :=
  if bit s Reg.QM_RING_CFG_IRQ_EN r 0 then
    ringDue (updRing s r fun k =>
      { k with pend := k.pend + n, timer := if k.timer.isNone && k.armed then some (nowNs s) else k.timer }) r
  else s

/-- Write entries at `TAIL`, then the write-back word, then any message (R380). -/
def ringWrite (s : State) (r : Nat) (entries : List (List Byte)) : State :=
  let base := getF s Reg.QM_RING_BASE r 0
  let s1 := thread (fun (s' : State) e =>
    let t := (ring s' r).tail
    updRing (devPut s' (base + t % ringEntries s r * ringEsz s r) e) r fun k => { k with tail := mod32 (k.tail + 1) })
    s entries
  ringNotify (devPut (useRing s1 r) (getF s Reg.QM_RING_WB r 0) (natLE 8 (ring s1 r).tail)) r entries.length

/-- A record joins those that wait on a ring. -/
def ringWait (s : State) (r : Nat) (entries : List (List Byte)) : State :=
  updRing s r fun k => { k with waiting := k.waiting ++ [entries] }

/-- Deliver an event, gap or control record (R356, R379): misrouted, dropped, or written; one whose ring's context cannot be loaded
waits (R359). The answer says whether it was taken. -/
def deliver (s : State) (r kind format : Nat) (entries : List (List Byte)) : State × Bool :=
  if !ringIs s r kind format then (cnt s Reg.QM_CNT_MISROUTE, false)
  else if !ringAble s r then (ringWait s r entries, true)
  else if !ringEn s r || ringRoom s r < entries.length then
    (addF (useRing s r) Reg.QM_RING_STAT_DROPPED r 0 1, false)
  else
    (addF (updRing (ringWrite s r entries) r fun k => { k with events := k.events + 1 }) Reg.QM_CNT_EVENTS 0 0 1, true)

/-- Entries of a device-written ring that are not used. -/
def ringFits (s : State) (r n : Nat) : Bool := ringEn s r && ringAble s r && ahead (ring s r).tail (ring s r).head + n ≤ ringEntries s r

/-- A completion record goes to its ring, which has the kind and format: written, or kept waiting while the ring is disabled or has no
entry, and behind records that wait (R356, R358, R368). One with an entry `held` for it takes that. -/
def ringPut (s : State) (r : Nat) (held : Bool) (bs : List Byte) : State :=
  if ringFits s r 1 && (ring s r).waiting.isEmpty && (held || 1 ≤ ringRoom s r) then ringWrite s r [bs] else ringWait s r [bs]

/-- The oldest record that waits on a ring is written if it can be now; where the ring's kind has changed it is misrouted. -/
def flushOne (s : State) (r : Nat) : State :=
  match (ring s r).waiting with
  | [] => s
  | e :: rest =>
    let s1 := updRing s r fun k => { k with waiting := rest }
    if !ringAble s r then s
    else match getF s Reg.QM_RING_CFG_KIND r 0 with
      | 1 => if ringFits s r e.length then ringWrite s1 r e else s
      | 3 => (deliver s1 r 3 (getF s Reg.QM_RING_CFG_FORMAT r 0) e).1
      | _ => cnt s1 Reg.QM_CNT_MISROUTE

/-- The records that wait on a ring, in their order. -/
def flushRing (s : State) (r : Nat) : State := thread (fun s' _ => flushOne s' r) s (ring s r).waiting

/-- An event record, R377. -/
def eventRec (code str src time seq : Nat) (args : List Nat) : List Byte :=
  natLE 4 (code + str * 2 ^ 16) ++ natLE 4 src ++ natLE 8 time ++ natLE 8 seq ++
    natLE 8 (args.getD 0 0) ++ natLE 8 (args.getD 1 0) ++ natLE 8 (args.getD 2 0) ++ natLE 8 (args.getD 3 0) ++
    natLE 8 (args.getD 4 0)

/-- Post an event to an event ring of format 0 (R377 to R379). -/
def postEvent (s : State) (r code str src : Nat) (args : List Nat) : State :=
  (deliver s r 3 0 [eventRec code str src (nowNs s) (ring s r).events args]).1

/-- Post an event that concerns a stream, to the ring named at its binding (R378). -/
def streamEvent (s : State) (x code src : Nat) (args : List Nat) : State :=
  if (stream s x).bound then postEvent s (stream s x).eventRing code x src args else cnt s Reg.QM_CNT_EVT_DROP

/-- A command completion record, R371. -/
def cplRec (status opcode detail rng tag seq r0 r1 time : Nat) : List Byte :=
  natLE 4 (status + opcode * 2 ^ 8 + detail % 65536 * 2 ^ 16) ++ natLE 4 rng ++ natLE 8 tag ++ natLE 8 seq ++ natLE 8 r0 ++
    natLE 8 r1 ++ natLE 8 time ++ zeros 16

/-- A field of a descriptor in 64-bit words: word, low bit, width. -/
def wordBits (ws : List Word) (i lo w : Nat) : Nat := bitsOf (ws.getD i 0).toNat lo w

/-- Bytes as 64-bit words. -/
def toWords : Nat → List Byte → List Word
  | 0, _ => []
  | n + 1, bs => BitVec.ofNat 64 (leNat (bs.take 8)) :: toWords n (bs.drop 8)

end Sys2Proof.Machine
end

