-- ==== Sys2Proof/Machine/PlanRecords.lean ====
section
/-! DEFINITION. The records of a plan image that the manual lays out byte by byte, as the device reads them: operator table entries
(R235), shape records (R248), queue records (R281). -/

namespace Sys2Proof.Machine

/-- Bits [lo + w − 1 : lo] of the `n` bytes at byte `o` of a record. -/
def recBits (b : List Byte) (o n lo w : Nat) : Nat := bitsOf (leNat ((b.drop o).take n)) lo w

/-- Entry `x` of the operator table (R235), with its drift period. -/
def decodeOp (x period : Nat) (b : List Byte) : OpEntry :=
  { opId := x, mode := recBits b 0 1 0 2, oFmt := recBits b 1 1 0 4, baseS := recBits b 2 2 0 16,
    baseE := sgn 8 (recBits b 4 1 0 8), d0 := sgn 8 (recBits b 5 1 0 8), dmin := sgn 8 (recBits b 6 1 0 8),
    dmax := sgn 8 (recBits b 7 1 0 8), inputOp := recBits b 8 2 0 12, measOp := recBits b 10 2 0 12,
    satLim := recBits b 12 2 0 16, mseLim := recBits b 14 2 0 16, period := period,
    reserved := recBits b 0 1 2 6 ≠ 0 || recBits b 1 1 4 4 ≠ 0 || recBits b 8 2 12 4 ≠ 0 || recBits b 10 2 12 4 ≠ 0 }

/-- A shape record (R248). -/
def decodeShape (b : List Byte) : ShapeRec :=
  { family := recBits b 0 1 0 4, padMode := recBits b 0 1 4 2, frc := recBits b 0 1 6 2, padConst := recBits b 2 2 0 16,
    kh := recBits b 4 1 0 8, kw := recBits b 5 1 0 8, sy := recBits b 6 1 0 4 + 1, sx := recBits b 6 1 4 4 + 1,
    dy := recBits b 7 1 0 4 + 1, dx := recBits b 7 1 4 4 + 1, padT := recBits b 8 1 0 8, padB := recBits b 9 1 0 8,
    padL := recBits b 10 1 0 8, padR := recBits b 11 1 0 8, groups := recBits b 12 2 0 16, opId := recBits b 14 2 0 16,
    cIn := recBits b 16 2 0 16, cOut := recBits b 18 2 0 16, inW := recBits b 20 2 0 16, inH := recBits b 22 2 0 16,
    uy := recBits b 24 1 0 4, ux := recBits b 24 1 4 4,
    reserved := recBits b 1 1 0 8 ≠ 0 || (b.drop 25).any fun v => v ≠ 0 }

/-- A queue record (R281). -/
def decodeQueue (b : List Byte) : QueueDecl :=
  { queue := recBits b 0 2 0 12, kind := recBits b 0 2 12 2, depth := recBits b 2 2 0 16, slotRows := recBits b 4 2 0 14,
    inDram := recBits b 4 2 14 1 = 1, slotchk := recBits b 4 2 15 1 = 1, tile := recBits b 6 1 0 8, handle := recBits b 7 1 0 7,
    dramAddr := recBits b 8 6 0 48, prod := recBits b 14 1 0 4, cons := recBits b 14 1 4 4, refs := recBits b 15 1 0 2,
    sync := recBits b 16 2 0 14,
    reserved := recBits b 0 2 14 2 ≠ 0 || recBits b 7 1 7 1 ≠ 0 || recBits b 15 1 2 6 ≠ 0 || recBits b 16 2 14 2 ≠ 0 ||
      (b.drop 18).any fun v => v ≠ 0 }

/-- The operator table of a plan. -/
def opTable (im : PlanImage) : List OpEntry := ((upto im.ops.length).zip im.ops).map fun e => decodeOp (e.1 + 1) e.2.2 e.2.1

/-- The entry of an operator; 0 names none. -/
def opAt (im : PlanImage) (x : Nat) : Option OpEntry :=
  if x = 0 then none else (im.ops[x - 1]?).map fun e => decodeOp x e.2 e.1

/-- Shape record `i` of a plan. -/
def shapeAt (im : PlanImage) (i : Nat) : Option ShapeRec := (im.shapes[i]?).map decodeShape

/-- The queue records of a plan. -/
def queueDecls (im : PlanImage) : List QueueDecl := im.queues.map decodeQueue

/-! ### A template's operators -/

/-- The shape records of a template, in the order in which its operators are applied. -/
def shapesOf (im : PlanImage) (t : Template) : List ShapeRec := t.shapes.filterMap (shapeAt im)

/-- The operators of a mode that a template uses. -/
def opsOf (im : PlanImage) (t : Template) (mode : Nat) : List Nat :=
  ((shapesOf im t).filterMap fun r => (opAt im r.opId).bind fun o => if o.mode = mode then some o.opId else none).eraseDups

/-- The DRIFT and the MEASURE operators that a template uses (R237). -/
def driftOps (im : PlanImage) (t : Template) : List Nat := opsOf im t 3
def measureOps (im : PlanImage) (t : Template) : List Nat := opsOf im t 1

/-- The record's operator is a first pass: the layer after it reads the same input again (R238). -/
def isMeasure (im : PlanImage) (r : ShapeRec) : Bool := (opAt im r.opId).elim false fun o => o.mode = 1

/-- Stripe rows and segments of an instance of a template, and its lines on a stream of stripes of `h` lines. -/
def heightOf (t : Template) : Nat := if t.kind = 2 then t.bandRows else 1
def widthOf (t : Template) : Nat := if t.kind = 2 then t.bandSegs else 1
def linesOf (t : Template) (h : Nat) : Nat := heightOf t * h

/-! ### Sizes of maps (R250 to R252, R257, R262) -/

/-- Output size on one axis (R250). -/
def outSize (inN lo hi d k s : Nat) : Int := (((inN + lo + hi : Nat) : Int) - (d * (k - 1) : Nat) - 1) / (s : Int) + 1

/-- Output size of a transposed convolution on one axis (R250). -/
def outSizeT (inN lo hi d k u : Nat) : Int := (((inN - 1) * u : Nat) : Int) - (lo : Int) - (hi : Int) + (d * (k - 1) : Nat) + 1

/-- The output size of a record on the column axis, and on the line axis of a bounded input. -/
def sizeX (r : ShapeRec) (n : Nat) : Int :=
  if r.family = 2 then outSizeT n r.padL r.padR r.dx r.kw r.ux else outSize n r.padL r.padR r.dx r.kw r.sx
def sizeY (r : ShapeRec) (n : Nat) : Int :=
  if r.family = 2 then outSizeT n r.padT r.padB r.dy r.kh r.uy else outSize n r.padT r.padB r.dy r.kh r.sy

/-- The size of a map: its columns, the columns of each lane (R252), its lines where they are bounded, and the product of the line
strides from the stream up to it (R251). -/
structure MapSize where
  w : Nat
  core : Nat
  h : Option Nat
  sy : Nat
  deriving DecidableEq, Repr

/-- The input of a record: a width or height of its own takes the place of what comes before. -/
def inputOf (m : MapSize) (r : ShapeRec) : MapSize :=
  { m with w := if r.inW = 0 then m.w else r.inW, core := if r.inW = 0 then m.core else r.inW / 32,
           h := if r.inH = 0 then m.h else some r.inH }

/-- The output of a record for its input. -/
def outputOf (m : MapSize) (r : ShapeRec) : MapSize :=
  { w := (sizeX r m.w).toNat, core := if r.family = 2 then m.core * r.ux else m.core / r.sx, h := m.h.map fun n => (sizeY r n).toNat,
    sy := m.sy * r.sy }

/-- The map after a record; a MEASURE operator leaves its input to the layer that follows. -/
def sizeAfter (im : PlanImage) (m : MapSize) (r : ShapeRec) : MapSize := if isMeasure im r then m else outputOf (inputOf m r) r

/-- Pixels of a line and lines of the stream for one element of the first operator's input. -/
def planeOf (t : Template) : Nat := match t.engine with | .first f => if f.bayerSplit then 2 else 1 | _ => 1

/-- The map that a template's first operator reads: the stream's pixels, or the output of its first producer; `n` bounds the chain. -/
def sizeBefore (im : PlanImage) (w seg : Nat) (t : Template) : Nat → MapSize
  | 0 => { w := w, core := seg / 32, h := none, sy := 1 }
  | n + 1 =>
    match (t.deps.head?).bind fun d => im.templates.find? fun u => u.index = d.template with
    | none => { w := w / planeOf t, core := seg / planeOf t / 32, h := none, sy := planeOf t }
    | some u => (shapesOf im u).foldl (sizeAfter im) (sizeBefore im w seg u n)

/-- The map a template reads on a stream of width `w` with segments of `seg` columns. -/
def mapIn (im : PlanImage) (w seg : Nat) (t : Template) : MapSize := sizeBefore im w seg t im.templates.length

end Sys2Proof.Machine
end

