-- ==== Sys2Proof/Machine/JobIds.lean ====
section
/-! DEFINITION. Job ids, the instances that templates create and their dependencies, drift indices (R25, R34, R36, R39, R239, R241,
R242). -/

namespace Sys2Proof.Machine

/-! ### Segments (R25) -/

def nSegs (k : Stream) : Nat := (k.w + k.seg - 1) / k.seg
def segCols (k : Stream) (i : Nat) : Nat := min k.seg (k.w - i * k.seg)

/-! ### Job ids (R36) -/

def stripeId (x g tm r : Nat) : JobId := BitVec.ofNat 64 (2 ^ 60 + x * 2 ^ 54 + g * 2 ^ 49 + tm * 2 ^ 40 + r)
def bandId (x g tm i : Nat) : JobId := BitVec.ofNat 64 (2 * 2 ^ 60 + x * 2 ^ 54 + g * 2 ^ 49 + tm * 2 ^ 40 + i)
def expertId (e tm i : Nat) : JobId := BitVec.ofNat 64 (3 * 2 ^ 60 + e * 2 ^ 52 + tm * 2 ^ 40 + i)
def hostId (r q : Nat) : JobId := BitVec.ofNat 64 (4 * 2 ^ 60 + r * 2 ^ 39 + q)

def idStream (i : JobId) : Nat := bitsOf i.toNat 54 6
def idSeg (i : JobId) : Nat := bitsOf i.toNat 49 5
def idTmpl (i : JobId) : Nat := bitsOf i.toNat 40 9
def idLow (i : JobId) : Nat := bitsOf i.toNat 0 40
def idExpert (i : JobId) : Nat := bitsOf i.toNat 52 8

/-- The job works for a stream: a stripe-job or a band-job. -/
def streamJob (j : Job) : Bool := j.kind = .stripe || j.kind = .band

/-! ### Templates -/

def templates (s : State) (p : Nat) : List Template := (plan s p).image.templates
def tmplAt (s : State) (p i : Nat) : Option Template := (templates s p).find? fun t => t.index = i
def tmplOf (s : State) (j : Job) : Option Template := tmplAt s j.plan j.tmpl

/-- Operator table entry of a plan. -/
def opOf (s : State) (p x : Nat) : Option OpEntry := opAt (plan s p).image x

/-- Rows and segments of an instance of a template: one stripe, or the rows and segments of a band (R34). -/
def rowsOf (t : Template) (n : Nat) : List Nat :=
  if t.kind = 2 then (upto t.bandRows).map fun i => n * t.bandRows + i else [n]
def segsOf (k : Stream) (t : Template) (g : Nat) : List Nat :=
  if t.kind = 2 then ((upto t.bandSegs).map fun i => g + i).filter fun i => i < nSegs k else [g]

/-- Last line of a job's inputs on its stream (R29). -/
def lastLineOf (k : Stream) (t : Template) (n : Nat) : Nat :=
  (if t.kind = 2 then (n + 1) * t.bandRows else n + 1) * k.h - 1

/-- The instance of template `t` that covers stripe (r, g). -/
def instAt (x : Nat) (t : Template) (r g : Nat) : JobId :=
  if t.kind = 2 then bandId x (g / t.bandSegs * t.bandSegs) t.index (r / t.bandRows) else stripeId x g t.index r

/-- Whether that instance has been created: its first stripe has been announced (R34). -/
def instCreated (s : State) (x : Nat) (t : Template) (r g : Nat) : Bool :=
  let k := stream s x
  let r0 := if t.kind = 2 then r / t.bandRows * t.bandRows else r
  let g0 := if t.kind = 2 then g / t.bandSegs * t.bandSegs else g
  r0 * nSegs k + g0 < k.announcedTo

/-- A stripe position at an offset; none before the first row or beyond the line (R39). -/
def offsetAt (k : Stream) (r g : Nat) (dr ds : Int) : Option (Nat × Nat) :=
  if (r : Int) + dr < 0 ∨ (g : Int) + ds < 0 ∨ (nSegs k : Int) ≤ (g : Int) + ds then none
  else some (((r : Int) + dr).toNat, ((g : Int) + ds).toNat)

/-- Stripes an instance covers. -/
def stripesOf (s : State) (x : Nat) (t : Template) (n g : Nat) : List (Nat × Nat) :=
  (rowsOf t n).flatMap fun r => (segsOf (stream s x) t g).map fun c => (r, c)

/-- The instances a dependency of a job names: job id, and whether the instance has been created. -/
def depInsts (s : State) (x p : Nat) (t : Template) (n g : Nat) (d : Dep) : List (JobId × Bool) :=
  match tmplAt s p d.template with
  | none => []
  | some u => ((stripesOf s x t n g).filterMap fun q =>
      (offsetAt (stream s x) q.1 q.2 d.dr d.ds).map fun o => (instAt x u o.1 o.2, instCreated s x u o.1 o.2)).eraseDups

/-- The tag of halo entry `n` that a job writes to a queue (R49). Its layer is the queue's place among those its template fills. -/
def haloTagOf (s : State) (id : JobId) (qn n : Nat) : HaloTag :=
  match (jobOf s id).bind (tmplOf s) with
  | none => HaloTag.zero
  | some t =>
    { stream := idStream id, tmpl := t.index, layer := ((t.queues.filter (·.2.1)).findIdx? fun q => q.1 = qn).getD 0,
      row := (rowsOf t (idLow id)).headD 0, seg := idSeg id, seq := n % 65536 }

/-! ### Drift indices (R239, R241, R242, R247) -/

/-- Drift index of an instance for an operator. -/
def driftIndex (t : Template) (o : OpEntry) (n : Nat) : Nat :=
  (if t.kind = 2 then n * t.bandRows else n) / o.period

def driftOf (s : State) (x op : Nat) : Option Drift := s.drifts.find? fun d => d.stream = x && d.op = op

/-- δ of an index, once computed; the first L indices start with `D0`. -/
def deltaOf (s : State) (x : Nat) (o : OpEntry) (j : Nat) : Option Int :=
  if j < getF s Reg.IG_STREAM_DRIFT_LAG 0 x then some o.d0
  else (driftOf s x o.opId).bind fun d => (d.deltas.find? fun e => e.1 = j).map (·.2)

/-- Every instance of an index that uses an operator: created, and satisfying `f` or gone. -/
def indexAll (s : State) (x p : Nat) (o : OpEntry) (i : Nat) (f : Job → Bool) : Bool :=
  (templates s p).all fun t =>
    !(driftOps (plan s p).image t).contains o.opId || ((upto o.period).all fun a =>
      let r := i * o.period + a
      (t.kind = 2 && r % t.bandRows ≠ 0) || ((upto (nSegs (stream s x))).all fun g =>
        instCreated s x t r g && (jobOf s (instAt x t r g)).elim true f))

/-- The statistics of an index are complete: every attempt that counts in them has retired (R240). -/
def statsComplete (s : State) (x p : Nat) (o : OpEntry) (i : Nat) : Bool := indexAll s x p o i fun k => k.state = .retired || k.regen

/-- The next index whose δ is to be computed. -/
def nextIndex (s : State) (x : Nat) (d : Drift) : Nat :=
  (d.deltas.head?).elim (getF s Reg.IG_STREAM_DRIFT_LAG 0 x) fun e => e.1 + 1

/-- Indices of a trail whose statistics are complete and whose δ, `LAG` indices on, is not yet computed. -/
def pendingIndices (s : State) (d : Drift) : Nat :=
  let p := (stream s d.stream).plan
  (opOf s p d.op).elim 0 fun o =>
    ((upto 64).filter fun i =>
      statsComplete s d.stream p o (nextIndex s d.stream d - getF s Reg.IG_STREAM_DRIFT_LAG 0 d.stream + i)).length

end Sys2Proof.Machine
end

