-- ==== Sys2Proof/Machine/Views.lean ====
section
/-! DEFINITION. What the read-only status fields show: the typed state, seen as register fields. -/

namespace Sys2Proof.Machine

/-! ### The logical grid (R123 to R127) -/

/-- Passing physical rows of a column, in increasing order. -/
def passRows (s : State) (x : Nat) : List Nat := (upto 17).filter fun r => !s.grid.failed.contains (16 * r + x)

/-- Physical index of a logical tile (R124); none before a grid has been formed. -/
def physOf (s : State) (t : Nat) : Option Nat :=
  if s.grid.rows ≠ 0 && t < 256 then ((passRows s (t % 16))[t / 16]?).map fun r => 16 * r + t % 16 else none

/-- Logical number of a physical position, counted to 16 rows in each column. -/
def logicalOf (s : State) (p : Nat) : Option Nat :=
  if s.grid.rows = 0 || s.grid.failed.contains p then none
  else
    let y := ((passRows s (p % 16)).takeWhile fun r => r < p / 16).length
    if y < 16 then some (16 * y + p % 16) else none

/-- `TA_TILE_MAP.STATE` of a physical position: 0 enabled, 1 unlicensed, 2 quarantined, 3 failed, 4 spare (R155). -/
def tileState (s : State) (p : Nat) : Nat :=
  if s.grid.failed.contains p then 3
  else match logicalOf s p with
    | none => 4
    | some t => if s.grid.enabled ≤ t then 1 else if s.fm.quarantined.contains t then 2 else 0

/-! ### Counts -/

/-- Contexts of a tile in a state, as a bit mask. -/
def ctxMask (s : State) (t : Nat) (f : Ctx → Bool) : Nat :=
  ((upto 8).map fun c => if f (ctxOf s t c) then 2 ^ c else 0).sum

/-- A context holds a job. -/
def held (c : Ctx) : Bool := c.state ≠ .free

/-- Retention units of a stripe: both copies (R106). -/
def stripeUnits (x : Stripe) : Nat := x.units.elim 0 fun u => 2 * u.2

/-- Ingest SRAM blocks a stream uses: lines under assembly and completed stripes not yet written (R101). -/
def sramOf (s : State) (x : Nat) : Nat :=
  ((stream s x).lines.map fun l => l.2.blocks).sum +
    ((s.stripes.filter fun k => k.stream = x && k.units.isNone).map fun k => k.blocks).sum

def sramUsed (s : State) : Nat := ((upto 64).map fun x => sramOf s x).sum
def retUsed (s : State) : Nat := (s.stripes.map stripeUnits).sum

/-- The block reserve a stream holds (R101): from its binding until it has drained after its unbinding (R31). -/
def heldReserve (k : Stream) : Nat := if k.bound || k.closing then k.reserve else 0

/-- Sum of the block reserves held (R101). -/
def reserves (s : State) : Nat := (s.streams.map fun e => heldReserve e.2).sum

/-- Slots PUSHED or FULL. -/
def fullSlots (q : Queue) : Nat := (q.slots.filter fun k => k.2.state = .pushed || k.2.state = .full).length

/-! ### What a stream context waits for (R294, R295, R303, R304) -/

def slot (q : Queue) (k : Nat) : Slot := mget Slot.zero q.slots (k % q.decl.depth)

/-- Bytes of a slot (R281). -/
def slotBytes (q : Queue) : Nat := 128 * q.decl.slotRows

/-- Bytes of the whole walk (R294). -/
def walkBytes (d : SDesc) : Nat := d.len0 * d.cnt1 * d.cnt2 * d.cnt3

/-- A fixed source of at most 4,096 bytes is read once and replayed (R295). -/
def replayed (d : SDesc) : Bool := d.srcMode = 1 && d.len0 ≤ 4096

/-- Bytes to request from the source. -/
def srcBytes (d : SDesc) : Nat := if replayed d then d.len0 else walkBytes d

def sideQueue (d : SDesc) (dst : Bool) : Option Nat :=
  if dst then (if d.dstMode = 2 then some (d.dst % 4096) else none) else (if d.srcMode = 2 then some (d.src % 4096) else none)

/-- Slots of a queue PUSHED or FULL, and the pacing of R304. -/
def paceHeld (s : State) (k : SCtx) (d : SDesc) : Bool :=
  match sideQueue d true with
  | none => false
  | some q => d.hiWm ≠ 0 && (k.paced || d.hiWm ≤ fullSlots (queue s q))

/-- The job that holds a context, 0 for none. -/
def holderJob (k : SCtx) : JobId := match k.holder with | .job id => id | _ => 0

/-- Where the consumers of a HALO queue count their entries: by template, and in one place for contexts that no job holds. -/
def haloKey (s : State) (k : SCtx) : Nat := (jobOf s (holderJob k)).elim 512 (·.tmpl)

/-- The next slot of the source is FULL; entries of a HALO queue are there when they have been published (R284). -/
def srcSlotThere (s : State) (k : SCtx) (q : Nat) : Bool :=
  let u := queue s q
  if u.decl.kind = 2 then mget 0 u.hpos (haloKey s k) < (obj s u.decl.sync).count.toNat else (slot u u.head).state = .full

/-- The next slot of the destination is EMPTY, or its HALO entry stands already. -/
def dstSlotThere (s : State) (q : Nat) : Bool :=
  let u := queue s q
  (slot u u.tail).state = .empty || (u.decl.kind = 2 && (slot u u.tail).entry = u.tail)

/-- A run of the context ahead of `r` still replays into queue `q`, whose slots it takes first. -/
def replaysAhead (s : State) (k : SCtx) (r : SRun) (q : Nat) : Bool :=
  (k.run.takeWhile fun x => x.f.addr ≠ r.f.addr).any fun x =>
    replayed x.f.d && sideQueue x.f.d true = some q && x.dstSlots * slotBytes (queue s q) < walkBytes x.f.d

/-- The slot that position `n` of a run needs at its destination is at hand, or there is one to take (R295, R304). -/
def dstReady (s : State) (k : SCtx) (r : SRun) (n : Nat) : Bool :=
  match sideQueue r.f.d true with
  | none => true
  | some q => n < r.dstSlots * slotBytes (queue s q) || (dstSlotThere s q && !replaysAhead s k r q && !paceHeld s k r.f.d)

/-- The source slot the next request needs is at hand or there; the destination slot is at hand or may be taken. A source that is replayed
takes its destination's slots as it lands. -/
def slotsReady (s : State) (k : SCtx) (r : SRun) : Bool :=
  (match sideQueue r.f.d false with
   | none => true
   | some q => r.issued < r.srcSlots * slotBytes (queue s q) || srcSlotThere s k q) &&
  (replayed r.f.d || dstReady s k r r.issued)

/-- A source that is replayed is there whole, and runs of it are still to land. -/
def replaying (r : SRun) : Bool := replayed r.f.d && r.held.length = r.f.d.len0 && r.landed < walkBytes r.f.d && r.stopped.isNone

/-- The run of a context that issues next: the first that has reads left, unless one has stopped. -/
def issuing (k : SCtx) : Option SRun :=
  if k.run.any fun r => r.stopped.isSome then none else k.run.find? fun r => r.issued < srcBytes r.f.d

/-- `SE_CTX_STAT.STATE` shows a running context that waits for a slot or for its pacing as waiting (R315). -/
def sStateOf (s : State) (k : SCtx) : SState :=
  if k.state = .running && (((issuing k).any fun r => !slotsReady s k r) || k.run.any fun r => replaying r && !dstReady s k r r.landed)
  then .waiting else k.state

/-- Reads of a context that have not come back. -/
def readsOut (k : SCtx) : Nat := (k.reads.filter fun r => r.back.isNone).length

/-! ### Waiters (R280) -/

/-- The object of the HALO queue at whose consumer's end a boundary engine's job waits. -/
def engineWaitObj (s : State) (j : Job) : Option Nat :=
  j.waitEnd.bind fun e => if !e.2 && (queue s e.1).decl.kind = 2 then some (queue s e.1).decl.sync else none

/-- The object a stream context waits on: that of its next descriptor, or of the HALO queue whose next entry its source needs. -/
def sctxWaitObj (s : State) (k : SCtx) : Option Nat :=
  if k.state = .waiting then
    k.batch.head?.bind fun f =>
      if f.d.waitEn && (obj s f.d.waitSo).count.toNat < f.d.waitVal then some f.d.waitSo else none
  else if k.state = .running then
    (issuing k).bind fun r => (sideQueue r.f.d false).bind fun q =>
      if (queue s q).decl.kind = 2 && r.srcSlots * slotBytes (queue s q) ≤ r.issued && !srcSlotThere s k q
      then some (queue s q).decl.sync else none
  else none

/-- Objects that an agent waits on: boundary-engine job slots, task contexts, stream contexts, SYNC_WAIT commands (R280). -/
def waitedObjs (s : State) : List Nat :=
  (s.jobs.filterMap (engineWaitObj s)) ++
  (s.tiles.flatMap fun e => e.2.ctxs.filterMap fun k =>
    match k.2.waitFor with | .sync o _ => some o | .halo o _ => some o | _ => none) ++
  (s.sctx.filterMap fun e => sctxWaitObj s e.2) ++
  (s.descs.filterMap fun d =>
    if d.started && wordBits d.words 0 0 8 = 9 then some (wordBits d.words 2 0 14) else none)

/-- A word of a handle entry (R273). -/
def handleWord (h : Handle) (hi : Bool) : Nat :=
  if hi then
    h.tag + atBit 16 (h.queue.getD 0) + atBit 28 (b2n h.queue.isSome) + atBit 32 h.slotRows + atBit 48 h.plan
  else
    b2n h.valid + atBit 1 (b2n h.present) + atBit 2 (b2n h.write) + atBit 3 (b2n h.slotchk) + atBit 4 h.bank +
      atBit 8 h.base + atBit 21 h.len + atBit 35 h.maxlen + atBit 49 (b2n h.filling) + atBit 50 h.landed

def taskStateCode : TaskState → Nat
  | .free => 0 | .dispatched => 1 | .running => 2 | .ready => 3 | .waiting => 4 | .faulted => 4 | .halted => 2

def jobStateCode : JobState → Nat
  | .waiting => 0 | .eligible => 1 | .dispatched => 2 | .running => 3 | .suspended => 4 | .aborted => 5 | .retired => 6
  | .cancelled => 7

def sStateCode : SState → Nat
  | .free => 0 | .heldIdle => 1 | .running => 2 | .waiting => 3 | .draining => 4 | .halted => 5

def motionCode : Motion → Nat
  | .moving => 0 | .stopped => 1 | .reversed => 2 | .ended => 3

def coreRunCode : CoreRun → Nat
  | .reset => 0 | .running => 1 | .sleeping => 2 | .halted => 3 | .faulted => 4

def srcCode : SrcState → Nat
  | .idle => 0 | .pending => 1 | .active => 2 | .activePending => 3

/-- Deepest of the thermal demand, the power demand and the demand of R520 (R16, R516). -/
def thermStep (s : State) : Nat := max s.hv.demand (max s.clk.pwrStep (if s.hv.hotStack || s.hv.hotLogic then 2 else 0))

/-- Credit of a channel, R395. -/
def credits (s : State) (k : Nat) : Nat :=
  getF s Reg.PM_SEND_CTL_SIZE 0 k - 1 - ((chanOf s k).sent - (chanOf s k).freed)

def ctxBusy (s : State) : Nat := (s.tiles.map fun e => (e.2.ctxs.filter fun k => held k.2).length).sum

/-- `FM_STAT.STATE`. -/
def fmState (s : State) : Nat :=
  match s.fm.phase with
  | .frost => 2
  | .devPending => 3
  | .normal => if s.fm.recoveries.isEmpty then 0 else 1

/-- Identity of a field within the register map. -/
def fid (f : Fld) : Nat := f.off * 64 + f.lo

/-- The views of the host-side blocks. -/
def viewA (s : State) (f : Fld) (ch i : Nat) : Option Nat :=
  let is := fun (g : Fld) => fid f == fid g
  if is Reg.CK_ACLK_CTL_STEP then some s.clk.step
  else if is Reg.CK_ACLK_CTL_THERM_STEP then some (thermStep s)
  else if is Reg.CK_PLL_STAT_LOCKED then some (b2n s.clk.pllLocked)
  else if is Reg.CK_PLL_STAT_SYS_REF_OK then some (b2n s.pins.refSys)
  else if is Reg.CK_PLL_STAT_PCIE_REF_OK then some (b2n s.pins.refPcie)
  else if is Reg.CK_PLL_STAT_SNS_REF_OK then some (b2n s.pins.refSns)
  else if is Reg.CK_PWR_STAT_DEMAND then some s.clk.pwrStep
  else if is Reg.GC_BOOT_STAGE_STAGE then some s.boot.stage
  else if is Reg.GC_BOOT_STAGE_FAIL then some (b2n s.boot.fail)
  else if is Reg.GC_BOOT_STAGE_LINK_DONE then some (b2n s.boot.linkDone)
  else if is Reg.GC_BOOT_STAGE_FAIL_CODE then some s.boot.failCode
  else if is Reg.GC_BOOT_STAGE_ELAPSED_MS then some (min (2 ^ 32 - 1) ((s.boot.s0Us + nowNs s / 1000) / 1000))
  else if is Reg.SEC_STAT_ID_VALID then some (b2n s.sec.idValid)
  else if is Reg.SEC_STAT_DEBUG then some s.sec.scopes.toNat
  else if is Reg.SEC_STAT_FW_LOCKED then some (b2n s.sec.fwLocked)
  else if is Reg.SEC_STAT_BOOT_SRC then some s.sec.bootSrc
  else if is Reg.SEC_DEVICE_ID_LO then some (s.sec.devId.toNat % 2 ^ 64)
  else if is Reg.SEC_DEVICE_ID_HI then some (s.sec.devId.toNat / 2 ^ 64)
  else if is Reg.SEC_VERSION_FW then some s.sec.fwVersion
  else if is Reg.SEC_VERSION_ROM then some Config.romVersion.toNat
  else if is Reg.SEC_LIC_SERIAL then some (s.sec.licence.elim 0 fun l => l.serial.toNat)
  else if is Reg.SEC_LIC_TILES then some (s.sec.licence.elim 0 fun l => l.tiles)
  else if is Reg.SEC_CMD_STAT_BUSY then some (b2n s.sec.busy.isSome)
  else if is Reg.SEC_DBG_CHAL then some (s.sec.chal.toNat / 2 ^ (64 * i) % 2 ^ 64)
  else if is Reg.SEC_BOOT_WIN then
    some (if s.boot.waitHost then
      leNat (rdBytes 0 s.sec.store (fld s Reg.SEC_BOOT_OFS_HALF * 0x80000 + 8 * i) 8) else 0)
  else if is Reg.FM_STAT_STATE then some (fmState s)
  else if is Reg.FM_STAT_DEV_REQ then some (b2n s.fm.devReq)
  else if is Reg.FM_STAT_QUARANTINED then some s.fm.quarantined.length
  else if is Reg.HV_THERM_STAT_DEMAND then some s.hv.demand
  else if is Reg.EV_CORE_STAT_ACTIVE then some ((coreNo s i).active.getD 0x7FF)
  else if is Reg.EV_CORE_STAT_RESERVED then some ((coreNo s i).reserved.getD 0x7FF)
  else if is Reg.EV_CORE_STAT_HM then some (b2n (coreNo s i).hm)
  else if is Reg.EV_CORE_STAT_EE then some (b2n (coreNo s i).ee)
  else if is Reg.EV_CORE_STAT_SLEEP then some (b2n ((coreNo s i).run = .sleeping))
  else if is Reg.EV_CORE_STAT_TPRI then some (coreNo s i).tpri
  else if is Reg.EV_SRC_STATE then some (srcCode (source s i))
  else if is Reg.EV_SRC_ASYNC then some (b2n (16 ≤ i && i ≤ 31))
  else if is Reg.SC_CORE_STAT_STATE then some (coreRunCode (coreNo s i).run)
  else if is Reg.SC_CORE_STAT_CAUSE then some (coreNo s i).tcause.toNat
  else if is Reg.SC_CORE_STAT_PC then some (coreNo s i).lastPc.toNat
  else if is Reg.SC_CORE_TVAL then some (coreNo s i).tval.toNat
  else if is Reg.SC_CORE_FW then some (coreNo s i).fw.toNat
  else if is Reg.HL_LINK_STAT_SPEED then some s.hl.speed
  else if is Reg.HL_LINK_STAT_WIDTH then some s.hl.width
  else if is Reg.HL_LINK_STAT_FLIT then some (b2n s.hl.flit)
  else if is Reg.HL_LINK_STAT_TAGS then some s.hl.tags
  else if is Reg.HL_MSIX_PENDING then
    some ((upto 64).map fun b => if s.hl.pending.contains (64 * i + b) then 2 ^ b else 0).sum
  else if is Reg.QM_RING_IDX_HEAD then some (ring s ch).head
  else if is Reg.QM_RING_IDX_TAIL then some (ring s ch).tail
  else if is Reg.QM_RING_SEQ then some (ring s ch).seq
  else if is Reg.QM_RING_STAT_ARMED then some (b2n (ring s ch).armed)
  else if is Reg.QM_CACHE_STAT_VALID then some (s.rings.filter fun e => e.2.cached ≠ 0).length
  else if is Reg.QM_CACHE_STAT_PINNED then
    some (s.rings.filter fun e => e.2.cached ≠ 0 && ringPinned s e.1 e.2).length
  else if is Reg.QM_STAGE_STAT_ONCHIP then some (s.stage.filter fun k => !k.spilled).length
  else if is Reg.QM_STAGE_STAT_SPILLED then some (s.stage.filter fun k => k.spilled).length
  else if is Reg.PM_EPOCH then some s.pm.epoch
  else if is Reg.PM_WIN_STAT_STATE then
    some (match (winOf s i).state with | .closed => 0 | .opened => 1 | .fault => 2)
  else if is Reg.PM_WIN_STAT_HELD then some ((winOf s i).held.map fun m => m.blocks).sum
  else if is Reg.PM_WIN_STAT_EPOCH then some (winOf s i).epoch
  else if is Reg.PM_SEND_STAT_CREDITS then some (credits s i)
  else if is Reg.PM_SEND_STAT_MSG_SEQ then some ((chanOf s i).msgSeq % 2 ^ 32)
  else none

/-- A general input is active: enabled, its filtered pin at the level `POL` selects (R92). -/
def giOn (s : State) (g : Nat) : Bool := bit s Reg.LT_GI_CTL_EN 0 g && s.giLevel.getLsbD g != bit s Reg.LT_GI_CTL_POL 0 g

/-- The views of the data-path blocks. For a tile's window `ch` is the physical position. -/
def viewB (s : State) (f : Fld) (ch i : Nat) : Option Nat :=
  let is := fun (g : Fld) => fid f == fid g
  let t := (logicalOf s ch).getD 256
  if is Reg.SC_DISP_STAT_ELIG_DEPTH then some (s.jobs.filter fun j => j.state = .eligible).length
  else if is Reg.SC_DISP_STAT_CTX_BUSY then some (ctxBusy s)
  else if is Reg.SC_DISP_STAT_BE_BUSY then some (s.engines.map fun e => e.2.slots.length).sum
  else if is Reg.SC_DRIFT_STAT_PENDING then
    some (s.drifts.map (pendingIndices s)).sum
  else if is Reg.SC_DRIFT_STAT_TRAILS then some s.drifts.length
  else if is Reg.SP_LINK_STAT_LINK_UP then some (b2n (port s ch).linkUp)
  else if is Reg.SP_LINK_STAT_FEC_DEGRADED then
    some (b2n ((port s ch).linkUp && getF s Reg.SP_PORT_CTL_FEC ch 0 = 2 && Config.fecDegraded ch (nowNs s / 1000000)))
  else if is Reg.LT_GI_LEVEL then some ((upto 16).map fun g => b2n (giOn s g) * 2 ^ g).sum
  else if is Reg.LT_ENC_POS then some (unsgn 64 (enc s i).pos)
  else if is Reg.LT_ENC_SPEED then some (unsgn 32 (enc s i).speed)
  else if is Reg.LT_ENC_STAT_STATE then some (motionCode (enc s i).motion)
  else if is Reg.LT_ENC_STAT_SPD_RANGE then some (b2n (enc s i).range)
  else if is Reg.LT_ENC_HWM then some (unsgn 64 (enc s i).hwm)
  else if is Reg.LT_TB_TIME then some (nowNs s)
  else if is Reg.IG_STAT_SRAM_BLOCKS then some (sramUsed s)
  else if is Reg.IG_STAT_RET_UNITS then some (retUsed s)
  else if is Reg.IG_STREAM_STAT_SRAM_BLOCKS then some (sramOf s i)
  else if is Reg.IG_STREAM_STAT_RET_UNITS then
    some ((s.stripes.filter fun k => k.stream = i).map stripeUnits).sum
  else if is Reg.BE_TBL_STAT_READY then some (b2n (engine s ch).ready)
  else if is Reg.BE_TBL_STAT_LOADING then some (b2n (engine s ch).loading.isSome)
  else if is Reg.BE_TBL_STAT_OLD_BUSY then some (b2n (engine s ch).oldBusy)
  else if is Reg.BE_TBL_STAT_VERSION then some (engine s ch).active.version
  else if is Reg.TA_GRID_ROWS then some s.grid.rows
  else if is Reg.TA_GRID_ENABLED then some s.grid.enabled
  else if is Reg.TA_COL_MAP_DISABLED then
    some (if s.grid.rows = 0 then 0 else
      ((upto 17).map fun r => if tileState s (16 * r + i) = 3 || tileState s (16 * r + i) = 4 then 2 ^ r else 0).sum)
  else if is Reg.TA_TILE_MAP_COL then some (ch % 16)
  else if is Reg.TA_TILE_MAP_ROW then some (ch / 16)
  else if is Reg.TA_TILE_MAP_LOGICAL then some ((logicalOf s ch).getD 0x1FF)
  else if is Reg.TA_TILE_MAP_STATE then some (if s.grid.rows = 0 then 0 else tileState s ch)
  else if is Reg.TA_TASK_SUMMARY_HELD then some (ctxMask s t held)
  else if is Reg.TA_TASK_SUMMARY_READY then some ((upto 8).map fun c =>
      if (ctxOf s t c).state = .ready || ((ctxOf s t c).state = .dispatched && (tile s t).running ≠ some c) then 2 ^ c else 0).sum
  else if is Reg.TA_TASK_SUMMARY_WAITING then some (ctxMask s t fun c => c.state = .waiting || c.state = .faulted)
  else if is Reg.TA_TASK_SUMMARY_RUNNING then some ((tile s t).running.getD 0)
  else if is Reg.TA_TASK_SUMMARY_RUN_VALID then some (b2n (tile s t).running.isSome)
  else if is Reg.TA_TASK_JOB then some ((ctxOf s t i).job.elim 0 fun j => j.toNat)
  else if is Reg.TA_TASK_STAT_STATE then some (taskStateCode (ctxOf s t i).state)
  else if is Reg.TA_TASK_STAT_WAIT then some (ctxOf s t i).wait
  else if is Reg.TA_TASK_STAT_ATTEMPT then some ((ctxOf s t i).attempt % 256)
  else if is Reg.TA_TASK_STAT_SOLSTICE then some (b2n ((ctxOf s t i).regs.tstat.getLsbD 0))
  else if is Reg.TA_TASK_STAT_LONG then some (b2n ((ctxOf s t i).regs.vfmt.getLsbD 2))
  else if is Reg.TA_TASK_STAT_PC then some (ctxOf s t i).lastPc.toNat
  else if is Reg.TA_HANDLE then some (handleWord (handleOf s t (i / 2)) (i % 2 = 1))
  else if is Reg.TA_MX_STAT_QDEPTH then some (tile s t).mxq.length
  else if is Reg.TA_MX_STAT_BANKS_BUSY then
    some ((upto 2).map fun b => if ((tile s t).mxq.flatMap (·.banks)).contains b then 2 ^ b else 0).sum
  else if is Reg.TA_MX_STAT_CB_VALID then
    some ((upto 8).map fun c => if (mget CodeBook.none (tile s t).cbs c).valid then 2 ^ c else 0).sum
  else if is Reg.SY_STAT_OBJECTS then some (s.objs.filter fun e => e.2.alloc).length
  else if is Reg.SY_STAT_QUEUES then some (s.queues.filter fun e => e.2.alloc).length
  else if is Reg.SY_STAT_SLOTS then some (s.queues.map fun e => if e.2.alloc then e.2.decl.depth else 0).sum
  else if is Reg.SY_WAITERS_USED then some (waitedObjs s).length
  else if is Reg.SY_OBJ_COUNT then some (obj s i).count.toNat
  else if is Reg.SY_OBJ_CFG_KIND then some (obj s i).kind
  else if is Reg.SY_OBJ_CFG_ALLOC then some (b2n (obj s i).alloc)
  else if is Reg.SY_OBJ_CFG_WAITERS then some (min 255 ((waitedObjs s).filter fun o => o = i).length)
  else if is Reg.SY_Q_STAT_HEAD then some ((queue s i).head % max 1 (queue s i).decl.depth)
  else if is Reg.SY_Q_STAT_TAIL then some ((queue s i).tail % max 1 (queue s i).decl.depth)
  else if is Reg.SY_Q_STAT_FULL then some (fullSlots (queue s i))
  else if is Reg.SY_Q_STAT_KIND then some (queue s i).decl.kind
  else if is Reg.SY_Q_STAT_PROD_ATT then some (b2n ((queue s i).prod ≠ .none))
  else if is Reg.SY_Q_STAT_CONS_ATT then some (b2n ((queue s i).cons ≠ .none))
  else if is Reg.SE_ENG_STAT_CTX_BUSY then
    some ((upto 64).filter fun c => [SState.running, .halted].contains (sStateOf s (sctx s ch c))).length
  else if is Reg.SE_ENG_STAT_OUTSTANDING then some ((upto 64).map fun c => readsOut (sctx s ch c)).sum
  else if is Reg.SE_CTX_STAT_STATE then some (sStateCode (sStateOf s (sctx s ch i)))
  else if is Reg.SE_CTX_STAT_SHADOW then some (b2n (sctx s ch i).shadow.isSome)
  else if is Reg.SE_CTX_STAT_HOLDER then
    some (match (sctx s ch i).holder with | .none => 0 | .job _ => 1 | .plan _ => 2 | .host => 3)
  else if is Reg.SE_CTX_STAT_ATTEMPT then some ((sctx s ch i).attempt % 256)
  else if is Reg.SE_CTX_STAT_OUT then some (readsOut (sctx s ch i))
  else if is Reg.SE_CTX_STAT_LAST then some (sctx s ch i).last
  else if is Reg.SE_CTX_JOB then some (match (sctx s ch i).holder with | .job j => j.toNat | _ => 0)
  else if is Reg.SE_CTX_DESC then some ((sctx s ch i).run.head?.elim 0 fun r => r.f.addr)
  else if is Reg.SE_CTX_POS then some (sctx s ch i).pos
  else if is Reg.SE_CTX_POS_OFS then some (sctx s ch i).posOfs
  else if is Reg.MEM_MAP_STAT_COMMITTED then some (b2n s.dram.committed)
  else if is Reg.MEM_WITHHELD_CNT then some s.dram.withheld.length
  else if is Reg.MEM_STACK_STAT_TEMP then
    some (unsgn 8 (((s.hv.stackReads.drop (8 * i)).take 8).foldl max (if s.hv.stackReads.isEmpty then 0 else -128)))
  else if is Reg.MEM_STACK_STAT_REF_DOUBLE then
    some (b2n (s.dram.doubled.contains i || bit s Reg.MEM_REF_CTL_FORCE_DOUBLE 0 0))
  else if is Reg.MEM_WITHHELD_ADDR then some ((s.dram.withheld[i]?).elim 0 fun w => w.1)
  else if is Reg.MEM_WITHHELD_RET then some ((s.dram.withheld[i]?).elim 0 fun w => b2n w.2)
  else if is Reg.MEM_CH_INFO_STACK then some (ch / 64)
  else if is Reg.MEM_CH_INFO_DIE then some (ch / 8 % 8)
  else if is Reg.MEM_CH_INFO_REPAIRS then some (channel s ch).repairs.length
  else if is Reg.MEM_REPAIR_BANK then some (((channel s ch).repairs[i]?).elim 0 fun r => r.bank)
  else if is Reg.MEM_REPAIR_ROW then some (((channel s ch).repairs[i]?).elim 0 fun r => r.row)
  else if is Reg.MEM_REPAIR_SPARE then some (((channel s ch).repairs[i]?).elim 0 fun r => r.spare)
  else if is Reg.MEM_REPAIR_VALID then some (b2n (i < (channel s ch).repairs.length))
  else if is Reg.MEM_REPAIR_SOURCE then some (((channel s ch).repairs[i]?).elim 0 fun r => b2n r.march)
  else if is Reg.MEM_SUSPECT_BANK then some (((channel s ch).suspects[i]?).elim 0 fun r => r.bank)
  else if is Reg.MEM_SUSPECT_ROW then some (((channel s ch).suspects[i]?).elim 0 fun r => r.row)
  else if is Reg.MEM_SUSPECT_FAILS then some (((channel s ch).suspects[i]?).elim 0 fun r => r.fails)
  else if is Reg.MEM_SUSPECT_VALID then some (b2n (i < (channel s ch).suspects.length))
  else none

/-- The value a field reads as: a view of the state, or the field as stored; a write-only field reads 0 (R5). -/
def readF (s : State) (f : Fld) (ch i : Nat) : Nat :=
  if f.acc = .wo then 0
  else (viewA s f ch i).getD ((viewB s f ch i).getD (getF s f ch i)) % 2 ^ f.w

end Sys2Proof.Machine
end

