-- ==== Sys2Proof/Machine/Registers.lean ====
section
/-! DEFINITION. Register access through BAR0 (R5 to R7, R341 to R344) and the clock control commands (R14 to R17, R501). -/

namespace Sys2Proof.Machine

/-- A requester's own copy of the `SEL` registers (R342): 0 host, 1 to 8 the cores, 9 the debug port. -/
def reqIx : Req → Nat
  | .host => 0 | .core n => 1 + n.val | .debug => 9

/-- The `SEL` value of a requester for the block an offset lies in (R344): 0 for a block without one. -/
def selOf (s : State) (q off : Nat) : Nat :=
  match off / 2 ^ 20 with
  | 6 => getF s Reg.QM_SEL_RING q 0
  | 10 => getF s Reg.SP_SEL_PORT q 0
  | 13 => getF s Reg.BE_SEL_ENGINE q 0
  | 14 => getF s Reg.SE_SEL_ENGINE q 0
  | 15 => getF s Reg.TA_SEL_INDEX q 0 + getF s Reg.TA_SEL_PHYS q 0 * 2 ^ 15
  | 16 => getF s Reg.MEM_SEL_CHANNEL q 0
  | _ => 0

/-- The physical position `TA_SEL` names (R153). -/
def tileSel (s : State) (q : Nat) : Option Nat :=
  let n := getF s Reg.TA_SEL_INDEX q 0
  if bit s Reg.TA_SEL_PHYS q 0 then (if n < 272 then some n else none)
  else if n < 256 then physOf s n else none

/-- A tile field is live at a position: everywhere for the map and the router counters, elsewhere only where the tile serves
(R153). -/
def tileLive (s : State) (p off : Nat) : Bool :=
  off = 0xF01000 || (0xF01200 ≤ off && off < 0xF01300) || tileState s p = 0 || tileState s p = 2

/-- The channel of a field that a requester's access reaches; none where the selection names no channel. -/
def chanIx (s : State) (q : Nat) (f : Fld) : Option Nat :=
  match f.ch with
  | .none => some 0
  | .req => some q
  | .port => some (getF s Reg.SP_SEL_PORT q 0)
  | .be => some (getF s Reg.BE_SEL_ENGINE q 0)
  | .se => some (getF s Reg.SE_SEL_ENGINE q 0)
  | .mem => some (getF s Reg.MEM_SEL_CHANNEL q 0)
  | .ring => some (getF s Reg.QM_SEL_RING q 0)
  | .tile => (tileSel s q).filter fun p => tileLive s p f.off

/-- The register index at which a field of a block lies at an 8-byte offset. -/
def indexAt (f : Fld) (off : Nat) : Option Nat :=
  if off < f.off then none
  else if f.stride = 0 then (if off = f.off then some 0 else none)
  else if (off - f.off) % f.stride = 0 ∧ (off - f.off) / f.stride < f.cnt then some ((off - f.off) / f.stride) else none

/-- The fields at an 8-byte offset, each with its register index. -/
def fieldsAt (off : Nat) : List (Fld × Nat) :=
  (Reg.block (off / 2 ^ 20)).filterMap fun f => (indexAt f off).map fun i => (f, i)

/-- The MSI-X table is made of 32-bit words (R351, R506). -/
def inMsixTable (off : Nat) : Bool := 0x1180000 ≤ off && off < 0x1188000

/-- The register at an offset is 64 bits wide (R497). -/
def is64 (off : Nat) : Bool := !inMsixTable off && (fieldsAt off).any fun p => 32 < p.1.lo + p.1.w

/-- BAR0 answers an offset: before S8 only GC and SEC, and GC from the end of S0 (R457); in a frost not the blocks under reset
(R446). -/
def answers (s : State) (off : Nat) : Bool :=
  let b := off / 2 ^ 20
  s.pins.hold = .none &&
  (if ready s then !(s.fm.phase = .frost && [5, 8, 13, 14, 15].contains b)
   else (b = 0 || b = 2) && (1 ≤ s.boot.stage || s.boot.fail))

/-! ### Enables of owners (R6, R343) -/

/-- Lanes of the group a port leads, from its own configuration (R59). -/
def groupSize (s : State) (p : Nat) : Nat :=
  match getF s Reg.SP_PORT_CTL_MODE p 0 with
  | 2 => 4
  | 3 => 2 ^ getF s Reg.SP_PORT_CTL_CXP_LANES p 0
  | _ => 1

/-- The lead of the group a lane belongs to (R59, R60): of four lanes in 100GBASE-R mode; in CoaXPress mode of the largest group that
contains it, unless it is enabled itself while that group's lead is not; else the lane itself. -/
def leadOf (s : State) (p : Nat) : Nat :=
  match getF s Reg.SP_PORT_CTL_MODE p 0 with
  | 2 => p / 4 * 4
  | 3 => ([8, 4, 2].findSome? fun n =>
      let l := p / n * n
      if l ≠ p && getF s Reg.SP_PORT_CTL_MODE l 0 = 3 && groupSize s l = n &&
          (bit s Reg.SP_PORT_CTL_EN l 0 || !bit s Reg.SP_PORT_CTL_EN p 0) then some l else none).getD p
  | _ => p

/-- The lane lies in the group its lead leads, and the lead's `EN`, which enables the group, is in force (R60). -/
def laneOn (s : State) (p : Nat) : Bool :=
  p < leadOf s p + groupSize s (leadOf s p) && gated s Reg.GC_ENABLE_SP Reg.SP_PORT_CTL_EN (leadOf s p) 0

/-- The group that contains a port is enabled, in a mode that runs. -/
def portOn (s : State) (p : Nat) : Bool := getF s Reg.SP_PORT_CTL_MODE (leadOf s p) 0 ≠ 0 && laneOn s p

/-- Any plan is loaded. -/
def anyPlan (s : State) : Bool := s.plans.any fun e => e.2.loaded
/-- The conditions under which MEM counts as enabled (R335). -/
def memOn (s : State) : Bool :=
  anyPlan s || igEn s || qmEn s || pmEn s || (upto 32).any fun e => seEn s e

def ownerOn (s : State) (o : Owner) (ch i : Nat) : Bool :=
  match o with
  | .none => false
  | .port => laneOn s ch
  | .lt => ltEn s
  | .enc => bit s Reg.LT_ENC_CTL_EN 0 i
  | .trig => bit s Reg.LT_TRIG_CTL_EN 0 i
  | .stream => (stream s i).bound
  | .ingest => igEn s
  | .be => beEn s ch
  | .se => seEn s ch
  | .sched => scEn s
  | .tile => bit s Reg.TA_TILE_CTL_DISP_EN ch 0 || ctxMask s ((logicalOf s ch).getD 256) held ≠ 0
  | .mem => memOn s
  | .hostOut => busMaster s
  | .bar4 => s.hl.mse && !s.hl.d3
  | .peer => bit s Reg.HL_PEER_CTL_EN 0 i
  | .ring => ringEn s ch
  | .qm => qmEn s
  | .pmWin => (winOf s i).state ≠ .closed
  | .pmSend => (chanOf s i).opened
  | .pm => pmEn s
  | .hv => hvEn s

/-- The value a write stores (the `stored as` clauses). -/
def fixed (s : State) (f : Fld) (i v : Nat) : Nat :=
  match f.fix with
  | .id => v
  | .ge lim x => if lim ≤ v then x else v
  | .range lo hi => if v < lo then lo else if hi < v then hi else v
  | .align n => v / 2 ^ n * 2 ^ n
  | .alignRange n lo hi => (if v < lo then lo else if hi < v then hi else v) / 2 ^ n * 2 ^ n
  | .zeroAs x => if v = 0 then x else v
  | .lowNonzero lo => if v ≠ 0 ∧ v < lo then lo else v
  | .thermT2 =>
    let t1 := fld s Reg.HV_THERM_CTL_T1
    let u := if 104 < v then 104 else v
    if u ≤ t1 then t1 + 1 else u
  | .trigPeriod =>
    let lo := if getF s Reg.LT_TRIG_CTL_SRC 0 i = 2 then 100 else 1
    if v < lo then lo else v

/-- Write one field (R5, R6, R343): the new state, and whether a static field was refused; `was` is the state before the write, in which
owners are enabled or not. -/
def writeField (was s : State) (f : Fld) (ch i v : Nat) : State × Bool :=
  match f.acc with
  | .ro | .rc | .wo => (s, false)
  | .w1c => (setF s f ch i (getF s f ch i - (getF s f ch i &&& v)), false)
  | .rw =>
    let u := fixed s f i v
    match f.upd with
    | .none | .live | .epoch => (setF s f ch i u, false)
    | .static =>
      if u = getF s f ch i then (s, false)
      else if ownerOn was f.owner ch i then (s, true) else (setF s f ch i u, false)
    | .peerEpoch =>
      if pmEn s then ({ s with shadow := mset 0 s.shadow (fldKey f ch i) (u + 1) }, false)
      else (setF { s with shadow := mset 0 s.shadow (fldKey f ch i) 0 } f ch i u, false)

/-- One `CFG_LOCKED`: the bit, the count, and the first offset and selection captured (R344). -/
def cfgLocked (s : State) (q off : Nat) : State :=
  let s1 := cnt s Reg.HL_CNT_CFG_LOCKED
  if bit s Reg.HL_REG_ERR_CFG_LOCKED 0 0 then s1
  else setF (setF (setF s1 Reg.HL_REG_ERR_CFG_LOCKED 0 0 1) Reg.HL_REG_ERR_OFFSET 0 0 off)
    Reg.HL_REG_ERR_SEL 0 0 (selOf s q off)

/-- A register access of the wrong size or alignment (R341). -/
def badAccess (s : State) : State := setF (cnt s Reg.HL_CNT_BAD_ACCESS) Reg.HL_REG_ERR_BAD_ACCESS 0 0 1

/-- An aligned access of 4 or 8 bytes (R341). -/
def okAccess (off size : Nat) : Bool := (size = 4 && off % 4 = 0) || (size = 8 && off % 8 = 0)

/-- Unmask a vector; a pending one sends one message (R351). -/
def unmask (s : State) (v : Nat) : State :=
  let s1 := setF s Reg.HL_MSIX_MASK 0 v 0
  if s1.hl.pending.contains v && s1.hl.msixEn && !s1.hl.fnMask then
    post (updHl s1 fun h => { h with pending := h.pending.filter (· ≠ v) }) (.msix v)
  else s1

/-- Write the fields of one register that lie in bits [lo + n − 1 : lo]; a field that a command of its own writes is left to that
command, which `writeBits` performs. -/
def commitBits (s : State) (q off lo n v : Nat) : State :=
  let go := fun (acc : State × Bool) (p : Fld × Nat) =>
    let f := p.1
    if f.own || f.lo < lo || lo + n < f.lo + f.w then acc
    else match chanIx acc.1 q f with
      | none => acc
      | some ch =>
        if fid f == fid Reg.HL_MSIX_MASK && bitsOf v f.lo 1 = 0 then (unmask acc.1 p.2, acc.2)
        else
          let r := writeField s acc.1 f ch p.2 (bitsOf v f.lo f.w)
          (r.1, acc.2 || r.2)
  let r := (fieldsAt off).foldl go (s, false)
  if r.2 then cfgLocked r.1 q off
  else if off = 0x300000 then logNotify r.1
  else if off = 0x601028 then ringDue r.1 (getF s Reg.QM_SEL_RING q 0) else r.1

/-- The current contents of a register, as a requester's write would leave its other half. -/
def currentBits (s : State) (q off : Nat) : Nat :=
  ((fieldsAt off).map fun p => match chanIx s q p.1 with
    | none => 0 | some ch => if p.1.acc = .w1c then 0 else getF s p.1 ch p.2 * 2 ^ p.1.lo).sum

/-- Key of a held or latched half: register and requester (R341). -/
def halfKey (q off : Nat) : Nat := off * 16 + q

/-- The firmware store through `SEC_BOOT_WIN`, while S1 waits for a push (R473). -/
def bootWinWrite (s : State) (off size data : Nat) : State :=
  if s.boot.waitHost then
    let at0 := fld s Reg.SEC_BOOT_OFS_HALF * 0x80000 + (off - 0x280000)
    updSec s fun k => { k with store := wrBytes 0 k.store at0 (natLE size data) }
  else s

/-- Offsets of the staging and argument registers, which a running SEC command locks (R487). -/
def secLocked (s : State) (off : Nat) : Bool :=
  s.sec.busy.isSome && (off / 8 * 8 = 0x200038 || (0x200800 ≤ off && off < 0x200A00))

/-- `SEC_CMD` with an operation code that is not listed completes with `MALFORMED`; while a command runs the write is ignored
(R487). -/
def secUnlisted (s : State) (op : Nat) : State :=
  if s.sec.busy.isSome then setF s Reg.SEC_CMD_STAT_REJ 0 0 1
  else setF (setF s Reg.SEC_CMD_STAT_OP 0 0 op) Reg.SEC_CMD_STAT_STATUS 0 0 1

/-- Value of a whole register for a requester. -/
def regValue (s : State) (q off : Nat) : Nat :=
  if !answers s off then 0
  else ((fieldsAt off).map fun p => match chanIx s q p.1 with
    | none => 0 | some ch => readF s p.1 ch p.2 * 2 ^ p.1.lo).sum

/-- Clear the RC fields whose low bit lies in a range of bits: a rail's lowest reading starts again at its reset value, every
other field at 0 (R5, R490). -/
def clearRc (s : State) (q off lo n : Nat) : State :=
  if !answers s off then s
  else thread (fun s' (p : Fld × Nat) =>
    if p.1.acc = .rc && lo ≤ p.1.lo && p.1.lo < lo + n then
      match chanIx s' q p.1 with
      | none => s'
      | some ch => setF s' p.1 ch p.2 (if fid p.1 == fid Reg.HV_RAIL_MIN_MV then p.1.reset else 0)
    else s') s (fieldsAt off)

/-- A register read (R5, R341): the bytes returned, and the state with its RC fields cleared. A read of the low half of a
64-bit register latches the high half; the next read of that half returns it. -/
def regRead (s : State) (q off size : Nat) : List Byte × State :=
  if !okAccess off size then ([], badAccess s)
  else
    let base := off / 8 * 8
    let v := regValue s q base
    let k := halfKey q base
    if size = 8 then (natLE 8 v, clearRc s q base 0 64)
    else if off % 8 = 0 then
      if is64 base then
        (natLE 4 v, clearRc { s with latched := mset 0 s.latched k (v / 2 ^ 32 + 1) } q base 0 32)
      else (natLE 4 v, clearRc s q base 0 32)
    else
      let h := mget 0 s.latched k
      let hi := if h = 0 then v / 2 ^ 32 else h - 1
      (natLE 4 hi, clearRc { s with latched := mset 0 s.latched k 0 } q base 32 32)

/-- The access is one to the QM window (R357). -/
def inQmWindow (s : State) (off size : Nat) : Bool := okAccess off size && answers s off && off / 2 ^ 20 = 6 && 0x601000 ≤ off

/-- It must wait until the ring's context can be loaded (R359). -/
def windowShut (s : State) (q off size : Nat) : Bool := inQmWindow s off size && !ringAble s (getF s Reg.QM_SEL_RING q 0)

/-- A window access waits; its command comes again (log 34). -/
def waitWindow (s : State) (r : Nat) : State :=
  updHl s fun h => { h with dbWait := if h.dbWait.contains (r, none) then h.dbWait else h.dbWait ++ [(r, none)] }

/-- An access to the QM window uses the context of the ring that `QM_SEL` names (R359); one of a wrong size or alignment is none (R341). -/
def touchWindow (s : State) (q off size : Nat) : State :=
  if inQmWindow s off size then useRing s (getF s Reg.QM_SEL_RING q 0) else s

/-- A read by a requester, with what it returned kept as the last read data. -/
def readTo (s : State) (req : Req) (off size : Nat) : State :=
  if windowShut s (reqIx req) off size then waitWindow s (getF s Reg.QM_SEL_RING (reqIx req) 0)
  else
  let r := regRead (touchWindow s (reqIx req) off size) (reqIx req) off size
  { r.2 with readData := r.1, readError := !okAccess off size }

/-- The host reaches the function: nothing holds it in reset, and its link is up, as it is from S0 on until it goes down (R456). -/
def hostThere (s : State) : Bool := s.pins.hold = .none && (s.hl.up || !s.boot.linkDone)

/-- A requester reaches the registers: the host while the function is in D0 (R352), the debug port while scope 2 is open (R482). -/
def reached (s : State) (req : Req) : Bool :=
  match req with
  | .host => hostThere s && !s.hl.d3
  | .core _ => true
  | .debug => s.sec.scopes.getLsbD 2

/-! ### Commands -/

/-- REGISTER_READ_CLEAR (R5). -/
def execRegisterReadClear (req : Req) (off size : Nat) (s : State) : Out :=
  .next (if reached s req then readTo s req off size else s)

/-- LOW_HALF_READ (R341, R93): a 4-byte read of the low half of a 64-bit register. -/
def execLowHalfRead (req : Req) (off : Nat) (s : State) : Out :=
  .next (if reached s req && off % 8 = 0 then readTo s req off 4 else s)

/-- GC_ENABLE_WRITE (R501): bits [10:0]; before S8 they are stored, and no block is enabled then. -/
def execGcEnableWrite (data : BitVec 32) (s : State) : Out :=
  .next (if !answers s 0x18 then s else
    thread (fun s' (p : Nat × Fld) => setF s' p.2 0 0 (bitsOf data.toNat p.1 1)) s
    [(0, Reg.GC_ENABLE_SP), (1, Reg.GC_ENABLE_LT), (2, Reg.GC_ENABLE_IG), (3, Reg.GC_ENABLE_BE), (4, Reg.GC_ENABLE_SE),
     (5, Reg.GC_ENABLE_SC), (6, Reg.GC_ENABLE_SY), (7, Reg.GC_ENABLE_QM), (8, Reg.GC_ENABLE_PM), (9, Reg.GC_ENABLE_EV),
     (10, Reg.GC_ENABLE_HV)])

/-- Where ACLK must go: the larger of the controllers' step and the forced step (R17). -/
def aclkGoal (s : State) : Nat := max (thermStep s) (fld s Reg.CK_ACLK_CTL_FORCE_STEP)

/-- A demand has changed: a step change begins unless one is in progress, which completes first (R17). -/
def aclkDemand (s : State) : State :=
  if s.clk.stepTo.isNone && aclkGoal s ≠ s.clk.step then updClk s fun k => { k with stepTo := some (aclkGoal s) } else s

/-- ACLK_FORCE_STEP (R16): 0b11 is stored as 0b10. -/
def execAclkForceStep (data : BitVec 2) (s : State) : Out :=
  .next (if answers s 0x100040 then
    aclkDemand (setF s Reg.CK_ACLK_CTL_FORCE_STEP 0 0 (fixed s Reg.CK_ACLK_CTL_FORCE_STEP 0 data.toNat)) else s)

/-- ACLK_STEP_CHANGE (R17): the change in progress completes; one demanded meanwhile follows at once. It sets event source 31
(R421). -/
def execAclkStepChange (hclk : Nat) (s : State) : Out :=
  .next (match s.clk.stepTo with
    | none => s
    | some n =>
      let s1 := updClk s fun k => { k with step := n, stepTo := none }
      let s2 := setF (addF s1 Reg.CK_ACLK_CTL_STEP_CHANGES 0 0 1) Reg.CK_ACLK_CTL_SWITCH_LAT 0 0 (min 255 hclk)
      aclkDemand { s2 with latches := s2.latches ||| BitVec.ofNat 16 (2 ^ 15) })

/-- MSIX_UNMASK (R351). -/
def execMsixUnmask (vector : Fin 2048) (s : State) : Out :=
  .next (if answers s 0x1180000 then unmask s vector.val else s)

end Sys2Proof.Machine
end

