-- ==== Sys2Proof/Machine/Arith.lean ====
section
/-! DEFINITION. Exact numbers and the number formats: rounding with ties away from zero or to even (R170, R171, R207 to
R210, R233), shared by the lane engine, the multiply array and the boundary engines. -/

namespace Sys2Proof.Machine

/-! ### Exact values m × 2^e -/

/-- An exact value `m × 2^e`. -/
structure Dy where
  m : Int
  e : Int
  deriving DecidableEq, Repr

/-- `n × 2^k`, for `k ≥ 0`. -/
def shlI (n : Int) (k : Int) : Int := n * (2 ^ k.toNat : Nat)

def Dy.add (a b : Dy) : Dy :=
  let e := min a.e b.e
  { m := shlI a.m (a.e - e) + shlI b.m (b.e - e), e := e }
def Dy.mul (a b : Dy) : Dy := { m := a.m * b.m, e := a.e + b.e }
def Dy.neg (a : Dy) : Dy := { a with m := -a.m }
def Dy.sub (a b : Dy) : Dy := a.add b.neg
/-- `a ≤ b`. -/
def Dy.le (a b : Dy) : Bool := (a.sub b).m ≤ 0
def Dy.int (n : Int) : Dy := { m := n, e := 0 }
/-- floor(log2 |v|) of a value that is not 0. -/
def Dy.log2 (a : Dy) : Int := (a.m.natAbs.log2 : Nat) + a.e

/-! ### Rounding a magnitude (R170, R233) -/

/-- `n / 2^k` to nearest: ties away from zero, or to even. -/
def roundShift (away : Bool) (n k : Nat) : Nat :=
  let q := n / 2 ^ k
  let r := 2 * (n % 2 ^ k)
  if 2 ^ k < r || (r = 2 ^ k && (away || q % 2 = 1)) then q + 1 else q

/-- |v| in units of 2^q, to nearest. -/
def roundMag (away : Bool) (n : Nat) (e q : Int) : Nat :=
  if q ≤ e then n * 2 ^ (e - q).toNat else roundShift away n (q - e).toNat

/-- A value rounded to an integer, ties away from zero (R233). -/
def roundAway (v : Dy) : Int :=
  let r : Int := roundMag true v.m.natAbs v.e 0
  if v.m < 0 then -r else r

/-- Truncation toward zero in units of 2^q (R210). -/
def truncAt (v : Dy) (q : Int) : Int :=
  if q ≤ v.e then shlI v.m (v.e - q) else v.m.tdiv (2 ^ (q - v.e).toNat : Nat)

/-! ### Float formats -/

/-- A float format: its width, fraction bits, exponent of the least normal number, largest finite magnitude code, code of
infinity, and code of its NaN result. -/
structure FFmt where
  bits : Nat
  frac : Nat
  emin : Int
  top : Nat
  inf : Option Nat
  nan : Nat
  deriving DecidableEq, Repr

def e4m3 : FFmt := { bits := 8, frac := 3, emin := -6, top := 0x7E, inf := none, nan := 0x7F }
def e5m2 : FFmt := { bits := 8, frac := 2, emin := -14, top := 0x7B, inf := some 0x7C, nan := 0x7E }
def e2m1 : FFmt := { bits := 4, frac := 1, emin := 0, top := 0x7, inf := none, nan := 0x7 }
def bf16 : FFmt := { bits := 16, frac := 7, emin := -126, top := 0x7F7F, inf := some 0x7F80, nan := 0x7FC0 }
def fp32 : FFmt := { bits := 32, frac := 23, emin := -126, top := 0x7F7FFFFF, inf := some 0x7F800000, nan := 0x7FC00000 }

/-- What a float code stands for: a sign and a finite magnitude, an infinity, or a NaN. -/
inductive FV where
  | nan
  | inf (neg : Bool)
  | fin (neg : Bool) (m : Nat) (e : Int)
  deriving DecidableEq, Repr

/-- Magnitude code of a finite value: significand and exponent. -/
def magOf (f : FFmt) (c : Nat) : Nat × Int :=
  if c / 2 ^ f.frac = 0 then (c, f.emin - f.frac)
  else (2 ^ f.frac + c % 2 ^ f.frac, f.emin - f.frac + (c / 2 ^ f.frac : Nat) - 1)

/-- Read a code. -/
def fRead (f : FFmt) (c : Nat) : FV :=
  let neg := c / 2 ^ (f.bits - 1) % 2 = 1
  let g := c % 2 ^ (f.bits - 1)
  if g ≤ f.top then .fin neg (magOf f g).1 (magOf f g).2
  else if f.inf = some g then .inf neg else .nan

/-- A code with its sign. -/
def fSign (f : FFmt) (neg : Bool) (c : Nat) : Nat := (if neg then 2 ^ (f.bits - 1) else 0) + c

/-- Magnitude code nearest to `m × 2^e`, and whether it exceeds the largest finite code. -/
def magRound (f : FFmt) (away : Bool) (m : Nat) (e : Int) : Nat × Bool :=
  if m = 0 then (0, false)
  else
    let q := max ((m.log2 : Nat) + e) f.emin - f.frac
    let c := (q - (f.emin - f.frac)).toNat * 2 ^ f.frac + roundMag away m e q
    (c, f.top < c)

/-- A float code to nearest even, overflow to infinity (R170). -/
def fRound (f : FFmt) : FV → Nat
  | .nan => f.nan
  | .inf neg => fSign f neg (f.inf.getD f.top)
  | .fin neg m e =>
    let r := magRound f false m e
    fSign f neg (if r.2 then f.inf.getD f.top else r.1)

def FV.neg : FV → FV
  | .nan => .nan
  | .inf n => .inf (!n)
  | .fin n m e => .fin (!n) m e

/-- Exact value of a finite one. -/
def dyOf (neg : Bool) (m : Nat) (e : Int) : Dy := { m := if neg then -(m : Int) else m, e := e }

/-- A finite value; an exact zero takes the sign given. -/
def fvOf (v : Dy) (zneg : Bool) : FV := .fin (if v.m = 0 then zneg else v.m < 0) v.m.natAbs v.e

/-- Exact sum: a zero of opposite signs is +0 (R170). -/
def FV.add : FV → FV → FV
  | .nan, _ => .nan
  | _, .nan => .nan
  | .inf a, .inf b => if a = b then .inf a else .nan
  | .inf a, _ => .inf a
  | _, .inf b => .inf b
  | .fin a m e, .fin b n g => fvOf ((dyOf a m e).add (dyOf b n g)) (a && b)

/-- Exact product. -/
def FV.mul : FV → FV → FV
  | .nan, _ => .nan
  | _, .nan => .nan
  | .inf a, .inf b => .inf (a != b)
  | .inf a, .fin b n _ => if n = 0 then .nan else .inf (a != b)
  | .fin a m _, .inf b => if m = 0 then .nan else .inf (a != b)
  | .fin a m e, .fin b n g => .fin (a != b) (m * n) (e + g)

/-- One operation with one rounding, on codes (R170). -/
def fAdd (f : FFmt) (x y : Nat) : Nat := fRound f ((fRead f x).add (fRead f y))
def fSub (f : FFmt) (x y : Nat) : Nat := fRound f ((fRead f x).add (fRead f y).neg)
def fMul (f : FFmt) (x y : Nat) : Nat := fRound f ((fRead f x).mul (fRead f y))
def fMa (f : FFmt) (acc x y : Nat) : Nat := fRound f ((fRead f acc).add ((fRead f x).mul (fRead f y)))

/-- Order key of a code that is no NaN: −0 is less than +0. -/
def fKey (f : FFmt) (c : Nat) : Int :=
  let g : Int := (c % 2 ^ (f.bits - 1) : Nat)
  if c / 2 ^ (f.bits - 1) % 2 = 1 then -g - 1 else g

/-- `vfmin` and `vfmax` (R170). -/
def fPick (f : FFmt) (least : Bool) (x y : Nat) : Nat :=
  match fRead f x, fRead f y with
  | .nan, .nan => f.nan
  | .nan, _ => y
  | _, .nan => x
  | _, _ => if (decide (fKey f x ≤ fKey f y)) = least then x else y

/-- Float to integer of `w` bits: ties away, saturating, NaN gives 0 (R171); with whether it was limited. -/
def fToInt (w : Nat) : FV → Int × Bool
  | .nan => (0, false)
  | .inf neg => (if neg then -(2 ^ (w - 1) : Nat) else (2 ^ (w - 1) : Nat) - 1, true)
  | .fin neg m e =>
    let r := roundAway (dyOf neg m e)
    if r < -(2 ^ (w - 1) : Nat) then (-(2 ^ (w - 1) : Nat), true)
    else if (2 ^ (w - 1) : Nat) - 1 < r then ((2 ^ (w - 1) : Nat) - 1, true) else (r, false)

/-- Saturate an integer to `w` bits. -/
def satInt (w : Nat) (v : Int) : Int := max (-(2 ^ (w - 1) : Nat)) (min ((2 ^ (w - 1) : Nat) - 1) v)

/-! ### Output formats (R208, R209, R214) -/

/-- Output formats by the code of `O_FMT`. -/
inductive OFmt where
  | int (w : Nat) | float (f : FFmt)
  deriving DecidableEq, Repr

def oFmt : Nat → OFmt
  | 0 => .int 8 | 1 => .int 4 | 2 => .int 16 | 3 => .int 32 | 4 => .float e4m3 | 5 => .float e5m2 | 6 => .float bf16
  | _ => .float fp32

/-- Bits of an output element. -/
def oBits (o : Nat) : Nat := match oFmt o with | .int w => w | .float f => f.bits

/-- Channels in an output row (R196). -/
def oCR (o : Nat) : Nat := 32 / oBits o

/-- Exponent of the largest power of two a format holds (R238). -/
def oTop (o : Nat) : Int :=
  match o with | 0 => 6 | 1 => 2 | 2 => 14 | 4 => 8 | 5 => 15 | _ => 30

/-- A converted output: its code, the value it stands for, ulp exponent at it, and whether it was limited. -/
structure Conv where
  code : Nat
  value : Dy
  ulp : Int
  limited : Bool
  deriving DecidableEq, Repr

/-- The exponent of the unit in the last place of a float code. -/
def ulpOf (f : FFmt) (c : Nat) : Int := (magOf f (c % 2 ^ (f.bits - 1))).2

/-- `round_sat` of R208: once, ties away from zero, then the format's limits; a zero result is +0. -/
def roundSat (o : Nat) (v : Dy) : Conv :=
  match oFmt o with
  | .int w =>
    let r := roundAway v
    let c := satInt w r
    { code := unsgn w c, value := .int c, ulp := 0, limited := c ≠ r }
  | .float f =>
    let r := magRound f true v.m.natAbs v.e
    let g := if r.2 then f.top else r.1
    let neg := v.m < 0 && g ≠ 0
    { code := fSign f neg g, value := dyOf neg (magOf f g).1 (magOf f g).2, ulp := (magOf f g).2, limited := r.2 }

/-- Step 4 of R209: an FP32 value to the output format. -/
def convF (o : Nat) (x : FV) : Conv :=
  match oFmt o with
  | .int w =>
    let r := fToInt w x
    { code := unsgn w r.1, value := .int r.1, ulp := 0, limited := r.2 }
  | .float f =>
    match x with
    | .nan => { code := f.nan, value := .int 0, ulp := 0, limited := false }
    | .inf neg => { code := fSign f neg f.top, value := dyOf neg (magOf f f.top).1 (magOf f f.top).2,
                    ulp := (magOf f f.top).2, limited := true }
    | .fin neg m e =>
      let r := magRound f false m e
      let g := if r.2 then f.top else r.1
      { code := fSign f neg g, value := dyOf neg (magOf f g).1 (magOf f g).2, ulp := (magOf f g).2, limited := r.2 }

/-- Order key of an output code; none for a NaN. -/
def oKey (o c : Nat) : Option Int :=
  match oFmt o with
  | .int w => some (sgn w c)
  | .float f => if fRead f c = .nan then none else some (fKey f c)

/-- Clamp an output code to two codes (R207, R209); a NaN passes. -/
def clampCode (o lo hi c : Nat) : Nat :=
  match oKey o c, oKey o lo, oKey o hi with
  | some k, some a, some b => if b < k then hi else if k < a then lo else c
  | _, _, _ => c

/-! ### Block statistics (R210) -/

/-- Statistics of converted outputs: outputs, limited, squared error in 2⁻¹⁶, the largest exponent of a nonzero one. -/
structure Stats where
  n : Nat
  sat : Nat
  sse : Nat
  emax : Option Int
  deriving DecidableEq, Repr

def Stats.zero : Stats := { n := 0, sat := 0, sse := 0, emax := none }

/-- One output joins: `v` exact before rounding, `c` what it became. -/
def Stats.take (k : Stats) (v : Dy) (c : Conv) : Stats :=
  let d := truncAt { m := (v.sub c.value).m, e := (v.sub c.value).e - c.ulp } (-8)
  { n := k.n + 1, sat := k.sat + b2n c.limited,
    sse := if c.limited then k.sse else k.sse + (d * d).toNat,
    emax := if v.m = 0 then k.emax else some (k.emax.elim v.log2 (max v.log2)) }

/-- `EMAX`: −128 if every value was 0. -/
def Stats.top (k : Stats) : Int := k.emax.getD (-128)

/-- Operands of the array as integers with a common exponent (R198, R200): value, and whether it was not finite. -/
def fp8Operand (f : FFmt) (c : Nat) : Dy × Bool :=
  match fRead f c with
  | .nan => (.int 0, true)
  | .inf neg => (dyOf neg (magOf f f.top).1 (magOf f f.top).2, true)
  | .fin neg m e => (dyOf neg m e, false)

end Sys2Proof.Machine
end

