-- ==== Sys2Proof/Machine/Sync.lean ====
section
/-! DEFINITION. Completions of descriptors, sync objects and handle queues (R277 to R286, R365, R368, R371): adds, waits, slot
states. -/

namespace Sys2Proof.Machine

/-! ### Descriptors and their completions (R365, R368, R371) -/

/-- The opcode of a command of 64 bytes; a port transmit, of 32, stands as 0xF0 (R371). -/
def descOp (d : Desc) : Nat := if d.words.length ≤ 4 then 0xF0 else wordBits d.words 0 0 8
def descPlan (d : Desc) : Nat := wordBits d.words 0 32 8
def descTmpl (d : Desc) : Nat := wordBits d.words 0 40 9
/-- The tag: byte 8 of a command, byte 16 of a port transmit (R77), which has opcode 0xF0. -/
def descTag (d : Desc) (opcode : Nat) : Nat := wordBits d.words (if opcode = 0xF0 then 2 else 1) 0 64
def descArg (d : Desc) (i : Nat) : Nat := wordBits d.words (2 + i) 0 64

def sameDesc (a b : Desc) : Bool := a.ring = b.ring && a.seq = b.seq

/-- COMMAND_COMPLETION (R371): the record goes to the reserved entry of the completion ring; `NO_CPL` with `OK` releases the
entry unused (R368). -/
def completeAs (s : State) (d : Desc) (opcode : Nat) (quiet : Bool) (status detail r0 r1 : Nat) : State :=
  let s1 := cnt { s with descs := s.descs.filter fun e => !sameDesc e d } Reg.QM_CNT_DESC
  let s2 := updRing s1 d.cplRing fun k => { k with reserved := k.reserved - b2n d.reserved }
  if quiet then s2
  else if !ringIs s d.cplRing 1 0 then cnt s2 Reg.QM_CNT_MISROUTE
  else ringPut s2 d.cplRing d.reserved (cplRec status opcode detail d.ring (descTag d opcode) d.seq r0 r1 (nowNs s))

def complete (s : State) (d : Desc) (status detail r0 r1 : Nat) : State :=
  completeAs s d (descOp d) (wordBits d.words 0 8 1 = 1 && status = 0) status detail r0 r1

/-- The descriptor of a ring with a sequence number. -/
def descOf (s : State) (r q : Nat) : Option Desc := s.descs.find? fun d => d.ring = r && d.seq = q

/-! ### Waking tasks (R134) -/

/-- A task whose wait is over is READY. -/
def wakeCtx (f : WaitFor → Bool) (k : Ctx) : Ctx :=
  if decide (k.state = .waiting) && f k.waitFor then { k with state := .ready, wait := 0, waitFor := .none } else k

/-- Every waiting task whose wait satisfies `f` becomes READY. -/
def wakeTasks (s : State) (f : Nat → WaitFor → Bool) : State :=
  let go := fun (e : Nat × Tile) => (e.1, { e.2 with ctxs := e.2.ctxs.map fun k => (k.1, wakeCtx (f e.1) k.2) })
  { s with tiles := s.tiles.map go }

/-- How many tasks `f` would wake. -/
def wakeCount (s : State) (f : Nat → WaitFor → Bool) : Nat :=
  (s.tiles.map fun e => (e.2.ctxs.filter fun k => decide (k.2.state = TaskState.waiting) && f e.1 k.2.waitFor).length).sum

/-! ### Objects -/

/-- A wait with threshold `x` is satisfied while the counter is at least `x` (R279). -/
def syncMet (s : State) (o : Nat) (x : Word) : Bool := x.toNat ≤ (obj s o).count.toNat

/-- The waits an object's counter satisfies. -/
def wokenBy (s : State) (o : Nat) : Nat → WaitFor → Bool := fun _ w =>
  match w with
  | .sync p x => p = o && syncMet s o x
  | .halo p n => p = o && n < (obj s o).count.toNat
  | _ => false

/-- A stream context whose next descriptor waits for the object and need wait no longer (R300). -/
def wokenSctx (s : State) (o : Nat) (k : SCtx) : Bool :=
  k.state = .waiting && k.batch.head?.elim false fun f =>
    f.d.waitEn && f.d.waitSo = o && !(f.d.bar && !k.run.isEmpty) && syncMet s o (BitVec.ofNat 64 f.d.waitVal)

/-- The next slot of a queue's end is there for a job of template `tm`: EMPTY for the producer, FULL for the consumer; a HALO entry once it
is published (R282, R284). -/
def endReady (s : State) (tm q : Nat) (prod : Bool) : Bool :=
  let u := queue s q
  if prod then (slot u u.tail).state = .empty || (u.decl.kind = 2 && (slot u u.tail).entry = u.tail)
  else if u.decl.kind = 2 then mget 0 u.hpos tm < (obj s u.decl.sync).count.toNat
  else (slot u u.head).state = .full

/-- A boundary engine's job is suspended at an end of a queue that satisfies `p`, and need wait no longer. -/
def wokenJob (s : State) (p : Nat → Bool) (j : Job) : Bool :=
  j.state = .suspended && j.waitEnd.elim false fun e => p e.1 && endReady s j.tmpl e.1 e.2

/-- Such jobs run on (R38). -/
def wakeJobs (s : State) (p : Nat → Bool) : State :=
  { s with jobs := s.jobs.map fun j => if wokenJob s p j then { j with state := .running, waitEnd := none, waitNs := 0 } else j }

/-- A queue whose consumers wait on an object. -/
def queueOfObj (s : State) (o q : Nat) : Bool := (queue s q).decl.kind = 2 && (queue s q).decl.sync = o

/-- SYNC_WAIT commands that wait for the object and need wait no longer (R366). -/
def wokenCmds (s : State) (o : Nat) : List Desc :=
  s.descs.filter fun d => d.started && descOp d = 9 && descArg d 0 = o && syncMet s o (BitVec.ofNat 64 (descArg d 1))

/-- Waiters that a counter, raised from `s` to `s1`, satisfies. -/
def wokenCount (s s1 : State) (o : Nat) : Nat :=
  wakeCount s1 (wokenBy s1 o) +
    (s1.sctx.filter fun e => decide (sctxWaitObj s e.2 = some o) && decide (sctxWaitObj s1 e.2 ≠ some o)).length +
    (s1.jobs.filter (wokenJob s1 (queueOfObj s1 o))).length + (wokenCmds s1 o).length

/-- Set a counter and wake the waiters it satisfies: tasks become READY, stream contexts and boundary engines' jobs run on, SYNC_WAIT
commands complete. -/
def setCount (s : State) (o n : Nat) : State :=
  let s1 := updObj s o fun k => { k with count := BitVec.ofNat 64 n }
  let s2 := wakeJobs (wakeTasks (addF s1 Reg.SY_CNT_WAKES 0 0 (wokenCount s s1 o)) (wokenBy s1 o)) (queueOfObj s1 o)
  let s3 := { s2 with sctx := s2.sctx.map fun e => if wokenSctx s1 o e.2 then (e.1, { e.2 with state := .running }) else e }
  thread (fun s' d => complete s' d 0 0 0 0) s3 (wokenCmds s1 o)

/-- An add of `v` (R279): saturating; a saturating add sets `SY_STAT.OVF` and is a program exception of the adding job. -/
def addObj (s : State) (o v : Nat) (job : JobId) : State :=
  let sum := (obj s o).count.toNat + v
  let s1 := setCount (cnt s Reg.SY_CNT_ADDS) o (min (2 ^ 64 - 1) sum)
  if 2 ^ 64 ≤ sum then report (evSet (setF s1 Reg.SY_STAT_OVF 0 0 1) 896) (mkReport 0x1D .sync o 0 job 0) else s1

/-- An agent begins to wait on an object: the peak of waiters is kept (R289). -/
def noteWaiters (s : State) : State := maxF s Reg.SY_WAITERS_HWM 0 0 (waitedObjs s).length

/-! ### Queues -/

def setSlot (q : Queue) (k : Nat) (v : Slot) : Queue := { q with slots := mset Slot.zero q.slots (k % q.decl.depth) v }
def setSlotState (q : Queue) (k : Nat) (v : SlotState) : Queue := setSlot q k { slot q k with state := v }
def nextSlot (q : Queue) (k : Nat) : Nat := (k + 1) % q.decl.depth
def backSlot (q : Queue) (k n : Nat) : Nat := (k + q.decl.depth - n % q.decl.depth) % q.decl.depth

/-- Device address of a slot's first byte (R281). -/
def slotAddr (s : State) (q : Queue) (k : Nat) : Nat :=
  let o := k % q.decl.depth * slotBytes q
  if q.decl.inDram then q.decl.dramAddr + o
  else
    let h := handleOf s q.decl.tile q.decl.handle
    spAddr q.decl.tile (bankBase h.bank + 128 * h.base + o)

/-- Bytes of DRAM or of a scratchpad carry poison. -/
def rangePoisoned (s : State) (a n : Nat) : Bool :=
  if a < dramTop then (pieces a n).any fun p => (blockMeta s p.1).poison
  else (upto ((a + n + 7) / 8 - a / 8)).any fun i => mget false s.spPoison (a / 8 + i)

/-- Slots of a queue whose bytes carry poison. -/
def slotPoisoned (s : State) (q : Queue) (k : Nat) : Bool := rangePoisoned s (slotAddr s q k) (slotBytes q)

/-- Slots in one of some states. -/
def slotsIn (q : Queue) (l : List SlotState) : Nat := (q.slots.filter fun k => l.contains k.2.state).length

/-- Change the state of every slot in one of some states. -/
def turnSlots (q : Queue) (l : List SlotState) (v : SlotState) : Queue :=
  { q with slots := q.slots.filterMap fun k =>
      if l.contains k.2.state then
        (if { k.2 with state := v } = Slot.zero then none else some (k.1, { k.2 with state := v }))
      else some k }

/-- The waits a queue's state satisfies: a pop when the consumer's next slot is FULL, a push when the producer's is EMPTY. -/
def wokenQueue (s : State) (q : Nat) : Nat → WaitFor → Bool := fun _ w =>
  let u := queue s q
  match w with
  | .pop p => p = q && (slot u u.head).state = .full
  | .push p => p = q && ((slot u u.tail).state = .empty || (u.decl.kind = 2 && (slot u u.tail).entry = u.tail))
  | _ => false

/-- Store a queue and wake the tasks and the boundary engines' jobs that waited for what it now offers. -/
def putQueue (s : State) (q : Nat) (u : Queue) : State :=
  let s1 := updQueue s q fun _ => u
  wakeJobs (wakeTasks s1 (wokenQueue s1 q)) fun n => decide (n = q)

/-- The producer takes its next slot, which must be EMPTY (R282). -/
def takeSlot (q : Queue) : Queue := { setSlotState q q.tail .filling with tail := nextSlot q q.tail }

/-- Push the FILLING slot `k` (R282): PUSHED, or FULL for a STREAMING queue. -/
def pushSlot (q : Queue) (k : Nat) : Queue := setSlotState q k (if q.decl.kind = 1 then .full else .pushed)

/-- The consumer takes its next slot, which must be FULL. -/
def popSlot (q : Queue) : Queue := { setSlotState q q.head .draining with head := nextSlot q q.head }

/-- Release the DRAINING slot `k`: RELEASED, or EMPTY for a STREAMING queue. -/
def releaseSlot (q : Queue) (k : Nat) : Queue :=
  if q.decl.kind = 1 then setSlot q k Slot.zero else setSlotState q k .released

/-- The slot the producer holds FILLING: the one before its next slot. -/
def fillingSlot (q : Queue) : Option Nat :=
  let k := backSlot q q.tail 1
  if (slot q k).state = .filling then some k else none

/-- The consumer's oldest DRAINING slot: the first from the oldest slot it holds. -/
def drainingSlot (q : Queue) : Option Nat :=
  ((upto q.decl.depth).map fun i => (q.head + i) % q.decl.depth).find? fun k => (slot q k).state = .draining

/-- The producer's end retires (R282): PUSHED slots become FULL, a slot still FILLING is returned. -/
def prodRetire (q : Queue) : Queue :=
  let n := slotsIn q [.filling]
  let q1 := turnSlots (turnSlots q [.pushed] .full) [.filling] .empty
  { q1 with tail := backSlot q q.tail n, prod := .none }

/-- The consumer's end retires: RELEASED and DRAINING slots become EMPTY. -/
def consRetire (q : Queue) : Queue := { turnSlots q [.released, .draining] .empty with cons := .none }

/-- A STREAMING queue is reset (R284). -/
def resetQueue (q : Queue) : Queue := { q with slots := [], head := 0, tail := 0 }

/-- A NORMAL producer's attempt aborts: its slots return to EMPTY and its next slot rewinds. -/
def prodAbort (q : Queue) : Queue :=
  if q.decl.kind = 1 then resetQueue q
  else { turnSlots q [.filling, .pushed] .empty with tail := backSlot q q.tail (slotsIn q [.filling, .pushed]) }

/-- A NORMAL consumer's attempt aborts: its slots return to FULL and its next slot rewinds. -/
def consAbort (q : Queue) : Queue :=
  if q.decl.kind = 1 then resetQueue q
  else { turnSlots q [.draining, .released] .full with head := backSlot q q.head (slotsIn q [.draining, .released]) }

/-- HALO: consecutive published entries from entry 0 (R284). -/
def haloCount (q : Queue) (n : Nat) : Nat → Nat
  | 0 => n
  | k + 1 =>
    let e := slot q n
    if e.state = .full && e.entry = n && !e.poison then haloCount q (n + 1) k else n

/-- Publish halo entry `n` (R50, R284): a new entry, or one that replaces a poisoned entry; otherwise discarded. The QUEUE
object takes the number of consecutive published entries. -/
def publishHalo (s : State) (qn n : Nat) (poison : Bool) (refs : List JobId) : State :=
  let q := queue s qn
  let e := slot q n
  let taken := e.state = .full && e.entry = n && !e.poison
  let q1 := if taken then q else setSlot q n { e with state := .full, entry := n, poison := poison, refs := refs }
  let s1 := putQueue s qn q1
  setCount s1 q.decl.sync (haloCount q1 ((obj s1 q.decl.sync).count.toNat) q.decl.depth)

/-- A job takes the next entry of a HALO queue, which carries the tag of R49: a new one is FILLING and the job's own; an entry that
stands is written again and judged at its publication (R50). -/
def takeHalo (q : Queue) (id : JobId) (h : HaloTag) : Queue :=
  let e := slot q q.tail
  let q1 := if e.state = .empty then setSlot q q.tail { e with state := .filling, entry := q.tail, refs := [id], halo := h } else q
  { q1 with tail := q.tail + 1 }

/-- The job holds entry `tail - 1` of a HALO queue. -/
def haloHeld (q : Queue) (id : JobId) : Bool :=
  0 < q.tail && (slot q (q.tail - 1)).entry = q.tail - 1 && (slot q (q.tail - 1)).refs.head? == some id &&
    (slot q (q.tail - 1)).state ≠ .empty

/-- A consumer of template `tm` takes its next halo entry: an untaken reference becomes the job's. -/
def popHalo (q : Queue) (id : JobId) (tm : Nat) : Queue :=
  let n := mget 0 q.hpos tm
  let e := slot q n
  let refs := if e.refs.contains id then e.refs else if e.refs.contains 0 then (e.refs.erase 0) ++ [id] else e.refs ++ [id]
  { setSlot q n { e with refs := refs } with hpos := mset 0 q.hpos tm (n + 1), head := n + 1 }

/-- A halo producer's end comes to its end: the entry still FILLING is returned. -/
def haloReturn (q : Queue) (id : JobId) : Queue :=
  if haloHeld q id && (slot q (q.tail - 1)).state = .filling then { setSlot q (q.tail - 1) Slot.zero with tail := q.tail - 1 } else q

/-- Halo entries of a producer's aborted attempt: the next entry rewinds to the attempt's first, what was FILLING or carries
poison is returned, and clean entries stand (R50). A consumer's next entry rewinds likewise. -/
def haloAbort (q : Queue) (id : JobId) (tm : Nat) : Queue :=
  let mine := (q.slots.filter fun k => k.2.refs.head? == some id && k.2.entry < q.tail).length
  let taken := (q.slots.filter fun k => k.2.refs.head? != some id && k.2.refs.contains id && k.2.entry < mget 0 q.hpos tm).length
  { q with slots := q.slots.filter (fun k => !((k.2.poison || k.2.state = .filling) && k.2.refs.head? == some id)),
           tail := q.tail - mine, hpos := mset 0 q.hpos tm (mget 0 q.hpos tm - taken) }

/-- A job drops its references to halo entries; an entry without references is freed (R50). -/
def dropHaloRefs (q : Queue) (id : JobId) : Queue :=
  { q with slots := q.slots.filterMap fun k =>
      let e := { k.2 with refs := k.2.refs.filter (· != id) }
      if e.refs.isEmpty then none else some (k.1, e) }

/-- Every queue, changed by `f`, with the tasks it frees woken. -/
def overQueues (s : State) (f : Queue → Queue) : State :=
  thread (fun s' (e : Nat × Queue) =>
    let q := f e.2
    if q = e.2 then s' else putQueue s' e.1 q) s s.queues

/-- A job's queue ends at its retirement. -/
def queuesRetire (s : State) (id : JobId) : State :=
  overQueues s fun q =>
    if q.decl.kind = 2 then
      dropHaloRefs { haloReturn q id with prod := if q.prod = .job id then .none else q.prod,
                                          cons := if q.cons = .job id then .none else q.cons } id
    else
      let q1 := if q.prod = .job id then prodRetire q else q
      if q1.cons = .job id then consRetire q1 else q1

/-- A job's queue ends at an abort of its attempt: its poisoned halo entries are invalidated (R50). -/
def queuesAbort (s : State) (id : JobId) : State :=
  let tm := ((s.jobs.find? fun j => j.id == id).map (·.tmpl)).getD 0
  overQueues s fun q =>
    if q.decl.kind = 2 then haloAbort q id tm
    else
      let q1 := if q.prod = .job id then prodAbort q else q
      if q1.cons = .job id then consAbort q1 else q1

/-- A job's queue ends at its cancellation: what it holds returns to EMPTY and it detaches (R282, R283). -/
def queuesCancel (s : State) (id : JobId) : State :=
  overQueues s fun q =>
    if q.decl.kind = 2 then
      dropHaloRefs { haloReturn q id with prod := if q.prod = .job id then .none else q.prod,
                                          cons := if q.cons = .job id then .none else q.cons } id
    else
      let q1 := if q.prod = .job id then { turnSlots q [.filling, .pushed] .empty with
          tail := backSlot q q.tail (slotsIn q [.filling, .pushed]), prod := .none } else q
      if q1.cons = .job id then { turnSlots q1 [.draining, .released] .empty with cons := .none } else q1

/-- The other ends that restart with a job: the peer of each STREAMING queue it is attached to (R284). -/
def restartUnit (s : State) (id : JobId) : List QEnd :=
  s.queues.flatMap fun e =>
    if e.2.decl.kind = 1 then
      (if e.2.prod = .job id then [e.2.cons] else []) ++ (if e.2.cons = .job id then [e.2.prod] else [])
    else []

end Sys2Proof.Machine
end

