-- ==== Sys2Proof/Machine/Streams.lean ====
section
/-! DEFINITION. Ingest: lines, stamps, stripe rows, epochs and snapshots, retention, flushes (R25 to R33, R95, R99 to R110). -/

namespace Sys2Proof.Machine

/-! ### Geometry (R25, R26, R99) -/

/-- Bytes of `n` pixels on the wire (R99). -/
def wireBytes (f : PixFmt) (n : Nat) : Nat :=
  if f.bits = 8 then n else if f.bits = 16 ∨ f.packed = false then 2 * n else (n * f.bits + 7) / 8

def lineBytes (k : Stream) : Nat := wireBytes k.fmt k.w
/-- 64-byte blocks of the first `n` columns of a line. -/
def colBlocks (k : Stream) (n : Nat) : Nat := (n * k.fmt.bits + 511) / 512
def lineBlocks (k : Stream) : Nat := colBlocks k k.w

/-! ### Epochs and snapshots (R29 to R31, R492) -/

def bankWords (b : Bank) : List Nat :=
  [b.received, b.dropped, b.gaps, b.absent, b.stripes, b.bands, b.aborts, b.regens, b.tokens, b.records, b.drifts, b.late]

/-- Two saturated counters in one word. -/
def pair32 (lo hi : Nat) : Nat := min (2 ^ 32 - 1) lo + min (2 ^ 32 - 1) hi * 2 ^ 32

/-- Raise one of the sources 16 to 31 through its latch (R421, R427). -/
def latchSource (s : State) (n : Nat) : State := { s with latches := s.latches ||| BitVec.ofNat 16 (2 ^ (n - 16)) }

/-- Write the snapshot of epoch `e` (R492): a pair of records, whole or not at all; source 30; the readable copy. -/
def writeSnapshot (s : State) (x e : Nat) (b : Bank) (incomplete part : Bool) : State :=
  let r := (stream s x).eventRing
  let w := bankWords b
  let g := fun i => w.getD i 0
  let src := b2n incomplete + 2 * b2n part
  let rec0 := eventRec 0x50 x src (nowNs s) (ring s r).events
    [e, pair32 (g 0) (g 1), pair32 (g 2) (g 3), pair32 (g 4) (g 5), pair32 (g 6) (g 7)]
  let rec1 := eventRec 0x51 x src (nowNs s) ((ring s r).events + 1) [e, pair32 (g 8) (g 9), pair32 (g 10) (g 11)]
  let words := toWords 8 rec0 ++ toWords 8 rec1
  let s1 := (deliver s r 3 0 [rec0, rec1]).1
  let s2 := thread (fun (s' : State) (p : Nat × Word) => setF s' Reg.HV_SNAP 0 (16 * x + p.1) p.2.toNat) s1
    ((upto 16).zip words)
  latchSource (updStream s2 x fun k => { k with snaps := k.snaps + 1 }) 30

/-- Epoch of a line. -/
def epochOf (k : Stream) (line : Nat) : Nat := line / k.epochLen

/-- Count `n` events that concern a line in the bank of its epoch, be it one that has not begun; an event of an older epoch whose
snapshot has been written goes to the current bank and to `LATE` (R29, R30). `f` adds to one counter. -/
def countAt (s : State) (x line n : Nat) (f : Bank → Nat → Bank) : State :=
  updStream s x fun k =>
    if !k.bound && !k.closing then k
    else if epochOf k line = k.epoch then { k with bank := f k.bank n }
    else if k.epoch < epochOf k line then { k with ahead := mupd Bank.zero k.ahead (epochOf k line) fun b => f b n }
    else match k.prev with
      | some b => if epochOf k line + 1 = k.epoch then { k with prev := some (f b n) }
                  else { k with bank := { f k.bank n with late := k.bank.late + n } }
      | none => { k with bank := { f k.bank n with late := k.bank.late + n } }

def addReceived (b : Bank) (n : Nat) : Bank := { b with received := b.received + n }
def addDropped (b : Bank) (n : Nat) : Bank := { b with dropped := b.dropped + n }
def addGaps (b : Bank) (n : Nat) : Bank := { b with gaps := b.gaps + n }
def addAbsent (b : Bank) (n : Nat) : Bank := { b with absent := b.absent + n }
def addStripes (b : Bank) (n : Nat) : Bank := { b with stripes := b.stripes + n }
def addBands (b : Bank) (n : Nat) : Bank := { b with bands := b.bands + n }
def addAborts (b : Bank) (n : Nat) : Bank := { b with aborts := b.aborts + n }
def addRegens (b : Bank) (n : Nat) : Bank := { b with regens := b.regens + n }
def addTokens (b : Bank) (n : Nat) : Bank := { b with tokens := b.tokens + n }
def addRecords (b : Bank) (n : Nat) : Bank := { b with records := b.records + n }
def addDrifts (b : Bank) (n : Nat) : Bank := { b with drifts := b.drifts + n }

/-- Two banks' counts together. -/
def Bank.plus (a b : Bank) : Bank :=
  { received := a.received + b.received, dropped := a.dropped + b.dropped, gaps := a.gaps + b.gaps, absent := a.absent + b.absent,
    stripes := a.stripes + b.stripes, bands := a.bands + b.bands, aborts := a.aborts + b.aborts, regens := a.regens + b.regens,
    tokens := a.tokens + b.tokens, records := a.records + b.records, drifts := a.drifts + b.drifts, late := a.late + b.late }

/-- EPOCH_BOUNDARY (R29, R30): the banks change places; a snapshot still waiting is written with `INCOMPLETE`. -/
def epochBoundary (s : State) (x : Nat) : State :=
  let k := stream s x
  let s1 := match k.prev with
    | some b => writeSnapshot s x (k.epoch - 1) b true false
    | none => s
  updStream s1 x fun k =>
    { k with prev := some k.bank, bank := mget Bank.zero k.ahead (k.epoch + 1), ahead := mdel k.ahead (k.epoch + 1),
             epoch := k.epoch + 1 }

/-! ### Stamps (R95) -/

/-- Position of the encoder a stream is linked to, 0 without a link. -/
def linkPos (s : State) (x : Nat) : Word :=
  if bit s Reg.LT_STREAM_LINK_EN 0 x then BitVec.ofInt 64 (enc s (getF s Reg.LT_STREAM_LINK_ENC 0 x)).pos else 0

/-- The stream has a linked trigger output. -/
def linkedTrig (s : State) (x : Nat) : Bool := bit s Reg.LT_STREAM_LINK_EN 0 x && bit s Reg.LT_STREAM_LINK_TRIG_EN 0 x

/-- Discard the entries older than the receive stamp minus `MAX_LAT` when line `n` is where the queue is aligned. -/
def alignLink (s : State) (x n rx : Nat) : State :=
  if (link s x).aligns.contains n then
    updLink s x fun k => { stamps := k.stamps.filter fun e => rx ≤ e.1 + 1000 * getF s Reg.LT_STREAM_LAT_MAX_LAT 0 x,
                           aligns := k.aligns.filter (· ≠ n) }
  else s

/-- Store a line of the stream. -/
def putLine (s : State) (x n : Nat) (l : Line) : State :=
  updStream s x fun k => { k with lines := mset Line.none k.lines n l }

def lineOf (s : State) (x n : Nat) : Line := mget Line.none (stream s x).lines n

/-- The stamp of a port line that takes none from a queue: its receive stamp minus `LAT` (R95). -/
def fallbackNs (s : State) (x rx : Nat) : Nat := (rx + 2 ^ 64 - getF s Reg.LT_STREAM_LAT_LAT 0 x) % 2 ^ 64

/-- Stamp slot `n` of a port stream: the next entry of the queue, or the fallback. -/
def stampSlot (s : State) (x n rx : Nat) : State :=
  let s1 := alignLink s x n rx
  match linkedTrig s x, (link s1 x).stamps with
  | true, e :: rest =>
    putLine (updLink s1 x fun k => { k with stamps := rest }) x n { lineOf s1 x n with stampNs := e.1, pos := e.2 }
  | _, _ =>
    putLine (addF s1 Reg.LT_STREAM_LAT_FALLBACKS 0 x 1) x n
      { lineOf s1 x n with stampNs := fallbackNs s x rx, pos := linkPos s x, fallback := true }

/-- Open the line slots up to and including `n`, in order: an epoch boundary where one lies, and a stamp for each slot, whether its
line comes or not (R95, R108). An absent line has no receive stamp; the time of the flush, which it holds until then, stands for it
(log 10). Host-fed lines are stamped as they complete. -/
def openSlots (s : State) (x n rx : Nat) : State :=
  let go := fun (s' : State) (_ : Nat) =>
    let k := stream s' x
    let m := k.slotPtr
    let s1 := if m ≠ 0 ∧ m % k.epochLen = 0 then epochBoundary s' x else s'
    let l := lineOf s1 x m
    let s2 := if 32 ≤ x then s1 else stampSlot s1 x m (if l.gap = .absent then l.stampNs else rx)
    updStream s2 x fun k => { k with slotPtr := k.slotPtr + 1 }
  thread go s (upto (n + 1 - (stream s x).slotPtr))

/-! ### Ingest SRAM (R101) -/

/-- Blocks drawn from the shared remainder. -/
def sharedUsed (s : State) : Nat :=
  (s.streams.map fun e => sramOf s e.1 - heldReserve e.2).sum

/-- Room for `n` more blocks in a stream's reserve, or in it and the shared remainder. -/
def sramRoom (s : State) (x n : Nat) : Bool :=
  let r := heldReserve (stream s x)
  let u := sramOf s x
  if u + n ≤ r then sramUsed s + n ≤ 262144
  else sharedUsed s + (u + n - r - (u - r)) ≤ 262144 - reserves s

/-! ### Canonical form (R100) -/

/-- Pixels packed LSB first, as one number. -/
def packVal (bits : Nat) : List Nat → Nat
  | [] => 0
  | p :: ps => p % 2 ^ bits + 2 ^ bits * packVal bits ps

/-- 16-bit little-endian values of bytes. -/
def pairs16 : List Byte → List Nat
  | a :: b :: rest => (a.toNat + 256 * b.toNat) :: pairs16 rest
  | _ => []

/-- A line in canonical raw form, and whether bits above `BITS` were set. -/
def canonical (f : PixFmt) (bytes : List Byte) : Nat × Bool :=
  if 8 < f.bits ∧ f.bits < 16 ∧ f.packed = false then
    (packVal f.bits (pairs16 bytes), (pairs16 bytes).any fun v => 2 ^ f.bits ≤ v)
  else (leNat bytes, false)

/-! ### Retention (R104 to R107) -/

/-- Size in 4 KiB units of one copy of an image. -/
def unitsOf (n : Nat) : Nat := (n + 4095) / 4096

/-- A copy of `n` units at `u` meets no other stripe's units. -/
def unitsFree (s : State) (u n : Nat) : Bool :=
  s.stripes.all fun k => match k.units with
    | none => true
    | some (v, m) => u + n ≤ v || v + m ≤ u

/-- First unit of each withheld pair of frames within a copy's half, of eight units each (R333). -/
def withheldUnits (s : State) : List Nat :=
  s.dram.withheld.filterMap fun w => if w.2 then some ((w.1 - fld s Reg.IG_RET_BASE) / 4096) else none

/-- The lowest place for `n` units in a copy's half, outside withheld frames: 0 or just above a stripe or such a frame. -/
def placeUnits (s : State) (n : Nat) : Option Nat :=
  let held := withheldUnits s
  let ends := 0 :: (s.stripes.filterMap fun k => k.units.map fun p => p.1 + p.2) ++ held.map (· + 8)
  (leastBy (fun a b => decide (a < b))
    (ends.filter fun u => unitsFree s u n && (held.all fun v => decide (u + n ≤ v) || decide (v + 8 ≤ u)) &&
      (u + n) * 4096 ≤ fld s Reg.IG_RET_SIZE / 2))

/-- Device address of byte 0 of a stripe's copy: copy A, or B in the upper half (R106, R320). -/
def copyAddr (s : State) (u : Nat) (b : Bool) : Nat :=
  fld s Reg.IG_RET_BASE + (if b then fld s Reg.IG_RET_SIZE / 2 else 0) + u * 4096

def sameStripe (a b : Stripe) : Bool := a.stream = b.stream && a.row = b.row && a.seg = b.seg

def updStripe (s : State) (x r g : Nat) (f : Stripe → Stripe) : State :=
  { s with stripes := s.stripes.map fun k => if k.stream = x && k.row = r && k.seg = g then f k else k }

/-- Write both copies of a stripe at its units. One that a parity failure in the ingest SRAM struck goes out with its failing blocks
poisoned (R433); which of its blocks failed is a free value (log 3). -/
def putCopies (s : State) (u : Nat) (k : Stripe) : State :=
  let bs := k.image.zipIdx.map fun b => (b.1, k.lostA && k.lostB && (freeByteOf s (b.2 / 64)).getLsbD 0)
  devWrite (devWrite (if k.lostA && k.lostB then drawn s else s) (copyAddr s u false) bs .clean 0) (copyAddr s u true) bs .clean 0

/-- Issue the copies of every waiting stripe that fits, in the order of R104: a stripe that does not fit holds back the later
ones of its stream (R107). -/
def writeWaiting (s : State) : State :=
  let go := fun (acc : State × List Nat) (k : Stripe) =>
    let s' := acc.1
    if k.units.isSome || acc.2.contains k.stream then acc
    else match placeUnits s' (unitsOf k.image.length) with
      | none => (s', k.stream :: acc.2)
      | some u =>
        let s1 := updStripe s' k.stream k.row k.seg fun e => { e with units := some (u, unitsOf k.image.length) }
        (putCopies s1 u k, acc.2)
  (thread go (s, []) s.stripes).1

/-! ### Stripe rows (R103, R105, R108, R110) -/

def gapCode : LineGap → Nat
  | .overrun => 1 | .missing => 2 | _ => 0

/-- A gap record (R110), delivered to the ring of `IG_CTL`; counted in the line's epoch if written. -/
def gapRecord (s : State) (x cause count first time segMask : Nat) : State :=
  let bytes := natLE 4 (x + cause * 2 ^ 8) ++ natLE 4 count ++ natLE 8 first ++ natLE 8 time ++ natLE 4 segMask ++ zeros 36
  let r := deliver s (fld s Reg.IG_CTL_RING) 3 1 [bytes]
  if r.2 then countAt r.1 x first 1 addGaps else r.1

/-- Runs of consecutive equal causes: cause, first index, count. -/
def gapRuns : List (Nat × Nat) → List (Nat × Nat × Nat)
  | [] => []
  | (c, i) :: rest => match gapRuns rest with
    | (d, j, n) :: more => if c = d ∧ i + 1 = j then (c, i, n + 1) :: more else (c, i, 1) :: (d, j, n) :: more
    | [] => [(c, i, 1)]

/-- The lines of a row with their canonical value, filled by R108: `last` is the stream's last received line. -/
def fillRow (k : Stream) (fill : Bool) (rowLines : List Line) : List (Line × Nat) × Option (List Byte) × Nat :=
  let go := fun (acc : List (Line × Nat) × Option (List Byte) × Nat) (l : Line) =>
    if l.gap = .none then
      let bytes := rdBytes 0 l.data 0 (lineBytes k)
      let c := canonical k.fmt bytes
      (acc.1 ++ [(l, c.1)], some (natLE ((k.w * k.fmt.bits + 7) / 8) c.1), acc.2.2 + b2n c.2)
    else (acc.1 ++ [(l, if fill then acc.2.1.elim 0 leNat else 0)], acc.2)
  thread go ([], k.lastLine, 0) rowLines

/-- Image of a stripe (R105). -/
def stripeImage (k : Stream) (x r g : Nat) (ls : List (Line × Nat)) : List Byte :=
  let w := segCols k g
  let p := colBlocks k w * 64
  let valid := (ls.filter fun l => l.1.gap = .none).length
  let flushed := ls.any fun l => l.1.gap = .absent
  let mask := ((upto ls.length).zip ls).foldl (fun m e => m + (if e.2.1.gap = .none then 2 ^ e.1 else 0)) 0
  let cut := fun (v : Nat) => natLE p (v / 2 ^ (g * k.seg * k.fmt.bits) % 2 ^ (w * k.fmt.bits))
  natLE 8 (r * k.h) ++
    natLE 4 (x + g * 2 ^ 6 + k.fmt.bits * 2 ^ 11 + k.fmt.bayer * 2 ^ 16 + valid * 2 ^ 19 + b2n flushed * 2 ^ 29) ++
    natLE 4 (w + p * 2 ^ 16) ++ natLE 8 (r * k.h / k.epochLen) ++ zeros 40 ++ natLE 64 mask ++
    (ls.flatMap fun l => natLE 8 l.1.stampNs ++ natLE 8 l.1.pos.toNat) ++ zeros ((64 - 16 * k.h % 64) % 64) ++
    ls.flatMap fun l => cut l.2

/-- Every slot of the open row is received or filled. -/
def rowDone (k : Stream) : Bool :=
  (upto k.h).all fun i =>
    let l := mget Line.none k.lines (k.row * k.h + i)
    l.complete || l.gap ≠ .none

/-- STRIPE_ROW_COMPLETE: fill the empty slots, write the gap records, make the stripes, start the next row. A stripe of which the ingest
SRAM has lost bytes counts as one whose two copies have failed (R433). -/
def closeRow (s : State) (x : Nat) : State :=
  let k := stream s x
  let ls := (upto k.h).map fun i => mget Line.none k.lines (k.row * k.h + i)
  let (rows, last, isOver) := fillRow k (bit s Reg.IG_STREAM_FMT_FILL 0 x) ls
  let runs := gapRuns (((upto k.h).zip ls).filterMap fun e =>
    if gapCode e.2.gap = 0 then none else some (gapCode e.2.gap, e.1))
  let s1 := thread (fun (s' : State) (g : Nat × Nat × Nat) =>
    gapRecord s' x g.1 g.2.2 (k.row * k.h + g.2.1) ((ls.getD g.2.1 Line.none).stampNs) (2 ^ nSegs k - 1)) s runs
  let bad := fun (g : Nat) => k.sramBad.contains (k.row, g)
  let s2 := thread (fun (s' : State) g =>
    gapRecord s' x 3 k.h (k.row * k.h) ((ls.getD 0 Line.none).stampNs) (2 ^ g)) s1 ((upto (nSegs k)).filter bad)
  let recd := (ls.filter fun l => l.gap = .none).length
  let mk := fun (g : Nat) =>
    let img := stripeImage k x k.row g rows
    { stream := x, row := k.row, seg := g, image := img, valid := recd, flushed := ls.any fun l => l.gap = .absent,
      gapFlag := !runs.isEmpty || bad g,
      blocks := recd * (colBlocks k (g * k.seg + segCols k g) - colBlocks k (g * k.seg)), bytes := img.length,
      units := none, announced := false, lostA := bad g, lostB := bad g : Stripe }
  let s3 := updStream { s2 with stripes := s2.stripes ++ (upto (nSegs k)).map mk } x fun e =>
    { e with sramBad := e.sramBad.filter fun q => q.1 ≠ k.row, lines := e.lines.filter fun l => (k.row + 1) * k.h ≤ l.1, lastLine := last, row := k.row + 1 }
  writeWaiting (addF s3 Reg.IG_CNT_OVERBITS 0 x isOver)

/-- Close every row that is complete, its absent slots stamped. -/
def closeRows (s : State) (x : Nat) : State :=
  thread (fun (s' : State) _ =>
    let k := stream s' x
    if rowDone k then closeRow (openSlots s' x ((k.row + 1) * k.h - 1) (nowNs s')) x else s') s
    (upto ((stream s x).lines.length / 16 + 1))

/-! ### Lines (R102, R103) -/

/-- Fill a slot whose line is not received: dropped, missing or absent (R108). Its SRAM is released. -/
def fillLine (s : State) (x n : Nat) (g : LineGap) : State :=
  let l := lineOf s x n
  if l.complete ∨ l.gap ≠ .none ∨ n < (stream s x).row * (stream s x).h then s
  else
    let s1 := putLine s x n { l with data := [], gap := g, blocks := 0 }
    let s2 := match g with
      | .overrun => countAt s1 x n 1 addDropped
      | .absent => countAt s1 x n 1 addAbsent
      | _ => s1
    closeRows s2 x

/-- LINE_COMPLETE (R103): counted as received; a host-fed line without a stamp table takes the time and the position at
completion (R95). -/
def completeLine (s : State) (x n : Nat) (stamp : Option (Nat × Word)) : State :=
  let l := lineOf s x n
  let l1 := match stamp with
    | some p => { l with stampNs := p.1, pos := p.2 }
    | none => if 32 ≤ x then { l with stampNs := nowNs s, pos := linkPos s x } else l
  closeRows (countAt (putLine s x n { l1 with complete := true }) x n 1 addReceived) x

/-- The stripe row of a line is already closed, or its slot is done. -/
def lineShut (s : State) (x n : Nat) : Bool :=
  n < (stream s x).row * (stream s x).h || (lineOf s x n).complete || (lineOf s x n).gap ≠ .none

/-- Place bytes of a port line (R102, R103): space for the whole line at its first packet, or the whole line is dropped. A line that found
the queue empty takes the receive stamp of its own first packet (R95). -/
def placeBytes (s : State) (x n off : Nat) (bytes : List Byte) (rx : Nat) : State :=
  if !(stream s x).bound || lineShut s x n then s
  else
    let s1 := openSlots s x n rx
    let k := stream s1 x
    let l := lineOf s1 x n
    if l.blocks = 0 ∧ !sramRoom s1 x (lineBlocks k) then fillLine s1 x n .overrun
    else
      let fresh := ((upto bytes.length).filter fun i => !l.data.any fun e => e.1 = off + i).length
      let data := (upto bytes.length).foldl (fun m i => mins (mdel m (off + i)) (off + i) (bytes.getD i 0)) l.data
      let own := fun (l : Line) => if l.fallback && l.data.isEmpty then { l with stampNs := fallbackNs s x rx, pos := linkPos s x } else l
      let l1 := { own l with data := data, placed := l.placed + fresh, blocks := lineBlocks k }
      let s2 := putLine s1 x n l1
      let s3 := maxF s2 Reg.IG_SRAM_HWM 0 0 (sramUsed s2)
      if l1.placed = lineBytes k then completeLine s3 x n none else s3

/-! ### Flushes (R28) -/

/-- Where block lines lie after a flush before stream line `n`, with `m` the next line: see `Block.firsts`. -/
def shiftFirsts (l : List (Nat × Nat)) (n m : Nat) : List (Nat × Nat) :=
  match l with
  | (k, f) :: rest => if n < f then (k, f + (m - n)) :: rest else (k + (n - f), m) :: (k, f) :: rest
  | [] => [(0, m)]

/-- Renumber what follows stream line `n` of the open blocks, the image and the next block. -/
def renumber (ps : PortStream) (n m : Nat) : PortStream :=
  { ps with blocks := ps.blocks.map fun b => { b with firsts := shiftFirsts b.firsts n m }, nextFirst := m,
            imageFirsts := shiftFirsts ps.imageFirsts n m }

/-- Complete the row that line `n` would continue with absent lines, which hold the time of the flush and the encoder's position until
they are stamped; the next line starts the next stripe row, where the stamp queue is aligned (R28, R95). -/
def endRow (s : State) (x n : Nat) : State :=
  let k := stream s x
  if !k.bound ∨ n % k.h = 0 then s
  else
    let m := (n / k.h + 1) * k.h
    let s1 := updStream s x fun k => { k with nextLine := m }
    let s2 := { updLink s1 x (fun l => { l with aligns := l.aligns ++ [m] }) with
      pstreams := if x < 32 then mupd PortStream.zero s1.pstreams x fun ps => renumber ps n m else s1.pstreams }
    let absent := fun (s' : State) (i : Nat) =>
      fillLine (putLine s' x (n + i) { Line.none with stampNs := nowNs s, pos := linkPos s x }) x (n + i) .absent
    thread absent s2 (upto (m - n))

/-- A line of the row that line `n` would continue has arrived: it is assembled or has begun to be, or its packets are in a port's
queue (R28). -/
def rowHeard (s : State) (x n : Nat) : Bool :=
  let h := (stream s x).h
  (upto (n % h)).any fun i =>
    let l := lineOf s x (n / h * h + i)
    (l.gap = .none && (l.complete || 0 < l.placed)) ||
      s.ports.any fun e => e.2.rxq.any fun q => q.stream = x && q.line = n / h * h + i

/-- Flush a stream before line `n` (R28): without a line of the open row that has arrived there is no effect. -/
def flushBefore (s : State) (x n : Nat) : State := if rowHeard s x n then endRow s x n else s

/-- Flush at the next line slot. -/
def flushStream (s : State) (x : Nat) : State := flushBefore s x (stream s x).nextLine

/-- A line is missing at the port (R69, R71, R73): its slot is reached and filled. -/
def missLine (s : State) (x n rx : Nat) : State :=
  if (stream s x).bound then
    fillLine (openSlots (updStream s x fun k => { k with nextLine := max k.nextLine (n + 1) }) x n rx) x n .missing
  else s

/-- A line slot has been reached at the port or at the feed. -/
def reachLine (s : State) (x n : Nat) : State := updStream s x fun k => { k with nextLine := max k.nextLine (n + 1) }

end Sys2Proof.Machine
end

