-- ==== Sys2Proof/Machine/Ports.lean ====
section
/-! DEFINITION. Sensor ports: groups, Ethernet frames, GVSP blocks, CoaXPress packets, resends, links (R59 to R83). -/

namespace Sys2Proof.Machine

/-- Write the fields of one register that no command of its own writes, from `data`, for channel `ch` and register `i`. -/
def storeOthers (s : State) (off ch i data : Nat) : State :=
  let r := (fieldsAt off).foldl (fun (acc : State × Bool) p =>
    if p.1.own then acc
    else
      let w := writeField s acc.1 p.1 ch i (bitsOf data p.1.lo p.1.w)
      (w.1, acc.2 || w.2)) (s, false)
  if r.2 then cfgLocked r.1 0 off else r.1

/-! ### Groups (R59 to R61) -/

def portMode (s : State) (p : Nat) : Nat := getF s Reg.SP_PORT_CTL_MODE p 0

/-- The streams a group feeds. -/
def streamsOf (s : State) (l : Nat) : List Nat := (upto (groupSize s l)).map fun i => l + i

/-- The configuration keeps R59 and R60, and its `CXP_RATE` is one that R79 lists. -/
def groupOk (s : State) (l : Nat) : Bool :=
  let n := groupSize s l
  l % n = 0 && getF s Reg.SP_PORT_CTL_CXP_RATE l 0 ≤ 6 &&
  (streamsOf s l).all fun p =>
    portMode s p = portMode s l && getF s Reg.SP_PORT_CTL_FEC p 0 = getF s Reg.SP_PORT_CTL_FEC l 0 &&
    (portMode s l ≠ 3 || getF s Reg.SP_PORT_CTL_CXP_RATE p 0 = getF s Reg.SP_PORT_CTL_CXP_RATE l 0)

/-- PORT_ENABLE (R60): the register's other fields are stored as a register write stores them; `EN` = 1 is refused for a
configuration that breaks the rules, and ignored for a member lane of a group. -/
def execPortEnable (p : Fin 32) (data : BitVec 32) (s : State) : Out :=
  let s1 := storeOthers s 0xA01000 p.val 0 data.toNat
  .next (
    if !answers s 0xA01000 then s
    else if data.getLsbD 0 = false then setF s1 Reg.SP_PORT_CTL_EN p.val 0 0
    else if leadOf s1 p.val ≠ p.val || bit s1 Reg.SP_PORT_CTL_EN p.val 0 then s1
    else if groupOk s1 p.val then
      updPort (setF s1 Reg.SP_PORT_CTL_EN p.val 0 1) p.val fun k => { k with fwdSeq := 0 }
    else setF s1 Reg.SP_LINK_STAT_CFG_ERR p.val 0 1)

/-- Count one in a counter of a port. -/
def cntP (s : State) (f : Fld) (l : Nat) : State := addF s f l 0 1

/-- An event of a port, which also raises its source (R421). -/
def portEvent (s : State) (l x code : Nat) (args : List Nat) : State :=
  evSet (streamEvent s x code l args) (160 + l)

/-! ### Forwarded records (R76) -/

def forward (s : State) (l kind vlan rx : Nat) (content : List Byte) : State :=
  let r := getF s Reg.SP_CTRL_RING_RING l 0
  let n := (32 + content.length + 63) / 64
  let bytes := natLE 4 (content.length + l * 2 ^ 16 + kind * 2 ^ 21) ++ natLE 4 vlan ++ natLE 8 rx ++
    natLE 8 (port s l).fwdSeq ++ zeros 8 ++ content ++ zeros (64 * n - (32 + content.length))
  let d := deliver s r 3 2 ((upto n).map fun i => (bytes.drop (64 * i)).take 64)
  if d.2 then updPort (cntP d.1 Reg.SP_CNT_FWD l) l fun k => { k with fwdSeq := k.fwdSeq + 1 }
  else if ringIs s r 3 2 then cntP d.1 Reg.SP_CNT_CTRL_DROP l else d.1

/-! ### Receive queue (R73) -/

/-- Split bytes at line boundaries: line, offset, bytes. -/
def linePieces (lb at0 : Nat) (bytes : List Byte) : List (Nat × Nat × List Byte) :=
  (upto ((at0 % lb + bytes.length + lb - 1) / lb)).map fun i =>
    let from0 := if i = 0 then 0 else i * lb - at0 % lb
    let off := if i = 0 then at0 % lb else 0
    (at0 / lb + i, off, (bytes.drop from0).take (lb - off))

/-- A packet enters the queue whole, or is discarded and its lines are missing. DESIGN CHOICE (log 8): a group of lanes has the one
64 KiB queue of its lead port, and a packet takes room for the payload bytes it carries. -/
def enqueue (s : State) (l x : Nat) (ps : List (Nat × Nat × List Byte)) (rx : Nat) : State :=
  let n := (ps.map fun p => p.2.2.length).sum
  let s1 := thread (fun s' (p : Nat × Nat × List Byte) => reachLine s' x p.1) s ps
  if (port s l).rxBytes + n ≤ 65536 then
    let q := ps.map fun p => { stream := x, line := p.1, off := p.2.1, bytes := p.2.2, stampNs := rx : QPacket }
    addF (updPort s1 l fun k => { k with rxq := k.rxq ++ q, rxBytes := k.rxBytes + n }) Reg.SP_CNT_RX_BYTES l 0 n
  else thread (fun s' (p : Nat × Nat × List Byte) => missLine s' x p.1 rx) (cntP s1 Reg.SP_CNT_RXQ_DROP l) ps

/-- INGEST_TAKE_PACKET (R102): the oldest packet of a port's queue. -/
def execIngestTakePacket (p : Fin 32) (s : State) : Out :=
  .next (if !igEn s then s else
    match (port s p.val).rxq with
    | [] => s
    | q :: rest =>
      let s1 := updPort s p.val fun k => { k with rxq := rest, rxBytes := k.rxBytes - q.bytes.length }
      placeBytes s1 q.stream q.line q.off q.bytes q.stampNs)

/-! ### GVSP blocks (R66 to R69) -/

/-- Stream line of line `i` of a block or an image. -/
def lineAt : List (Nat × Nat) → Nat → Nat
  | [], i => i
  | (k, f) :: rest, i => if k ≤ i then f + (i - k) else lineAt rest i

def extId (s : State) (x : Nat) : Bool := bit s Reg.SP_GVSP_CTL_EXT_ID x 0
def linesPerBlock (s : State) (x : Nat) : Nat := getF s Reg.SP_GVSP_CTL_LINES_PER_BLOCK x 0

/-- How far block id `b` is ahead of `a` (R67). -/
def idAhead (ext : Bool) (a b : Nat) : Nat := if ext then (b + 2 ^ 64 - a) % 2 ^ 64 else (b + 65535 - a) % 65535
/-- A distance that means behind. -/
def idBehind (ext : Bool) (d : Nat) : Bool := if ext then 2 ^ 63 ≤ d else 32767 < d
/-- The id `n` steps ahead. -/
def idStep (ext : Bool) (a n : Nat) : Nat := if ext then (a + n) % 2 ^ 64 else (a + 65534 + n) % 65535 + 1
/-- The id one step behind. -/
def idPrev (ext : Bool) (a : Nat) : Nat := if ext then (a + 2 ^ 64 - 1) % 2 ^ 64 else (a + 65533) % 65535 + 1

/-- Lines of a block: what its trailer reports, else `LINES_PER_BLOCK`. -/
def blockLines (s : State) (x : Nat) (b : Block) : Nat := b.trailer.getD (linesPerBlock s x)

/-- Payload bytes of a block. -/
def gvspBytes (s : State) (x : Nat) (b : Block) : Nat := blockLines s x b * lineBytes (stream s x)

/-- The payload size that a block's packets tell, as id and length (R66): packet 1 has it; with the trailer, so has each packet but
the last, and the last tells what the ones before it share; of two packets without it, the larger has it. -/
def learnSize (bytes : Nat) (packets : Option Nat) (ps : List (Nat × Nat)) : Option Nat :=
  match ps.find? fun p => p.1 = 1 with
  | some p => some p.2
  | none => match packets with
    | none => if 2 ≤ ps.length then some (ps.foldl (fun m p => max m p.2) 0) else none
    | some n => match ps.find? fun p => p.1 < n with
      | some p => some p.2
      | none => (ps.find? fun p => p.1 = n && p.2 ≤ bytes && (bytes - p.2) % (n - 1) = 0).map fun p => (bytes - p.2) / (n - 1)

/-- Whether a payload packet of `n` bytes is what the block asks for at position `k` (R66, R67): none while what has come cannot
tell, as of a lone packet, or of a short one that ends a line and may end the block. -/
def payloadFits (s : State) (x : Nat) (b : Block) (k n : Nat) : Option Bool :=
  let all := gvspBytes s x b
  match b.payload, b.packets with
  | none, some _ => some false
  | none, none => if n = 0 || all ≤ (k - 1) * n then some false else none
  | some p, some m => some (0 < n && k ≤ m && if k = m then n ≤ p && (k - 1) * p + n = all else n = p)
  | some p, none =>
    let e := (k - 1) * p + n
    if n = 0 || p < n || all < e then some false
    else if n = p || e = all then some true
    else if e % lineBytes (stream s x) = 0 && b.highest ≤ k then none
    else some false

/-- Block lines that payload packet `k` carries. -/
def packetLines (s : State) (x : Nat) (b : Block) (k : Nat) : List Nat :=
  match b.payload with
  | none => []
  | some p =>
    let lb := lineBytes (stream s x)
    let a := (k - 1) * p
    let e := min (k * p) (blockLines s x b * lb)
    (upto ((e + lb - 1) / lb - a / lb)).map fun i => a / lb + i

/-- Every packet of block line `i` has been placed. -/
def lineHere (s : State) (x : Nat) (b : Block) (i : Nat) : Bool :=
  match b.payload with
  | none => false
  | some p =>
    let lb := lineBytes (stream s x)
    (upto (((i + 1) * lb + p - 1) / p - i * lb / p)).all fun j => b.placed.contains (i * lb / p + j + 1)

/-- The stamp that line slot `m`, which is not open yet, takes when a line received at `rx` reaches it (R95): its entry of the queue, once
that is aligned, or the fallback; of a host-fed line the one given. -/
def slotStamp (s : State) (x m rx : Nat) : Nat :=
  let k := stream s x
  let fall := if x < 32 then fallbackNs s x rx else rx
  let go := fun (acc : List (Nat × Word) × Nat) (i : Nat) =>
    let q := if (link s x).aligns.contains (k.slotPtr + i) then
        acc.1.filter fun e => rx ≤ e.1 + 1000 * getF s Reg.LT_STREAM_LAT_MAX_LAT 0 x
      else acc.1
    (q.drop 1, (q.head?).elim fall (·.1))
  if x < 32 && linkedTrig s x then (thread go ((link s x).stamps, fall) (upto (m + 1 - k.slotPtr))).2 else fall

/-- Line `m` is the first whose stamp is at or after some weld edges (R96): they are posted with it, and the stream is flushed there. -/
def weldLine (s : State) (x m rx : Nat) : State :=
  let late := fun (w : Nat × Nat) => decide (w.1 ≤ slotStamp s x m rx)
  let s1 := updStream s x fun k => { k with welds := k.welds.filter fun w => !late w }
  let s2 := thread (fun s' (w : Nat × Nat) => streamEvent s' x 0x29 w.2 [m]) s1 ((stream s x).welds.filter late)
  if bit s Reg.LT_STREAM_LINK_WELD_FLUSH 0 x then flushBefore (updStream s2 x fun k => { k with nextLine := max k.nextLine m }) x m else s2

/-- A line received at `rx` reaches the slots up to `n`: what the waiting weld edges ask of them takes place first (R96). A flush among
them moves the line on. -/
def weldDue (s : State) (x n rx : Nat) : State :=
  let go := fun (acc : State × Nat) (_ : Nat × Nat) =>
    let k := stream acc.1 x
    match ((upto (acc.2 + 1 - k.nextLine)).map fun i => k.nextLine + i).find? fun m =>
        k.welds.any fun w => decide (w.1 ≤ slotStamp acc.1 x m rx) with
    | none => acc
    | some m =>
      let t := weldLine acc.1 x m rx
      (t, acc.2 + ((stream t x).nextLine - max k.nextLine m))
  (thread go (s, n) (stream s x).welds).1

/-- Where the lines of a block lie now. -/
def firstsNow (s : State) (x : Nat) (b : Block) : List (Nat × Nat) :=
  (((pstream s x).blocks.find? fun e => e.id = b.id).getD b).firsts

/-- Lines of a block pass to ingest as missing. -/
def missLines (s : State) (x : Nat) (b : Block) (ls : List Nat) : State :=
  thread (fun s' i =>
    let s1 := weldDue s' x (lineAt (firstsNow s' x b) i) (nowNs s')
    missLine s1 x (lineAt (firstsNow s1 x b) i) (nowNs s')) s ls

/-- Close the oldest open block (R67): its missing packets are abandoned. -/
def closeOldest (s : State) (x : Nat) : State :=
  match (pstream s x).blocks with
  | [] => s
  | b :: rest =>
    let n := blockLines s x b
    let s1 := if b.bad then s else missLines s x b ((upto n).filter fun i => !lineHere s x b i)
    updPstream s1 x fun k =>
      { k with blocks := k.blocks.drop 1, lastClosed := some b.id, closedCount := k.closedCount + 1,
               nextFirst := if rest.isEmpty then lineAt (firstsNow s1 x b) n else k.nextFirst }

/-- A new open block after the newest, or after the last closed one. -/
def openNext (s : State) (x id : Nat) : State :=
  let ps := pstream s x
  let first := match ps.blocks.getLast? with
    | none => ps.nextFirst
    | some b => lineAt b.firsts (blockLines s x b)
  let b : Block :=
    { id := id, firsts := [(0, first)], leader := false, bad := false, payload := none, placed := [], held := [],
      abandoned := [], gaps := [], trailer := none, packets := none, highest := 0 }
  let s1 := updPstream s x fun k => { k with blocks := k.blocks ++ [b] }
  if 2 < (pstream s1 x).blocks.length then closeOldest s1 x else s1

/-- Open the blocks up to an id `d` steps ahead of the last closed one. -/
def openUpTo (s : State) (x d : Nat) : State :=
  let ps := pstream s x
  let c := ps.lastClosed.getD 0
  let n := ps.blocks.length
  thread (fun s' i => openNext s' x (idStep (extId s x) c (n + i + 1))) s (upto (d - n))

/-- A CoaXPress line that has come in part is missing once its image ends, its link goes down or the stream breaks off (R71). -/
def cxpPartial (s : State) (x : Nat) : State :=
  let k := pstream s x
  let lb := lineBytes (stream s x)
  if k.cxpEnd % lb = 0 then s
  else updPstream (missLine s x (lineAt k.imageFirsts (k.cxpEnd / lb)) (nowNs s)) x fun k => { k with cxpEnd := (k.cxpEnd / lb + 1) * lb }

/-- STREAM_DISCONT (R69): open blocks are closed and the open row is completed, the event is posted, and the first line of the new
block starts the next stripe row, where the stamp queue is aligned (R95). -/
def discont (s : State) (l x old new : Nat) : State :=
  let s1 := cxpPartial (thread (fun s' _ => closeOldest s' x) s (pstream s x).blocks) x
  let s2 := portEvent (endRow s1 x (stream s1 x).nextLine) l x 0x10 [old, new]
  let m := (stream s2 x).nextLine
  let s3 := updLink s2 x fun k => { k with aligns := if k.aligns.contains m then k.aligns else k.aligns ++ [m] }
  updPstream s3 x fun k => { k with nextFirst := m, closedCount := 0, fresh := false, cxpEnd := 0 }

/-- A discontinuity of a GVSP stream, with the new block open. DESIGN CHOICE (log 8): the old block id of its event is the id last closed
before it, 0 at the first leader after binding. -/
def gvspDiscont (s : State) (l x id : Nat) : State :=
  let old := (pstream s x).lastClosed.getD 0
  let s1 := updPstream (discont s l x old id) x fun k => { k with lastClosed := some (idPrev (extId s x) id) }
  openNext s1 x id

/-- Change the open block with an id. -/
def updBlock (s : State) (x id : Nat) (f : Block → Block) : State :=
  updPstream s x fun k => { k with blocks := k.blocks.map fun b => if b.id = id then f b else b }

def blockOf (s : State) (x id : Nat) : Option Block := (pstream s x).blocks.find? fun b => b.id = id

/-- Positions found missing when position `k` arrives (R68). -/
def noteGaps (now : Nat) (b : Block) (k : Nat) : Block :=
  let ids := (if !b.leader && !(b.gaps.any fun g => g.packet = 0) && !b.abandoned.contains 0 then [0] else []) ++
    (upto (k - 1 - b.highest)).map fun i => b.highest + 1 + i
  { b with gaps := b.gaps ++ ids.map fun i => { packet := i, atNs := now, requests := 0, lastNs := now },
           highest := max b.highest k }

/-- Hand a payload packet of an open block with its leader to the queue. -/
def placePacket (s : State) (l x id k : Nat) (bytes : List Byte) (rx : Nat) : State :=
  match blockOf s x id with
  | none => s
  | some b0 =>
    let lb := lineBytes (stream s x)
    let at0 := (k - 1) * b0.payload.getD 0
    let s1 := weldDue s x (lineAt b0.firsts (at0 / lb)) rx
    match blockOf s1 x id with
    | none => s1
    | some b =>
      let s2 := updBlock s1 x id fun b => { b with placed := k :: b.placed }
      enqueue s2 l x ((linePieces lb at0 bytes).map fun p => (lineAt b.firsts p.1, p.2)) rx

/-- Every position of a block has been placed or abandoned. -/
def blockFull (b : Block) : Bool :=
  b.trailer.isSome && (b.bad || (b.leader &&
    (upto (b.packets.getD 0)).all fun i => b.placed.contains (i + 1) || b.abandoned.contains (i + 1)))

/-- Close the oldest block, and the one after it, when nothing of them is outstanding. -/
def closeFull (s : State) (x : Nat) : State :=
  thread (fun s' (_ : Nat) => match (pstream s' x).blocks.head? with
    | some b => if blockFull b then closeOldest s' x else s'
    | none => s') s (upto 2)

/-- The leader's format is the bound one; `PACKED` says nothing at 8 and 16 bits (R99). -/
def sameFmt (a b : PixFmt) : Bool :=
  a.bits = b.bits && a.bayer = b.bayer && (a.packed = b.packed || a.bits = 8 || a.bits = 16)

/-- A block's payload size, once its packets and those that `more` gives tell it; the lines of positions abandoned before that are missing
then. -/
def learnBlock (s : State) (x id : Nat) (more : List (Nat × Nat)) : State :=
  match blockOf s x id with
  | none => s
  | some b =>
    let b1 := { b with payload := b.payload <|> learnSize (gvspBytes s x b) b.packets (more ++ b.held.map fun p => (p.1, p.2.1.length)) }
    let lost := if b.payload.isNone then (b.abandoned.filter (· ≠ 0)).flatMap (packetLines s x b1) else []
    missLines (updBlock s x id fun _ => b1) x b lost

/-- A held packet turned out malformed (R67, R68): what it alone had shown missing is no longer, and its own position is missing where a
later one has come. -/
def unhold (now : Nat) (b : Block) (k : Nat) : Block :=
  let hi := (b.placed ++ (b.held.map fun (q : Nat × List Byte × Nat) => q.1) ++ (b.packets.map (· + 1)).toList).foldl max 0
  { b with highest := hi,
           gaps := (b.gaps.filter fun g => g.packet < hi) ++
             if k < hi then [{ packet := k, atNs := now, requests := 0, lastNs := now }] else [] }

/-- Held packets of a block that now can be placed are, with what `more` tells of its payload size. -/
def settleBlock (s : State) (l x id : Nat) (more : List (Nat × Nat)) : State :=
  let s1 := learnBlock s x id more
  let one := fun (s' : State) (p : Nat × List Byte × Nat) => match blockOf s' x id with
    | none => s'
    | some b =>
      let s2 := updBlock s' x id fun b => { b with held := b.held.filter fun q => q.1 ≠ p.1 }
      match payloadFits s' x b p.1 p.2.1.length with
      | none => s'
      | some true => if b.leader then placePacket s2 l x id p.1 p.2.1 p.2.2 else s'
      | some false => updBlock (cntP s2 Reg.SP_CNT_MALFORMED l) x id fun b => unhold (nowNs s) b p.1
  thread one s1 ((blockOf s1 x id).elim [] (·.held))

/-- A leader of an open block. -/
def gvspLeader (s : State) (l x : Nat) (b : Block) (fmt : PixFmt) (w h : Nat) : State :=
  if b.leader then cntP s Reg.SP_CNT_DUP l
  else if b.abandoned.contains 0 then cntP s Reg.SP_CNT_LATE l
  else if !sameFmt fmt (stream s x).fmt || w ≠ (stream s x).w || h ≠ linesPerBlock s x then
    let s1 := updBlock (cntP s Reg.SP_CNT_FMT_MISMATCH l) x b.id fun b => { b with leader := true, bad := true, held := [], gaps := [] }
    missLines s1 x b (upto (blockLines s x b))
  else
    let s1 := if 0 < b.highest then cntP s Reg.SP_CNT_OOO l else s
    settleBlock (updBlock s1 x b.id fun b => { b with leader := true, gaps := b.gaps.filter fun g => g.packet ≠ 0 }) l x b.id []

/-- A payload packet of an open block: discarded, or held until its place is certain, which it is at once once the payload size and the
leader are known. What it tells of the size is used on the packets held before it first. -/
def gvspPayload (s : State) (l x : Nat) (b : Block) (k : Nat) (bytes : List Byte) (rx : Nat) : State :=
  let sizes := (k, bytes.length) :: b.held.map fun p => (p.1, p.2.1.length)
  let b1 := { b with payload := b.payload <|> learnSize (gvspBytes s x b) b.packets sizes }
  if b.bad then s
  else if b.held.any fun p => p.1 = k then cntP s Reg.SP_CNT_DUP l
  else if k = 0 || payloadFits s x b1 k bytes.length = some false then cntP s Reg.SP_CNT_MALFORMED l
  else if b.placed.contains k then cntP s Reg.SP_CNT_DUP l
  else if b.abandoned.contains k then cntP s Reg.SP_CNT_LATE l
  else
    let s0 := settleBlock s l x b.id [(k, bytes.length)]
    let b0 := (blockOf s0 x b.id).getD b
    let s1 := if !b0.leader || k < b0.highest then cntP s0 Reg.SP_CNT_OOO l else s0
    settleBlock (updBlock s1 x b.id fun b =>
      { noteGaps (nowNs s) b k with gaps := (noteGaps (nowNs s) b k).gaps.filter fun g => g.packet ≠ k,
                                    held := b.held ++ [(k, bytes, rx)] }) l x b.id []

/-- Packet id `k` and line count `n` of a trailer are what the block's packets so far allow: those whose place the payload size tells. -/
def trailerFits (s : State) (x : Nat) (b : Block) (k n : Nat) : Bool :=
  b.payload.elim 0 (fun _ => b.highest) < k && n ≤ linesPerBlock s x && decide (k = 1) == decide (n = 0) &&
    b.payload.elim true fun p => k = (n * lineBytes (stream s x) + p - 1) / p + 1

/-- A trailer of an open block. It may report fewer lines; where the next block is open already, the rest are missing (log 8). -/
def gvspTrailer (s : State) (l x : Nat) (b : Block) (k n : Nat) : State :=
  let most := linesPerBlock s x
  if b.trailer.isSome then cntP s Reg.SP_CNT_DUP l
  else if b.bad then updBlock s x b.id fun b => { b with trailer := some most, packets := some (k - 1) }
  else if !trailerFits s x b k n then cntP s Reg.SP_CNT_MALFORMED l
  else
    let s1 := updBlock s x b.id fun b => noteGaps (nowNs s) { b with trailer := some n, packets := some (k - 1) } k
    let s2 := if ((pstream s x).blocks.getLast?).elim false fun e => e.id ≠ b.id then
        missLines s1 x b ((upto (most - n)).map fun i => n + i)
      else s1
    settleBlock s2 l x b.id []

/-- A packet of an open block. -/
def gvspInBlock (s : State) (l x : Nat) (g : Gvsp) (rx : Nat) : State :=
  match blockOf s x g.blockId with
  | none => s
  | some b => closeFull (match g.body with
    | .leader fmt w h => gvspLeader s l x b fmt w h
    | .payload k bytes => gvspPayload s l x b k bytes rx
    | .trailer k n => gvspTrailer s l x b k n
    | .unknown => s) x

def isLeader : GvspBody → Bool
  | .leader _ _ _ => true
  | _ => false

/-- GVSP_PACKET (R67). DESIGN CHOICE (log 8): before the first leader after binding no block is open, and a payload or trailer counts in
`MALFORMED`. -/
def gvspPacket (s : State) (l x : Nat) (g : Gvsp) (rx : Nat) : State :=
  let ext := extId s x
  let ps := pstream s x
  if (!ext && (g.blockId = 0 || 65535 < g.blockId)) || g.body = .unknown then cntP s Reg.SP_CNT_MALFORMED l
  else if (blockOf s x g.blockId).isSome then gvspInBlock s l x g rx
  else if ps.fresh then
    (if isLeader g.body then gvspInBlock (gvspDiscont s l x g.blockId) l x g rx else cntP s Reg.SP_CNT_MALFORMED l)
  else
    let c := ps.lastClosed.getD 0
    let d := idAhead ext c g.blockId
    if d = 0 || (idBehind ext d && idAhead ext g.blockId c < ps.closedCount) then cntP s Reg.SP_CNT_LATE l
    else if idBehind ext d || getF s Reg.SP_GVSP_CTL_MAX_GAP x 0 < d then
      gvspInBlock (gvspDiscont (cntP s Reg.SP_CNT_DISCONT l) l x g.blockId) l x g rx
    else gvspInBlock (openUpTo s x d) l x g rx

/-! ### Ethernet frames (R63, R64) -/

/-- The stream of the group whose filter a UDP datagram matches, and its source check (R61, R63). -/
def matchStream (s : State) (l : Nat) (ip : BitVec 32) (sp dp : BitVec 16) : Option Nat :=
  (streamsOf s l).find? fun x =>
    getF s Reg.SP_STREAM_FILT_UDP_DST x 0 = dp.toNat &&
    (!bit s Reg.SP_STREAM_FILT_SRC_CHECK x 0 ||
      (getF s Reg.SP_SRC_ADDR x 0 % 2 ^ 32 = ip.toNat &&
        (getF s Reg.SP_SRC_ADDR x 0 / 2 ^ 32 % 2 ^ 16 = 0 || getF s Reg.SP_SRC_ADDR x 0 / 2 ^ 32 % 2 ^ 16 = sp.toNat)))

/-- Receive stamp (R64). -/
def rxStamp (s : State) (l : Nat) : Nat := (nowNs s + 2 ^ 64 - getF s Reg.SP_TS_ADJ_RX_LAT l 0) % 2 ^ 64

/-- A stream has received a packet (R75). -/
def heard (s : State) (x : Nat) : State :=
  updPstream s x fun k => { k with lastPacketNs := nowNs s, idlePosted := false }

/-- Forward other traffic if `FWD_OTHER` = 1. -/
def forwardOther (s : State) (l : Nat) (f : EthFrame) (rx : Nat) : State :=
  if bit s Reg.SP_CTRL_RING_FWD_OTHER l 0 then forward s l 3 f.vlan.toNat rx f.content
  else cntP s Reg.SP_CNT_OTHER_DROP l

/-- The first disposition of R63 that matches; a GVCP acknowledgement of the port's own requests is discarded, whatever port the camera has
(R68, R81). A datagram with options or a fragment matches the filter alone, not the source check (row 7). DESIGN CHOICE (log 8): a datagram
that matches the filter of a stream that is not bound is discarded and counted nowhere. -/
def ethFrame (s : State) (l : Nat) (f : EthFrame) : State :=
  let rx := rxStamp s l
  if !f.fcsOk || f.len < 64 || 9600 < f.len then cntP s Reg.SP_CNT_MAC_ERR l
  else if f.dstMac.toNat ≠ getF s Reg.SP_MAC_ADDR_MAC l 0 && !f.groupAddr then cntP s Reg.SP_CNT_MAC_FILT l
  else match f.body with
    | .badChecksum => cntP s Reg.SP_CNT_CSUM l
    | .ptpEvent => forward s l 1 f.vlan.toNat rx f.content
    | .ptpGeneral => forward s l 2 f.vlan.toNat rx f.content
    | .pause => cntP s Reg.SP_CNT_OTHER_DROP l
    | .other => forwardOther s l f rx
    | .udp ip sp dp odd ack g =>
      if ack.elim false fun a => 0x8000 ≤ a.toNat then cntP s Reg.SP_CNT_RESEND_ACK l
      else if sp = 3956 then forward s l 0 f.vlan.toNat rx f.content
      else if odd then
        (if (streamsOf s l).any fun x => getF s Reg.SP_STREAM_FILT_UDP_DST x 0 = dp.toNat then cntP s Reg.SP_CNT_MALFORMED l
         else forwardOther s l f rx)
      else match matchStream s l ip sp dp with
        | none => forwardOther s l f rx
        | some x =>
          if (stream s x).bound then gvspPacket (heard s x) l x g rx else s

/-- The group of a port receives: it is enabled, in one of the modes, and its link is up. -/
def receives (s : State) (p : Nat) (modes : List Nat) : Bool :=
  portOn s p && modes.contains (portMode s (leadOf s p)) && (port s (leadOf s p)).linkUp

/-- ETHERNET_FRAME_RX (R63). -/
def execEthernetFrameRx (p : Fin 32) (f : EthFrame) (s : State) : Out :=
  .next (if receives s p.val [1, 2] then ethFrame s (leadOf s p.val) f else s)

/-! ### Resends (R68) -/

/-- A transmit descriptor asks for a stamp. -/
def txStamped (d : Desc) : Bool := wordBits d.words 0 16 1 = 1 || wordBits d.words 0 17 1 = 1

/-- Descriptors of a port's transmit ring whose completion entry may be reserved, in arrival order. -/
def txReady (s : State) (l : Nat) : List Desc :=
  let r := getF s Reg.SP_TX_RING_RING l 0
  if ringIs s r 0 1 && qmEn s then s.descs.filter fun d =>
    d.ring = r && !d.started && ringEn s d.cplRing && ringIs s d.cplRing 1 0 && decide (1 ≤ ringRoom s d.cplRing)
  else []

/-- Something goes out of the port, or is due to, ahead of a resend command (R65). -/
def txWaits (s : State) (l : Nat) : Bool :=
  (port s l).txBusy.isSome || !(port s l).txq.isEmpty || (txReady s l).any fun d => txStamped d && !d.poison

/-- The port has a resend command to send: at once, or after the frame under way, the stamped frames that wait, and the commands before
it (R65). -/
def sendItem (s : State) (l : Nat) (i : TxItem) : State :=
  updPort s l fun k => if txWaits s l then { k with txq := k.txq ++ [i] } else { k with sent := k.sent ++ [.item i] }

/-- The run of consecutive gaps that starts the list, all equal in `lastNs` and requestable. -/
def gapRun (n last lim : Nat) : List Gap → Nat
  | [] => 0
  | g :: rest => if g.packet = n ∧ g.lastNs = last ∧ g.requests < lim then 1 + gapRun (n + 1) last lim rest else 0

/-- What a resend request carries of `SP_RESEND_SRC` (R68, R80): source address and port, and the camera's GVCP port, 3956 where the
register says 0. -/
def resendSrc (s : State) (x : Nat) : Nat :=
  let w := getF s Reg.SP_RESEND_SRC x 0
  if w / 2 ^ 48 = 0 then w + 3956 * 2 ^ 48 else w

/-- A stream's open gaps that have waited `RESEND_WAIT` since they were found or last requested and may still be requested, with their
blocks (R68). -/
def dueGaps (s : State) (x : Nat) : List (Block × Gap) :=
  let due := fun (g : Gap) => g.requests < getF s Reg.SP_RESEND_CTL_RESEND_MAX x 0 &&
    g.lastNs + 1000 * getF s Reg.SP_RESEND_CTL_RESEND_WAIT x 0 ≤ nowNs s
  (pstream s x).blocks.flatMap fun b => (b.gaps.filter due).map fun g => (b, g)
def longerDue (a b : Block × Gap) : Bool := a.2.lastNs < b.2.lastNs

/-- Positions that one request asks for from a gap on: it and those that follow it, of equal wait. -/
def resendRun (s : State) (x : Nat) (b : Block) (g : Gap) : Nat :=
  let sorted := sortBy (fun (a b : Gap) => decide (a.packet ≤ b.packet)) (b.gaps.filter fun e => g.packet ≤ e.packet)
  max 1 (gapRun g.packet g.lastNs (getF s Reg.SP_RESEND_CTL_RESEND_MAX x 0) sorted)

/-- RESEND_WAIT_EXPIRY (R68): of the stream's open gaps that may still be requested, the one that has waited longest, with the
positions that follow it, is requested in one command. -/
def resendWait (s : State) (x : Nat) : State :=
  let l := leadOf s x
  if !bit s Reg.SP_RESEND_CTL_EN x 0 then s
  else match leastBy longerDue (dueGaps s x) with
    | none => s
    | some (b, g) =>
      let n := resendRun s x b g
      let id := (pstream s x).nextReq
      let s1 := updBlock s x b.id fun b =>
        { b with gaps := b.gaps.map fun e =>
            if g.packet ≤ e.packet && e.packet < g.packet + n then { e with requests := e.requests + 1, lastNs := nowNs s } else e }
      let s2 := updPstream s1 x fun k => { k with nextReq := if k.nextReq = 0xFFFF then 0x8000 else k.nextReq + 1 }
      cntP (sendItem s2 l (.resend x b.id g.packet (g.packet + n - 1) id (resendSrc s x))) Reg.SP_CNT_RESEND_REQ l

def execResendWaitExpiry (x : Fin 32) (s : State) : Out := .next (resendWait s x.val)

/-- RESEND_DEADLINE (R68, R69): the position is abandoned; a lost leader takes its whole block with it. -/
def execResendDeadline (x : Fin 32) (id k : Nat) (s : State) : Out :=
  .next (match blockOf s x.val id with
    | none => s
    | some b =>
      if !(b.gaps.any fun g => g.packet = k && g.atNs + 1000 * getF s Reg.SP_RESEND_CTL_DEADLINE x.val 0 ≤ nowNs s) then s
      else
        let s1 := updBlock s x.val id fun b =>
          { b with gaps := b.gaps.filter fun g => g.packet ≠ k, abandoned := k :: b.abandoned }
        closeFull (if k = 0 then
          missLines (updBlock s1 x.val id fun b => { b with bad := true, held := [], gaps := [] }) x.val b
            (upto (blockLines s x.val b))
        else missLines s1 x.val b (packetLines s x.val b k)) x.val)

/-! ### CoaXPress (R70 to R72) -/

/-- Take a stream packet that is next in order; `gap`: tags were skipped before it. What was lost runs from the end of the packet before it
to where it begins. DESIGN CHOICE (log 8): pixels before the first image header after binding count in `MALFORMED`; a packet that comes
after its tag was given up is not counted again. An image of another format counts in `FMT_MISMATCH` and its lines are missing, as a
leader's are (R67, R99). -/
def cxpTake (s : State) (l x : Nat) (c : CxpPacket) (gap : Bool) (rx : Nat) : State :=
  let s0 := updPstream s x fun k => { k with nextTag := some ((c.tag + 1) % 256) }
  match c.body with
  | .imageStart fmt =>
    let bad := !sameFmt fmt (stream s x).fmt
    let s1 :=
      if (pstream s x).fresh then discont s0 l x 0 0
      else if gap then discont (cntP s0 Reg.SP_CNT_DISCONT l) l x 0 0 else cxpPartial s0 x
    updPstream (if bad then cntP s1 Reg.SP_CNT_FMT_MISMATCH l else s1) x fun k =>
      { k with imageFirsts := [(0, (stream s1 x).nextLine)], cxpEnd := 0, cxpBad := bad }
  | .pixels n off bytes =>
    if (pstream s x).fresh then cntP s0 Reg.SP_CNT_MALFORMED l
    else
      let lb := lineBytes (stream s x)
      let due := fun (s' : State) (i : Nat) => weldDue s' x (lineAt (pstream s' x).imageFirsts i) rx
      let miss := fun (s' : State) (i : Nat) => missLine s' x (lineAt (pstream s' x).imageFirsts i) rx
      let s1 := match gap, c.lineGap with
        | true, some m =>
          let i0 := min ((pstream s0 x).cxpEnd / lb) (n - m)
          thread (fun s' i => miss s' (i0 + i)) (due s0 i0) (upto (n - i0))
        | true, none =>
          let d := discont (cntP s0 Reg.SP_CNT_DISCONT l) l x 0 0
          updPstream d x fun k => { k with imageFirsts := [(n, (stream d x).nextLine)] }
        | false, _ => s0
      if (pstream s x).cxpBad then
        let e := n * lb + off + bytes.length
        let i0 := (pstream s1 x).cxpEnd / lb
        updPstream (thread (fun s' i => miss (due s' (i0 + i)) (i0 + i)) s1 (upto (e / lb - i0))) x fun k => { k with cxpEnd := e }
      else
      let s2 := due s1 n
      let s3 := if gap && 0 < off then miss s2 n else s2
      let s4 := enqueue s3 l x ((linePieces lb (n * lb + off) bytes).map fun p => (lineAt (pstream s3 x).imageFirsts p.1, p.2)) rx
      updPstream s4 x fun k => { k with cxpEnd := n * lb + off + bytes.length }
  | _ => s0

/-- Take every held packet that is now next in order. -/
def cxpDrain (s : State) (l x : Nat) : State :=
  thread (fun s' (_ : CxpPacket × Nat × Nat) =>
    match (pstream s' x).cxpHeld.find? fun p => some p.1.tag = (pstream s' x).nextTag with
    | some p => cxpTake (updPstream s' x fun k => { k with cxpHeld := k.cxpHeld.filter (· ≠ p) }) l x p.1 false p.2.1
    | none => s') s (pstream s x).cxpHeld

/-- A stream packet in order of tag (R71): one that is ahead on a multi-lane link waits for the packets before it, and so do the first ones,
whose order only the skew tolerance tells. After the link has been down, what came before is lost (R74). -/
def cxpStream (s : State) (l x : Nat) (c : CxpPacket) (rx : Nat) : State :=
  let hold := updPstream s x fun k => { k with cxpHeld := k.cxpHeld ++ [(c, rx, nowNs s)] }
  match (pstream s x).nextTag with
  | none => if groupSize s l = 1 then cxpTake s l x c (!(pstream s x).fresh) rx else hold
  | some t =>
    if c.tag = t then cxpDrain (cxpTake s l x c false rx) l x
    else if 128 ≤ (c.tag + 256 - t) % 256 then s
    else if groupSize s l = 1 then cxpTake s l x c true rx
    else hold

/-- CXP_PACKET_RX (R71). DESIGN CHOICE (log 8): a control, event or heartbeat packet that fails its CRC counts in `MALFORMED` as a stream
packet does, and a packet of a stream that is not bound is discarded uncounted. -/
def execCxpPacketRx (p : Fin 32) (c : CxpPacket) (s : State) : Out :=
  let l := leadOf s p.val
  let rx := rxStamp s l
  .next (if !receives s p.val [3] then s
    else if !c.crcOk then cntP s Reg.SP_CNT_MALFORMED l
    else match c.body with
      | .unknown => cntP s Reg.SP_CNT_MALFORMED l
      | .control b => forward s l 4 0 rx b
      | .event b => forward s l 5 0 rx b
      | .heartbeat b => forward s l 6 0 rx b
      | _ => match (streamsOf s l).find? fun x => getF s Reg.SP_STREAM_FILT_CXP_ID x 0 = c.streamId.toNat with
        | none => s
        | some x => if (stream s x).bound then cxpStream (heard s x) l x c rx else s)

/-- Of packets held ahead of tag `t`, the one whose tag comes first. -/
def nearerTag (t : Nat) (a b : CxpPacket × Nat × Nat) : Bool := (a.1.tag + 256 - t) % 256 < (b.1.tag + 256 - t) % 256

/-- The packets that the nearest held packet of a stream has waited 4 µs for are lost (R71). Before any has been taken, the first in order
of those held is where the stream begins, 4 µs after the first came. -/
def skewStream (l : Nat) (s : State) (x : Nat) : State :=
  match (pstream s x).nextTag with
  | none =>
    match (pstream s x).cxpHeld with
    | [] => s
    | h0 :: _ =>
      let h := (leastBy (nearerTag ((h0.1.tag + 128) % 256)) (pstream s x).cxpHeld).getD h0
      if nowNs s < h0.2.2 + 4000 then s
      else cxpDrain (cxpTake (updPstream s x fun k => { k with cxpHeld := k.cxpHeld.filter (· ≠ h) }) l x h.1
        (!(pstream s x).fresh) h.2.1) l x
  | some t =>
    match leastBy (nearerTag t) (pstream s x).cxpHeld with
    | none => s
    | some h =>
      if nowNs s < h.2.2 + 4000 then s else
      let s1 := addF s Reg.SP_CNT_SKEW l 0 ((h.1.tag + 256 - t) % 256)
      let s2 := updPstream s1 x fun k => { k with cxpHeld := k.cxpHeld.filter (· ≠ h) }
      cxpDrain (cxpTake s2 l x h.1 true h.2.1) l x

/-- CXP_SKEW_TIMEOUT (R71): the packets that the held ones wait for are lost. -/
def execCxpSkewTimeout (p : Fin 32) (s : State) : Out :=
  let l := leadOf s p.val
  .next (thread (skewStream l) s (streamsOf s l))

/-- CXP_TRIGGER_PACKET (R72): the trigger packet waiting on the uplink is sent. -/
def execCxpTriggerPacket (p : Fin 32) (s : State) : Out :=
  .next (match (port s p.val).txq.find? (fun i => match i with | .trigger _ _ => true | _ => false) with
    | none => s
    | some i => updPort s p.val fun k => { k with txq := k.txq.filter (· ≠ i), sent := k.sent ++ [.item i] })

/-! ### Links and idle streams (R74, R75) -/

/-- The bound streams of a link, or stream 0's absence counted as an event without a ring. -/
def linkEvent (s : State) (l code : Nat) : State :=
  let xs := (streamsOf s l).filter fun x => (stream s x).bound
  if xs.isEmpty then evSet (cnt s Reg.QM_CNT_EVT_DROP) (160 + l)
  else thread (fun s' x => portEvent s' l x code []) s xs

/-- A link goes down (R74): open blocks are closed; of a CoaXPress stream, the line in part is missing and the order of tags starts
anew. -/
def dropLink (s : State) (p : Nat) : State :=
  let l := leadOf s p
  if !(port s l).linkUp then s
  else
    let s1 := addF (updPort s l fun k => { k with linkUp := false }) Reg.SP_LINK_STAT_LINK_DOWNS l 0 1
    let close := fun (s' : State) (x : Nat) =>
      updPstream (cxpPartial (thread (fun s'' _ => closeOldest s'' x) s' (pstream s' x).blocks) x) x fun k =>
        { k with nextTag := none, cxpHeld := [] }
    linkEvent (thread close s1 (streamsOf s1 l)) l 0x11

/-- LINK_DOWN. -/
def execLinkDown (p : Fin 32) (s : State) : Out := .next (dropLink s p.val)

/-- LINK_UP (R74): its reference clock is there (R514). -/
def execLinkUp (p : Fin 32) (s : State) : Out :=
  let l := leadOf s p.val
  .next (if (port s l).linkUp || !portOn s l then s
    else linkEvent (updPins (updPort s l fun k => { k with linkUp := true }) fun k => { k with refSns := true }) l 0x12)

/-- STREAM_IDLE (R75). -/
def execStreamIdle (x : Fin 32) (s : State) : Out :=
  .next (if !(stream s x.val).bound || getF s Reg.SP_TIMEOUT_IDLE_MS x.val 0 = 0 || (pstream s x.val).idlePosted ||
        nowNs s < (pstream s x.val).lastPacketNs + 1000000 * getF s Reg.SP_TIMEOUT_IDLE_MS x.val 0 then s
    else portEvent (updPstream s x.val fun k => { k with idlePosted := true }) (leadOf s x.val) x.val 0x13
      [(pstream s x.val).lastPacketNs])

/-- SERDES_CALIBRATION (R488): an enabled lane's receiver is trimmed through its spare slicer, unless `SERDES_S` = 0 disables it; its
data path is not disturbed. -/
def execSerdesCalibration (p : Fin 32) (s : State) : Out :=
  .next (if fld s Reg.HV_CAL_CTL_SERDES_S = 0 || !portOn s p.val then s else updPort s p.val fun k => { k with calNs := nowNs s })

end Sys2Proof.Machine
end

