-- ==== Sys2Proof/Machine/LineTiming.lean ====
section
/-! DEFINITION. Line timing: encoders, trigger outputs, general inputs, the time base (R84 to R98). -/

namespace Sys2Proof.Machine

/-- An event record of line timing, to the ring of `LT_CTL` (R87, R97). An event of an encoder and a time step set their source too (R421):
DESIGN CHOICE (log 30): of 224 to 255, the encoders have the first eight, the triggers 232 and time steps 233. -/
def ltEvent (s : State) (code src : Nat) (args : List Nat) : State :=
  let s1 := postEvent s (fld s Reg.LT_CTL_RING) code 0 src args
  if code < 0x27 then evSet s1 (224 + src) else if code = 0x28 then evSet s1 233 else s1

/-- Position of an encoder as a 64-bit word. -/
def encPos (s : State) (e : Nat) : Nat := unsgn 64 (enc s e).pos

/-! ### Trigger outputs (R88 to R91) -/

/-- A pulse request (R90, R91): discarded by the gate, merged while the output is busy, else the pulse takes its shape. DESIGN CHOICE
(log 11): of requests of one CCLK cycle, which make one pulse, those after the first count as merged. -/
def pulseRequest (s : State) (t : Nat) : State :=
  if !ltEn s || !bit s Reg.LT_TRIG_CTL_EN 0 t then s
  else if bit s Reg.LT_TRIG_CTL_GATE_EN 0 t && !giOn s (getF s Reg.LT_TRIG_CTL_GATE_GI 0 t) then s
  else if (trig s t).busy then addF s Reg.LT_TRIG_CNT_MERGED 0 t 1
  else updTrig s t fun k =>
    { k with busy := true, since := s.clk.fclk, delay := getF s Reg.LT_TRIG_SHAPE_DELAY 0 t / 4 * 4, width := getF s Reg.LT_TRIG_SHAPE_WIDTH 0 t / 4 * 4 }

/-- The outputs that take their requests from source `src` with index `idx`. -/
def trigsOf (s : State) (src idx : Nat) : List Nat :=
  (upto 32).filter fun t => getF s Reg.LT_TRIG_CTL_SRC 0 t = src && getF s Reg.LT_TRIG_CTL_SRC_IDX 0 t = idx

def requestAll (s : State) (ts : List Nat) : State := thread pulseRequest s ts

/-- `SRC_IDX` is in range for the source, and no output names itself (R88). -/
def trigCfgOk (s : State) (t : Nat) : Bool :=
  let i := getF s Reg.LT_TRIG_CTL_SRC_IDX 0 t
  match getF s Reg.LT_TRIG_CTL_SRC 0 t with
  | 1 => i < 8
  | 3 => i ≠ t
  | 4 => i < 16
  | _ => true

/-- The least multiple of a timer's period that is no smaller than a time base value. -/
def multipleFrom (s : State) (t v : Nat) : Nat :=
  let period := getF s Reg.LT_TRIG_PERIOD 0 t
  (v + period - 1) / period * period

/-- When a timer first requests (R89): aligned, at the next multiple of `PERIOD` of the time base, else a period from now. -/
def timerFrom (s : State) (t : Nat) : Nat :=
  if bit s Reg.LT_TRIG_CTL_ALIGN 0 t then multipleFrom s t (nowNs s + 1) else s.clk.fclk + getF s Reg.LT_TRIG_PERIOD 0 t

/-- The clock a timer is held against has reached its next request (R89): the time base where it is aligned, else FCLK cycles. -/
def timerDue (s : State) (t : Nat) : Bool :=
  decide ((trig s t).timerAt ≤ if bit s Reg.LT_TRIG_CTL_ALIGN 0 t then nowNs s else s.clk.fclk)

/-- A timer's request after the one that is due. -/
def timerNext (s : State) (t : Nat) : Nat :=
  if bit s Reg.LT_TRIG_CTL_ALIGN 0 t then multipleFrom s t (nowNs s + 1) else (trig s t).timerAt + getF s Reg.LT_TRIG_PERIOD 0 t

/-- TRIGGER_ENABLE (R88). -/
def execTriggerEnable (t : Fin 32) (data : BitVec 32) (s : State) : Out :=
  let s1 := storeOthers s (0xB00400 + 0x20 * t.val) 0 t.val data.toNat
  .next (
    if !answers s 0xB00400 then s
    else if data.getLsbD 0 = false then setF s1 Reg.LT_TRIG_CTL_EN 0 t.val 0
    else if bit s1 Reg.LT_TRIG_CTL_EN 0 t.val then s1
    else if trigCfgOk s1 t.val then
      updTrig (setF s1 Reg.LT_TRIG_CTL_EN 0 t.val 1) t.val fun k =>
        { k with enabledPos := (enc s1 (getF s1 Reg.LT_TRIG_CTL_SRC_IDX 0 t.val)).pos, timerAt := timerFrom s1 t.val }
    else evSet (setF s1 Reg.LT_TRIG_CTL_CFG_ERR 0 t.val 1) 232)

/-- TRIGGER_FIRE (R88). -/
def execTriggerFire (t : Fin 32) (s : State) : Out := .next (pulseRequest s t.val)

/-- TRIGGER_TIMER (R89): a timer source reaches its period. -/
def execTriggerTimer (t : Fin 32) (s : State) : Out :=
  .next (if !ltEn s || !bit s Reg.LT_TRIG_CTL_EN 0 t.val || getF s Reg.LT_TRIG_CTL_SRC 0 t.val ≠ 2 then s
    else if timerDue s t.val then pulseRequest (updTrig s t.val fun k => { k with timerAt := timerNext s t.val }) t.val
    else s)

/-- An edge of an output goes to the CoaXPress uplinks that follow it (R72): it waits, or merges with one that waits. -/
def uplinkEdge (s : State) (t : Nat) (level : Bool) : State :=
  thread (fun s' p =>
    if bit s' Reg.SP_CXP_TRIG_EN p 0 && getF s' Reg.SP_CXP_TRIG_SRC p 0 = t && portOn s' p && portMode s' p = 3 then
      (if (port s' p).txq.any fun i => match i with | .trigger _ _ => true | _ => false then
        cntP s' Reg.SP_CNT_TRIG_MERGED p
      else updPort s' p fun k => { k with txq := .trigger t level :: k.txq })
    else s') s (upto 32)

/-- An output goes to or from its active level. -/
def drive (s : State) (t : Nat) (on : Bool) : State :=
  let m := BitVec.ofNat 32 (2 ^ t)
  updPins s fun k => { k with trigOut := if on then k.trigOut ||| m else k.trigOut &&& ~~~m }

/-- The level of an output's pin, as `POL` has it (R98, R522): high impedance, none, while line timing is disabled. -/
def trigPin (s : State) (t : Nat) : Option Bool :=
  if ltEn s then some (s.pins.trigOut.getLsbD t != bit s Reg.LT_TRIG_CTL_POL 0 t) else none

/-- A pulse stamps the queues of the streams linked to its output (R95). -/
def stampLinks (s : State) (t : Nat) : State :=
  thread (fun s' x =>
    if linkedTrig s' x && getF s' Reg.LT_STREAM_LINK_TRIG 0 x = t then
      updLink s' x fun k =>
        let q := k.stamps ++ [(nowNs s', linkPos s' x)]
        { k with stamps := q.drop (q.length - 256) }
    else s') s (upto 32)

/-- TRIGGER_PULSE_START (R90, R95): `DELAY` after the request the output goes active, its line queues are stamped and its strobes request. -/
def execTriggerPulseStart (t : Fin 32) (s : State) : Out :=
  .next (if !(trig s t.val).busy || (trig s t.val).active || s.clk.fclk < (trig s t.val).since + (trig s t.val).delay then s
    else
      let s1 := addF (updTrig s t.val fun k => { k with active := true }) Reg.LT_TRIG_CNT_PULSES 0 t.val 1
      requestAll (uplinkEdge (stampLinks (drive s1 t.val true) t.val) t.val true) (trigsOf s 3 t.val))

/-- TRIGGER_PULSE_END (R90): `WIDTH` later it goes inactive. -/
def execTriggerPulseEnd (t : Fin 32) (s : State) : Out :=
  .next (if !(trig s t.val).active || s.clk.fclk < (trig s t.val).since + (trig s t.val).delay + (trig s t.val).width then s
    else
      let s1 := updTrig s t.val fun k => { k with active := false, busy := false }
      uplinkEdge (drive s1 t.val false) t.val false)

/-! ### Encoders (R85 to R87) -/

def encOn (s : State) (e : Nat) : Bool := ltEn s && bit s Reg.LT_ENC_CTL_EN 0 e

/-- ENCODER_ENABLE (R97): enabling clears the position and the high-water mark. DESIGN CHOICE (log 11): the motion state, the speed and
`SPD_RANGE`, which the rule does not name, stay. -/
def execEncoderEnable (e : Fin 8) (data : Word) (s : State) : Out :=
  let s1 := storeOthers s (0xB00100 + 0x40 * e.val) 0 e.val data.toNat
  .next (
    if !answers s 0xB00100 then s
    else if data.getLsbD 0 = false then setF s1 Reg.LT_ENC_CTL_EN 0 e.val 0
    else if bit s1 Reg.LT_ENC_CTL_EN 0 e.val then s1
    else updEnc (setF s1 Reg.LT_ENC_CTL_EN 0 e.val 1) e.val fun k =>
      { k with pos := 0, hwm := 0, winPos := 0, winErrs := 0, winFault := false, countAt := s.clk.fclk, winAt := s.clk.fclk })

/-- The motion state changes, and the event is posted (R87). -/
def motionTo (s : State) (e : Nat) (m : Motion) (code : Nat) (args : List Nat) : State :=
  let s1 := updEnc s e fun k => { k with motion := m }
  ltEvent s1 code e (encPos s1 e :: args)

/-- Forward is A leading B: one count of the cycle 00, 10, 11, 01 (R85). -/
def countDir (a0 a b : Bool) : Int :=
  if a0 != a then (if a != b then 1 else -1) else (if a != b then -1 else 1)

/-- An illegal transition (R85). -/
def illegalEdge (s : State) (e : Nat) (a b : Bool) : State :=
  let s1 := updEnc (addF s Reg.LT_ENC_ERRS 0 e 1) e fun k => { k with a := a, b := b, winErrs := k.winErrs + 1 }
  if getF s Reg.LT_ENC_CTL_ERR_LIMIT 0 e < (enc s1 e).winErrs && !(enc s1 e).winFault then
    ltEvent (setF (updEnc s1 e fun k => { k with winFault := true }) Reg.LT_ENC_STAT_FAULT 0 e 1) 0x25 e [encPos s1 e]
  else s1

/-- The motion changes that an accepted count brings (R87); `hwm` is the mark before the count. DESIGN CHOICE (log 11): a count that ends
STOPPED and brings the position `REV_HYST` below the mark posts both events, in this order. -/
def motionOf (s : State) (e : Nat) (hwm : Int) : State :=
  let p := (enc s e).pos
  let s1 := match (enc s e).motion with
    | .stopped => motionTo s e .moving 0x21 []
    | .reversed => if hwm < p then motionTo s e .moving 0x23 [] else s
    | .ended => if hwm < p then motionTo s e .moving 0x21 [] else s
    | .moving => s
  if (enc s1 e).motion = .moving && p + (getF s Reg.LT_ENC_CTL_REV_HYST 0 e : Nat) ≤ (enc s1 e).hwm then
    motionTo s1 e .reversed 0x22 []
  else s1

/-- Outputs that an encoder's rising high-water mark triggers (R89). -/
def encTrigs (s : State) (e : Nat) (hwm : Int) : List Nat :=
  if hwm < (enc s e).hwm then
    (trigsOf s 1 e).filter fun t => ((enc s e).hwm - (trig s t).enabledPos) % (getF s Reg.LT_TRIG_PERIOD 0 t : Nat) = 0
  else []

/-- An accepted change of an encoder's filtered levels (R85, R87, R89): counted while the encoder is on. -/
def encAccept (s : State) (e : Nat) (a b : Bool) : State :=
  let k := enc s e
  if !encOn s e then updEnc s e fun k => { k with a := a, b := b }
  else if k.a != a && k.b != b then illegalEdge s e a b
  else
    let d := if bit s Reg.LT_ENC_CTL_INVERT 0 e then - countDir k.a a b else countDir k.a a b
    let s1 := updEnc s e fun k => { k with a := a, b := b, pos := k.pos + d, hwm := max k.hwm (k.pos + d), countAt := s.clk.fclk }
    requestAll (motionOf s1 e k.hwm) (encTrigs s1 e k.hwm)

/-- The glitch filters of an encoder (R84), which run whether it is on or off: another level than the accepted one is accepted once it has
been held for `FILT` CCLK cycles. Two that were first sampled in one CCLK cycle are accepted as one change. -/
def encFilter (s : State) (e : Nat) : State :=
  let k := enc s e
  let pa := s.pins.encA.getLsbD e
  let pb := s.pins.encB.getLsbD e
  let n := 4 * getF s Reg.LT_ENC_CTL_FILT 0 e
  let dueA := pa != k.a && decide (k.aFrom + n ≤ s.clk.fclk)
  let dueB := pb != k.b && decide (k.bFrom + n ≤ s.clk.fclk)
  if dueA && dueB then
    if k.aFrom / 4 = k.bFrom / 4 then encAccept s e pa pb
    else if k.aFrom < k.bFrom then encAccept (encAccept s e pa k.b) e pa pb
    else encAccept (encAccept s e k.a pb) e pa pb
  else if dueA then encAccept s e pa k.b
  else if dueB then encAccept s e k.a pb
  else s

/-- An encoder's inputs stand at these levels from now on. -/
def encSample (s : State) (e : Nat) (a b : Bool) : State :=
  let m := BitVec.ofNat 8 (2 ^ e)
  let put := fun (w : BitVec 8) (v : Bool) => if v then w ||| m else w &&& ~~~m
  let s1 := updPins s fun k => { k with encA := put k.encA a, encB := put k.encB b }
  updEnc s1 e fun k =>
    { k with aFrom := if s.pins.encA.getLsbD e = a then k.aFrom else s.clk.fclk,
             bFrom := if s.pins.encB.getLsbD e = b then k.bFrom else s.clk.fclk }

/-- ENCODER_COUNT (R84, R85, R87, R89): the levels of an encoder's inputs; what has been held long enough is accepted, here and at each
CCLK cycle (log 5). -/
def execEncoderCount (e : Fin 8) (a b : Bool) (s : State) : Out :=
  .next (encFilter (encSample (encFilter s e.val) e.val a b) e.val)

/-- SPEED_WINDOW (R86): `SPD_WIN` after its start a window ends: the speed of it, and the range check. -/
def execSpeedWindow (e : Fin 8) (s : State) : Out :=
  let k := enc s e.val
  let v := (k.pos - k.winPos) * 1000000 / (getF s Reg.LT_ENC_CTL_SPD_WIN 0 e.val : Nat)
  let out := decide ((getF s Reg.LT_ENC_LIMITS_SPD_MAX 0 e.val) < v.natAbs)
  .next (if !encOn s e.val || s.clk.fclk < k.winAt + 1000 * getF s Reg.LT_ENC_CTL_SPD_WIN 0 e.val then s
    else
      let s1 := updEnc s e.val fun k =>
        { k with speed := v, range := out, winPos := k.pos, winErrs := 0, winFault := false, winAt := s.clk.fclk }
      if out != k.range then ltEvent s1 0x26 e.val [encPos s1 e.val, b2n out] else s1)

/-- STRIP_STOP (R87): no accepted count for `STALL_US`. -/
def execStripStop (e : Fin 8) (s : State) : Out :=
  .next (if encOn s e.val && (enc s e.val).motion = .moving &&
      (enc s e.val).countAt + 1000 * getF s Reg.LT_ENC_LIMITS_STALL_US 0 e.val ≤ s.clk.fclk then
    motionTo (updEnc s e.val fun k => { k with stopAt := s.clk.fclk }) e.val .stopped 0x20 []
  else s)

/-- END_OF_STRIP (R87, R96) for the causes of `cause`, 1 the input and 2 the timeout: the linked streams are flushed. -/
def endOfStrip (s : State) (e cause : Nat) : State :=
  thread (fun s' x =>
    if bit s' Reg.LT_STREAM_LINK_EN 0 x && getF s' Reg.LT_STREAM_LINK_ENC 0 x = e && bit s' Reg.LT_STREAM_LINK_EOS_FLUSH 0 x then
      flushStream s' x
    else s') (motionTo s e .ended 0x24 [cause]) (upto 64)

/-- The encoder has stayed STOPPED for `EOS_MS`, where that is not 0 (R96). -/
def eosDue (s : State) (e : Nat) : Bool :=
  encOn s e && (enc s e).motion = .stopped && getF s Reg.LT_ENC_LIMITS_EOS_MS 0 e ≠ 0 &&
    (enc s e).stopAt + 1000000 * getF s Reg.LT_ENC_LIMITS_EOS_MS 0 e ≤ s.clk.fclk

/-- EOS_STOP_TIMEOUT (R96). -/
def execEosStopTimeout (e : Fin 8) (s : State) : Out :=
  .next (if eosDue s e.val then endOfStrip s e.val 2 else s)

/-! ### General inputs (R92, R96) -/

/-- WELD_SEAM (R96) for one stream: its line is known when its stamp is, as the next lines come (`weldDue`). A stream that is not bound has no
line to name. -/
def weldSeam (s : State) (g x : Nat) : State :=
  if (stream s x).bound then updStream s x fun k => { k with welds := k.welds ++ [(nowNs s, g)] } else s

/-- Streams linked through a field naming input `g`. -/
def linkedGi (s : State) (en gi : Fld) (g : Nat) : List Nat :=
  (upto 64).filter fun x => bit s Reg.LT_STREAM_LINK_EN 0 x && bit s en 0 x && getF s gi 0 x = g

/-- A filtered edge (R92) is timed, may post an event, requests pulses, ends a strip, marks a weld. DESIGN CHOICE (log 11): both edges
request pulses. -/
def giEdge (s : State) (g : Nat) (on : Bool) : State :=
  let s1 := setF s Reg.LT_GI_TIME 0 g (nowNs s)
  let sel := getF s Reg.LT_GI_CTL_EDGE 0 g
  let s2 := if sel = 3 || sel = (if on then 1 else 2) then ltEvent s1 0x27 g [b2n on] else s1
  let s3 := requestAll s2 (trigsOf s 4 g)
  if on then thread (fun s' x => weldSeam s' g x) s3 (linkedGi s Reg.LT_STREAM_LINK_WELD_EN Reg.LT_STREAM_LINK_WELD_GI g)
  else thread (fun s' e => endOfStrip s' e (1 + 2 * b2n (eosDue s' e))) s3
    ((linkedGi s Reg.LT_STREAM_LINK_PRESENT_EN Reg.LT_STREAM_LINK_PRESENT_GI g).map fun x => getF s Reg.LT_STREAM_LINK_ENC 0 x).eraseDups

/-- The filter of a general input (R92), which runs whether the input is on or off: a new level counts once it has been held for `FILT`
µs. -/
def giFilter (s : State) (g : Nat) : State :=
  let pin := s.pins.giPins.getLsbD g
  let m := BitVec.ofNat 16 (2 ^ g)
  if pin = s.giLevel.getLsbD g || s.clk.fclk < mget 0 s.giFrom g + 1000 * getF s Reg.LT_GI_CTL_FILT 0 g then s
  else
    let s1 := { s with giLevel := if pin then s.giLevel ||| m else s.giLevel &&& ~~~m }
    if ltEn s && bit s Reg.LT_GI_CTL_EN 0 g then giEdge s1 g (giOn s1 g) else s1

/-- A general input stands at this level from now on. -/
def giSample (s : State) (g : Nat) (pin : Bool) : State :=
  let m := BitVec.ofNat 16 (2 ^ g)
  if s.pins.giPins.getLsbD g = pin then s
  else { updPins s (fun k => { k with giPins := if pin then k.giPins ||| m else k.giPins &&& ~~~m }) with
         giFrom := mset 0 s.giFrom g s.clk.fclk }

/-- GENERAL_INPUT_EDGE (R92): the level of an input; what has been held long enough counts, here and at each CCLK cycle (log 5). -/
def execGeneralInputEdge (g : Fin 16) (pin : Bool) (s : State) : Out :=
  .next (giFilter (giSample (giFilter s g.val) g.val pin) g.val)

/-- The filters of the encoders and general inputs at a CCLK cycle (R84, R92). -/
def filterCycle (s : State) : State := thread giFilter (thread encFilter s (upto 8)) (upto 16)

/-! ### Time base (R94) -/

/-- TIME_STEP (R94): the counter holds exactly the value written, and pending slew is discarded. Aligned timers go on from the first
multiple of their periods that is not behind it (R89). -/
def execTimeStep (value : Word) (s : State) : Out :=
  let s0 := thread (fun (s' : State) (t : Nat) =>
      if getF s Reg.LT_TRIG_CTL_SRC 0 t = 2 && bit s Reg.LT_TRIG_CTL_ALIGN 0 t then
        updTrig s' t fun k => { k with timerAt := multipleFrom s t value.toNat } else s') s (upto 32)
  let s1 := updClk s0 fun k => { k with tb := value.toNat * 2 ^ 28, slew := 0 }
  .next (if !answers s 0xB00A08 then s
    else ltEvent s1 0x28 0 [nowNs s, value.toNat])

/-- TIME_ADJUST (R94): a new offset replaces what has not been slewed in. -/
def execTimeAdjust (value : BitVec 32) (s : State) : Out :=
  .next (if !answers s 0xB00A18 then s
    else updClk s fun k => { k with slew := value.toInt * 2 ^ 28 })

end Sys2Proof.Machine
end

