-- ==== Sys2Proof/Machine/JobOps.lean ====
section
/-! DEFINITION. What jobs share: completions of descriptors, job ids and their instances, dependencies and eligibility,
retention, abort orders (R34 to R47, R239, R368, R371). -/

namespace Sys2Proof.Machine

/-! ### Eligibility (R39) -/

/-- The outputs of an instance are there: retired and held, or freed again. -/
def outputsHere (s : State) (e : JobId × Bool) : Bool :=
  match jobOf s e.1 with
  | some j => j.state = .retired && !j.lost
  | none => e.2

/-- A halo producer has begun or ended. -/
def haloBegun (s : State) (e : JobId × Bool) : Bool :=
  match jobOf s e.1 with
  | some j => [JobState.dispatched, .running, .suspended, .retired].contains j.state
  | none => e.2

/-- The raw stripe at an offset has been announced, or does not exist. -/
def rawHere (k : Stream) (q : Nat × Nat) (o : Int × Int) : Bool :=
  match offsetAt k q.1 q.2 o.1 o.2 with
  | none => true
  | some p => p.1 * nSegs k + p.2 < k.announcedTo

/-- Every eligibility condition of R39, and what R44, R47 and R445 add. -/
def jobReady (s : State) (j : Job) : Bool :=
  j.submitted && !j.awaitEsc && !j.cancelling && (j.regenOf.all fun i => outputsHere s (i, true)) &&
  match tmplOf s j with
  | none => j.kind = .host
  | some t =>
    if !streamJob j then true
    else
      let x := idStream j.id
      let n := idLow j.id
      let g := idSeg j.id
      (t.deps.all fun d => (depInsts s x j.plan t n g d).all (outputsHere s)) &&
      ((stripesOf s x t n g).all fun q => t.raw.all fun o => rawHere (stream s x) q o) &&
      (t.halo.all fun d => (depInsts s x j.plan t n g d).all (haloBegun s)) &&
      ((driftOps (plan s j.plan).image t).all fun op => match opOf s j.plan op with
        | none => true
        | some o => (deltaOf s x o (driftIndex t o n)).isSome)

/-- JOB_ELIGIBLE (R39, R41): waiting jobs whose conditions are met enter the eligible queue of 65,536 entries. -/
def eligPass (s : State) : State :=
  thread (fun s' (j : Job) =>
    if j.state = .waiting && jobReady s' j && (s'.jobs.filter fun k => k.state = .eligible).length < 65536 then
      updJob s' j.id fun k => { k with state := .eligible, eligAt := s'.clk.fclk }
    else s') s s.jobs

/-! ### Regenerations (R47, R445) -/

/-- A retired job is run again from its retained inputs: it stands at the head of the queue, also where that holds 65,536 entries already
(DESIGN CHOICE, log 12), or waits for inputs that a frost has lost (R445). -/
def regenerate (s : State) (id : JobId) : State :=
  match jobOf s id with
  | none => s
  | some j =>
    if j.state ≠ .retired then s
    else
      let k := { j with state := .eligible, eligAt := s.clk.fclk, regen := true, lost := false, attempt := j.attempt + 1, ended := false,
                        staged := [], adds := [], outs := [] }
      let s1 := updJob s id fun _ => if jobReady s k then k else { k with state := .waiting }
      if streamJob j then
        match tmplOf s j with
        | some t => countAt s1 (idStream id) (lastLineOf (stream s (idStream id)) t (idLow id)) 1 addRegens
        | none => s1
      else s1

/-- Producers whose held outputs a frost has lost, or that a job waits for, are regenerated before it is eligible. -/
def regenPass (s : State) : State :=
  thread (fun s' (j : Job) =>
    if j.state ≠ .waiting && j.state ≠ .eligible then s'
    else
      let ids := j.regenOf ++ match tmplOf s' j with
        | none => []
        | some t => if streamJob j then
            ((t.deps ++ t.halo).flatMap fun d => (depInsts s' (idStream j.id) j.plan t (idLow j.id) (idSeg j.id) d).map (·.1)).filter fun i =>
              (jobOf s' i).elim false (·.lost)
          else []
      thread (fun s'' i => if (jobOf s'' i).elim false (fun k => k.lost || j.regenOf.contains i) then regenerate s'' i else s'') s' ids)
    s s.jobs

/-! ### Retention (R46, R106) -/

/-- The instances that consume an instance's outputs: of each template with a dependency on it. -/
def consumersOf (s : State) (x p : Nat) (u : Template) (n g : Nat) : List (JobId × Bool) :=
  (templates s p).flatMap fun t => t.deps.flatMap fun d =>
    if d.template ≠ u.index then []
    else ((stripesOf s x u n g).filterMap fun q =>
      (offsetAt (stream s x) q.1 q.2 (-d.dr) (-d.ds)).map fun o => (instAt x t o.1 o.2, instCreated s x t o.1 o.2)).eraseDups

/-- A consumer has retired and its outputs have been freed: it was created and its record is gone. -/
def instGone (s : State) (e : JobId × Bool) : Bool := (jobOf s e.1).isNone && e.2

/-- A retired job's record may go: nothing holds its outputs any longer. Outputs without consumers are not retained (R46). -/
def jobFreeable (s : State) (j : Job) : Bool :=
  (j.state = .retired || (j.state = .cancelled && j.submitted)) &&
  match tmplOf s j with
  | none => true
  | some t =>
    if streamJob j then
      (j.state = .cancelled || (consumersOf s (idStream j.id) j.plan t (idLow j.id) (idSeg j.id)).all (instGone s))
    else !(s.pm.rx.any fun k => k.job = some j.id)

/-- The jobs that read a raw stripe: its own, and those whose halo lies in it (R46). -/
def stripeReaders (s : State) (k : Stripe) : List (JobId × Bool) :=
  let st := stream s k.stream
  (templates s st.plan).flatMap fun t =>
    (((if t.kind = 1 then (0, 0) :: t.raw else t.raw).filterMap fun o => (offsetAt st k.row k.seg (-o.1) (-o.2)).map fun p =>
      (instAt k.stream t p.1 p.2, instCreated s k.stream t p.1 p.2))).eraseDups

/-- A stripe's reference count has reached zero (R46); without a binding nothing refers to it. -/
def stripeFreeable (s : State) (k : Stripe) : Bool :=
  k.announced && (!(stream s k.stream).bound || (stripeReaders s k).all (instGone s))

/-- The old bank of an engine is free once every raw stripe before the boundary has been freed (R115). -/
def bankPass (s : State) : State :=
  thread (fun s' (e : Nat × BEngine) =>
    let x := getF s' Reg.BE_CTL_STREAM e.1 0
    if e.2.oldBusy && !(s'.stripes.any fun k => k.stream = x && k.row < e.2.since) && e.2.since ≤ (stream s' x).row then
      updEngine s' e.1 fun k => { k with oldBusy := false }
    else s') s s.engines

/-- Free what no consumer holds any longer, down the chains of R46. -/
def freePass (s : State) : State :=
  let one := fun (s' : State) (_ : Nat) => { s' with jobs := s'.jobs.filter fun j => !jobFreeable s' j }
  let s1 := thread one s (upto (s.jobs.length + 1))
  bankPass { s1 with stripes := s1.stripes.filter fun k => !stripeFreeable s1 k }

/-! ### Credit for records and tokens (R11, R374, R375) -/

/-- The job is over: retired or cancelled. -/
def jobOver (j : Job) : Bool := j.state = .retired || j.state = .cancelled

/-- The job has retired or been cancelled, though it may be under way again as a regeneration (R47). -/
def jobPast (j : Job) : Bool := jobOver j || j.regen

/-- Order number of a job's emit (R374). -/
def emitOrder (s : State) (j : Job) : Nat :=
  if j.kind = .host then bitsOf j.id.toNat 0 39 * 1024 + j.emits
  else
    let row := match tmplOf s j with | some t => (rowsOf t (idLow j.id)).getLastD 0 | none => 0
    row * 2 ^ 24 + idSeg j.id * 2 ^ 19 + j.tmpl * 2 ^ 10 + j.emits

/-- Stream of a job's records, or 0 for a host job. -/
def emitStream (j : Job) : Nat := if streamJob j then idStream j.id else 0

/-- Records staged by attempts, in the order of the jobs: the plan and the key of each. -/
def stagedRecs (s : State) : List (Nat × Nat) :=
  s.jobs.flatMap fun j => j.staged.filterMap fun k => match k with | .record _ key _ => some (j.plan, key.headD 0) | _ => none

/-- Places on chip that no record holds (R11). -/
def chipFree (s : State) : Nat := 2048 - (s.stage.filter fun k => !k.spilled).length

/-- The keys of the records that a plan's record area holds, or will hold of those staged, oldest first. -/
def areaKeys (s : State) (p : Nat) : List Nat :=
  ((s.stage.filter fun k => k.spilled && k.plan = p).map (·.key)) ++
    (((stagedRecs s).drop (chipFree s)).filter fun k => k.1 = p).map (·.2)

/-- Places of a plan's record area beyond the reserves of its streams. -/
def areaShared (s : State) (p : Nat) : Nat :=
  (plan s p).image.recordArea / 64 - 1024 * (s.streams.filter fun e => e.2.bound && e.2.plan = p).length

/-- The job holds the lowest pending key of its stream, and so may draw on the reserve (R375). -/
def lowestKey (s : State) (j : Job) : Bool :=
  streamJob j && s.jobs.all fun k => k.id = j.id || jobPast k || !streamJob k || idStream k.id ≠ idStream j.id ||
    emitOrder s { j with emits := 0 } ≤ emitOrder s { k with emits := 0 }

/-- Credit for a record (R375): a place on chip, in the record area beyond the reserves, or in the 1,024 of its stream's reserve. -/
def recordCredit (s : State) (j : Job) : Bool :=
  (stagedRecs s).length < chipFree s || (areaKeys s j.plan).length < areaShared s j.plan ||
  (lowestKey s j && (((areaKeys s j.plan).drop (areaShared s j.plan)).filter fun k => k = idStream j.id).length < 1024)

/-- Credit for a token: one of the 4,096 entries of the token store (R11, R390). -/
def tokenCredit (s : State) : Bool :=
  s.pm.tokens.length + (s.jobs.map fun j => (j.staged.filter fun k => match k with | .token _ _ => true | _ => false).length).sum < 4096

/-- Tasks that wait for the credit of a record or token and now have it become READY (R134). -/
def creditPass (s : State) : State :=
  wakeTasks s fun _ w => match w with
    | .recordCredit id => (jobOf s id).elim false (recordCredit s)
    | .tokenCredit => tokenCredit s
    | _ => false

/-- After jobs or stripes have changed: free, write waiting stripes, wake what waits for credit, regenerate, and let jobs become
eligible. -/
def settle (s : State) : State :=
  let s1 := creditPass (writeWaiting (freePass s))
  eligPass (thread (fun s' (_ : Nat) => regenPass s') s1 (upto 16))

/-! ### Creating jobs (R34) -/

def newJob (id : JobId) (kind : JobKind) (p tm prio : Nat) : Job :=
  { id := id, kind := kind, plan := p, tmpl := tm, state := .waiting, attempt := 0, restarts := 0, place := none,
    prio := prio, eligAt := 0, restarted := false, regen := false, awaitEsc := false, abortOrder := none,
    cancelling := false, cancelDetail := 0, ended := false, adds := [], attemptObj := 0, staged := [],
    poisonOut := false, activeCyc := 0, waitNs := 0, validLines := 0, substituted := false,
    lost := false, regenOf := [], submitted := decide (kind ≠ .host), claim := none, outs := [], gap := false, measures := [], stats := [], emits := 0,
    lastExc := none, args := [], tokens := [], ring := 0, startNs := 0,
    waitEnd := none }

/-- The job of a JOB_SUBMIT descriptor, created when that is fetched (R34); it starts with its descriptor. -/
def hostJob (s : State) (d : Desc) : Job :=
  { newJob (hostId d.ring d.seq) .host (descPlan d) (descTmpl d) (getF s Reg.QM_RING_CFG_PRIO d.ring 0) with
    args := (upto 6).map fun i => BitVec.ofNat 64 (descArg d i), ring := d.ring }

/-- A host job that does not run is gone. -/
def dropJob (s : State) (id : JobId) : State := { s with jobs := s.jobs.filter fun j => j.id != id }

def addJob (s : State) (j : Job) : State := if (jobOf s j.id).isSome then s else { s with jobs := s.jobs ++ [j] }

/-- Create the jobs of stripe (r, g): one for each stripe template, and for a band whose first stripe-job this is, its
band-job (R34). -/
def createStripeJobs (s : State) (x r g valid : Nat) : State :=
  let k := stream s x
  thread (fun s' (t : Template) =>
    let j := newJob (instAt x t r g) (if t.kind = 2 then .band else .stripe) k.plan t.index k.prio
    if t.kind = 1 then addJob s' { j with validLines := valid }
    else if t.kind = 2 && r % t.bandRows = 0 && g % t.bandSegs = 0 then addJob s' j else s') s (templates s k.plan)

/-! ### Abort orders (R43) -/

/-- The job holds a context or a slot. -/
def holdsPlace (j : Job) : Bool := [JobState.dispatched, .running, .suspended].contains j.state

/-- An abort signal is on its way to a job, with its cause; the first one stands. -/
def orderAbort (s : State) (id : JobId) (cause : Nat) : State :=
  updJob s id fun j => if holdsPlace j && j.abortOrder.isNone then { j with abortOrder := some cause } else j

/-- The jobs whose outputs a job reads, halo entries among them, that have written the byte at an address. -/
def producersAt (s : State) (j : Job) (t : Template) (addr : Nat) : List JobId :=
  ((t.deps ++ t.halo).flatMap fun d => (depInsts s (idStream j.id) j.plan t (idLow j.id) (idSeg j.id) d).map (·.1)).eraseDups.filter fun i =>
    (jobOf s i).elim false fun k => k.outs.any fun r => r.1 ≤ addr && addr < r.1 + r.2

/-- A retained input of a job fails its detection code (R47): a raw stripe at `addr` sends the job to the mirror copy, or,
when both copies have failed, to substituted lines with a RAW_LOST record; any other input has the job that wrote it re-run. -/
def badInput (s : State) (id : JobId) (addr : Nat) : State :=
  let base := fld s Reg.IG_RET_BASE
  let half := fld s Reg.IG_RET_SIZE / 2
  if base ≤ addr && addr < base + 2 * half then
    let b := base + half ≤ addr
    let u := ((addr - base) % half) / 4096
    match s.stripes.find? fun k => match k.units with | some p => p.1 ≤ u && u < p.1 + p.2 | none => false with
    | none => s
    | some k =>
      let both := if b then k.lostA else k.lostB
      let s1 := updStripe s k.stream k.row k.seg fun e => if b then { e with lostB := true } else { e with lostA := true }
      if both && !(k.lostA && k.lostB) then
        let st := stream s k.stream
        let s3 := updStripe s1 k.stream k.row k.seg fun e => { e with gapFlag := true }
        gapRecord (updJob s3 id fun j => { j with substituted := true }) k.stream 3 st.h (k.row * st.h)
          (leNat ((k.image.drop 128).take 8)) (2 ^ k.seg)
      else s1
  else match jobOf s id with
    | none => s
    | some j => match tmplOf s j with
      | none => s
      | some t =>
        if !streamJob j then s
        else
          updJob s id fun k => { k with regenOf := (k.regenOf ++ producersAt s j t addr).eraseDups }

/-- A raw stripe image refilled by R108 for a job restarted on substituted lines: every line as dropped. -/
def substitute (s : State) (k : Stripe) : Stripe :=
  let st := stream s k.stream
  let z := (upto st.h).map fun _ => ({ Line.none with gap := .rawLost }, st.lastLine.elim 0 fun l =>
    if bit s Reg.IG_STREAM_FMT_FILL 0 k.stream then leNat l else 0)
  { k with image := stripeImage st k.stream k.row k.seg z, valid := 0 }

/-- A check stops an attempt (R188, R221, R302, R55): the abort is ordered, and the report goes to the fault manager. -/
def attemptFails (s : State) (id : JobId) (r : Report) : State := report (orderAbort s id r.cause) r

/-! ### Places -/

/-- Count in a counter of a logical tile's window. -/
def cntT (s : State) (f : Fld) (t n : Nat) : State :=
  match physOf s t with
  | some p => addF s f p 0 n
  | none => s

/-- The job of a task or of an engine's slot that waits is SUSPENDED (R134). -/
def suspendJob (s : State) (id : JobId) : State := updJob s id fun j => { j with state := .suspended, waitNs := nowNs s }

/-- A range joins a list of ranges: nothing new where one holds it already; one that follows the last is part of it. -/
def addRange (l : List (Nat × Nat)) (a n : Nat) : List (Nat × Nat) :=
  if l.any fun r => r.1 ≤ a && a + n ≤ r.1 + r.2 then l
  else match l.getLast? with
    | some r => if r.1 + r.2 = a then l.dropLast ++ [(r.1, r.2 + n)] else l ++ [(a, n)]
    | none => [(a, n)]

/-- An address lies in a private buffer of a context (R275), which no other job reads. -/
def isPrivate (s : State) (a : Nat) : Bool :=
  match region s a with
  | .sp t o => (tile s t).handles.any fun h =>
      128 ≤ h.1 && h.2.valid && bankBase h.2.bank + 128 * h.2.base ≤ o && o < bankBase h.2.bank + 128 * (h.2.base + h.2.len)
  | _ => false

/-- A job has written bytes of DRAM or of a buffer that others may read (R47, R193). -/
def noteOut (s : State) (id : JobId) (a n : Nat) : State :=
  if isPrivate s a then s else updJob s id fun k => { k with outs := addRange k.outs a n }

/-- The job of a context. -/
def ctxJob (s : State) (t c : Nat) : Option Job := (ctxOf s t c).job.bind (jobOf s)

/-- A context of a tile holds a job whose template names a handle of its plan. -/
def handleNamed (s : State) (t p h : Nat) : Bool :=
  (upto 8).any fun c => (ctxJob s t c).elim false fun j =>
    j.plan = p && (tmplOf s j).elim false fun k => k.handles.contains h

/-- A rotated chunk leaves its source tile once no context there holds a job whose template names its handle (R308). -/
def evictPass (s : State) (t : Nat) : State :=
  updTile s t fun u => { u with handles := u.handles.map fun h =>
    if h.2.evict && !handleNamed s t h.2.plan h.1 then (h.1, { h.2 with present := false, evict := false }) else h }

/-- Free the context or slot a job holds: private handles are cleared (R275), chunks that only it held back are evicted. -/
def freePlace (s : State) (id : JobId) : State :=
  match jobOf s id with
  | none => s
  | some j =>
    let s1 := match j.place with
      | some (.tile t c) =>
        let s0 := updTile s t.val fun u =>
          { u with ctxs := mset Ctx.empty u.ctxs c.val Ctx.empty,
                   handles := u.handles.filter fun h => !(128 + 16 * c.val ≤ h.1 && h.1 < 144 + 16 * c.val),
                   cbs := mdel u.cbs c.val,
                   running := if u.running = some c.val then none else u.running,
                   haltReq := if u.haltReq = some c.val then none else u.haltReq }
        evictPass s0 t.val
      | some (.engine b _) => updEngine s b.val fun e => { e with slots := e.slots.filter fun k => k.2 != id }
      | none => s
    updJob s1 id fun k => { k with place := none }

/-! ### Adds on behalf of a job (R277 to R279) -/

/-- Distinct COMMIT objects a job adds to, at hand and in its array's queue (R278). -/
def commitObjs (s : State) (id : JobId) : List Nat :=
  let here := (jobOf s id).elim [] fun j => j.adds.map (·.1)
  let queued := (s.tiles.flatMap fun t => t.2.mxq).filterMap fun e => match e.cmd with
    | .signal _ o _ _ => if e.job = id && (obj s o).kind = 0 then some o else none
    | _ => none
  (here ++ queued).eraseDups

/-- The object would be a job's seventeenth COMMIT object (R278). -/
def commitFull (s : State) (id : JobId) (n : Nat) : Bool :=
  (obj s n).kind = 0 && !(commitObjs s id).contains n && 16 ≤ (commitObjs s id).length

/-- Add to an object on behalf of a job (R277, R279): COMMIT adds wait for its retirement. -/
def jobAdds (s : State) (id : JobId) (n v : Nat) : State :=
  if (obj s n).kind = 0 then
    updJob s id fun j =>
      { j with adds := if j.adds.any fun a => a.1 = n then
          j.adds.map fun a => if a.1 = n then (n, a.2 + v) else a
        else j.adds ++ [(n, v)] }
  else addObj s n v id

/-! ### Slot-state checking (R286) -/

/-- Slots of checked queues on a tile that a range touches: queue, slot. -/
def touchedSlots (s : State) (t a n : Nat) : List (Queue × Nat) :=
  s.queues.flatMap fun e =>
    let q := e.2
    let b := slotAddr s q 0
    if q.alloc && q.decl.slotchk && !q.decl.inDram && q.decl.tile = t && b < a + n && a < b + q.decl.depth * slotBytes q then
      ((upto q.decl.depth).filter fun k => slotAddr s q k < a + n && a < slotAddr s q k + slotBytes q).map fun k => (q, k)
    else []

/-- An access to a slot is allowed to an agent that is attached as one of `ends` and works for the job `id`. In a HALO queue the
consumers that hold the entry may read it, and its producer may touch it while it fills it, also again (R50; log 22). -/
def slotAllowed (ends : List QEnd) (id : JobId) (write : Bool) (q : Queue) (k : Nat) : Bool :=
  let e := slot q k
  if q.decl.kind = 2 then
    if e.refs.head? == some id then decide (e.state = .filling) || decide (e.entry + 1 = q.tail) else e.refs.contains id && !write
  else
    (ends.contains q.prod && decide (e.state = .filling)) ||
    (ends.contains q.cons && (decide (e.state = .draining) || (!write && decide (e.state = .released))))

/-- A consumer whose input a write has changed. -/
def slotVictims (id : JobId) (q : Queue) (k : Nat) : List JobId :=
  let e := slot q k
  match q.cons with
  | .job v => if v ≠ id && [SlotState.full, .draining, .released].contains e.state then [v] else []
  | _ => []

/-- Judge accesses (address, bytes, write) of an agent on a tile after they have been made: the accessing attempt aborts, and with
it a consumer whose input a write has changed. `rep` is the report that names the place. -/
def slotJudgeBy (s : State) (t : Nat) (ends : List QEnd) (id : JobId) (rep : Report) (acc : List (Nat × Nat × Bool)) : State :=
  if !(match physOf s t with | some p => bit s Reg.TA_SLOT_CTL_EN p 0 | none => false) then s
  else
    let hits := acc.flatMap fun x => (touchedSlots s t x.1 x.2.1).map fun q => (q, x.2.2)
    let bad := hits.filter fun x => !slotAllowed ends id x.2 x.1.1 x.1.2
    let victims := (bad.filter (·.2)).flatMap fun x => slotVictims id x.1.1 x.1.2
    if bad.isEmpty then s
    else thread (fun s' v => orderAbort s' v 0) (attemptFails (cntT s Reg.TA_CNT_SLOTPROT t 1) id rep) victims

/-- Accesses of a job's own task or of its array runs. -/
def slotJudge (s : State) (t : Nat) (id : JobId) (rep : Report) (acc : List (Nat × Nat × Bool)) : State :=
  slotJudgeBy s t [.job id] id rep acc

/-- The tile stream unit makes every access that comes from outside a tile: those in a scratchpad are judged, each for its tile. -/
def unitJudge (s : State) (ends : List QEnd) (id : JobId) (acc : List (Nat × Nat × Bool)) : State :=
  thread (fun s' (x : Nat × Nat × Bool) => match region s' x.1 with
    | .sp t _ => slotJudgeBy s' t ends id { mkReport 0x09 .tile ((physOf s' t).getD 0) 0 id 0 with loc := x.1 } [x]
    | _ => s') s acc

/-- Accesses for a stream context. -/
def streamJudge (s : State) (e c : Nat) (acc : List (Nat × Nat × Bool)) : State :=
  unitJudge s [.stream e c, .job (holderJob (sctx s e c))] (holderJob (sctx s e c)) acc

end Sys2Proof.Machine
end

