-- ==== Sys2Proof/Machine/StreamEngines.lean ====
section
/-! DEFINITION. Stream engines: descriptors, walks, the compression of R264, slots, completion, cancellation, and the
commands that drive them (R290 to R316). -/

namespace Sys2Proof.Machine

/-- Count in a counter of a stream engine. -/
def cntE (s : State) (f : Fld) (e n : Nat) : State := addF s f e 0 n

/-! ### The descriptor (R292) -/

/-- The fields of a descriptor's 128 bytes; counts and lengths with their minus one undone, unused levels as one pass. -/
def sdescOf (bs : List Byte) : SDesc :=
  let w := fun (o n : Nat) => leNat ((bs.drop o).take n)
  let b := fun (o n lo k : Nat) => bitsOf (w o n) lo k
  let dims := b 0 4 4 2
  let lvl := fun (i v : Nat) => if i ≤ dims then v + 1 else 1
  { srcMode := b 0 4 0 2, dstMode := b 0 4 2 2, dims := dims, frc := b 0 4 6 2, frcEl := b 0 4 8 1,
    bar := b 0 4 9 1 = 1, last := b 0 4 10 1 = 1, m5c := b 0 4 11 1 = 1, urg := b 0 4 12 2, cmpl := b 0 4 14 2,
    urgv := b 0 4 16 16, len0 := b 4 4 0 20 + 1, src := w 8 6, dst := w 16 6,
    cnt1 := lvl 1 (w 24 2), cnt2 := lvl 2 (w 26 2), cnt3 := lvl 3 (w 28 2),
    sstr := [sgn 32 (w 32 4), sgn 32 (w 36 4), sgn 32 (w 40 4)], dstr := [sgn 32 (w 48 4), sgn 32 (w 52 4), sgn 32 (w 56 4)],
    tag := w 64 2, tagStep := w 66 2, hent := w 68 1, hentEn := b 68 4 8 1 = 1, so := b 72 4 0 14, soAdd := w 76 4,
    waitSo := b 80 4 0 14, waitEn := b 80 4 14 1 = 1, waitVal := w 84 4, ring := b 88 4 0 21, hiWm := w 92 2, loWm := w 94 2,
    user := BitVec.ofNat 64 (w 96 8),
    reservedOk := b 0 4 0 2 ≠ 3 && b 0 4 2 2 ≠ 3 && b 0 4 6 2 ≠ 3 && b 0 4 12 2 ≠ 3 && b 4 4 20 12 = 0 && w 14 2 = 0 &&
      w 22 2 = 0 && w 30 2 = 0 && w 44 4 = 0 && w 60 4 = 0 && b 68 4 9 23 = 0 && b 72 4 14 18 = 0 && b 80 4 15 17 = 0 &&
      b 88 4 21 11 = 0 && ((bs.drop 104).all fun x => x = 0) }

/-- Level indices i1, i2, i3 and byte of position `n`. -/
def walkIx (d : SDesc) (n : Nat) : Nat × Nat × Nat × Nat :=
  let r := n / d.len0
  (r % d.cnt1, r / d.cnt1 % d.cnt2, r / d.cnt1 / d.cnt2, n % d.len0)

/-- Offset of position `n` from the base, for an incrementing side. -/
def walkOfs (d : SDesc) (str : List Int) (n : Nat) : Int :=
  let i := walkIx d n
  (i.1 : Int) * str.getD 0 0 + (i.2.1 : Int) * str.getD 1 0 + (i.2.2.1 : Int) * str.getD 2 0 + (i.2.2.2 : Int)

def frcRatio (d : SDesc) : Nat := if d.frc = 2 then 4 else if d.frc = 1 then 2 else 1

/-- Address of position `n` of an incrementing or fixed side; `div`: the ratio on the DRAM side of a compressed transfer. -/
def plainAddr (d : SDesc) (mode base : Nat) (str : List Int) (div n : Nat) : Nat :=
  let o : Int := if mode = 1 then ((n % d.len0 : Nat) : Int) else walkOfs d str n
  (((base : Int) + o / (div : Int)) % (2 ^ 48 : Nat)).toNat

/-- Lowest and highest offset of an incrementing or fixed side, before any division. -/
def spanOfs (d : SDesc) (mode : Nat) (str : List Int) : Int × Int :=
  let ext := if mode = 1 then [] else [((d.cnt1 : Int) - 1) * str.getD 0 0, ((d.cnt2 : Int) - 1) * str.getD 1 0, ((d.cnt3 : Int) - 1) * str.getD 2 0]
  ((ext.map fun x => min 0 x).sum, (ext.map fun x => max 0 x).sum + (d.len0 : Int) - 1)

/-! ### Sides -/

/-- A side lies in DRAM: its base, or its queue's slots. -/
def sideDram (s : State) (d : SDesc) (dst : Bool) : Bool :=
  match sideQueue d dst with
  | some q => (queue s q).decl.inDram
  | none => (if dst then d.dst else d.src) < dramTop

def sideSp (s : State) (d : SDesc) (dst : Bool) : Bool :=
  match sideQueue d dst with
  | some q => !(queue s q).decl.inDram
  | none => match region s (if dst then d.dst else d.src) with | .sp _ _ => true | _ => false

/-- Division of offsets on a side: the compression ratio on the DRAM side. -/
def sideDiv (s : State) (d : SDesc) (dst : Bool) : Nat := if d.frc ≠ 0 && sideDram s d dst then frcRatio d else 1

/-- Device address of position `n` on a side; for a queue, `first` is the first slot the descriptor took. -/
def sideAddr (s : State) (d : SDesc) (dst : Bool) (first : Option Nat) (n : Nat) : Nat :=
  match sideQueue d dst with
  | some q =>
    let u := queue s q
    slotAddr s u (first.getD 0 + n / slotBytes u) + n % slotBytes u / sideDiv s d dst
  | none =>
    if dst then plainAddr d d.dstMode d.dst d.dstr (sideDiv s d true) n
    else plainAddr d d.srcMode d.src d.sstr (sideDiv s d false) n

/-! ### Checks at the start (R293, R296, R297, R299) -/

/-- The plans that count as the holder's. -/
def planIsHolders (s : State) (k : SCtx) (p : Nat) : Bool :=
  match k.holder with
  | .job id => (jobOf s id).elim false fun j => j.plan = p
  | .plan q => q = p
  | .host | .none => (plan s p).loaded

def queueSideOk (s : State) (k : SCtx) (d : SDesc) (dst : Bool) : Bool :=
  match sideQueue d dst with
  | none => true
  | some q =>
    let u := queue s q
    u.alloc && planIsHolders s k u.plan && (if dst then u.decl.prod else u.decl.cons) = 1 &&
      walkBytes d % slotBytes u = 0

/-- The object a completion add names is acceptable. -/
def addOk (s : State) (k : SCtx) (d : SDesc) : Bool :=
  let o := obj s d.so
  d.cmpl % 2 = 0 || (o.alloc && planIsHolders s k o.plan && o.kind ≠ 2 &&
    (o.kind ≠ 1 || (match k.holder with | .job id => o.owner = some id | _ => false)))

/-- The base of a side and the strides of the levels in use are multiples of 128, where its mode heeds them (R292, R295). -/
def sideRows (d : SDesc) (mode base : Nat) (str : List Int) : Bool :=
  (mode = 2 || base % 128 = 0) && (mode ≠ 0 || (str.take d.dims).all fun x => x % 128 = 0)

/-- A side lies in DRAM and is no queue. -/
def plainDram (d : SDesc) (dst : Bool) : Bool := (sideQueue d dst).isNone && (if dst then d.dst else d.src) < dramTop

/-- FRC combines DRAM with a scratchpad or a queue in a scratchpad, in multiples of 128 (R297). -/
def frcOk (s : State) (d : SDesc) : Bool :=
  d.frc = 0 ||
  (((plainDram d false && sideSp s d true) || (sideSp s d false && plainDram d true)) && d.len0 % 128 = 0 &&
   sideRows d d.srcMode d.src d.sstr && sideRows d d.dstMode d.dst d.dstr)

def badDesc (s : State) (k : SCtx) (d : SDesc) : Bool :=
  !d.reservedOk || (d.urg ≠ 0 && d.urgv = 0) || (d.hiWm ≠ 0 && d.hiWm ≤ d.loWm) || !queueSideOk s k d false ||
  !queueSideOk s k d true || (d.hentEn && d.dstMode = 2) || !addOk s k d ||
  (d.waitEn && !((obj s d.waitSo).alloc && planIsHolders s k (obj s d.waitSo).plan)) ||
  (d.m5c && !(d.srcMode ≠ 2 && hostBase ≤ d.src && d.src < peerBase)) || !frcOk s d

/-- The span of an incrementing or fixed side: lowest and highest device address. -/
def spanOf (s : State) (d : SDesc) (dst : Bool) : Int × Int :=
  let base : Int := (if dst then d.dst else d.src : Nat)
  let o := if dst then spanOfs d d.dstMode d.dstr else spanOfs d d.srcMode d.sstr
  (base + o.1 / (sideDiv s d dst : Int), base + (o.2 + 1) / (sideDiv s d dst : Int) - 1)

/-- Every byte of a span lies where the side may (R296). -/
def spanOk (s : State) (lo hi : Int) (dst : Bool) : Bool :=
  0 ≤ lo && hi < (2 ^ 48 : Nat) &&
  match region s lo.toNat, region s hi.toNat with
  | .dram, .dram => !dst || hi.toNat < s.dram.rb || s.dram.rb + s.dram.rs ≤ lo.toNat
  | .sp t _, .sp u _ => t = u
  | .host _, .host _ => true
  | .peer p _, .peer q _ => dst && p = q
  | _, _ => false

/-- The DRAM side of a compressed transfer keeps clear of the retention area. -/
def frcClear (s : State) (lo hi : Int) : Bool :=
  !(lo.toNat < dramTop) || hi.toNat < s.dram.rb || s.dram.rb + s.dram.rs ≤ lo.toNat

/-- The handle entry of R299: the tile, and whether the span lies within its buffer. -/
def hentTile (s : State) (d : SDesc) : Option Nat :=
  let p := spanOf s d true
  match region s p.1.toNat with
  | .sp t o =>
    let h := handleOf s t d.hent
    let a := bankBase h.bank + 128 * h.base
    if h.valid && a ≤ o && o + (p.2 - p.1).toNat < a + 128 * h.len then some t else none
  | _ => none

def badAddress (s : State) (d : SDesc) : Bool :=
  let side := fun (dst : Bool) =>
    let p := spanOf s d dst
    (sideQueue d dst).isSome || (spanOk s p.1 p.2 dst && (d.frc = 0 || frcClear s p.1 p.2))
  !(side false && side true) || (d.hentEn && (hentTile s d).isNone)

/-! ### Fixed-rate compression (R264 to R266) -/

/-- Code parameters: element bits, bits of the shift, its largest value, values in a block, bits of a residual. -/
structure Frc where
  el : Nat
  shBits : Nat
  shMax : Nat
  nv : Nat
  b : Nat
  bytes : Nat
  deriving DecidableEq, Repr

def frcOf (el ratio : Nat) : Frc :=
  if el = 0 then (if ratio = 2 then ⟨8, 3, 7, 32, 3, 16⟩ else ⟨8, 3, 7, 16, 3, 8⟩)
  else (if ratio = 2 then ⟨16, 4, 15, 32, 7, 32⟩ else ⟨16, 4, 15, 16, 6, 16⟩)

/-- (v − m) / 2^sh, rounded with ties away. -/
def frcRes (m : Int) (sh : Nat) (v : Int) : Int := roundAway { m := v - m, e := -(sh : Int) }

/-- Code a block of 32 elements. -/
def frcPack (k : Frc) (xs : List Int) : List Byte :=
  let v := if k.nv = 32 then xs else (upto 16).map fun i => roundAway { m := xs.getD (2 * i) 0 + xs.getD (2 * i + 1) 0, e := -1 }
  let m := roundAway { m := v.sum, e := if k.nv = 32 then -5 else -4 }
  let lim : Int := (2 ^ (k.b - 1) : Nat)
  let fits := fun (sh : Nat) => v.all fun x => decide (-lim ≤ frcRes m sh x) && decide (frcRes m sh x ≤ lim - 1)
  let sh := ((upto k.shMax).find? fits).getD k.shMax
  let q := v.map fun x => unsgn k.b (max (-lim) (min (lim - 1) (frcRes m sh x)))
  natLE k.bytes (unsgn k.el m + sh * 2 ^ k.el + packVal k.b q * 2 ^ (k.el + k.shBits))

/-- Expand a block; none for a block that cannot be a coded one (R265). -/
def frcUnpack (k : Frc) (bs : List Byte) : Option (List Int) :=
  let n := leNat bs
  let used := k.el + k.shBits + k.nv * k.b
  let sh := bitsOf n k.el k.shBits
  if n / 2 ^ used ≠ 0 || k.shMax < sh then none
  else
    let y := fun (i : Nat) => satInt k.el (sgn k.el n + sgn k.b (n / 2 ^ (k.el + k.shBits + i * k.b)) * (2 ^ sh : Nat))
    some ((upto 32).map fun i => y (if k.nv = 32 then i else i / 2))

/-- Element j of channel c of a 128-byte row. -/
def rowElem (el : Nat) (row : List Byte) (c j : Nat) : Int :=
  if el = 0 then sgn 8 ((row.getD (j * 4 + c) 0).toNat) else sgn 16 (leNat ((row.drop (2 * (j * 2 + c))).take 2))

def rowChans (el : Nat) : Nat := if el = 0 then 4 else 2

/-- Whether any element of channel c of a row is poisoned. -/
def rowPoison (el : Nat) (row : List (Byte × Bool)) (c : Nat) : Bool :=
  (upto 32).any fun j => if el = 0 then (row.getD (j * 4 + c) (0, false)).2
    else (row.getD (2 * (j * 2 + c)) (0, false)).2 || (row.getD (2 * (j * 2 + c) + 1) (0, false)).2

/-- Compress a row, block by block. -/
def frcRow (el ratio : Nat) (row : List (Byte × Bool)) : List (Byte × Bool) :=
  (upto (rowChans el)).flatMap fun c =>
    let bs := row.map (·.1)
    (frcPack (frcOf el ratio) ((upto 32).map fun j => rowElem el bs c j)).map fun x => (x, rowPoison el row c)

/-- Expand a compressed row. -/
def frcUnrow (el ratio : Nat) (bs : List (Byte × Bool)) : List (Byte × Bool) :=
  let k := frcOf el ratio
  let blocks := (upto (rowChans el)).map fun c =>
    let part := (bs.drop (c * k.bytes)).take k.bytes
    let v := frcUnpack k (part.map (·.1))
    (v.getD [], part.any (·.2) || v.isNone)
  (upto 128).map fun i =>
    let c := if el = 0 then i % 4 else i / 2 % 2
    let j := i / 4
    let blk := blocks.getD c ([], true)
    let u := unsgn k.el (blk.1.getD j 0)
    (BitVec.ofNat 8 (if el = 0 then u else if i % 2 = 0 then u else u / 256), blk.2)

/-! ### Fills of handle entries (R275, R299) -/

/-- Waiting tasks of a tile that wait for rows of an entry. -/
def wokenLanding (s : State) (t e : Nat) : Nat → WaitFor → Bool := fun u w =>
  match w with
  | .landing f n => decide (u = t) && decide (f = e) && (!(handleOf s t e).filling || decide (n ≤ 128 * (handleOf s t e).landed))
  | _ => false

/-- A fill ends: present with every row landed, or absent. -/
def endFill (s : State) (t e : Nat) (ok : Bool) : State :=
  let s1 := updHandle s t e fun h =>
    { h with filling := false, byStream := false, present := ok, landed := if ok then h.len else 0 }
  wakeTasks s1 (wokenLanding s1 t e)

/-- A fill begins. -/
def beginFill (s : State) (t e : Nat) (stream : Bool) (tag : Nat) : State :=
  updHandle s t e fun h => { h with present := true, filling := true, landed := 0, byStream := stream, tag := tag, evict := false }

/-- A chunk that a plan's standing descriptor has copied from one tile's shared buffer to another tile's is to leave its source
(R308): at once, or when no job there needs it. -/
def rotateOut (s : State) (k : SCtx) (d : SDesc) : State :=
  match k.holder, (if d.hentEn then hentTile s d else none) with
  | .plan p, some t =>
    let o := spanOf s d false
    match region s o.1.toNat with
    | .sp u at0 =>
      if u = t || d.srcMode = 2 then s
      else
        let gone := fun (h : Nat × Handle) =>
          let a := bankBase h.2.bank + 128 * h.2.base
          h.1 < 128 && h.2.valid && h.2.present && h.2.plan = p && a ≤ at0 && at0 + (o.2 - o.1).toNat < a + 128 * h.2.len
        let mark := fun (h : Nat × Handle) => if gone h then (h.1, { h.2 with evict := true }) else h
        evictPass (updTile s u fun x => { x with handles := x.handles.map mark }) u
    | _ => s
  | _, _ => s

/-! ### Ends of descriptors and batches (R300 to R302, R309, R310) -/

/-- The position in the walk as R301 lays it out. -/
def posWord (d : SDesc) (n : Nat) : Nat :=
  let i := walkIx d n
  i.1 % 65536 + i.2.1 % 65536 * 2 ^ 16 + i.2.2.1 % 65536 * 2 ^ 32

/-- Completion record of R301. Its byte count is that of the destination, where FRC may divide it. -/
def seRecord (s : State) (e c status : Nat) (r : SRun) (halted : Bool) : List Byte :=
  let d := r.f.d
  natLE 4 (status + e * 2 ^ 8 + c * 2 ^ 13) ++ zeros 4 ++ natLE 8 r.f.addr ++ natLE 8 d.user.toNat ++
    natLE 8 (r.landed / sideDiv s d true) ++
    natLE 8 (nowNs s) ++ natLE 8 (if halted then posWord d r.landed else 0) ++
    natLE 4 (if halted then r.landed % d.len0 else 0) ++ zeros 12

/-- Post a completion record to its ring, of the stream-engine completion format (R355); none of a context whose attempt aborts (R311). -/
def seComplete (s : State) (e c status : Nat) (r : SRun) (halted : Bool) : State :=
  if r.f.d.cmpl / 2 = 1 && !(sctx s e c).silent then
    if ringIs s r.f.d.ring 1 1 then ringPut s r.f.d.ring false (seRecord s e c status r halted) else cnt s Reg.QM_CNT_MISROUTE
  else s

/-- Detach a context from the queue ends it holds itself. -/
def detach (s : State) (e c : Nat) : State :=
  overQueues s fun q =>
    let q1 := if q.prod = .stream e c then { q with prod := .none } else q
    if q1.cons = .stream e c then { q1 with cons := .none } else q1

/-- The batch is over: the shadow starts, or the context idles or is free. -/
def finishBatch (s : State) (e c : Nat) : State :=
  let s1 := detach s e c
  updSctx s1 e c fun k =>
    match k.shadow with
    | some a => { k with armed := some a, armFclk := k.shadowFclk, shadow := none, batch := [], run := [], state := .running,
                         silent := false, paced := false }
    | none =>
      match k.holder with
      | .host => k.released
      | .none => k.released
      | _ => if k.silent then k.released else { k with batch := [], run := [], state := .heldIdle }

/-- A holder lets go of every context it has. -/
def releaseSctx (s : State) (h : Holder) : State :=
  thread (fun s' (e : Nat × SCtx) => if e.2.holder = h then updSctx s' (e.1 / 64) (e.1 % 64) SCtx.released else s') s s.sctx

/-- The slots that a context holds at queue ends of its own go back (log 16). -/
def abandonEnds (s : State) (e c : Nat) : State :=
  overQueues s fun q =>
    let q1 := if q.prod = .stream e c then (if q.decl.kind = 2 then haloReturn q 0 else prodAbort q) else q
    if q1.cons = .stream e c && q1.decl.kind ≠ 2 then consAbort q1 else q1

/-- A descriptor's fill of a handle entry comes to its end (R299). -/
def endHent (s : State) (d : SDesc) (ok : Bool) : State :=
  match if d.hentEn then hentTile s d else none with
  | some t => if (handleOf s t d.hent).byStream then endFill s t d.hent ok else s
  | none => s

/-- The completion add (R300): a COMMIT add of a job waits for its retirement (R277), and a job's seventeenth COMMIT object is an
illegal operand (R278). -/
def seAdd (s : State) (k : SCtx) (e c : Nat) (r : SRun) : State :=
  let d := r.f.d
  if d.cmpl % 2 = 0 then s
  else match k.holder with
    | .job id => if commitFull s id d.so then attemptFails s id (mkReport 0x02 .stream e r.f.addr id c) else jobAdds s id d.so d.soAdd
    | _ => addObj s d.so d.soAdd 0

/-- A job's attempt ends with a descriptor's status (R302). -/
def statusAborts (s : State) (k : SCtx) (e c status addr : Nat) : State :=
  match k.holder with
  | .job id =>
    match status with
    | 2 => attemptFails s id (mkReport 0x18 .stream e addr id c)
    | 3 => attemptFails s id (mkReport 0x19 .stream e addr id c)
    | 5 => orderAbort s id 0
    | 6 => attemptFails s id (mkReport 0x08 .stream e addr id c)
    | _ => s
  | _ => s

/-- A descriptor ends with a status other than `HALTED`: actions in their order, then the rest of the batch. -/
def endDesc (s : State) (e c status : Nat) (r : SRun) : State :=
  let k := sctx s e c
  let d := r.f.d
  let s1 := cntE s Reg.SE_CNT_DESC e 1
  let s2 := if status = 0 then rotateOut (seAdd s1 k e c r) k d else s1
  let s3 := if status = 6 then s2 else seComplete s2 e c status r false
  let s4 := if k.run.any fun x => x.f.addr = r.f.addr then endHent s3 d (status = 0) else s3
  let s5 := updSctx s4 e c fun q => { q with last := status, run := q.run.filter fun x => x.f.addr ≠ r.f.addr }
  if status = 0 then
    if (sctx s5 e c).run.isEmpty && (sctx s5 e c).batch.isEmpty then finishBatch s5 e c else s5
  else
    let s6 := thread (fun s' (x : SRun) => endHent s' x.f.d false) s5 (sctx s5 e c).run
    let s7 := updSctx (abandonEnds s6 e c) e c fun q => { q with shadow := none, batch := [], run := [] }
    statusAborts (finishBatch (evSet s7 (128 + e)) e c) k e c status r.f.addr

/-- A descriptor that ends before any access. -/
def runOf (f : SFetched) : SRun :=
  { f := f, issued := 0, landed := 0, held := [], stopped := none, srcSlot := none, srcSlots := 0, dstSlot := none, dstSlots := 0,
    armFclk := 0 }

/-- Drained: the running descriptor ends with `CANCELLED`, with its record unless the cancel came from an abort; those started behind it
are discarded with the rest of the batch (R302, R310). -/
def finishCancel (s : State) (e c : Nat) : State :=
  let k := sctx s e c
  let s0 := match k.run with
    | r :: _ => seComplete (cntE s Reg.SE_CNT_DESC e 1) e c 1 r false
    | [] => s
  let s1 := thread (fun s' (r : SRun) => endHent s' r.f.d false) s0 k.run
  finishBatch (updSctx (abandonEnds s1 e c) e c fun q =>
    { q with last := if q.run.isEmpty then q.last else 1, run := [], batch := [],
             holder := match q.holder with | .job _ => .none | h => h }) e c

/-- What becomes of reads whose data nobody will take: those that have come are gone. -/
def dropReads (l : List SRead) : List SRead := (l.filter fun r => r.back.isNone).map fun r => { r with discard := true }

/-- Cancel a context (R310, R311): the shadow and what has not started are discarded, what has landed whole ends `OK`, and the rest drains.
A context that an abort cancels is free at once, and its reads are discarded as they return. -/
def cancelSctx (s : State) (e c : Nat) (silent : Bool) : State :=
  let k := sctx s e c
  if k.state = .free || k.state = .draining then s
  else
    let s0 := updSctx s e c fun q =>
      { q with shadow := none, armed := none, batch := [], silent := silent, reads := dropReads q.reads }
    let s1 := thread (fun s' r => endDesc s' e c 0 r) s0 (k.run.takeWhile fun r => r.landed = walkBytes r.f.d && r.stopped.isNone)
    if (sctx s1 e c).state = .free then s1
    else if silent || (sctx s1 e c).reads.isEmpty then finishCancel s1 e c
    else updSctx s1 e c fun q => { q with state := .draining }

/-- Cancel every context a job holds. -/
def cancelJobSctx (s : State) (id : JobId) (silent : Bool) : State :=
  thread (fun s' (p : Nat × SCtx) =>
    if p.2.holder = .job id then cancelSctx s' (p.1 / 64) (p.1 % 64) silent else s') s s.sctx

/-! ### Arming and fetching (R292, R309, R315) -/

/-- Arm a context for a holder. -/
def armSctx (s : State) (e c : Nat) (h : Holder) (attempt addr : Nat) : State :=
  updSctx s e c fun k => { k.released with
    holder := h, attempt := attempt, state := .running, armed := some (addr / 128 * 128), armFclk := s.clk.fclk }

/-- SE_CTX_ARM. -/
def execSeCtxArm (e : Fin 32) (c : Fin 64) (addr : Addr) (s : State) : Out :=
  let k := sctx s e.val c.val
  let a := addr.toNat / 128 * 128
  .next (
    if !answers s 0xE02000 then s
    else match k.holder with
    | .job _ | .plan _ => cntE s Reg.SE_CNT_HOST_REFUSED e.val 1
    | .none => armSctx s e.val c.val .host 0 a
    | .host =>
      if k.shadow.isNone then updSctx s e.val c.val fun q => { q with shadow := some a, shadowFclk := s.clk.fclk }
      else
        let s1 := cntE (setF s Reg.SE_CTX_STAT_REARM_REJ e.val c.val 1) Reg.SE_CNT_REARM_REJ e.val 1
        postEvent (evSet s1 (128 + e.val)) (getF s Reg.SE_ENG_CTL_EVT_RING e.val 0) 0x30 0 (e.val + c.val * 2 ^ 5) [a])

/-- The descriptors of a batch: up to the first with `LAST` or with poison. -/
def cutBatch : List SFetched → List SFetched
  | [] => []
  | f :: rest => if f.d.last || f.poison then [f] else f :: cutBatch rest

/-- Descriptors that a batch at an address can have: up to 16, as far as its region goes (R292). -/
def batchLen (s : State) (a : Nat) : Nat :=
  ((upto 16).takeWhile fun i => match region s a, region s (a + 128 * i) with
    | .dram, .dram => true
    | .sp t _, .sp u _ => t = u
    | _, _ => false).length

/-- SE_BATCH_FETCH: the batch is read, or ends at once. -/
def execSeBatchFetch (e : Fin 32) (c : Fin 64) (s : State) : Out :=
  let k := sctx s e.val c.val
  .next (match k.armed with
    | none => s
    | some a =>
      if !seEn s e.val || !k.batch.isEmpty || !k.run.isEmpty || k.state = .draining then s
      else
        let s0 := updSctx s e.val c.val fun q => { q with armed := none }
        let m := batchLen s a
        if m = 0 then
          let s1 := updSctx (cntE s0 Reg.SE_CNT_DESC e.val 1) e.val c.val fun q => { q with last := 3, shadow := none }
          statusAborts (finishBatch (evSet s1 (128 + e.val)) e.val c.val) k e.val c.val 3 a
        else
          let got := devRead s0 a (128 * m) .clean (holderJob k)
          let r := (got.1, streamJudge got.2 e.val c.val [(a, 128 * m, false)])
          let fs := (upto m).map fun i =>
            let part := (r.1.drop (128 * i)).take 128
            { addr := a + 128 * i, d := sdescOf (part.map (·.1)), poison := part.any (·.2) : SFetched }
          let cut := cutBatch fs
          if cut.any fun f => f.d.last || f.poison then updSctx r.2 e.val c.val fun q => { q with batch := cut }
          else match fs with
            | f :: _ => endDesc r.2 e.val c.val 2 (runOf f)
            | [] => r.2)

/-! ### Starting a descriptor (R293, R300) -/

/-- The end of a queue side is free for the context: free, its job's, or its own already. -/
def endFree (s : State) (k : SCtx) (e c : Nat) (d : SDesc) (dst : Bool) : Bool :=
  match sideQueue d dst with
  | none => true
  | some q =>
    let u := if dst then (queue s q).prod else (queue s q).cons
    u = .none || u = .stream e c || (match k.holder with | .job id => u = .job id | _ => false)

def attachEnd (s : State) (k : SCtx) (e c : Nat) (d : SDesc) (dst : Bool) : State :=
  match sideQueue d dst with
  | none => s
  | some q =>
    let me : QEnd := match k.holder with | .job id => .job id | _ => .stream e c
    updQueue s q fun u => if dst then { u with prod := me } else { u with cons := me }

/-- Every read of the started descriptors has been issued. -/
def allIssued (k : SCtx) : Bool := k.run.all fun r => r.issued = srcBytes r.f.d

/-- SE_DESC_START: once the barrier, the wait and the queue ends allow it, the next descriptor is checked and starts. -/
def execSeDescStart (e : Fin 32) (c : Fin 64) (s : State) : Out :=
  let k := sctx s e.val c.val
  let wait := noteWaiters (updSctx s e.val c.val fun q => { q with state := .waiting })
  .next (match k.batch with
    | [] => s
    | f :: rest =>
      if (k.state ≠ .running && k.state ≠ .waiting) || !allIssued k then s
      else if f.poison then
        if k.run.isEmpty then endDesc s e.val c.val 6 (runOf f) else s
      else if f.d.bar && !k.run.isEmpty then wait
      else if badDesc s k f.d then
        if k.run.isEmpty then endDesc s e.val c.val 2 (runOf f) else s
      else if f.d.waitEn && !syncMet s f.d.waitSo (BitVec.ofNat 64 f.d.waitVal) then wait
      else if badAddress s f.d then
        if k.run.isEmpty then endDesc s e.val c.val 3 (runOf f) else s
      else if !(endFree s k e.val c.val f.d false && endFree s k e.val c.val f.d true) then wait
      else
        let s1 := attachEnd (attachEnd s k e.val c.val f.d false) k e.val c.val f.d true
        let s2 := match if f.d.hentEn then hentTile s f.d else none with
          | some t => beginFill s1 t f.d.hent true f.d.tag
          | none => s1
        noteWaiters (updSctx s2 e.val c.val fun q =>
          { q with state := .running, batch := rest, paced := false, run := q.run ++ [{ runOf f with armFclk := k.armFclk }] }))

/-! ### Issuing reads (R291, R303 to R306) -/

/-- Reads outstanding of an engine. -/
def outReads (s : State) (e : Nat) : Nat := ((s.sctx.filter fun p => p.1 / 64 = e).map fun p => readsOut p.2).sum

/-- The shared limit on non-posted requests (R339). -/
def npLimit (s : State) : Nat := if s.hl.flit then 4096 else if s.hl.tags = 1 then 768 else 256

/-- The first tag that requests may carry, and how many there are (R338): 14-bit tags, 10-bit tags from 256 on, or 8-bit tags. -/
def tagSpace (s : State) : Nat × Nat := if s.hl.flit then (0, 16384) else if s.hl.tags = 1 then (256, 768) else (0, 256)

/-- A timed-out tag still rests (R349). -/
def tagRests (s : State) (q : Nat × Nat) : Bool := nowNs s < q.2

/-- `n` more non-posted requests may go out: the pool has room (R339), and so many tags neither serve a request nor rest (R349). -/
def npRoom (s : State) (n : Nat) : Bool :=
  s.hl.np.length + n ≤ npLimit s && s.hl.np.length + (s.hl.quarantined.filter (tagRests s)).length + n ≤ (tagSpace s).2

/-- Bytes left in a token bucket (R305); its deficit is kept in thousandths of a byte. Bucket 0 host reads, 1 host writes,
2 peer writes. -/
def bucketFld (b : Nat) : Fld × Fld :=
  match b with
  | 0 => (Reg.SE_BW_HRD_RATE, Reg.SE_BW_HRD_BURST)
  | 1 => (Reg.SE_BW_HWR_RATE, Reg.SE_BW_HWR_BURST)
  | _ => (Reg.SE_BW_PWR_RATE, Reg.SE_BW_PWR_BURST)

def bucketHas (s : State) (e b n : Nat) : Bool :=
  getF s (bucketFld b).1 e 0 = 0 || mget 0 s.bwTokens (3 * e + b) + 1000 * n ≤ getF s (bucketFld b).2 e 0 * 1024000

def bucketTake (s : State) (e b n : Nat) : State :=
  if getF s (bucketFld b).1 e 0 = 0 then s
  else { s with bwTokens := mupd 0 s.bwTokens (3 * e + b) fun v => v + 1000 * n }

/-- Bytes of a queue side from position `n` of the walk to the end of its slot. -/
def slotLeft (s : State) (d : SDesc) (dst : Bool) (n : Nat) : Option Nat :=
  (sideQueue d dst).map fun q => slotBytes (queue s q) - n % slotBytes (queue s q)

/-- The source address and the length of the next request of a run: within one unit, one inner run and one slot on either side. -/
def nextRead (s : State) (r : SRun) : Nat × Nat :=
  let d := r.f.d
  let n := r.issued
  let a := sideAddr s d false r.srcSlot n
  let left := min (srcBytes d - n) (if replayed d then srcBytes d else (slotLeft s d true n).getD (srcBytes d))
  if d.frc ≠ 0 then (a, 128)
  else
    let run := (slotLeft s d false n).getD (d.len0 - n % d.len0)
    let unit := match region s a with
      | .host x => min (min 4096 s.hl.mrrs) (4096 - hostAddr s x % 4096)
      | _ => 128 - a % 128
    (a, min left (min run unit))

/-- Reads of an earlier attempt of a job with the same low 8 bits are still outstanding (R43). -/
def tagBusy (s : State) (id : JobId) (attempt : Nat) : Bool :=
  s.sctx.any fun e => e.2.reads.any fun r => r.job = id && r.attempt ≠ attempt && r.attempt % 256 = attempt % 256 && r.back.isNone

/-- The attempt that holds a context may issue (R43). -/
def tagFree (s : State) (k : SCtx) : Bool :=
  match k.holder with | .job id => !tagBusy s id k.attempt | _ => true

def isHostAddr (s : State) (a : Nat) : Bool := match region s a with | .host _ => true | _ => false

/-- The slot, or the entry of a HALO queue, that a context takes next. -/
def nextSrc (s : State) (k : SCtx) (q : Nat) : Nat :=
  if (queue s q).decl.kind = 2 then mget 0 (queue s q).hpos (haloKey s k) else (queue s q).head

/-- The request that a run would issue next, with the slot of its source that it would take first. -/
def wouldRead (s : State) (k : SCtx) (r : SRun) : Nat × Nat :=
  nextRead s { r with srcSlot := r.srcSlot.or ((sideQueue r.f.d false).map fun q => nextSrc s k q) }

/-- A job's read of its tile's scratchpad that overlaps a store in the tile's buffer waits until that has committed (R150). -/
def storeHeld (s : State) (k : SCtx) (a n : Nat) : Bool :=
  match k.holder, region s a with
  | .job _, .sp t _ => (tile s t).sb.any fun e => e.addr < a + n && a < e.addr + e.bytes.length
  | _, _ => false

/-- A context is able to issue (R303). -/
def ableRead (s : State) (e : Nat) (k : SCtx) : Bool :=
  k.state = .running &&
  match issuing k with
  | none => false
  | some r =>
    let p := wouldRead s k r
    slotsReady s k r && outReads s e < 1024 && tagFree s k && !storeHeld s k p.1 p.2 &&
    (!isHostAddr s p.1 || (busMaster s && npRoom s 1 && bucketHas s e 0 p.2))

/-- Run-dry time in FCLK (R303); none for background. -/
def runDry (s : State) (r : SRun) : Option Nat :=
  match r.f.d.urg with
  | 1 =>
    let f := match sideQueue r.f.d true with
      | none => 0
      | some q => (slotsIn (queue s q) [.full] * slotBytes (queue s q)) + r.landed % slotBytes (queue s q)
    some (s.clk.fclk + f * 1000 / r.f.d.urgv)
  | 2 => some (r.armFclk + r.f.d.urgv * 1000)
  | _ => none

/-- The engines that feed, at a rate, the queue that a task has found dry (R303). -/
def dryFeeders (s : State) (w : WaitFor) : List Nat :=
  let dry := fun (q : Nat) => match w with
    | .pop p => p = q
    | .halo o _ => (queue s q).decl.kind = 2 && (queue s q).decl.sync = o
    | _ => false
  (s.sctx.filter fun e => e.2.run.any fun r => r.f.d.urg = 1 && (sideQueue r.f.d true).any dry).map fun e => e.1 / 64

/-- The context an engine serves: earliest run-dry time, then lower number; background only when no other is able. -/
def pickCtx (s : State) (e : Nat) : Option Nat :=
  let able := (upto 64).filter fun c => ableRead s e (sctx s e c)
  let timed := able.filterMap fun c => ((issuing (sctx s e c)).bind (runDry s)).map fun t => (t, c)
  match leastBy (fun (a b : Nat × Nat) => decide (a.1 < b.1) || (a.1 = b.1 && decide (a.2 < b.2))) timed with
  | some p => some p.2
  | none => able.head?

/-- A host read may go out now (R339, R352). -/
def hostOpen (s : State) : Bool := busMaster s && npRoom s 1

/-- An address whose read must wait: a host address while no host read may go out. -/
def hostShut (s : State) (a : Nat) : Bool := isHostAddr s a && !hostOpen s

/-- The agent's read that timed out is over. -/
def clearFailed (s : State) (r : HostReader) : State := updHl s fun h => { h with failed := h.failed.filter (· ≠ r) }

/-- A non-posted request: the next tag that is free and not quarantined (R349). -/
def npIssue (s : State) (o : NpOwner) : State × Nat :=
  let used := fun (t : Nat) => s.hl.np.any (fun r => r.tag = t) || s.hl.quarantined.any (fun q => q.1 = t && tagRests s q)
  let t := (((upto (tagSpace s).2).map fun i => (tagSpace s).1 + i).find? fun t => !used t).getD 0
  (updHl s fun h => { h with np := h.np ++ [{ tag := t, owner := o, dueNs := nowNs s + 1000 * fld s Reg.HL_CPL_TO_US, limitNs := 1000 * fld s Reg.HL_CPL_TO_US }] }, t)

def npReturn (s : State) (t : Nat) : State := updHl s fun h => { h with np := h.np.filter fun r => r.tag ≠ t }

/-- Change the run of a context with a descriptor address. -/
def updRun (s : State) (e c addr : Nat) (f : SRun → SRun) : State :=
  updSctx s e c fun k => { k with run := k.run.map fun r => if r.f.addr = addr then f r else r }

/-! ### The slots of a context's queue sides (R282 to R285, R295) -/

/-- A context takes the next slot of its source. -/
def popFor (s : State) (k : SCtx) (u : Queue) : Queue :=
  if u.decl.kind ≠ 2 then popSlot u
  else match k.holder with
    | .job id => popHalo u id (haloKey s k)
    | _ => { u with hpos := mset 0 u.hpos (haloKey s k) (mget 0 u.hpos (haloKey s k) + 1), head := u.head + 1 }

/-- A context has read slot `i` of its source: one that no job holds drops a reference to a HALO entry itself. -/
def releaseFor (k : SCtx) (u : Queue) (i : Nat) : Queue :=
  if u.decl.kind ≠ 2 then releaseSlot u i
  else match k.holder with
    | .job _ => u
    | _ =>
      let refs := (slot u i).refs.erase 0
      setSlot u i (if refs.isEmpty then Slot.zero else { slot u i with refs := refs })

/-- A context takes the next slot of its destination, queue `q`. -/
def takeFor (s : State) (k : SCtx) (q : Nat) : Queue :=
  let u := queue s q
  if u.decl.kind ≠ 2 then takeSlot u else takeHalo u (holderJob k) (haloTagOf s (holderJob k) q u.tail)

/-- Poison in a slot that a job's context passes on to another job has reached an output (R193). -/
def spoilFor (s : State) (k : SCtx) (u : Queue) (i : Nat) : State :=
  match k.holder with
  | .job id =>
    if u.decl.kind ≠ 0 && u.cons ≠ .job id && slotPoisoned s u i then
      orderAbort (updJob s id fun j => { j with poisonOut := true }) id 0
    else s
  | _ => s

/-- A context has filled slot `i` of its destination, queue `q`. -/
def pushFor (s : State) (k : SCtx) (q i tag : Nat) : State :=
  let u := setSlot (queue s q) i { slot (queue s q) i with tag := tag }
  let s1 := cnt s Reg.SY_CNT_PUSHES
  let s2 := if u.decl.kind ≠ 2 then putQueue s1 q (pushSlot u i)
    else publishHalo (updQueue s1 q fun _ => u) q i (slotPoisoned s u i)
      ((match k.holder with | .job id => [id] | _ => []) ++ List.replicate u.decl.refs 0)
  spoilFor s2 k u i

/-- The device bytes that a request of `n` bytes takes from its source: one row of FRC is shorter there. -/
def readLen (s : State) (d : SDesc) (n : Nat) : Nat := if d.frc ≠ 0 && sideDram s d false then 128 / frcRatio d else n

/-- Position `n` of a run needs a new slot of its destination: the context takes it. -/
def takeDst (s : State) (k : SCtx) (e c : Nat) (r : SRun) (n : Nat) : State :=
  match sideQueue r.f.d true with
  | none => s
  | some q =>
    if n < r.dstSlots * slotBytes (queue s q) then s
    else updRun (putQueue s q (takeFor s k q)) e c r.f.addr fun x =>
      { x with dstSlot := some (x.dstSlot.getD (queue s q).tail), dstSlots := x.dstSlots + 1 }

/-- The run of a context with a descriptor address. -/
def sRunAt (s : State) (e c addr : Nat) : Option SRun := (sctx s e c).run.find? fun x => x.f.addr = addr

/-- The context served issues its next request, with the slots it needs taken first. -/
def issueRead (s : State) (e : Fin 32) : State :=
  match pickCtx s e.val with
    | none => s
    | some c =>
      let k := sctx s e.val c
      match issuing k with
      | none => s
      | some r =>
        let d := r.f.d
        let s1 := match sideQueue d false with
          | some q =>
            if r.issued < r.srcSlots * slotBytes (queue s q) then s
            else updRun (putQueue (cnt s Reg.SY_CNT_POPS) q (popFor s k (queue s q))) e.val c r.f.addr fun x =>
              { x with srcSlot := some (x.srcSlot.getD (nextSrc s k q)), srcSlots := x.srcSlots + 1 }
          | none => s
        let s2 := if replayed d then s1 else takeDst s1 k e.val c r r.issued
        let r2 := (sRunAt s2 e.val c r.f.addr).getD r
        let p := nextRead s2 r2
        let host := isHostAddr s2 p.1
        let np := if host then npIssue (bucketTake s2 e.val 0 p.2) (.stream e.val c) else (s2, 0)
        let rd : SRead := { desc := r.f.addr, at_ := r.issued, len := p.2, dev := readLen s2 d p.2, addr := p.1,
                            tag := if host then some np.2 else none, discard := false,
                            back := none, job := holderJob k, attempt := k.attempt }
        let s3 := updRun np.1 e.val c r.f.addr fun x => { x with issued := x.issued + p.2 }
        noteWaiters (updSctx s3 e.val c fun q => { q with reads := q.reads ++ [rd] })

/-! ### Returning reads (R298, R306, R312, R313) -/

/-- Bytes of the walk that one byte written stands for: FRC compresses towards DRAM (R297). -/
def packRatio (s : State) (d : SDesc) : Nat := sideDiv s d true

/-- The address of byte `m` of those that the walk writes from position `n` on, `q` bytes of the walk to each. -/
def dstAddr (s : State) (r : SRun) (q n m : Nat) : Nat :=
  if q = 1 then sideAddr s r.f.d true r.dstSlot (n + m)
  else sideAddr s r.f.d true r.dstSlot (n + 128 * (m / (128 / q))) + m % (128 / q)

/-- Pieces of `len` bytes written from walk position `n` on that are contiguous, cut at 64-byte beats: position in the walk, address,
length. -/
def dstPieces (s : State) (r : SRun) (n len : Nat) : List (Nat × Nat × Nat) :=
  let q := packRatio s r.f.d
  let a := dstAddr s r q n
  let starts := (upto len).filter fun i => i = 0 || a i ≠ a (i - 1) + 1 || a i % 64 = 0
  (starts.zip (starts.drop 1 ++ [len])).map fun p => (n + q * p.1, a p.1, p.2 - p.1)

def isOutside (s : State) (a : Nat) : Bool :=
  match region s a with | .host _ => true | .peer _ _ => true | _ => false

/-- Bytes that a context writes, for `w` bytes of the walk from position `n` on; less than a beat of 64 bytes is a head or a tail (R298).
Those a job's transfer writes to DRAM or to a shared buffer are among its outputs (R47). -/
def landPiece (s : State) (e c : Nat) (r : SRun) (n w a : Nat) (bs : List (Byte × Bool)) : State :=
  let id := holderJob (sctx s e c)
  let s1 := cntE (cntE s Reg.SE_CNT_WR_BYTES e bs.length) Reg.SE_CNT_PARTIAL e (b2n (bs.length < 64))
  let s2 := devWrite s1 a bs .clean id
  let s3 := if isOutside s a || id = 0 then s2 else noteOut s2 id a bs.length
  updRun s3 e c r.f.addr fun x => { x with landed := n + w }

/-- Bytes of the walk as the destination takes them: compressed row by row towards DRAM (R297). -/
def packed (s : State) (d : SDesc) (bs : List (Byte × Bool)) : List (Byte × Bool) :=
  if packRatio s d = 1 then bs
  else (upto (bs.length / 128)).flatMap fun i => frcRow d.frcEl (frcRatio d) ((bs.drop (128 * i)).take 128)

/-- Write bytes of the walk to their places, piece by piece; a poisoned beat for the host or a peer stops the descriptor. -/
def landWalk (s : State) (e c : Nat) (r : SRun) (n : Nat) (bs : List (Byte × Bool)) : State :=
  let q := packRatio s r.f.d
  let out := packed s r.f.d bs
  thread (fun s' (p : Nat × Nat × Nat) =>
    let part := (out.drop ((p.1 - n) / q)).take p.2.2
    if ((sRunAt s' e c r.f.addr).bind (·.stopped)).isSome then s'
    else if part.any (·.2) && isOutside s' p.2.1 then updRun s' e c r.f.addr fun x => { x with stopped := some 5 }
    else
      let b := match region s' p.2.1 with | .host _ => 1 | _ => 2
      landPiece (if isOutside s' p.2.1 then bucketTake s' e b p.2.2 else s') e c r p.1 (q * p.2.2) p.2.1 part) s (dstPieces s r n out.length)

/-- Bytes at the end of `len` bytes of the walk from position `n` that begin a beat which the walk goes on to fill: the funnel keeps them
until the rest has come (R298). A slot that has been filled is written whole. -/
def beatRest (s : State) (r : SRun) (n len : Nat) : Nat :=
  let q := packRatio s r.f.d
  let a := dstAddr s r q n
  let m := len / q
  if m = 0 || walkBytes r.f.d ≤ n + len || a m ≠ a (m - 1) + 1 || a m % 64 = 0 || (slotLeft s r.f.d true (n + len)).any fun x =>
      (sideQueue r.f.d true).any fun u => x = slotBytes (queue s u) then 0
  else q * ((((upto (min m 63)).filter fun i => a (m - 1 - i) + i + 1 ≠ a m || (a (m - 1 - i) + 1) % 64 = 0).head?).getD (min m 63))

/-- A source slot is released when a read of its last byte has come (R295). -/
def passSource (s : State) (k : SCtx) (r : SRun) (rd : SRead) : State :=
  match sideQueue r.f.d false with
  | none => s
  | some q =>
    let b := slotBytes (queue s q)
    if (rd.at_ + rd.len) % b = 0 then putQueue s q (releaseFor k (queue s q) (r.srcSlot.getD 0 + rd.at_ / b)) else s

/-- Destination slots whose last byte has landed are pushed with their tag (R285, R299). -/
def passSlots (s : State) (k : SCtx) (r : SRun) (new : Nat) : State :=
  match sideQueue r.f.d true with
  | none => s
  | some q =>
    let b := slotBytes (queue s q)
    thread (fun s' i => pushFor s' k q (r.dstSlot.getD 0 + r.landed / b + i) ((r.f.d.tag + (r.landed / b + i) * r.f.d.tagStep) % 65536)) s
      (upto (new / b - r.landed / b))

/-- A byte at an address lies in run number `i` of a walk, before or from position `landed` on. -/
def runHolds (s : State) (d : SDesc) (landed i a : Nat) (done : Bool) : Bool :=
  let lo := plainAddr d d.dstMode d.dst d.dstr (sideDiv s d true) (i * d.len0)
  let n := min d.len0 (landed - i * d.len0)
  if done then lo ≤ a && a < lo + n else lo + n ≤ a && a < lo + d.len0

/-- A row of 128 bytes has landed: every byte has been written, and none is still to be written again (R275). -/
def rowLanded (s : State) (d : SDesc) (landed a : Nat) : Bool :=
  let runs := upto (walkBytes d / d.len0)
  (upto 128).all fun b => (runs.any fun i => runHolds s d landed i (a + b) true) && !(runs.any fun i => runHolds s d landed i (a + b) false)

/-- Rows landed of a fill: the contiguous prefix of its buffer's rows, when `landed` bytes of the walk have landed (R275). -/
def raiseLanded (s : State) (d : SDesc) (landed : Nat) : State :=
  match if d.hentEn then hentTile s d else none with
  | none => s
  | some t =>
    let h := handleOf s t d.hent
    let a := spAddr t (bankBase h.bank + 128 * h.base)
    let n := ((upto h.len).takeWhile fun i => rowLanded s d landed (a + 128 * i)).length
    let s1 := updHandle s t d.hent fun k => { k with landed := n }
    wakeTasks s1 (wokenLanding s1 t d.hent)

/-- A read's data as they come, poisoned by a parity error of the mesh (R432), and what they are in the walk, where a compressed source is
expanded. -/
def readData (s : State) (rd : SRead) (err mesh : Bool) (tries : ReadTry) (job : JobId) : List (Byte × Bool) × State :=
  if err then (List.replicate rd.dev (0, true), s)
  else
    let r := devRead s rd.addr rd.dev tries job
    (r.1.map fun b => (b.1, b.2 || mesh), r.2)

def walkData (s : State) (d : SDesc) (bs : List (Byte × Bool)) : List (Byte × Bool) :=
  if d.frc ≠ 0 && sideDram s d false then frcUnrow d.frcEl (frcRatio d) bs else bs


/-- Bytes that a read brings: whole blocks of DRAM or of a scratchpad, exact bytes of the host (R298). -/
def broughtBytes (s : State) (a n : Nat) : Nat := if isHostAddr s a then n else 64 * (blocksOf a n).length

/-- Blocks of a read that are marked (R312). -/
def markedBlocks (a : Nat) (bs : List (Byte × Bool)) : Nat :=
  ((blocksOf a bs.length).filter fun b => bs.zipIdx.any fun x => x.1.2 && (a + x.2) / 64 = b).length

/-- Take the bytes of a read into the walk: those of a source that is replayed are kept, all others land as far as the beats they
fill. -/
def landRead (s : State) (e c : Nat) (r : SRun) (rd : SRead) (bs : List (Byte × Bool)) : State :=
  let got := r.held ++ bs
  let n := rd.at_ - r.held.length
  let k := if replayed r.f.d then 0 else got.length - beatRest s r n got.length
  updRun (landWalk s e c r n (got.take k)) e c r.f.addr fun x => { x with held := got.drop k }

/-- Once bytes have landed, slots and rows follow; a descriptor that has stopped takes no more of what is outstanding. -/
def afterLanding (s : State) (e c : Nat) (k : SCtx) (r : SRun) : State :=
  match sRunAt s e c r.f.addr with
  | none => s
  | some x =>
    let s1 := raiseLanded (passSlots s k { r with dstSlot := x.dstSlot } x.landed) r.f.d x.landed
    if x.stopped.isSome then updSctx s1 e c fun q => { q with reads := dropReads q.reads } else s1

/-- STREAM_HALT (R313): what precedes the failing request lands, its position is saved, reads issued after it are discarded and will be
issued again, the record and the event go out. -/
def haltSctx (s : State) (e c : Nat) (r : SRun) (rd : SRead) : State :=
  let k := sctx s e c
  let host := match region s rd.addr with | .host x => hostAddr s x | _ => 0
  let s0 := landWalk s e c r (rd.at_ - r.held.length) r.held
  let again := fun (x : SRun) =>
    if x.f.addr = r.f.addr then { x with issued := rd.at_, held := if replayed r.f.d then x.held else [] }
    else { x with issued := x.landed, held := [] }
  let s1 := updSctx s0 e c fun q =>
    { q with state := .halted, pos := posWord r.f.d rd.at_, posOfs := rd.at_ % r.f.d.len0, haltNs := nowNs s,
             last := 4, reads := dropReads q.reads, run := q.run.map again }
  let s2 := seComplete (cntE s1 Reg.SE_CNT_HALT e 1) e c 4 { r with landed := rd.at_ } true
  postEvent (evSet s2 (128 + e)) (getF s Reg.SE_ENG_CTL_EVT_RING e 0) 0x31 0 (e + c * 2 ^ 5) [(holderJob k).toNat, host]

/-- A read of a context has come back that nobody waits for: the last one ends the draining. -/
def readGone (s : State) (e c : Nat) : State :=
  let s1 := cntE s Reg.SE_CNT_DISCARD e 1
  if (sctx s e c).state = .draining && (sctx s e c).reads.isEmpty then finishCancel s1 e c else s1

/-- A write of `n` bytes to the host or a peer waits for its bucket (R305) or for Bus Master Enable (R352). -/
def writeWaits (s : State) (e a n : Nat) : Bool :=
  match region s a with
  | .host _ => !(busMaster s && bucketHas s e 1 n)
  | .peer _ _ => !(busMaster s && bucketHas s e 2 n)
  | _ => false

/-- What a context's oldest read has brought waits for its destination to take the write. -/
def writeHeld (s : State) (e c : Nat) : Bool :=
  match (sctx s e c).reads with
  | [] => false
  | rd :: _ => (sRunAt s e c rd.desc).any fun r =>
      rd.back.isSome && !replayed r.f.d && writeWaits s e (sideAddr s r.f.d true r.dstSlot rd.at_) rd.len

/-- A write of a context waits: what its oldest read has brought, or the next bytes of a replayed source. -/
def anyWriteHeld (s : State) (e c : Nat) : Bool :=
  writeHeld s e c || (sctx s e c).run.any fun r => replaying r && dstReady s (sctx s e c) r r.landed &&
    writeWaits s e (sideAddr s r.f.d true r.dstSlot r.landed) (min (walkBytes r.f.d - r.landed) 128)

/-- What a context's oldest read has brought is taken into the walk (R306); a host read that met an error halts a context that asks for
it (R313). A retained input that came poisoned from DRAM is a bad input of the context's job (R47, R327). -/
def takeRead (s : State) (e c : Nat) : State :=
  match (sctx s e c).reads with
  | [] => s
  | rd :: rest => match rd.back with
    | none => s
    | some (bs, bad) =>
      let s0 := updSctx s e c fun q => { q with reads := rest }
      match sRunAt s0 e c rd.desc with
      | none => s0
      | some r =>
        if bad && r.f.d.m5c then haltSctx s0 e c r rd
        else
          let k := sctx s0 e c
          let s1 := landRead s0 e c r rd (walkData s0 r.f.d bs)
          let s2 := streamJudge s1 e c ((rd.addr, rd.dev, false) ::
            if replayed r.f.d then [] else (dstPieces s1 r rd.at_ rd.len).map fun p => (p.2.1, p.2.2, true))
          afterLanding (passSource s2 k r rd) e c k r

/-- Bytes that a replayed source supplies next: to the end of its destination's slot, or up to 128 at a time towards the host or a peer, or
the rest of a run. -/
def replayLen (s : State) (r : SRun) : Nat :=
  min (walkBytes r.f.d - r.landed)
    ((slotLeft s r.f.d true r.landed).getD
      (if isOutside s (sideAddr s r.f.d true r.dstSlot r.landed) then 128 else max 128 (r.f.d.len0 - r.landed % r.f.d.len0)))

/-- A source that is there whole is written again for the next bytes of the walk (R295). -/
def replayStep (s : State) (e c addr : Nat) : State :=
  match sRunAt s e c addr with
  | none => s
  | some r0 =>
    let k := sctx s e c
    let n := r0.landed
    if !replaying r0 || (k.state ≠ .running && k.state ≠ .waiting) || !dstReady s k r0 n ||
      writeWaits s e (sideAddr s r0.f.d true r0.dstSlot n) (replayLen s r0) then s
    else
      let s1 := takeDst s k e c r0 n
      let r := (sRunAt s1 e c addr).getD r0
      let len := replayLen s1 r
      let m := len - beatRest s1 r n len
      let s2 := landWalk s1 e c r n ((upto m).map fun i => r.held.getD ((n + i) % r.f.d.len0) (0, false))
      afterLanding (streamJudge s2 e c ((dstPieces s1 r n m).map fun p => (p.2.1, p.2.2, true))) e c k r

/-- Everything that a context's reads have brought lands as far as its destination takes it. -/
def landPass (s : State) (e c : Nat) : State :=
  let s1 := thread (fun s' (_ : SRead) => if writeHeld s' e c then s' else takeRead s' e c) s (sctx s e c).reads
  thread (fun s' (r : SRun) =>
    if replaying r then thread (fun s'' _ => replayStep s'' e c r.f.addr) s' (upto (walkBytes r.f.d / 64 + 1)) else s') s1 (sctx s1 e c).run

/-- Read number `n` of a context returns (R306): `err` marks a host completion error. Reads return in any order; what one brings waits in
the funnel for the older ones. -/
def returnRead (s : State) (e c n : Nat) (err mesh : Bool) (tries : ReadTry) : State :=
  let k := sctx s e c
  match k.reads[n]? with
  | none => s
  | some rd =>
    if rd.back.isSome then landPass s e c
    else
      let s0 := match rd.tag with | some t => npReturn s t | none => s
      let s1 := cntE s0 Reg.SE_CNT_RD_BYTES e (broughtBytes s rd.addr rd.dev)
      if rd.discard then readGone (updSctx s1 e c fun q => { q with reads := q.reads.eraseIdx n }) e c
      else
        let bad := err && rd.tag.isSome
        let got := readData s1 rd bad mesh tries (holderJob k)
        let stops := bad && (sRunAt s e c rd.desc).any fun r => r.f.d.m5c
        let s2 := if stops then got.2 else cntE got.2 Reg.SE_CNT_POISON e (markedBlocks rd.addr got.1)
        let s3 := if holderJob k ≠ 0 && rd.addr < dramTop && !mesh && got.1.any (·.2) then badInput s2 (holderJob k) rd.addr else s2
        landPass (updSctx s3 e c fun q => { q with reads := q.reads.set n { rd with tag := none, back := some (got.1, bad) } }) e c

/-- An outstanding read of a context times out: it counts as returned with an error (R310). -/
def failRead (s : State) (e c n : Nat) : State := returnRead s e c n true false .clean

/-- What waits for a slot or a bucket in an engine's funnels lands when it may. -/
def landEngine (s : State) (e : Nat) : State :=
  thread (fun s' (p : Nat × SCtx) => if p.1 / 64 = e then landPass s' e (p.1 % 64) else s') s s.sctx

/-- SE_READ_ISSUE: what can land does, and the context served issues one request. -/
def execSeReadIssue (e : Fin 32) (s : State) : Out := .next (issueRead (landEngine s e.val) e)

/-- SE_READ_RETURN: an outstanding read of the context returns. -/
def execSeReadReturn (e : Fin 32) (c : Fin 64) (result : ReadResult) (tries : ReadTry) (s : State) (n : Nat := 0) : Out :=
  .next (returnRead s e.val c.val n (result = .hostError) (result = .meshParity) tries)

/-- SE_DESC_COMPLETE: the oldest descriptor has landed whole, or has stopped. -/
def execSeDescComplete (e : Fin 32) (c : Fin 64) (s0 : State) : Out :=
  let s := landPass s0 e.val c.val
  .next (match (sctx s e.val c.val).run with
    | [] => s
    | r :: _ =>
      if (sctx s e.val c.val).state = .draining then s
      else match r.stopped with
        | some st =>
          if (sctx s e.val c.val).reads.isEmpty then endDesc s e.val c.val st r
          else updSctx s e.val c.val fun q => { q with reads := dropReads q.reads }
        | none => if r.landed = walkBytes r.f.d then endDesc s e.val c.val 0 r else s)

/-- PACING_UPDATE (R304): slot taking stops at the high mark and starts again at the low mark. -/
def execPacingUpdate (e : Fin 32) (c : Fin 64) (s : State) : Out :=
  .next (match issuing (sctx s e.val c.val) with
    | none => s
    | some r => match sideQueue r.f.d true with
      | none => s
      | some q =>
        let n := fullSlots (queue s q)
        if r.f.d.hiWm = 0 then s
        else updSctx s e.val c.val fun k =>
          { k with paced := if r.f.d.hiWm ≤ n then true else if n ≤ r.f.d.loWm then false else k.paced })

/-- SE_CANCEL: for a context held by host software or firmware. -/
def execSeCancel (e : Fin 32) (c : Fin 64) (s : State) : Out :=
  .next (if !answers s 0xE02030 then s
    else match (sctx s e.val c.val).holder with
    | .job _ | .plan _ => cntE s Reg.SE_CNT_HOST_REFUSED e.val 1
    | _ => cancelSctx s e.val c.val false)

/-- Resume a halted context from its saved position; one that is not halted is left alone (R313). -/
def resumeSctx (s : State) (e c : Nat) : State :=
  if (sctx s e c).state = .halted then updSctx s e c fun k => { k with state := .running } else s

/-- SE_RESUME. -/
def execSeResume (e : Fin 32) (c : Fin 64) (s : State) : Out :=
  .next (if answers s 0xE02030 then resumeSctx s e.val c.val else s)

end Sys2Proof.Machine
end

