-- ==== Sys2Proof/Machine/EventHub.lean ====
section
/-! DEFINITION. The event hub, and what the Novgiwick cores share: their registers, traps, memory regions, store buffers
(R406 to R430). -/

namespace Sys2Proof.Machine

/-! ### Sources and latches (R422, R427) -/

/-- EVENT_SET (R422). During a frost reset the hub is held in reset (R443, R446). -/
def execEventSet (n : Fin 1024) (s : State) : Out := .next (if s.fm.phase = .frost then s else evSet s n.val)

/-- EVENT_CLEAR (R422). -/
def execEventClear (n : Fin 1024) (s : State) : Out := .next (if s.fm.phase = .frost then s else evClear s n.val)

/-- ASYNC_EDGE_LATCH (R427): the edge sets its latch, whatever the clocks do. -/
def execAsyncEdgeLatch (i : Fin 16) (s : State) : Out :=
  .next { s with latches := s.latches ||| BitVec.ofNat 16 (2 ^ i.val) }

/-- A sleeping core goes on after its `wfe` (R428). -/
def wakeCore (s : State) (n : Nat) : State :=
  let k := coreNo s n
  if k.run = .sleeping then
    addF (updCore s n fun c => { c with run := if c.step then .halted else .running, step := false, lastPc := c.pc, pc := c.pc + 4 }) Reg.SC_CORE_CNT_INSTR 0 n 1
  else s

/-- LATCH_APPLY (R427, R428): while FCLK runs and the hub is not held in reset, each set latch is applied as a set of its source
and cleared, and wakes the cores it is routed to; a source with `EN` = 0 is routed to none (R423). -/
def execLatchApply (s : State) : Out :=
  .next (if !s.pins.fclkRuns || s.fm.phase = .frost || s.pins.hold ≠ .none then s
    else
      let set := (upto 16).filter fun i => s.latches.getLsbD i
      let s1 := thread (fun s' i => evSet s' (16 + i)) { s with latches := 0 } set
      thread (fun s' n => if set.any fun i => bit s Reg.EV_SRC_EN 0 (16 + i) && (getF s Reg.EV_SRC_ROUTE 0 (16 + i)).testBit n then wakeCore s' n else s') s1 (upto 8))

/-! ### Routing (R423 to R425) -/

/-- A core may take source `n`. -/
def coreTakes (s : State) (n c : Nat) : Bool :=
  let k := coreNo s c
  (getF s Reg.EV_SRC_ROUTE 0 n).testBit c && k.active.isNone && k.reserved.isNone &&
    (k.run = .running || k.run = .sleeping) && n < k.tpri

/-- The eligible core at lowest priority; ties go to the lower number. -/
def pickCore (s : State) (n : Nat) : Option Nat :=
  leastBy (fun a b => (coreNo s b).tpri < (coreNo s a).tpri) ((upto 8).filter (coreTakes s n))

/-- The source is reserved for some core. -/
def isReserved (s : State) (n : Nat) : Bool := (upto 8).any fun c => (coreNo s c).reserved = some n

/-- EVENT_ROUTE (R425): one FCLK of the hub, over the pending sources in increasing number; up to 8 are reserved. -/
def execEventRoute (s : State) : Out :=
  .next (if !evEn s || s.fm.phase = .frost then s
    else (thread (fun (acc : State × Nat) (e : Nat × SrcState) =>
      let s' := acc.1
      if e.2 ≠ .pending || 8 ≤ acc.2 || !bit s' Reg.EV_SRC_EN 0 e.1 || isReserved s' e.1 then acc
      else match pickCore s' e.1 with
        | none => acc
        | some c => (wakeCore (updCore s' c fun k => { k with reserved := some e.1 }) c, acc.2 + 1)) (s, 0) s.sources).1)

/-! ### Cores (R407, R410, R418 to R420) -/

def gReg (k : Core) (r : Nat) : Nat := if r = 0 then 0 else (mget 0 k.g r).toNat

/-- Write a general register; `g0` discards. -/
def setG (s : State) (n r v : Nat) : State :=
  if r = 0 then s else updCore s n fun k => { k with g := mset 0 k.g r (BitVec.ofNat 64 v) }

/-- Empty the loop buffer (R410). -/
def Core.noLoop (k : Core) : Core := { k with loopBr := none, loopSeen := 0, loopHeld := false }

/-- The present instruction comes from the loop buffer. -/
def inLoop (k : Core) : Bool :=
  k.loopHeld && match k.loopBr with
    | some (b, t) => t.toNat ≤ k.pc.toNat && k.pc.toNat ≤ b.toNat
    | none => false

/-- An instruction completes, does `loop` to the loop buffer that it may have been fetched from, and the core goes on at `next`. -/
def coreDone (s : State) (n : Nat) (next : BitVec 32) (loop : Core → Core) : State :=
  let k := coreNo s n
  let s1 := addF s Reg.SC_CORE_CNT_INSTR 0 n 1
  let s2 := if inLoop k then addF s1 Reg.SC_CORE_CNT_LOOPBUF 0 n 1 else s1
  updCore s2 n fun c =>
    { loop c with run := if c.step then .halted else c.run, step := false, loadHeld := false, hostWait := false, lastPc := c.pc, pc := next }

def coreNext (s : State) (n : Nat) : State := coreDone s n ((coreNo s n).pc + 4) id

/-- A double fault (R419): the trap is counted as others are (R420), the core halts, its source is pending again, its reservation is released. -/
def doubleFault (quiet : Bool) (s : State) (n cause tval : Nat) : State :=
  let s0 := if quiet then s else addF s Reg.SC_CORE_CNT_TRAPS 0 n 1
  let s1 := match (coreNo s n).active with
    | some a => setSource s0 a .pending
    | none => s0
  let s2 := updCore s1 n fun k =>
    { k.noLoop with run := .faulted, active := none, reserved := none, tcause := BitVec.ofNat 8 cause, tval := BitVec.ofNat 64 tval }
  report s2 (mkReport 0x47 .core n tval 0 cause)

/-- Take a trap (R418): precise, to `tvec`; all but `BREAK`, the quiet one, are counted and reported. A sleeping core, whose
buffered store failed, goes on there. -/
def trapWith (quiet : Bool) (s : State) (n cause tval : Nat) : State :=
  if (coreNo s n).tm then doubleFault quiet s n cause tval
  else
    let s1 := updCore s n fun k =>
      { k.noLoop with run := if k.step then .halted else if k.run = .sleeping then .running else k.run, step := false, loadHeld := false, hostWait := false, tpc := k.pc, tcause := BitVec.ofNat 8 cause, tval := BitVec.ofNat 64 tval, tm := true, pc := k.tvec }
    if quiet then s1
    else report (addF s1 Reg.SC_CORE_CNT_TRAPS 0 n 1) (mkReport 0x48 .core n tval 0 cause)

/-- A trap that is counted and reported. -/
def takeTrap (s : State) (n cause tval : Nat) : State := trapWith false s n cause tval

/-- `ILLEGAL`: `tval` takes the instruction word, which stands in TCM at `pc` (R420). -/
def trapIllegal (s : State) (n : Nat) : State :=
  takeTrap s n 0x01 (leNat (rdBytes 0 s.tcm (n * 2 ^ 18 + (coreNo s n).pc.toNat) 4))

/-- Execute an instruction of a running core: a fetch outside TCM raises `ADDRESS` (R408). -/
def onCore (s : State) (n : Nat) (f : State → State) : State :=
  if (coreNo s n).run ≠ .running then s
  else if 0x40000 ≤ (coreNo s n).pc.toNat then takeTrap s n 0x02 (coreNo s n).pc.toNat
  else f s

/-! ### Memory of a core (R408, R415, R416) -/

/-- Where a core's address lies. -/
inductive CoreMem where
  | tcm (off : Nat) | bits (off : Nat) | dev (a : Nat) | reg (off : Nat) | bad
  deriving DecidableEq, Repr

def coreMem (s : State) (a : Nat) : CoreMem :=
  let lo := a % 2 ^ 48
  match a / 2 ^ 48 with
  | 0 => match region s lo with
    | .dram | .sp _ _ | .host _ => .dev lo
    | .peer _ _ | .none => .bad
  | 0x8000 => if lo < 0x40000 then .tcm lo else if lo < 0x50000 then .bits (lo - 0x40000) else .bad
  | 0x8001 => .reg (lo % 2 ^ 26)
  | _ => .bad

/-- The kind of a region, for the rule that both halves of a split lie in one. -/
def coreKind (s : State) (a : Nat) : Nat :=
  match coreMem s a with
  | .tcm _ => 1 | .bits _ => 2
  | .dev lo => match region s lo with
    | .dram => 3 | .sp _ _ => 4 | _ => 5
  | .reg _ => 6 | .bad => 0

/-- The pieces of an access: one, or the two naturally aligned halves of a split, each with the bytes it covers. -/
def coreParts (a n : Nat) : List (Nat × Nat) :=
  if a % n = 0 then [(a, n)] else [(a, n - a % n), (a / n * n + n, a % n)]

/-- The trap an access raises before it is made: cause, or 0. -/
def coreAccess (s : State) (a n : Nat) : Nat :=
  let ks := (coreParts a n).map fun p => coreKind s p.1
  if ks.contains 0 then 2
  else if ks.head? = some 6 && (a % n ≠ 0 || n < 4) then 3
  else if ks.any fun k => some k ≠ ks.head? then 2 else 0

def overlaps (a n b m : Nat) : Bool := a < b + m && b < a + n

/-- The youngest buffered store that overlaps a piece. -/
def youngest (k : Core) (p : Nat × Nat) : Option CoreStore :=
  (k.sb.filter fun e => overlaps p.1 p.2 e.addr e.bytes.length).getLast?

/-- The piece is forwarded whole; it must wait; or it reads memory. -/
def coreFwd (k : Core) (p : Nat × Nat) : Option (List Byte) :=
  (youngest k p).bind fun e =>
    if e.addr ≤ p.1 && p.1 + p.2 ≤ e.addr + e.bytes.length then some ((e.bytes.drop (p.1 - e.addr)).take p.2) else none
def coreBlocked (k : Core) (p : Nat × Nat) : Bool := (youngest k p).isSome && (coreFwd k p).isNone

/-- A piece that reads the host. -/
def coreHost (s : State) (k : Core) (p : Nat × Nat) : Bool := coreKind s p.1 = 5 && (coreFwd k p).isNone

/-- Device and register accesses keep program order (R416): a load waits for such stores before it; a host read waits while
it cannot be issued (R339, R352). -/
def coreHeld (s : State) (n : Nat) (k : Core) (p : Nat × Nat) : Bool :=
  (match coreMem s p.1 with | .reg o => (coreFwd k p).isNone && windowShut s (1 + n) o p.2 | _ => false) ||
  (3 ≤ coreKind s p.1 && (coreFwd k p).isNone && k.sb.any fun e => 3 ≤ coreKind s e.addr) || (coreHost s k p && !hostOpen s)

/-- A held load is marked where it waits for the host alone. -/
def markHost (s : State) (n : Nat) (ps : List (Nat × Nat)) : State :=
  if ps.any fun p => coreHost s (coreNo s n) p && !hostOpen s then updCore s n fun k => { k with hostWait := true } else s

/-- Read one piece: bytes with poison, and what the read leaves. -/
def coreReadPart (s : State) (n : Nat) (p : Nat × Nat) : List (Byte × Bool) × State :=
  match coreFwd (coreNo s n) p with
  | some bs => (clean bs, addF s Reg.SC_CORE_CNT_SB_FWD 0 n 1)
  | none => match coreMem s p.1 with
    | .tcm o => (clean (rdBytes 0 s.tcm (n * 2 ^ 18 + o) p.2), s)
    | .bits o => (clean (rdBytes 0 s.bitVars o p.2), s)
    | .dev a => devRead s a p.2 .clean 0
    | .reg o =>
      let r := regRead (touchWindow s (1 + n) o p.2) (1 + n) o p.2
      (clean r.1, r.2)
    | .bad => ([], s)

/-- A value loaded, extended to 64 bits. -/
def coreExtend (size : Nat) (signed : Bool) (v : Nat) : Nat :=
  if signed then unsgn 64 (sgn (8 * size) v) else v

/-- A load of `size` bytes into `rd`. `parityFails` and `busError` say how the access completed (R420). `after` is what the
instruction does besides. -/
def coreLoadTo (s : State) (n size : Nat) (signed : Bool) (rd a : Nat) (parityFails busError : Bool) (after : State → State) :
    State :=
  let k := coreNo s n
  let ps := coreParts a size
  let c := coreAccess s a size
  if c ≠ 0 then takeTrap s n c a
  else if ps.any (coreBlocked k) then
    if k.loadHeld then s else addF (updCore s n fun e => { e with loadHeld := true }) Reg.SC_CORE_CNT_SB_PARTIAL 0 n 1
  else if ps.any (coreHeld s n k) then markHost s n ps
  else if (ps.any (coreHost s k)) && s.hl.failed.contains (.core n) then takeTrap (clearFailed s (.core n)) n 0x08 a
  else
    let r := ps.foldl (fun (acc : List (Byte × Bool) × State) p =>
      let q := coreReadPart acc.2 n p
      (acc.1 ++ q.1, q.2)) ([], s)
    let local_ := coreKind s a < 3
    let fwd := ps.all fun p => (coreFwd k p).isSome
    if r.1.any (·.2) then takeTrap r.2 n 0x06 a
    else if parityFails && local_ && !fwd then takeTrap s n 0x07 a
    else if busError && !local_ && !fwd then takeTrap r.2 n 0x08 a
    else coreNext (setG (after r.2) n rd (coreExtend size signed (leNat (r.1.map (·.1))))) n

/-- A store of bytes: its pieces enter the 4-entry store buffer, or it waits for room (R415, R416). -/
def coreStoreFrom (s : State) (n a : Nat) (bs : List Byte) (after : State → State) : State :=
  let ps := coreParts a bs.length
  let c := coreAccess s a bs.length
  if c ≠ 0 then takeTrap s n c a
  else if 4 < (coreNo s n).sb.length + ps.length then s
  else
    let es := ps.map fun p => { addr := p.1, bytes := (bs.drop (p.1 - a)).take p.2 : CoreStore }
    coreNext (after (updCore s n fun k => { k with sb := k.sb ++ es })) n

/-- Local address of a TCM offset. -/
def tcmAddr (o : Nat) : Nat := 0x8000 * 2 ^ 48 + o

/-! ### Claim and completion (R422, R426) -/

/-- Complete a source. -/
def completeSource (s : State) (n : Nat) : State :=
  match source s n with
  | .active => setSource s n .idle
  | .activePending => setSource s n .pending
  | .idle | .pending => s

/-- Claim: the reserved source becomes ACTIVE and its number is returned; 1,024 when it was cleared meanwhile. The manual gives
no value for a read without a reservation, so that one is free (log 3). -/
def claim (s : State) (n : Nat) : Nat × State :=
  match (coreNo s n).reserved with
  | none => ((Config.freeWord s.free).toNat % 2 ^ 11, drawn s)
  | some k =>
    if source s k = .pending then
      (k, updCore (setSource s k .active) n fun c => { c with reserved := none, active := some k, ecl := BitVec.ofNat 11 k })
    else
      (1024, updCore (cnt s Reg.EV_CNT_SPURIOUS) n fun c => { c with reserved := none, ecl := 1024 })

end Sys2Proof.Machine
end

