-- ==== Sys2Proof/Machine/Cores.lean ====
section
/-! DEFINITION. The Novgiwick instructions and what the hub does with the cores (R407 to R428). -/

namespace Sys2Proof.Machine

/-- HANDLER_ENTRY (R426): a reservation, `EE` = 1 and `HM` = 0, between two instructions. -/
def execHandlerEntry (n : Fin 8) (s : State) : Out :=
  let k := coreNo s n.val
  .next (if k.run = .running && k.reserved.isSome && k.ee && !k.hm then
    cnt (updCore s n.val fun c => { c.noLoop with epc := c.pc, hm := true, ee := false, loadHeld := false, hostWait := false, pc := c.evec }) Reg.EV_CNT_DELIVERED
  else s)

/-- ECL_CLAIM (R426): `mfsr` of `ecl`. -/
def execEclClaim (n : Fin 8) (g : Fin 16) (s : State) : Out :=
  .next (onCore s n.val fun s' =>
    let r := claim s' n.val
    coreNext (setG r.2 n.val g.val r.1) n.val)

/-- EVDONE (R422, R426). -/
def execEvdone (n : Fin 8) (src : BitVec 64) (s : State) : Out :=
  .next (onCore s n.val fun s' =>
    coreNext (if (coreNo s' n.val).active = some src.toNat then
        updCore (completeSource s' src.toNat) n.val fun k => { k with active := none }
      else cnt s' Reg.EV_CNT_BAD_DONE) n.val)

/-- The source a core still holds is completed first. -/
def dropActive (s : State) (n : Nat) : State :=
  match (coreNo s n).active with
  | some a => updCore (completeSource s a) n fun k => { k with active := none }
  | none => s

/-- RTI (R418, R426): from trap mode to `tpc`; from handler mode to `epc`, or on to the next reserved source. -/
def execRti (n : Fin 8) (s : State) : Out :=
  .next (onCore s n.val fun s' =>
    let k := coreNo s' n.val
    if k.tm then coreDone (updCore s' n.val fun c => { c with tm := false }) n.val k.tpc Core.noLoop
    else if k.hm then
      let s1 := dropActive s' n.val
      if k.reserved.isSome then
        coreDone (cnt (cnt s1 Reg.EV_CNT_CHAINED) Reg.EV_CNT_DELIVERED) n.val k.evec Core.noLoop
      else coreDone (updCore s1 n.val fun c => { c with hm := false, ee := true }) n.val k.epc Core.noLoop
    else trapIllegal s' n.val)

/-- WFE (R428): the clock stops unless a source is reserved already. -/
def execWfe (n : Fin 8) (s : State) : Out :=
  .next (onCore s n.val fun s' =>
    if (coreNo s' n.val).reserved.isSome then coreNext s' n.val
    else updCore s' n.val fun k => { k with run := .sleeping })

/-! ### Arithmetic (R409, R414, with the semantics of R166) -/

def op2Val (k : Core) : CoreOp2 → Nat
  | .reg r => gReg k r.val
  | .imm v => v.toNat
def op2Imm : CoreOp2 → Bool
  | .reg _ => false
  | .imm _ => true

/-- Field of `bfx` and `bfi` in op2: position, width, sign flag. -/
def fieldPos (y : Nat) : Nat := y % 64
def fieldWidth (y : Nat) : Nat := y / 64 % 64 + 1
def fieldSigned (y : Nat) : Bool := y / 2 ^ 12 % 2 = 1

/-- The operation's operands are legal: a bit field given as an immediate, within 64 bits. -/
def coreLegal (op : CoreOp) (o : CoreOp2) (y : Nat) : Bool :=
  match op with
  | .bfx | .bfi => op2Imm o && fieldPos y + fieldWidth y ≤ 64
  | _ => true

/-- Result of an arithmetic instruction: `d` is the old destination, for `bfi`. -/
def coreResult (op : CoreOp) (d x y : Nat) : Nat :=
  let sx := sgn 64 x
  let sy := sgn 64 y
  let wrap := fun (v : Int) => unsgn 64 v
  match op with
  | .add => wrap (x + y : Nat)
  | .sub => wrap ((x : Int) - y)
  | .and => x &&& y
  | .or => x ||| y
  | .xor => x ^^^ y
  | .shl => wrap (x * 2 ^ (y % 64) : Nat)
  | .shr => x / 2 ^ (y % 64)
  | .sra => wrap (sx / (2 ^ (y % 64) : Nat))
  | .slt => b2n (sx < sy)
  | .sltu => b2n (x < y)
  | .min => wrap (min sx sy)
  | .max => wrap (max sx sy)
  | .li => y
  | .bfx =>
    let v := bitsOf x (fieldPos y) (fieldWidth y)
    if fieldSigned y then wrap (sgn (fieldWidth y) v) else v
  | .bfi => d - atBit (fieldPos y) (bitsOf d (fieldPos y) (fieldWidth y)) + atBit (fieldPos y) (bitsOf x 0 (fieldWidth y))
  | .clz => if x = 0 then 64 else 63 - x.log2
  | .popc => ((upto 64).map fun i => bitsOf x i 1).sum
  | .bperm => ((upto 8).map fun i =>
      let k := bitsOf y (4 * i) 4
      atBit (8 * i) (if k < 8 then bitsOf x (8 * k) 8 else 0)).sum
  | .mul => wrap (x * y : Nat)
  | .mulh => wrap (sx * sy / (2 ^ 64 : Nat))
  | .mulhu => x * y / 2 ^ 64
  | .div => if y = 0 then 2 ^ 64 - 1 else wrap (sx.tdiv sy)
  | .divu => if y = 0 then 2 ^ 64 - 1 else x / y
  | .rem => if y = 0 then x else wrap (sx.tmod sy)
  | .remu => if y = 0 then x else x % y

/-- CORE_ARITHMETIC (R409). -/
def execCoreArithmetic (n : Fin 8) (op : CoreOp) (rd rs1 : Fin 16) (o : CoreOp2) (s : State) : Out :=
  .next (onCore s n.val fun s' =>
    let k := coreNo s' n.val
    let y := op2Val k o
    if coreLegal op o y then
      coreNext (setG s' n.val rd.val (coreResult op (gReg k rd.val) (gReg k rs1.val) y)) n.val
    else trapIllegal s' n.val)

/-! ### Branches (R409 to R411) -/

/-- The loop buffer after a branch at `pc` (R410): a backward branch over 1 to 16 instructions is captured once it has been taken
twice in succession; it is dropped when that branch falls through or control leaves the body, and by no other branch within it. -/
def loopAfter (k : Core) (taken : Option (BitVec 32)) : Core :=
  let inBody := fun (t : BitVec 32) => k.loopBr.elim false fun b => b.2.toNat ≤ t.toNat && t.toNat ≤ b.1.toNat
  match taken with
  | none => if (k.loopBr.elim false fun b => b.1 = k.pc) then k.noLoop else k
  | some t =>
    if k.loopBr = some (k.pc, t) then { k with loopSeen := k.loopSeen + 1, loopHeld := true }
    else if k.loopHeld && inBody t then k
    else if t.toNat < k.pc.toNat && k.pc.toNat ≤ t.toNat + 64 then { k with loopBr := some (k.pc, t), loopSeen := 1, loopHeld := false }
    else if inBody t then k else k.noLoop

/-- A branch condition, numbered as R178 numbers those of scalar registers (log 24). -/
def brHolds (cond v : Nat) : Bool :=
  match cond with
  | 0 => true | 1 => v = 0 | 2 => v ≠ 0 | 3 => sgn 64 v < 0 | _ => 0 ≤ sgn 64 v

/-- Go on at a target, or after the branch. -/
def coreJump (s : State) (n : Nat) (taken : Option (BitVec 32)) : State :=
  let k := coreNo s n
  coreDone s n (taken.getD (k.pc + 4)) fun c => loopAfter c taken

/-- CORE_BRANCH (R411): `br`, `call`, `ret`. -/
def execCoreBranch (n : Fin 8) (op : CoreBr) (s : State) : Out :=
  .next (onCore s n.val fun s' =>
    let k := coreNo s' n.val
    match op with
    | .br c r t => coreJump s' n.val (if brHolds c.val (gReg k r.val) then some t else none)
    | .call t =>
      if 64 ≤ k.rstack.length then takeTrap s' n.val 0x05 k.rstack.length
      else coreJump (updCore s' n.val fun e => { e with rstack := (k.pc + 4) :: e.rstack }) n.val (some t)
    | .ret => match k.rstack with
      | [] => takeTrap s' n.val 0x05 0
      | t :: rest => coreJump (updCore s' n.val fun e => { e with rstack := rest }) n.val (some t))

/-! ### Stack, memory, bit variables (R412, R413, R415, R416) -/

/-- PUSH (R412). -/
def execPush (n : Fin 8) (rs : Fin 16) (s : State) : Out :=
  .next (onCore s n.val fun s' =>
    let k := coreNo s' n.val
    if k.dsp.toNat < k.dlo.toNat + 8 then takeTrap s' n.val 0x04 k.dsp.toNat
    else coreStoreFrom s' n.val (tcmAddr (k.dsp.toNat - 8)) (natLE 8 (gReg k rs.val)) fun t =>
      updCore t n.val fun c => { c with dsp := c.dsp - 8 })

/-- POP (R412). -/
def execPop (n : Fin 8) (rd : Fin 16) (s : State) (parityFails : Bool := false) : Out :=
  .next (onCore s n.val fun s' =>
    let k := coreNo s' n.val
    if k.dhi.toNat ≤ k.dsp.toNat then takeTrap s' n.val 0x04 k.dsp.toNat
    else coreLoadTo s' n.val 8 false rd.val (tcmAddr k.dsp.toNat) parityFails false fun t =>
      updCore t n.val fun c => { c with dsp := c.dsp + 8 })

/-- CORE_LOAD (R415, R416). -/
def execCoreLoad (n : Fin 8) (size : Fin 4) (signed : Bool) (rd : Fin 16) (addr : BitVec 64) (parityFails busError : Bool) (s : State) : Out :=
  .next (onCore s n.val fun s' => coreLoadTo s' n.val (2 ^ size.val) signed rd.val addr.toNat parityFails busError id)

/-- CORE_STORE (R415, R416). -/
def execCoreStore (n : Fin 8) (size : Fin 4) (rs : Fin 16) (addr : BitVec 64) (s : State) : Out :=
  .next (onCore s n.val fun s' =>
    coreStoreFrom s' n.val addr.toNat (natLE (2 ^ size.val) (gReg (coreNo s' n.val) rs.val)) id)

/-- Bit `b` of the bit-variable space. -/
def bitVar (s : State) (b : Nat) : Bool := (mget 0 s.bitVars (b / 8)).getLsbD (b % 8)
def setBitVar (s : State) (b : Nat) (v : Bool) : State :=
  { s with bitVars := mupd 0 s.bitVars (b / 8) fun x =>
      if v then x ||| BitVec.ofNat 8 (2 ^ (b % 8)) else x &&& ~~~ BitVec.ofNat 8 (2 ^ (b % 8)) }

/-- BIT_VARIABLE (R413). -/
def execBitVariable (n : Fin 8) (op : BitOp) (rd rs : Fin 16) (s : State) : Out :=
  .next (onCore s n.val fun s' =>
    let b := gReg (coreNo s' n.val) rs.val
    if 524288 ≤ b then takeTrap s' n.val 0x02 b
    else match op with
      | .bset => coreNext (setBitVar s' b true) n.val
      | .bclr => coreNext (setBitVar s' b false) n.val
      | .btst => coreNext (setG s' n.val rd.val (b2n (bitVar s' b))) n.val)

/-- BTAS (R413): the old value, and the variable set in the same access. -/
def execBtas (n : Fin 8) (rd rs : Fin 16) (s : State) : Out :=
  .next (onCore s n.val fun s' =>
    let b := gReg (coreNo s' n.val) rs.val
    if 524288 ≤ b then takeTrap s' n.val 0x02 b
    else coreNext (setG (setBitVar s' b true) n.val rd.val (b2n (bitVar s' b))) n.val)

/-! ### Special registers, traps, fences (R407, R417, R420) -/

/-- Value of a special register; `ecl` is read by its claim. -/
def srValue (k : Core) : CoreSr → Nat
  | .dsp => k.dsp.toNat | .dlo => k.dlo.toNat | .dhi => k.dhi.toNat | .rsp => k.rstack.length
  | .cst => b2n k.ee + 2 * b2n k.hm + 4 * b2n k.tm
  | .evec => k.evec.toNat | .tvec => k.tvec.toNat | .epc => k.epc.toNat | .tpc => k.tpc.toNat
  | .tcause => k.tcause.toNat | .tval => k.tval.toNat | .ecl => k.ecl.toNat | .tpri => k.tpri

/-- Write a special register: `rsp` and `ecl` are read only; a `tpri` above 1,024 is stored as 1,024 (log 28). -/
def srWrite (k : Core) (r : CoreSr) (v : Nat) : Core :=
  match r with
  | .dsp => { k with dsp := BitVec.ofNat 32 v }
  | .dlo => { k with dlo := BitVec.ofNat 32 v }
  | .dhi => { k with dhi := BitVec.ofNat 32 v }
  | .cst => { k with ee := v.testBit 0, hm := v.testBit 1, tm := v.testBit 2 }
  | .evec => { k with evec := BitVec.ofNat 32 v }
  | .tvec => { k with tvec := BitVec.ofNat 32 v }
  | .epc => { k with epc := BitVec.ofNat 32 v }
  | .tpc => { k with tpc := BitVec.ofNat 32 v }
  | .tcause => { k with tcause := BitVec.ofNat 8 v }
  | .tval => { k with tval := BitVec.ofNat 64 v }
  | .tpri => { k with tpri := min 1024 (v % 2 ^ 11) }
  | .rsp | .ecl => k

/-- MFSR_MTSR (R407): between general register `g` and a special register. -/
def execMfsrMtsr (n : Fin 8) (dir : SrDir) (sr : CoreSr) (g : Fin 16) (s : State) : Out :=
  .next (onCore s n.val fun s' =>
    let k := coreNo s' n.val
    match dir with
    | .mfsr =>
      let r := if sr = .ecl then claim s' n.val else (srValue k sr, s')
      coreNext (setG r.2 n.val g.val r.1) n.val
    | .mtsr => coreNext (updCore s' n.val fun c => srWrite c sr (gReg k g.val)) n.val)

/-- TRAP_BRK (R418, R420): `brk` raises `BREAK` with its immediate. No cause or value is given for `trap`, so both are free
(log 3). An instruction that is not executed, because its word is illegal or failed parity as it was fetched, has no row of its own: its trap
is this one's too (log 28). -/
def execTrapBrk (n : Fin 8) (imm : BitVec 32) (kind : CoreTrap) (s : State) : Out :=
  .next (onCore s n.val fun s' => match kind with
    | .brk => trapWith true s' n.val 0x09 imm.toNat
    | .illegal => trapIllegal s' n.val
    | .fetchParity => takeTrap s' n.val 0x07 (tcmAddr (coreNo s' n.val).pc.toNat)
    | .trap => takeTrap (drawn (drawn s')) n.val ((Config.freeWord s'.free).toNat % 2 ^ 8) (Config.freeWord (s'.free + 1)).toNat)

/-- FENCE (R417): completes once the store buffer is empty. -/
def execFence (n : Fin 8) (s : State) : Out :=
  .next (onCore s n.val fun s' => if (coreNo s' n.val).sb.isEmpty then coreNext s' n.val else s')

/-- FENCE_I (R417): once the store buffer is empty, what has been fetched is discarded, the loop buffer with it. -/
def execFenceI (n : Fin 8) (s : State) : Out :=
  .next (onCore s n.val fun s' =>
    if (coreNo s' n.val).sb.isEmpty then coreDone s' n.val ((coreNo s' n.val).pc + 4) Core.noLoop else s')

/-- DEBUG_CORE_HALT (R431, R482): scope 0 is unlocked. -/
def execDebugCoreHalt (n : Fin 8) (s : State) : Out :=
  .next (if s.sec.scopes.getLsbD 0 && ((coreNo s n.val).run = .running || (coreNo s n.val).run = .sleeping) then
    updCore s n.val fun k => { k with run := .halted }
  else s)

end Sys2Proof.Machine
end

