-- ==== Sys2Proof/Machine/Bundle.lean ====
section
/-! DEFINITION. The decoder of lane-engine bundles (R158 to R162, R178 to R183): slots, fields, the checks of R160, and what
each slot writes. -/

namespace Sys2Proof.Machine

/-- Slot kinds, R159. -/
inductive Kind where
  | s | a | v | m | c | l
  deriving DecidableEq, Repr

/-- An operation in a slot: 40 bits, or the 80 bits of an L slot. -/
structure SlotOp where
  kind : Kind
  w : Nat
  deriving DecidableEq, Repr

/-- Slot kinds by `FMT`; none where `FMT` is reserved. -/
def fmtKinds : Nat → Option (List Kind)
  | 0 => some [.s, .a, .c]
  | 1 => some [.s, .s, .a]
  | 2 => some [.a, .a, .c]
  | 3 => some [.v, .m, .s]
  | 4 => some [.v, .m, .a]
  | 5 => some [.v, .m, .m]
  | 6 => some [.v, .s, .c]
  | 7 => some [.m, .a, .c]
  | 8 => some [.l, .a]
  | 9 => some [.m, .s, .c]
  | _ => none

/-- The slots of a bundle by its `FMT` (R158): slot 0 at [119:80], slot 1 at [79:40], slot 2 at [39:0]; L fills slots 0 and 1. -/
def bundleSlots (b : BitVec 128) : Option (List SlotOp) :=
  let n := b.toNat
  match fmtKinds (bitsOf n 124 4) with
    | some [.l, k] => some [⟨.l, bitsOf n 40 80⟩, ⟨k, bitsOf n 0 40⟩]
    | some [x, y, z] => some [⟨x, bitsOf n 80 40⟩, ⟨y, bitsOf n 40 40⟩, ⟨z, bitsOf n 0 40⟩]
    | _ => none

/-- The slots of a bundle (R158); none where `FMT` or the reserved bits [123:120] are wrong. -/
def decodeBundle (b : BitVec 128) : Option (List SlotOp) := if bitsOf b.toNat 120 4 ≠ 0 then none else bundleSlots b

/-- A field of a slot. -/
def SlotOp.f (o : SlotOp) (lo w : Nat) : Nat := bitsOf o.w lo w
/-- The opcode: the top eight bits of the slot. -/
def SlotOp.op (o : SlotOp) : Nat := if o.kind = .l then o.f 72 8 else o.f 32 8
/-- A signed field. -/
def SlotOp.sf (o : SlotOp) (lo w : Nat) : Int := sgn w (o.f lo w)

/-- An opcode that a table lists for the slot's kind (R160); 0x00 is a no-operation in every kind. -/
def listed (o : SlotOp) : Bool :=
  let x := o.op
  match o.kind with
  | .s => x ≤ 0x14 || (0x18 ≤ x && x ≤ 0x1E) || (0x20 ≤ x && x ≤ 0x25)
  | .a => x ≤ 0x05
  | .v => x ≤ 0x27
  | .m => x ≤ 0x10
  | .c => x ≤ 0x06 || (0x08 ≤ x && x ≤ 0x0F)
  | .l => x ≤ 0x01

/-- Mask of the bits [31:0] of a C slot that its opcode names (R178, R180, R183). -/
def cFields : Nat → Nat
  | 0x01 => 0xFFFFFFFF
  | 0x02 => 0x00FFFFFF
  | 0x03 => 0xFFC00000
  | 0x04 => 0xFC000FFF
  | 0x05 | 0x06 => 0xFFFFFF80
  | 0x08 | 0x09 | 0x0A => 0xFFFFFC00
  | 0x0B => 0xFFC00000
  | 0x0C => 0xFFFFFFFF
  | 0x0E => 0x00000001
  | _ => 0

/-- Every reserved field of the slot is 0, and no field of its layout holds a reserved code (R160). -/
def reservedOk (o : SlotOp) : Bool :=
  match o.kind with
  | .s | .a => true
  | .v => o.f 7 2 ≠ 3
  | .m =>
    if o.op = 0x0E || o.op = 0x0F then o.f 0 11 = 0
    else if o.op = 0x10 then o.f 0 23 = 0
    else true
  | .c => o.f 0 32 &&& cFields o.op = o.f 0 32
  | .l => o.f 64 1 = 0 && o.f 65 2 ≠ 3

/-- A slot's encoding is legal by itself. -/
def slotLegal (o : SlotOp) : Bool := listed o && reservedOk o

/-! ### What a slot writes -/

/-- Register classes, with vector registers counted natively. -/
inductive RegId where
  | s (n : Nat) | a (n : Nat) | m (n : Nat) | v (n : Nat) | p (n : Nat) | vn
  deriving DecidableEq, Repr

/-- The native registers of a vector operand (R132). -/
def vregs (long : Bool) (n : Nat) : List Nat := if long then (upto 8).map fun i => 8 * n + i else [n]

/-- The registers a slot writes; discarded writes of `s0` and `p0` are none (R160). -/
def writesOf (long : Bool) (o : SlotOp) : List RegId :=
  let x := o.op
  let sreg := fun (n : Nat) => if n = 0 then [] else [RegId.s n]
  let preg := fun (n : Nat) => if n % 8 = 0 then [] else [RegId.p (n % 8)]
  let vec := fun (n : Nat) => (vregs long n).map RegId.v
  let pm := if o.f 19 1 = 1 then [RegId.a (o.f 23 4)] else []
  match o.kind with
  | .s =>
    if x = 0 then []
    else if 0x20 ≤ x then preg (o.f 27 5)
    else if x = 0x18 || x = 0x19 then RegId.vn :: sreg (o.f 27 5)
    else sreg (o.f 27 5)
  | .a => if x = 0 then [] else if x = 0x04 then [RegId.m (o.f 28 3)] else [RegId.a (o.f 28 4)]
  | .v =>
    if x = 0 then []
    else if 0x12 ≤ x && x ≤ 0x17 then preg (o.f 27 5)
    else if x = 0x26 || x = 0x27 then sreg (o.f 27 5)
    else vec (o.f 27 5)
  | .m =>
    if x = 0 || x = 0x10 then []
    else if x ≤ 0x07 then sreg (o.f 27 5) ++ pm
    else if x = 0x0C then vec (o.f 27 5) ++ pm
    else if x = 0x0E then vec (o.f 27 5)
    else if x = 0x0F then []
    else pm
  | .c =>
    if x = 0x02 then [RegId.s 31]
    else if x = 0x03 then sreg (o.f 22 5)
    else if x = 0x08 || x = 0x09 then [RegId.a (o.f 28 4)]
    else []
  | .l =>
    if x = 0 then []
    else match o.f 65 2 with
      | 0 => sreg (o.f 67 5)
      | 1 => [RegId.a (o.f 67 5)]
      | _ => [RegId.m (o.f 67 5)]

/-! ### Rows and their operations -/

/-- The rows of the command table that stand for lane operations. -/
inductive LaneRow where
  | scalar | vtake | vform | pred | addr | li | vint | vcmp | vperm | vcvt | vfloat | vred | vfredsum | vbexp | sload | sstore
  | vld | vst | vgather | vscatter | ist | br | call | jr | rpt | sywait | syadd | hqpush | hqpop | hqrel | emit | mxRun | mxCbload
  | mxSignal | mxfence | isync | done
  deriving DecidableEq, Repr

/-- The row an operation belongs to; none for a no-operation or an `mx` of no listed kind. -/
def rowOfOp (o : SlotOp) : Option LaneRow :=
  let x := o.op
  match o.kind with
  | .s =>
    if x = 0 then none else if x = 0x18 then some .vtake else if x = 0x19 then some .vform
    else if 0x20 ≤ x then some .pred else some .scalar
  | .a => if x = 0 then none else some .addr
  | .l => if x = 0 then none else some .li
  | .v =>
    if x = 0 then none
    else if 0x12 ≤ x && x ≤ 0x17 then some .vcmp
    else if x = 0x1A then some .vperm
    else if x = 0x1B then some .vcvt
    else if 0x1C ≤ x && x ≤ 0x21 then some .vfloat
    else if 0x22 ≤ x && x ≤ 0x24 then some .vred
    else if x = 0x25 then some .vfredsum
    else if x = 0x26 || x = 0x27 then some .vbexp
    else some .vint
  | .m =>
    match x with
    | 0 => none
    | 0x0C => some .vld | 0x0D => some .vst | 0x0E => some .vgather | 0x0F => some .vscatter | 0x10 => some .ist
    | _ => if x ≤ 0x07 then some .sload else some .sstore
  | .c =>
    match x with
    | 0x01 => some .br | 0x02 => some .call | 0x03 => some .jr | 0x04 => some .rpt | 0x05 => some .sywait | 0x06 => some .syadd
    | 0x08 => some .hqpush | 0x09 => some .hqpop | 0x0A => some .hqrel | 0x0B => some .emit
    | 0x0C => match o.f 28 4 with | 1 => some .mxRun | 2 => some .mxCbload | 3 => some .mxSignal | _ => none
    | 0x0D => some .mxfence | 0x0E => some .isync | 0x0F => some .done
    | _ => none

/-- A bundle is a row's to issue: it holds an operation of the row, or it holds none of any row or an encoding that R160
refuses, and then any row issues it (log 23). A bundle with an `rpt` is the RPT row's, which gives the bundle to be repeated. -/
def rowTakes (r : LaneRow) (b : BitVec 128) : Bool :=
  match decodeBundle b with
  | none => true
  | some l => (l.any (fun o => rowOfOp o = some r) && (r = .rpt || !l.any fun o => rowOfOp o = some .rpt)) || l.all (fun o => (rowOfOp o).isNone) || l.any fun o => !slotLegal o

/-- The C-slot operation of a bundle, if it has one that is not a no-operation. -/
def cSlot (l : List SlotOp) : Option SlotOp := l.find? fun o => o.kind = .c && o.op ≠ 0

/-- What a repeat may repeat (R180): no C-slot operation, `vtake`, `vform` or `ist`. A bundle of no format breaks none of these rules;
it raises its own exception when it issues. -/
def repeatable (b : BitVec 128) : Bool :=
  match bundleSlots b with
  | none => true
  | some l => (cSlot l).isNone && !(l.any fun o =>
      (o.kind = .s && (o.op = 0x18 || o.op = 0x19)) || (o.kind = .m && o.op = 0x10))

/-- What a delay slot may not contain (R179): a branch, `rpt`, `done` or `isync`. -/
def barredInSlot (l : List SlotOp) : Bool :=
  match cSlot l with
  | none => false
  | some o => [0x01, 0x02, 0x03, 0x04, 0x0E, 0x0F].contains o.op

end Sys2Proof.Machine
end

