-- ==== Sys2Proof/Machine/Boundary.lean ====
section
/-! DEFINITION. Boundary engines: enable, correction tables, and what a first-layer and a last-layer job compute (R111 to
R122, R33). -/

namespace Sys2Proof.Machine

/-- Count in a counter of a boundary engine. -/
def cntB (s : State) (f : Fld) (b n : Nat) : State := addF s f b 0 n

/-! ### Enable (R111) -/

/-- BE_ENABLE: the register's other fields are stored as a register write stores them; `EN` = 1 is refused while another
enabled engine serves the stream. -/
def execBeEnable (b : Fin 32) (data : BitVec 32) (s : State) : Out :=
  let s1 := storeOthers s 0xD01000 b.val 0 data.toNat
  let x := getF s1 Reg.BE_CTL_STREAM b.val 0
  let taken := (upto 32).any fun c => c ≠ b.val && bit s1 Reg.BE_CTL_EN c 0 && getF s1 Reg.BE_CTL_STREAM c 0 = x
  .next (
    if !answers s 0xD01000 then s
    else if data.getLsbD 0 = false then setF s1 Reg.BE_CTL_EN b.val 0 0
    else if bit s1 Reg.BE_CTL_EN b.val 0 then s1
    else if taken then setF s1 Reg.BE_CTL_CFG_ERR b.val 0 1
    else setF s1 Reg.BE_CTL_EN b.val 0 1)

/-! ### Tables (R112, R115, R116) -/

/-- Bytes of an image of `cols` entries. -/
def tblBytes (cols : Nat) : Nat := 64 + 8 * cols

/-- Read an image's bytes and whether any block failed. -/
def readImage (s : State) (a n : Nat) : List Byte × Bool × State :=
  let r := devRead s a n .clean 0
  (r.1.map (·.1), r.1.any (·.2), r.2)

def u16 (bs : List Byte) (o : Nat) : Nat := leNat ((bs.drop o).take 2)
def u32 (bs : List Byte) (o : Nat) : Nat := leNat ((bs.drop o).take 4)
def u64 (bs : List Byte) (o : Nat) : Nat := leNat ((bs.drop o).take 8)

/-- Width of the line of the stream an engine serves. -/
def boundW (s : State) (b : Nat) : Nat := (stream s (getF s Reg.BE_CTL_STREAM b 0)).w

/-- The header's reserved bits are 0 and its columns are the bound stream's (R112, R115). -/
def headerOk (s : State) (b : Nat) (bs : List Byte) : Bool :=
  u16 bs 8 = boundW s b && u32 bs 8 / 2 ^ 17 = 0 && (bs.drop 16).all fun x => x = 0

/-- A table load is refused or fails (R115, R421). -/
def loadErr (s : State) (b : Nat) : State := evSet (setF s Reg.BE_TBL_STAT_LOAD_ERR b 0 1) (192 + b)

/-- TABLE_LOAD: starts the load of the inactive bank, or refuses it. -/
def execTableLoad (b : Fin 32) (addr : Addr) (s : State) : Out :=
  let a := addr.toNat / 64 * 64
  let r := readImage s a 64
  .next (
    if !answers s 0xD01008 then s
    else if (engine s b.val).oldBusy || (engine s b.val).loading.isSome then loadErr s b.val
    else if r.2.1 || !headerOk s b.val r.1 then loadErr r.2.2 b.val
    else updEngine r.2.2 b.val fun e => { e with loading := some a, ready := false })

/-- The bank an image holds. -/
def bankOfImage (a : Nat) (bs : List Byte) : TblBank :=
  { valid := true, addr := a, black := [u16 bs 0, u16 bs 2, u16 bs 4, u16 bs 6], cols := u16 bs 8,
    dpc := u16 bs 10 % 2 = 1, version := u32 bs 12,
    entries := (upto (u16 bs 8)).foldl (fun m c => mset 0 m c (BitVec.ofNat 64 (u64 bs (64 + 8 * c)))) [] }

/-- TABLE_LOAD_COMPLETE: `READY`, or `LOAD_ERR` if the image failed or an entry's reserved bits are not 0. -/
def execTableLoadComplete (b : Fin 32) (s : State) : Out :=
  .next (match (engine s b.val).loading with
    | none => s
    | some a =>
      let r := readImage s a (tblBytes (boundW s b.val))
      let bank := bankOfImage a r.1
      let s1 := updEngine r.2.2 b.val fun e => { e with loading := none }
      if r.2.1 || !headerOk s b.val (r.1.take 64) || bank.entries.any (fun e => 2 ^ 33 ≤ e.2.toNat) then
        loadErr s1 b.val
      else updEngine s1 b.val fun e => { e with inactive := bank, ready := true })

/-- The banks change places: the new one governs from row `row` of the engine's stream, and the old one is busy until the stripes before
it are freed (R115). The event names the first line. DESIGN CHOICE (log 21): a load in progress, which `OLD_BUSY` now bars from the bank
that it fills, ends with `LOAD_ERR`. -/
def swapBanks (s : State) (b row : Nat) : State :=
  let x := getF s Reg.BE_CTL_STREAM b 0
  let s0 := if (engine s b).loading.isSome then loadErr s b else s
  let s1 := updEngine s0 b fun k =>
    { k with active := k.inactive, inactive := k.active, ready := false, since := row, oldBusy := true, swapStaged := false, loading := none }
  bankPass (streamEvent s1 x 0x02 b [row * (stream s x).h, (engine s1 b).active.version])

/-- TABLE_SWAP_REQUEST: stages the swap of class B, or sets `SWAP_ERR`. On a disabled engine the swap takes effect at once (R6): from the
row that its stream assembles. -/
def execTableSwapRequest (b : Fin 32) (s : State) : Out :=
  let e := engine s b.val
  let x := getF s Reg.BE_CTL_STREAM b.val 0
  .next (
    if !answers s 0xD01010 then s
    else if !e.ready then evSet (setF s Reg.BE_TBL_STAT_SWAP_ERR b.val 0 1) (192 + b.val)
    else if !beEn s b.val then swapBanks s b.val (stream s x).row
    else updEngine s b.val fun k => { k with swapStaged := true, swapEpoch := (stream s x).epoch, applied := false })

/-- The staged swap's epoch boundary has been passed. -/
def swapDue (s : State) (b : Nat) : Bool :=
  (engine s b).swapStaged && (engine s b).swapEpoch < (stream s (getF s Reg.BE_CTL_STREAM b 0)).epoch

/-- First line the bank governs: that of the epoch after the one in which the swap was staged. -/
def swapLine (s : State) (b : Nat) : Nat :=
  ((engine s b).swapEpoch + 1) * (stream s (getF s Reg.BE_CTL_STREAM b 0)).epochLen

/-- The event of R33 for `BE_TBL_SWAP`. -/
def appliedEvent (s : State) (b line : Nat) : State :=
  streamEvent s (getF s Reg.BE_CTL_STREAM b 0) 0x01 0xD01010 [line, 1]

/-- B_APPLIED: the staged class-B field has taken effect; its event is posted once. -/
def execBApplied (b : Fin 32) (s : State) : Out :=
  let e := engine s b.val
  .next (
    match e.applyDue with
    | some line => updEngine (appliedEvent s b.val line) b.val fun k => { k with applyDue := none }
    | none =>
      if swapDue s b.val && !e.applied then
        updEngine (appliedEvent s b.val (swapLine s b.val)) b.val fun k => { k with applied := true }
      else s)

/-- TABLE_SWAP: at the epoch boundary the banks change places for the rows from there on; the old bank is busy until the
stripes before are freed. -/
def execTableSwap (b : Fin 32) (s : State) : Out :=
  let x := getF s Reg.BE_CTL_STREAM b.val 0
  .next (
    if swapDue s b.val then
      let line := swapLine s b.val
      swapBanks (updEngine s b.val fun k => { k with applyDue := if k.applied then none else some line }) b.val (line / (stream s x).h)
    else s)

/-- The job an engine runs: the head of its slots. -/
def engineJob (s : State) (b : Nat) : Option Job := ((engine s b).slots.head?).bind fun e => jobOf s e.2

/-- Rows before `since` use the old bank, which a swap left in the inactive place (R115). -/
def usesOld (e : BEngine) (row : Nat) : Bool := row < e.since
def tblOf (e : BEngine) (old : Bool) : TblBank := if old then e.inactive else e.active
def setTbl (e : BEngine) (old : Bool) (k : TblBank) : BEngine := if old then { e with inactive := k } else { e with active := k }

/-- The engine's job uses the old bank. -/
def jobOld (s : State) (b : Nat) : Bool := (engineJob s b).elim false fun j => usesOld (engine s b) (idLow j.id)

/-- Reload the entries of a bank's image block that holds a column; none when the block fails. -/
def reloadEntries (s : State) (b : Nat) (old : Bool) (col : Nat) : Option State :=
  let k := tblOf (engine s b) old
  let c0 := col / 8 * 8
  let r := readImage s (k.addr + 64 + 8 * c0) 64
  if r.2.1 then none
  else some (updEngine r.2.2 b fun e =>
    { setTbl e old { k with entries := (upto 8).foldl (fun m i =>
        if c0 + i < k.cols then mset 0 m (c0 + i) (BitVec.ofNat 64 (u64 r.1 (8 * i))) else m) k.entries } with lost := none })

/-- TABLE_PARITY_ERROR (R116): the entries of the bank that the engine's job uses are reloaded and the job touching them aborts; if the
image block fails too, the entries are lost and the engine takes no further dispatch (R441). -/
def execTableParityError (b : Fin 32) (column : Nat) (s : State) : Out :=
  let s1 := cntB s Reg.BE_CNT_PARITY b.val 1
  let old := jobOld s b.val
  let k := tblOf (engine s b.val) old
  let id := (engineJob s b.val).elim 0 (·.id)
  let r := (readImage s1 (k.addr + 64 + 8 * (column / 8 * 8)) 64).2.2
  .next (
    if !k.valid || k.cols ≤ column then s
    else match reloadEntries s1 b.val old column with
      | some s2 => report (evSet s2 (192 + b.val)) (mkReport 0x44 .boundary b.val column id 0)
      | none => report (evSet (updEngine r b.val fun e => { e with lost := some column, lostOld := old }) (192 + b.val))
          (mkReport 0x45 .boundary b.val column id 0))

/-! ### Raw pixels (R105) -/

/-- The image a job reads of a stripe: copy A, copy B once A has failed, or lines refilled once both have (R47); with
whether a detection code failed. -/
def readStripe (s : State) (k : Stripe) (id : JobId) : List Byte × Bool × State :=
  if k.lostA && k.lostB then ((substitute s k).image, false, s)
  else match k.units with
    | none => (k.image, false, s)
    | some u =>
      let r := devRead s (copyAddr s u.1 k.lostA) k.image.length .clean id
      (r.1.map (·.1), r.1.any (·.2), r.2)

/-- Raw pixel: line `i` and column `c` of a segment's image. -/
def imagePix (st : Stream) (img : List Byte) (i c : Nat) : Nat :=
  let p := u16 img 14
  let at0 := 128 + (16 * st.h + 63) / 64 * 64 + i * p + c * st.fmt.bits / 8
  bitsOf (leNat ((img.drop at0).take 4)) (c * st.fmt.bits % 8) st.fmt.bits

/-- Raw pixels of the lines of a set of stripe images, by stream line and column. -/
def rawPix (st : Stream) (imgs : List (Nat × Nat × List Byte)) (line c : Nat) : Nat :=
  match imgs.find? fun e => e.1 = line / st.h && e.2.1 = c / st.seg with
  | some e => imagePix st e.2.2 (line % st.h) (c % st.seg)
  | none => 0

/-! ### Correction (R113, R114) -/

/-- Phase of a pixel: line parity × 2 + column parity, 0 in mono (R112). -/
def phaseOf (st : Stream) (line c : Nat) : Nat := if st.fmt.bayer = 0 then 0 else line % 2 * 2 + c % 2

/-- The corrected value of R113, before its clamp. -/
def correct (bank : TblBank) (bits phi c v : Nat) : Int :=
  let e := (mget 0 bank.entries c).toNat
  let d : Int := (v * 2 ^ (16 - bits) : Nat) - (bank.black.getD phi 0 : Nat) - sgn 16 (e / 2 ^ 16)
  roundAway { m := d * (e % 2 ^ 16 : Nat), e := -14 }

def clamp16 (y : Int) : Nat := (max 0 (min 65535 y)).toNat

/-- A corrected pixel of a line and column. -/
def pixC (st : Stream) (bank : TblBank) (imgs : List (Nat × Nat × List Byte)) (line c : Nat) : Int :=
  correct bank st.fmt.bits (phaseOf st line c) c (rawPix st imgs line c)

def defectAt (bank : TblBank) (c : Nat) : Bool := (mget 0 bank.entries c).toNat / 2 ^ 32 % 2 = 1

/-- The pixel the network reads: corrected, and replaced in a defective column (R114); `none` where no replacement was
found. -/
def pixD (st : Stream) (bank : TblBank) (imgs : List (Nat × Nat × List Byte)) (line c : Nat) : Option Nat :=
  let v := fun c => clamp16 (pixC st bank imgs line c)
  if bank.dpc && defectAt bank c then
    let q := if st.fmt.bayer = 0 then 1 else 2
    let l := ([1, 2, 3, 4].filter fun n => n * q ≤ c && !defectAt bank (c - n * q)).head?
    let r := ([1, 2, 3, 4].filter fun n => c + n * q < st.w && !defectAt bank (c + n * q)).head?
    match l, r with
    | some a, some b => some ((v (c - a * q) + v (c + b * q) + 1) / 2)
    | some a, none => some (v (c - a * q))
    | none, some b => some (v (c + b * q))
    | none, none => none
  else some (v c)

/-! ### First layers (R117, R257) -/

/-- The input index a tap reads on an axis of `len` inputs, or none for the padding value (R257); `len` 0: no upper end. A mirrored
index may still lie outside, for a filler column far beyond the line. -/
def padIndex (mode len : Nat) (i : Int) : Option Int :=
  if 0 ≤ i && (len = 0 || i < len) then some i
  else match mode with
    | 2 => some (if i < 0 then -i else 2 * ((len : Int) - 1) - i)
    | 3 => some (if i < 0 then 0 else (len : Int) - 1)
    | _ => none

/-- The padding value of the modes that read no input. -/
def padCode (mode const : Nat) : Nat := if mode = 1 then const else 0

/-- The code at index `i` of an axis of `len`: read, or padded. -/
def padded (mode const len : Nat) (i : Int) (read : Nat → Nat) : Nat :=
  match padIndex mode len i with
  | none => padCode mode const
  | some k => if k < 0 then (Config.beyondMirror i).toNat else read k.toNat

/-- Indices from `lo` up to before `hi`. -/
def span (lo hi : Int) : List Int := (upto (hi - lo).toNat).map fun (n : Nat) => lo + (n : Int)

/-- Record `k` of a job's template. -/
def layerShape (s : State) (j : Job) (t : Template) (k : Nat) : ShapeRec :=
  ((shapesOf (plan s j.plan).image t)[k]?).getD (decodeShape [])

/-- Exact sum of one output (R117): output channel, output line and column, both counted along the stream. -/
def convAt (st : Stream) (f : FirstLayer) (r : ShapeRec) (bank : TblBank) (imgs : List (Nat × Nat × List Byte)) (o y x : Nat) : Int :=
  let q := if f.bayerSplit then 2 else 1
  let planes := q * q
  ((upto planes).flatMap fun p => (upto r.kh).flatMap fun ky => (upto r.kw).map fun kx =>
    let w := f.weights.getD (((o * planes + p) * r.kh + ky) * r.kw + kx) 0
    let at0 := fun (a c : Nat) => (pixD st bank imgs (q * a + p / 2) (q * c + p % 2)).getD 0
    let iy : Int := (r.sy * y + ky : Nat) - (r.padT : Nat)
    let ix : Int := (r.sx * x + kx : Nat) - (r.padL : Nat)
    w * (padded r.padMode r.padConst 0 iy fun a => padded r.padMode r.padConst (st.w / q) ix fun c => at0 a c : Nat)).sum

/-- Run-time step exponents of an operator (R236): its own and its input's. -/
def deltaFor (s : State) (j : Job) (t : Template) (o : OpEntry) : Int :=
  if o.mode = 3 then (deltaOf s (idStream j.id) o (driftIndex t o (idLow j.id))).getD o.d0 else 0

/-- Output scale of a boundary engine's layer: the operator's scale times the channel's weight scale (R117, R236). -/
def layerScale (s : State) (j : Job) (t : Template) (op ws : Nat) (we : Int) : Dy :=
  match opOf s j.plan op with
  | none => { m := ws, e := we }
  | some o =>
    let inp : Int := if o.inputOp = 0 then 0 else (opOf s j.plan o.inputOp).elim 0 (deltaFor s j t)
    { m := (o.baseS * ws : Nat), e := o.baseE + inp - deltaFor s j t o + we }

/-- One output of a first layer: activation, one rounding, clamp. -/
def firstOut (f : FirstLayer) (acc : Int) (scale : Dy) : Dy × Conv :=
  let x := if f.act = 1 then max 0 acc else acc
  let v := (Dy.int x).mul scale
  let c := roundSat f.oFmt v
  (v, if f.act = 2 then { c with code := clampCode f.oFmt (unsgn 8 f.clampLo) (unsgn 8 f.clampHi) c.code } else c)

/-- Totals of converted outputs join a job's for its operator (R240). -/
def addStats (l : List (Nat × Nat × Nat × Nat × Int)) (op : Nat) (k : Stats) : List (Nat × Nat × Nat × Nat × Int) :=
  if op = 0 then l
  else if l.any fun e => e.1 = op then
    l.map fun e => if e.1 = op then (op, e.2.1 + k.n, e.2.2.1 + k.sat, e.2.2.2.1 + k.sse, max e.2.2.2.2 k.top) else e
  else l ++ [(op, k.n, k.sat, k.sse, k.top)]

/-- Totals of a list of outputs. -/
def statsOf (l : List (Dy × Conv)) : Stats := l.foldl (fun k v => k.take v.1 v.2) Stats.zero

/-- Where a first-layer job works: output lines of a stripe and columns of a lane, the first output line and column, and the lines
and columns of the stream that it corrects, columns read only for R114 apart. -/
structure FirstArea where
  nY : Nat
  core : Nat
  y0 : Nat
  x0 : Nat
  lines : List Nat
  cols : List Nat
  search : List Nat
  deriving DecidableEq, Repr

def firstArea (st : Stream) (f : FirstLayer) (sh : ShapeRec) (r g : Nat) : FirstArea :=
  let q := if f.bayerSplit then 2 else 1
  let nY := st.h / q / sh.sy
  let c := st.seg / q / 32 / sh.sx
  let y0 := r * nY
  let x0 := g * (32 * c)
  let halo := f.outHalo
  let line := fun (y : Nat) => (sh.sy * y : Nat) - (sh.padT : Int)
  let col := fun (x : Int) => (sh.sx : Int) * x - (sh.padL : Int)
  let c0 := (q : Int) * col (x0 - (halo : Int))
  let c1 := (q : Int) * (col ((x0 + 32 * c + halo : Nat) - 1) + sh.kw)
  let keep := fun (lim : Nat) (l : List Int) => (l.filter fun (i : Int) => decide (0 ≤ i) && (lim = 0 || decide (i < (lim : Int)))).map Int.toNat
  { nY := nY, core := c, y0 := y0, x0 := x0,
    lines := keep 0 (span ((q : Int) * line y0) ((q : Int) * (line (y0 + nY) - sh.sy + sh.kh))),
    cols := keep st.w (span c0 c1), search := keep st.w (span (c0 - 8) c0 ++ span c1 (c1 + 8)) }

/-- The stripes a first-layer job touches: those of the lines and columns it corrects; for a last segment that is not full, the whole
line (R258). -/
def touched (s : State) (x g : Nat) (a : FirstArea) : List Stripe :=
  let st := stream s x
  s.stripes.filter fun k => k.stream = x && k.announced && (a.lines.any fun l => l / st.h = k.row) &&
    (segCols st g < st.seg || (a.cols ++ a.search).any fun c => c / st.seg = k.seg)

/-- Where a job's maps lie in turn: its place among the instances of its template. -/
def turnOf (s : State) (x i g n : Nat) : Nat := if n = 0 then 0 else (i * nSegs (stream s x) + g) % n

/-! ### Queue ends of an engine's job (R280, R283) -/

/-- The first of a template's queue ends whose next slot is not there, with whether it is the producer's. -/
def engineStuck (s : State) (t : Template) : Option (Nat × Bool) :=
  (t.queues.find? fun e => !endReady s t.index e.1 e.2.1).map fun e => (e.1, e.2.1)

/-- The engine takes a slot at each of its queue ends. -/
def engineTake (s : State) (j : Job) (t : Template) : State :=
  thread (fun s' (e : Nat × Bool × Nat) =>
    let q := queue s' e.1
    if e.2.1 then putQueue s' e.1 (if q.decl.kind = 2 then takeHalo q j.id (haloTagOf s' j.id e.1 q.tail) else takeSlot q)
    else putQueue (cnt s' Reg.SY_CNT_POPS) e.1 (if q.decl.kind = 2 then popHalo q j.id t.index else popSlot q)) s t.queues

/-- It pushes what it has filled and releases what it has read. -/
def engineGive (s : State) (j : Job) (t : Template) : State :=
  thread (fun s' (e : Nat × Bool × Nat) =>
    let q := queue s' e.1
    if e.2.1 then
      (if q.decl.kind = 2 then publishHalo (cnt s' Reg.SY_CNT_PUSHES) e.1 (q.tail - 1) false (j.id :: List.replicate q.decl.refs 0)
       else putQueue (cnt s' Reg.SY_CNT_PUSHES) e.1 ((fillingSlot q).elim q (pushSlot q)))
    else if q.decl.kind = 2 then s' else putQueue s' e.1 ((drainingSlot q).elim q (releaseSlot q))) s t.queues

/-- The queue and slot that an engine's job holds at its producer's or its consumer's end: the one taken last. -/
def heldSlot (s : State) (t : Template) (prod : Bool) : Option (Nat × Nat) :=
  (t.queues.find? fun e => e.2.1 = prod).map fun e =>
    let q := queue s e.1
    (e.1, if prod then (q.tail + q.decl.depth - 1) % q.decl.depth
      else ((if q.decl.kind = 2 then mget 0 q.hpos t.index else q.head) + q.decl.depth - 1) % q.decl.depth)

/-- Where an engine's job writes: the slot it fills, or its place in the plan's region. -/
def outPlace (s : State) (t : Template) (k plain : Nat) : Nat :=
  match heldSlot s t true with
  | some (q, n) => slotAddr s (queue s q) n + k
  | none => plain

/-- A first-layer job: reads its stripes, corrects them, convolves, and writes every phase of its map in the lane-run layout (R253,
R254); the answer says whether an input failed its detection code, with the address. -/
def runFirst (s : State) (j : Job) (t : Template) (f : FirstLayer) (b : Nat) : State × Option Nat :=
  let x := idStream j.id
  let r := idLow j.id
  let g := idSeg j.id
  let st := stream s x
  let e := engine s b
  let bank := tblOf e (usesOld e r)
  let sh := layerShape s j t 0
  let ar := firstArea st f sh r g
  let got := thread (fun (acc : List (Nat × Nat × List Byte) × Option Nat × State) (k : Stripe) =>
    let q := readStripe acc.2.2 k j.id
    (acc.1 ++ [(k.row, k.seg, q.1)],
     if q.2.1 && acc.2.1.isNone then k.units.map fun u => copyAddr s u.1 k.lostA else acc.2.1, q.2.2)) ([], none, s) (touched s x g ar)
  let imgs := got.1
  match got.2.1 with
  | some a => (got.2.2, some a)
  | none =>
    let outW := (sizeX sh (st.w / (if f.bayerSplit then 2 else 1))).toNat
    let cg := (sh.cOut + 3) / 4
    let out := fun (o y c : Nat) =>
      firstOut f (convAt st f sh bank imgs o (ar.y0 + y) c) (layerScale s j t sh.opId (f.scaleS.getD o 0) (f.scaleE.getD o 0))
    let val := fun (o y : Nat) (c : Int) => padded f.outPad f.outConst outW c fun i => (out o y i).2.code
    let phases := span (-(f.outHalo : Int)) (ar.core + f.outHalo : Nat)
    let rows := (upto ar.nY).flatMap fun y => phases.flatMap fun p => (upto cg).flatMap fun h => (upto 128).map fun i =>
      let o := 4 * h + i % 4
      BitVec.ofNat 8 (if o < sh.cOut then val o y ((ar.x0 + i / 4 * ar.core : Nat) + p) else 0)
    let real := (upto ar.nY).flatMap fun y =>
      ((span (ar.x0 - (f.outHalo : Int)) (ar.x0 + 32 * ar.core + f.outHalo : Nat)).filter fun (c : Int) => decide (0 ≤ c) && decide (c < (outW : Int))).flatMap fun c =>
        (upto sh.cOut).map fun o => out o y c.toNat
    let lines := ar.lines.filter fun l => imgs.any fun m => m.1 = l / st.h
    let clamps := (lines.map fun l =>
      ((ar.cols ++ ar.search).filter fun c => pixC st bank imgs l c ≠ (clamp16 (pixC st bank imgs l c) : Nat)).length).sum
    let bare := (lines.map fun l => (ar.cols.filter fun c => (pixD st bank imgs l c).isNone).length).sum
    let at0 := outPlace s t 0 ((plan s j.plan).base + f.outOfs + turnOf s x r g f.slots * rows.length)
    let s1 := cntB (cntB got.2.2 Reg.BE_CNT_SAT b clamps) Reg.BE_CNT_NOREPL b bare
    let s2 := unitJudge (noteOut (devPut s1 at0 rows) j.id at0 rows.length) [.job j.id] j.id [(at0, rows.length, true)]
    (updJob s2 j.id fun k =>
      { k with stats := addStats k.stats sh.opId (statsOf real) }, none)

/-! ### Last layers (R118, R119) -/

/-- Value of an INT8 or FP8 code by format. -/
def actValue (fmt c : Nat) : Dy :=
  match oFmt fmt with
  | .int w => .int (sgn w c)
  | .float f => (fp8Operand f c).1

/-- One output of a layer on a map of `w` columns, given by line, column and channel along the stream: the exact value and what it
becomes. -/
def stageAt (s : State) (j : Job) (t : Template) (r : ShapeRec) (k : LastStage) (w : Nat) (m : Nat → Nat → Nat → Nat) (y x o : Nat) :
    Dy × Conv :=
  let terms := (upto r.kh).flatMap fun ky => (upto r.kw).flatMap fun kx => (upto r.cIn).map fun c =>
    let code := padded r.padMode r.padConst 0 ((y + ky : Nat) - (r.padT : Int)) fun a =>
      padded r.padMode r.padConst w ((x + kx : Nat) - (r.padL : Int)) fun b => m a b c
    (Dy.int (k.weights.getD (((o * r.cIn + c) * r.kh + ky) * r.kw + kx) 0)).mul (actValue k.aFmt code)
  let v := (terms.foldl Dy.add (Dy.int 0)).mul (layerScale s j t r.opId (k.scaleS.getD o 0) (k.scaleE.getD o 0))
  (v, roundSat k.oFmt v)

/-- The lines, or of an axis of `len` inputs the columns, that a layer reads for some of its outputs. -/
def axisReads (mode len pad kernel : Nat) (l : List Nat) : List Nat :=
  (l.flatMap fun y => (upto kernel).filterMap fun k =>
    (padIndex mode len ((y + k : Nat) - (pad : Int))).bind fun i => if i < 0 then none else some i.toNat).eraseDups

/-- Argmax of a position (R119): score, class; ties go to the lowest channel. -/
def argmax (vals : List Int) : Int × Nat :=
  ((upto vals.length).zip vals).foldl (fun (acc : Int × Nat) v => if acc.1 < v.2 then (v.2, v.1) else acc)
    (vals.headD 0, 0)

/-- A heat-map element. -/
def heatElem (l : LastLayer) (vals : List Int) : Nat × Bool :=
  let a := argmax vals
  let hit := a.2 ≠ l.background && l.thresholds.getD a.2 0 ≤ a.1
  (unsgn 8 a.1 + a.2 * 2 ^ 8 + b2n hit * 2 ^ 11, hit)

/-- The map that a last-layer job reads: columns, columns of a lane, halo columns, lines of one of its producer's maps, channel rows,
and where its maps lie: in the plan's region, or in a queue, of which it holds a slot, with the place of that map among all. -/
structure LaneMap where
  w : Nat
  core : Nat
  halo : Nat
  lines : Nat
  cg : Nat
  base : Nat
  slots : Nat
  inQ : Option (Nat × Nat)
  own : Nat
  deriving DecidableEq, Repr

def laneMap (s : State) (j : Job) (t : Template) (l : LastLayer) : LaneMap :=
  let st := stream s (idStream j.id)
  let im := (plan s j.plan).image
  let m := mapIn im st.w st.seg t
  let u := ((t.deps.head?).bind fun d => tmplAt s j.plan d.template).getD t
  { w := m.w, core := m.core, halo := l.inHalo, lines := linesOf u st.h / m.sy, cg := ((layerShape s j t 0).cIn + 3) / 4,
    base := (plan s j.plan).base + l.inAddr, slots := l.inSlots, inQ := heldSlot s t false,
    own := idLow j.id * (linesOf t st.h / m.sy) / (linesOf u st.h / m.sy) * nSegs st + idSeg j.id }

/-- Bytes of a line of a map, and its address: line `y` of the stream, in the map of segment `g` (R253). -/
def LaneMap.lineBytes (m : LaneMap) : Nat := (m.core + 2 * m.halo) * m.cg * 128
def lineAddr (s : State) (x : Nat) (m : LaneMap) (y g : Nat) : Nat :=
  match m.inQ with
  | none => m.base + (turnOf s x (y / m.lines) g m.slots * m.lines + y % m.lines) * m.lineBytes
  | some (q, k) =>
    let u := queue s q
    let n : Int := (k : Int) + (y / m.lines * nSegs (stream s x) + g : Nat) - (m.own : Nat)
    slotAddr s u (n % (u.decl.depth : Int)).toNat + y % m.lines * m.lineBytes

/-- Place in a line's bytes of a column and channel: columns beyond the segment lie in the outer halo of its first or last lane. -/
def LaneMap.at0 (m : LaneMap) (g x c : Nat) : Nat :=
  let lx : Int := (x : Int) - (g * 32 * m.core : Nat)
  let lane := (min (lx / (max 1 m.core : Nat)) 31).toNat
  ((lx - (lane * m.core : Nat) + (m.halo : Nat)).toNat * m.cg + c / 4) * 128 + 4 * lane + c % 4

/-- What a last-layer job does in one segment: the heat-map or channel bytes of its lines and valid columns, the positions that hit,
and the outputs converted for each record. -/
def lastSeg (s : State) (j : Job) (t : Template) (l : LastLayer) (m : LaneMap) (lines : List Nat) (g : Nat)
    (bytes : List (Nat × List Byte)) : List (Nat × Nat × List Byte) × Nat × List (Nat × List (Dy × Conv)) :=
  let none0 : LastStage := { weights := [], scaleS := [], scaleE := [], oFmt := 0, aFmt := 0 }
  let r1 := layerShape s j t 0
  let inp := fun (y c ch : Nat) => ((bytes.find? fun e => e.1 = y).bind fun e => e.2[m.at0 g c ch]?).elim 0 (·.toNat)
  let o1 := stageAt s j t r1 (l.stages.headD none0) m.w inp
  let w1 := (sizeX r1 m.w).toNat
  let cols := fun (w : Nat) => (upto (32 * m.core)).filterMap fun i => if g * 32 * m.core + i < w then some (g * 32 * m.core + i) else none
  let all := fun (f : Nat → Nat → Nat → Dy × Conv) (ys cs : List Nat) (ch : Nat) =>
    ys.flatMap fun y => cs.flatMap fun c => (upto ch).map fun o => f y c o
  let (out, ch, xs, done) := match l.stages[1]? with
    | none => (o1, r1.cOut, cols w1, [(r1.opId, all o1 lines (cols w1) r1.cOut)])
    | some k =>
      let r2 := layerShape s j t 1
      let o2 := stageAt s j t r2 k w1 fun y c o => (o1 y c o).2.code
      let xs := cols (sizeX r2 w1).toNat
      (o2, r2.cOut, xs,
       [(r1.opId, all o1 (axisReads r2.padMode 0 r2.padT r2.kh lines) (axisReads r2.padMode w1 r2.padL r2.kw xs) r1.cOut),
        (r2.opId, all o2 lines xs r2.cOut)])
  let vals := fun (y c : Nat) => (upto ch).map fun o => sgn 8 (out y c o).2.code
  let cells := lines.flatMap fun y => xs.map fun c => (y, c)
  (cells.map fun p => (p.1, p.2 - g * 32 * m.core,
     if l.argmax then natLE 2 (heatElem l (vals p.1 p.2)).1 else (upto ch).map fun o => BitVec.ofNat 8 (out p.1 p.2 o).2.code),
   (cells.filter fun p => l.argmax && (heatElem l (vals p.1 p.2)).2).length, done)

/-- The lines of its input that a last-layer job reads for its own lines. -/
def lastReads (s : State) (j : Job) (t : Template) (l : LastLayer) (lines : List Nat) : List Nat :=
  let r1 := layerShape s j t 0
  let r2 := layerShape s j t 1
  axisReads r1.padMode 0 r1.padT r1.kh (if l.stages.length = 2 then axisReads r2.padMode 0 r2.padT r2.kh lines else lines)

/-- A last-layer job: one or two layers over the maps it reads, halo lines of its neighbours' among them, then argmax or channel
values, and the count of hits. Filler columns of the last segment are not written and never hit (R258). -/
def runLast (s : State) (j : Job) (t : Template) (l : LastLayer) : State × Option Nat :=
  let x := idStream j.id
  let st := stream s x
  let m := laneMap s j t l
  let n := linesOf t st.h / (mapIn (plan s j.plan).image st.w st.seg t).sy
  let lines := (upto n).map fun i => idLow j.id * n + i
  let segs := segsOf st t (idSeg j.id)
  let got := thread (fun (acc : List (Nat × Nat × List Byte) × Option Nat × State) (e : Nat × Nat) =>
    let a := lineAddr s x m e.1 e.2
    let rd := devRead acc.2.2 a m.lineBytes .clean j.id
    (acc.1 ++ [(e.1, e.2, rd.1.map (·.1))], if rd.1.any (·.2) && acc.2.1.isNone then some a else acc.2.1,
     unitJudge rd.2 [.job j.id] j.id [(a, m.lineBytes, false)])) ([], none, s)
    ((lastReads s j t l lines).flatMap fun y => segs.map fun g => (y, g))
  match got.2.1 with
  | some a => (got.2.2, some a)
  | none =>
    let base := (plan s j.plan).base
    let ch := (layerShape s j t (l.stages.length - 1)).cOut
    let posBytes := if l.argmax then 2 else ch
    let outBytes := n * (32 * m.core) * posBytes
    let one := fun (acc : State × Nat) (g : Nat) =>
      let r := lastSeg s j t l m lines g ((got.1.filter fun e => e.2.1 = g).map fun e => (e.1, e.2.2))
      let at0 := outPlace s t ((g - idSeg j.id) * outBytes) (base + l.outOfs + turnOf s x (idLow j.id) g l.slots * outBytes)
      let s1 := thread (fun s' (c : Nat × Nat × List Byte) =>
        let a := at0 + ((c.1 - idLow j.id * n) * (32 * m.core) + c.2.1) * posBytes
        unitJudge (devPut s' a c.2.2) [.job j.id] j.id [(a, c.2.2.length, true)]) acc.1 r.1
      (updJob (noteOut s1 j.id at0 outBytes) j.id fun k =>
        { k with stats := r.2.2.foldl (fun acc e => addStats acc e.1 (statsOf e.2)) k.stats }, acc.2 + r.2.1)
    let r := thread one (got.2.2, 0) segs
    let word := base + l.countOfs + 4 * turnOf s x (idLow j.id) (idSeg j.id) l.slots
    (noteOut (devPut r.1 word (natLE 4 r.2)) j.id word 4, none)

/-- What a boundary-engine job computes, and the address of an input that failed its detection code: it takes its slots, runs, and
passes them on. -/
def engineRun (s : State) (j : Job) (t : Template) (b : Nat) : State × Option Nat :=
  let s1 := engineTake s j t
  let r := match t.engine with
    | .tiles => (s1, none)
    | .first f => runFirst s1 j t f b
    | .last l => runLast s1 j t l
  if r.2.isSome then r else (engineGive r.1 j t, none)

end Sys2Proof.Machine
end

