-- ==== Sys2Proof/Machine/PeerOps.lean ====
section
/-! DEFINITION. What tokens, batches, results and messages share (R373 to R375, R385 to R402). -/

namespace Sys2Proof.Machine

/-! ### Staged records (R373, R375) -/

/-- Key of a record's order: its stream, or 64 + its submit ring. -/
def stageKey (host : Bool) (x r : Nat) : Nat := if host then 64 + r else x

/-- Where the model places entry `i` of a plan's record area in its DRAM region: after its image (log 20). -/
def recordAddr (s : State) (p i : Nat) : Nat := (plan s p).base + ((plan s p).length + 63) / 64 * 64 + 64 * i

/-- The lowest free place of a plan's record area. -/
def areaSlot (s : State) (p : Nat) : Nat :=
  let n := s.stage.length + 1
  ((upto n).find? fun i => !s.stage.any fun k => k.spilled && k.plan = p && k.slot = i).getD n

/-- A record passes to the queue manager: one of 2,048 entries on chip, else the record area (log 20). -/
def stageRecord (s : State) (k : StageRec) : State :=
  if 1 ≤ chipFree s then { s with stage := s.stage ++ [{ k with spilled := false }] }
  else
    let i := areaSlot s k.plan
    let s1 := if i < (plan s k.plan).image.recordArea / 64 then devPut s (recordAddr s k.plan i) k.bytes else s
    cnt { s1 with stage := s1.stage ++ [{ k with spilled := true, slot := i }] } Reg.QM_CNT_SPILL

/-- Bytes 0 to 15 of a result record (R373). -/
def recordHead (order x : Nat) (host gap last : Bool) (r : Nat) : List Byte :=
  natLE 8 order ++ natLE 4 (x + b2n host * 2 ^ 6 + b2n gap * 2 ^ 7 + b2n last * 2 ^ 8) ++ natLE 4 r

/-! ### Token fields (R387, R388) -/

def bytesNat (bs : List Byte) (off n : Nat) : Nat := leNat ((bs.drop off).take n)

def tokenId (bs : List Byte) : BitVec 128 := BitVec.ofNat 128 (bytesNat bs 0 16)
def tokenHost (bs : List Byte) : Bool := bytesNat bs 8 4 / 2 ^ 6 % 2 = 1
def tokenStream (bs : List Byte) : Nat := bytesNat bs 8 4 % 64
def tokenOrigin (i : BitVec 128) : Nat := bitsOf i.toNat 71 4
def tokenRing (bs : List Byte) : Nat := bytesNat bs 12 4 % 2 ^ 21

/-- The group's plan, and its template for expert `e`: the e-th expert-job template (R385). -/
def groupPlan (s : State) : Nat := fld s Reg.PM_CTL_PLAN
def expertTmpl (s : State) (e : Nat) : Option Template := ((templates s (groupPlan s)).filter fun t => t.kind = 3)[e]?

/-- This part hosts expert `e`. -/
def hostsExpert (s : State) (e : Nat) : Bool :=
  bit s Reg.PM_EXPERT_VALID 0 e && getF s Reg.PM_EXPERT_PART 0 e = fld s Reg.PM_CTL_SELF &&
  e < (plan s (groupPlan s)).image.experts

/-! ### The gate (R389) -/

/-- Gate candidates of a token header: expert and signed score. -/
def candidates (bs : List Byte) : List (Nat × Int) :=
  (upto 8).map fun q => (bytesNat bs (40 + 3 * q) 1, sgn 16 (bytesNat bs (41 + 3 * q) 2))

/-- Higher score first, then lower expert. -/
def rankBefore (a b : Nat × Int) : Bool := b.2 < a.2 || (a.2 = b.2 && a.1 ≤ b.1)

/-- The routes of a token: at most two valid candidates, each expert at its highest score. -/
def gateRoutes (x : Nat) (gate : Int) (cs : List (Nat × Int)) : List (Nat × Int) :=
  let valid := sortBy rankBefore (cs.filter fun c => c.2 ≠ -32768 && c.1 < x && gate ≤ c.2)
  (valid.foldl (fun (acc : List (Nat × Int)) c => if acc.any fun a => a.1 = c.1 then acc else acc ++ [c]) []).take 2

def badCands (x : Nat) (cs : List (Nat × Int)) : Nat := (cs.filter fun c => c.2 ≠ -32768 && x ≤ c.1).length

/-! ### Merging (R400) -/

/-- The merged record of a token whose routes are filled. -/
def mergedRecord (k : Token) : List Byte :=
  let r := fun i => k.routes[i]?
  let part := fun i => ((r i).bind (·.result)).elim (zeros 20) fun b => (b.drop 16).take 20
  recordHead (bytesNat k.bytes 0 8) (tokenStream k.bytes) (tokenHost k.bytes) k.gap true (tokenRing k.bytes) ++
    natLE 1 ((r 0).elim 0 (·.expert)) ++ natLE 1 ((r 1).elim 0 (·.expert)) ++ natLE 2 k.routes.length ++
    natLE 2 (unsgn 16 ((r 0).elim 0 (·.score))) ++ natLE 2 (unsgn 16 ((r 1).elim 0 (·.score))) ++ part 0 ++ part 1

/-- MERGE (R400): the merged record goes to the result queue, and the entry is freed, with local tokens retained for it. -/
def mergeToken (s : State) (k : Token) : State :=
  let s1 := stageRecord (cnt s Reg.PM_CNT_MERGED)
    { ring := k.ring, key := k.key, order := BitVec.ofNat 64 (bytesNat k.bytes 0 8), bytes := mergedRecord k,
      spilled := false, slot := 0, plan := k.plan }
  creditPass (updPm s1 fun p => { p with tokens := p.tokens.filter fun e => e.id != k.id,
                                         rx := p.rx.filter fun e => !(e.id = k.id && e.window.isNone) })

/-- A result for a route reaches its token's entry. -/
def takeResult (s : State) (id : BitVec 128) (expert rank : Nat) (block : List Byte) : State :=
  match s.pm.tokens.find? fun k => k.id = id with
  | none => cnt s Reg.PM_CNT_STRAY
  | some k => match k.routes[rank]? with
    | none => cnt s Reg.PM_CNT_STRAY
    | some r =>
      if r.expert ≠ expert then cnt s Reg.PM_CNT_STRAY
      else if r.result.isSome then cnt s Reg.PM_CNT_DUP
      else
        let k1 := { k with routes := k.routes.set rank { r with result := some block, due := false, retryAt := none } }
        let s1 := updPm s fun p => { p with tokens := p.tokens.map fun e => if e.id = id then k1 else e }
        if k1.routes.all fun r => r.result.isSome then mergeToken s1 k1 else s1

/-! ### Batches (R34, R398) -/

/-- Where the model places a plan's token store and batch tables in its DRAM region: after its image and its record area
(log 20). -/
def storeAddr (s : State) (p i : Nat) : Nat :=
  (plan s p).base + ((plan s p).length + 63) / 64 * 64 + (plan s p).image.recordArea + 1152 * i
def batchAddr (s : State) (p e i : Nat) : Nat := storeAddr s p 4096 + (e * 64 + i % 64) * 4096

/-- A place for the table of an expert's next batch: the next in turn that no expert-job, which may still run or run again, has (R398,
log 20). -/
def tablePlace (s : State) (p e n : Nat) : Option Nat :=
  (((upto 64).map fun k => batchAddr s p e (n + k)).find? fun a =>
    !s.jobs.any fun j => j.kind = .expert && (j.args.getD 0 0).toNat = a)

def batchOf (s : State) (e : Nat) : Batch := mget Batch.zero s.pm.batches e
def updBatch (s : State) (e : Nat) (f : Batch → Batch) : State :=
  updPm s fun p => { p with batches := mupd Batch.zero p.batches e f }

/-- Close an expert's open batch of up to the plan's size: sort it by token id, write its table, create the expert-job; while no place for
a table is free it stays open. Its dispatch priority is 0, which the
spec gives only to stream- and host jobs (R40; DESIGN CHOICE, log 12). -/
def closeBatch (s : State) (e : Nat) : State :=
  match expertTmpl s e with
  | none => s
  | some t =>
    let b := batchOf s e
    let p := groupPlan s
    match tablePlace s p e b.next with
    | none => s
    | some at0 =>
      if b.opened.isEmpty then s
      else
      let toks := sortBy (fun (a c : BitVec 128 × Nat) => a.1.toNat ≤ c.1.toNat) (b.opened.take (max 1 t.batchSize))
      let id := expertId e t.index b.next
      let table := natLE 8 (toks.length + e * 2 ^ 16) ++ toks.flatMap fun k => natLE 8 k.2
      let s1 := updBatch (devPut s at0 table) e fun b => { b with opened := b.opened.drop (max 1 t.batchSize), next := b.next + 1 }
      let s2 := updPm s1 fun m => { m with rx := m.rx.map fun k =>
        if k.expert = e && k.job.isNone && toks.any (fun q => q.1 = k.id) then { k with job := some id } else k }
      eligPass (addJob s2 { newJob id .expert p t.index 0 with
        args := [BitVec.ofNat 64 at0, BitVec.ofNat 64 toks.length, BitVec.ofNat 64 e], tokens := toks.map (·.1) })

/-- An accepted or local token joins its expert's open batch, which closes at the plan's size. -/
def joinBatch (s : State) (k : RxToken) : State :=
  let s1 := updPm s fun p => { p with rx := p.rx ++ [k] }
  let s2 := updBatch s1 k.expert fun b =>
    { b with opened := b.opened ++ [(k.id, k.addr)], openedNs := if b.opened.isEmpty then nowNs s else b.openedNs }
  match expertTmpl s2 k.expert with
  | some t => if t.batchSize ≤ (batchOf s2 k.expert).opened.length then closeBatch s2 k.expert else s2
  | none => s2

/-- Send a route: a local one joins its batch at once, a remote one waits for its channel (R386, R390). -/
def sendRoute (s : State) (id : BitVec 128) (rank : Nat) : State :=
  match s.pm.tokens.find? fun k => k.id = id with
  | none => s
  | some k => match k.routes[rank]? with
    | none => s
    | some r =>
      let upd := fun (s' : State) (r' : Route) => updPm s' fun p =>
        { p with tokens := p.tokens.map fun e => if e.id = id then { e with routes := e.routes.set rank r' } else e }
      if hostsExpert s r.expert then
        joinBatch (upd s { r with due := false, retryAt := none, part := fld s Reg.PM_CTL_SELF, sentNs := nowNs s })
          { id := id, expert := r.expert, rank := rank, sender := fld s Reg.PM_CTL_SELF, window := none, pos := 0,
            addr := k.addr + 64, job := none, answered := false }
      else upd s { r with due := true, retryAt := none }

/-- Lowest entry of the token store that is free. -/
def freeEntry (s : State) (p : Nat) : Nat :=
  ((upto 4096).find? fun i => !(s.pm.tokens.any fun k => k.addr = storeAddr s p i)).getD 0

/-- A token passes to peer messaging (R389, R390): the gate runs, the token takes an entry, its routes are sent; without a
route it is merged at once. -/
def passToken (s : State) (p r : Nat) (bytes : List Byte) : State :=
  let im := (plan s p).image
  let cs := candidates bytes
  let rs := (gateRoutes im.experts im.gate cs).map fun c =>
    { expert := c.1, score := c.2, due := false, retryAt := none, part := 0, resends := 0, sentNs := nowNs s,
      told := false, result := none : Route }
  let at0 := storeAddr s p (freeEntry s p)
  let k : Token := { id := tokenId bytes, plan := p, addr := at0, bytes := bytes, ring := r,
                     key := stageKey (tokenHost bytes) (tokenStream bytes) (tokenRing bytes),
                     gap := bytesNat bytes 16 1 % 2 = 1, routes := rs }
  let s1 := devPut (addF s Reg.PM_CNT_BAD_CAND 0 0 (badCands im.experts cs)) (at0 + 64) bytes
  let s2 := updPm s1 fun m => { m with tokens := m.tokens ++ [k] }
  if rs.isEmpty then mergeToken s2 k else thread (fun s' i => sendRoute s' k.id i) s2 (upto rs.length)

/-! ### Results of expert-jobs (R392, R398, R399) -/

/-- Index of channel (peer, class). -/
def chanIdx (p c : Nat) : Nat := 2 * p + c

/-- The result of an expert-job for one of its tokens: merged here, or sent to its origin; dropped where the channel to the
origin is closed. A token of this part that has been merged meanwhile has no entry (R400). -/
def answerToken (s : State) (job : JobId) (id : BitVec 128) (block : List Byte) : State :=
  let mine := s.pm.rx.filter fun k => k.id = id && k.job = some job
  match (mine.find? fun k => !k.answered).orElse fun _ => mine.head? with
  | none => if tokenOrigin id = fld s Reg.PM_CTL_SELF then cnt s Reg.PM_CNT_STRAY else s
  | some k =>
    if k.window.isNone then
      takeResult (updPm s fun p => { p with rx := p.rx.map fun e => if e = k then { e with answered := true } else e })
        id k.expert k.rank block
    else
      let s1 := updPm s fun p => { p with rx := p.rx.map fun e => if e = k then { e with answered := true } else e }
      if !(chanOf s (chanIdx k.sender 1)).opened then s1
      else updPm s1 fun p => { p with out := p.out ++
        [{ peer := k.sender, nack := false, token := id, expert := k.expert, rank := k.rank, plan := groupPlan s,
           reason := 0, nackKind := 0, block := block }] }

/-! ### Blocks held in windows (R394, R395, R399) -/

/-- Free the leading freed messages of a window, in ring order. -/
def popHeld : List HeldMsg → Nat × List HeldMsg
  | [] => (0, [])
  | m :: rest => if m.freed then (m.blocks + (popHeld rest).1, (popHeld rest).2) else (0, m :: rest)

/-- A held message of a window is freed; blocks are freed in ring order. -/
def freeMsg (s : State) (w pos : Nat) : State :=
  updWin s w fun k =>
    let h := k.held.map fun m => if m.pos = pos then { m with freed := true } else m
    { k with held := (popHeld h).2, freed := k.freed + (popHeld h).1 }

/-- A received token is no longer retained: its message is freed. -/
def dropRx (s : State) (k : RxToken) : State :=
  let s1 := updPm s fun p => { p with rx := p.rx.filter (· ≠ k) }
  match k.window with
  | some w => freeMsg s1 w k.pos
  | none => s1

end Sys2Proof.Machine
end

