-- ==== Sys2Proof/Machine/Jobs.lean ====
section
/-! DEFINITION. The life of jobs and tasks: announcement, dispatch, selection, retirement, abort, cancellation, drift
computation, fills (R29 to R58, R130 to R152, R239 to R247, R275, R323). -/

namespace Sys2Proof.Machine

/-! ### Ingest: announcement, enable, snapshots -/

/-- Room in the stripe-job queue of 8,192 for the stripe-jobs of one more stripe of a plan (R11): the queue holds the stripe-jobs that
wait for their inputs (DESIGN CHOICE, log 5). -/
def announceRoom (s : State) (p : Nat) : Bool :=
  (s.jobs.filter fun j => j.kind = .stripe && j.state = .waiting).length + ((templates s p).filter fun t => t.kind = 1).length ≤ 8192

/-- STRIPE_ANNOUNCE (R11, R104): the stream's next stripe in row-then-segment order, both copies written; its jobs are created. A stripe
that finds the stripe-job queue full stays in retention, not yet announced. -/
def execStripeAnnounce (x : Fin 64) (s : State) : Out :=
  let k := stream s x.val
  let next := s.stripes.find? fun e => e.stream = x.val && !e.announced && e.row * nSegs k + e.seg = k.announcedTo
  .next (match next with
    | none => s
    | some e =>
      if e.units.isNone || !k.bound || !announceRoom s k.plan then s
      else
        let s1 := updStripe s x.val e.row e.seg fun q => { q with announced := true }
        let s2 := updStream s1 x.val fun q => { q with announcedTo := q.announcedTo + 1 }
        settle (createStripeJobs s2 x.val e.row e.seg e.valid))

/-- INGEST_ENABLE (R323): refused while the retention registers differ from the committed map. -/
def execIngestEnable (data : BitVec 32) (s : State) : Out :=
  let s1 := storeOthers s 0xC00000 0 0 data.toNat
  .next (
    if !answers s 0xC00000 then s
    else if data.getLsbD 0 = false then setF s1 Reg.IG_CTL_EN 0 0 0
    else if s.dram.committed && fld s Reg.IG_RET_BASE = s.dram.rb && fld s Reg.IG_RET_SIZE = s.dram.rs then
      setF s1 Reg.IG_CTL_EN 0 0 1
    else setF s1 Reg.MEM_MAP_STAT_RET_MISMATCH 0 0 1)

/-- Every job counted in epoch `e`, whose last line lies in it, has been created and has retired (R30). -/
def epochDone (s : State) (x e : Nat) : Bool :=
  let k := stream s x
  (e + 1) * k.epochLen / k.h * nSegs k ≤ k.announcedTo &&
  s.jobs.all fun j => !(streamJob j && idStream j.id = x) || jobPast j ||
    (match tmplOf s j with | some t => epochOf k (lastLineOf k t (idLow j.id)) ≠ e | none => true)

/-- HARVEST_SNAPSHOT (R30): the snapshot of the epoch before the current one, once its jobs have retired. -/
def execHarvestSnapshot (x : Fin 64) (s : State) : Out :=
  let k := stream s x.val
  .next (match k.prev with
    | none => s
    | some b =>
      if k.bound && epochDone s x.val (k.epoch - 1) then
        updStream (writeSnapshot s x.val (k.epoch - 1) b false false) x.val fun q => { q with prev := none }
      else s)

/-! ### Choosing a job (R40, R41, R283, R290) -/

/-- The dispatcher's order (R40): restarted attempts and regenerations first, then priority, then the time of eligibility, then job
id. An attempt that waits for a regeneration may not be dispatched before it. -/
def dispatchBefore (a b : Job) : Bool :=
  let key := fun (j : Job) => [if j.restarted || j.regen then 0 else 1, j.prio, j.eligAt, j.id.toNat]
  decide (key a < key b)

/-- ATTEMPT objects of a plan that are free, from number `o`, for a block of `n` (R278). -/
def blockFree (s : State) (p o n : Nat) : Bool :=
  (upto n).all fun i => let k := obj s (o + i); k.alloc && k.plan = p && k.kind = 1 && k.owner.isNone

/-- The first free block of ATTEMPT objects. -/
def findBlock (s : State) (p n : Nat) : Option Nat :=
  if n = 0 then some 0
  else (plan s p).objs.find? fun o => blockFree s p o n

/-- Every queue end the template declares is free or the job's (R283). -/
def endsFree (s : State) (j : Job) (t : Template) : Bool :=
  t.queues.all fun q =>
    let e := if q.2.1 then (queue s q.1).prod else (queue s q.1).cons
    e = .none || e = .job j.id

/-- The stream contexts given are free, on enabled engines, one for each transfer. -/
def ctxsFree (s : State) (t : Template) (cs : List (Fin 32 × Fin 64)) : Bool :=
  cs.length = t.transfers.length && cs.eraseDups.length = cs.length &&
  cs.all fun c => seEn s c.1.val && (sctx s c.1.val c.2.val).state = .free

/-- A tile may receive dispatch: enabled, not quarantined, `DISP_EN` = 1. -/
def tileOpen (s : State) (t : Nat) : Bool :=
  t < s.grid.enabled && !s.fm.quarantined.contains t &&
  (match physOf s t with | some p => bit s Reg.TA_TILE_CTL_DISP_EN p 0 | none => false)

/-- The place is free and belongs to the template's set (R40, R111, R120, R441). -/
def placeFree (s : State) (j : Job) (t : Template) (p : Place) : Bool :=
  match p with
  | .tile u c => t.engine = .tiles && t.units.contains u.val && tileOpen s u.val && (ctxOf s u.val c.val).state = .free
  | .engine b k =>
    beEn s b.val && (engine s b.val).lost.isNone && !((engine s b.val).slots.any fun e => e.1 = k.val) &&
    (match t.engine with
     | .tiles => false
     | .first _ => streamJob j && getF s Reg.BE_CTL_STREAM b.val 0 = idStream j.id && (engine s b.val).active.valid
     | .last _ => t.units.contains b.val)

/-- The template's weights lie on a tile: its shared buffers are present and filled (R40). -/
def weightsOn (s : State) (p : Nat) (t : Template) (u : Nat) : Bool :=
  (plan s p).tilesBegun.contains u && t.handles.all fun h => (handleOf s u h).present && !(handleOf s u h).filling

/-- The device prefers a place whose tile holds the template's weights: it takes another only where no such place is free (R40). -/
def preferred (s : State) (j : Job) (t : Template) (p : Place) : Bool :=
  match p with
  | .engine _ _ => true
  | .tile u _ => weightsOn s j.plan t u.val ||
      !((upto 256).any fun v => t.units.contains v && tileOpen s v && weightsOn s j.plan t v &&
        (upto 8).any fun c => (ctxOf s v c).state = .free)

/-- A restarted attempt that could go there has first claim on the place (R54). -/
def claimed (s : State) (p : Place) (j : Job) : Bool :=
  s.jobs.any fun k => k.claim = some p && k.id ≠ j.id && k.state = .eligible && jobReady s k && !(plan s k.plan).halted &&
    (tmplOf s k).elim false fun t => placeFree s k t p

/-- The block of ATTEMPT objects for a job: the one its instance holds, or a free one (R278). -/
def blockFor (s : State) (j : Job) (n : Nat) : Option Nat :=
  if n ≠ 0 && (upto n).all (fun i => (obj s (j.attemptObj + i)).owner = some j.id) then some j.attemptObj else findBlock s j.plan n

/-- What a dispatch asks for beside a place and stream contexts. -/
def mayStartJob (s : State) (j : Job) (t : Template) : Bool :=
  j.state = .eligible && jobReady s j && !(plan s j.plan).halted && endsFree s j t && (blockFor s j t.attemptObjs).isSome

/-- A job may be dispatched to a place with the contexts given. -/
def mayDispatch (s : State) (p : Place) (cs : List (Fin 32 × Fin 64)) (j : Job) : Bool :=
  match tmplOf s j with
  | none => false
  | some t => mayStartJob s j t && placeFree s j t p && preferred s j t p && !claimed s p j && ctxsFree s t cs

/-- The contexts and slots of a template's set. -/
def placesOf (t : Template) : List Place :=
  let slots := (List.finRange 32).flatMap fun b => (List.finRange 16).map fun k => Place.engine b k
  match t.engine with
  | .tiles => t.units.flatMap fun u => if h : u < 256 then (List.finRange 8).map fun c => Place.tile ⟨u, h⟩ c else []
  | _ => slots

/-- Enough stream contexts are free on enabled engines for a template's transfers (R290). -/
def enoughCtxs (s : State) (t : Template) : Bool :=
  t.transfers.isEmpty ||
    t.transfers.length + (s.sctx.filter fun e => seEn s (e.1 / 64) && decide (e.2.state ≠ .free)).length ≤
      64 * ((upto 32).filter fun e => seEn s e).length

/-- A place is free for the job. -/
def placeThere (s : State) (j : Job) (t : Template) : Bool := (placesOf t).any fun p => placeFree s j t p && !claimed s p j

/-- A job can be dispatched now, to one of its places and with some contexts. -/
def dispatchable (s : State) (j : Job) : Bool :=
  match tmplOf s j with
  | none => false
  | some t => mayStartJob s j t && enoughCtxs s t && placeThere s j t

/-! ### Loading (R130, R140, R237, R273, R275, R278, R283) -/

/-- Free contents for a buffer that has no copy in DRAM (R275). -/
def freeFill (s : State) (a n : Nat) : State :=
  drawn { s with mem := wrBytes 0 s.mem a ((upto n).map fun i => freeByteOf s i) }

/-- Write one shared entry from the plan's buffer table. -/
def sharedEntry (s : State) (p t : Nat) (b : BufDecl) : State :=
  let h : Handle :=
    { valid := true, present := true, write := b.write, slotchk := b.slotchk, bank := b.bank, base := b.base, len := b.len,
      maxlen := b.maxlen, filling := b.copy.isSome, byStream := false, landed := 0, tag := b.tag, queue := b.queue,
      slotRows := b.slotRows, plan := p, copy := b.copy.map fun o => (plan s p).base + o, evict := false }
  let s1 := updHandle s t b.handle fun _ => h
  if b.copy.isSome then s1 else freeFill s1 (spAddr t (bankBase b.bank + 128 * b.base)) (128 * b.len)

/-- A plan's first template on a tile writes the shared entries and starts their fills. -/
def beginTile (s : State) (p t : Nat) : State :=
  if (plan s p).tilesBegun.contains t then s
  else
    let s1 := updPlan s p fun k => { k with tilesBegun := k.tilesBegun ++ [t] }
    thread (fun s' b => sharedEntry s' p t b) s1 ((plan s p).image.buffers.filter fun b => b.tile = t)

/-- Key of a byte of a tile's instruction RAM. -/
def iramKey (t off : Nat) : Nat := t * 65536 + off

/-- A write to a tile's instruction RAM waits until the fetch may see it (R142). -/
def iramWrite (s : State) (t off : Nat) (bs : List Byte) : State := updTile s t fun u => { u with istq := u.istq ++ [(off, bs)] }

/-- At `isync` and at a switch the fetch sees every write to instruction RAM. -/
def iramShow (s : State) (t : Nat) : State :=
  let s1 := { s with iram := wrParts 0 s.iram ((tile s t).istq.map fun p => (iramKey t p.1, p.2)) }
  updTile s1 t fun u => { u with istq := [] }

/-- A template's resident image is loaded before its first dispatch to the tile (R140). -/
def loadResident (s : State) (p t : Nat) (tm : Template) : State :=
  match tm.resident with
  | none => s
  | some r =>
    if (plan s p).resident.contains (t, tm.index) then s
    else
      let s1 := updPlan s p fun k => { k with resident := k.resident ++ [(t, tm.index)] }
      iramWrite s1 t r.1 (tm.residentImage.take r.2)

/-- First row of the private area of a context. -/
def areaBase (im : PlanImage) (t c bank : Nat) : Nat :=
  ((im.areas.find? fun a => a.tile = t && a.ctx = c && a.bank = bank).map (·.base)).getD 0

/-- Private entries of the context the job receives. -/
def privateEntry (s : State) (p t c : Nat) (d : PrivDecl) : State :=
  updHandle s t (128 + 16 * c + (d.handle - 128)) fun _ =>
    { Handle.empty with valid := true, present := true, write := d.write, bank := d.bank,
                        base := areaBase (plan s p).image t c d.bank + d.row, len := d.rows, maxlen := d.maxlen, plan := p }

/-- The six argument words: the descriptor's, or free ones where no rule gives them. -/
def argWord (j : Job) (i : Nat) : Word := (j.args[i]?).getD (Config.jobArg j.id i)

/-- Registers of a context at dispatch (R130). -/
def startRegs (j : Job) (t : Template) (o : Nat) : Regs :=
  let arg := fun (i : Nat) => if t.attemptObjs ≠ 0 && t.objArg = i then BitVec.ofNat 64 o else argWord j i
  let sregs := (upto 6).foldl (fun m i => mset 0 m (i + 1) (arg i)) ([] : SMap Word)
  { Regs.zero with s := mset 0 sregs 7 j.id, pc := BitVec.ofNat 32 t.entry, tstat := if t.solstice then 1 else 0 }

/-- The job attaches to its queue ends. -/
def attachJob (s : State) (j : Job) (t : Template) : State :=
  thread (fun s' (q : Nat × Bool × Nat) =>
    updQueue s' q.1 fun u => if q.2.1 then { u with prod := .job j.id } else { u with cons := .job j.id }) s t.queues

/-- Objects of the block are reset to their initial values and belong to the job. -/
def takeBlock (s : State) (id : JobId) (o n : Nat) : State :=
  thread (fun s' i => setCount (updObj s' (o + i) fun k => { k with owner := some id }) (o + i) (obj s' (o + i)).init.toNat) s
    (upto n)

/-- The gap flag that a token in a batch carries (R387). -/
def tokenGap (s : State) (id : BitVec 128) (e : Nat) : Bool :=
  s.pm.rx.any fun k => k.id = id && k.expert = e && (devGet s (k.addr + 16) 1).any fun b => b.getLsbD 0

/-- Gap flag of R109: an input, taken back to raw stripes, has a dropped, missing or lost line; that of an expert-job comes with its
tokens. -/
def gapOf (s : State) (j : Job) (t : Template) : Bool :=
  if j.kind = .expert then j.tokens.any fun k => tokenGap s k (idExpert j.id)
  else streamJob j &&
  (let x := idStream j.id
   let q := stripesOf s x t (idLow j.id) (idSeg j.id)
   let raws := (if t.kind = 1 then q else []) ++ q.flatMap fun p => t.raw.filterMap fun o => offsetAt (stream s x) p.1 p.2 o.1 o.2
   (s.stripes.any fun k => k.stream = x && k.gapFlag && raws.contains (k.row, k.seg)) ||
   ((t.deps ++ t.halo).any fun d => (depInsts s x j.plan t (idLow j.id) (idSeg j.id) d).any fun e => (jobOf s e.1).elim false (·.gap)))

/-- Load a job into its place. -/
def loadJob (s : State) (p : Place) (cs : List (Fin 32 × Fin 64)) (j : Job) (t : Template) : State :=
  let o := (blockFor s j t.attemptObjs).getD 0
  let s1 := attachJob (takeBlock s j.id o t.attemptObjs) j t
  let s2 := updJob s1 j.id fun k =>
    { k with state := .dispatched, place := some p, ended := false, adds := [], attemptObj := o, staged := [], poisonOut := false,
             claim := none, outs := [], activeCyc := 0, waitNs := 0, waitEnd := none, gap := gapOf s j t, measures := [], stats := [], emits := 0, startNs := nowNs s }
  let s3 := thread (fun s' (c : (Fin 32 × Fin 64) × Nat) =>
    armSctx s' c.1.1.val c.1.2.val (.job j.id) j.attempt ((plan s j.plan).base + c.2)) s2 (cs.zip t.transfers)
  match p with
  | .tile u c =>
    let s4 := loadResident (beginTile s3 j.plan u.val) j.plan u.val t
    let s5 := thread (fun s' d => privateEntry s' j.plan u.val c.val d) s4 t.priv
    updTile s5 u.val fun k =>
      { k with orders := k.orders + 1,
               ctxs := mset Ctx.empty k.ctxs c.val
                 { Ctx.empty with job := some j.id, attempt := j.attempt, state := .dispatched, regs := startRegs j t o,
                                  codeBase := (plan s j.plan).base, order := k.orders } }
  | .engine b k => updEngine s3 b.val fun e => { e with slots := e.slots ++ [(k.val, j.id)] }

/-- The job that the dispatcher takes next: the first in the order of R40 of those that can be dispatched. -/
def nextJob (s : State) : Option Job := leastBy dispatchBefore (s.jobs.filter (dispatchable s))

/-- JOB_DISPATCH: the next job goes to the place and contexts the device has chosen for it; nothing where they are not for that job. -/
def execJobDispatch (p : Place) (cs : List (Fin 32 × Fin 64)) (s : State) : Out :=
  .next (
    if scEn s && s.fm.phase = .normal then
      match nextJob s with
      | none => s
      | some j => match tmplOf s j with
        | none => s
        | some t => if mayDispatch s p cs j then settle (loadJob s p cs j t) else s
    else s)

/-! ### Issue and selection (R38, R43, R134 to R138) -/

/-- JOB_FIRST_ISSUE: the loaded context that its tile has selected, or the head of an engine's slots. -/
def execJobFirstIssue (p : Place) (s : State) : Out :=
  .next (match p with
    | .tile t c =>
      match ctxJob s t.val c.val with
      | none => s
      | some j =>
        if (tile s t.val).running = some c.val && (ctxOf s t.val c.val).state = .dispatched && j.state = .dispatched && !tagBusy s j.id j.attempt then
          updJob (updCtx s t.val c.val fun k => { k with state := .running }) j.id fun k => { k with state := .running }
        else s
    | .engine b k =>
      match (engine s b.val).slots with
      | [] => s
      | e :: _ =>
        if e.1 = k.val then updJob s e.2 fun j => if j.state = .dispatched then { j with state := .running } else j
        else s)

/-- READY in the sense of R134: loaded and not issuing, or woken. -/
def isReady (k : Ctx) : Bool := k.state = .ready || k.state = .dispatched

/-- The order of R135: restarted attempts and regenerations first, then the earlier dispatched. -/
def selectBefore (s : State) (t : Nat) (a b : Nat) : Bool :=
  let r := fun (c : Nat) => if (ctxJob s t c).elim false (fun j => j.restarted || j.regen) then 0 else 1
  r a < r b || (r a = r b && (ctxOf s t a).order < (ctxOf s t b).order)

/-- A switch into a task may complete: the store buffer is empty, and for a Solstice task the array's queue too (R136, R147). -/
def mayEnter (s : State) (t c : Nat) : Bool :=
  (tile s t).sb.isEmpty && ((ctxOf s t c).regs.tstat.getLsbD 0 = false || (tile s t).mxq.isEmpty)

/-- TASK_SELECT: the tile selects its next READY task; the loop buffer and bundles fetched and not issued are discarded. -/
def execTaskSelect (t : Fin 256) (s : State) : Out :=
  let ready := (upto 8).filter fun c => isReady (ctxOf s t.val c)
  .next (match (tile s t.val).running, leastBy (selectBefore s t.val) ready with
    | none, some c =>
      if !mayEnter s t.val c then s
      else
        let s1 := iramShow (updTile s t.val fun k => { k with running := some c, loopBr := none, loopSeen := 0, loopHeld := false }) t.val
        let s2 := cntT s1 Reg.TA_CNT_SWITCH t.val 1
        if (ctxOf s t.val c).state = .dispatched then s2
        else
          let s3 := updCtx s2 t.val c fun k => { k with state := .running }
          match (ctxOf s t.val c).job with
          | some id => updJob s3 id fun j => if j.state = .suspended then { j with state := .running, waitNs := 0 } else j
          | none => s3
    | _, _ => s)

/-! ### Snapshots and streams that close (R31, R45, R245) -/

/-- Close a stream's snapshots (R31): the epoch before the current one if it waits, then the one in progress with `PARTIAL`, which also
counts the events of epochs that have not begun, so that none is lost (log 10). -/
def closeSnapshots (s : State) (x : Nat) : State :=
  let k := stream s x
  let s1 := match k.prev with
    | some b => writeSnapshot s x (k.epoch - 1) b false false
    | none => s
  writeSnapshot s1 x k.epoch (k.ahead.foldl (fun b e => b.plus e.2) k.bank) false true

/-- Live jobs of a stream or a plan: neither retired nor cancelled. -/
def streamLive (s : State) (x : Nat) : Bool := s.jobs.any fun j => streamJob j && idStream j.id = x && !jobOver j
def planLive (s : State) (p : Nat) : Bool := s.jobs.any fun j => j.plan = p && j.submitted && !jobOver j

/-- The engines that serve a stream hold no old bank for it any longer; a staged swap waits for a boundary of the next binding (log 8). -/
def forgetRows (s : State) (x : Nat) : State :=
  thread (fun s' (e : Nat × BEngine) =>
    if getF s' Reg.BE_CTL_STREAM e.1 0 = x then
      updEngine s' e.1 fun k => { k with since := 0, oldBusy := false, swapEpoch := 0 }
    else s') s s.engines

/-- The stream is unbound once its jobs have drained: snapshots closed, trails discarded, stripes and jobs gone, and the tokens for whose
answers it held records (R401, log 27). -/
def finishUnbind (s : State) (x : Nat) : State :=
  let s1 := closeSnapshots s x
  let s2 := { s1 with stripes := s1.stripes.filter fun k => k.stream ≠ x, drifts := s1.drifts.filter fun d => d.stream ≠ x,
                      jobs := s1.jobs.filter fun j => !(streamJob j && idStream j.id = x),
                      pstreams := mset PortStream.zero s1.pstreams x PortStream.zero }
  let s3 := updPm s2 fun m => { m with tokens := m.tokens.filter fun k => k.key ≠ x }
  forgetRows (updStream (updLink s3 x fun k => { k with aligns := [0] }) x fun _ => Stream.unbound) x

/-- The plan is gone: objects, queues, shared entries, standing contexts, its jobs, and its tokens; those received for its experts
are freed. -/
def finishUnload (s : State) (p : Nat) : State :=
  let s1 := { s with objs := s.objs.filter fun e => e.2.plan ≠ p, queues := s.queues.filter fun e => e.2.plan ≠ p,
                     jobs := s.jobs.filter fun j => j.plan ≠ p || !j.submitted,
                     tiles := s.tiles.map fun e => (e.1, { e.2 with handles := e.2.handles.filter fun h => h.2.plan ≠ p }) }
  let s2 := updPm (releaseSctx s1 (.plan p)) fun m => { m with tokens := m.tokens.filter fun k => k.plan ≠ p, out := m.out.filter fun o => o.nack || o.plan ≠ p }
  let s3 := if p = groupPlan s then updPm (thread dropRx s2 s2.pm.rx) fun m => { m with batches := [] } else s2
  updPlan (updSec s3 fun k => { k with planDigests := k.planDigests.filter fun d => d.1 ≠ p }) p fun _ => Plan.none

/-- A cancelled job whose JOB_SUBMIT has been fetched and has not started: that command completes with `CANCELLED`, ahead of its turn,
which may be behind the JOB_CANCEL, and then the JOB_CANCEL does (R369, log 15); both wait for an entry of the completion ring. -/
def cancelUnstarted (s : State) (d : Desc) (j : Job) : State :=
  match s.descs.find? fun e => !e.started && descOp e = 7 && hostId e.ring e.seq = j.id with
  | none => s
  | some e =>
    if ringIs s e.cplRing 1 0 && ringRoom s e.cplRing < 1 then s
    else complete (complete { s with jobs := s.jobs.filter fun k => k.id != j.id } e 1 j.cancelDetail 0 0) d 0 0 0 0

/-- Commands that wait for cancellations complete when these have drained (R366, R369). -/
def drainPass (s : State) : State :=
  let s1 := thread (fun s' (e : Nat × Stream) => if e.2.closing && !streamLive s' e.1 then finishUnbind s' e.1 else s') s s.streams
  let s2 := thread (fun s' (e : Nat × Plan) =>
    if e.2.unloading && !planLive s' e.1 && !(s'.sctx.any fun k => k.2.holder = .plan e.1 && k.2.state = .draining) && !(s'.streams.any fun k => (k.2.bound || k.2.closing) && k.2.plan = e.1) then finishUnload s' e.1 else s')
    s1 s1.plans
  thread (fun s' (d : Desc) =>
    if !d.started then s'
    else match descOp d with
      | 2 => if (plan s' (descPlan d)).loaded then s' else complete s' d 0 0 0 0
      | 4 => if (stream s' (descArg d 0 % 64)).bound || (stream s' (descArg d 0 % 64)).closing then s' else complete s' d 0 0 0 0
      | 8 => match jobOf s' (BitVec.ofNat 64 (descArg d 0)) with
        | some j => if j.state ≠ .cancelled then s'
          else if j.submitted then complete s' d 0 0 0 0
          else cancelUnstarted s' d j
        | none => complete s' d 0 0 0 0
      | _ => s') s2 s2.descs

/-! ### Cancellation (R45, R310, R369) -/

/-- Jobs that depend on one of some jobs by an output dependency. -/
def dependentsOf (s : State) (ids : List JobId) : List JobId :=
  s.jobs.filterMap fun j =>
    if jobOver j || !streamJob j then none
    else match tmplOf s j with
      | none => none
      | some t =>
        if t.deps.any fun d => (depInsts s (idStream j.id) j.plan t (idLow j.id) (idSeg j.id) d).any fun e => ids.contains e.1
        then some j.id else none

/-- A set of jobs with all that depend on them. -/
def closeOver (s : State) (ids : List JobId) : List JobId :=
  thread (fun (l : List JobId) _ => (l ++ dependentsOf s l).eraseDups) ids (upto s.jobs.length)

/-- Stop a context where it stands: it issues nothing more, and its array commands leave the queue (R223). -/
def stopTask (s : State) (id : JobId) : State :=
  match (jobOf s id).bind (·.place) with
  | some (.tile t c) =>
    updTile (updCtx s t.val c.val fun k => { k with state := .waiting, wait := 0, waitFor := .none, faultAt := none }) t.val fun u =>
      { u with running := if u.running = some c.val then none else u.running, mxq := u.mxq.filter fun m => m.job ≠ id }
  | _ => s

/-- The host job's own completion. -/
def completeJob (s : State) (j : Job) (status detail : Nat) : State :=
  if j.kind = .host && j.submitted then
    match descOf s j.ring (bitsOf j.id.toNat 0 39) with
    | some d => complete s d status detail (if status = 0 then j.id.toNat else 0) 0
    | none => s
  else s

/-- Cancel one job: at once when it holds no place, else once its reads have drained. -/
def cancelOne (s : State) (id : JobId) (detail : Nat) : State :=
  match jobOf s id with
  | none => s
  | some j =>
    if jobOver j || j.cancelling then s
    else if j.place.isNone then
      completeJob (updJob (queuesCancel s id) id fun k => { k with state := .cancelled, cancelDetail := detail }) j 1 detail
    else
      let s1 := updJob (stopTask s id) id fun k =>
        { k with cancelling := true, cancelDetail := detail, abortOrder := none, staged := [], adds := [], waitEnd := none }
      cancelJobSctx (queuesCancel s1 id) id false

/-- Cancel a job and every job that depends on it. -/
def cancelJob (s : State) (id : JobId) (detail : Nat) : State :=
  thread (fun s' i => cancelOne s' i detail) s (closeOver s [id])

/-- Give back the job's ATTEMPT objects. -/
def dropBlock (s : State) (id : JobId) : State :=
  { s with objs := s.objs.map fun e => if e.2.owner = some id then (e.1, { e.2 with owner := none }) else e }

/-- JOB_CANCEL_DRAINED: the reads of a cancelled job's contexts have all returned. -/
def execJobCancelDrained (id : JobId) (s : State) : Out :=
  .next (match jobOf s id with
    | none => s
    | some j =>
      if !j.cancelling || s.sctx.any (fun e => e.2.holder = .job id) then s
      else
        let s1 := updJob (dropBlock (freePlace s id) id) id fun k => { k with state := .cancelled, cancelling := false }
        settle (drainPass (completeJob s1 j 1 j.cancelDetail)))

/-! ### Retirement (R42, R46, R193, R240, R282) -/

/-- Poison has reached an output of the job: noted on the way, seen in `tstat`, or left in a buffer or a slot it has written. -/
def outputPoison (s : State) (j : Job) : Bool :=
  j.poisonOut || (j.outs.any fun r => rangePoisoned s r.1 r.2) ||
  (match j.place with | some (.tile t c) => (ctxOf s t.val c.val).regs.tstat.getLsbD 16 | _ => false) ||
  s.queues.any fun e => e.2.prod = .job j.id && e.2.decl.kind = 0 &&
    e.2.slots.any fun k => k.2.state = .pushed && slotPoisoned s e.2 k.1

/-- All operations of an ended task are complete (R184). -/
def workDone (s : State) (j : Job) (t c : Nat) : Bool :=
  j.ended && (tile s t).sb.isEmpty && !((tile s t).mxq.any fun m => m.job = j.id) &&
    !(s.sctx.any fun e => e.2.holder = .job j.id && e.2.state ≠ .heldIdle) && (ctxOf s t c).job = some j.id

/-- Set `LAST` on the last record of a job (R373). -/
def markLast : List Staged → List Staged
  | [] => []
  | .record r k b :: rest =>
    if rest.any fun e => match e with | .record _ _ _ => true | _ => false then .record r k b :: markLast rest
    else .record r k (b.set 9 ((b.getD 9 0) ||| 1)) :: rest
  | e :: rest => e :: markLast rest

/-- A record or token that a stream's job passes on is counted (R29). -/
def countEmit (s : State) (j : Job) (token : Bool) : State :=
  match tmplOf s j with
  | none => s
  | some t =>
    if !streamJob j then s
    else countAt s (idStream j.id) (lastLineOf (stream s (idStream j.id)) t (idLow j.id)) 1 (if token then addTokens else addRecords)

/-- Pass what an attempt has staged: records to the result queue, tokens to peer messaging, an expert-job's results to their
tokens. -/
def publish (s : State) (j : Job) : State :=
  if j.kind = .expert then
    thread (fun s' (p : BitVec 128 × Staged) =>
      match p.2 with
      | .record _ _ b => answerToken s' j.id p.1 b
      | .token r b => passToken s' j.plan r b) s (j.tokens.zip j.staged)
  else
    thread (fun s' k =>
      match k with
      | .record r key b => stageRecord (countEmit s' j false) { ring := r, key := key.headD 0, order := BitVec.ofNat 64 (key.getD 1 0), bytes := b, spilled := false, slot := 0, plan := j.plan }
      | .token r b => passToken (countEmit s' j true) j.plan r b) s (markLast j.staged)

/-- Statistics of a retiring attempt join the trails of its DRIFT operators (R240). -/
def trailStats (s : State) (j : Job) (t : Template) : State :=
  if j.regen || !streamJob j then s
  else
    let x := idStream j.id
    thread (fun s' (e : Nat × Nat × Nat × Nat × Int) =>
      match opOf s' j.plan e.1 with
      | none => s'
      | some o =>
        if !(driftOps (plan s' j.plan).image t).contains e.1 then s'
        else
          let i := driftIndex t o (idLow j.id)
          { s' with drifts := s'.drifts.map fun d =>
              if d.stream = x && d.op = e.1 then
                { d with stats := if d.stats.any fun q => q.1 = i then
                    d.stats.map fun q => if q.1 = i then
                      (i, q.2.1 + e.2.1, q.2.2.1 + e.2.2.1, min (2 ^ 64 - 1) (q.2.2.2.1 + e.2.2.2.1), max q.2.2.2.2 e.2.2.2.2) else q
                    else d.stats ++ [(i, e.2.1, e.2.2.1, min (2 ^ 64 - 1) e.2.2.2.1, e.2.2.2.2)] }
              else d }) s j.stats

/-- Count a retirement. `SC_RETIRED` counts every retirement, that of a regeneration too, while the stream's figures count a
regeneration as such alone (R29, R58; DESIGN CHOICE, log 10). -/
def countRetire (s : State) (j : Job) : State :=
  let s1 := cnt s Reg.SC_RETIRED
  match tmplOf s j with
  | some t =>
    if streamJob j && !j.regen then
      countAt s1 (idStream j.id) (lastLineOf (stream s (idStream j.id)) t (idLow j.id)) 1
        (if j.kind = .band then addBands else addStripes)
    else s1
  | none => s1

/-- A recovery ends when the last of its jobs' restarted attempts has retired (R435). -/
def recovered (s : State) (id : JobId) : State :=
  updFm s fun m => { m with recoveries := (m.recoveries.map fun r => { r with jobs := r.jobs.filter (· ≠ id) }).filter fun r =>
    r.holds || !r.jobs.isEmpty }

/-- Everything a job publishes, and the end of what it holds. A regeneration renews the retained outputs alone: its records,
tokens and COMMIT adds have been published at its first retirement (R47); an expert-job that runs again sends all its results
again (R397). A job that waited for this one to be re-run waits no longer. -/
def retireJob (s : State) (j : Job) (t : Template) : State :=
  let s1 := if j.regen && j.kind ≠ .expert then s else publish s j
  let s2 := if j.regen then s1 else thread (fun s' (a : Nat × Nat) => addObj s' a.1 a.2 j.id) s1 j.adds
  let s3 := trailStats (queuesRetire s2 j.id) j t
  let s4 := releaseSctx s3 (.job j.id)
  let s5 := countRetire (dropBlock (freePlace s4 j.id) j.id) j
  let s6 := updJob s5 j.id fun k => { k with state := .retired, staged := [], adds := [], restarted := false, regen := false, lost := false, regenOf := [] }
  let s7 := { s6 with jobs := s6.jobs.map fun k => { k with regenOf := k.regenOf.filter (· ≠ j.id) } }
  settle (recovered (completeJob s7 j 0 0) j.id)

/-- The job's report location on its place: tile by physical index, or engine (R450). -/
def placeReport (s : State) (j : Job) (cause : Nat) : Report :=
  match j.place with
  | some (.tile t c) =>
    mkReport cause .tile ((physOf s t.val).getD 0) ((ctxOf s t.val c.val).lastPc.toNat + c.val * 2 ^ 32) j.id (min 65535 j.attempt)
  | some (.engine b _) => mkReport cause .boundary b.val 0 j.id (min 65535 j.attempt)
  | none => mkReport cause .none 0 0 j.id (min 65535 j.attempt)

/-- An expert-job must have emitted one result for each token (R398). -/
def expertShort (j : Job) : Bool := j.kind = .expert && j.staged.length ≠ j.tokens.length

/-- JOB_RETIRE: a tile job whose work is complete, or the running job of a boundary engine, which computes here, and waits while a slot
of its queues is not ready (R280, R283). Poison in an output aborts the attempt instead (R38). -/
def execJobRetire (id : JobId) (s : State) : Out :=
  .next (match jobOf s id with
    | none => s
    | some j => match tmplOf s j with
      | none => s
      | some t =>
        if j.cancelling || j.abortOrder.isSome then s
        else match j.place with
          | some (.tile u c) =>
            if !workDone s j u.val c.val then s
            else if expertShort j then attemptFails s id (placeReport s j 0x1A)
            else if outputPoison s j then orderAbort s id 0
            else retireJob s j t
          | some (.engine b k) =>
            if j.state = .running && (engine s b.val).slots.head? = some (k.val, id) then
              match engineStuck s t with
              | some w => noteWaiters (updJob (suspendJob s id) id fun q => { q with waitEnd := some w })
              | none =>
                let r := engineRun s j t b.val
                match r.2 with
                | some a => badInput (orderAbort r.1 id 0x40) id a
                | none =>
                  let s1 := updJob (cntB r.1 Reg.BE_CNT_JOBS b.val 1) id fun q => { q with gap := q.gap || gapOf r.1 q t }
                  retireJob s1 ((jobOf s1 id).getD j) t
            else s
          | none => s)

/-! ### Abort (R43, R44, R47, R54, R311) -/

/-- The other ends of a restart unit abort too, and an engine's context that feeds it starts its descriptor again (R284). -/
def abortUnit (s : State) (id : JobId) (cause : Nat) : State :=
  thread (fun s' (q : QEnd) =>
    match q with
    | .job o => orderAbort s' o cause
    | .stream e c => updSctx s' e c fun k =>
        { k with reads := dropReads k.reads, state := if k.state = .waiting then .running else k.state,
                 run := k.run.map fun r => { r with issued := 0, landed := 0, held := [], srcSlot := none, srcSlots := 0, dstSlot := none, dstSlots := 0 } }
    | .none => s') s (restartUnit s id)

/-- An attempt is over (R43): it is counted, all it has not published is discarded, and its number rises. An abort beyond `MAX_RESTART` is
reported, and the job waits for the escalation (R44). -/
def endAttempt (s : State) (j : Job) (cause : Nat) : State :=
  let s3 := cnt s Reg.SC_ABORTED
  let s4 := match tmplOf s j with
    | some t =>
      if streamJob j then countAt s3 (idStream j.id) (lastLineOf (stream s (idStream j.id)) t (idLow j.id)) 1 addAborts else s3
    | none => s3
  let isOver := fld s Reg.SC_JOB_CTL_MAX_RESTART ≤ j.restarts
  let s5 := updJob s4 j.id fun k =>
    { k with state := .aborted, attempt := k.attempt + 1, restarts := if isOver then k.restarts else k.restarts + 1,
             awaitEsc := isOver, abortOrder := none, ended := false, staged := [], adds := [], stats := [], measures := [],
             poisonOut := false, waitEnd := none }
  if isOver then pushReport (evSet s5 65) (placeReport s j cause) true else s5

/-- What an abort does to the attempt (R43). -/
def abortJob (s : State) (j : Job) (cause : Nat) : State :=
  let s1 := stopTask (abortUnit s j.id cause) j.id
  endAttempt (cancelJobSctx (queuesAbort s1 j.id) j.id true) j cause

/-- The job's task is running and its next bundle is the delay slot of a branch: an abort is held to after it (R194). -/
def inDelaySlot (s : State) (j : Job) : Bool :=
  match j.place with
  | some (.tile t c) => (ctxOf s t.val c.val).state = .running && (ctxOf s t.val c.val).flow.inSlot
  | _ => false

/-- JOB_ABORT: the abort signal ordered for the job, by its cause. -/
def execJobAbort (id : JobId) (cause : BitVec 8) (s : State) : Out :=
  .next (match jobOf s id with
    | none => s
    | some j =>
      if j.abortOrder = some cause.toNat && holdsPlace j && !j.cancelling && !inDelaySlot s j then abortJob s j cause.toNat else s)

/-- A job whose discard is complete goes back to the head of the queue. -/
def requeue (s : State) (id : JobId) : State :=
  settle (updJob s id fun k =>
    if s.fm.phase ≠ .frost && k.state = .aborted && !k.awaitEsc && k.place.isNone then { k with state := .eligible, eligAt := s.clk.fclk, restarted := true } else k)

/-- JOB_DISCARD_COMPLETE: the context is free; the restarted attempt follows at once, or after the escalation of R44. -/
def execJobDiscardComplete (id : JobId) (s : State) : Out :=
  .next (match jobOf s id with
    | none => s
    | some j =>
      if j.state = .aborted && j.place.isSome && !j.cancelling then
        requeue (updJob (freePlace s id) id fun k => { k with claim := j.place }) id
      else s)

/-- JOB_OVERRUN (R55): the run watchdog of a job that holds its context active has expired. -/
def execJobOverrun (id : JobId) (s : State) : Out :=
  .next (match jobOf s id with
    | none => s
    | some j =>
      let limit := fld s Reg.SC_JOB_CTL_WATCHDOG_MULT * ((tmplOf s j).elim 0 (·.d)) * 200
      if j.state = .running && limit ≤ j.activeCyc && j.abortOrder.isNone && !j.cancelling then
        attemptFails s id (placeReport s j 0x1B)
      else s)

/-- WAIT_TIMEOUT (R55): a job SUSPENDED on one wait, or a halted context of it (R313), for longer than `WAIT_LIMIT`. -/
def execWaitTimeout (id : JobId) (s : State) : Out :=
  .next (match jobOf s id with
    | none => s
    | some j =>
      let isOver := fun (since : Nat) => decide (since + 1000 * fld s Reg.SC_JOB_CTL_WAIT_LIMIT < nowNs s)
      let halted := s.sctx.any fun e => e.2.holder = .job id && e.2.state = .halted && isOver e.2.haltNs
      if ((j.state = .suspended && isOver j.waitNs) || (halted && holdsPlace j)) && j.abortOrder.isNone && !j.cancelling then
        attemptFails s id (placeReport s j 0x1C)
      else s)

/-! ### Fills, fetches, commits (R139 to R142, R149, R275) -/

/-- FILL_COMPLETE: a fill from the plan's copy ends; its rows are there, or the entry is absent. -/
def execFillComplete (t : Fin 256) (entry : Fin 256) (ok : Bool) (s : State) : Out :=
  let h := handleOf s t.val entry.val
  .next (
    if !h.filling || h.byStream then s
    else match h.copy, ok with
      | some a, true =>
        let r := devRead s a (128 * h.len) .clean 0
        endFill (spWrite r.2 (spAddr t.val (bankBase h.bank + 128 * h.base)) r.1) t.val entry.val true
      | _, _ => endFill s t.val entry.val false)

/-- The tasks of a tile that wait for an instruction-cache line. -/
def icacheWaiters (s : State) (t line : Nat) : List JobId :=
  (tile s t).ctxs.filterMap fun k => if k.2.state = .waiting && k.2.waitFor = .icache line then k.2.job else none

/-- ICACHE_FILL: a fill under way, one of the tile's oldest two (R12), returns: the line is installed, or the job aborts, because a poisoned bundle is never executed. -/
def execIcacheFill (t : Fin 256) (line : Nat) (tries : ReadTry) (s : State) : Out :=
  let w := icacheWaiters s t.val line
  .next (
    if !((tile s t.val).fills.take 2).contains line then s
    else
      let q := devRead s (128 * line) 128 tries (w.headD 0)
      let r := (q.1, updTile q.2 t.val fun u => { u with fills := u.fills.erase line })
      if r.1.any (·.2) then thread (fun s' id => orderAbort s' id 0x40) r.2 w
      else
        let s1 := updTile r.2 t.val fun u => { u with icache := mset [] u.icache line (r.1.map (·.1)) }
        wakeTasks s1 fun u f => decide (u = t.val) && decide (f = .icache line))

/-- The oldest buffered store reaches its bank, with its poison (R149, R152). -/
def sbCommit (s : State) (t : Nat) : State :=
  match (tile s t).sb with
  | [] => s
  | e :: rest => spWrite (updTile s t fun u => { u with sb := rest }) e.addr (e.bytes.map fun b => (b, e.poison))

/-- STORE_BUFFER_COMMIT: the oldest store reaches its bank, with its poison. -/
def execStoreBufferCommit (t : Fin 256) (s : State) : Out :=
  .next (sbCommit s t.val)

/-! ### Drift (R239 to R242) -/

/-- The step exponent of R241: value, and whether the adaptation was refused at a limit. -/
def adapt (o : OpEntry) (d1 dl : Int) (st : Nat × Nat × Nat × Nat × Int) : Int × Bool :=
  if dl ≠ d1 then (d1, false)
  else
    let n := st.2.1
    let sat := st.2.2.1
    let want : Int := if o.satLim * n < sat * 65536 then 1
      else if st.2.2.2.2 ≤ oTop o.oFmt - 2 && o.mseLim * (n - sat) < st.2.2.2.1 then -1 else 0
    if want = 0 then (d1, false)
    else if d1 + want < o.dmin || o.dmax < d1 + want then (d1, true) else (d1 + want, false)

/-- DRIFT_COMPUTE: d[j], once the statistics of index j − L are complete and the trail entry is free. -/
def execDriftCompute (x : Fin 64) (op : Nat) (s : State) : Out :=
  let p := (stream s x.val).plan
  .next (match driftOf s x.val op, opOf s p op with
    | some d, some o =>
      let lag := getF s Reg.IG_STREAM_DRIFT_LAG 0 x.val
      let j := nextIndex s x.val d
      if !statsComplete s x.val p o (j - lag) || (64 ≤ j && !indexAll s x.val p o (j - 64) fun _ => false) then s
      else
        let d1 := (deltaOf s x.val o (j - 1)).getD o.d0
        let dl := (deltaOf s x.val o (j - lag)).getD o.d0
        let st := (d.stats.find? fun e => e.1 = j - lag).getD (j - lag, 0, 0, 0, -128)
        let r := adapt o d1 dl st
        let s1 := { s with drifts := s.drifts.map fun e => if e.stream = x.val && e.op = op then
          { e with deltas := ((j, r.1) :: e.deltas).take 64, stats := e.stats.filter fun q => j < q.1 + 64 } else e }
        let s2 := if r.2 then cnt s1 Reg.SC_DRIFT_PINNED else s1
        let s3 := if r.1 ≠ d1 then
          countAt (cnt s2 Reg.SC_DRIFT_EVENTS) x.val (j * o.period * (stream s x.val).h) 1 addDrifts else s2
        settle (if r.2 || r.1 ≠ d1 then evSet s3 66 else s3)
    | _, _ => s)

end Sys2Proof.Machine
end

