-- ==== Sys2Proof/Machine/Operands.lean ====
section
/-! DEFINITION. Operands of the lane engine: registers with their poison (R129, R132, R191), address modifiers (R165),
handles and accesses (R163, R164, R272 to R274), the store buffer (R149, R150), slot-state checking (R286). -/

namespace Sys2Proof.Machine

/-- The view a bundle has of its task: every slot reads the registers as they stood before it issued (R161). -/
structure Lane where
  t : Nat
  c : Nat
  r : Regs
  job : JobId
  attempt : Nat
  plan : Nat
  kind : JobKind
  tmpl : Nat
  deriving DecidableEq, Repr

def Lane.long (l : Lane) : Bool := l.r.vfmt.getLsbD 2
/-- Element width, by `vfmt[1:0]`. -/
def Lane.ew (l : Lane) : Nat := 8 * 2 ^ (l.r.vfmt.toNat % 4)
/-- Bytes of an element. -/
def Lane.eb (l : Lane) : Nat := 2 ^ (l.r.vfmt.toNat % 4)
/-- Bits of a vector register. -/
def Lane.vbits (l : Lane) : Nat := if l.long then 8192 else 1024
/-- Capacity (R131). -/
def Lane.cap (l : Lane) : Nat := l.vbits / l.ew
def Lane.vn (l : Lane) : Nat := l.r.vn
def Lane.sol (l : Lane) : Bool := l.r.tstat.getLsbD 0

/-! ### Reading registers -/

/-- Scalar registers: `s0` reads 0. -/
def Lane.s (l : Lane) (i : Nat) : Nat := if i = 0 then 0 else (mget 0 l.r.s i).toNat
def Lane.sp (l : Lane) (i : Nat) : Bool := i ≠ 0 && l.r.sPoison.getLsbD i
def Lane.a (l : Lane) (i : Nat) : Nat := (mget 0 l.r.a i).toNat
def Lane.ap (l : Lane) (i : Nat) : Bool := l.r.aPoison.getLsbD i
def Lane.m (l : Lane) (i : Nat) : Nat := (mget 0 l.r.m i).toNat
def Lane.mp (l : Lane) (i : Nat) : Bool := l.r.mPoison.getLsbD i
/-- Predicates: `p0` reads all ones. -/
def Lane.p (l : Lane) (i : Nat) : Nat := if i = 0 then 2 ^ 128 - 1 else (mget 0 l.r.p i).toNat
/-- A vector operand: one register, or in long mode the eight of R132, the lowest first. -/
def Lane.v (l : Lane) (i : Nat) : Nat :=
  (vregs l.long i).foldr (fun k acc => acc * 2 ^ 1024 + (mget 0 l.r.v k).toNat) 0
/-- Its poison bits, one for each byte lane. -/
def Lane.vp (l : Lane) (i : Nat) : Nat :=
  (vregs l.long i).foldr (fun k acc => acc * 2 ^ 128 + (mget 0 l.r.vPoison k).toNat) 0

/-- Element `j` of width `w` bits. -/
def elemAt (w v j : Nat) : Nat := bitsOf v (w * j) w
/-- Some byte of element `j` is poisoned. -/
def elemPoison (w p j : Nat) : Bool := bitsOf p (w / 8 * j) (w / 8) ≠ 0
def Lane.el (l : Lane) (v j : Nat) : Nat := elemAt l.ew v j
def Lane.ep (l : Lane) (p j : Nat) : Bool := elemPoison l.ew p j

/-- Element `j` is active under predicate `pr` (R167). -/
def Lane.active (l : Lane) (pr j : Nat) : Bool := j < l.vn && (l.long || bitsOf (l.p pr) (j * l.eb) 1 = 1)
/-- Indices of the active elements, rising. -/
def Lane.actives (l : Lane) (pr : Nat) : List Nat := (upto l.cap).filter (l.active pr)

/-! ### Writing registers -/

def putBit {w : Nat} (x : BitVec w) (i : Nat) (b : Bool) : BitVec w :=
  if b then x ||| BitVec.ofNat w (2 ^ i) else x &&& ~~~(BitVec.ofNat w (2 ^ i))

/-- Write a scalar register with its poison; a write of `s0` is discarded. -/
def Regs.wS (r : Regs) (i v : Nat) (p : Bool) : Regs :=
  if i = 0 then r else { r with s := mset 0 r.s i (BitVec.ofNat 64 v), sPoison := putBit r.sPoison i p }
def Regs.wA (r : Regs) (i v : Nat) (p : Bool) : Regs :=
  { r with a := mset 0 r.a i (BitVec.ofNat 48 v), aPoison := putBit r.aPoison i p }
def Regs.wM (r : Regs) (i v : Nat) (p : Bool) : Regs :=
  { r with m := mset 0 r.m i (BitVec.ofNat 64 v), mPoison := putBit r.mPoison i p }
def Regs.wP (r : Regs) (i v : Nat) : Regs := if i = 0 then r else { r with p := mset 0 r.p i (BitVec.ofNat 128 v) }
def Regs.wV (r : Regs) (long : Bool) (i v p : Nat) : Regs :=
  (vregs long i).foldl (fun (x : Regs) k =>
    let j := k - (if long then 8 * i else i)
    { x with v := mset 0 x.v k (BitVec.ofNat 1024 (v / 2 ^ (1024 * j))),
             vPoison := mset 0 x.vPoison k (BitVec.ofNat 128 (p / 2 ^ (128 * j))) }) r
/-- `tstat[16]`: poison seen. -/
def Regs.seen (r : Regs) (b : Bool) : Regs := if b then { r with tstat := putBit r.tstat 16 true } else r
/-- The exception cause in `tstat[15:8]`. -/
def Regs.cause (r : Regs) (n : Nat) : Regs :=
  { r with tstat := BitVec.ofNat 32 (r.tstat.toNat / 65536 * 65536 + n % 256 * 256 + r.tstat.toNat % 256) }

/-- Bits packed from `n` elements of `w` bits. -/
def packElems (w n : Nat) (f : Nat → Nat) : Nat := (upto n).foldr (fun j acc => acc * 2 ^ w + f j % 2 ^ w) 0

/-- A vector register with some elements of width `w` replaced: `f j` gives the new value and poison of element `j`; the
others keep their previous values (R133). -/
def Lane.over (l : Lane) (w v p : Nat) (f : Nat → Option (Nat × Bool)) : Nat × Nat :=
  let n := l.vbits / w
  (packElems w n fun j => match f j with | some x => x.1 | none => elemAt w v j,
   packElems (w / 8) n fun j => match f j with
     | some x => if x.2 then 2 ^ (w / 8) - 1 else 0
     | none => bitsOf p (w / 8 * j) (w / 8))

/-- Change the registers of the context. -/
def Lane.put (l : Lane) (s : State) (f : Regs → Regs) : State := updCtx s l.t l.c fun k => { k with regs := f k.regs }

/-! ### Address modifiers (R165) -/

/-- Reverse the low `n` bits. -/
def revBits : Nat → Nat → Nat
  | 0, _ => 0
  | n + 1, x => x % 2 * 2 ^ n + revBits n (x / 2)

/-- A step through a modifier; none where it raises `ILLEGAL_OPERAND`. -/
def modStep (a m : Nat) (step : Int) : Option Nat :=
  let base := a / 2 ^ 32 * 2 ^ 32 + bitsOf m 32 32
  let ofs : Nat := (a + 2 ^ 48 - base) % 2 ^ 48
  match bitsOf m 0 2 with
  | 0 => some (unsgn 48 (a + step))
  | 1 =>
    let len := bitsOf m 10 22
    if len = 0 then none else some ((base + unsgn 48 ((ofs : Int) + step) % len) % 2 ^ 48)
  | 2 =>
    let n := bitsOf m 2 5
    let esz := bitsOf m 7 3
    if n = 0 || 24 < n || step % (2 ^ esz : Nat) ≠ 0 then none
    else
      let idx : Nat := ofs / 2 ^ esz % 2 ^ n
      let st := unsgn n (step / (2 ^ esz : Nat))
      some ((base + revBits n ((revBits n idx + st) % 2 ^ n) * 2 ^ esz) % 2 ^ 48)
  | _ => none

/-! ### Checks of a slot: exceptions, waits and bounded stalls -/

/-- What stands in the way of a bundle. An exception carries its cause, and for `BOUNDS` and `HANDLE_ABSENT` the handle field,
offset and size; a wait its code (R134) and condition; a stall whether the array's queue is full and whether a load waits. -/
inductive Chk where
  | ok
  | exc (cause : Nat) (at_ : Option (Nat × Nat × Nat))
  | wait (code : Nat) (w : WaitFor)
  | stall (qfull partLoad : Bool)
  deriving DecidableEq, Repr

/-- The first check that is not passed. -/
def firstBad : List Chk → Chk
  | [] => .ok
  | .ok :: l => firstBad l
  | x :: _ => x

/-- An exception when the condition holds. -/
def raiseIf (b : Bool) (cause : Nat) : Chk := if b then .exc cause none else .ok

/-- A bundle's exceptions come before its waits, and these before its stalls; within each the lowest slot decides (R187; log 23). -/
def judge (l : List Chk) : Chk :=
  match l.find? fun x => match x with | .exc _ _ => true | _ => false with
  | some x => x
  | none => match l.find? fun x => match x with | .wait _ _ => true | _ => false with
    | some x => x
    | none => firstBad l

/-! ### Accesses (R163, R164, R271, R274) -/

/-- Table entry of a handle field (R272). -/
def entryOf (c h : Nat) : Nat := if h < 128 then h else 128 + 16 * c + (h - 128)

/-- An access of `n` bytes at an effective address: its check and the device address of its first byte. -/
def access (s : State) (l : Lane) (ea n align : Nat) (write : Bool) : Chk × Nat :=
  if bitsOf ea 47 1 = 1 then
    let h := bitsOf ea 39 8
    let o := bitsOf ea 0 39
    let k := handleOf s l.t (entryOf l.c h)
    if 144 ≤ h || !k.valid || k.plan ≠ l.plan then (.exc 0x07 none, 0)
    else if o % align ≠ 0 then (.exc 0x05 none, 0)
    else if 128 * k.len < o + n || (write && !k.write) || (l.sol && k.bank = 2) then (.exc 0x04 (some (h, o, n)), 0)
    else if !k.present then (.exc 0x06 (some (h, o, n)), 0)
    else if k.filling && 128 * k.landed < o + n then (.wait 4 (.landing (entryOf l.c h) (o + n)), 0)
    else (.ok, spAddr l.t (bankBase k.bank + 128 * k.base + o))
  else
    let lo := spAddr l.t 0
    let o := ea - lo
    let bankAt := fun (x : Nat) => if x < 0x40000 then 0 else if x < 0x80000 then 1 else 2
    if ea % align ≠ 0 then (.exc 0x05 none, 0)
    else if ea < lo || 0x180000 < o + n || bankAt o ≠ bankAt (o + n - 1) || (l.sol && bankAt o = 2) then (.exc 0x04 none, 0)
    else (.ok, ea)

/-! ### The store buffer (R149, R150) -/

/-- Buffered stores that overlap a range, oldest first. -/
def sbOver (s : State) (t a n : Nat) : List SbEntry :=
  (tile s t).sb.filter fun e => e.addr < a + n && a < e.addr + e.bytes.length

/-- A scalar load against the buffer: forwarded from the youngest overlapping store that contains it, or held. -/
def sbLoad (s : State) (l : Lane) (a n : Nat) : Chk :=
  if l.sol then (if (tile s l.t).sb.isEmpty then .ok else .stall false false)
  else match (sbOver s l.t a n).getLast? with
    | none => .ok
    | some e => if e.addr ≤ a && a + n ≤ e.addr + e.bytes.length then .ok else .stall false true

/-- A vector access that overlaps a buffered store waits for it. -/
def sbVector (s : State) (l : Lane) (a n : Nat) (load : Bool) : Chk :=
  if l.sol && !(tile s l.t).sb.isEmpty then .stall false false
  else if (sbOver s l.t a n).isEmpty then .ok else .stall false load

/-- Every buffered store commits, in order: before a later slot's vector store to the same bytes (R161). -/
def sbDrain (s : State) (t : Nat) : State := thread (fun s' (_ : SbEntry) => sbCommit s' t) s (tile s t).sb

/-- Operations that wait until the buffer is empty (R151, R183, R186). -/
def sbDrained (s : State) (t : Nat) : Chk := if (tile s t).sb.isEmpty then .ok else .stall false false

/-- Scratchpad bytes as the task sees them: the bank, under the stores of its buffer; with the failures of this read. -/
def laneRead (s : State) (t a n : Nat) (upset : List Nat) : List (Byte × Bool) :=
  let bank := (spRead s a n).zipIdx.map fun x => (x.1.1, x.1.2 || upset.contains (a + x.2))
  (sbOver s t a n).foldl (fun bs e => bs.zipIdx.map fun x =>
    if e.addr ≤ a + x.2 && a + x.2 < e.addr + e.bytes.length then
      (e.bytes.getD (a + x.2 - e.addr) 0, e.poison)
    else x.1) bank

/-- A read that fails parity is counted and reported (R191, R288). -/
def noteUpset (s : State) (l : Lane) (a n : Nat) (upset : List Nat) : State :=
  match upset.filter fun u => a ≤ u && u < a + n with
  | [] => s
  | u :: _ =>
    report (evSet (cntT s Reg.TA_CNT_SP_PARITY l.t 1) (256 + l.t))
      (mkReport 0x42 .tile ((physOf s l.t).getD 0) (u - spAddr l.t 0) l.job l.c)

/-! ### Addresses of queue slots as the lane engine names them (R283) -/

/-- The address that `hqpush` and `hqpop` write: handle-relative for slots in the scratchpad. -/
def slotRef (q : Queue) (k : Nat) : Nat :=
  let o := k % q.decl.depth * slotBytes q
  if q.decl.inDram then q.decl.dramAddr + o else 2 ^ 47 + q.decl.handle * 2 ^ 39 + o

end Sys2Proof.Machine
end

