-- ==== Sys2Proof/Machine/Lane.lean ====
section
/-! DEFINITION. What the slots S, A, V, M and L of a bundle compute (R160 to R177, R186, R192). -/

namespace Sys2Proof.Machine

/-! ### S slots (R166, R167) -/

/-- Second operand of an S slot with its poison. -/
def Lane.second (l : Lane) (o : SlotOp) : Nat × Bool :=
  if o.f 21 1 = 1 then (unsgn 64 (o.sf 0 21), false) else (l.s (o.f 16 5), l.sp (o.f 16 5))

/-- Position and width of `bfx` and `bfi`. -/
def bfPos (o : SlotOp) : Nat := o.f 0 6
def bfWidth (o : SlotOp) : Nat := o.f 6 6 + 1

/-- Leading zeros of a 64-bit value. -/
def clz64 (x : Nat) : Nat := if x = 0 then 64 else 63 - x.log2
def popc (w x : Nat) : Nat := ((upto w).map fun i => bitsOf x i 1).sum

def sCheck (l : Lane) (o : SlotOp) : Chk :=
  let y := l.second o
  match o.op with
  | 0x12 | 0x13 => raiseIf (o.f 21 1 = 0 || 64 < bfPos o + bfWidth o) 0x02
  | 0x18 => raiseIf y.2 0x08
  | 0x19 => firstBad [raiseIf y.2 0x08, raiseIf (y.1 / 8 ≠ 0) 0x02]
  | 0x1C | 0x1D => raiseIf (l.long && o.f 22 3 ≠ 0) 0x02
  | 0x1E => raiseIf ((l.long && 4 ≤ o.f 22 5) || (!y.2 && l.cap ≤ y.1)) 0x02
  | 0x20 | 0x21 | 0x22 | 0x23 => raiseIf (l.long || o.f 21 1 = 1) 0x02
  | 0x24 | 0x25 => raiseIf l.long 0x02
  | _ => .ok

/-- Result of an S operation that writes a scalar register, with its poison. `free` stands for the value of a `vext` whose
index is poisoned and out of range, which no rule states (log 3). -/
def sResult (l : Lane) (o : SlotOp) (free : Nat) : Nat × Bool :=
  let x := l.s (o.f 22 5)
  let y := (l.second o).1
  let px := l.sp (o.f 22 5)
  let py := (l.second o).2
  let sx := sgn 64 x
  let sy := sgn 64 y
  let bin := fun (v : Int) => (unsgn 64 v, px || py)
  match o.op with
  | 0x01 => bin (x + y : Nat)
  | 0x02 => bin ((x : Int) - y)
  | 0x03 => bin (x &&& y : Nat)
  | 0x04 => bin (x ||| y : Nat)
  | 0x05 => bin (x ^^^ y : Nat)
  | 0x06 => bin (x * 2 ^ (y % 64) : Nat)
  | 0x07 => bin (x / 2 ^ (y % 64) : Nat)
  | 0x08 => bin (sx / (2 ^ (y % 64) : Nat))
  | 0x09 => bin (b2n (sx < sy) : Nat)
  | 0x0A => bin (b2n (x < y) : Nat)
  | 0x0B => bin (min sx sy)
  | 0x0C => bin (max sx sy)
  | 0x0D => bin (x * y : Nat)
  | 0x0E => bin (sx * sy / (2 ^ 64 : Nat))
  | 0x0F => bin (x * y / 2 ^ 64 : Nat)
  | 0x10 => (clz64 x, px)
  | 0x11 => (popc 64 x, px)
  | 0x12 =>
    let v := bitsOf x (bfPos o) (bfWidth o)
    (if o.f 12 1 = 1 then unsgn 64 (sgn (bfWidth o) v) else v, px)
  | 0x13 =>
    let d := l.s (o.f 27 5)
    (d - atBit (bfPos o) (bitsOf d (bfPos o) (bfWidth o)) + atBit (bfPos o) (bitsOf x 0 (bfWidth o)), px || l.sp (o.f 27 5))
  | 0x14 => bin (((upto 8).map fun i =>
      let n := bitsOf y (4 * i) 4
      atBit (8 * i) (if n < 8 then bitsOf x (8 * n) 8 else 0)).sum : Nat)
  | 0x1A => (l.a (o.f 22 4), l.ap (o.f 22 4))
  | 0x1B => (l.m (o.f 22 3), l.mp (o.f 22 3))
  | 0x1C => ((l.actives (o.f 22 3)).length, false)
  | 0x1D => ((l.actives (o.f 22 3)).headD l.vn, false)
  | 0x1E =>
    if l.cap ≤ y then ((Config.freeWord free).toNat, true)
    else (unsgn 64 (sgn l.ew (l.el (l.v (o.f 22 5)) y)), py || l.ep (l.vp (o.f 22 5)) y)
  | _ => (0, false)

/-- Predicate result: all 128 bits, or the elements below `vn`. -/
def pResult (l : Lane) (o : SlotOp) : Nat :=
  let x := l.p (o.f 22 3)
  let y := l.p (o.f 16 3)
  match o.op with
  | 0x20 => x &&& y
  | 0x21 => x ||| y
  | 0x22 => x ^^^ y
  | 0x23 => x &&& (y ^^^ (2 ^ 128 - 1))
  | 0x24 => x ^^^ (2 ^ 128 - 1)
  | _ => 2 ^ (min 128 (l.vn * l.eb)) - 1

def sEffect (l : Lane) (o : SlotOp) (s : State) : State :=
  let rd := o.f 27 5
  let y := (l.second o).1
  if o.op = 0 then s
  else if o.op = 0x18 then
    let n := min y l.cap
    l.put s fun r => { r.wS rd (y - n) false with vn := n }
  else if o.op = 0x19 then
    let k := { l with r := { l.r with vfmt := BitVec.ofNat 8 y } }
    l.put s fun r => { r.wS rd k.cap false with vn := k.cap, vfmt := BitVec.ofNat 8 y }
  else if 0x20 ≤ o.op then l.put s fun r => r.wP (rd % 8) (pResult l o)
  else
    let x := sResult l o s.free
    let s1 := l.put s fun r => r.wS rd x.1 x.2
    if o.op = 0x1E && l.cap ≤ y then drawn s1 else s1

/-! ### A slots (R168) -/

/-- Step of an A slot, in bytes. -/
def Lane.step (l : Lane) (o : SlotOp) : Int × Bool :=
  if o.f 20 1 = 1 then (o.sf 0 20, false) else (sgn 64 (l.s (o.f 15 5)), l.sp (o.f 15 5))

def aCheck (l : Lane) (o : SlotOp) : Chk :=
  match o.op with
  | 0x02 => raiseIf (modStep (l.a (o.f 24 4)) (l.m (o.f 21 3)) (l.step o).1).isNone 0x02
  | 0x04 => raiseIf (o.f 20 1 = 1 || o.f 31 1 = 1) 0x02
  | 0x05 => raiseIf (o.f 20 1 = 0) 0x02
  | _ => .ok

def aEffect (l : Lane) (o : SlotOp) (s : State) : State :=
  let st := l.step o
  let a := l.a (o.f 24 4)
  let pa := l.ap (o.f 24 4)
  let ad := o.f 28 4
  match o.op with
  | 0x01 => l.put s fun r => r.wA ad (unsgn 48 (a + st.1)) (pa || st.2)
  | 0x02 => l.put s fun r => r.wA ad ((modStep a (l.m (o.f 21 3)) st.1).getD 0) (pa || st.2 || l.mp (o.f 21 3))
  | 0x03 => l.put s fun r => r.wA ad (unsgn 48 st.1) st.2
  | 0x04 => l.put s fun r => r.wM (ad % 8) (l.s (o.f 15 5)) (l.sp (o.f 15 5))
  | 0x05 => l.put s fun r => r.wA ad (2 ^ 47 + o.f 0 8 * 2 ^ 39) false
  | _ => s

/-! ### L slots (R162) -/

def lCheck (o : SlotOp) : Chk :=
  raiseIf (o.op = 0x01 && ((o.f 65 2 = 1 && 16 ≤ o.f 67 5) || (o.f 65 2 = 2 && 8 ≤ o.f 67 5))) 0x02

def lEffect (l : Lane) (o : SlotOp) (s : State) : State :=
  if o.op = 0 then s
  else match o.f 65 2 with
    | 0 => l.put s fun r => r.wS (o.f 67 5) (o.f 0 64) false
    | 1 => l.put s fun r => r.wA (o.f 67 5) (o.f 0 64) false
    | _ => l.put s fun r => r.wM (o.f 67 5) (o.f 0 64) false

/-! ### V slots (R169 to R173) -/

/-- Op2 as element `j`, with its poison. -/
def Lane.op2 (l : Lane) (o : SlotOp) (j : Nat) : Nat × Bool :=
  match o.f 7 2 with
  | 0 => (l.el (l.v (o.f 17 5)) j, l.ep (l.vp (o.f 17 5)) j)
  | 1 => (l.s (o.f 12 5) % 2 ^ l.ew, l.sp (o.f 12 5))
  | _ => (unsgn l.ew (o.sf 0 7), false)

/-- The opcode reads op2; reads vs1; writes a vector. -/
def usesOp2 (x : Nat) : Bool := x ≤ 0x1A && x ≠ 0x0A || (0x1C ≤ x && x ≤ 0x21)
def usesVs1 (x : Nat) : Bool := x ≠ 0x19
def writesVec (x : Nat) : Bool := !(0x12 ≤ x && x ≤ 0x17) && x ≠ 0x26 && x ≠ 0x27

/-- Widths of the types of `vcvt`; none for types 5 to 7. -/
def cvtWidth : Nat → Option Nat
  | 0 => some 8 | 1 => some 16 | 2 => some 32 | 3 => some 16 | 4 => some 32 | _ => none

/-- `vcvt` is well formed (R171). -/
def cvtOk (l : Lane) (o : SlotOp) : Bool :=
  match cvtWidth (o.f 4 3), cvtWidth (o.f 1 3) with
  | some d, some q => (d = q || d = 2 * q || q = 2 * d) && l.ew = max d q && !(d = q && o.f 0 1 = 1)
  | _, _ => false

/-- The float format of the element width. -/
def Lane.ff (l : Lane) : FFmt := if l.ew = 16 then bf16 else fp32

/-- Checks of a V slot; with `vn` = 0 it raises nothing (R133). -/
def vCheck (l : Lane) (o : SlotOp) : Chk :=
  let x := o.op
  if x = 0 || l.vn = 0 then .ok
  else raiseIf (
    (l.long && ((writesVec x && 4 ≤ o.f 27 5) || (usesVs1 x && 4 ≤ o.f 22 5) || (usesOp2 x && o.f 7 2 = 0 && 4 ≤ o.f 17 5) ||
      o.f 9 3 ≠ 0 || (0x12 ≤ x && x ≤ 0x17) || x = 0x1A)) ||
    (x = 0x19 && o.f 7 2 = 0) || (x = 0x1B && !cvtOk l o) ||
    (((0x1C ≤ x && x ≤ 0x21) || x = 0x25) && !(l.ew = 16 || l.ew = 32))) 0x02

/-- Element-wise integer operation on `w`-bit codes: old destination, vs1, op2. -/
def vInt (x w d a b : Nat) : Nat :=
  let sa := sgn w a
  let sb := sgn w b
  match x with
  | 0x01 => unsgn w (a + b : Nat)
  | 0x02 => unsgn w ((a : Int) - b)
  | 0x03 => unsgn w (satInt w (sa + sb))
  | 0x04 => unsgn w (satInt w (sa - sb))
  | 0x05 => unsgn w (a * b : Nat)
  | 0x06 => unsgn w (sa * sb / (2 ^ w : Nat))
  | 0x07 => unsgn w (d + a * b : Nat)
  | 0x08 => unsgn w (min sa sb)
  | 0x09 => unsgn w (max sa sb)
  | 0x0A => unsgn w (satInt w (sa.natAbs : Nat))
  | 0x0B => a &&& b
  | 0x0C => a ||| b
  | 0x0D => a ^^^ b
  | 0x0E => unsgn w (a * 2 ^ (b % w) : Nat)
  | 0x0F => a / 2 ^ (b % w)
  | 0x10 => unsgn w (sa / (2 ^ (b % w) : Nat))
  | 0x11 => unsgn w (roundAway { m := sa, e := -((b % w : Nat) : Int) })
  | _ => b

/-- Float operation on codes (R170). -/
def vFlt (x : Nat) (f : FFmt) (d a b : Nat) : Nat :=
  match x with
  | 0x1C => fAdd f a b
  | 0x1D => fSub f a b
  | 0x1E => fMul f a b
  | 0x1F => fMa f d a b
  | 0x20 => fPick f true a b
  | _ => fPick f false a b

/-- Comparison of two elements. -/
def vCmp (x w a b : Nat) : Bool :=
  match x with
  | 0x12 => a = b
  | 0x13 => a ≠ b
  | 0x14 => sgn w a < sgn w b
  | 0x15 => sgn w a ≤ sgn w b
  | 0x16 => a < b
  | _ => a ≤ b

/-- A value of a `vcvt` type: an integer or a float. -/
def cvtRead (ty c : Nat) : FV :=
  match ty with
  | 3 => fRead bf16 c
  | 4 => fRead fp32 c
  | _ => let n := sgn (8 * 2 ^ ty) c; .fin (n < 0) n.natAbs 0

/-- Conversion of one element (R171). -/
def cvtElem (dst src c : Nat) : Nat :=
  match dst with
  | 3 => fRound bf16 (cvtRead src c)
  | 4 => fRound fp32 (cvtRead src c)
  | _ => unsgn (8 * 2 ^ dst) (fToInt (8 * 2 ^ dst) (cvtRead src c)).1

/-- One pass of `vfredsum`: neighbours are added in pairs (R172). -/
def pairSum : List Nat → List Nat
  | x :: y :: l => fAdd fp32 x y :: pairSum l
  | l => l

/-- The FP32 sum of R172; seven passes reduce 512 elements or fewer with room. -/
def fredSum (l : List Nat) : Nat := (thread (fun (k : List Nat) (_ : Nat) => pairSum k) l (upto 10)).headD 0

/-- Leading bits equal to the sign bit, minus 1. -/
def redundant (w c : Nat) : Nat :=
  let n := sgn w c
  let g : Nat := if n < 0 then (-n - 1).toNat else n.toNat
  if g = 0 then w - 1 else w - 2 - g.log2

/-- Block exponent of the active elements (R173). -/
def blockExp (w : Nat) (l : List Nat) : Nat := (l.map (redundant w)).foldl min (w - 1)

/-- Effect of a V slot. -/
def vEffect (l : Lane) (o : SlotOp) (s : State) : State :=
  let x := o.op
  let w := l.ew
  let vd := o.f 27 5
  let v1 := l.v (o.f 22 5)
  let p1 := l.vp (o.f 22 5)
  let dv := l.v vd
  let dp := l.vp vd
  let pr := o.f 9 3
  let act := l.actives pr
  let hurt := act.any (l.ep p1)
  let put := fun (k : Nat × Nat) => l.put s fun r => r.wV l.long vd k.1 k.2
  if x = 0 || l.vn = 0 then s
  else if 0x12 ≤ x && x ≤ 0x17 then
    let one := fun (j : Nat) => l.ep p1 j || (l.op2 o j).2
    let bits := packElems l.eb (128 / l.eb) fun j =>
      if l.active pr j then
        (if !one j && vCmp x w (l.el v1 j) (l.op2 o j).1 then 2 ^ l.eb - 1 else 0)
      else bitsOf (l.p (vd % 8)) (j * l.eb) l.eb
    l.put s fun r => (r.wP (vd % 8) bits).seen (act.any one)
  else if x = 0x18 then
    put (l.over w dv dp fun j =>
      if j < l.vn then
        some (if l.active pr j then l.el v1 j else (l.op2 o j).1, l.ep p1 j || (l.op2 o j).2)
      else none)
  else if x = 0x19 then put (l.over w dv dp fun j => if l.active pr j then some (l.op2 o j) else none)
  else if x = 0x1A then
    put (l.over w dv dp fun j =>
      if l.active pr j then
        let i := (l.op2 o j).1 % l.cap
        some (l.el v1 i, l.ep p1 i || (l.op2 o j).2)
      else none)
  else if x = 0x1B then
    let dst := o.f 4 3
    let src := o.f 1 3
    let dw := (cvtWidth dst).getD 8
    let sw := (cvtWidth src).getD 8
    let up := if o.f 0 1 = 1 then l.cap else 0
    let sofs := if sw < dw then up else 0
    let dofs := if dw < sw then up else 0
    put (l.over dw dv dp fun k =>
      if dofs ≤ k && k < dofs + l.cap && l.active pr (k - dofs) then
        some (cvtElem dst src (elemAt sw v1 (k - dofs + sofs)), elemPoison sw p1 (k - dofs + sofs))
      else none)
  else if 0x1C ≤ x && x ≤ 0x21 then
    put (l.over w dv dp fun j =>
      if l.active pr j then
        some (vFlt x l.ff (l.el dv j) (l.el v1 j) (l.op2 o j).1, l.ep p1 j || (l.op2 o j).2 || (x = 0x1F && l.ep dp j))
      else none)
  else if x = 0x22 then
    put (l.over 64 dv dp fun j => if j = 0 then some (unsgn 64 (act.map fun i => sgn w (l.el v1 i)).sum, hurt) else none)
  else if x = 0x23 || x = 0x24 then
    let top : Int := (2 ^ (w - 1) : Nat) - 1
    let vals := act.map fun i => sgn w (l.el v1 i)
    let r := if x = 0x23 then vals.foldl min top else vals.foldl max (-top - 1)
    put (l.over 64 dv dp fun j => if j = 0 then some (unsgn 64 r, hurt) else none)
  else if x = 0x25 then
    let vals := act.map fun i => fRound fp32 (fRead l.ff (l.el v1 i))
    put (l.over 32 dv dp fun j => if j = 0 then some (fredSum vals, hurt) else none)
  else if x = 0x26 then l.put s fun r => r.wS vd (blockExp w (act.map (l.el v1))) hurt
  else if x = 0x27 then
    l.put s fun r => r.wS vd (unsgn 64 (min (sgn 64 (l.s vd)) (blockExp w (act.map (l.el v1)) : Nat))) (hurt || l.sp vd)
  else
    put (l.over w dv dp fun j =>
      if l.active pr j then
        some (vInt x w (l.el dv j) (l.el v1 j) (l.op2 o j).1,
          (usesVs1 x && l.ep p1 j) || (usesOp2 x && (l.op2 o j).2) || (x = 0x07 && l.ep dp j))
      else none)

/-! ### M slots (R163 to R165, R174 to R177, R186) -/

/-- Bytes of a scalar access. -/
def scalarSize (x : Nat) : Nat := if x ≤ 0x04 then 2 ^ (x - 1) else if x ≤ 0x07 then 2 ^ (x - 5) else 2 ^ (x - 8)
/-- The opcode is a vector access of a contiguous range. -/
def vecAccess (x : Nat) : Bool := x = 0x0C || x = 0x0D
def idxAccess (x : Nat) : Bool := x = 0x0E || x = 0x0F
/-- The access unit of `OFS` (R164). -/
def ofsUnit (x : Nat) : Nat := if vecAccess x then 64 else scalarSize x

/-- Effective address, and the stepped base of a post-modify; none where the step raises. -/
def mEa (l : Lane) (o : SlotOp) : Nat :=
  if o.f 19 1 = 1 then l.a (o.f 23 4) else unsgn 48 (l.a (o.f 23 4) + o.sf 0 16 * (ofsUnit o.op : Nat))
def mStepped (l : Lane) (o : SlotOp) : Option Nat :=
  modStep (l.a (o.f 23 4)) (l.m (o.f 16 3)) (o.sf 0 16 * (ofsUnit o.op : Nat))

/-- Post-modify of `AB`. -/
def mPost (l : Lane) (o : SlotOp) (s : State) : State :=
  if o.f 19 1 = 1 then
    l.put s fun r => r.wA (o.f 23 4) ((mStepped l o).getD 0) (l.ap (o.f 23 4) || l.mp (o.f 16 3))
  else s

/-- Index element `i` of a gather or scatter, with its poison (R175). -/
def idxOf (l : Lane) (o : SlotOp) (i : Nat) : Nat × Bool :=
  let k := o.f 11 5 + i / 64
  (elemAt 16 (mget 0 l.r.v k).toNat (i % 64), elemPoison 16 (mget 0 l.r.vPoison k).toNat (i % 64))

/-- Elements a vector access touches, with their effective addresses: an element with a poisoned index is not accessed (R192). -/
def mElems (l : Lane) (o : SlotOp) : List (Nat × Nat) :=
  let act := l.actives (o.f 20 3)
  if vecAccess o.op then act.map fun i => (i, (mEa l o + i * l.eb) % 2 ^ 48)
  else (act.filter fun i => !(idxOf l o i).2).map fun i => (i, (l.a (o.f 23 4) + (idxOf l o i).1 * l.eb) % 2 ^ 48)

/-- Effective address and size of a contiguous access: from the first active element to the last. -/
def vSpan (l : Lane) (o : SlotOp) : Nat × Nat :=
  match mElems l o with
  | [] => (0, 0)
  | x :: xs => (x.2, ((xs.getLast?.getD x).1 - x.1 + 1) * l.eb)

def isStore (x : Nat) : Bool := (0x08 ≤ x && x ≤ 0x0B) || x = 0x0D || x = 0x0F

/-- Stores that a bundle puts into the store buffer. -/
def storesIn (ops : List SlotOp) : Nat := (ops.filter fun o => o.kind = .m && 0x08 ≤ o.op && o.op ≤ 0x0B).length

/-- Device address of one element or of a span, once its check has passed. -/
def at_ (s : State) (l : Lane) (x : Nat) (ea n : Nat) : Nat := (access s l ea n l.eb (isStore x)).2

/-- Checks of an M slot of a bundle whose slots are `ops`. -/
def mCheck (s : State) (l : Lane) (ops : List SlotOp) (o : SlotOp) : Chk :=
  let x := o.op
  let ab := o.f 23 4
  if x = 0 then .ok
  else if x ≤ 0x0B then
    let n := scalarSize x
    let g := access s l (mEa l o) n n (isStore x)
    firstBad [raiseIf (o.f 19 1 = 1 && (mStepped l o).isNone) 0x02, raiseIf (l.ap ab) 0x08, g.1,
      if isStore x then
        (if (l.sol && !(tile s l.t).sb.isEmpty) || 8 < (tile s l.t).sb.length + storesIn ops then .stall false false else .ok)
      else sbLoad s l g.2 n]
  else if vecAccess x then
    if l.vn = 0 then .ok
    else
      let sp := vSpan l o
      let g := access s l sp.1 sp.2 l.eb (isStore x)
      firstBad [raiseIf (l.long && (4 ≤ o.f 27 5 || o.f 20 3 ≠ 0)) 0x02,
        raiseIf (o.f 19 1 = 1 && (mStepped l o).isNone) 0x02,
        if (mElems l o).isEmpty then .ok else firstBad [raiseIf (l.ap ab) 0x08, g.1, sbVector s l g.2 sp.2 (!isStore x)]]
  else if idxAccess x then
    if l.vn = 0 then .ok
    else
      firstBad ([raiseIf (l.long || o.f 19 1 = 1 || (o.f 11 5 = 31 && 64 < l.vn)) 0x02,
        raiseIf (l.ap ab && !(l.actives (o.f 20 3)).isEmpty) 0x08] ++
        ((mElems l o).map fun e => (access s l e.2 l.eb l.eb (isStore x)).1) ++
        ((mElems l o).map fun e => sbVector s l (at_ s l x e.2 l.eb) l.eb (!isStore x)))
  else
    firstBad [raiseIf (l.a ab % 128 ≠ 0 || 0x10000 ≤ l.a ab) 0x02,
      raiseIf (l.ap ab || (mget 0 l.r.vPoison (o.f 27 5)) ≠ 0) 0x08, sbDrained s l.t]

/-- The scratchpad ranges an M slot accesses: address, bytes, write. -/
def mRanges (s : State) (l : Lane) (o : SlotOp) : List (Nat × Nat × Bool) :=
  let x := o.op
  if x = 0 || 0x10 ≤ x then []
  else if x ≤ 0x0B then
    [((access s l (mEa l o) (scalarSize x) (scalarSize x) (isStore x)).2, scalarSize x, isStore x)]
  else (mElems l o).map fun e => (at_ s l x e.2 l.eb, l.eb, isStore x)

/-- Value of a scalar load. -/
def loadValue (x : Nat) (bs : List Byte) : Nat :=
  if x ≤ 0x04 then unsgn 64 (sgn (8 * bs.length) (leNat bs)) else leNat bs

/-- Bytes of element `i` of a stored vector with their poison. -/
def storeElem (l : Lane) (v p i : Nat) : List (Byte × Bool) :=
  (upto l.eb).map fun b => (BitVec.ofNat 8 (bitsOf v (8 * (i * l.eb + b)) 8), bitsOf p (i * l.eb + b) 1 = 1)

/-- Effect of an M slot. Addresses are those the bundle was checked with. In Solstice mode the store buffer holds one entry: the second
store of a bundle commits the first (R146, log 23). -/
def mEffect (l : Lane) (s0 : State) (o : SlotOp) (upset : List Nat) (s : State) : State :=
  let x := o.op
  let rt := o.f 27 5
  if x = 0 then s
  else if x ≤ 0x07 then
    let n := scalarSize x
    let a := (access s0 l (mEa l o) n n false).2
    let bs := laneRead s l.t a n upset
    let fwd := if (sbOver s0 l.t a n).isEmpty then s else cntT s Reg.TA_CNT_SB_FWD l.t 1
    mPost l o (noteUpset (l.put fwd fun r => r.wS rt (loadValue x (bs.map (·.1))) (bs.any (·.2))) l a n upset)
  else if x ≤ 0x0B then
    let n := scalarSize x
    let a := (access s0 l (mEa l o) n n true).2
    let s1 := if l.sol then sbDrain s l.t else s
    mPost l o (noteOut (updTile s1 l.t fun u => { u with sb := u.sb ++ [⟨a, natLE n (l.s rt), l.sp rt⟩] }) l.job a n)
  else if x = 0x0C || x = 0x0E then
    if l.vn = 0 then s
    else
      let es := mElems l o
      let got := es.map fun e => (e.1, at_ s0 l x e.2 l.eb, laneRead s l.t (at_ s0 l x e.2 l.eb) l.eb upset)
      let lost := if x = 0x0E then (l.actives (o.f 20 3)).filter fun i => (idxOf l o i).2 else []
      let dv := l.v rt
      let dp := l.vp rt
      let nv := packElems l.ew l.cap fun j => match got.find? fun g => g.1 = j with
        | some g => leNat (g.2.2.map (·.1)) | none => l.el dv j
      let np := packElems l.eb l.cap fun j =>
        if lost.contains j then 2 ^ l.eb - 1
        else match got.find? fun g => g.1 = j with
          | some g => (g.2.2.zipIdx.map fun b => atBit b.2 (b2n b.1.2)).sum
          | none => bitsOf dp (j * l.eb) l.eb
      let s1 := l.put s fun r => r.wV l.long rt nv np
      let s2 := thread (fun s' g => noteUpset s' l g.2.1 l.eb upset) s1 got
      if x = 0x0C then mPost l o s2 else s2
  else if x = 0x0D || x = 0x0F then
    if l.vn = 0 then s
    else
      let parts := (mElems l o).map fun e => (at_ s0 l x e.2 l.eb, storeElem l (l.v rt) (l.vp rt) e.1)
      let s0 := spStore (if parts.any fun p => !(sbOver s l.t p.1 l.eb).isEmpty then sbDrain s l.t else s) parts
      let s1 := thread (fun s' p => noteOut s' l.job p.1 l.eb) s0 parts
      if x = 0x0D then mPost l o s1
      else l.put s1 fun r => r.seen ((l.actives (o.f 20 3)).any fun i => (idxOf l o i).2)
  else
    iramWrite s l.t (l.a (o.f 23 4)) (natLE 128 (mget 0 l.r.v rt).toNat)

end Sys2Proof.Machine
end

