-- ==== Sys2Proof/Machine/LaneControl.lean ====
section
/-! DEFINITION. C slots (R178 to R187, R213, R277 to R284, R373 to R375, R387), and the issue of a bundle: its judgement, its
effects, and where the task goes on (R134, R139, R143, R179 to R182, R187 to R189). -/

namespace Sys2Proof.Machine

/-! ### Sync objects and queues named by an operation (R183) -/

/-- The sync object a C slot names: its number, whether its register is poisoned, and whether the number is too large. -/
def objNamed (l : Lane) (o : SlotOp) : Nat × Bool × Bool :=
  if o.f 12 1 = 1 then (l.s (o.f 7 5), l.sp (o.f 7 5), 2 ^ 14 ≤ l.s (o.f 7 5)) else (o.f 13 14, false, false)

/-- The handle queue a C slot names. -/
def queueNamed (l : Lane) (o : SlotOp) : Nat × Bool × Bool :=
  if o.f 15 1 = 1 then (l.s (o.f 10 5), l.sp (o.f 10 5), 2 ^ 12 ≤ l.s (o.f 10 5)) else (o.f 16 12, false, false)

/-- The loaded plan owns the object. -/
def ownsObj (s : State) (p n : Nat) : Bool := (obj s n).alloc && (obj s n).plan = p
def ownsQueue (s : State) (p q : Nat) : Bool := (queue s q).alloc && (queue s q).plan = p

/-- An add the operand rules refuse (R183, R213, R278). -/
def addRefused (s : State) (l : Lane) (n : Nat) : Bool :=
  let k := obj s n
  !ownsObj s l.plan n || k.kind = 2 || (k.kind = 1 && (k.owner.elim false (· ≠ l.job))) ||
    commitFull s l.job n

/-! ### Emitted blocks (R373, R387) -/

/-- The ring a job's records go to (R373). -/
def emitRing (s : State) (j : Job) : Nat :=
  if j.kind = .host then getF s Reg.QM_RING_PAIR_RES_RING j.ring 0 else (stream s (emitStream j)).resultRing

/-- What an `emit` stages. An expert-job's record is its result block as it stands (R398). -/
def emitStaged (s : State) (j : Job) (token : Bool) (bs : List Byte) : Staged :=
  let host := j.kind = .host
  let ord := emitOrder s j
  let r := if host then j.ring else 0
  if j.kind = .expert then .record 0 [] bs
  else if token then
    .token (emitRing s j) (natLE 8 ord ++ natLE 4 (emitStream j + b2n host * 2 ^ 6 + fld s Reg.PM_CTL_SELF * 2 ^ 7) ++ natLE 4 r ++
      natLE 2 (b2n j.gap) ++ bs.drop 18)
  else .record (emitRing s j) [stageKey host (emitStream j) j.ring, ord] (recordHead ord (emitStream j) host j.gap false r ++ bs.drop 16)

/-! ### Checks of C slots -/

/-- Handle of a base address that an `mx` names (R274). -/
def baseCheck (s : State) (l : Lane) (ea : Nat) : Chk :=
  if bitsOf ea 47 1 = 0 then .ok
  else
    let h := bitsOf ea 39 8
    let e := entryOf l.c h
    let k := handleOf s l.t e
    if 144 ≤ h || !k.valid || k.plan ≠ l.plan then .exc 0x07 none
    else if !k.present then .exc 0x06 (some (h, bitsOf ea 0 39, 0))
    else if k.filling then .wait 4 (.landing e (128 * k.len + 1))
    else .ok

/-- Check of a queue operation's end and slot, R283. -/
def queueCheck (s : State) (l : Lane) (o : SlotOp) : Chk :=
  let qn := (queueNamed l o).1
  let q := queue s qn
  let a := l.a (o.f 28 4)
  let here := fun (k : Nat) => a = slotRef q k || a = slotAddr s q k
  match o.op with
  | 0x08 =>
    let own := decide (q.prod = .job l.job)
    let has := if q.decl.kind = 2 then haloHeld q l.job else (fillingSlot q).isSome
    let mine := if q.decl.kind = 2 then has && here (q.tail - 1) else (fillingSlot q).elim false here
    let room := decide ((slot q q.tail).state = .empty) || (q.decl.kind = 2 && (slot q q.tail).entry = q.tail)
    if !own || (a = 0 && has) || (a ≠ 0 && !mine) then .exc 0x09 none else if room then .ok else .wait 3 (.push qn)
  | 0x09 =>
    if q.cons ≠ .job l.job then .exc 0x09 none
    else if q.decl.kind = 2 then
      let n := mget 0 q.hpos l.tmpl
      if n < (obj s q.decl.sync).count.toNat then .ok else .wait 2 (.halo q.decl.sync n)
    else if (slot q q.head).state = .full then .ok else .wait 2 (.pop qn)
  | _ =>
    let mine := if q.decl.kind = 2 then (upto q.decl.depth).any fun k => here k && (slot q k).refs.contains l.job
                else (drainingSlot q).elim false here
    if q.cons = .job l.job && mine then .ok else .exc 0x09 none

/-- Address, size and header of an `emit`. -/
def emitBytes (s : State) (l : Lane) (o : SlotOp) : Nat × Nat :=
  let n := 64 * o.f 22 5
  ((access s l (l.a (o.f 28 4)) n 64 false).2, n)

def emitCheck (s : State) (l : Lane) (o : SlotOp) : Chk :=
  let a := l.a (o.f 28 4)
  let token := o.f 27 1 = 1
  let n := o.f 22 5
  let g := access s l a (64 * n) 64 false
  match jobOf s l.job with
  | none => .ok
  | some j =>
    firstBad [raiseIf (l.ap (o.f 28 4)) 0x08,
      raiseIf (if token then n < 2 || 17 < n || j.kind = .expert else n ≠ 1) 0x02,
      raiseIf (1024 ≤ j.emits) 0x02, g.1,
      (let len := leNat ((laneRead s l.t g.2 20 []).drop 18 |>.map (·.1))
       raiseIf (token && (len < 64 * (n - 2) + 1 || 64 * (n - 1) < len)) 0x02),
      (if token then (if tokenCredit s then .ok else .wait 3 .tokenCredit)
       else if j.kind = .expert || recordCredit s j then .ok else .wait 3 (.recordCredit l.job)),
      sbDrained s l.t]

/-- Checks of an `mx` (R183, R213, R216, R274). -/
def mxCheck (s : State) (l : Lane) (o : SlotOp) : Chk :=
  let s1 := l.s (o.f 15 5)
  let s2 := l.s (o.f 10 5)
  let full : Chk := if 16 ≤ (tile s l.t).mxq.length then .stall true false else .ok
  match o.f 28 4 with
  | 1 => firstBad [raiseIf (o.f 5 5 ≠ 0 || 2 ^ 48 ≤ s1 || 2 ^ 48 ≤ s2) 0x02,
      raiseIf (l.ap (o.f 24 4) || l.ap (o.f 20 4) || l.sp (o.f 15 5) || l.sp (o.f 10 5)) 0x08,
      judge [baseCheck s l (l.a (o.f 24 4)), baseCheck s l (l.a (o.f 20 4)), baseCheck s l s1, baseCheck s l s2],
      sbDrained s l.t, full]
  | 2 => firstBad [raiseIf (o.f 2 8 ≠ 0) 0x02, raiseIf (l.ap (o.f 24 4)) 0x08, baseCheck s l (l.a (o.f 24 4)), sbDrained s l.t, full]
  | 3 => firstBad [raiseIf (l.sp (o.f 15 5) || l.sp (o.f 10 5)) 0x08,
      raiseIf (2 ^ 14 ≤ s2 || addRefused s l s2) 0x02, sbDrained s l.t, full]
  | _ => .exc 0x02 none

/-- A branch condition (R178). -/
def condHolds (l : Lane) (o : SlotOp) : Bool :=
  let r := o.f 27 5
  let x := l.s r
  match o.f 24 3 with
  | 0 => true
  | 1 => x = 0
  | 2 => x ≠ 0
  | 3 => sgn 64 x < 0
  | 4 => 0 ≤ sgn 64 x
  | 5 => !(l.actives (r % 8)).isEmpty
  | _ => (l.actives (r % 8)).isEmpty

def cCheck (s : State) (l : Lane) (next : BitVec 128) (o : SlotOp) : Chk :=
  let rs := o.f 27 5
  match o.op with
  | 0x01 =>
    let c := o.f 24 3
    firstBad [raiseIf (c = 7 || (l.long && (c = 5 || c = 6) && rs % 8 ≠ 0)) 0x02, raiseIf (1 ≤ c && c ≤ 4 && l.sp rs) 0x08]
  | 0x03 => raiseIf (l.sp rs) 0x08
  | 0x04 =>
    if o.f 26 1 = 1 then raiseIf (!repeatable next) 0x01
    else firstBad [raiseIf (!repeatable next) 0x01, raiseIf (l.sp rs) 0x08, raiseIf (65535 < l.s rs) 0x02]
  | 0x05 =>
    let n := objNamed l o
    firstBad [raiseIf (n.2.1 || l.sp rs) 0x08, raiseIf (n.2.2 || !ownsObj s l.plan n.1) 0x02,
      if syncMet s n.1 (BitVec.ofNat 64 (l.s rs)) then .ok else .wait 1 (.sync n.1 (BitVec.ofNat 64 (l.s rs)))]
  | 0x06 =>
    let n := objNamed l o
    firstBad [raiseIf (n.2.1 || l.sp rs) 0x08, raiseIf (n.2.2 || addRefused s l n.1) 0x02, sbDrained s l.t]
  | 0x08 | 0x09 | 0x0A =>
    let n := queueNamed l o
    firstBad [raiseIf (n.2.1 || (o.op ≠ 0x09 && l.ap (o.f 28 4))) 0x08, raiseIf (n.2.2 || !ownsQueue s l.plan n.1) 0x02,
      queueCheck s l o, if o.op = 0x09 then .ok else sbDrained s l.t]
  | 0x0B => emitCheck s l o
  | 0x0C => mxCheck s l o
  | 0x0D => if (tile s l.t).mxq.any fun e => e.job = l.job then .stall false false else .ok
  | 0x0F => sbDrained s l.t
  | _ => .ok

/-! ### Effects of C slots on everything but the flow -/

/-- Push, with the poison of what a HALO entry publishes (R50). Poison in a slot that is published at once, of a STREAMING or HALO
queue, has reached an output: the attempt aborts (R38, R193). -/
def doPush (s : State) (l : Lane) (qn ad a : Nat) : State :=
  let q := queue s qn
  let spoiled := fun (s' : State) (k : Nat) =>
    if slotPoisoned s q k then orderAbort (updJob s' l.job fun j => { j with poisonOut := true }) l.job 0 else s'
  let link := fun (s' : State) (k : Nat) => l.put s' fun r => r.wA ad (slotRef q k) false
  if q.decl.kind = 2 then
    let s1 := if a = 0 then s
      else spoiled (cnt (publishHalo s qn (q.tail - 1) (slotPoisoned s q (q.tail - 1)) (l.job :: List.replicate q.decl.refs 0)) Reg.SY_CNT_PUSHES)
        (q.tail - 1)
    link (putQueue s1 qn (takeHalo (queue s1 qn) l.job (haloTagOf s l.job qn q.tail))) q.tail
  else
    let q1 := if a = 0 then q else (fillingSlot q).elim q (pushSlot q)
    let s0 := if a = 0 then s else cnt s Reg.SY_CNT_PUSHES
    let s1 := match if a = 0 || q.decl.kind ≠ 1 then none else fillingSlot q with | some k => spoiled s0 k | none => s0
    link (putQueue s1 qn (takeSlot q1)) q.tail

def doPop (s : State) (l : Lane) (qn ad : Nat) : State :=
  let q := queue s qn
  let s0 := cnt s Reg.SY_CNT_POPS
  if q.decl.kind = 2 then
    l.put (putQueue s0 qn (popHalo q l.job l.tmpl)) fun r => r.wA ad (slotRef q (mget 0 q.hpos l.tmpl)) false
  else l.put (putQueue s0 qn (popSlot q)) fun r => r.wA ad (slotRef q q.head) false

def doRel (s : State) (qn : Nat) : State :=
  let q := queue s qn
  if q.decl.kind = 2 then s
  else match drainingSlot q with
    | some k => putQueue s qn (releaseSlot q k)
    | none => s

/-- The range an `emit` reads, as slot-state checking sees it (R286). -/
def emitRanges (s : State) (l : Lane) (o : SlotOp) : List (Nat × Nat × Bool) := let g := emitBytes s l o; [(g.1, g.2, false)]

/-- `emit`: the blocks are staged until retirement (R42); a poisoned block aborts the attempt at the `emit` (R192). -/
def doEmit (s : State) (l : Lane) (o : SlotOp) : State :=
  match jobOf s l.job with
  | none => s
  | some j =>
    let g := emitBytes s l o
    let bs := laneRead s l.t g.1 g.2 []
    if bs.any (·.2) then orderAbort (updJob s l.job fun k => { k with poisonOut := true }) l.job 0
    else updJob s l.job fun k =>
      { k with staged := k.staged ++ [emitStaged s j (o.f 27 1 = 1) (bs.map (·.1))], emits := k.emits + 1 }

/-- Queue a command on the array (R216). -/
def doMx (s : State) (l : Lane) (o : SlotOp) : State :=
  let pc := l.r.pc
  let cmd : MxCmd := match o.f 28 4 with
    | 1 => .run l.c (o.f 0 5 + 1) (l.a (o.f 24 4)) (l.a (o.f 20 4)) (l.s (o.f 15 5)) (l.s (o.f 10 5)) pc
    | 2 => .cbload l.c (o.f 0 1 = 1) (o.f 1 1 = 1) (l.a (o.f 24 4)) pc
    | _ => .signal l.c (l.s (o.f 10 5)) (BitVec.ofNat 64 (l.s (o.f 15 5))) pc
  let e : MxEntry :=
    { cmd := cmd, job := l.job, attempt := l.attempt, started := 0, doneBlocks := 0, run := none, banks := [],
      issue := s.clk.aclk }
  updTile s l.t fun u => { u with mxq := u.mxq ++ [e] }

def cEffect (l : Lane) (o : SlotOp) (s : State) : State :=
  let link := BitVec.toNat (l.r.pc + 32)
  match o.op with
  | 0x02 => l.put s fun r => r.wS 31 link false
  | 0x03 => l.put s fun r => r.wS (o.f 22 5) link false
  | 0x06 => jobAdds s l.job (objNamed l o).1 (l.s (o.f 27 5))
  | 0x08 => doPush s l (queueNamed l o).1 (o.f 28 4) (l.a (o.f 28 4))
  | 0x09 => doPop s l (queueNamed l o).1 (o.f 28 4)
  | 0x0A => doRel s (queueNamed l o).1
  | 0x0B => doEmit s l o
  | 0x0C => doMx s l o
  | 0x0E => iramShow (if o.f 0 1 = 1 then updTile s l.t fun u => { u with icache := [] } else s) l.t
  | 0x0F => updJob s l.job fun j => { j with ended := true }
  | _ => s

/-! ### Where the task goes on -/

/-- Target of a branch in a bundle, where it is taken (R178). -/
def branchTo (l : Lane) (o : SlotOp) : Option (BitVec 32) :=
  let rel := BitVec.ofInt 32 ((l.r.pc.toNat : Int) + 16 * o.sf 0 24)
  match o.op with
  | 0x01 => if condHolds l o then some rel else none
  | 0x02 => some rel
  | 0x03 => some (BitVec.ofNat 32 (l.s (o.f 27 5)))
  | _ => none

def isBranch (o : SlotOp) : Bool := o.op = 0x01 || o.op = 0x02 || o.op = 0x03

/-- Flow and `pc` after a bundle has issued (R178 to R182). -/
def flowAfter (l : Lane) (f : Flow) (c : Option SlotOp) : Flow × BitVec 32 :=
  let pc := l.r.pc
  let plain : Flow := { slot := none, inSlot := false, rpt := 0 }
  if 0 < f.rpt then
    if f.rpt = 1 then (plain, pc + 16) else ({ f with rpt := f.rpt - 1 }, pc)
  else if f.inSlot then (plain, f.slot.getD (pc + 16))
  else match c with
    | none => (plain, pc + 16)
    | some o =>
      if isBranch o then ({ slot := branchTo l o, inSlot := true, rpt := 0 }, pc + 16)
      else if o.op = 0x04 then
        let n := if o.f 26 1 = 1 then o.f 0 12 + 1 else l.s (o.f 27 5)
        if n = 0 then (plain, pc + 32) else ({ slot := none, inSlot := false, rpt := n }, pc + 16)
      else (plain, pc + 16)

/-- Branch predictor and loop buffer (R143): the two-bit counter and target of the branch, a misprediction, the capture of a
short backward loop, which a branch within its body does not end. Solstice tasks use neither (R146). The counter is the one at bundle number mod 2,048, the target buffer
entry that mod 512 (log 24). -/
def predict (s : State) (l : Lane) (o : SlotOp) : State :=
  match physOf s l.t with
  | none => s
  | some p =>
    if l.sol || !isBranch o then s
    else
      let i := l.r.pc.toNat / 16
      let tgt := branchTo l o
      let c := mget 0 (tile s l.t).bht (i % 2048)
      let on := bit s Reg.TA_TILE_CTL_PREDICT_EN p 0
      let uncond := o.op ≠ 0x01 || o.f 24 3 = 0
      let guess := on && (uncond || 2 ≤ c.toNat) && tgt.elim true fun x => mget 0 (tile s l.t).btb (i % 512) = x
      let c1 : BitVec 2 := if uncond then c else if tgt.isSome then (if c = 3 then 3 else c + 1) else if c = 0 then 0 else c - 1
      let back := match tgt with
        | some x => x.toNat < l.r.pc.toNat && l.r.pc.toNat - x.toNat ≤ 64 * 16 && x.toNat % 16 = 0
        | none => false
      let s1 := if guess = tgt.isSome then s else cntT s Reg.TA_CNT_BR_MISS l.t 1
      updTile s1 l.t fun u =>
        let key := tgt.map fun x => (l.r.pc, x)
        let stays := (u.loopHeld || !back) && u.loopBr.elim false fun k =>
          l.r.pc ≠ k.1 && tgt.elim true fun x => k.2.toNat ≤ x.toNat && x.toNat ≤ k.1.toNat
        { u with bht := mset 0 u.bht (i % 2048) c1,
                 btb := match tgt with | some x => mset 0 u.btb (i % 512) x | none => u.btb,
                 loopSeen := if stays then u.loopSeen else if !back then 0 else if u.loopBr = key then u.loopSeen + 1 else 1,
                 loopBr := if stays then u.loopBr else if back then key else none,
                 loopHeld := if stays then u.loopHeld
                   else back && u.loopBr = key && 1 ≤ u.loopSeen && bit s Reg.TA_TILE_CTL_LOOPBUF_EN p 0 }

/-- The loop buffer and the bundles fetched and not issued are discarded. -/
def dropLoop (s : State) (t : Nat) : State := updTile s t fun u => { u with loopBr := none, loopSeen := 0, loopHeld := false }

/-! ### Issue -/

/-- The running task leaves the tile's issue: it waits, has faulted or has ended. -/
def leaveTile (s : State) (l : Lane) (f : Ctx → Ctx) : State :=
  updTile (updCtx s l.t l.c f) l.t fun u => { u with running := none }

/-- A wait of R134: the bundle has no effect, and the task gives way. -/
def laneWait (s : State) (l : Lane) (code : Nat) (w : WaitFor) : State :=
  let s0 := match w with
    | .icache line => updTile s l.t fun u => { u with fills := if u.fills.contains line then u.fills else u.fills ++ [line] }
    | _ => s
  let s1 := suspendJob (leaveTile (dropLoop s0 l.t) l fun k => { k with state := .waiting, wait := code, waitFor := w }) l.job
  noteWaiters (thread (fun s' e => cntE s' Reg.SE_CNT_DRY e 1) s1 (dryFeeders s1 w))

/-- An exception (R187 to R190): no slot has an effect, the cause is recorded; `BOUNDS` and `HANDLE_ABSENT` wait for the
handler of R276, every other cause fails the attempt. -/
def laneRaise (s : State) (l : Lane) (cause : Nat) (at_ : Option (Nat × Nat × Nat)) : State :=
  let mark := fun (k : Ctx) => { k with regs := k.regs.cause cause, lastPc := l.r.pc, wait := 0, waitFor := .none }
  if cause = 0x04 || cause = 0x06 then
    suspendJob (leaveTile (dropLoop (evSet s (256 + l.t)) l.t) l fun k => { mark k with state := .faulted, faultAt := at_ }) l.job
  else
    let s1 := leaveTile (dropLoop s l.t) l fun k => { mark k with state := .waiting, faultAt := none }
    let s2 := if cause = 0x09 then cntT s1 Reg.TA_CNT_SLOTPROT l.t 1 else s1
    match jobOf s2 l.job with
    | some j => attemptFails s2 l.job (placeReport s2 j cause)
    | none => s2

/-- Check of one slot. -/
def slotCheck (s : State) (l : Lane) (ops : List SlotOp) (next : BitVec 128) (o : SlotOp) : Chk :=
  if !slotLegal o then .exc 0x01 none
  else match o.kind with
    | .s => sCheck l o
    | .a => aCheck l o
    | .v => vCheck l o
    | .m => mCheck s l ops o
    | .c => cCheck s l next o
    | .l => lCheck o

/-- Effect of one slot of a bundle that issues in state `s0`. -/
def slotEffect (s0 : State) (l : Lane) (upset : List Nat) (s : State) (o : SlotOp) : State :=
  match o.kind with
  | .s => sEffect l o s
  | .a => aEffect l o s
  | .v => vEffect l o s
  | .m => mEffect l s0 o upset s
  | .c => cEffect l o s
  | .l => lEffect l o s

/-- A slot of the bundle that makes it illegal: it writes a register that another slot writes too (R160), or holds what a delay slot
may not (R179). -/
def slotBarred (l : Lane) (f : Flow) (ops : List SlotOp) (o : SlotOp × Nat) : Bool :=
  (f.inSlot && barredInSlot [o.1]) ||
  ops.zipIdx.any fun p => p.2 ≠ o.2 && (writesOf l.long p.1).any fun r => (writesOf l.long o.1).contains r

/-- Judgement of a whole bundle: each slot's own, so that the lowest-numbered slot's exception is reported (R187). -/
def bundleCheck (s : State) (l : Lane) (f : Flow) (b next : BitVec 128) : Chk :=
  match decodeBundle b with
  | none => .exc 0x01 none
  | some ops => judge (ops.zipIdx.map fun o => if slotBarred l f ops o then .exc 0x01 none else slotCheck s l ops next o.1)

/-- Loads of a bundle that the store buffer holds back (R150, R157). -/
def loadsHeld (s : State) (l : Lane) (b next : BitVec 128) : Nat :=
  match decodeBundle b with
  | none => 0
  | some ops => (ops.filter fun o => match slotCheck s l ops next o with | .stall _ pl => pl | _ => false).length

/-- A debug halt of the task takes effect: not before a delay slot, nor between repetitions (R194). -/
def debugStop (s : State) (t c : Nat) : State :=
  let k := ctxOf s t c
  if (tile s t).haltReq = some c && k.state = .running && !k.flow.inSlot && k.flow.rpt = 0 then
    updTile (updCtx s t c fun x => { x with state := .halted }) t fun u => { u with haltReq := none }
  else s

/-- A bundle issues: every slot has its effect, its accesses are judged, and the task goes on. -/
def laneCommit (s : State) (l : Lane) (f : Flow) (b : BitVec 128) (upset : List Nat) : State :=
  match decodeBundle b with
  | none => s
  | some ops =>
    let c := cSlot ops
    let s1 := ops.foldl (slotEffect s l upset) s
    let g := flowAfter l f c
    let s2 := updCtx s1 l.t l.c fun k => { k with flow := g.1, lastPc := l.r.pc, loadHeld := false, regs := { k.regs with pc := g.2 } }
    let s3 := cntT s2 Reg.TA_CNT_BUNDLES l.t 1
    let s4 := match c with
      | some o => if o.op = 0x0E then dropLoop s3 l.t else predict s3 l o
      | none => s3
    let s5 := match c with
      | some o => if o.op = 0x0F then leaveTile s4 l fun k => { k with state := .waiting, wait := 0, waitFor := .none } else s4
      | none => s4
    let ranges := ops.flatMap fun o => if o.kind = .m then mRanges s l o else if o.kind = .c && o.op = 0x0B then emitRanges s l o else []
    let s6 := match jobOf s5 l.job with
      | some j => if ranges.isEmpty then s5 else slotJudge s5 l.t l.job (placeReport s5 j 0x09) ranges
      | none => s5
    debugStop s6 l.t l.c

/-- The running task of a tile, as its next bundle sees it. -/
def laneAt (s : State) (t : Nat) : Option (Lane × Flow) :=
  match (tile s t).running with
  | none => none
  | some c =>
    let k := ctxOf s t c
    match ctxJob s t c with
    | none => none
    | some j =>
      if k.state = .running && s.fm.phase ≠ .frost && t < s.grid.enabled then
        some ({ t := t, c := c, r := k.regs, job := j.id, attempt := j.attempt, plan := j.plan, kind := j.kind, tmpl := j.tmpl },
          k.flow)
      else none

/-- The fetch exception of R139 and R146. -/
def fetchBad (l : Lane) : Bool :=
  let pc := l.r.pc.toNat
  pc % 16 ≠ 0 || 0x01000000 ≤ pc || (l.sol && 0x10000 ≤ pc)

/-- The instruction-cache line of the next bundle is missing: its line number (R139, R142). -/
def fetchMiss (s : State) (l : Lane) (f : Flow) : Option Nat :=
  let pc := l.r.pc.toNat
  let line := ((ctxOf s l.t l.c).codeBase + pc) / 128
  if pc < 0x10000 || 0 < f.rpt || (tile s l.t).loopHeld || !(mget [] (tile s l.t).icache line).isEmpty then none else some line

/-- One bundle of the running task, sent by one of its rows. A bundle that may not issue yet stands for one ACLK cycle of its stall
(log 33). -/
def laneIssue (row : LaneRow) (t : Nat) (b next : BitVec 128) (upset : List Nat) (s : State) : State :=
  match laneAt s t with
  | none => s
  | some (l, f) =>
    if !rowTakes row b then s
    else if fetchBad l then laneRaise s l 0x03 none
    else match fetchMiss s l f with
      | some line => laneWait (cntT s Reg.TA_CNT_IC_MISS t 1) l 5 (.icache line)
      | none =>
        match bundleCheck s l f b next with
        | .exc cause a => laneRaise s l cause a
        | .wait code w => laneWait s l code w
        | .stall qf _ =>
          let s1 := if qf then cntT s Reg.TA_MX_QFULL t 1 else s
          let n := loadsHeld s l b next
          let s2 := if n ≠ 0 && !(ctxOf s t l.c).loadHeld then
              cntT (updCtx s1 t l.c fun k => { k with loadHeld := true }) Reg.TA_CNT_SB_PARTIAL t n else s1
          cntT s2 Reg.TA_CNT_STALL t 1
        | .ok => laneCommit s l f b upset

end Sys2Proof.Machine
end

