-- ==== Sys2Proof/Machine/MxArray.lean ====
section
/-! DEFINITION. The multiply array (R195 to R225) with its scale streams and the quantisation unit (R226 to R238). A block is
checked when it takes its first reduction step and computed when it completes (log 25). -/

namespace Sys2Proof.Machine

/-! ### The run descriptor (R214) -/

/-- Read the descriptor from its 128 bytes as one little-endian number. -/
def readRunDesc (x : Nat) : RunDesc :=
  let f := fun (byte lo w : Nat) => bitsOf x (8 * byte + lo) w
  let i := fun (byte lo w : Nat) => sgn w (bitsOf x (8 * byte + lo) w)
  { aFmt := f 0 0 4, wFmt := f 0 4 4, oFmt := f 0 8 4, group := f 0 12 2, oscSrc := f 0 14 1 = 1, biasEn := f 0 15 1 = 1,
    relu := f 0 16 1 = 1, clamp := f 0 17 1 = 1, aZpEn := f 0 18 1 = 1, wZpEn := f 0 19 1 = 1, aZp := f 4 0 8, eLo := i 4 8 8,
    eHi := i 4 16 8, cLo := f 8 0 16, cHi := f 8 16 16, opId := f 12 0 16, npos := f 12 16 6, nch := f 12 22 7, n0 := f 16 0 16,
    n1 := f 16 16 16, n2 := f 20 0 16, aStr1 := i 24 0 32, aStr2 := i 28 0 32, aBstr := i 32 0 32, oBstr := i 36 0 32,
    oCstr := i 40 0 32, scAddr := f 48 0 48, oscAddr := f 56 0 48, biasAddr := f 64 0 48, wzpAddr := f 72 0 48,
    rsv := f 0 20 12 + f 4 24 8 + f 12 29 3 + f 20 16 16 + f 44 0 32 + f 80 0 384 }

/-- Bits of an operand format, and of a weight code. -/
def opBits (f : Nat) : Nat := if f = 1 || f = 4 || f = 6 then 4 else if f = 5 then 16 else 8
/-- Steps in an activation row and in a weight row (R196). -/
def stepsA (f : Nat) : Nat := 32 / opBits f
def stepsW (f : Nat) : Nat := if f = 5 then 4 else 16 / opBits f
/-- Channels a weight row carries. -/
def isBf (d : RunDesc) : Bool := d.aFmt = 5 && d.wFmt = 5
def isCb (d : RunDesc) : Bool := d.wFmt = 6 || d.wFmt = 7
/-- Reduction length K. -/
def RunDesc.k (d : RunDesc) : Nat := d.n0 * d.n1 * d.n2 * stepsA d.aFmt
/-- Group size G; 0 for none. -/
def RunDesc.g (d : RunDesc) : Nat := match d.group with | 0 => 0 | 1 => 32 | 2 => 64 | _ => 128

/-- Rate r, pl and ph of a pairing (R198); the codebook's part is added where one is used. None for a pairing not listed. -/
def pairing (a w : Nat) : Option (Nat × Int × Int) :=
  match a, w with
  | 0, 0 => some (1, 0, 16)
  | 0, 1 | 1, 0 => some (1, 0, 12)
  | 1, 1 => some (2, 0, 8)
  | 2, 2 => some (1, -18, 18)
  | 2, 3 | 3, 2 => some (1, -25, 25)
  | 3, 3 => some (1, -32, 32)
  | 4, 4 => some (2, -2, 6)
  | 2, 4 | 4, 2 => some (1, -10, 12)
  | 0, 6 => some (2, 0, 23)
  | 2, 6 => some (2, -9, 24)
  | 3, 6 => some (2, -16, 31)
  | 0, 7 => some (1, 0, 23)
  | 2, 7 => some (1, -9, 24)
  | 3, 7 => some (1, -16, 31)
  | 5, 5 => some (1, 0, 0)
  | _, _ => none

/-- ceil(log2 n). -/
def ceilLog2 (n : Nat) : Nat := if n ≤ 1 then 0 else (n - 1).log2 + 1

/-- A clamp bound is a code of the output format and no NaN (R208). -/
def clampOk (d : RunDesc) : Bool :=
  !d.clamp ||
  (oBits d.oFmt ≤ 16 && d.cLo < 2 ^ oBits d.oFmt && d.cHi < 2 ^ oBits d.oFmt &&
    match oKey d.oFmt d.cLo, oKey d.oFmt d.cHi with
    | some a, some b => a ≤ b
    | _, _ => false)

/-- The descriptor keeps the rules that raise `MX_BAD_DESC` and need nothing else (R196 to R204, R208, R214). -/
def descOk (d : RunDesc) : Bool :=
  d.aFmt ≤ 5 && d.wFmt ≤ 7 && d.oFmt ≤ 7 && (pairing d.aFmt d.wFmt).isSome && d.rsv = 0 && d.eLo ≤ d.eHi &&
  1 ≤ d.npos && d.npos ≤ 32 && 1 ≤ d.nch && d.nch ≤ (if isBf d then 16 else 64) && (d.oFmt ≠ 1 || d.nch % 2 = 0) &&
  1 ≤ d.n0 && 1 ≤ d.n1 && 1 ≤ d.n2 &&
  ([d.aStr1, d.aStr2, d.aBstr, d.oBstr, d.oCstr].all fun x => x % 128 = 0) &&
  d.k % stepsW d.wFmt = 0 && (d.group = 0 || d.k % d.g = 0) && 1 ≤ d.k && d.k ≤ 16777216 &&
  (!d.oscSrc || d.opId ≠ 0) && (!isBf d || (d.group = 0 && !d.aZpEn && !d.wZpEn)) &&
  (!d.aZpEn || d.aFmt ≤ 1) && (!d.wZpEn || d.wFmt ≤ 1) && clampOk d

/-! ### Addresses (R197, R214, R274) -/

/-- Bank of an aperture offset. -/
def bankAtOfs (o : Nat) : Nat := if o < 0x40000 then 0 else if o < 0x80000 then 1 else 2

/-- The range from `ea + lo` to `ea + hi` lies in one buffer or bank of the tile, is there and, for outputs, may be written: the
device address of `ea` and the bank. -/
def mxExtent (s : State) (t c p ea : Nat) (lo hi : Int) (write : Bool) : Option (Nat × Nat) :=
  if bitsOf ea 47 1 = 1 then
    let h := bitsOf ea 39 8
    let o := bitsOf ea 0 39
    let k := handleOf s t (entryOf c h)
    if 144 ≤ h || !k.valid || k.plan ≠ p || !k.present || (write && !k.write) || (o : Int) + lo < 0 ||
        ((128 * k.len : Nat) : Int) < (o : Int) + hi || (k.filling && ((128 * k.landed : Nat) : Int) < (o : Int) + hi) then none
    else some (spAddr t (bankBase k.bank + 128 * k.base + o), k.bank)
  else
    let b : Int := (ea : Int) - (spAddr t 0 : Nat)
    if b + lo < 0 || 0x180000 < b + hi || hi ≤ lo || bankAtOfs (b + lo).toNat ≠ bankAtOfs (b + hi - 1).toNat then none
    else some (ea, bankAtOfs (b + lo).toNat)

/-- Least and greatest offset of a walk of strides and counts. -/
def walkLo (l : List (Int × Nat)) : Int := (l.map fun x => min 0 (x.1 * ((x.2 : Int) - 1))).sum
def walkHi (l : List (Int × Nat)) : Int := (l.map fun x => max 0 (x.1 * ((x.2 : Int) - 1))).sum + 128

/-- Row offset of activation row `q`. -/
def actOfs (d : RunDesc) (q : Nat) : Int :=
  128 * (q % d.n0 : Nat) + (q / d.n0 % d.n1 : Nat) * d.aStr1 + (q / d.n0 / d.n1 : Nat) * d.aStr2

/-- Scratchpad bytes as a number, with whether any is poisoned. -/
def spNat (s : State) (a n : Nat) : Nat × Bool :=
  let bs := spRead s a n
  (leNat (bs.map (·.1)), bs.any (·.2))

/-! ### Scale blocks (R226 to R230) -/

/-- Bytes of a scale by `FMT`, and of its block. -/
def scaleBytes (f : Nat) : Nat := match f with | 0 | 1 => 1 | 2 => 2 | _ => 4
def scaleBlock (f : Nat) : Nat := (4 + 64 * scaleBytes f + 127) / 128 * 128

/-- Decode one scale: significand and exponent; none where R226 marks `MX_RANGE`. -/
def scaleOf (f x : Nat) : Option (Nat × Int) :=
  match f with
  | 0 => if x = 0xFF then none else some (1, (x : Int) - 127)
  | 1 =>
    if 128 ≤ x || x = 0x7F then none
    else if x / 8 = 0 then some (x % 8, -9) else some (8 + x % 8, ((x / 8 : Nat) : Int) - 10)
  | 2 =>
    let e := bitsOf x 7 8
    let m := x % 128
    if 2 ^ 15 ≤ x || e = 255 then none
    else if 6 ≤ e then some (128 + m, (e : Int) - 134)
    else if e = 0 && m = 0 then some (0, 0) else none
  | _ => if bitsOf x 24 8 ≠ 0 then none else some (bitsOf x 0 16, sgn 8 (bitsOf x 16 8))

/-- Address of scale block `g` from the stream's start, walking the headers. -/
def scaleAt (s : State) (a : Nat) : Nat → Nat
  | 0 => a
  | g + 1 => let p := scaleAt s a g; p + scaleBlock ((spNat s (p + 2) 1).1 % 4)

/-! ### The quantisation unit (R235 to R238) -/

/-- δ of an operator for a job; none where a PRESENT operator's measure register is empty. -/
def opDelta (s : State) (j : Job) (t : Template) (o : OpEntry) : Option Int :=
  if o.mode = 2 then
    ((j.measures.find? fun m => m.1 = o.measOp).map (·.2)).map fun e => max o.dmin (min o.dmax (e - oTop o.oFmt + 1))
  else some (deltaFor s j t o)

/-- Scale supplied for a run and the δ of its input; none for `MX_BAD_DESC`. -/
def quantScale (s : State) (j : Job) (t : Template) (x : Nat) : Option (Nat × Int × Int) :=
  match opOf s j.plan x with
  | none => none
  | some o =>
    let inp := if o.inputOp = 0 then some 0 else (opOf s j.plan o.inputOp).bind (opDelta s j t)
    match inp, opDelta s j t o with
    | some i, some d => some (o.baseS, o.baseE + i - d, i)
    | _, _ => none

/-! ### Side tables (R209, R214, R218) -/

/-- An output scale as the table holds it: significand, exponent, poison; whether its reserved bits are 0. -/
def oscRead (s : State) (a : Nat) : Nat × Int × Bool × Bool :=
  let x := spNat s a 4
  (bitsOf x.1 0 16, sgn 8 (bitsOf x.1 16 8), x.2, bitsOf x.1 24 8 = 0)

/-- A bias as the table holds it, its exponent less the δ of the run's input. -/
def biasRead (s : State) (a : Nat) (inDelta : Int) : Int × Int × Bool × Bool :=
  let x := spNat s a 8
  (sgn 32 (bitsOf x.1 0 32), sgn 8 (bitsOf x.1 32 8) - inDelta, x.2, bitsOf x.1 40 24 = 0)

/-- The side tables are read once, before the first step. -/
def withTables (s : State) (r : RunAt) : RunAt :=
  { r with oscs := if r.d.oscSrc then [] else (upto r.d.nch).map fun i => oscRead s (r.osc + 4 * i),
           biases := if r.d.biasEn then (upto r.d.nch).map fun i => biasRead s (r.bias + 8 * i) r.inDelta else [],
           wzps := if r.d.wZpEn then (upto r.d.nch).map fun i => spNat s (r.wzp + i) 1 else [] }

/-- Output scale of channel `i`. -/
def oscOf (r : RunAt) (i : Nat) : Nat × Int × Bool × Bool :=
  match r.scale with
  | some q => (q.1, q.2, false, true)
  | none => r.oscs.getD i (0, 0, false, true)

/-- Bias of channel `i`. -/
def biasOf (r : RunAt) (i : Nat) : Int × Int × Bool × Bool := r.biases.getD i (0, 0, false, true)

/-- Weight zero point of channel `i`. -/
def wzpOf (r : RunAt) (i : Nat) : Nat × Bool := r.wzps.getD i (0, false)

/-! ### Checks of a run (R202, R214, R218, R221, R236, R238) -/

/-- The checks at the descriptor: the operands, or the cause that stops the run. -/
def runCheck (s : State) (t : Nat) (j : Job) (tm : Template) (c blocks desc act wgt out : Nat) : Except Nat RunAt :=
  let p := j.plan
  match mxExtent s t c p desc 0 128 false with
  | none => .error 0x12
  | some (da, db) =>
    let raw := spNat s da 128
    let d := readRunDesc raw.1
    let cb := mget CodeBook.none (tile s t).cbs c
    let entry := opOf s p d.opId
    let q := if d.oscSrc then quantScale s j tm d.opId else none
    let hnd := handleOf s t (entryOf c (bitsOf wgt 39 8))
    let tag := match hnd.queue with
      | some qn => (slot (queue s qn) (if hnd.slotRows = 0 then 0 else bitsOf wgt 0 39 / (128 * hnd.slotRows))).tag
      | none => hnd.tag
    if desc % 128 ≠ 0 || db = 2 then .error 0x12
    else if raw.2 then .error 0x08
    else if !descOk d || (d.opId ≠ 0 && entry.elim true fun o => o.mode ≠ 1 && o.oFmt ≠ d.oFmt) || (d.oscSrc && q.isNone) ||
        (entry.elim false fun o => o.mode = 2 && (opDelta s j tm o).isNone) || (d.group ≠ 0 && bitsOf wgt 47 1 = 0) then .error 0x10
    else if isCb d && (!cb.valid || cb.entries.length ≠ (if d.wFmt = 6 then 16 else 256)) then .error 0x13
    else
      let pr := (pairing d.aFmt d.wFmt).getD (1, 0, 0)
      let cx : Int := if isCb d then cb.exp else 0
      let lo := pr.2.1 + cx + (if d.group ≠ 0 then d.eLo else 0)
      let hi := pr.2.2 + cx + (if isCb d && cb.bf then 16 else 0) + ceilLog2 d.k + (if d.group ≠ 0 then 16 + d.eHi else 0)
      if (!isBf d && (lo < -64 || 62 < hi)) || (q.elim false fun z => z.2.1 < -128 || 127 < z.2.1) then .error 0x11
      else
        let ext := fun (ea : Nat) (l h : Int) (w : Bool) => mxExtent s t c p ea l h w
        let aw := [(d.aBstr, blocks), (128, d.n0), (d.aStr1, d.n1), (d.aStr2, d.n2)]
        let ow := [(d.oBstr, blocks), (d.oCstr, (d.nch + oCR d.oFmt - 1) / oCR d.oFmt)]
        let side := fun (use : Bool) (ea al n : Nat) =>
          if !use then some 0
          else if ea % al ≠ 0 then none
          else match ext ea 0 n false with | some (x, 2) => some x | _ => none
        let sc := side (d.group ≠ 0) d.scAddr 128 128
        let scEnd := match sc with
          | some x => if d.group = 0 then some 0 else
              side true d.scAddr 128 (scaleAt s x (d.k / d.g) - x)
          | none => none
        match ext act (walkLo aw) (walkHi aw) false, ext wgt 0 (128 * (d.k / stepsW d.wFmt) : Nat) false,
            ext out (walkLo ow) (walkHi ow) true, scEnd, side (!d.oscSrc) d.oscAddr 4 (4 * d.nch),
            side d.biasEn d.biasAddr 8 (8 * d.nch), side d.wZpEn d.wzpAddr 1 d.nch with
        | some (a, ab), some (w, wb), some (o, ob), some _, some oscA, some biasA, some wzpA =>
          if act % 128 ≠ 0 || wgt % 128 ≠ 0 || out % 128 ≠ 0 || wb ≠ 2 || ab = 2 || ob = 2 || ab = ob then .error 0x12
          else
            let r : RunAt := { d := d, desc := da, act := a, wgt := w, out := o, sc := sc.getD 0, osc := oscA, bias := biasA, wzp := wzpA,
                               tag := tag, cb := cb, scale := q.map fun z => (z.1, z.2.1), inDelta := q.elim 0 fun z => z.2.2,
                               oscs := [], biases := [], wzps := [] }
            .ok (withTables s r)
        | _, _, _, _, _, _, _ => .error 0x12

/-- An FP32 normal number equal to `m × 2^e`, or zero (R209). -/
def fp32Exact (m : Nat) (e : Int) : Bool :=
  m = 0 || (m % 2 ^ (m.log2 + 1 - 24) = 0 && -126 ≤ (m.log2 : Int) + e && (m.log2 : Int) + e ≤ 127)

/-- The channels of a run. -/
def chans (r : RunAt) : List Nat := upto r.d.nch

/-- Checks of the side tables: `MX_BAD_DESC` for a reserved field, `MX_RANGE` for what R202 and R209 do not allow. -/
def tableCheck (r : RunAt) : Option Nat :=
  if (chans r).any fun i => !(oscOf r i).2.2.2 || !(biasOf r i).2.2.2 then some 0x10
  else if (chans r).any fun i =>
      let o := oscOf r i
      let b := biasOf r i
      (r.d.biasEn && (if isBf r.d then b.2.1 < -128 || 127 < b.2.1 else b.2.1 < -64 || 62 < b.2.1 + 31)) ||
      (isBf r.d && (!fp32Exact o.1 o.2.1 || !fp32Exact b.1.natAbs b.2.1)) then some 0x11
  else none

/-- Checks of the scale stream, block by block: `SCALE_SKEW` first, then `MX_RANGE` (R203, R226, R230). The group whose scale block
fails, and the cause. -/
def scaleFault (s : State) (r : RunAt) : Option (Nat × Nat) :=
  if r.d.group = 0 then none
  else
    (upto (r.d.k / r.d.g)).findSome? fun g =>
      let a := scaleAt s r.sc g
      let h := (spNat s a 4).1
      let f := bitsOf h 16 2
      if bitsOf h 0 16 ≠ (r.tag + g) % 65536 || bitsOf h 18 14 ≠ 0 then some (g, 0x14)
      else if (chans r).any fun i =>
          match scaleOf f (spNat s (a + 4 + i * scaleBytes f) (scaleBytes f)).1 with
          | none => true
          | some x => x.1 ≠ 0 && (x.2 < r.d.eLo || r.d.eHi < x.2) then some (g, 0x11)
      else none
def scaleCheck (s : State) (r : RunAt) : Option Nat := (scaleFault s r).map (·.2)

/-! ### Computing a block -/

/-- Operand value of a code with its zero point (R198 to R200, R231), and whether it is not finite. -/
def operand (f zp c : Nat) (zpEn : Bool) : Dy × Bool :=
  match f with
  | 0 => (.int (sgn 8 c - if zpEn then sgn 8 zp else 0), false)
  | 1 => (.int (sgn 4 c - if zpEn then sgn 4 zp else 0), false)
  | 2 => fp8Operand e4m3 c
  | 3 => fp8Operand e5m2 c
  | _ => fp8Operand e2m1 c

/-- Code of element `ix` of the row at `a`, with its poison. -/
def elemOf (s : State) (a bits ix : Nat) : Nat × Bool :=
  let x := spNat s (a + bits * ix / 8) ((bits + 7) / 8)
  (bitsOf x.1 (bits * ix % 8) bits, x.2)

/-- Activation code of position `j` at step `k` of block `b`. -/
def actCode (s : State) (r : RunAt) (b j k : Nat) : Nat × Bool :=
  let kr := stepsA r.d.aFmt
  elemOf s ((r.act : Int) + b * r.d.aBstr + actOfs r.d (k / kr)).toNat (opBits r.d.aFmt) (j * kr + k % kr)

/-- Weight code of channel `i` at step `k`. -/
def wgtCode (s : State) (r : RunAt) (i k : Nat) : Nat × Bool :=
  let kw := stepsW r.d.wFmt
  elemOf s (r.wgt + 128 * (k / kw)) (opBits r.d.wFmt) (i * kw + k % kw)

/-- Weight value, a codebook entry where the format names one (R205, R206). -/
def mxWgt (s : State) (r : RunAt) (i k : Nat) : Dy × Bool :=
  let c := (wgtCode s r i k).1
  if isCb r.d then ({ m := r.cb.entries.getD c 0, e := r.cb.exp }, false) else operand r.d.wFmt (wzpOf r i).1 c r.d.wZpEn

def mxAct (s : State) (r : RunAt) (b j k : Nat) : Dy × Bool :=
  operand r.d.aFmt r.d.aZp (actCode s r b j k).1 r.d.aZpEn

/-- Group scale of channel `i` for group `g`. -/
def groupScale (s : State) (r : RunAt) (i g : Nat) : Dy × Bool :=
  if r.d.group = 0 then (.int 1, false)
  else
    let a := scaleAt s r.sc g
    let f := bitsOf (spNat s a 4).1 16 2
    let x := spNat s (a + 4 + i * scaleBytes f) (scaleBytes f)
    let q := (scaleOf f x.1).getD (0, 0)
    ({ m := q.1, e := q.2 }, x.2)

/-- The exact accumulator of channel `i`, position `j` (R201, R203). -/
def accum (s : State) (r : RunAt) (b i j : Nat) : Dy :=
  let g := if r.d.group = 0 then r.d.k else r.d.g
  (upto (r.d.k / g)).foldl (fun acc x =>
    let part := (upto g).foldl (fun (p : Dy) y =>
      p.add ((mxAct s r b j (x * g + y)).1.mul (mxWgt s r i (x * g + y)).1)) (.int 0)
    acc.add (part.mul (groupScale s r i x).1)) (.int 0)

/-- The ordered FP32 sum (R204), as an FP32 code. -/
def accumF (s : State) (r : RunAt) (b i j : Nat) : Nat :=
  (upto r.d.k).foldl (fun acc k => fMa fp32 acc ((actCode s r b j k).1 * 65536) ((wgtCode s r i k).1 * 65536)) 0

/-- `b × 2^x` in FP32. -/
def toF32 (m : Int) (e : Int) : Nat := fRound fp32 (.fin (m < 0) m.natAbs e)

/-- One output of the Equinox path (R207): exact value and converted code. -/
def outEq (s : State) (r : RunAt) (b i j : Nat) : Dy × Conv :=
  let o := oscOf r i
  let x := (accum s r b i j).add { m := (biasOf r i).1, e := (biasOf r i).2.1 }
  let x := if r.d.relu && x.m < 0 then .int 0 else x
  let v := x.mul { m := o.1, e := o.2.1 }
  (v, roundSat r.d.oFmt v)

/-- One output of the FP32 path (R209). -/
def outF (s : State) (r : RunAt) (b i j : Nat) : Dy × Conv :=
  let o := oscOf r i
  let z := biasOf r i
  let x := if r.d.biasEn then fAdd fp32 (accumF s r b i j) (toF32 z.1 z.2.1) else accumF s r b i j
  let x := match fRead fp32 x with
    | .nan => x
    | _ => if r.d.relu && 2 ^ 31 ≤ x then 0 else x
  let y := fRead fp32 (fMul fp32 x (toF32 o.1 o.2.1))
  (match y with | .fin n m e => dyOf n m e | _ => .int 0, convF r.d.oFmt y)

def outOf (s : State) (r : RunAt) (b i j : Nat) : Dy × Conv := if isBf r.d then outF s r b i j else outEq s r b i j

/-! ### Residues modulo 7 (R205, R211, R212) -/

/-- Residue of `m × 2^e` relative to 2⁻⁶⁴. -/
def res7 (m e : Int) : Nat := ((m % 7) * (2 ^ ((e + 64) % 3).toNat : Nat) % 7).toNat

/-- Residue of a weight's significand: that stored with a codebook's entry, where the format names one. -/
def wgtRes (s : State) (r : RunAt) (i k : Nat) : Nat :=
  if isCb r.d then r.cb.residues.getD (wgtCode s r i k).1 0 else ((mxWgt s r i k).1.m % 7).toNat

/-- The residue that the residue path forms beside a sum: of its products, its group scales and its bias. -/
def resSum (s : State) (r : RunAt) (b i j : Nat) : Nat :=
  let g := if r.d.group = 0 then r.d.k else r.d.g
  ((upto r.d.k).foldl (fun acc k =>
    let a := (mxAct s r b j k).1
    let z := (groupScale s r i (k / g)).1
    acc + res7 ((a.m % 7) * wgtRes s r i k * (z.m % 7)) (a.e + (mxWgt s r i k).1.e + z.e)) (res7 (biasOf r i).1 (biasOf r i).2.1)) % 7

/-- An output that a fault has changed, and whether a check finds it: on the Equinox path the sum against its residue and the product with
the output scale against those of its factors; on the FP32 path the doubled addition finds every change of a sum. -/
def faultyOut (s : State) (r : RunAt) (b : Nat) (f : MxFault) : Bool × Dy × Conv :=
  let o := oscOf r f.chan
  if isBf r.d then
    let v := (outF s r b f.chan f.pos).1
    match f.stage with
    | .sum => (f.delta ≠ 0, outF s r b f.chan f.pos)
    | .scaled =>
      let w : Dy := { v with m := v.m + f.delta }
      (f.delta % 7 ≠ 0, w, convF r.d.oFmt (fRead fp32 (toF32 w.m w.e)))
  else
    let a := (accum s r b f.chan f.pos).add { m := (biasOf r f.chan).1, e := (biasOf r f.chan).2.1 }
    let x := if f.stage = .sum then a.add { m := f.delta, e := -64 } else a
    let y := if r.d.relu && x.m < 0 then Dy.int 0 else x
    let v := y.mul { m := o.1, e := o.2.1 }
    let w : Dy := if f.stage = .scaled then { v with m := v.m + f.delta } else v
    (res7 x.m x.e ≠ resSum s r b f.chan f.pos || w.m % 7 ≠ (y.m % 7) * ((o.1 : Int) % 7) % 7, w, roundSat r.d.oFmt w)

/-- One output of a block, with the fault that has struck it, if any. -/
def outWith (s : State) (r : RunAt) (b : Nat) (f : Option MxFault) (i j : Nat) : Dy × Conv :=
  match f with
  | some x => if x.chan = i && x.pos = j then (faultyOut s r b x).2 else outOf s r b i j
  | none => outOf s r b i j

/-- Final code of an output: clamped where the run asks (R207, R209). -/
def outCode (r : RunAt) (c : Conv) : Nat := if r.d.clamp then clampCode r.d.oFmt r.d.cLo r.d.cHi c.code else c.code

/-- Poison of a position and of a channel (R222). -/
def posPoison (s : State) (r : RunAt) (b j : Nat) : Bool := (upto r.d.k).any fun k => (actCode s r b j k).2
def chPoison (s : State) (r : RunAt) (i : Nat) : Bool :=
  (isCb r.d && r.cb.poison) || (wzpOf r i).2 || (oscOf r i).2.2.1 || (biasOf r i).2.2.1 ||
  ((upto r.d.k).any fun k => (wgtCode s r i k).2) ||
  (r.d.group ≠ 0 && (upto (r.d.k / r.d.g)).any fun g => (groupScale s r i g).2)

/-- Rows of outputs of a block. -/
def outRows (r : RunAt) : List Nat := upto ((r.d.nch + oCR r.d.oFmt - 1) / oCR r.d.oFmt)
def outRow (r : RunAt) (b q : Nat) : Nat := ((r.out : Int) + b * r.d.oBstr + q * r.d.oCstr).toNat

/-- Byte `x` of output row `q`, where the block writes it: with its poison. Position `x / 4` holds CR channels in four bytes. -/
def outByte (r : RunAt) (code : Nat → Nat → Nat) (poison : Nat → Nat → Bool) (q x : Nat) : Option (Byte × Bool) :=
  let j := x / 4
  let bits := oBits r.d.oFmt
  let per := if bits < 8 then 8 / bits else 1
  let c0 := q * oCR r.d.oFmt + x % 4 * 8 / bits
  if r.d.npos ≤ j || r.d.nch ≤ c0 then none
  else
    let v := ((upto per).map fun i => atBit (i * bits) (code (c0 + i) j)).sum
    some (BitVec.ofNat 8 (v / 2 ^ (if bits < 8 then 0 else x % 4 * 8 % bits)),
      (upto per).any fun i => poison (c0 + i) j)

/-- Write one 8-byte word of outputs: whole where all of it is written, else byte by byte. -/
def putWord (s : State) (a : Nat) (l : List (Option (Byte × Bool))) : State :=
  if l.all (·.isSome) then spWrite s a (l.filterMap id)
  else thread (fun s' x => match x.1 with | some y => spWrite s' (a + x.2) [y] | none => s') s l.zipIdx

/-- Write rows of a block's outputs. -/
def putRows (s : State) (r : RunAt) (b : Nat) (code : Nat → Nat → Nat) (poison : Nat → Nat → Bool) (rows : List Nat) : State :=
  thread (fun s' q =>
    thread (fun s'' w => putWord s'' (outRow r b q + 8 * w) ((upto 8).map fun x => outByte r code poison q (8 * w + x))) s' (upto 16))
    s rows

/-! ### The queue of commands (R216, R219, R221, R223) -/

def cmdPc : MxCmd → BitVec 32
  | .run _ _ _ _ _ _ pc => pc
  | .cbload _ _ _ _ pc => pc
  | .signal _ _ _ pc => pc
def cmdCtx : MxCmd → Nat
  | .run c _ _ _ _ _ _ => c
  | .cbload c _ _ _ _ => c
  | .signal c _ _ _ => c
def runBlocks : MxCmd → Nat
  | .run _ n _ _ _ _ _ => n
  | _ => 0

/-- The report of an array error: the `pc` of the `mx` that queued the command (R221). -/
def mxReport (s : State) (t : Nat) (e : MxEntry) (cause : Nat) : Report :=
  mkReport cause .tile ((physOf s t).getD 0) ((cmdPc e.cmd).toNat + cmdCtx e.cmd * 2 ^ 32) e.job (e.attempt % 65536)

/-- An error stops the command at `ix` of the queue, removes every later command of its task and fails the attempt. -/
def mxFail (s : State) (t ix : Nat) (e : MxEntry) (cause : Nat) : State :=
  let s1 := updTile s t fun u => { u with mxq := u.mxq.take ix ++ (u.mxq.drop ix).filter fun x => x.job ≠ e.job }
  let s2 := if cause = 0x14 then cntT s1 Reg.TA_MX_SKEW t 1 else if cause = 0x15 then evSet (cntT s1 Reg.TA_MX_RESIDUE t 1) (256 + t) else s1
  attemptFails s2 e.job (mxReport s t e cause)

/-- Store one entry of the queue. -/
def setEntry (s : State) (t ix : Nat) (e : MxEntry) : State := updTile s t fun u => { u with mxq := u.mxq.set ix e }

/-- A command is complete and leaves the queue. -/
def mxDone (s : State) (t ix : Nat) : State := cntT (updTile s t fun u => { u with mxq := u.mxq.eraseIdx ix }) Reg.TA_MX_CMDS t 1

/-- First RUN with blocks still to start, where everything queued ahead of it lets it start: earlier runs have started every
block, and its own task's codebook loads are done. -/
def nextRun (l : List MxEntry) : Option (MxEntry × Nat) :=
  match l.zipIdx.find? fun x => x.1.started < runBlocks x.1.cmd with
  | none => none
  | some x =>
    if (l.take x.2).any fun y => y.job = x.1.job && (match y.cmd with | .cbload .. => true | _ => false) then none else some x

/-- A PRESENT run waits for every earlier-queued run of its MEASURE operator (R238). -/
def measurePending (s : State) (t : Nat) (j : Job) (ix : Nat) (op : Nat) : Bool :=
  match opOf s j.plan op with
  | none => false
  | some o => o.mode = 2 && ((tile s t).mxq.take ix).any fun y =>
      match y.cmd with
      | .run c _ desc _ _ _ _ => y.job = j.id && (mxExtent s t c j.plan desc 0 128 false).elim false fun d =>
          (y.run.elim (readRunDesc (spNat s d.1 128).1) (·.d)).opId = o.measOp
      | _ => false

/-- A queued RUN's operands: as they were checked before its first step, or checked now (R218). -/
def checkEntry (s : State) (t : Nat) (j : Job) (tm : Template) (e : MxEntry) : Except Nat RunAt :=
  match e.run, e.cmd with
  | some r, _ => .ok r
  | none, .run c n desc act wgt out _ => runCheck s t j tm c n desc act wgt out
  | _, _ => .error 0x10

/-- What the array reads once for a run: the descriptor and the side tables; for each block, rows and scale blocks; and the rows it
writes: address, bytes, write. -/
def onceRanges (r : RunAt) : List (Nat × Nat × Bool) :=
  [(r.desc, 128, false)] ++ (if r.d.oscSrc then [] else [(r.osc, 4 * r.d.nch, false)]) ++
  (if r.d.biasEn then [(r.bias, 8 * r.d.nch, false)] else []) ++ (if r.d.wZpEn then [(r.wzp, r.d.nch, false)] else [])
def readRanges (s : State) (r : RunAt) (b : Nat) : List (Nat × Nat × Bool) :=
  (upto (r.d.n0 * r.d.n1 * r.d.n2)).map (fun q => (((r.act : Int) + b * r.d.aBstr + actOfs r.d q).toNat, 128, false)) ++
  (upto (r.d.k / stepsW r.d.wFmt)).map (fun q => (r.wgt + 128 * q, 128, false)) ++
  (if r.d.group = 0 then [] else [(r.sc, scaleAt s r.sc (r.d.k / r.d.g) - r.sc, false)])
def writeRanges (r : RunAt) (b : Nat) (rows : List Nat) : List (Nat × Nat × Bool) := rows.map fun q => (outRow r b q, 128, true)

/-- The operator of a queued RUN's descriptor. -/
def entryOp (s : State) (t p : Nat) (e : MxEntry) : Nat :=
  match e.run, e.cmd with
  | some r, _ => r.d.opId
  | none, .run c _ desc _ _ _ _ => (mxExtent s t c p desc 0 128 false).elim 0 fun d => (readRunDesc (spNat s d.1 128).1).opId
  | _, _ => 0

/-- Cycles the cells wait for rows of the first `n` scale blocks (R228). -/
def scaleWait (s : State) (r : RunAt) (n : Nat) : Nat :=
  if r.d.group = 0 then 0
  else
    let rate := ((pairing r.d.aFmt r.d.wFmt).getD (1, 0, 0)).1
    let a := r.d.g / (2 * rate) - r.d.g / stepsW r.d.wFmt
    ((upto n).map fun g => 2 * (scaleBlock (bitsOf (spNat s (scaleAt s r.sc g) 4).1 16 2) / 128 - a)).sum

/-- Operands of the first `n` steps of a block that are not finite (R200): activations of its positions and weights of its
channels. -/
def nonfinite (s : State) (r : RunAt) (b n : Nat) : Nat :=
  if isBf r.d then 0
  else ((upto n).map fun k =>
    ((upto r.d.npos).filter fun j => (mxAct s r b j k).2).length + ((chans r).filter fun i => (mxWgt s r i k).2).length).sum

/-- The first `n` steps of block `b` enter the cells (R200, R225, R228). -/
def enterSteps (s : State) (t : Nat) (r : RunAt) (b n : Nat) : State :=
  let rate := ((pairing r.d.aFmt r.d.wFmt).getD (1, 0, 0)).1
  cntT (cntT (cntT s Reg.TA_MX_NONFINITE t (nonfinite s r b n)) Reg.TA_MX_KCYC t ((n + rate - 1) / rate))
    Reg.TA_MX_BANKWAIT t (scaleWait s r (n / r.d.g))

/-- Conversion cycles of a block (R218). -/
def dConv (d : RunDesc) : Nat := max ((d.nch + 3) / 4) ((d.nch + oCR d.oFmt - 1) / oCR d.oFmt)

/-- A block starts by the recurrence of R219, in ACLK cycles: those in which the cells wait for its bank alone are counted. -/
def bankWait (s : State) (t : Nat) (e : MxEntry) (r : RunAt) : State :=
  let prev := (tile s t).mxPrev
  let turn := max (prev.head?.elim 0 (·.1)) (e.issue + 8)
  let free := (prev[1]?).elim 0 (·.2)
  let rate := ((pairing r.d.aFmt r.d.wFmt).getD (1, 0, 0)).1
  let last := max turn free + (r.d.k + rate - 1) / rate + scaleWait s r (if r.d.group = 0 then 0 else r.d.k / r.d.g)
  updTile (cntT s Reg.TA_MX_BANKWAIT t (free - turn)) t fun u =>
    { u with mxPrev := (last + 2, last + dConv r.d + (if isBf r.d then 8 else 5)) :: prev.take 1 }

/-- Bank of the next block: the other bank than the last block's, or the one that is free (R195, R219). -/
def nextBank (u : Tile) : Nat := if (u.mxq.flatMap (·.banks)).contains (1 - u.mxBank) then u.mxBank else 1 - u.mxBank

/-- MX_BLOCK_START (R202, R214, R218, R219, R230): the next block takes its first step into a free bank, once the run is checked. A scale
block that fails stops the run before any of its scales is applied: the steps of the groups ahead of it have entered. -/
def execMxBlockStart (t : Fin 256) (s : State) : Out :=
  let q := (tile s t.val).mxq
  .next (match nextRun q with
    | none => s
    | some (e, ix) =>
      if 2 ≤ (q.map fun x => x.started - x.doneBlocks).sum then s
      else match jobOf s e.job with
        | none => s
        | some j => match tmplOf s j with
          | none => s
          | some tm =>
            if measurePending s t.val j ix (entryOp s t.val j.plan e) then s
            else match checkEntry s t.val j tm e with
              | .error c => mxFail s t.val ix e c
              | .ok r => match tableCheck r, scaleFault s r with
                | some c, _ => mxFail s t.val ix e c
                | none, some (g, c) => mxFail (enterSteps s t.val r e.started (g * r.d.g)) t.val ix e c
                | none, none =>
                  let b := nextBank (tile s t.val)
                  let s1 := updTile (enterSteps (bankWait s t.val e r) t.val r e.started r.d.k) t.val fun u => { u with mxBank := b }
                  slotJudge (setEntry s1 t.val ix { e with started := e.started + 1, run := some r, banks := e.banks ++ [b] })
                    t.val e.job (mxReport s t.val e 0x09) (if e.started = 0 then onceRanges r else []))

/-- Statistics of channels of a block; `SSE` is held in 32 bits (R210). -/
def statsOver (s : State) (r : RunAt) (b : Nat) (f : Option MxFault) (l : List Nat) : Stats :=
  let k := l.foldl (fun k i => (upto r.d.npos).foldl (fun k j => let o := outWith s r b f i j; k.take o.1 o.2) k) Stats.zero
  { k with sse := min (2 ^ 32 - 1) k.sse }
def blockStats (s : State) (r : RunAt) (b : Nat) (f : Option MxFault) : Stats := statsOver s r b f (chans r)

/-- The largest `EMAX` of a MEASURE operator's blocks (R238). -/
def noteMeasure (l : List (Nat × Int)) (op : Nat) (e : Int) : List (Nat × Int) :=
  if l.any fun m => m.1 = op then l.map fun m => if m.1 = op then (op, max m.2 e) else m else l ++ [(op, e)]

/-- Rows of block `b` are converted and written, among the outputs of the job (R47). -/
def convertRows (s : State) (id : JobId) (r : RunAt) (b : Nat) (f : Option MxFault) (rows : List Nat) : State :=
  let s1 := putRows s r b (fun i k => outCode r (outWith s r b f i k).2) (fun i k => posPoison s r b k || chPoison s r i) rows
  thread (fun s' q => noteOut s' id (outRow r b q) 128) s1 rows

/-- Outputs of a block are written, its statistics passed on, and its bank freed. -/
def finishBlock (s : State) (t ix : Nat) (e : MxEntry) (j : Job) (r : RunAt) (f : Option MxFault) : State :=
  let b := e.doneBlocks
  let st := blockStats s r b f
  let s2 := cntT (cntT (convertRows s e.job r b f (outRows r)) Reg.TA_MX_BLOCKS t 1) Reg.TA_MX_SAT t st.sat
  let mode := (opOf s j.plan r.d.opId).elim 0 (·.mode)
  let s3 := updJob s2 e.job fun k =>
    { k with stats := addStats k.stats r.d.opId st,
             measures := if mode = 1 && r.d.opId ≠ 0 then noteMeasure k.measures r.d.opId st.top else k.measures }
  let e1 := { e with doneBlocks := b + 1, banks := e.banks.drop 1 }
  let s4 := if e1.doneBlocks = runBlocks e.cmd then mxDone s3 t ix else setEntry s3 t ix e1
  slotJudge s4 t e.job (mxReport s t e 0x09) (readRanges s r b ++ writeRanges r b (outRows r))

/-- Residues disagree at one row: the rows ahead of it are written, no further output of the block is (R211, R212). -/
def badBlock (s : State) (t ix : Nat) (e : MxEntry) (r : RunAt) (row : Nat) : State :=
  let b := e.doneBlocks
  let rows := (outRows r).take row
  let sat := (statsOver s r b none ((chans r).filter fun i => rows.contains (i / oCR r.d.oFmt))).sat
  let s1 := cntT (convertRows s e.job r b none rows) Reg.TA_MX_SAT t sat
  slotJudge (mxFail s1 t ix e 0x15) t e.job (mxReport s t e 0x09) (readRanges s r b ++ writeRanges r b rows)

/-- The fault lies among a block's outputs, and a check finds it. -/
def faultFound (s : State) (r : RunAt) (b : Nat) (f : MxFault) : Bool := f.chan < r.d.nch && f.pos < r.d.npos && (faultyOut s r b f).1

/-- MX_BLOCK_COMPLETE (R207 to R212, R218): the oldest block in progress is converted, checked and written, with the operands of the
run as they were checked. Scales are compared again as they are applied (R230). A fault of the part changes one output: where its residue
disagrees, the run stops; elsewhere the block goes out with the changed output. An injected residue error shows at a row that a free value
picks (R224, log 25). -/
def execMxBlockComplete (t : Fin 256) (fault : Option MxFault) (s : State) : Out :=
  let q := (tile s t.val).mxq
  .next (match q.zipIdx.find? fun x => x.1.doneBlocks < x.1.started with
    | none => s
    | some (e, ix) =>
      match jobOf s e.job, e.run with
      | some j, some r =>
        match scaleCheck s r with
        | some c => mxFail s t.val ix e c
        | none =>
          let found := fault.filter fun f => faultFound s r e.doneBlocks f
          if (tile s t.val).inject then
            badBlock (updTile (drawn s) t.val fun u => { u with inject := false }) t.val ix e r
              (min (Config.freeNat s.free % (outRows r).length) (found.elim (outRows r).length fun f => f.chan / oCR r.d.oFmt))
          else match found with
            | some f => badBlock s t.val ix e r (f.chan / oCR r.d.oFmt)
            | none => finishBlock s t.val ix e j r fault
      | _, _ => s)

/-! ### Codebooks (R205, R216, R232) -/

/-- Largest binary exponent of the nonzero BF16 entries. -/
def topLog (l : List FV) : Option Int :=
  l.foldl (fun acc x => match x with
    | .fin _ m e => if m = 0 then acc else some (max (acc.getD ((m.log2 : Nat) + e)) ((m.log2 : Nat) + e))
    | _ => acc) none

/-- Convert a codebook image; none for `MX_CODEBOOK`. -/
def convertBook (bf poison : Bool) (codes : List Nat) : Option CodeBook :=
  let book := fun (l : List Int) (c : Int) =>
    { valid := true, entries := l, residues := l.map fun m => (m % 7).toNat, exp := c, bf := bf, poison := poison }
  if !bf then some (book (codes.map (sgn 16)) 0)
  else
    let vs := codes.map (fRead bf16)
    let c : Int := (topLog vs).elim 0 fun f => f - 30
    let conv := vs.map fun x => match x with
      | .fin n m e =>
        if m = 0 then some 0
        else if c ≤ e then some (dyOf n (m * 2 ^ (e - c).toNat) c).m
        else if m % 2 ^ (c - e).toNat = 0 then some (dyOf n (m / 2 ^ (c - e).toNat) c).m
        else none
      | _ => none
    if conv.all (·.isSome) then some (book (conv.filterMap id) c) else none

/-- MX_CBLOAD_COMPLETE: the first CBLOAD of the queue, once every block ahead of it has entered the cells. -/
def execMxCbloadComplete (t : Fin 256) (s : State) : Out :=
  let q := (tile s t.val).mxq
  .next (match q.zipIdx.find? fun x => match x.1.cmd with | .cbload .. => true | _ => false with
    | none => s
    | some (e, ix) =>
      if (q.take ix).any fun x => x.started < runBlocks x.cmd then s
      else match e.cmd, jobOf s e.job with
        | .cbload c big bf addr _, some j =>
          let n := if big then 256 else 16
          match mxExtent s t.val c j.plan addr 0 (2 * n : Nat) false with
          | some (a, 2) =>
            if addr % 128 ≠ 0 then mxFail s t.val ix e 0x12
            else
              let got := (upto n).map fun i => spNat s (a + 2 * i) 2
              match convertBook bf (got.any (·.2)) (got.map (·.1)) with
              | some cb =>
                slotJudge (mxDone (updTile s t.val fun u => { u with cbs := mset CodeBook.none u.cbs c cb }) t.val ix) t.val e.job
                  (mxReport s t.val e 0x09) [(a, 2 * n, false)]
              | none => mxFail s t.val ix e 0x13
          | _ => mxFail s t.val ix e 0x12
        | _, _ => s)

/-- MX_SIGNAL_ADD (R213, R216, R219): a SIGNAL at the head of the queue, every command ahead of it complete, as strict queue order asks. -/
def execMxSignalAdd (t : Fin 256) (s : State) : Out :=
  .next (match (tile s t.val).mxq with
    | e :: _ => match e.cmd with
      | .signal _ o v _ => jobAdds (mxDone s t.val 0) e.job o v.toNat
      | _ => s
    | [] => s)

/-- RESIDUE_INJECT (R224): the next block converted raises `MX_RESIDUE`. -/
def execResidueInject (t : Fin 256) (s : State) : Out :=
  .next (if answers s 0xF01308 && t.val < s.grid.enabled then updTile s t.val fun u => { u with inject := true } else s)

end Sys2Proof.Machine
end

