-- ==== Sys2Proof/Machine/Peers.lean ====
section
/-! DEFINITION. Peer messaging: sending tokens and results, landing writes in receive windows, judging messages, credit,
batches, resends, and the peer epoch (R391 to R401). -/

namespace Sys2Proof.Machine

/-! ### Messages (R392, R393) -/

/-- What a message header says. -/
structure MsgHead where
  kind : Nat
  token : BitVec 128
  expert : Nat
  plan : Nat
  rank : Nat
  reason : Nat
  nackKind : Nat
  deriving DecidableEq, Repr

/-- Header bytes 0 to 43. -/
def headBytes (s : State) (h : MsgHead) (blocks seq : Nat) : List Byte :=
  natLE 4 (h.kind + fld s Reg.PM_CTL_SELF * 2 ^ 8 + (blocks - 1) * 2 ^ 16) ++ natLE 4 s.pm.epoch ++ natLE 8 seq ++
    natLE 16 h.token.toNat ++ natLE 4 (h.expert + h.plan * 2 ^ 8 + h.rank * 2 ^ 16) ++
    natLE 4 (h.reason + h.nackKind * 2 ^ 4) ++ natLE 4 (if h.kind = 3 then s.pm.epoch else 0)

/-- A message: its header with the CRC, then its further blocks. -/
def message (s : State) (h : MsgHead) (body : List Byte) (seq : Nat) : List Byte :=
  let head := headBytes s h (1 + body.length / 64) seq
  head ++ natLE 4 (crc32c (head ++ body)) ++ zeros 16 ++ body

/-- Device address of a block of the peer's window of a channel. -/
def sendAddr (s : State) (p c pos : Nat) : Nat :=
  peerBase + p * 2 ^ 40 + getF s Reg.PM_SEND_OFS 0 (chanIdx p c) / 4096 * 4096 + 64 * pos

/-- Where the next message of `n` blocks starts, and how many blocks are skipped to get there (R393). -/
def sendAt (s : State) (k n : Nat) : Nat × Nat :=
  let size := getF s Reg.PM_SEND_CTL_SIZE 0 k
  let pos := (chanOf s k).pos
  if pos + n ≤ size then (pos, 0) else (1, size - pos)

/-- The channel is open and has credit for a message of `n` blocks, with those it skips (R395). -/
def maySend (s : State) (k n : Nat) : Bool :=
  pmEn s && (chanOf s k).opened && n + (sendAt s k n).2 ≤ credits s k

/-- Write a message at its channel's position. -/
def sendMsg (s : State) (p c : Nat) (h : MsgHead) (body : List Byte) : State :=
  let k := chanIdx p c
  let n := 1 + body.length / 64
  let at0 := sendAt s k n
  updChan (devPut s (sendAddr s p c at0.1) (message s h body (chanOf s k).msgSeq)) k fun ch =>
    { ch with pos := at0.1 + n, sent := ch.sent + n + at0.2, msgSeq := ch.msgSeq + 1 }

/-! ### Sending -/

/-- A route waits for the channel to a peer: its expert is valid there. -/
def dueFor (s : State) (p : Nat) (r : Route) : Bool :=
  r.due && r.result.isNone && bit s Reg.PM_EXPERT_VALID 0 r.expert && getF s Reg.PM_EXPERT_PART 0 r.expert = p

/-- The first route that waits for the channel to a peer: its token and its rank. -/
def firstDue (s : State) (p : Nat) : Option (Token × Nat × Route) :=
  s.pm.tokens.findSome? fun k => (k.routes.zipIdx.find? fun r => dueFor s p r.1).map fun r => (k, r.2, r.1)

/-- Change a route of a token. -/
def updRoute (s : State) (id : BitVec 128) (rank : Nat) (f : Route → Route) : State :=
  updPm s fun m => { m with tokens := m.tokens.map fun k =>
    if k.id = id then { k with routes := k.routes.zipIdx.map fun r => if r.2 = rank then f r.1 else r.1 } else k }

/-- TOKEN_SEND (R393): the first waiting route of the channel, once its credit allows. The message header stands before the token
in its store entry (R390). -/
def execTokenSend (p : Fin 16) (s : State) : Out :=
  .next (match firstDue s p.val with
    | none => s
    | some (k, rank, r) =>
      let h : MsgHead := { kind := 1, token := k.id, expert := r.expert, plan := groupPlan s, rank := rank, reason := 0, nackKind := 0 }
      if maySend s (chanIdx p.val 0) (1 + k.bytes.length / 64) then
        let seq := (chanOf s (chanIdx p.val 0)).msgSeq
        let s1 := devPut s k.addr ((message s h k.bytes seq).take 64)
        let s2 := cnt (sendMsg s1 p.val 0 h k.bytes) Reg.PM_CNT_TOKENS_TX
        updRoute s2 k.id rank fun q => { q with due := false, part := p.val, sentNs := nowNs s }
      else s)

/-- RESULT_SEND (R392): the first RESULT or NACK that waits for the class-1 channel of a peer. -/
def execResultSend (p : Fin 16) (s : State) : Out :=
  .next (match s.pm.out.find? fun m => m.peer = p.val with
    | none => s
    | some m =>
      let k := chanIdx p.val 1
      let body := if m.nack then [] else m.block
      let h : MsgHead := { kind := if m.nack then 3 else 2, token := m.token, expert := m.expert, plan := m.plan, rank := m.rank,
                           reason := m.reason, nackKind := m.nackKind }
      if maySend s k (1 + body.length / 64) then
        let s1 := updPm (sendMsg s p.val 1 h body) fun q => { q with out := q.out.erase m }
        if m.nack then s1
        else updChan (cnt s1 Reg.PM_CNT_RESULTS_TX) k fun c => { c with results := c.results ++ [(m.token, m.expert, c.sent)] }
      else s)

/-- The window of a peer and class that is not closed. -/
def windowOf (s : State) (p c : Nat) : Option Nat :=
  (upto 64).find? fun w => (winOf s w).state ≠ .closed && getF s Reg.PM_WIN_CFG_PEER 0 w = p &&
    getF s Reg.PM_WIN_CFG_CLASS 0 w = c

/-- Blocks freed in a peer's window of a class, and blocks not yet reported. -/
def freedOf (s : State) (p c : Nat) : Nat := (windowOf s p c).elim 0 fun w => (winOf s w).freed
def unreported (s : State) (p : Nat) : Nat :=
  (upto 2).foldl (fun n c => n + (windowOf s p c).elim 0 fun w => (winOf s w).freed - (winOf s w).reported) 0

/-- Write the credit block of a peer (R391): block 0 of its class-1 window, without credit. -/
def sendCredit (s : State) (p : Nat) : State :=
  if (chanOf s (chanIdx p 1)).opened then
    let s1 := devPut s (sendAddr s p 1 0)
      (natLE 8 (freedOf s p 0) ++ natLE 8 (freedOf s p 1) ++ natLE 4 s.pm.epoch ++ zeros 44)
    thread (fun s' c => match windowOf s' p c with
      | some w => updWin s' w fun k => { k with reported := k.freed }
      | none => s') s1 (upto 2)
  else s

/-- CREDIT_BLOCK_SEND (R395): frees that the peer has not been told of. -/
def execCreditBlockSend (p : Fin 16) (s : State) : Out :=
  .next (if pmEn s && 0 < unreported s p.val then sendCredit s p.val else s)

/-! ### Landing writes (R346, R394) -/

/-- First device address of a window's ring, and its blocks. -/
def winBase (s : State) (w : Nat) : Nat := getF s Reg.PM_WIN_BASE 0 w / 4096 * 4096
def winSize (s : State) (w : Nat) : Nat := getF s Reg.PM_WIN_SIZE 0 w

/-- A range of device addresses lies entirely inside a window. -/
def inWindow (s : State) (w a n : Nat) : Bool :=
  winBase s w ≤ a && a + n ≤ winBase s w + 64 * winSize s w && inGeneral s (winBase s w) (64 * winSize s w) && 0 < n

/-- One entry of the discard log, the newest first (R404). -/
def logDiscard (s : State) (sender reqId reason w epoch : Nat) : State :=
  let fs := [Reg.PM_DISCARD_LOG_SENDER, Reg.PM_DISCARD_LOG_REQ_ID, Reg.PM_DISCARD_LOG_REASON, Reg.PM_DISCARD_LOG_WINDOW,
             Reg.PM_DISCARD_LOG_EPOCH, Reg.PM_DISCARD_LOG_TIME]
  let moved := thread (fun s' i => thread (fun s'' (f : Fld) => setF s'' f 0 (15 - i) (getF s'' f 0 (14 - i))) s' fs) s (upto 15)
  thread (fun s' (e : Fld × Nat) => setF s' e.1 0 0 e.2) moved
    (fs.zip [sender, reqId, reason, w, epoch, nowNs s])

/-- Fields of a message header in memory. -/
def hKind (h : List Byte) : Nat := bytesNat h 0 1 % 16
def hSender (h : List Byte) : Nat := bytesNat h 1 1 % 16
def hBlocks (h : List Byte) : Nat := bytesNat h 2 1 % 32 + 1
def hEpoch (h : List Byte) : Nat := bytesNat h 4 4
def hToken (h : List Byte) : BitVec 128 := BitVec.ofNat 128 (bytesNat h 16 16)
def hExpert (h : List Byte) : Nat := bytesNat h 32 1
def hPlan (h : List Byte) : Nat := bytesNat h 33 1
def hRank (h : List Byte) : Nat := bytesNat h 34 1 % 2

/-- A NACK for a refused message, on the class-1 channel to its sender; none where that is closed, and none for a NACK. -/
def nack (s : State) (h : List Byte) (reason : Nat) : State :=
  if hKind h = 3 || !(chanOf s (chanIdx (hSender h) 1)).opened then s
  else updPm s fun p => { p with out := p.out ++
    [{ peer := hSender h, nack := true, token := hToken h, expert := hExpert h, rank := hRank h, plan := hPlan h,
       reason := reason, nackKind := hKind h, block := [] }] }

/-- A message is discarded for a reason that is logged: counted, logged, refused. -/
def refuseMsg (s : State) (w reqId : Nat) (h : List Byte) (reason : Nat) : State :=
  nack (logDiscard (cnt s Reg.PM_CNT_DISCARD) (hSender h) reqId reason w (hEpoch h)) h reason

/-- A write reaches a window that is closed or in fault: discarded and logged; its header is readable where the write begins with
a whole block that names a kind of R392. -/
def landClosed (s : State) (w off reqId : Nat) (bs : List Byte) (poison : Bool) : State :=
  if off % 64 = 0 && 64 ≤ bs.length && !poison && [1, 2, 3].contains (hKind bs) then refuseMsg s w reqId bs 1
  else logDiscard (cnt s Reg.PM_CNT_DISCARD) (getF s Reg.PM_WIN_CFG_PEER 0 w) reqId 1 w 0

/-- The window enters fault. -/
def windowFault (s : State) (w : Nat) : State :=
  report (evSet (updWin (cnt s Reg.PM_CNT_DISCARD) w fun k => { k with state := .fault, landed := 0, poison := false }) 832)
    (mkReport 0x49 .peer 0 0 0 w)

/-- A window takes one whole block at ring position `pos` (R393, R394), or discards it with the rest of a write that has put it in fault. A message is complete with its last block, and is then
judged by its own command. -/
def landBlock (s : State) (w pos reqId : Nat) (b : List Byte) (poison : Bool) : State :=
  let k := winOf s w
  let base := winBase s w
  let size := winSize s w
  let put := devWrite s (base + 64 * pos) (b.map fun x => (x, poison)) .clean 0
  if k.state ≠ .opened then s
  else if pos = 0 then updWin put w fun e => { e with credit := true }
  else if k.landed = 0 then
    let n := hBlocks b
    let fits := k.expect + n ≤ size
    let here := pos = k.expect && fits
    let wrap := pos = 1 && !fits && 1 + n ≤ size
    if !(here || wrap) then windowFault s w
    else
      let skip : List HeldMsg := if here then [] else
        [{ pos := k.expect, blocks := size - k.expect, freed := true, judged := true, poison := false, reqId := 0 }]
      if n = 1 then updWin put w fun e =>
        { e with expect := pos + 1,
                 held := e.held ++ skip ++ [{ pos := pos, blocks := 1, freed := false, judged := false, poison := poison, reqId := reqId }] }
      else updWin put w fun e => { e with expect := pos, landed := 1, landReq := reqId, poison := poison, held := e.held ++ skip }
  else if pos ≠ k.expect + k.landed then windowFault s w
  else
    let n := hBlocks (devGet s (base + 64 * k.expect) 64)
    let bad := k.poison || poison
    if k.landed + 1 = n then updWin put w fun e =>
      { e with expect := e.expect + n, landed := 0, poison := false,
               held := e.held ++ [{ pos := e.expect, blocks := n, freed := false, judged := false, poison := bad, reqId := reqId }] }
    else updWin put w fun e => { e with landed := e.landed + 1, poison := bad }

/-- Skipped blocks at the head of the ring are freed at once. -/
def popWin (s : State) (w : Nat) : State :=
  updWin s w fun k => { k with held := (popHeld k.held).2, freed := k.freed + (popHeld k.held).1 }

/-- A write inside a window that is open or in fault. -/
def landWrite (s : State) (w off reqId : Nat) (bs : List Byte) (poison : Bool) : State :=
  if off + bs.length ≤ 64 then
    updWin (devWrite s (winBase s w + off) (bs.map fun x => (x, poison)) .clean 0) w fun k => { k with credit := true }
  else if (winOf s w).state = .fault then landClosed s w off reqId bs poison
  else if off % 64 ≠ 0 || bs.length % 64 ≠ 0 then windowFault s w
  else popWin (thread (fun s' i =>
    landBlock s' w (off / 64 + i) reqId ((bs.drop (64 * i)).take 64) poison) s (upto (bs.length / 64))) w

/-! ### Judging messages (R394) -/

/-- The first message of a window that has not been judged, with its bytes. -/
def unjudged (s : State) (w : Nat) : Option (HeldMsg × List Byte) :=
  ((winOf s w).held.find? fun m => !m.judged).map fun m => (m, devGet s (winBase s w + 64 * m.pos) (64 * m.blocks))

/-- The message has been judged. -/
def judged (s : State) (w : Nat) (m : HeldMsg) : State :=
  updWin s w fun k => { k with held := k.held.map fun e => if e.pos = m.pos && !e.judged then { e with judged := true } else e }

/-- The message's header or a further block is damaged. -/
def damaged (m : HeldMsg) (bs : List Byte) : Bool :=
  m.poison || bytesNat bs 44 4 ≠ crc32c (bs.take 44 ++ bs.drop 64)

/-- What every message but a NACK must pass: integrity, then the epoch; `none` where it passes, else the state after its
discard. -/
def refused (s : State) (w : Nat) (m : HeldMsg) (bs : List Byte) : Option State :=
  if damaged m bs then some (freeMsg (nack (cnt s Reg.PM_CNT_DISCARD) bs 3) w m.pos)
  else if hEpoch bs ≠ s.pm.epoch then some (freeMsg (refuseMsg s w m.reqId bs 1) w m.pos)
  else none

/-- A message at the head of those to be judged whose `KIND` R392 does not list is refused if it is damaged, and else accepted (the last
row of R394), with nothing to do for it. -/
def oddPass (s : State) (w : Nat) : State :=
  thread (fun s' _ => match unjudged s' w with
    | none => s'
    | some (m, bs) =>
      if [1, 2, 3].contains (hKind bs) || !pmEn s' then s'
      else
        let s1 := judged s' w m
        freeMsg (if damaged m bs then nack (cnt s1 Reg.PM_CNT_DISCARD) bs 3 else s1) w m.pos) s (winOf s w).held

/-- TOKEN_RECEIVE (R394, R398): an accepted token joins its expert's open batch, and its message stays held. -/
def execTokenReceive (w : Fin 64) (s0 : State) : Out :=
  let s := oddPass s0 w.val
  .next (match unjudged s w.val with
    | none => s
    | some (m, bs) =>
      if hKind bs ≠ 1 || !pmEn s then s
      else
        let s1 := judged s w.val m
        match refused s1 w.val m bs with
        | some s2 => s2
        | none =>
          if hPlan bs ≠ groupPlan s || !hostsExpert s (hExpert bs) then freeMsg (refuseMsg s1 w.val m.reqId bs 2) w.val m.pos
          else joinBatch (cnt s1 Reg.PM_CNT_TOKENS_RX)
            { id := hToken bs, expert := hExpert bs, rank := hRank bs, sender := hSender bs, window := some w.val, pos := m.pos,
              addr := winBase s w.val + 64 * m.pos + 64, job := none, answered := false })

/-- RESULT_RECEIVE (R394, R400): an accepted result is merged into its token's entry; its blocks are free at once (R395). -/
def execResultReceive (w : Fin 64) (s0 : State) : Out :=
  let s := oddPass s0 w.val
  .next (match unjudged s w.val with
    | none => s
    | some (m, bs) =>
      if hKind bs ≠ 2 || !pmEn s then s
      else
        let s1 := judged s w.val m
        match refused s1 w.val m bs with
        | some s2 => s2
        | none =>
          freeMsg (takeResult (cnt s1 Reg.PM_CNT_RESULTS_RX) (hToken bs) (hExpert bs) (hRank bs) ((bs.drop 64).take 64))
            w.val m.pos)

/-- A refused RESULT: while the channel to the origin is open, its expert-job runs again from its retained tokens and sends all
its results again. -/
def resultRefused (s : State) (bs : List Byte) : State :=
  if !(chanOf s (chanIdx (hSender bs) 1)).opened then s
  else match s.pm.rx.find? fun k => k.id = hToken bs && k.expert = hExpert bs && k.rank = hRank bs && k.window.isSome with
    | none => s
    | some k => match k.job with
      | none => s
      | some id =>
        if (jobOf s id).elim false (fun j => j.state = .retired) then
          settle (regenerate (updPm s fun p => { p with rx := p.rx.map fun e => if e.job = some id then { e with answered := false } else e }) id)
        else s

/-- A refused TOKEN: its route is sent again `RETRY_US` later. -/
def tokenRefused (s : State) (bs : List Byte) : State :=
  updRoute s (hToken bs) (hRank bs) fun r =>
    if r.result.isNone && r.expert = hExpert bs && !r.due then
      { r with retryAt := some (nowNs s + 1000 * fld s Reg.PM_CTL_RETRY_US) } else r

/-- NACK_RECEIVE (R394, R397): accepted whatever its epoch, unless it is damaged; no NACK answers it. -/
def execNackReceive (w : Fin 64) (s0 : State) : Out :=
  let s := oddPass s0 w.val
  .next (match unjudged s w.val with
    | none => s
    | some (m, bs) =>
      if hKind bs ≠ 3 || !pmEn s then s
      else
        let s1 := judged s w.val m
        if damaged m bs then freeMsg (cnt s1 Reg.PM_CNT_DISCARD) w.val m.pos
        else
          let s2 := cnt s1 Reg.PM_CNT_NACK_RX
          let s3 := if bytesNat bs 36 1 / 16 = 1 then tokenRefused s2 bs else if bytesNat bs 36 1 / 16 = 2 then resultRefused s2 bs else s2
          freeMsg s3 w.val m.pos)

/-- The tokens whose RESULT messages a peer has freed are no longer retained, once their expert-job has retired (R399). -/
def dropAnswered (s : State) (p : Nat) : State :=
  let c := chanOf s (chanIdx p 1)
  let gone := c.results.filter fun r => r.2.2 ≤ c.freed
  let s1 := updChan s (chanIdx p 1) fun e => { e with results := e.results.filter fun r => c.freed < r.2.2 }
  let s2 := thread (fun s' (r : BitVec 128 × Nat × Nat) =>
    match s'.pm.rx.find? fun k => k.answered && k.id = r.1 && k.expert = r.2.1 && k.sender = p && k.window.isSome with
    | some k => dropRx s' k
    | none => s') s1 gone
  settle s2

/-- The counts of a credit block of a class-1 window (R391); block 0 of a class-0 window is reserved. -/
def takeCounts (s : State) (w : Nat) (b : List Byte) : State :=
  let p := getF s Reg.PM_WIN_CFG_PEER 0 w
  if getF s Reg.PM_WIN_CFG_CLASS 0 w = 0 then s
  else dropAnswered (updChan (updChan s (chanIdx p 0) fun c => { c with freed := bytesNat b 0 8 }) (chanIdx p 1)
    fun c => { c with freed := bytesNat b 8 8 }) p

/-- CREDIT_BLOCK_RECEIVE (R391): the counts of block 0 of a class-1 window, whatever their epoch. -/
def execCreditBlockReceive (w : Fin 64) (s : State) : Out :=
  .next (if !(winOf s w.val).credit || !pmEn s then s
    else takeCounts (updWin s w.val fun k => { k with credit := false }) w.val (devGet s (winBase s w.val) 64))

/-- A write inside a closed window, which R346 keeps from memory: counts written to block 0 are taken, the first row of R394; any other is
discarded and logged. -/
def landShut (s : State) (w off reqId : Nat) (bs : List Byte) (poison : Bool) : State :=
  if off + bs.length ≤ 64 then (if pmEn s && off = 0 && 16 ≤ bs.length && !poison then takeCounts s w bs else s)
  else landClosed s w off reqId bs poison

/-! ### Batches and resends (R397, R398, R401) -/

/-- BATCH_TIMEOUT (R34, R398): the open batch is as old as the plan's timeout. -/
def execBatchTimeout (e : Fin 256) (s : State) : Out :=
  .next (match expertTmpl s e.val with
    | none => s
    | some t =>
      if pmEn s && !(batchOf s e.val).opened.isEmpty && (batchOf s e.val).openedNs + 1000 * t.batchUs ≤ nowNs s then
        closeBatch s e.val
      else s)

/-- The route of a token. -/
def routeOf (s : State) (id : BitVec 128) (rank : Nat) : Option Route :=
  (s.pm.tokens.find? fun k => k.id = id).bind fun k => k.routes[rank]?

/-- TOKEN_RETRY (R397): the time after a NACK is over. -/
def execTokenRetry (id : BitVec 128) (rank : Fin 2) (s : State) : Out :=
  .next (match routeOf s id rank.val with
    | none => s
    | some r => match r.retryAt with
      | none => s
      | some t => if pmEn s && t ≤ nowNs s && r.result.isNone then sendRoute s id rank.val else s)

/-- TOKEN_TIMEOUT (R401): a route sent and not answered for `TOKEN_TO` µs is sent again; after `MAX_RESEND` such sends the fault
manager hears of it, once. -/
def execTokenTimeout (id : BitVec 128) (rank : Fin 2) (s : State) : Out :=
  .next (match routeOf s id rank.val with
    | none => s
    | some r =>
      if pmEn s && r.result.isNone && !r.due && r.retryAt.isNone && r.sentNs + 1000 * fld s Reg.PM_TIMEOUT_TOKEN_TO ≤ nowNs s then
        let tell := fld s Reg.PM_TIMEOUT_MAX_RESEND ≤ r.resends && !r.told
        let s1 := if tell then report (evSet s 832) (mkReport 0x4A .peer 0 (id.toNat % 2 ^ 64) 0 r.part) else s
        sendRoute (cnt (updRoute s1 id rank.val fun q => { q with resends := q.resends + 1, sentNs := nowNs s, told := q.told || tell }) Reg.PM_CNT_RESEND)
          id rank.val
      else s)

/-! ### Peer epochs (R396, R399) -/

/-- The field takes the value its shadow holds. -/
def applyShadow (s : State) (f : Fld) (i : Nat) : State :=
  let v := mget 0 s.shadow (fldKey f 0 i)
  if v = 0 then s else { setF s f 0 i (v - 1) with shadow := mset 0 s.shadow (fldKey f 0 i) 0 }

/-- A batch's job has not yet been dispatched. -/
def notDispatched (s : State) (id : JobId) : Bool :=
  (jobOf s id).elim false fun j => j.attempt = 0 && (j.state = .waiting || j.state = .eligible)

/-- A token leaves the batch it stands in, if that has not been dispatched: the open batch, or the table of a job that still
waits, which goes with its last token. -/
def leaveBatch (s : State) (k : RxToken) : State :=
  match k.job with
  | none => updBatch s k.expert fun b => { b with opened := b.opened.filter fun e => e ≠ (k.id, k.addr) }
  | some id =>
    if !notDispatched s id then s
    else match jobOf s id with
      | none => s
      | some j =>
        let rest := s.pm.rx.filter fun e => e.job = some id && e ≠ k
        let at0 := (j.args.getD 0 0).toNat
        let toks := sortBy (fun (a b : RxToken) => a.id.toNat ≤ b.id.toNat) rest
        if toks.isEmpty then { s with jobs := s.jobs.filter fun q => q.id ≠ id }
        else updJob (devPut s at0 (natLE 8 (toks.length + k.expert * 2 ^ 16) ++ toks.flatMap fun e => natLE 8 e.addr)) id fun q =>
          { q with tokens := toks.map (·.id), args := q.args.set 1 (BitVec.ofNat 64 toks.length) }

/-- A token stands in no batch that has been dispatched. -/
def inOpenBatch (s : State) (k : RxToken) : Bool := k.job.elim true (notDispatched s)

/-- A window closes: messages not yet judged, and one that has landed in part, are judged as closed, and its tokens join no batch that has not been dispatched. -/
def closeWindow (s : State) (w : Nat) : State :=
  let s1 := thread (fun s' (m : HeldMsg) =>
      if m.judged then s'
      else freeMsg (refuseMsg s' w m.reqId (devGet s' (winBase s' w + 64 * m.pos) 64) 1) w m.pos) s (winOf s w).held
  let s2 := thread (fun s' (k : RxToken) => if k.window = some w && inOpenBatch s' k then dropRx (leaveBatch s' k) k else s') s1 s1.pm.rx
  let k := winOf s w
  let s3 := if k.landed = 0 then s2 else refuseMsg s2 w k.landReq (devGet s2 (winBase s2 w + 64 * k.expect) 64) 1
  updWin s3 w fun k => { k with state := .closed, landed := 0, poison := false, credit := false }

/-- A channel closes: what waits for it is dropped; with a class-1 channel, so are the tokens its peer originated. -/
def closeChannel (s : State) (k : Nat) : State :=
  let p := k / 2
  let s1 := updPm s fun m => { m with chans := mset SendCh.closed m.chans k SendCh.closed }
  if k % 2 = 0 then s1
  else
    let s2 := updPm s1 fun m => { m with out := m.out.filter fun e => e.peer ≠ p }
    thread (fun s' (e : RxToken) =>
      if e.sender = p && e.window.isSome then dropRx (if inOpenBatch s' e then leaveBatch s' e else s') e else s') s2 s2.pm.rx

/-- Step 1 for a window: it closes if it is staged to. -/
def shutWindow (s : State) (w : Nat) : State :=
  let s1 := applyShadow s Reg.PM_WIN_CFG_EN w
  if bit s1 Reg.PM_WIN_CFG_EN 0 w || (winOf s1 w).state = .closed then s1 else closeWindow s1 w

/-- Step 1 for a channel. -/
def shutChannel (s : State) (k : Nat) : State :=
  let s1 := applyShadow s Reg.PM_SEND_CTL_EN k
  if bit s1 Reg.PM_SEND_CTL_EN 0 k || !(chanOf s1 k).opened then s1 else closeChannel s1 k

/-- Step 2 for a window staged to open: it opens at position 1 with zero counts where nothing is held. -/
def openWindow (s : State) (w : Nat) : State :=
  let k := winOf s w
  if !bit s Reg.PM_WIN_CFG_EN 0 w || k.state ≠ .closed then s
  else if (k.held.map fun m => m.blocks).sum ≠ 0 then setF s Reg.PM_WIN_STAT_OPEN_ERR 0 w 1
  else updWin s w fun _ => { Win.closed with state := .opened, epoch := s.pm.epoch }

/-- Step 2 for a channel. -/
def openChannel (s : State) (k : Nat) : State :=
  if !bit s Reg.PM_SEND_CTL_EN 0 k || (chanOf s k).opened then s
  else updChan s k fun _ => { SendCh.closed with opened := true }

/-- Step 4: every pending route whose expert's part has changed is sent again, and one that waited for an expert that this part
now hosts joins its batch. -/
def resendRoutes (old s : State) : State :=
  thread (fun s' (k : Token) =>
    thread (fun s'' (r : Route × Nat) =>
      if r.1.result.isNone && (getF old Reg.PM_EXPERT_PART 0 r.1.expert ≠ getF s Reg.PM_EXPERT_PART 0 r.1.expert ||
          (r.1.due && hostsExpert s r.1.expert)) then sendRoute s'' k.id r.2 else s'')
      s' k.routes.zipIdx) s s.pm.tokens

/-- EPOCH_ADVANCE (R396): a value different from the current one; the steps in their order. -/
def execEpochAdvance (v : BitVec 32) (s : State) : Out :=
  .next (if v.toNat = s.pm.epoch || !answers s 0x900018 then s
    else
      let s0 := updPm s fun m => { m with epoch := v.toNat }
      let s1 := thread shutChannel (thread shutWindow s0 (upto 64)) (upto 32)
      let s2 := thread openChannel (thread openWindow s1 (upto 64)) (upto 32)
      let s3 := thread (fun s' e => applyShadow (applyShadow s' Reg.PM_EXPERT_PART e) Reg.PM_EXPERT_VALID e) s2 (upto 256)
      let s4 := resendRoutes s s3
      settle (thread sendCredit s4 (upto 16)))

end Sys2Proof.Machine
end

