-- ==== Sys2Proof/Machine/PlanChecks.lean ====
section
/-! DEFINITION. What PLAN_LOAD and STREAM_BIND check of a plan: shape records, templates, operators, queues (R34, R35, R52, R117,
R118, R140, R235 to R243, R248 to R263, R273, R275, R281). -/

namespace Sys2Proof.Machine

/-! ### Shape records (R248 to R252, R257, R260, R262) -/

/-- Fields within their ranges; an operator is 0 or one of the table. -/
def shapeFields (im : PlanImage) (r : ShapeRec) : Bool :=
  r.family ≤ 6 && r.frc ≤ 2 && !r.reserved && 1 ≤ r.kh && r.kh ≤ 63 && 1 ≤ r.kw && r.kw ≤ 63 && 1 ≤ r.groups && 1 ≤ r.cIn &&
  1 ≤ r.cOut && r.cIn % r.groups = 0 && r.cOut % r.groups = 0 && (r.opId = 0 || (opAt im r.opId).isSome) &&
  (r.family ≠ 5 || (r.kh = 1 && r.kw = 1)) &&
  ((r.family ≠ 2 && r.family ≠ 5) || (1 ≤ r.uy && r.uy ≤ 8 && 1 ≤ r.ux && r.ux ≤ 8))

/-- An output of 1 or more, and mirror padding within the input (R250, R257). -/
def axisOk (r : ShapeRec) (n lo hi : Nat) (out : Int) : Bool := 1 ≤ out && (r.padMode ≠ 2 || (lo ≤ n - 1 && hi ≤ n - 1))

/-- A power of two from 64 to 4,096. -/
def fftLen (n : Nat) : Bool := [64, 128, 256, 512, 1024, 2048, 4096].contains n

/-- A record keeps the rules of R248 to R262 for its input; `lines`, where known, are the lines of a stripe or a band, which the line
strides divide. -/
def shapeOk (im : PlanImage) (lines : Option Nat) (before : MapSize) (r : ShapeRec) : Bool :=
  let m := inputOf before r
  shapeFields im r && (r.inW = 0 || r.inW % 32 = 0) && m.core % r.sx = 0 && axisOk r m.w r.padL r.padR (sizeX r m.w) &&
  (match m.h with
   | some n => axisOk r n r.padT r.padB (sizeY r n)
   | none => r.padB = 0 && lines.elim true fun h => h % (m.sy * r.sy) = 0) &&
  (r.family ≠ 6 || fftLen (32 * m.core))

/-- Records of a chain that fail, by number. -/
def chainFails (im : PlanImage) (lines : Option Nat) (m : MapSize) (l : List Nat) : List Nat :=
  (l.foldl (fun (acc : MapSize × List Nat) i =>
    match shapeAt im i with
    | none => acc
    | some r => (sizeAfter im acc.1 r, if shapeOk im lines acc.1 r then acc.2 else acc.2 ++ [i])) (m, [])).2

/-- The least of some numbers. -/
def least (l : List Nat) : Option Nat := leastBy (fun a b => decide (a < b)) l

/-- Records that fail of a template to which no stream and no descriptor gives a width: a record's own width fixes it for those after it,
and of one that has none the fields are checked (R249). -/
def loneFails (im : PlanImage) (t : Template) : List Nat :=
  let start : MapSize := { w := 0, core := 0, h := none, sy := 1 }
  (t.shapes.foldl (fun (acc : Option MapSize × List Nat) i =>
    match shapeAt im i with
    | none => acc
    | some r =>
      let m := if r.inW = 0 then acc.1 else some (acc.1.getD start)
      (m.map fun k => sizeAfter im k r,
        if m.elim (shapeFields im r) fun k => shapeOk im none k r then acc.2 else acc.2 ++ [i])) (none, [])).2

/-- The first record that fails at load: of those whose input width is fixed, and of those that no later check sees (R249). -/
def badShape (im : PlanImage) : Option Nat :=
  least (((upto im.shapes.length).filter fun i => (shapeAt im i).elim false fun r =>
    r.inW ≠ 0 && !shapeOk im none { w := r.inW, core := r.inW / 32, h := none, sy := 1 } r) ++
    im.templates.flatMap fun t => if t.kind = 3 || (t.kind = 4 && t.sizeArgs.isNone) then loneFails im t else [])

/-- The first record that fails at binding, in the templates that work for a stream. -/
def badShapeAt (im : PlanImage) (w seg h : Nat) : Option Nat :=
  least (im.templates.flatMap fun t =>
    if t.kind ≤ 2 then chainFails im (some (linesOf t h)) (mapIn im w seg t) t.shapes else [])

/-- The first record of a host job that fails for the sizes its descriptor supplies (R249). -/
def badShapeFor (im : PlanImage) (t : Template) (arg : Nat → Nat) : Option Nat :=
  t.sizeArgs.bind fun a =>
    least (chainFails im none { w := arg a.1, core := arg a.1 / 32, h := some (arg a.2), sy := 1 } t.shapes ++
      if arg a.1 % 32 = 0 then [] else (t.shapes.filter fun i => (shapeAt im i).elim false fun r => r.inW = 0).take 1)

/-! ### Operators (R235, R238, R239, R243, R263) -/

/-- An entry of the operator table keeps R235. -/
def opOk (im : PlanImage) (o : OpEntry) : Bool :=
  !o.reserved && (o.mode = 1 || o.oFmt ≤ 7) && o.mseLim ≤ 16384 &&
  decide (-32 ≤ o.dmin) && decide (o.dmin ≤ 0) && decide (0 ≤ o.dmax) && decide (o.dmax ≤ 31) &&
  (o.mode < 2 || ([0, 1, 2, 4, 5].contains o.oFmt && decide (o.dmin ≤ o.d0) && decide (o.d0 ≤ o.dmax))) &&
  (o.inputOp = 0 || (opAt im o.inputOp).isSome) &&
  (o.mode ≠ 2 || (opAt im o.measOp).elim false fun m => m.mode = 1 && m.baseS = o.baseS && m.baseE = o.baseE && m.inputOp = o.inputOp) &&
  (o.mode ≠ 1 || (opTable im).any fun p => p.mode = 2 && p.measOp = o.opId)

/-- What leaves a chain of records: its last operator that is no first pass, or, where no record has one, what enters it. -/
def opsAfter (im : PlanImage) (enter : List (OpEntry × Int)) (rs : List ShapeRec) : List (OpEntry × Int) :=
  match rs.reverse.findSome? fun r => (opAt im r.opId).filter fun o => o.mode ≠ 1 with
  | some o => [(o, 0)]
  | none => if rs.isEmpty then [] else enter

/-- A template's part of a queue it fills: a HALO queue carries the output of the inner layer whose place it has among the template's filled
queues (R49, log 22), any other what leaves the template. -/
def queuePart (im : PlanImage) (u : Template) (q : Nat) : List ShapeRec :=
  if (queueDecls im).any fun k => k.queue = q && k.kind = 2 then
    (shapesOf im u).take (((u.queues.filter (·.2.1)).findIdx? fun e => e.1 = q).getD 0 + 1)
  else shapesOf im u

/-- The templates that a template reads, with the row offset and their records that make what is read: through dependencies, halo entries
and the queues it drains (R49, R243). A queue's offset is its halo entry's, or else none. -/
def producersOf (im : PlanImage) (t : Template) : List (Template × Int × List ShapeRec) :=
  ((t.deps ++ t.halo).filterMap fun d => (im.templates.find? fun u => u.index = d.template).map fun u => (u, d.dr, shapesOf im u)) ++
    (t.queues.filter fun q => !q.2.1).flatMap fun q =>
      (im.templates.filter fun u => u.queues.any fun e => e.1 = q.1 && e.2.1).flatMap fun u =>
        let at' := (t.halo.filter fun d => d.template = u.index).map (·.dr)
        (if at'.isEmpty then [0] else at').map fun d => (u, d, queuePart im u q.1)

/-- The operators whose output a template reads, with the row offset; `n` bounds the chain of templates without an operator. -/
def readOps (im : PlanImage) (t : Template) : Nat → List (OpEntry × Int)
  | 0 => []
  | n + 1 => ((producersOf im t).flatMap fun u => (opsAfter im (readOps im u.1 n) u.2.2).map fun p => (p.1, p.2 + u.2.1)).eraseDups

/-- The operators that a template reads, and those whose output leaves it. -/
def opsRead (im : PlanImage) (t : Template) : List (OpEntry × Int) := readOps im t im.templates.length
def opsLeaving (im : PlanImage) (t : Template) : List (OpEntry × Int) := opsAfter im (opsRead im t) (shapesOf im t)

/-- Templates that produce a DRIFT operator's output, and those that consume it (R239). -/
def driftUsers (im : PlanImage) (o : OpEntry) : List Template :=
  im.templates.filter fun t => (driftOps im t).contains o.opId || (opsRead im t).any fun p => p.1.opId = o.opId

/-- The period of a DRIFT operator is one of the seven, and the largest band height among its producers and consumers, whose bands
lie within one period (R239). -/
def periodOk (im : PlanImage) (o : OpEntry) : Bool :=
  let l := (driftUsers im o).map heightOf
  [1, 2, 4, 8, 16, 32, 64].contains o.period && (l.isEmpty || l.foldl max 1 = o.period) && l.all fun n => n ≠ 0 && o.period % n = 0

/-- What a template reads does not break R243: a DRIFT output at another drift index, or the output of a PRESENT operator. -/
def readsOk (im : PlanImage) (t : Template) : Bool :=
  (opsRead im t).all fun p => p.1.mode ≠ 2 && (p.1.mode ≠ 3 || (p.2 = 0 && decide (t.kind ≤ 2)))

/-- A template's outputs have consumers. -/
def consumed (im : PlanImage) (t : Template) : Bool := im.templates.any fun u => (u.deps ++ u.halo).any fun d => d.template = t.index

/-- No output of a PRESENT operator leaves its job: to a consumer, or into a queue (R243). -/
def presentStays (im : PlanImage) (t : Template) : Bool :=
  let ok := fun (l : List (OpEntry × Int)) => l.all fun p => p.1.mode ≠ 2
  (!consumed im t || ok (opsLeaving im t)) &&
    t.queues.all fun q => !q.2.1 || ok (opsAfter im (opsRead im t) (queuePart im t q.1))

/-- Every `INPUT_OP` of a template's operators names an operator whose output its record reads: the one before it that is no first pass, or
one that the template reads (R243). -/
def inputsOk (im : PlanImage) (t : Template) : Bool :=
  let from' := (opsRead im t).map fun p => p.1.opId
  ((shapesOf im t).foldl (fun (acc : List Nat × Bool) r => match opAt im r.opId with
    | none => acc
    | some o => (if o.mode = 1 then acc.1 else [o.opId],
        acc.2 && (o.inputOp = 0 || acc.1.contains o.inputOp || from'.contains o.inputOp))) (from', true)).2

/-- The formats that a chain of records leaves, for those that enter it: a record without an operator, and a first pass, keep them. -/
def fmtsAfter (im : PlanImage) (enter : List Nat) (rs : List ShapeRec) : List Nat :=
  rs.foldl (fun (f : List Nat) r => match opAt im r.opId with
    | some o => if o.mode = 1 then f else [o.oFmt]
    | none => f) enter

/-- The formats of the maps that a template reads; a boundary engine's template has a format of its own (R117, R118). -/
def readFmts (im : PlanImage) (t : Template) : Nat → List Nat
  | 0 => []
  | n + 1 => ((producersOf im t).flatMap fun u => match u.1.engine with
    | .first f => [f.oFmt]
    | .last l => (l.stages.getLast?).toList.map fun (k : LastStage) => k.oFmt
    | .tiles => fmtsAfter im (readFmts im u.1 n) u.2.2).eraseDups

/-- Compression is asked of INT8 and INT16 maps only (R263). -/
def frcFormats (im : PlanImage) (t : Template) : Bool :=
  let enter := readFmts im t im.templates.length
  (shapesOf im t).zipIdx.all fun e => e.1.frc = 0 ||
    (let f := match t.engine with
      | .first l => [l.oFmt]
      | .last l => (l.stages[e.2]?).toList.map fun (k : LastStage) => k.oFmt
      | .tiles => fmtsAfter im enter ((shapesOf im t).take (e.2 + 1))
     !f.isEmpty && f.all fun x => x = 0 || x = 2)

def opsOk (im : PlanImage) : Bool :=
  im.ops.length ≤ 4095 && (opTable im).all fun o => opOk im o && (o.mode ≠ 3 || periodOk im o)

/-! ### Templates (R34, R35, R52, R237, R243, R275) -/

/-- Templates reached from some by output dependencies. -/
def depReach (im : PlanImage) (l : List Nat) : List Nat :=
  (upto im.templates.length).foldl (fun (acc : List Nat) _ =>
    (acc ++ (im.templates.filter fun t => acc.contains t.index).flatMap fun t => t.deps.map (·.template)).eraseDups) l

/-- The template lies on a loop of output dependencies. -/
def onCycle (im : PlanImage) (t : Template) : Bool := (depReach im (t.deps.map (·.template))).contains t.index

/-- First rows of a consumer whose instances cover `a` rows, and of the instances of `b` rows that hold its rows at an offset; over a
whole period of the two grids. -/
def gridPairs (a b : Nat) (d : Int) (limit : Option Nat) : List (Int × Int) :=
  (upto b).flatMap fun (n : Nat) => (upto a).filterMap fun (i : Nat) =>
    let at0 : Int := (n * a + i : Nat) + d
    if limit.elim false fun l => l ≤ n * a + i || decide ((l : Int) ≤ at0) || decide (at0 < 0) then none
    else some (((n * a : Nat) : Int), at0 / (b : Int) * (b : Int))

/-- A halo entry names an instance strictly earlier than its consumer in row-then-segment order (R35). -/
def earlier (im : PlanImage) (t : Template) (d : Dep) : Bool :=
  match im.templates.find? fun u => u.index = d.template with
  | none => true
  | some u =>
    let rows := gridPairs (heightOf t) (max 1 (heightOf u)) d.dr none
    let segs := gridPairs (widthOf t) (max 32 (widthOf u)) d.ds (some 32)
    (rows.all fun p => p.2 < p.1) ||
      ((rows.all fun p => p.2 ≤ p.1) && segs.all fun p => p.2 < p.1)

/-- One ordinary convolution with dilation 1; a 1 × 1 one at stride 1 is a matrix product (R260). -/
def oneConv (r : ShapeRec) : Bool :=
  (r.family = 0 || (r.family = 5 && r.uy = 1 && r.ux = 1)) && r.groups = 1 && r.dy = 1 && r.dx = 1

/-- The record of a first layer (R117): one convolution, with its halo, that of its output map included, within 3 rows and columns. -/
def firstOk (im : PlanImage) (t : Template) (f : FirstLayer) : Bool :=
  match shapesOf im t with
  | [r] =>
    let wide := r.sx * f.outHalo
    oneConv r && r.cIn = (if f.bayerSplit then 4 else 1) && r.cOut ≤ 32 && r.kh ≤ 7 && r.kw ≤ 7 && r.sy ≤ 2 && r.sx ≤ 2 && r.padT ≤ 3 && r.kh ≤ 3 + r.padT + r.sy && r.padL + wide ≤ 3 && r.kw + wide ≤ 3 + r.padL + r.sx &&
    [0, 4, 5].contains f.oFmt && f.act ≤ 2 && f.scaleS.length = r.cOut && f.scaleE.length = r.cOut &&
    f.weights.length = r.cOut * r.cIn * r.kh * r.kw && f.weights.all fun w => decide (-128 ≤ w) && decide (w ≤ 127)
  | _ => false

/-- The records of a last layer (R118): one or two convolutions, whose reach the lanes of the map read hold. -/
def lastOk (im : PlanImage) (t : Template) (l : LastLayer) : Bool :=
  let rs := shapesOf im t
  (rs.length = 1 || rs.length = 2) && rs.length = l.stages.length && ((rs.map fun r => max r.padL (r.kw - 1 - r.padL)).sum ≤ l.inHalo) &&
  (match rs with | [a, b] => a.cOut = b.cIn | _ => true) &&
  (match l.stages with | [a, b] => a.oFmt = b.aFmt && b.oFmt = 0 | [a] => a.oFmt = 0 | _ => false) &&
  (rs.zip l.stages).all fun e =>
    let r := e.1
    let k := e.2
    oneConv r && r.cIn ≤ 256 && r.cOut ≤ 8 && r.kh = r.kw && (r.kw = 1 || r.kw = 3) && r.sx = 1 &&
    r.sy = 1 && [0, 4, 5].contains k.oFmt && [0, 4, 5].contains k.aFmt &&
    k.weights.length = r.cOut * r.cIn * r.kh * r.kw && k.scaleS.length = r.cOut && k.scaleE.length = r.cOut

/-- A boundary engine's template keeps R117 or R118, and its operators are DRIFT or STATIC (R243). -/
def engineOk (im : PlanImage) (t : Template) : Bool :=
  let ok := (shapesOf im t).all fun r => (opAt im r.opId).elim true fun o => o.mode = 0 || o.mode = 3
  match t.engine with
  | .tiles => true
  | .first f => firstOk im t f && ok
  | .last l => lastOk im t l && ok

/-- Rows of the smallest private area of a tile's contexts in a bank (R275). -/
def smallestArea (im : PlanImage) (u bank : Nat) : Nat :=
  let rows := fun (c : Nat) => ((im.areas.find? fun a => a.tile = u && a.ctx = c && a.bank = bank).map (·.rows)).getD 0
  (upto 8).foldl (fun n c => min n (rows c)) (rows 0)

/-- A private buffer fits the smallest context area of every tile of the template (R275). -/
def privOk (im : PlanImage) (t : Template) (d : PrivDecl) : Bool :=
  128 ≤ d.handle && d.handle < 144 && 1 ≤ d.rows && d.rows ≤ d.maxlen && d.bank ≤ 2 &&
  t.units.all fun u => d.row + d.maxlen ≤ smallestArea im u d.bank

def templateOk (im : PlanImage) (t : Template) : Bool :=
  1 ≤ t.kind && t.kind ≤ 4 && 1 ≤ t.d && t.d ≤ 10000 && !onCycle im t && t.halo.all (earlier im t) &&
  (t.stats.all fun d => decide (d.dr < 0)) &&
  (t.kind ≠ 2 || (1 ≤ t.bandRows && t.bandRows ≤ 64 && 1 ≤ t.bandSegs && t.bandSegs ≤ 32)) &&
  (t.kind ≠ 3 || (1 ≤ t.batchSize && t.batchSize ≤ 256 && 1 ≤ t.batchUs && t.batchUs ≤ 1000)) &&
  (t.kind ≠ 4 || (t.deps.isEmpty && t.halo.isEmpty && t.stats.isEmpty && t.raw.isEmpty)) &&
  (t.shapes.all fun i => (shapeAt im i).isSome) && (driftOps im t).length ≤ 16 && (measureOps im t).length ≤ 4 &&
  ((driftOps im t).isEmpty || t.kind ≤ 2) && readsOk im t && inputsOk im t && frcFormats im t &&
  presentStays im t &&
  engineOk im t && t.priv.all (privOk im t) &&
  (t.queues.all fun q => ((queueDecls im).find? fun k => k.queue = q.1).elim false fun k => k.kind ≠ 0 || q.2.2 ≤ k.depth)

/-! ### Buffers, queues and resident images (R140, R273, R281) -/

/-- A shared buffer, with what it may grow to, lies within the rows of its bank. -/
def bufferOk (b : BufDecl) : Bool := b.bank ≤ 2 && 1 ≤ b.len && b.len ≤ b.maxlen && b.base + b.maxlen ≤ bankRows b.bank

/-- A private area lies within the rows of its bank. -/
def areaOk (a : CtxArea) : Bool := a.ctx < 8 && a.bank ≤ 2 && a.base + a.rows ≤ bankRows a.bank

def queueOk (im : PlanImage) (q : QueueDecl) : Bool :=
  !q.reserved && q.kind ≤ 2 && (if q.kind = 2 then 1 else 2) ≤ q.depth && q.depth ≤ 4096 && 1 ≤ q.slotRows && q.slotRows ≤ 8192 &&
  q.prod ≤ 3 && q.cons ≤ 3 && (q.kind ≠ 2 || (1 ≤ q.refs && q.refs ≤ 3 && (im.objects[q.sync]?).elim false fun o => o.1 = 2)) &&
  (q.inDram || (im.buffers.find? fun b => b.tile = q.tile && b.handle = q.handle).elim false fun b => q.depth * q.slotRows ≤ b.len)

/-- A tile task of a template that may run on the tile is at an end of the queue. -/
def tileEnd (im : PlanImage) (q : QueueDecl) (t : Nat) : Bool :=
  im.templates.any fun u => decide (u.engine = .tiles) && u.units.contains t &&
    u.queues.any fun e => decide (e.1 = q.queue) && decide ((if e.2.1 then q.prod else q.cons) = 0)

/-- Slots that a tile mirrors: those in its scratchpad, and those of queues that end in a task on it. -/
def mirrored (im : PlanImage) (t : Nat) : Nat :=
  ((queueDecls im).map fun q => if (!q.inDram && q.tile = t) || tileEnd im q t then q.depth else 0).sum

def queuesOk (im : PlanImage) : Bool :=
  ((queueDecls im).map (·.queue)).eraseDups.length = im.queues.length && (queueDecls im).all (queueOk im) &&
  (upto 256).all fun t => mirrored im t ≤ 1024

/-- Resident images fit instruction RAM and do not overlap on a tile. -/
def residentOk (im : PlanImage) : Bool :=
  im.templates.all fun t => t.resident.elim true fun r =>
    r.1 + r.2 ≤ 65536 && im.templates.all fun u => u.index = t.index || u.resident.elim true fun q =>
      r.1 + r.2 ≤ q.1 || q.1 + q.2 ≤ r.1 || !(t.units.any fun k => u.units.contains k)

/-- Why a plan is rejected with `BAD_PLAN`: the first template that fails, or 0xFFFF for the plan as a whole (R35, R372). -/
def badPlan (im : PlanImage) : Option Nat :=
  match im.templates.find? fun t => !templateOk im t with
  | some t => some t.index
  | none =>
    let n := im.templates.length
    if 1 ≤ n && n ≤ 512 && (im.templates.all fun t => t.index < 512) && (im.templates.map (·.index)).eraseDups.length = n && opsOk im &&
      im.buffers.all bufferOk && im.areas.all areaOk && queuesOk im && residentOk im && (im.objects.all fun o => o.1 ≤ 2) &&
      im.experts ≤ 256 && (im.templates.filter fun t => t.kind = 3).length = im.experts then none
    else some 0xFFFF

end Sys2Proof.Machine
end

