-- ==== Sys2Proof/Machine/Dram.lean ====
section
/-! DEFINITION. Stacked memory: reads and writes of blocks, the scrubber, refresh, the map and its withheld frames (R317 to
R337, R488). -/

namespace Sys2Proof.Machine

/-! ### Blocks -/

/-- DRAM_READ (R325): a block is read and checked; what is delivered is kept as the last read data, with its poison. -/
def execDramRead (addr : Addr) (tries : ReadTry) (s : State) : Out :=
  if dramTop ≤ addr.toNat then .fault .noSuchAddress
  else
    let r := readBlock s (addr.toNat / 64) tries 0 false
    .next { r.2.2 with readData := r.1, readError := r.2.1 }

/-- DRAM_WRITE (R326): whole blocks are stored afresh, partial ones merged. -/
def execDramWrite (addr : Addr) (bytes : List Byte) (poisoned : Bool) (tries : ReadTry) (s : State) : Out :=
  if dramTop < addr.toNat + bytes.length then .fault .noSuchAddress
  else .next (devWrite s addr.toNat (bytes.map fun b => (b, poisoned)) tries 0)

/-! ### The map (R320, R322, R333) -/

/-- First address of the frame that holds granule `g` (local address / 256) of a channel, and whether it is a retention
pair. -/
def frameOf (d : Dram) (g : Nat) : Nat × Bool :=
  let top := (dramTop - d.rs) / 65536
  if g < top then
    let a := g * 65536
    (if a < d.rb then a else a + d.rs, false)
  else (d.rb + (g - top) * 32768, true)

/-- The frames of the rows that failed and could not be repaired, at most 256. -/
def withheldOf (d : Dram) : List (Nat × Bool) :=
  ((d.badRows.flatMap fun r => (upto 4).map fun i => frameOf d (r.2.2 * 64 + r.2.1 * 4 + i)).eraseDups).take 256

/-- Ring contexts hold their reset values: the registers of every ring's window. -/
def ringReg (key : Nat) : Bool := 0x601000 ≤ key / 64 % 2 ^ 26 && key / 64 % 2 ^ 26 < 0x602000

/-- Fix a map: contents become undefined, and the state kept in DRAM is reset with it. -/
def commitMap (s : State) (hash : Bool) (rb rs : Nat) : State :=
  let d := { s.dram with committed := true, hash := hash, rb := rb, rs := rs, gen := s.dram.gen + 1 }
  let s1 := { s with dram := { d with withheld := withheldOf d }, rings := [], regs := s.regs.filter fun e => !ringReg e.1 }
  updHv (updPm s1 fun p => { p with wins := [], chans := [] }) fun h => { h with scrubAt := [], scrubDone := [], scrubNs := nowNs s }

/-- MAP_COMMIT (R322): refused while anything that uses DRAM is enabled, or beyond the end of DRAM. -/
def execMapCommit (s : State) : Out :=
  let rb := fld s Reg.MEM_MAP_RET_BASE / 65536 * 65536
  let rs := fld s Reg.MEM_MAP_RET_SIZE
  .next (
    if !answers s 0x1000008 then s
    else if memOn s then cfgLocked s 0 0x1000008
    else if dramTop < rb + rs then setF s Reg.MEM_MAP_STAT_RET_RANGE 0 0 1
    else commitMap s (bit s Reg.MEM_MAP_CTL_HASH 0 0) rb rs)

/-- CRC_INJECT (R336). -/
def execCrcInject (c : Fin 256) (s : State) : Out :=
  .next (if answers s 0x1001008 then updChannel s c.val fun k => { k with inject := true } else s)

/-! ### Refresh and scrubbing (R328, R329, R488) -/

/-- REFRESH (R329): the channel's refresh is counted. -/
def execRefresh (c : Fin 256) (s : State) : Out :=
  .next (if s.dram.committed then addF s Reg.MEM_CNT_REFRESH c.val 0 1 else s)

/-- Block number of a local block of a channel: the map of R320 the other way. -/
def blockAt (s : State) (c n : Nat) : Nat :=
  let d := s.dram
  let f := n / 4
  let top := (dramTop - d.rs) / 65536
  if f < top then
    let a := f * 65536 + (c ^^^ (if d.hash then h8 f else 0)) * 256
    (if a < d.rb then a else a + d.rs) / 64 + n % 4
  else
    let g := f - top
    (d.rb + (c / 128) * (d.rs / 2) + g * 32768 + ((c % 128) ^^^ (if d.hash then h7 g else 0)) * 256) / 64 + n % 4

/-- Blocks of a channel. -/
def chanBlocks : Nat := 3145728

/-- How many blocks a channel's scrubber is behind its pace (R488). -/
def scrubDeficit (s : State) (at0 : Nat) : Nat :=
  (nowNs s - s.hv.scrubNs) * chanBlocks / (fld s Reg.HV_SCRUB_CTL_PERIOD_H * 3600000000000) - at0

/-- The channel moves on to its next block; when every channel has ended its pass, the pass is counted. -/
def scrubNext (s : State) (c : Nat) : State :=
  let n := mget 0 s.hv.scrubAt c + 1
  if n < chanBlocks then updHv s fun h => { h with scrubAt := mset 0 h.scrubAt c n }
  else
    let done := if s.hv.scrubDone.contains c then s.hv.scrubDone else s.hv.scrubDone ++ [c]
    let s1 := updHv s fun h => { h with scrubAt := mset 0 h.scrubAt c 0, scrubDone := done }
    if done.length = 256 then
      updHv (cnt s1 Reg.HV_SCRUB_STAT_PASSES) fun h => { h with scrubDone := [], scrubNs := nowNs s, passes := h.passes + 1 }
    else s1

/-- SCRUB_READ (R328): the next block in local order; one that fails twice is marked, unless a write has arrived since. -/
def execScrubRead (c : Fin 256) (tries : ReadTry) (written : Bool) (s : State) : Out :=
  .next (
    if !s.dram.committed || !bit s Reg.HV_SCRUB_CTL_EN 0 0 then s
    else
      let at0 := mget 0 s.hv.scrubAt c.val
      let b := blockAt s c.val at0
      let s0 := maxF s Reg.HV_SCRUB_STAT_BEHIND 0 0 (scrubDeficit s at0)
      let bad := (blockBad s b || tries = .fails) && !isWithheld s (64 * b)
      let r := readBlock s0 b tries 0 true
      let s1 := if bad && !written then addF (putBlock r.2.2 b r.1 true) Reg.MEM_CNT_SCRUB_MARK c.val 0 1 else r.2.2
      scrubNext s1 c.val)

end Sys2Proof.Machine
end

