-- ==== Sys2Proof/Machine/Rings.lean ====
section
/-! DEFINITION. Rings: enabling, doorbells, descriptor fetch and check, the order in which descriptors start, result records,
coalescing, port transmission (R64, R65, R77, R355 to R384). -/

namespace Sys2Proof.Machine

/-! ### Enabling (R355, R358, R383) -/

/-- A kind, format and entry size form a row of R355. -/
def rowOf355 (kind format esz : Nat) : Bool :=
  [(0, 0, 1), (0, 1, 0), (1, 0, 1), (1, 1, 1), (2, 0, 1), (3, 0, 1), (3, 1, 1), (3, 2, 1)].contains (kind, format, esz)

/-- A range lies in the general region of DRAM or in the host window. -/
def ringPlace (s : State) (a n : Nat) : Bool := inGeneral s a n || inHostWin s a n

/-- Causes for which an enable is refused, as the bits of `ERR`. -/
def ringRefusal (s : State) (r : Nat) : Nat :=
  let kind := getF s Reg.QM_RING_CFG_KIND r 0
  let base := getF s Reg.QM_RING_BASE r 0
  let wb := getF s Reg.QM_RING_WB r 0
  let cpl := getF s Reg.QM_RING_PAIR_CPL_RING r 0
  let res := getF s Reg.QM_RING_PAIR_RES_RING r 0
  b2n (!rowOf355 kind (getF s Reg.QM_RING_CFG_FORMAT r 0) (getF s Reg.QM_RING_CFG_ESZ r 0)) +
  2 * b2n (!(ringPlace s base (ringEntries s r * ringEsz s r) && ringPlace s wb 8)) +
  4 * b2n (bit s Reg.QM_RING_CFG_IRQ_EN r 0 && getF s Reg.QM_RING_CFG_VECTOR r 0 = 0) +
  8 * b2n (kind = 0 && (!(ringEn s cpl && ringIs s cpl 1 0) ||
    (bit s Reg.QM_RING_PAIR_RES_EN r 0 && !(ringEn s res && ringIs s res 2 0))))

/-- Write a ring's write-back word. -/
def writeBack (s : State) (r v : Nat) : State := devPut s (getF s Reg.QM_RING_WB r 0) (natLE 8 v)

/-- RING_ENABLE (R358): the register's other fields are stored as a register write stores them. -/
def execRingEnable (r : Fin 2097152) (data : BitVec 32) (s : State) : Out :=
  .next (
    if !answers s 0x601000 then s
    else if !ringAble s r.val then waitWindow s r.val
    else
      let s1 := storeOthers (useRing s r.val) 0x601000 r.val 0 data.toNat
      if ringEn s1 r.val then s1
      else if ringRefusal s1 r.val ≠ 0 then setF s1 Reg.QM_RING_STAT_ERR r.val 0 (ringRefusal s1 r.val)
      else
        let s2 := updRing (setF s1 Reg.QM_RING_CFG_EN r.val 0 1) r.val fun k =>
          { Ring.zero with cached := k.cached, reserved := k.reserved, waiting := k.waiting }
        flushRing (writeBack s2 r.val 0) r.val)

/-- RING_DISABLE (R358): nothing more is fetched or written; what has been fetched runs on. -/
def execRingDisable (r : Fin 2097152) (s : State) : Out :=
  .next (if !answers s 0x601000 then s else if !ringAble s r.val then waitWindow s r.val
    else setF (useRing s r.val) Reg.QM_RING_CFG_EN r.val 0 0)

/-- QM_ENABLE (R383): refused while the context table does not lie in the general region of DRAM. -/
def execQmEnable (data : BitVec 32) (s : State) : Out :=
  .next (
    if !answers s 0x600008 then s
    else
      let s1 := storeOthers s 0x600008 0 0 data.toNat
      if data.getLsbD 0 = false then setF s1 Reg.QM_CTL_EN 0 0 0
      else if inGeneral s1 (fld s1 Reg.QM_RCTX_BASE / 65536 * 65536) (128 * 2097152) then setF s1 Reg.QM_CTL_EN 0 0 1
      else setF s1 Reg.QM_CTL_CFG_ERR 0 0 1)

/-! ### The order of commands (R365 to R368) -/

/-- Class C commands, which are serial. -/
def classC (op : Nat) : Bool := [1, 2, 3, 4, 5, 8, 12].contains op

/-- The arguments from `i` on are 0: the byte offset of the first that is not. -/
def argsZero (d : Desc) (i : Nat) : Option Nat :=
  ((upto 6).filter fun k => i ≤ k && descArg d k ≠ 0).head?.map fun k => 16 + 8 * k

/-- Offset of a field that is out of range. -/
def ifBad (ok : Bool) (off : Nat) : Option Nat := if ok then none else some off

/-- The first offending field of a command descriptor (R365, R366): its byte offset. `PLAN` and `TEMPLATE` are 0 where the command does
not name them. -/
def badField (s : State) (d : Desc) : Option Nat :=
  let a := descArg d
  let planOk := ifBad (descPlan d ≠ 0) 4
  let own : Option Nat := match descOp d with
    | 0 => argsZero d 0
    | 1 => (ifBad (a 0 < 2 ^ 48 && (a 0 + a 1 ≤ dramTop || inHostWin s (a 0) (a 1))) 16).or (argsZero d 4)
    | 2 => planOk.or (argsZero d 0)
    | 3 => ((((planOk.or (ifBad (a 0 < 256) 16)).or (ifBad (a 1 < 2 ^ 21) 24)).or (ifBad (a 2 < 2 ^ 21) 32)).or
        (ifBad (a 3 < (if 32 ≤ a 0 % 64 then 2 ^ 21 else 1)) 40)).or (argsZero d 4)
    | 4 | 5 => (ifBad (a 0 < 64) 16).or (argsZero d 1)
    | 6 => (((ifBad (32 ≤ a 0 && a 0 < 64) 16).or (ifBad (a 1 < 2 ^ 48) 24)).or (ifBad (1 ≤ a 2 && a 2 < 65536) 32)).or
        ((ifBad (a 4 = 0 || a 4 + 16 * a 2 ≤ dramTop || inHostWin s (a 4) (16 * a 2)) 48).or (argsZero d 5))
    | 7 => planOk
    | 8 => argsZero d 1
    | 9 => ((planOk.or (ifBad (a 0 < 2 ^ 14) 16)).or
        (ifBad ((obj s (a 0)).alloc && (obj s (a 0)).plan = descPlan d) 16)).or (argsZero d 2)
    | 10 => ((planOk.or (ifBad (a 0 < 2 ^ 14) 16)).or
        (ifBad ((obj s (a 0)).alloc && (obj s (a 0)).plan = descPlan d && (obj s (a 0)).kind = 0) 16)).or (argsZero d 2)
    | 11 => ((ifBad (a 0 ≤ 3) 16).or (ifBad (match a 0 with | 0 => a 1 = 0 | 1 => a 1 < 64 | 2 => true | _ => a 1 < 256) 24)).or
        (argsZero d 2)
    | 12 => (ifBad (a 0 < 2 ^ 11) 16).or (argsZero d 1)
    | _ => none
  let names := [2, 3, 7, 9, 10].contains (descOp d)
  let unused := (names || descPlan d = 0) && (descOp d = 7 || descTmpl d = 0)
  ((ifBad (wordBits d.words 0 10 22 = 0) 0).or (ifBad (wordBits d.words 0 49 15 = 0 && unused) 4)).or own

/-- What is wrong with a command descriptor before anything of it runs: status and detail. -/
def descFault (s : State) (d : Desc) : Option (Nat × Nat) :=
  if d.poison then some (0x10, 0)
  else if 12 < descOp d then some (3, 0)
  else match badField s d with
    | some o => some (2, o)
    | none =>
      if descOp d = 7 then (jobOf s (hostId d.ring d.seq)).bind fun j => if j.state = .cancelled then some (1, j.cancelDetail) else none
      else none

/-- The next command of a ring that has not started. -/
def nextDesc (s : State) (r : Nat) : Option Desc :=
  if ringIs s r 0 0 then leastBy (fun a b => decide (a.seq < b.seq)) (s.descs.filter fun d => d.ring = r && !d.started) else none

/-- The command may start (R367, R368). -/
def mayStart (s : State) (d : Desc) : Bool :=
  let earlier := s.descs.filter fun e => e.ring = d.ring && e.seq < d.seq
  qmEn s && s.fm.phase ≠ .frost && (earlier.all fun e => !classC (descOp e) && descOp e ≠ 9) && (wordBits d.words 0 9 1 = 0 || earlier.isEmpty) &&
    ringEn s d.cplRing && ringIs s d.cplRing 1 0 && 1 ≤ ringRoom s d.cplRing

/-- Change a descriptor in the buffer. -/
def updDesc (s : State) (d : Desc) (f : Desc → Desc) : State :=
  { s with descs := s.descs.map fun e => if sameDesc e d then f e else e }

/-- Start a command: an entry of its completion ring is reserved. -/
def startDesc (s : State) (d : Desc) : State × Desc :=
  let e := { d with started := true, reserved := true }
  (updRing (updDesc s d fun _ => e) d.cplRing fun k => { k with reserved := k.reserved + 1 }, e)

/-- Complete a command that only reports what is wrong with it; a job cancelled before its descriptor started goes with it, and a
JOB_CANCEL that waited for this completes (R369). -/
def refuseDesc (s : State) (d : Desc) (f : Nat × Nat) : State :=
  let p := startDesc s d
  let s1 := complete p.1 p.2 f.1 f.2 0 0
  if descOp d = 7 then drainPass (dropJob s1 (hostId d.ring d.seq)) else s1

/-- Complete the commands of a ring that can only report what is wrong with them, as far as the order of R367 lets them
start. -/
def faultPass (s : State) (r : Nat) : State :=
  thread (fun (s' : State) _ =>
    match nextDesc s' r with
    | none => s'
    | some d => match descFault s' d with
      | none => s'
      | some f => if mayStart s' d then refuseDesc s' d f else s') s
    (s.descs.filter fun d => d.ring = r)

/-- The next command of a ring starts if it has the opcode: the state with it started, and the command. -/
def takeDesc (s : State) (r op : Nat) : State × Option Desc :=
  let s1 := faultPass s r
  match nextDesc s1 r with
  | none => (s1, none)
  | some d => if descOp d = op && mayStart s1 d then let p := startDesc s1 d; (p.1, some p.2) else (s1, none)

/-- The meaning of a command's row: the next command of the ring starts and `f` says what it does. -/
def onDesc (s : State) (r op : Nat) (f : State → Desc → State) : State :=
  match takeDesc s r op with
  | (s1, some d) => faultPass (f s1 d) r
  | (s1, none) => s1

/-- Submit rings that have descriptors in the buffer. -/
def busyRings (s : State) : List Nat := (s.descs.map fun d => d.ring).eraseDups

/-! ### Doorbells (R345, R360 to R362, R382) -/

/-- Why a doorbell is rejected: 1 ring field, 2 disabled, 3 index. -/
def doorbellFault (s : State) (r v : Nat) : Option Nat :=
  let k := ring s r
  let d := ahead (mod32 v) k.head
  let t := ahead k.tail k.head
  if bitsOf v 40 21 ≠ r || bitsOf v 33 7 ≠ 0 || bitsOf v 61 3 ≠ 0 then some 1
  else if !ringEn s r then some 2
  else if mod32 v = (if getF s Reg.QM_RING_CFG_KIND r 0 = 0 then k.tail else k.head) then none
  else if getF s Reg.QM_RING_CFG_KIND r 0 = 0 then (if ringEntries s r < d || d < t then some 3 else none)
  else if t < d then some 3 else none

/-- Arm a device-written ring (R382). -/
def armRing (s : State) (r : Nat) : State :=
  let p := ahead (ring s r).tail (ring s r).head
  let s1 := updRing s r fun k =>
    { k with armed := true, pend := p, timer := if p ≠ 0 then some (nowNs s) else none }
  ringDue s1 r

/-- A doorbell that has reached the queue manager, for a ring whose context is cached or can be loaded. What it releases on a
device-written ring goes to the records and the commands that wait for it. -/
def ringDoorbell (s0 : State) (r v : Nat) : State :=
  let s := useRing s0 r
  match doorbellFault s r v with
  | some f =>
    let s1 := setF (cnt s Reg.QM_CNT_DB_REJ) Reg.QM_RING_STAT_DB_REJ r 0 1
    evSet (postEvent s1 (fld s Reg.QM_CTL_EVT_RING) 0x40 0 r [v, f]) 768
  | none =>
    let s1 := cnt s Reg.QM_CNT_DB
    if getF s Reg.QM_RING_CFG_KIND r 0 = 0 then updRing s1 r fun k => { k with tail := mod32 v }
    else
      let s2 := updRing s1 r fun k => { k with head := mod32 v }
      let s3 := if bitsOf v 32 1 = 1 then armRing s2 r else s2
      let s4 := drainPass (flushRing s3 r)
      thread faultPass s4 (busyRings s4)

/-- DOORBELL: a write to BAR2. -/
def execDoorbell (off size : Nat) (data : Word) (s : State) : Out :=
  .next (
    if !ready s || !hostThere s || s.hl.d3 || 2 ^ 24 ≤ off then s
    else if size ≠ 8 || off % 8 ≠ 0 then cnt s Reg.HL_CNT_DB_BAD
    else if !ringAble s (off / 8) || s.hl.dbWait.any fun w => w.1 = off / 8 then
      updHl s fun h => { h with dbWait := h.dbWait ++ [(off / 8, some data.toNat)] }
    else ringDoorbell s (off / 8) data.toNat)

/-- What waits for a ring's context goes on: the oldest doorbell or window access, and the records of each ring (R359). -/
def cachePass (s : State) : State :=
  let s1 := match s.hl.dbWait with
    | [] => s
    | (r, v) :: rest =>
      if !ringAble s r then s
      else
        let t := updHl s fun h => { h with dbWait := rest }
        match v with
        | none => useRing t r
        | some n => ringDoorbell t r n
  thread flushRing s1 ((s1.rings.filter fun e => !e.2.waiting.isEmpty).map (·.1))

/-! ### Fetching and checking (R363, R364) -/

/-- Descriptors in the buffer, those on their way included. -/
def buffered (s : State) : Nat := s.descs.length + (s.bursts.map fun b => b.descs.length).sum

/-- Entries of the next burst of a ring. -/
def burstLen (s : State) (r : Nat) : Nat :=
  let n := ringEntries s r
  min 32 (min (ahead (ring s r).tail (ring s r).head) (n - (ring s r).head % n))

/-- First byte and length of the host requests of a burst: none for a ring in DRAM (R347). -/
def burstPieces (s : State) (a n : Nat) : List (Nat × Nat) :=
  match region s a with
  | .host x =>
    (chunks s.hl.mrrs n (hostAddr s x) (zeros n)).map fun p => (p.1 - hostAddr s x, p.2.length)
  | _ => []

/-- The host requests that the next burst of a ring takes. -/
def burstReads (s : State) (r : Nat) : List (Nat × Nat) :=
  burstPieces s (getF s Reg.QM_RING_BASE r 0 + (ring s r).head % ringEntries s r * ringEsz s r) (burstLen s r * ringEsz s r)

/-- DRAM blocks that bursts of DRAM rings are fetching. -/
def blocksFetched (s : State) : Nat :=
  ((s.bursts.filter fun b => b.tags.isEmpty).map fun b => (b.descs.map fun d => d.1.length).sum / 64).sum

/-- The queue manager holds at most 1,024 DRAM transactions, those of the ring's next burst included (R12). -/
def blocksRoom (s : State) (r : Nat) : Bool :=
  !(burstReads s r).isEmpty || blocksFetched s + burstLen s r * ringEsz s r / 64 ≤ 1024

/-- A ring has descriptors that the buffer has room for. -/
def fetchWanted (s : State) (r : Nat) : Bool :=
  ringEn s r && getF s Reg.QM_RING_CFG_KIND r 0 = 0 && (ring s r).tail ≠ (ring s r).head &&
    !(s.bursts.any fun b => b.ring = r) && buffered s + burstLen s r ≤ 4096 && blocksRoom s r

/-- A use of a ring's context waits for its load (R359). -/
def cacheWaits (s : State) : Bool :=
  !s.hl.dbWait.isEmpty || (s.rings.any fun e => !ringAble s e.1 && (!e.2.waiting.isEmpty || (qmEn s && fetchWanted s e.1))) ||
    s.stage.any fun k => !ringAble s k.ring

/-- The ring may be fetched now. -/
def fetchable (s : State) (r : Nat) : Bool :=
  fetchWanted s r && ringAble s r && ((burstReads s r).isEmpty || (busMaster s && npRoom s (burstReads s r).length))

/-- The queue manager wants to read descriptors from the host. -/
def wantsFetch (s : State) : Bool := qmEn s && s.rings.any fun e => fetchWanted s e.1 && !(burstReads s e.1).isEmpty

/-- The ring served next: by priority, then round-robin by ring number. -/
def fetchPick (s : State) : Option Nat :=
  let able := (s.rings.map (·.1)).filter (fetchable s)
  let prio := fun (r : Nat) => getF s Reg.QM_RING_CFG_PRIO r 0
  let turn := fun (r : Nat) => (r + 2 ^ 21 - 1 - mget 0 s.fetchPtr (prio r)) % 2 ^ 21
  leastBy (fun a b => decide (prio a < prio b) || (prio a = prio b && decide (turn a < turn b))) able

/-- Issue the host reads of a burst. -/
def issueBurst (s : State) (ps : List (Nat × Nat)) : State × List (Nat × Nat × Nat) :=
  thread (fun (acc : State × List (Nat × Nat × Nat)) p =>
    let q := npIssue acc.1 .queueManager
    (q.1, acc.2 ++ [(q.2, p.1, p.2)])) (s, []) ps

/-- DESCRIPTOR_FETCH. -/
def execDescriptorFetch (s : State) : Out :=
  .next (
    if !qmEn s then s
    else match fetchPick s with
      | none => s
      | some r =>
        let e := ringEsz s r
        let n := burstLen s r
        let a := getF s Reg.QM_RING_BASE r 0 + (ring s r).head % ringEntries s r * e
        let q := issueBurst (useRing s r) (burstPieces s a (n * e))
        let got := devRead q.1 a (n * e) .clean 0
        let ds := (upto n).map fun i =>
          let part := (got.1.drop (i * e)).take e
          (part.map (·.1), part.any (·.2))
        let s1 := cnt { got.2 with bursts := got.2.bursts ++ [{ ring := r, descs := ds, tags := q.2 }] } Reg.QM_CNT_BURSTS
        { s1 with fetchPtr := mset 0 s1.fetchPtr (getF s Reg.QM_RING_CFG_PRIO r 0) r })

/-- DESCRIPTOR_BURST_CHECK: the oldest burst has returned, with host errors in the descriptors listed. -/
def execDescriptorBurstCheck (hostErrors : List Nat) (s : State) : Out :=
  .next (match s.bursts with
    | [] => s
    | b :: rest =>
      let s0 := thread npReturn { s with bursts := rest } (b.tags.map (·.1))
      let cpl := getF s Reg.QM_RING_PAIR_CPL_RING b.ring 0
      let s1 := thread (fun (s' : State) (p : Nat × (List Byte × Bool)) =>
        let d : Desc := { ring := b.ring, seq := (ring s' b.ring).seq, words := toWords (p.2.1.length / 8) p.2.1,
                          poison := p.2.2 || (!b.tags.isEmpty && hostErrors.contains p.1), started := false, reserved := false,
                          cplRing := cpl }
        let s2 := if ringIs s' b.ring 0 0 && descOp d = 7 && (descFault s' d).isNone then addJob s' (hostJob s' d) else s'
        updRing { s2 with descs := s2.descs ++ [d] } b.ring fun k =>
          { k with seq := (k.seq + 1) % 2 ^ 39, head := mod32 (k.head + 1) })
        s0 ((upto b.descs.length).zip b.descs)
      faultPass (writeBack s1 b.ring (ring s1 b.ring).head) b.ring)

/-! ### Result records (R375, R376) -/

/-- Least order number of a template's instances that a bound stream has not created yet (R34, R374): they are created in
row-then-segment order. -/
def nextOrder (k : Stream) (t : Template) : Nat :=
  let n := nSegs k
  let r := k.announcedTo / n
  let g := (k.announcedTo % n + t.bandSegs - 1) / t.bandSegs * t.bandSegs
  let pos := if t.kind = 2 then
      (if r % t.bandRows = 0 && decide (g < n) then (r + t.bandRows - 1, g) else ((r / t.bandRows + 2) * t.bandRows - 1, 0))
    else (r, k.announcedTo % n)
  pos.1 * 2 ^ 24 + pos.2 * 2 ^ 19 + t.index * 2 ^ 10

/-- A stream's jobs that are still to be created can produce a lower order number (R23, R375). -/
def lowerToCome (s : State) (k : StageRec) : Bool :=
  s.streams.any fun e => e.2.bound && k.key = stageKey false e.1 0 && (templates s e.2.plan).any fun t =>
    t.emits && (t.kind = 1 || t.kind = 2) && decide (nextOrder e.2 t < k.order.toNat)

/-- A lower order number can still appear for a key: from a job that has not retired or is still to be created, or from a token
without its answer. -/
def lowerPending (s : State) (k : StageRec) : Bool :=
  lowerToCome s k ||
  (s.jobs.any fun j => !jobPast j && j.kind ≠ .expert &&
    k.key = stageKey (j.kind = .host) (emitStream j) j.ring &&
    ((tmplOf s j).elim false fun t => t.emits) && decide (emitOrder s { j with emits := 0 } < k.order.toNat)) ||
  (s.pm.tokens.any fun t => t.key = k.key && decide (bytesNat t.bytes 0 8 < k.order.toNat)) ||
  s.stage.any fun e => e.key = k.key && decide (e.order.toNat < k.order.toNat)

/-- Read a spilled record back from the record area. -/
def unspill (s : State) (k : StageRec) : State := (devRead s (recordAddr s k.plan k.slot) 64 .clean 0).2

/-- Take a record out of the stage; the oldest spilled record takes a place on chip that falls free. -/
def unstage (s : State) (k : StageRec) : State :=
  let rest := s.stage.erase k
  if k.spilled then creditPass { unspill s k with stage := rest }
  else match rest.find? fun e => e.spilled with
    | some e => creditPass { unspill s e with stage := rest.map fun q => if q = e then { q with spilled := false } else q }
    | none => creditPass { s with stage := rest }

/-- RESULT_RECORD_WRITE: the ring's staged record that nothing lower precedes is written, or discarded where the ring is of
another kind. -/
def execResultRecordWrite (r : Fin 2097152) (s : State) : Out :=
  .next (match s.stage.find? fun k => k.ring = r.val && !lowerPending s k with
    | none => s
    | some k =>
      if !qmEn s then s
      else if !ringIs s r.val 2 0 then cnt (unstage s k) Reg.QM_CNT_MISROUTE
      else if !ringEn s r.val || !ringAble s r.val || ringRoom s r.val < 1 then s
      else cnt (ringWrite (unstage s k) r.val [k.bytes]) Reg.QM_CNT_RESULTS)

/-- COALESCE_TIMER (R381): the running timer of an armed ring expires; with `US` = 0 none runs. -/
def execCoalesceTimer (r : Fin 2097152) (s : State) : Out :=
  let k := ring s r.val
  let us := getF s Reg.QM_RING_COAL_US r.val 0
  let due := us ≠ 0 && k.timer.elim false fun t => decide (t + 1000 * us ≤ nowNs s)
  .next (if due && k.armed && 0 < k.pend && bit s Reg.QM_RING_CFG_IRQ_EN r.val 0 then sendRing s r.val else s)

/-! ### Port transmission (R64, R65, R77) -/

/-- Sum of the big-endian 16-bit words of bytes. -/
def sum16 : List Byte → Nat
  | a :: b :: rest => 256 * a.toNat + b.toNat + sum16 rest
  | [a] => 256 * a.toNat
  | [] => 0

/-- The internet checksum. -/
def inetSum (n : Nat) : Nat :=
  let f := fun (v : Nat) => v % 65536 + v / 65536
  65535 - f (f (f n))

/-- `n` big-endian bytes of a value. -/
def natBE (n v : Nat) : List Byte := (natLE n v).reverse

def putBytes (bs : List Byte) (o : Nat) (v : List Byte) : List Byte := bs.take o ++ v ++ bs.drop (o + v.length)

/-- Offset of the IPv4 header of a frame, past a VLAN tag. -/
def ipOffset (bs : List Byte) : Option Nat :=
  let w := fun (o : Nat) => 256 * (bs.getD o 0).toNat + (bs.getD (o + 1) 0).toNat
  if w 12 = 0x0800 then some 14 else if w 12 = 0x8100 && w 16 = 0x0800 then some 18 else none

/-- The UDP checksum of a frame written afresh. -/
def udpChecked (bs : List Byte) (ip : Nat) : List Byte :=
  let hl := (bs.getD ip 0).toNat % 16 * 4
  let u := ip + hl
  if (bs.getD (ip + 9) 0).toNat ≠ 17 then bs
  else
    let z := putBytes bs (u + 6) [0, 0]
    let n := 256 * (bs.getD (u + 4) 0).toNat + (bs.getD (u + 5) 0).toNat
    let c := inetSum (sum16 ((z.drop (ip + 12)).take 8) + 17 + n + sum16 ((z.drop u).take n))
    putBytes z (u + 6) (natBE 2 (if c = 0 then 65535 else c))

/-- The IPv4 and UDP checksums of a frame (`CSUM`). -/
def checked (bs : List Byte) : List Byte :=
  match ipOffset bs with
  | none => bs
  | some ip =>
    let z := putBytes bs (ip + 10) [0, 0]
    udpChecked (putBytes z (ip + 10) (natBE 2 (inetSum (sum16 ((z.drop ip).take ((bs.getD ip 0).toNat % 16 * 4)))))) ip

/-- A PTP timestamp: 48 bits of seconds and 32 bits of nanoseconds, most significant byte first. -/
def ptpStamp (ns : Nat) : List Byte := natBE 6 (ns / 1000000000) ++ natBE 4 (ns % 1000000000)

/-- A frame as it leaves the port. -/
def txFrame (d : Desc) (bs : List Byte) (stamp : Nat) : List Byte :=
  let b1 := if wordBits d.words 0 16 1 = 1 then
      let w := putBytes bs (wordBits d.words 0 32 16) (ptpStamp stamp)
      (ipOffset w).elim w (udpChecked w)
    else bs
  if wordBits d.words 0 19 1 = 1 then checked b1 else b1

/-- The first offending field of a transmit descriptor: reserved fields, then R65. -/
def txBadField (cxp : Bool) (d : Desc) : Option Nat :=
  let len := wordBits d.words 0 0 16
  let flag := wordBits d.words 0 18 1 = 1
  let ok := if cxp then flag && len % 4 = 0 && 4 ≤ len && len ≤ 1024 else !flag && 60 ≤ len && len ≤ 9596
  (((ifBad (ok && wordBits d.words 0 20 12 = 0) 0).or (ifBad (wordBits d.words 0 48 16 = 0) 4)).or
    (ifBad (wordBits d.words 3 0 64 = 0) 24))

/-- A descriptor of an idle port would read its data from the host. -/
def txWants (s : State) (l : Nat) : Bool :=
  portOn s l && (port s l).txBusy.isNone && (txReady s l).any fun d => !d.poison && (txBadField (portMode s l = 3) d).isNone

/-- Send a descriptor: one that is refused completes at once; one whose data cannot be read waits (R339, R352). -/
def txSend (s : State) (l : Nat) (d : Desc) : State :=
  let p := startDesc s d
  let cxp := portMode s l = 3
  if d.poison then completeAs p.1 p.2 0xF0 false 0x10 0 0 0
  else match txBadField cxp d with
    | some o => completeAs p.1 p.2 0xF0 false 2 o 0 0
    | none => if !hostOpen s then s else
      let stamp := (nowNs s + getF s Reg.SP_TS_ADJ_TX_LAT l 0) % 2 ^ 64
      let bs := rdBytes 0 s.hostMem (wordBits d.words 1 0 64) (wordBits d.words 0 0 16)
      let out : TxSent := if cxp then .control bs else .frame (txFrame d bs stamp) (if txStamped d then some stamp else none)
      updPort p.1 l fun k =>
        { k with sent := k.sent ++ [out],
                 txBusy := some { ring := d.ring, seq := d.seq, stampNs := if wordBits d.words 0 17 1 = 1 then stamp else 0 } }

/-- PORT_TRANSMIT: stamped frames first, then resend requests (on CoaXPress, trigger packets), then other frames. -/
def execPortTransmit (p : Fin 32) (s : State) : Out :=
  let l := leadOf s p.val
  .next (
    if !portOn s l || (port s l).txBusy.isSome then s
    else
      let ds := txReady s l
      let first := if portMode s l = 3 then none else ds.find? fun d => txStamped d && !d.poison
      match first, (port s l).txq, ds.head? with
      | some d, _, _ => txSend s l d
      | none, i :: rest, _ => updPort s l fun k => { k with txq := rest, sent := k.sent ++ [.item i] }
      | none, [], some d => txSend s l d
      | none, [], none => s)

/-- The completion of the transmit descriptor under way. -/
def txComplete (s : State) (b : TxBusy) : State :=
  match descOf s b.ring b.seq with
  | some d => completeAs s d 0xF0 false 0 0 b.stampNs 0
  | none => s

/-- PORT_TRANSMIT_COMPLETE: the frame has left; what waited behind it goes out unless a stamped frame is next. -/
def execPortTransmitComplete (p : Fin 32) (s : State) : Out :=
  let l := leadOf s p.val
  .next (match (port s l).txBusy with
    | none => s
    | some b =>
      let s1 := txComplete (updPort s l fun k => { k with txBusy := none }) b
      if portMode s l ≠ 3 && (txReady s1 l).any txStamped then s1
      else updPort s1 l fun k => { k with sent := k.sent ++ k.txq.map fun i => .item i, txq := [] })

end Sys2Proof.Machine
end

