-- ==== Sys2Proof/Machine/Commands.lean ====
section
/-! DEFINITION. The commands of R366, one row each: the next command of the ring starts if it is this one, in the order of R367. -/

namespace Sys2Proof.Machine

/-- NOP. -/
def execNop (r : Fin 2097152) (s : State) : Out := .next (onDesc s r.val 0 fun s' d => complete s' d 0 0 0 0)

/-! ### PLAN_LOAD (R366, R475, R524) -/

/-- Status 1 to 3 of R477 for the envelope of an image at `a`, `n` bytes; one whose read timed out cannot be read. -/
def envelopeFault (s : State) (a n : Nat) (c : Crypto) (readFailed : Bool) : Option Nat :=
  let got := (devRead s a 256 .clean 0).1
  let bs := got.map (·.1)
  let zero := fun (o m : Nat) => ((bs.drop o).take m).all fun x => x = 0
  if n < 256 || (got.any (·.2)) || readFailed || leNat (bs.take 4) ≠ 0x31505850 || !zero 4 4 || leNat ((bs.drop 8).take 8) ≠ n || !zero 208 48 then
    some 1
  else if !c.keyOk then some 2
  else if !c.sigOk then some 3
  else none

/-- Bytes of the trails of a plan's DRIFT operators: 64 entries of 32 bytes for each stream and operator (R242). -/
def trailBytes (im : PlanImage) : Nat := ((opTable im).filter fun o => o.mode = 3).length * 64 * (64 * 32)

/-- Bytes the model lays out in a plan's region (log 20, log 26). -/
def regionBytes (im : PlanImage) (len : Nat) : Nat :=
  max im.regionNeeded ((len + 63) / 64 * 64 + im.recordArea + trailBytes im +
    (if im.experts = 0 then 0 else 4096 * 1152 + im.experts * 64 * 4096))

/-- `n` free objects: the first free run of them, or the lowest where they are scattered; none when too few are free. -/
def freeObjs (s : State) (n : Nat) : Option (List Nat) :=
  let ends := 0 :: (s.objs.filter fun e => e.2.alloc).map fun e => e.1 + 1
  match leastBy (fun a b => decide (a < b))
    (ends.filter fun o => decide (o + n ≤ 16384) && !(s.objs.any fun e => e.2.alloc && decide (o ≤ e.1) && decide (e.1 < o + n))) with
  | some o => some ((upto n).map fun i => o + i)
  | none =>
    let l := (upto 16384).filter fun i => !(obj s i).alloc
    if l.length < n then none else some (l.take n)

/-- Slots in use and room for a plan's queues under numbers of their own (R281). -/
def queueRoom (s : State) (im : PlanImage) : Bool :=
  (s.queues.map fun e => if e.2.alloc then e.2.decl.depth else 0).sum + ((queueDecls im).map (·.depth)).sum ≤ 65536 &&
  (queueDecls im).all fun q => !(queue s q.queue).alloc

/-- The failure of a load, in the order of R524. -/
def loadFault (s : State) (d : Desc) (c : Crypto) (im : PlanImage) : Option (Nat × Nat) :=
  let n := descArg d 1
  if !inGeneral s (descArg d 2) (descArg d 3) then some (2, 32)
  else match envelopeFault s (descArg d 0) n c (s.hl.failed.contains (.planLoad d.ring)) with
    | some f => some (9, f)
    | none =>
      if (upto 255).all fun p => (plan s (p + 1)).loaded then some (7, 5)
      else match badShape im with
        | some i => some (5, i)
        | none => match badPlan im with
          | some t => some (4, t)
          | none =>
            if s.grid.enabled < im.tilesNeeded then some (0xA, im.tilesNeeded)
            else if descArg d 3 < regionBytes im n then some (7, 4)
            else if (freeObjs s im.objects.length).isNone then some (7, 2)
            else if !queueRoom s im then some (7, 3)
            else none

/-- Lowest free plan id. -/
def freePlan (s : State) : Nat := (((upto 255).map (· + 1)).find? fun p => !(plan s p).loaded).getD 0

/-- The plan's objects, of the numbers given, with their kinds and initial values. -/
def allocObjs (s : State) (p : Nat) (os : List Nat) (l : List (Nat × Nat)) : State :=
  thread (fun s' (e : Nat × (Nat × Nat)) => updObj s' e.1 fun _ =>
    { alloc := true, plan := p, kind := e.2.1, init := BitVec.ofNat 64 e.2.2, count := BitVec.ofNat 64 e.2.2, owner := none })
    s (os.zip l)

/-- The plan's queues; a HALO queue names its object among the plan's, and a slot buffer in DRAM has a device address. -/
def allocQueues (s : State) (p : Nat) (os : List Nat) (l : List QueueDecl) : State :=
  thread (fun s' (q : QueueDecl) => updQueue s' q.queue fun _ =>
    { Queue.free with alloc := true, plan := p, decl := { q with sync := if q.kind = 2 then os.getD q.sync 0 else q.sync } }) s l

/-- A standing transfer takes the first free context of an enabled engine, or else of an engine that may be enabled later (R290). -/
def armStanding (s : State) (p addr : Nat) : State :=
  let free := fun (i : Nat) => (sctx s (i / 64) (i % 64)).state = .free
  match ((upto 2048).find? fun i => seEn s (i / 64) && free i).or ((upto 2048).find? fun i => free i) with
  | some i => armSctx s (i / 64) (i % 64) (.plan p) 0 addr
  | none => s

/-- A plan that passes its checks is copied to its region and given its objects, queues and standing transfers. -/
def loadPlan (s : State) (d : Desc) (im : PlanImage) : State :=
  let p := freePlan s
  let n := descArg d 1
  let base := descArg d 2
  let os := (freeObjs s im.objects.length).getD []
  let got := devRead s (descArg d 0) n .clean 0
  let s1 := devWrite got.2 base got.1 .clean 0
  let bs := got.1.map (·.1)
  let s1 := updSec s1 fun k => { k with planDigests := k.planDigests ++ [(p, Config.sha384 (bs.take 112 ++ bs.drop 256))] }
  let s2 := updPlan s1 p fun _ =>
    { Plan.none with loaded := true, image := im, base := base, size := descArg d 3, length := n, used := regionBytes im n,
                     objs := os }
  let s3 := allocQueues (allocObjs s2 p os im.objects) p os (queueDecls im)
  complete (thread (fun s' a => armStanding s' p (base + a)) s3 im.standing) d 0 0 p 0

/-- The ring's next command is a PLAN_LOAD that would read its image from the host. -/
def planReads (s : State) (r : Nat) : Bool :=
  (nextDesc s r).elim false fun d => descOp d = 1 && isHostAddr s (descArg d 0) && (descFault s d).isNone && mayStart s d

/-- PLAN_LOAD: it waits while it cannot read its image (R339, R352). -/
def execPlanLoad (r : Fin 2097152) (c : Crypto) (im : PlanImage) (s : State) : Out :=
  let s0 := faultPass s r.val
  .next (if planReads s0 r.val && !hostOpen s0 then s0
    else onDesc s0 r.val 1 fun s' d =>
      let s1 := clearFailed s' (.planLoad r.val)
      match loadFault s' d c im with
      | some f => complete s1 d f.1 f.2 0 0
      | none => loadPlan s1 d im)

/-! ### Unbinding and unloading (R28, R31, R45) -/

/-- Started feeds of a stream, oldest first. -/
def feedsOf (s : State) (x : Nat) : List Desc := s.descs.filter fun d => d.started && descOp d = 6 && descArg d 0 % 64 = x

/-- Begin to unbind a stream: it is flushed, its feeds and its jobs are cancelled. -/
def unbind (s : State) (x : Nat) : State :=
  let s1 := flushStream s x
  let s2 := thread (fun s' d => complete s' d 1 1 0 0) s1 (feedsOf s1 x)
  let s3 := updStream s2 x fun k => { k with bound := false, closing := true, feed := none }
  thread (fun s' (j : Job) => if streamJob j && idStream j.id = x then cancelJob s' j.id 1 else s') s3 s3.jobs

/-- A stream is bound. -/
def isBound (s : State) (x : Nat) : Bool := (stream s x).bound

/-- STREAM_UNBIND: completes when the stream's jobs have drained. -/
def execStreamUnbind (r : Fin 2097152) (s : State) : Out :=
  .next (onDesc s r.val 4 fun s' d =>
    if isBound s' (descArg d 0 % 64) then settle (drainPass (unbind s' (descArg d 0 % 64))) else complete s' d 0xB 0 0 0)

/-- Cancel the contexts that a plan holds. -/
def cancelPlanSctx (s : State) (p : Nat) : State :=
  thread (fun s' (e : Nat × SCtx) => if e.2.holder = .plan p then cancelSctx s' (e.1 / 64) (e.1 % 64) false else s') s s.sctx

/-- Begin to unload a plan: its streams are unbound, its jobs and standing transfers cancelled. -/
def unload (s : State) (p : Nat) : State :=
  let s1 := thread (fun s' (e : Nat × Stream) => if e.2.bound && e.2.plan = p then unbind s' e.1 else s') s s.streams
  let s2 := thread (fun s' (j : Job) => if j.plan = p && j.submitted then cancelJob s' j.id 1 else s') s1 s1.jobs
  updPlan (cancelPlanSctx s2 p) p fun k => { k with unloading := true }

/-- The plan is loaded and not being unloaded. -/
def planHere (s : State) (p : Nat) : Bool := (plan s p).loaded && !(plan s p).unloading

/-- PLAN_UNLOAD: completes when everything of the plan has drained. -/
def execPlanUnload (r : Fin 2097152) (s : State) : Out :=
  .next (onDesc s r.val 2 fun s' d =>
    if planHere s' (descPlan d) then settle (drainPass (unload s' (descPlan d))) else complete s' d 0xB 0 0 0)

/-! ### STREAM_BIND (R25, R99, R101, R111, R245, R366, R524) -/

/-- The geometry that the stream's registers hold. -/
def geometry (s : State) (x : Nat) : Stream :=
  { Stream.unbound with
    w := getF s Reg.IG_STREAM_FMT_WIDTH 0 x, seg := getF s Reg.IG_STREAM_GEOM_SEG 0 x,
    h := 16 * 2 ^ getF s Reg.IG_STREAM_GEOM_HCODE 0 x, epochLen := 1024 * (getF s Reg.IG_STREAM_GEOM_EPOCH_K 0 x + 1),
    fmt := { bits := getF s Reg.IG_STREAM_FMT_BITS 0 x, packed := bit s Reg.IG_STREAM_FMT_PACKED 0 x,
             bayer := getF s Reg.IG_STREAM_FMT_BAYER 0 x } }

/-- R25 and R99 hold. -/
def geometryOk (k : Stream) : Bool :=
  256 ≤ k.w && k.w ≤ 32768 && 256 ≤ k.seg && k.seg ≤ 4096 && k.seg % 64 = 0 && nSegs k ≤ 32 &&
  256 ≤ k.w - (nSegs k - 1) * k.seg && k.h ≤ 512 && k.epochLen ≤ 1048576 && [8, 10, 12, 14, 16].contains k.fmt.bits && k.fmt.bayer ≤ 4

/-- The blocks of R101. -/
def reserveOf (k : Stream) : Nat := 2 * k.h * lineBlocks k

def isFirst (t : Template) : Bool := match t.engine with | .first _ => true | _ => false

/-- An enabled engine serves the stream. -/
def served (s : State) (x : Nat) : Bool := (upto 32).any fun b => beEn s b && getF s Reg.BE_CTL_STREAM b 0 = x

/-- The failure of a binding, in the order of R524. -/
def bindFault (s : State) (d : Desc) : Option (Nat × Nat) :=
  let x := descArg d 0 % 64
  let k := geometry s x
  if !planHere s (descPlan d) then some (0xB, 0)
  else if (stream s x).bound || (stream s x).closing then some (0xC, 0)
  else if !ringIs s (descArg d 1) 2 0 then some (0xE, 1)
  else if !ringIs s (descArg d 2) 3 0 then some (0xE, 2)
  else if 32 ≤ x && !ringIs s (descArg d 3) 0 0 then some (0xE, 3)
  else if !geometryOk k then some (6, 0)
  else match badShapeAt (plan s (descPlan d)).image k.w k.seg k.h with
    | some i => some (5, i)
    | none =>
      if ((templates s (descPlan d)).any fun t => isFirst t && t.kind ≤ 2) && !served s x then some (8, 0)
      else if 262144 < reserves s + reserveOf k then some (7, 1)
      else none

/-- Bind a stream at line 0 and epoch 0; its trails start with `D0`. -/
def bindStream (s : State) (d : Desc) : State :=
  let x := descArg d 0 % 64
  let k := geometry s x
  let p := descPlan d
  let ops := ((templates s p).flatMap fun t => if t.kind ≤ 2 then driftOps (plan s p).image t else []).eraseDups
  let s1 := updStream s x fun _ =>
    { k with bound := true, plan := p, prio := descArg d 0 / 64 % 4, resultRing := descArg d 1, eventRing := descArg d 2,
             feedRing := descArg d 3, reserve := reserveOf k }
  let s2 := updLink (updPstream s1 x fun _ => { PortStream.zero with lastPacketNs := nowNs s }) x fun k => { k with aligns := [0] }
  complete { s2 with drifts := s2.drifts ++ ops.map fun o => { stream := x, op := o, deltas := [], stats := [] } } d 0 0 0 0

/-- STREAM_BIND. -/
def execStreamBind (r : Fin 2097152) (s : State) : Out :=
  .next (onDesc s r.val 3 fun s' d =>
    match bindFault s' d with
    | some f => complete s' d f.1 f.2 0 0
    | none => bindStream s' d)

/-- STREAM_FLUSH (R28). -/
def execStreamFlush (r : Fin 2097152) (s : State) : Out :=
  .next (onDesc s r.val 5 fun s' d =>
    let x := descArg d 0 % 64
    if isBound s' x then
      let s1 := settle (flushStream s' x)
      complete s1 d 0 0 (stream s1 x).nextLine 0
    else complete s' d 0xB 0 0 0)

/-! ### Host feeds (R95, R100, R102, R103, R366) -/

/-- What the stamp table of a feed gives its line `i`; none without a table (R95). -/
def feedStamp (s : State) (d : Desc) (i : Nat) : Option (Nat × Word) :=
  if descArg d 4 = 0 then none
  else
    let b := devGet s (descArg d 4 + 16 * i) 16
    some (leNat (b.take 8), BitVec.ofNat 64 (leNat (b.drop 8)))

/-- Line `i` of a feed is assembled at the stream's next line slot. -/
def feedLine (s : State) (x : Nat) (d : Desc) (i : Nat) : State :=
  let k := stream s x
  let n := k.nextLine
  let lb := lineBytes k
  let got := devRead s ((descArg d 1 + i * descArg d 3) % 2 ^ 48) lb .clean 0
  let s1 := openSlots (reachLine got.2 x n) x n (nowNs s)
  let s2 := putLine s1 x n { lineOf s1 x n with data := (upto lb).zip (got.1.map (·.1)), placed := lb, blocks := lineBlocks k }
  completeLine (maxF s2 Reg.IG_SRAM_HWM 0 0 (sramUsed s2)) x n (feedStamp s d i)

/-- Line `i` of a feed, or its stamp, is read from the host. -/
def feedReads (s : State) (d : Desc) (i : Nat) : Bool :=
  isHostAddr s ((descArg d 1 + i * descArg d 3) % 2 ^ 48) || (descArg d 4 ≠ 0 && isHostAddr s (descArg d 4 + 16 * i))

/-- The next line of a stream's oldest feed would be read from the host. -/
def feedWants (s : State) (x : Nat) : Bool :=
  igEn s && isBound s x && (feedsOf s x).head?.elim false fun d =>
    feedReads s d (((stream s x).feed).elim 0 (·.1)) && sramRoom s x (lineBlocks (stream s x))

/-- Assemble one more line of the stream's oldest feed if there is space and it can be read; a feed with every line assembled completes. -/
def feedStep (s : State) (x : Nat) : State :=
  match feedsOf s x with
  | [] => s
  | d :: _ =>
    let i := ((stream s x).feed).elim 0 (·.1)
    let s0 := weldDue s x (stream s x).nextLine ((feedStamp s d i).elim (nowNs s) (·.1))
    if !igEn s || !isBound s x || !sramRoom s0 x (lineBlocks (stream s0 x)) || (feedReads s d i && !hostOpen s) then s
    else
      let pr := ((stream s0 x).feed).getD (0, (stream s0 x).nextLine)
      let s1 := feedLine s0 x d pr.1
      if descArg d 2 ≤ pr.1 + 1 then complete (updStream s1 x fun k => { k with feed := none }) d 0 0 pr.2 0
      else updStream s1 x fun k => { k with feed := some (pr.1 + 1, pr.2) }

/-- Feed lines until space runs out or nothing is left to feed. -/
def feedAll (s : State) (x : Nat) : State :=
  settle (thread (fun s' _ => feedStep s' x) s (upto ((feedsOf s x).map fun d => descArg d 2).sum))

/-- HOST_FEED. -/
def execHostFeed (r : Fin 2097152) (s : State) : Out :=
  .next (onDesc s r.val 6 fun s' d =>
    let x := descArg d 0 % 64
    if isBound s' x && (stream s' x).feedRing = r.val then feedAll s' x else complete s' d 0xD 0 0 0)

/-- HOST_FEED_RESUME (R102): a feed that waited for space goes on. -/
def execHostFeedResume (x : Fin 64) (s : State) : Out := .next (feedAll s x.val)

/-! ### Host jobs (R34, R366, R369) -/

/-- JOB_SUBMIT: the job, created when its descriptor was fetched, starts, unless its sizes break R249 or it has nowhere to run. -/
def execJobSubmit (r : Fin 2097152) (s : State) : Out :=
  .next (onDesc s r.val 7 fun s' d =>
    let p := descPlan d
    let id := hostId d.ring d.seq
    match (tmplAt s' p (descTmpl d)).filter fun t => t.kind = 4 with
    | none => complete (dropJob s' id) d 0xB 0 0 0
    | some t =>
      if !planHere s' p then complete (dropJob s' id) d 0xB 0 0 0
      else match badShapeFor (plan s' p).image t (descArg d) with
        | some i => complete (dropJob s' id) d 5 i 0 0
        | none =>
          if t.emits && !bit s' Reg.QM_RING_PAIR_RES_EN r.val 0 then complete (dropJob s' id) d 0xD 0 0 0
          else eligPass (updJob (addJob s' (hostJob s' d)) id fun j => { j with submitted := true }))

/-- JOB_CANCEL: completes when the job's cancellation has. -/
def execJobCancel (r : Fin 2097152) (s : State) : Out :=
  .next (onDesc s r.val 8 fun s' d =>
    match jobOf s' (BitVec.ofNat 64 (descArg d 0)) with
    | none => complete s' d 0xB 0 0 0
    | some j =>
      if j.kind ≠ .host || (jobOver j && j.submitted) then complete s' d 0xB 0 0 0
      else settle (drainPass (cancelJob s' j.id 0)))

/-! ### Sync commands (R279, R366) -/

/-- SYNC_WAIT commands of a ring that wait and are satisfied complete. -/
def waitPass (s : State) (r : Nat) : State :=
  thread (fun s' d => complete s' d 0 0 0 0) s
    (s.descs.filter fun d => d.ring = r && d.started && descOp d = 9 && syncMet s (descArg d 0) (BitVec.ofNat 64 (descArg d 1)))

/-- SYNC_WAIT: completes when satisfied; the ring's waiting one, or the next that starts. -/
def execSyncWait (r : Fin 2097152) (s : State) : Out :=
  .next (onDesc (waitPass s r.val) r.val 9 fun s' d =>
    if syncMet s' (descArg d 0) (BitVec.ofNat 64 (descArg d 1)) then complete s' d 0 0 0 0 else noteWaiters s')

/-- SYNC_ADD: the add takes effect as the command completes. -/
def execSyncAdd (r : Fin 2097152) (s : State) : Out :=
  .next (onDesc s r.val 10 fun s' d => complete (addObj s' (descArg d 0) (descArg d 1) 0) d 0 0 0 0)

/-! ### Queries and resumption (R313, R370) -/

/-- Lines of the open stripe row that have been received. -/
def openLines (k : Stream) : Nat := (k.lines.filter fun l => l.1 / k.h = k.row && l.2.complete).length

/-- RESULT0 and RESULT1 of a query; none for a target that does not exist. -/
def queryOf (s : State) (code target : Nat) : Option (Nat × Nat) :=
  match code with
  | 0 => some (s.grid.enabled + (s.plans.filter fun e => e.2.loaded).length * 2 ^ 9, s.sec.fwVersion)
  | 1 =>
    let k := stream s target
    some (k.nextLine, b2n k.bound + k.plan * 2 + openLines k * 2 ^ 9)
  | 2 => (jobOf s (BitVec.ofNat 64 target)).map fun j => (jobStateCode j.state, j.attempt)
  | _ => if (plan s target).loaded then some ((templates s target).length, (plan s target).used) else none

/-- QUERY. -/
def execQuery (r : Fin 2097152) (s : State) : Out :=
  .next (onDesc s r.val 11 fun s' d =>
    match queryOf s' (descArg d 0) (descArg d 1) with
    | none => complete s' d 0xB 0 0 0
    | some v => complete s' d 0 0 v.1 v.2)

/-- STREAM_RESUME. -/
def execStreamResume (r : Fin 2097152) (s : State) : Out :=
  .next (onDesc s r.val 12 fun s' d =>
    complete (resumeSctx s' (descArg d 0 % 32) (descArg d 0 / 32 % 64)) d 0 0 0 0)

end Sys2Proof.Machine
end

