-- ==== Sys2Proof/Machine/Flash.lean ====
section
/-! DEFINITION. The boot flash and its one writer, the flash log, boot records, and the reset of the device (R448, R460, R461, R466,
R470, R494, R495, R510, R515, R523). -/

namespace Sys2Proof.Machine

/-! ### Flash contents (R470) -/

/-- An erased byte of NOR flash (log 2). -/
def erased : Byte := 0xFF

def flashRead (s : State) (off n : Nat) : List Byte := rdBytes erased s.sec.flash off n
def flashPut (s : State) (off : Nat) (bs : List Byte) : State := updSec s fun k => { k with flash := wrBytes erased k.flash off bs }
def flashErase (s : State) (off n : Nat) : State :=
  updSec s fun k => { k with flash := k.flash.filter fun e => e.1 < off || off + n ≤ e.1 }

def logStart : Nat := 0x400000
/-- End of the flash: 64 Mbit to 1 Gbit. -/
def flashEnd : Nat := 2 ^ (23 + Config.flashSize % 5)

/-- A write joins the writer's queue. -/
def flashQueue (s : State) (op off : Nat) (bs : List Byte) : State :=
  updSec s fun k => { k with queue := k.queue ++ [{ op := op, entry := 0, off := off, bytes := bs }] }
def logQueue (s : State) (entry : Nat) (payload : List Byte) : State :=
  updSec s fun k => { k with queue := k.queue ++ [{ op := 0, entry := entry, off := 0, bytes := payload }] }

/-! ### The log area (R495) -/

def sectorMagic : Nat := 0x31475850

/-- Bytes left in the current sector. -/
def sectorRoom (s : State) : Nat :=
  if s.sec.sectorSeq = 0 || s.sec.logOff % 65536 = 0 then 0 else 65536 - s.sec.logOff % 65536

/-- Base of the current sector, and of the next in ring order. -/
def sectorBase (s : State) : Nat := (s.sec.logOff - 1) / 65536 * 65536
def nextSector (s : State) : Nat :=
  if s.sec.sectorSeq = 0 || flashEnd ≤ sectorBase s + 65536 then logStart else sectorBase s + 65536

/-- An entry with its header block. -/
def logEntry (type seq : Nat) (payload : List Byte) : List Byte :=
  let w0 := type + payload.length / 64 * 2 ^ 8
  let rest := natLE 8 seq ++ zeros 48 ++ payload
  natLE 4 w0 ++ natLE 4 (crc32c (natLE 4 w0 ++ zeros 4 ++ rest)) ++ rest

/-- Write an entry where the log goes on. -/
def putEntry (s : State) (type : Nat) (payload : List Byte) : State :=
  let e := logEntry type (s.sec.logSeq + 1) payload
  let s1 := flashPut s s.sec.logOff e
  updSec s1 fun k => { k with logOff := k.logOff + e.length, logSeq := k.logSeq + 1,
                              baseAt := if type = 4 then some (k.logOff / 65536) else k.baseAt }

/-- Baselines of the 288 wear monitors as an entry holds them (log 30). -/
def baselineBytes (s : State) : List Byte := (upto 288).flatMap fun m => natLE 4 (getF s Reg.HV_WEAR_BASELINE 0 m)

/-- Erase the next sector, head it, and write the baseline again where its newest entry stood there. -/
def openSector (s : State) : State :=
  let b := nextSector s
  let old := flashRead s b 64
  let erases := if leNat (old.take 4) = sectorMagic then leNat ((old.drop 16).take 4) + 1 else 1
  let head := fun (c : Nat) => natLE 4 sectorMagic ++ zeros 4 ++ natLE 8 (s.sec.sectorSeq + 1) ++ natLE 4 erases ++ natLE 4 c ++ zeros 40
  let s1 := flashPut (flashErase s b 65536) b (head (crc32c (head 0)))
  let s2 := updSec s1 fun k => { k with logOff := b + 64, sectorSeq := k.sectorSeq + 1 }
  let s3 := setF s2 Reg.HV_FLASH_STAT_SECTOR 0 0 ((b - logStart) / 65536)
  if s.sec.baseAt = some (b / 65536) then putEntry s3 4 (baselineBytes s) else s3

/-- Append an entry; it never spans two sectors. -/
def appendLog (s : State) (type : Nat) (payload : List Byte) : State :=
  putEntry (if sectorRoom s < 64 + payload.length then openSector s else s) type payload

/-- A log entry as found in flash: type, sequence number, offset after it in its sector. -/
structure LogAt where
  type : Nat
  seqNo : Nat
  next : Nat
  deriving DecidableEq, Repr

/-- The entries of a sector from an offset on, up to the first whose CRC fails. -/
def goodEntries (s : State) (base : Nat) : Nat → Nat → List LogAt
  | 0, _ => []
  | n + 1, off =>
    let h := flashRead s (base + off) 64
    let next := off + 64 + 64 * leNat ((h.drop 1).take 1)
    if 65536 < next then []
    else
      let body := flashRead s (base + off + 64) (next - off - 64)
      if leNat ((h.drop 4).take 4) ≠ crc32c (h.take 4 ++ zeros 4 ++ h.drop 8 ++ body) then []
      else { type := leNat (h.take 1), seqNo := leNat ((h.drop 8).take 8), next := next } :: goodEntries s base n next

/-- A log sector as found in flash: number of its 64 KiB, sequence number, entries; none where its header is not valid. -/
def logSector (s : State) (b : Nat) : Option (Nat × Nat × List LogAt) :=
  let h := flashRead s (65536 * b) 64
  if leNat (h.take 4) = sectorMagic && leNat ((h.drop 20).take 4) = crc32c (h.take 20 ++ zeros 4 ++ h.drop 24) then
    some (b, leNat ((h.drop 8).take 8), goodEntries s (65536 * b) 1023 64)
  else none

/-- S1 finds where the log goes on (R495): in the sector with the highest valid sequence number, after its last entry whose CRC
passes; in the next sector where an entry torn by a lost supply follows. -/
def resumeLog (s : State) : State :=
  let found := (((s.sec.flash.filter fun e => logStart ≤ e.1).map fun e => e.1 / 65536).eraseDups).filterMap (logSector s)
  match leastBy (fun (a b : Nat × Nat × List LogAt) => decide (b.2.1 < a.2.1)) found with
  | none => updSec s fun k => { k with logOff := logStart, logSeq := 0, sectorSeq := 0, baseAt := none }
  | some (b, n, es) =>
    let off := (es.getLast?).elim 64 (·.next)
    let torn := (flashRead s (65536 * b + off) (min 64 (65536 - off))).any fun x => x ≠ erased
    let all := found.flatMap fun k => k.2.2.map fun e => (k.1, e)
    let bases := all.filter fun e => e.2.type = 4
    setF (updSec s fun k => { k with
      logOff := if torn then 65536 * (b + 1) else 65536 * b + off,
      logSeq := all.foldl (fun m e => max m e.2.seqNo) 0,
      sectorSeq := n,
      baseAt := (leastBy (fun (a b : Nat × LogAt) => decide (b.2.seqNo < a.2.seqNo)) bases).map (·.1) })
      Reg.HV_FLASH_STAT_SECTOR 0 0 (b - logStart / 65536)

/-- A security command ends with a status (R477, R487). -/
def secDone (s : State) (status : Nat) : State :=
  setF (updSec s fun k => { k with busy := none }) Reg.SEC_CMD_STAT_STATUS 0 0 status

/-- FLASH_WRITE (R494): the oldest queued write ends; that of a firmware slot erases the slot first (R487); a refused one reports `FLASH` to its command, whose other writes are
dropped, and leaves an entry of type 3. -/
def execFlashWrite (refused : Bool) (s : State) : Out :=
  .next (match s.sec.queue with
    | [] => s
    | e :: rest =>
      let mine := e.op ≠ 0 && s.sec.busy = some e.op
      if refused then
        let s1 := cnt (updSec s fun k => { k with queue := rest.filter fun q => e.op = 0 || q.op ≠ e.op }) Reg.HV_FLASH_STAT_REFUSED
        let s2 := if mine then secDone s1 11 else s1
        if e.entry = 0 then drawn (logQueue s2 3 ((upto 64).map fun i => freeByteOf s2 i)) else s2
      else
        let s1 := updSec s fun k => { k with queue := rest }
        let s2 := if e.entry = 0 then flashPut (if e.op = 6 then flashErase s1 e.off 0x100000 else s1) e.off e.bytes
          else appendLog s1 e.entry e.bytes
        if mine && !(rest.any fun q => q.op = e.op) then secDone s2 0 else s2)

/-! ### Boot records (R460, R461) -/

/-- Write the record of a stage: readable in GC, and appended to the flash log. -/
def bootRecord (s : State) (stage : Nat) (fail : Option Nat) (fromNs : Nat) (us : Nat) (d : List Nat) : State :=
  let dur := min (2 ^ 32 - 1) (us + (nowNs s - fromNs) / 1000)
  let serial := if stage = 1 && fail.isSome then 0 else s.sec.devId.toNat % 2 ^ 64
  let bs := natLE 4 (stage + (if fail.isSome then 16 else 0) + fail.getD 0 * 2 ^ 8) ++ natLE 4 dur ++ natLE 8 (nowNs s) ++
    natLE 8 serial ++ (upto 5).flatMap fun i => natLE 8 (d.getD i 0)
  let s1 := thread (fun s' i => setF s' Reg.GC_BOOT_RECORD 0 (8 * stage + i) (leNat ((bs.drop (8 * i)).take 8))) s (upto 8)
  logQueue s1 1 bs

/-! ### Reset of the device (R448, R510, R515, R521, R523) -/

/-- Everything is reset but what lies outside the part or outlasts its supply: host memory, the flash with its writer's queue, what
has been sent, the input pins, whose filtered levels are theirs again, and the edge latches. -/
def deviceReset (s : State) (cause faultCause : Nat) (hold : Hold) : State :=
  let z := State.reset
  { z with
    pending := s.pending, free := s.free, hostMem := s.hostMem, latches := s.latches,
    giLevel := s.pins.giPins, ports := s.ports.map fun e => (e.1, { Port.zero with sent := e.2.sent }),
    hl := { z.hl with sent := s.hl.sent, peerWrites := s.hl.peerWrites },
    pins := { z.pins with hold := hold, perstLow := s.pins.perstLow, giPins := s.pins.giPins, encA := s.pins.encA, encB := s.pins.encB,
                          refSys := s.pins.refSys,
                          refPcie := s.pins.refPcie, refSns := s.pins.refSns },
    boot := { z.boot with cause := cause, faultCause := faultCause },
    sec := { z.sec with flash := s.sec.flash, queue := s.sec.queue.map fun q => { q with op := 0 }, logOff := s.sec.logOff,
                        logSeq := s.sec.logSeq, sectorSeq := s.sec.sectorSeq, baseAt := s.sec.baseAt, draws := s.sec.draws } }

/-- The 64 records of the error log, as R448 copies them. -/
def errorLog (s : State) : List Byte := (upto 256).flatMap fun i => natLE 8 (getF s Reg.FM_LOG 0 i)

/-- A repair record copy (R466): its entries with their kind. -/
def repairRecord (seq : Nat) (es : List (Nat × Nat × Nat × Nat)) : List Byte :=
  let entries := es.flatMap fun e => natLE 8 (e.1 + e.2.1 * 2 ^ 8 + e.2.2.1 * 2 ^ 12 + e.2.2.2 * 2 ^ 26)
  let head := fun (c : Nat) => natLE 4 0x31525850 ++ natLE 4 es.length ++ natLE 8 seq ++ natLE 4 c ++ zeros 44
  head (crc32c (head 0 ++ entries)) ++ entries

/-- A repair record copy in flash: valid, its sequence, its entries. -/
def repairCopy (s : State) (i : Nat) : Option (Nat × List (Nat × Nat × Nat × Nat)) :=
  let at0 := 0x230000 + 0x20000 * i
  let h := flashRead s at0 64
  let n := leNat ((h.drop 4).take 2)
  let es := flashRead s (at0 + 64) (8 * min n 16376)
  if leNat (h.take 4) = 0x31525850 && n ≤ 16376 && leNat ((h.drop 16).take 4) = crc32c (h.take 16 ++ zeros 4 ++ h.drop 20 ++ es) then
    some (leNat ((h.drop 8).take 8), (upto n).map fun k =>
      let v := leNat ((es.drop (8 * k)).take 8)
      (v % 256, v / 2 ^ 8 % 16, v / 2 ^ 12 % 2 ^ 14, v / 2 ^ 26 % 2))
  else none

/-- The copy that S3 uses: valid, with the higher sequence. -/
def repairPick (s : State) : Option (Nat × Nat × List (Nat × Nat × Nat × Nat)) :=
  match repairCopy s 0, repairCopy s 1 with
  | none, none => none
  | some a, none => some (0, a.1, a.2)
  | none, some b => some (1, b.1, b.2)
  | some a, some b => if a.1 < b.1 then some (1, b.1, b.2) else some (0, a.1, a.2)

/-- Write the other copy with the next sequence. -/
def writeRepair (s : State) (es : List (Nat × Nat × Nat × Nat)) : State :=
  let p := repairPick s
  flashQueue s 0 (0x230000 + 0x20000 * (1 - p.elim 1 (·.1))) (repairRecord (p.elim 0 (·.2.1) + 1) es)

/-- Rows that are repaired or withheld, as kind 0, and suspect rows, as kind 1. -/
def repairRows (s : State) (suspects : Bool) : List (Nat × Nat × Nat × Nat) :=
  let done : List (Nat × Nat × Nat × Nat) := s.chans.flatMap fun (c : Nat × Channel) => c.2.repairs.map fun r => (c.1, r.bank, r.row, 0)
  let lost : List (Nat × Nat × Nat × Nat) := s.dram.badRows.map fun (r : Nat × Nat × Nat) => (r.1, r.2.1, r.2.2, 0)
  let sus : List (Nat × Nat × Nat × Nat) := s.chans.flatMap fun (c : Nat × Channel) => c.2.suspects.map fun r => (c.1, r.bank, r.row, 1)
  (done ++ lost ++ (if suspects then sus else [])).take 16376

end Sys2Proof.Machine
end

