-- ==== Sys2Proof/Machine/Faults.lean ====
section
/-! DEFINITION. The fault manager: the error log, classes, domains and ladders, containment, quarantine, frost and thaw, device
resets (R432 to R454). -/

namespace Sys2Proof.Machine

/-! ### The error log (R450, R452) -/

/-- `UNIT_KIND`, R450. -/
def unitCode : UnitKind → Nat
  | .none => 0 | .tile => 1 | .boundary => 2 | .stream => 3 | .dram => 4 | .router => 5 | .core => 6 | .hostLink => 7
  | .peer => 8 | .ingest => 9 | .sched => 10 | .sync => 11 | .queue => 12 | .clock => 13

/-- Marks of a record. -/
structure LogMark where
  cls : Nat
  escalated : Bool
  nested : Bool
  requested : Bool
  deriving DecidableEq, Repr

/-- The four words of a record. -/
def logWords (s : State) (r : Report) (ns aux : Nat) (m : LogMark) : List Nat :=
  [r.cause % 256 + m.cls * 2 ^ 8 + b2n m.escalated * 2 ^ 11 + b2n m.nested * 2 ^ 12 + b2n m.requested * 2 ^ 13 +
     unitCode r.unitKind * 2 ^ 16 + fld s Reg.FM_CNT_ERRORS % 256 * 2 ^ 24 + r.unit % 2 ^ 16 * 2 ^ 32 + aux % 2 ^ 16 * 2 ^ 48,
   ns, r.job.toNat, r.loc % 2 ^ 64]

/-- Write a record, or count it lost while 64 are unread; notify at `LOG_THRESH`. Class 5 is not one of containment: the plan halt sets
source 1. -/
def writeLog (s : State) (r : Report) (ns aux : Nat) (m : LogMark) : State :=
  let s1 := if 2 ≤ m.cls && m.cls ≠ 5 then evSet s 1 else s
  let s2 := if m.escalated then cnt s1 Reg.FM_CNT_ESCALATED else s1
  if 64 ≤ unread s2 then cnt (setF s2 Reg.FM_STAT_OVERFLOW 0 0 1) Reg.FM_CNT_LOST
  else
    let t := logTail s2
    let s3 := thread (fun s' (w : Nat × Nat) => setF s' Reg.FM_LOG 0 (4 * (t % 64) + w.2) w.1) s2 (logWords s2 r ns aux m).zipIdx
    logNotify (evSet (setF s3 Reg.FM_LOG_IDX_TAIL 0 0 (t + 1)) 0)

/-- FM_LOG_ACK (R452): a head from `HEAD` to `TAIL`; any other is ignored. -/
def execFmLogAck (h : BitVec 16) (s : State) : Out :=
  .next (if answers s 0x300018 && (h.toNat + 2 ^ 16 - logHead s) % 2 ^ 16 ≤ unread s then
    logNotify (setF s Reg.FM_LOG_IDX_HEAD 0 0 h.toNat) else s)

/-! ### Classes, domains, ladders (R432, R436, R440) -/

/-- The causes that are program exceptions. -/
def isProgram (c : Nat) : Bool :=
  (0x01 ≤ c && c ≤ 0x07) || c = 0x09 || (0x10 ≤ c && c ≤ 0x13) || c = 0x18 || c = 0x19 || c = 0x1A || c = 0x1D

/-- A bundle parity failure in the instruction cache, whose line is fetched again: a code offset beyond instruction RAM (R139,
R141, R432). -/
def cacheParity (r : Report) : Bool := r.cause = 0x43 && 0x10000 ≤ r.loc % 2 ^ 32

/-- Initial class. `SRAM_PARITY` of ingest is class 0 in its line SRAM, unit 0, and class 4 in its control state (log 29). -/
def initialClass (r : Report) : Nat :=
  match r.cause with
  | 0x43 => if cacheParity r then 0 else 1
  | 0x46 => match r.unitKind with
    | .ingest => if r.unit = 0 then 0 else 4
    | .sched => 3
    | _ => 4
  | 0x47 => 3
  | 0x48 | 0x49 | 0x4A | 0x4B | 0x4C => 0
  | 0x4D => 4
  | 0x4E => if r.unitKind = .tile then 0 else 4
  | 0x4F => 3
  | _ => 1

/-- Domain of a tile or an engine, by the unit. -/
def unitDomain (r : Report) : Domain :=
  match r.unitKind with
  | .tile => .tile r.unit
  | .boundary => .engine r.unit
  | _ => .none

/-- Containment domain of a report. A poisoned stream descriptor belongs to the place of its job (log 29). -/
def domainOf (s : State) (r : Report) : Domain :=
  if isProgram r.cause then match jobOf s r.job with
    | some j => .template j.plan j.tmpl
    | none => .none
  else match r.cause with
    | 0x40 => .channel r.unit
    | 0x41 => .router r.unit
    | 0x44 => .engine r.unit
    | 0x46 => match r.unitKind with
      | .ingest => if r.unit = 0 then .none else .device
      | .sched => .sched
      | _ => .device
    | 0x47 => .sched
    | 0x4D => .device
    | 0x4E => if r.unitKind = .tile then .none else .device
    | 0x45 | 0x48 | 0x49 | 0x4A | 0x4B | 0x4C | 0x4F => .none
    | _ =>
      if cacheParity r then .none
      else if unitDomain r ≠ .none then unitDomain r
      else match jobOf s r.job with
        | some j => unitDomain (placeReport s j r.cause)
        | none => .none

def ladder : Domain → List Nat
  | .template _ _ => [1] | .tile _ => [1, 2, 3, 4] | .engine _ => [1, 3, 4] | .channel _ => [1, 4] | .router _ => [1, 4]
  | .sched => [3, 4] | .device => [4] | .none => []

/-- The class one step above another on a ladder; at its top the same again. -/
def nextClass (d : Domain) (c : Nat) : Nat := ((ladder d).find? fun k => c < k).getD ((ladder d).getLastD c)

/-- Highest class in recovery in a domain. -/
def recovering (s : State) (d : Domain) : Option Nat :=
  if d = .none then none
  else (s.fm.recoveries.filter fun r => r.dom = d).foldl (fun m r => some (max (m.getD 0) r.cls)) none

def addRecovery (s : State) (d : Domain) (c : Nat) (r : Report) (ids : List JobId) (holds : Bool) : State :=
  if ids.isEmpty && !holds then s
  else updFm s fun m => { m with recoveries := m.recoveries ++ [{ dom := d, cls := c, rep := r, jobs := ids, holds := holds }] }

/-! ### Device reset (R447, R448) -/

/-- A device reset is asked for: `DEV_REQ`, notification, and the rows suspect by now written to the flash record (R466). -/
def askReset (s : State) : State :=
  fmNotify (evSet (updFm (writeRepair s (repairRows s true)) fun m => { m with devReq := true }) 1)

/-- The reset itself: the log is copied to flash, and the device starts from S0. -/
def finishReset (s : State) : State := deviceReset (logQueue s 2 (errorLog s)) s.fm.resetCause s.fm.cause .none

/-- Perform a class 4: dispatch stops, and the log stays readable for `DEV_DELAY`; `PLL_LOCK` skips the delay. -/
def performReset (s : State) (resetCause cause : Nat) : State :=
  let s1 := if s.fm.phase = .devPending then writeRepair s (repairRows s true)
    else updFm (askReset s) fun m => { m with phase := .devPending, since := nowNs s, cause := cause, resetCause := resetCause }
  if cause = 0x4D then finishReset s1 else s1

/-- DEV_RESET (R447, R448): `FM_CMD.DEV_RESET`. -/
def execDevReset (s : State) : Out := .next (if answers s 0x300020 && ready s then performReset s 4 0 else s)

/-- DEV_DELAY_EXPIRY (R448). -/
def execDevDelayExpiry (s : State) : Out :=
  .next (if s.fm.phase = .devPending && s.fm.since + 1000000 * fld s Reg.FM_CTL_DEV_DELAY ≤ nowNs s then finishReset s else s)

/-! ### Frost (R443, R444, R446) -/

/-- What a frost does to a job: every held job aborts, one being cancelled has been, and none keeps its place (R444). -/
def frostJob (s : State) (j : Job) : State :=
  if jobOver j then s
  else if j.cancelling then
    completeJob (updJob (dropBlock (freePlace (queuesCancel s j.id) j.id) j.id) j.id fun k =>
      { k with state := .cancelled, cancelling := false }) j 1 j.cancelDetail
  else
    let s1 := if holdsPlace j then endAttempt (queuesAbort s j.id) j (j.abortOrder.getD 0) else s
    updJob (freePlace s1 j.id) j.id fun k => { k with claim := none }

/-- At thaw every job that has not retired waits again, as a restarted attempt (R445); one whose restart limit is exceeded, once its
escalation completes (R44). -/
def thawJob (j : Job) : Job :=
  if jobOver j || j.awaitEsc then j else { j with state := .waiting, restarted := true }

/-- The plan placed every retained output of the job in DRAM: those of boundary engines, and those in slots of queues that lie
there (R445, log 29). -/
def outputsInDram (s : State) (j : Job) : Bool :=
  match tmplOf s j with
  | none => true
  | some t => t.engine ≠ .tiles ||
    (let mine := t.queues.filter (·.2.1)
     !mine.isEmpty && mine.all fun q => (queue s q.1).decl.inDram)

/-- What a frost leaves of a queue whose slots lie in a scratchpad: no FULL slot of a NORMAL queue; a HALO queue's entries
poisoned, to be replaced from the first on. -/
def frostQueue (q : Queue) : Queue :=
  let ends := fun (e : QEnd) => match e with | .stream _ _ => QEnd.none | _ => e
  let q1 := { q with prod := ends q.prod, cons := ends q.cons }
  if q.decl.inDram then q1
  else if q.decl.kind = 2 then
    { q1 with slots := q1.slots.map fun k => (k.1, { k.2 with poison := true }),
              tail := q1.slots.foldl (fun m k => min m k.2.entry) q1.tail }
  else { q1 with slots := [], tail := q1.head }

/-- What a frost leaves of a boundary engine: the banks that still govern rows, which thaw reloads. -/
def frostEngine (e : BEngine) : BEngine :=
  { e with slots := [], ready := false, loading := none, swapStaged := false,
           inactive := if e.oldBusy then e.inactive else TblBank.empty }

/-- A frost begins: quiesce and reset of the left column of R443. Host reads keep their tags until they return (R444). -/
def enterFrost (s : State) (cause : Nat) : State :=
  let s1 := thread frostJob s s.jobs
  let s2 := { s1 with
    jobs := s1.jobs.map fun j => if j.state = .retired && !outputsInDram s1 j then { j with lost := true } else j,
    queues := s1.queues.map fun e => (e.1, frostQueue e.2),
    tiles := [], iram := [], spPoison := [], mem := s1.mem.filter fun e => e.1 < spBase,
    plans := s1.plans.map fun e => (e.1, { e.2 with tilesBegun := [], resident := [] }),
    engines := s1.engines.map fun e => (e.1, frostEngine e.2),
    sctx := (s1.sctx.map fun e => (e.1, { SCtx.free with reads := dropReads (e.2.reads.filter fun r => r.tag.isSome) })).filter
      fun e => !e.2.reads.isEmpty,
    bwTokens := [],
    cores := s1.cores.map fun e => (e.1, { Core.zero with entry := e.2.entry, fw := e.2.fw }),
    tcm := [], bitVars := [], sources := [] }
  cnt (updFm s2 fun m => { m with phase := .frost, quarantined := [], since := nowNs s, cause := cause, later := [] }) Reg.FM_CNT_FROST

/-- Apply a frost for a report: its recovery lasts until `SETTLE_MS` after thaw. -/
def applyFrost (s : State) (d : Domain) (r : Report) : State :=
  if s.fm.phase = .normal then enterFrost (addRecovery s d 3 r [] true) r.cause else s

/-- A frost asked for from outside: the command, or R352. A further request during a frost is merged. -/
def hostFrost (s : State) (aux : Nat) : State :=
  let r := mkReport 0x4F .none 0 0 0 aux
  let s1 := cnt s Reg.FM_CNT_ERRORS
  match s.fm.phase with
  | .normal => applyFrost (writeLog s1 r (nowNs s) aux { cls := 3, escalated := false, nested := false, requested := false }) .none r
  | .frost => cnt s1 Reg.FM_CNT_MERGED
  | .devPending => s1

/-- FROST (R443): `FM_CMD.FROST`. -/
def execFrost (s : State) : Out := .next (if answers s 0x300020 && ready s then hostFrost s 0 else s)

/-! ### Program exceptions (R440) -/

/-- Halt a plan. -/
def haltPlan (s : State) (p : Nat) : State :=
  let s1 := updPlan s p fun k => { k with halted := true }
  evSet (cnt (setF (setF s1 Reg.FM_STAT_PLAN_HALT 0 0 1) Reg.FM_STAT_HALTED_PLAN 0 0 p) Reg.FM_CNT_PLAN_HALT) 1

/-- A repeat: the host job is cancelled with `DETAIL` 2, the plan of any other job is halted. -/
def haltOrCancel (s : State) (w : Waiting) (j : Job) (nested : Bool) : State :=
  let log := fun (c : Nat) => writeLog s w.rep w.ns w.rep.aux { cls := c, escalated := true, nested := nested, requested := false }
  if j.kind = .host then settle (drainPass (cancelJob (log 6) j.id 2)) else haltPlan (log 5) j.plan

/-- The job aborts and restarts; a report by a tile's own check has ordered the abort already. A residue that disagrees on a boundary
engine's multiply path (R118) comes as a report alone. -/
def touchJob (s : State) (r : Report) : State :=
  if r.job = 0 || (r.cause < 0x40 && r.cause ≠ 0x1D && !(r.cause = 0x15 && r.unitKind = .boundary)) then s
  else
    let s1 := orderAbort s r.job r.cause
    match r.cause with
    | 0x40 => badInput s1 r.job (r.loc % 2 ^ 48)
    | 0x42 => match logicalOf s r.unit with
      | some t => if r.unitKind = .tile then badInput s1 r.job (spAddr t r.loc) else s1
      | none => s1
    | 0x43 => match logicalOf s r.unit with
      | some t => { s1 with plans := s1.plans.map fun e => (e.1, { e.2 with resident := e.2.resident.filter fun k => k.1 ≠ t }) }
      | none => s1
    | _ => s1

/-- The jobs a report's recovery waits for. -/
def repJobs (s : State) (r : Report) : List JobId :=
  match jobOf s r.job with
  | some j => if jobOver j then [] else [j.id]
  | none => []

/-- A program exception, judged for its own job instance. -/
def judgeProgram (s : State) (w : Waiting) : State :=
  let plain := writeLog s w.rep w.ns w.rep.aux { cls := 1, escalated := false, nested := false, requested := false }
  match jobOf s w.rep.job with
  | none => plain
  | some j =>
    let again := match j.lastExc with
      | some (c, l, a) => c = w.rep.cause && l = w.rep.loc && a + 1 = w.attempt
      | none => false
    let mark := fun (s' : State) => updJob s' j.id fun k => { k with lastExc := some (w.rep.cause, w.rep.loc, w.attempt) }
    if again then haltOrCancel (mark s) w j false
    else addRecovery (touchJob (mark plain) w.rep) (.template j.plan j.tmpl) 1 w.rep (repJobs s w.rep) false

/-! ### Quarantine (R442) -/

/-- Quarantining a tile would empty a loaded template's tile set, or exceed `QMAX`. -/
def quarantineTooFar (s : State) (t : Nat) : Bool :=
  let q := t :: s.fm.quarantined
  fld s Reg.FM_CTL_QMAX < q.length ||
    s.plans.any fun e => e.2.loaded && e.2.image.templates.any fun m =>
      m.engine = .tiles && !(m.units.any fun u => u < s.grid.enabled && !q.contains u)

/-- Jobs held on a tile. -/
def heldOn (s : State) (t : Nat) : List JobId :=
  s.jobs.filterMap fun j => match j.place with
    | some (.tile u _) => if u.val = t && holdsPlace j then some j.id else none
    | _ => none

/-- Remove a tile from dispatch; every job it holds restarts elsewhere. -/
def quarantine (s : State) (t : Nat) : State :=
  if s.fm.quarantined.contains t then s
  else thread (fun s' id => orderAbort s' id 0)
    (cnt (updFm s fun m => { m with quarantined := m.quarantined ++ [t] }) Reg.FM_CNT_QUARANTINE) (heldOn s t)

/-! ### Containment (R435 to R439, R446, R447) -/

/-- A class 4 that a ladder reaches is performed in the device's own domain, and elsewhere while `AUTO_DEV` = 1; for a DRAM
channel or a router it is requested only. -/
def performs (s : State) (d : Domain) : Bool :=
  match d with
  | .channel _ | .router _ => false
  | .device => true
  | _ => bit s Reg.FM_CTL_AUTO_DEV 0 0

/-- A parity failure in the instruction cache drops the line, which the next fetch of it brings again (R141): the line at the report's
code offset, for the code of every context of the tile. -/
def dropLine (s : State) (r : Report) : State :=
  if !cacheParity r then s
  else match logicalOf s r.unit with
    | none => s
    | some t =>
      let lines := (tile s t).ctxs.map fun k => (k.2.codeBase + r.loc % 2 ^ 32) / 128
      updTile s t fun u => { u with icache := u.icache.filter fun e => !lines.contains e.1 }

/-- Contain a report at a class in its domain. -/
def contain (s : State) (w : Waiting) (d : Domain) (cls : Nat) (nested : Bool) : State :=
  let r := w.rep
  let tile := match d with | .tile p => logicalOf s p | _ => none
  let far := cls = 2 && tile.elim true (quarantineTooFar s)
  let c := if far then 3 else cls
  let log := fun (req : Bool) => writeLog s r w.ns r.aux { cls := c, escalated := initialClass r < c, nested := nested, requested := req }
  match c with
  | 0 => dropLine (log false) r
  | 1 => addRecovery (touchJob (log false) r) d 1 r (repJobs s r) false
  | 2 => match tile with
    | some t => addRecovery (touchJob (quarantine (log false) t) r) d 2 r (heldOn s t ++ repJobs s r).eraseDups false
    | none => log false
  | 3 => applyFrost (log false) d r
  | _ =>
    if performs s d then performReset (log false) 3 r.cause
    else addRecovery (askReset (log true)) d 4 r [] true

/-- Contain a report during a frost: what would be class 3 or 4, or a failed unit without a spare, forces a device reset; the rest
is logged and acted on at thaw. -/
def containFrozen (s : State) (w : Waiting) (d : Domain) (cls : Nat) (nested : Bool) : State :=
  let r := w.rep
  let log := fun (c : Nat) => writeLog s r w.ns r.aux { cls := c, escalated := initialClass r < c, nested := nested, requested := false }
  if 3 ≤ cls then performReset (log 4) 3 r.cause
  else if cls = 0 then dropLine (log 0) r
  else updFm (log cls) fun m => { m with later := m.later ++ [(w, d, cls)] }

/-- The ingest SRAM lost lines of the stripe whose stripe-job the report names (R433): both copies count as failed and stand, or will
stand, in DRAM with their failing blocks poisoned. A job that exists already restarts on substituted lines; a stripe whose row is still open
is lost when it is made. -/
def sramLost (s : State) (r : Report) : State :=
  if r.cause = 0x46 && r.unitKind = .ingest && r.unit = 0 then
    let x := idStream r.job
    let st := stream s x
    match s.stripes.find? fun k => k.stream = x && k.row = idLow r.job && k.seg = idSeg r.job with
    | none =>
      if r.job = 0 || !st.bound || idLow r.job < st.row || nSegs st ≤ idSeg r.job then s
      else updStream s x fun k => { k with sramBad := (idLow r.job, idSeg r.job) :: k.sramBad.filter fun q => q ≠ (idLow r.job, idSeg r.job) }
    | some k =>
      if r.job = 0 || (k.lostA && k.lostB) then s
      else
        let s1 := updStripe s x k.row k.seg fun e => { e with lostA := true, lostB := true, gapFlag := true }
        let s2 := match k.units with
          | none => s1
          | some u => putCopies s1 u.1 { k with lostA := true, lostB := true }
        gapRecord (orderAbort (updJob s2 r.job fun q => { q with substituted := true }) r.job r.cause) x 3 st.h (k.row * st.h)
          (leNat ((k.image.drop 128).take 8)) (2 ^ k.seg)
  else s

/-- The domain of the latest report that named a job. -/
def noteDomain (s : State) (id : JobId) (d : Domain) : State :=
  if id = 0 then s else updFm s fun m => { m with jobDom := (id, d) :: m.jobDom.filter fun e => e.1 ≠ id }

/-- A report from a unit: merged, judged as a program exception, nested, or contained on its own. -/
def takeUnit (s : State) (w : Waiting) : State :=
  let r := w.rep
  let d := domainOf s r
  let s1 := noteDomain (cnt s Reg.FM_CNT_ERRORS) r.job d
  if isProgram r.cause then judgeProgram s1 w
  else if s.fm.recoveries.any fun k => k.rep.cause = r.cause && k.rep.unitKind = r.unitKind && k.rep.unit = r.unit && k.rep.loc = r.loc then
    cnt s1 Reg.FM_CNT_MERGED
  else
    let s2 := sramLost s1 r
    let nested := (recovering s d).isSome
    let cls := match recovering s d with
      | some c => max (nextClass d c) (initialClass r)
      | none => initialClass r
    match s.fm.phase with
    | .frost => containFrozen s2 w d cls nested
    | _ => contain s2 w d cls nested

/-- The domain in which a job's exceeded restart limit escalates (R439). -/
def limitDomain (s : State) (w : Waiting) : Domain :=
  match (s.fm.jobDom.find? fun e => e.1 = w.rep.job).map (·.2) with
  | some d => if d = .none then unitDomain w.rep else d
  | none => unitDomain w.rep

/-- A job has exceeded `MAX_RESTART`: escalate one step, then let it restart once more. -/
def takeLimit (s : State) (w : Waiting) : State :=
  let d := limitDomain s w
  let s1 := cnt (evSet s 64) Reg.FM_CNT_ERRORS
  match jobOf s w.rep.job with
  | none => s1
  | some j =>
    let s2 := match d with
      | .template _ _ => haltOrCancel s1 w j true
      | _ =>
        let cls := nextClass d ((recovering s d).getD 1)
        match s.fm.phase with
        | .frost => containFrozen s1 w d cls true
        | _ => contain s1 w d cls true
    requeue (updJob s2 j.id fun k => { k with awaitEsc := false }) j.id

/-- The fault manager takes the report at the head of its intake queue. -/
def takeReport (s : State) : State :=
  match s.fm.intake with
  | [] => s
  | w :: rest =>
    let s1 := updFm s fun m => { m with intake := rest }
    if w.esc then takeLimit s1 w else takeUnit s1 w

/-- What a unit's parity check leaves with its report: a bundle's is counted (R142). A word of a scratchpad that failed its check is counted
(R288) and stands poisoned until it is written whole, for an emission, an array block or a stream unit's read as for a load (R191, R269). -/
def parityMark (s : State) (r : Report) : State :=
  if r.unitKind = .tile && r.unit < 272 then
    match r.cause, logicalOf s r.unit with
    | 0x43, none => addF s Reg.TA_CNT_IPARITY r.unit 0 1
    | 0x43, some t => evSet (addF s Reg.TA_CNT_IPARITY r.unit 0 1) (256 + t)
    | 0x42, none => addF s Reg.TA_CNT_SP_PARITY r.unit 0 1
    | 0x42, some t =>
      let s1 := evSet (addF s Reg.TA_CNT_SP_PARITY r.unit 0 1) (256 + t)
      { s1 with spPoison := mset false s1.spPoison (spAddr t (r.loc % 0x200000) / 8) true }
    | _, _ => s
  else s

/-- FAULT_REPORT (R434): a unit's new report, if there is one, joins the queue in the order of detection, and the fault manager takes
the one at the head. Before S8 no report is contained. -/
def execFaultReport (found : Option Report) (s : State) : Out :=
  .next (if !ready s then s else takeReport (match found with
    | none => s
    | some r => report (parityMark s r) r))

/-! ### Thaw (R124, R125, R444 to R446) -/

/-- Passing rows of the weakest column, at most 16. -/
def gridRows (failed : List Nat) : Nat :=
  (upto 16).foldl (fun m x => min m (17 - (failed.filter fun p => p % 16 = x).length)) 16

/-- Form the logical grid from the failed positions; the licence in force enables its tiles. -/
def formGrid (s : State) (failed : List Nat) : State :=
  let m := gridRows failed
  { s with grid := { failed := failed, cold := s.grid.cold, rows := m, enabled := min (s.sec.licence.elim 0 (·.tiles)) (16 * m) } }

/-- A field of the firmware store. -/
def storeNat (s : State) (off n : Nat) : Nat := leNat (rdBytes 0 s.sec.store off n)

/-- The control-core firmware component of the bundle in the store: offset, size, entry (R471). -/
def fwComponent (s : State) : Option (Nat × Nat × Nat) :=
  let c := (upto (min 4 (storeNat s 6 2))).find? fun i => storeNat s (0x78 + 64 * i) 1 = 1
  c.map fun i => (storeNat s (0x7C + 64 * i) 4, storeNat s (0x80 + 64 * i) 4, storeNat s (0x84 + 64 * i) 4)

/-- Copy the firmware into all eight TCMs and start the cores at its entry (R407, R472). -/
def startCores (s : State) : State :=
  match fwComponent s with
  | none => s
  | some (off, size, entry) =>
    let code := rdBytes 0 s.sec.store off (min size 0x40000)
    thread (fun s' n =>
      let e := BitVec.ofNat 32 entry
      updCore { s' with tcm := wrBytes 0 s'.tcm (n * 2 ^ 18) code } n fun _ =>
        { Core.zero with run := .running, pc := e, entry := e, fw := BitVec.ofNat 32 s.sec.fwVersion }) s (upto 8)

/-- Reload a bank from its image; a bad block loses its entries (R441, R443). -/
def reloadOne (b : Nat) (old : Bool) (s : State) : State :=
  let k := tblOf (engine s b) old
  if !k.valid then s
  else
    let r := readImage s k.addr (tblBytes k.cols)
    if r.2.1 then
      report (evSet (updEngine r.2.2 b fun e => { e with lost := some 0, lostOld := old }) (192 + b)) (mkReport 0x45 .boundary b 0 0 0)
    else updEngine r.2.2 b fun e => setTbl e old (bankOfImage k.addr r.1)

/-- Reload an engine's banks: the active one, and the old one while it still governs rows (R115, R443). -/
def reloadBank (s : State) (b : Nat) : State :=
  if !(engine s b).active.valid then s
  else
    let s1 := reloadOne b false (updEngine s b fun e => { e with lost := none })
    if (engine s b).oldBusy then reloadOne b true s1 else s1

/-- A plan that needs more tiles than the grid offers is halted and logged (R446). -/
def planFits (s : State) (p : Nat) : State :=
  let k := plan s p
  if k.loaded && !k.halted && s.grid.enabled < k.image.tilesNeeded then
    haltPlan (writeLog s (mkReport s.fm.cause .none 0 0 0 0xFFFF) (nowNs s) 0xFFFF
      { cls := 5, escalated := false, nested := false, requested := false }) p
  else s

/-- A report kept during the frost is acted on. -/
def actLater (s : State) (l : Waiting × Domain × Nat) : State :=
  match l.2.2, l.2.1 with
  | 2, .tile p => if s.grid.failed.contains p then s else match logicalOf s p with
    | some t =>
      if quarantineTooFar s t then applyFrost s l.2.1 l.1.rep
      else addRecovery (quarantine s t) l.2.1 2 l.1.rep (repJobs s l.1.rep) false
    | none => s
  | _, d => addRecovery (touchJob s l.1.rep) d 1 l.1.rep (repJobs s l.1.rep) false

/-- THAW (R444, R445, R467): the short S5 and S6 have ended; they tested every position not harvested at the last cold S5, and of those the
ones they found failing are harvested. The grid is formed, tables
are reloaded, firmware starts, standing transfers run again, and dispatch resumes. -/
def execThaw (failing : List (Fin 272)) (s : State) : Out :=
  .next (if s.fm.phase ≠ .frost || !ready s then s
    else
      let bad := ((failing.map (·.val)).filter fun p => !s.grid.cold.contains p).eraseDups
      let s1 := thread (fun s' p => writeLog (cnt s' Reg.FM_CNT_ERRORS) (mkReport 0x4E .tile p 0 0 0) (nowNs s) 0
        { cls := 7, escalated := false, nested := false, requested := false }) s bad
      let s2 := startCores (formGrid s1 (s.grid.cold ++ bad))
      let s3 := thread reloadBank s2 (upto 32)
      let s4 := thread planFits s3 (upto 256)
      let s5 := thread (fun s' (e : Nat × Plan) =>
        if e.2.loaded && !e.2.unloading then thread (fun s'' o => armStanding s'' e.1 (e.2.base + o)) s' e.2.image.standing else s')
        s4 s4.plans
      let s6 := setF (setF s5 Reg.FM_FROST_LAST_US 0 0 (min 65535 ((nowNs s - s.fm.since) / 1000))) Reg.FM_FROST_LAST_CAUSE 0 0 s.fm.cause
      let s7 := updFm (updHl { s6 with jobs := s6.jobs.map thawJob } fun h => { h with retry := false }) fun m => { m with phase := .normal, thawNs := nowNs s, later := [] }
      settle (drainPass (thread actLater s7 s.fm.later)))

/-- SETTLE_EXPIRY (R435): the frost's recovery ends. -/
def execSettleExpiry (s : State) : Out :=
  .next (if s.fm.phase = .normal && s.fm.thawNs + 1000000 * fld s Reg.FM_CTL_SETTLE_MS ≤ nowNs s then
    updFm s fun m => { m with recoveries := m.recoveries.filter fun r => !(r.holds && r.cls = 3) }
  else s)

/-- RETRY_TBL (R441): the engine reloads its lost entries; if the image fails again the report repeats. -/
def execRetryTbl (b : Fin 32) (s : State) : Out :=
  .next (if !answers s 0x300020 then s
    else match (engine s b.val).lost with
      | none => s
      | some col => match reloadEntries s b.val (engine s b.val).lostOld col with
        | some s1 => settle s1
        | none => report s (mkReport 0x45 .boundary b.val col 0 0))

end Sys2Proof.Machine
end

