-- ==== Sys2Proof/Machine/HostLink.lean ====
section
/-! DEFINITION. The host link: the BAR4 window, completion timeouts and link errors, resets of the function, Bus Master Enable, D3hot,
and the link itself (R338 to R352). -/

namespace Sys2Proof.Machine

/-! ### Conditions of AER (R349, R350) -/

/-- An AER condition: logged, event source 34 (log 30), and reported to the fault manager, which takes no report before S8. -/
def aerLog (s : State) (k : Aer) (aux : Nat) : State :=
  let s1 := updHl s fun h => { h with aer := h.aer ++ [k] }
  if ready s then report (evSet s1 34) (mkReport 0x4B .hostLink 0 0 0 aux) else s1

/-- Nothing holds the device in reset. -/
def running (s : State) : Bool := s.pins.hold = .none

/-- UNEXPECTED_COMPLETION (R349): discarded, counted, logged. -/
def execUnexpectedCompletion (s : State) : Out :=
  .next (if running s then aerLog (cnt s Reg.HL_CNT_UNEXP_CPL) .unexpectedCompletion 0 else s)

/-- LINK_ERROR (R350): a poisoned TLP or an ECRC failure aimed at BAR0 or BAR2 is discarded and counted; every condition is logged.
ECRC is checked while the host enables it (R338). -/
def execLinkError (kind : TlpFault) (bar : Fin 8) (s : State) : Out :=
  let s1 := if bar.val = 0 || bar.val = 2 then cnt s Reg.HL_CNT_POISON_IN else s
  .next (
    if !running s then s
    else match kind with
      | .poisoned => aerLog s1 .poisonedTlp bar.val
      | .ecrc => if s.hl.ecrcCheck then aerLog s1 .ecrc bar.val else s
      | .other => aerLog s .other bar.val)

/-! ### Completion timeout (R349) -/

/-- The read of a stream context that a tag belongs to returns with an error. -/
def timeoutStream (s : State) (e c tag : Nat) : State :=
  match (sctx s e c).reads.findIdx? fun r => r.tag = some tag with
  | some n => failRead s e c n
  | none => s

/-- The descriptors that a tag's piece of a burst covers come with an error. -/
def timeoutBurst (s : State) (b : Burst) (tag : Nat) : Burst :=
  match b.tags.find? fun t => t.1 = tag with
  | none => b
  | some (_, lo, n) =>
    let e := ringEsz s b.ring
    { b with descs := b.descs.zipIdx.map fun d => if e * d.2 < lo + n && lo < e * (d.2 + 1) then (d.1.1, true) else d.1 }

/-- The agent would have a host read outstanding now. -/
def readerWants (s : State) : HostReader → Bool
  | .core n => (coreNo s n).run = .running
  | .planLoad r => planReads s r
  | .hostFeed x => feedWants s x
  | .transmit p => leadOf s p = p && txWants s p

/-- The read of an agent that reads within one command times out (log 25). A feed and a transmission read again; a core's load or a
plan's load meets the error. -/
def timeoutReader (s : State) (tag : Nat) (r : HostReader) : State :=
  let free := (tagSpace s).1 ≤ tag && tag < (tagSpace s).1 + (tagSpace s).2 && !(s.hl.np.any fun q => q.tag = tag) &&
    !(s.hl.quarantined.any fun q => q.1 = tag && tagRests s q)
  if !hostOpen s || !free || !readerWants s r then s
  else
    let s1 := updHl s fun h => { h with
      quarantined := h.quarantined ++ [(tag, nowNs s + 2000 * fld s Reg.HL_CPL_TO_US)],
      failed := match r with
        | .core _ | .planLoad _ => h.failed ++ [r]
        | .hostFeed _ | .transmit _ => h.failed }
    aerLog (cnt s1 Reg.HL_CNT_CPL_TIMEOUT) .completionTimeout tag

/-- CPL_TIMEOUT: an outstanding request whose time is over counts as returned with an error; its tag rests for twice the timeout. -/
def execCplTimeout (tag : Nat) (s : State) (reader : Option HostReader := none) : Out :=
  .next (match reader, s.hl.np.find? fun r => r.tag = tag && decide (r.dueNs ≤ nowNs s) with
    | some r, _ => timeoutReader s tag r
    | none, none => s
    | none, some r =>
      let s1 := match r.owner with
        | .stream e c => timeoutStream s e c tag
        | .queueManager => { s with bursts := s.bursts.map fun b => timeoutBurst s b tag }
      let s2 := updHl (npReturn s1 tag) fun h => { h with quarantined := h.quarantined ++ [(tag, nowNs s + 2 * r.limitNs)] }
      aerLog (cnt s2 Reg.HL_CNT_CPL_TIMEOUT) .completionTimeout tag)

/-! ### The BAR4 window (R346, R457) -/

/-- First device address of the window. -/
def bar4Base (s : State) : Nat := fld s Reg.HL_BAR4_MAP_BASE / 2 ^ s.hl.bar4Log2 * 2 ^ s.hl.bar4Log2

/-- A range lies in the BAR. -/
def inBar4 (s : State) (off n : Nat) : Bool := hostThere s && off + n ≤ 2 ^ s.hl.bar4Log2

/-- A read completes with Unsupported Request. -/
def unsupported (s : State) : State := { s with readData := [], readError := true }

/-- BAR4_READ: what is returned is kept as the last read data, with `readError` for a poisoned completion. A read of BAR2 completes
with 0 (R345). -/
def execBar4Read (off len : Nat) (s : State) (bar2 : Bool := false) : Out :=
  let a := bar4Base s + off
  .next (
    if bar2 then
      if !hostThere s || decide (2 ^ 24 < off + len) then s
      else if s.hl.d3 then unsupported s else { s with readData := zeros len, readError := false }
    else if !inBar4 s off len then s
    else if s.hl.d3 then unsupported s
    else
      let s1 := cnt s Reg.HL_CNT_BAR4_RD
      if !ready s then { s1 with readData := zeros len, readError := false }
      else if dramTop < a + len then unsupported s1
      else
        let r := devRead s1 a len .clean 0
        { r.2 with readData := r.1.map (·.1), readError := r.1.any (·.2) })

/-- The write is discarded. -/
def bar4Drop (s : State) : State := aerLog (cnt s Reg.HL_CNT_BAR4_DROP) .unsupportedRequest 4

/-- The receive window a range lies inside: one that is not closed before one that is. -/
def bar4Window (s : State) (a n : Nat) : Option Nat :=
  let ws := (upto 64).filter fun w => inWindow s w a n
  (ws.find? fun w => (winOf s w).state ≠ .closed).or ws.head?

/-- BAR4_WRITE: a write inside an open receive window goes to peer messaging; any other is dropped. One inside a closed window is also
judged by peer messaging (R394, log 27). -/
def execBar4Write (off : Nat) (bytes : List Byte) (poisonedTlp : Bool) (reqId : BitVec 16) (s : State) : Out :=
  let a := bar4Base s + off
  .next (
    if !ready s || s.hl.d3 || !inBar4 s off bytes.length then s
    else match bar4Window s a bytes.length with
      | none => bar4Drop s
      | some w =>
        if (winOf s w).state = .closed then landShut (bar4Drop s) w (a - winBase s w) reqId.toNat bytes poisonedTlp
        else landWrite s w (a - winBase s w) reqId.toNat bytes poisonedTlp)

/-! ### Bus Master Enable and D3hot (R352) -/

/-- Posted requests that were held go out in their order. -/
def flushStalled (s : State) : State :=
  if busMaster s then thread post (updHl s fun h => { h with stalled := [] }) s.hl.stalled else s

/-- A configuration request is taken: until the frost of a function reset has completed it receives Request Retry Status (R352). -/
def cfgTaken (s : State) : Bool := hostThere s && !s.hl.retry

/-- BUS_MASTER_DISABLE: event source 35 tells of the change (log 30). -/
def execBusMasterDisable (s : State) : Out :=
  .next (if cfgTaken s && s.hl.bme then evSet (updHl s fun h => { h with bme := false }) 35 else s)

/-- Messages of vectors that nothing masks any longer go out (R351). -/
def sendPending (s : State) : State :=
  if s.hl.msixEn && !s.hl.fnMask then
    thread (fun s' v => if bit s' Reg.HL_MSIX_MASK 0 v then s'
      else post (updHl s' fun h => { h with pending := h.pending.filter (· ≠ v) }) (.msix v)) s s.hl.pending
  else s

/-- BUS_MASTER_ENABLE: the host brings the function up, with Memory Space Enable, and programs the rest of configuration space as it will (R338, log 34). -/
def execBusMasterEnable (s : State) (cfg : HostCfg := HostCfg.usual) : Out :=
  .next (if cfgTaken s then
    let s1 := updHl s fun h =>
      { h with bme := true, mse := true, msixEn := cfg.msixEn, fnMask := cfg.fnMask, mps := 128 * 2 ^ cfg.mps.val,
               mrrs := 128 * 2 ^ cfg.mrrs.val, bar4Log2 := 30 + cfg.bar4.val, ecrcGen := cfg.ecrcGen, ecrcCheck := cfg.ecrcCheck }
    sendPending (flushStalled (if s.hl.bme then s1 else evSet s1 35))
  else s)

/-- D3HOT: as both enables at 0; everything is kept. -/
def execD3hot (s : State) : Out := .next (if cfgTaken s then updHl s fun h => { h with d3 := true } else s)

/-- RETURN_TO_D0. -/
def execReturnToD0 (s : State) : Out :=
  .next (if cfgTaken s then flushStalled (updHl s fun h => { h with d3 := false }) else s)

/-! ### Resets of the function (R352, R457, R501) -/

/-- Configuration space and MSI-X as PCIe resets them; the link itself and what has been sent stay. -/
def resetConfig (s : State) : State :=
  let z := HostLink.zero
  let s1 := updHl s fun h => { z with up := h.up, speed := h.speed, width := h.width, flit := h.flit, tags := h.tags, np := h.np,
                                      quarantined := h.quarantined, failed := h.failed, retry := h.retry, sent := h.sent, peerWrites := h.peerWrites,
                                      stalled := h.stalled }
  let table := fun (key : Nat) => 0x1180000 ≤ key / 64 && key / 64 < 0x1188000
  { s1 with regs := s1.regs.filter fun e => !table e.1 }

/-- `GC_ENABLE` returns to 0x7FF. -/
def resetGates (s : State) : State :=
  { s with regs := s.regs.filter fun e => !(e.1 / 64 = 0x18) }

/-- Every ring context is invalidated, with what waited for one. -/
def dropRings (s : State) : State :=
  updHl { s with rings := [], regs := s.regs.filter fun e => !ringReg e.1, descs := [], bursts := [], stage := [],
                 sctx := s.sctx.map fun e => (e.1, { e.2 with reads := e.2.reads.filter fun r => r.tag.isNone }) } fun h =>
    { h with np := [], failed := [], stalled := [], pending := [] }

/-- A function level reset, a hot reset or link down. Requests that the unloading would send go nowhere; the jobs that are cancelled
end with the frost. -/
def functionReset (s : State) (source : Nat) : State :=
  let s1 := resetGates (resetConfig s)
  if !ready s then s1
  else
    let s2 := thread (fun s' (e : Nat × Stream) => if e.2.bound then unbind s' e.1 else s') s1 s1.streams
    let s3 := thread (fun s' (e : Nat × Plan) => if planHere s' e.1 then unload s' e.1 else s') s2 s2.plans
    let s4 := hostFrost s3 1
    evSet (updHl (dropRings (drainPass (drainPass s4))) fun h => { h with retry := true }) source

/-- FUNCTION_LEVEL_RESET. -/
def execFunctionLevelReset (s : State) : Out := .next (if hostThere s then functionReset s 32 else s)

/-- HOT_RESET, or link down: the link trains again. -/
def hotResetOf (s : State) : State := functionReset (updHl s fun h => { h with up := false }) 33

def execHotReset (s : State) : Out := .next (if running s then hotResetOf s else s)

/-- CONVENTIONAL_RESET (R510, R515, R521): `PERST_N` low resets the device, and its rise begins S0, or, during the hold of a thermal trip
or a brown-out, lets that hold end in it. During the delay of a device reset it performs that reset at once (R448). -/
def execConventionalReset (rise : Bool) (s : State) : Out :=
  .next (
    if rise then
      updPins s fun p => { p with perstLow := false, hold := if p.hold = .perst then .none else p.hold }
    else match s.pins.hold with
      | .none | .perst =>
        let log := s.fm.phase = .devPending
        updPins (deviceReset (if log then logQueue s 2 (errorLog s) else s) (if log then s.fm.resetCause else 2) (if log then s.fm.cause else 0) .perst) fun p => { p with perstLow := true }
      | .thermal | .brownOut => updPins s fun p => { p with perstLow := true })

/-! ### What configuration space reads as (R338, R349, R480) -/

/-- Class code: a processing accelerator. -/
def classCode : Nat := 0x120000
/-- Interrupt Pin: no INTx. -/
def interruptPin : Nat := 0
/-- Completion Timeout Ranges Supported. -/
def cplRanges : Nat := 0
/-- Device Serial Number: bytes 0 to 7 of the device identity, or 0 without one. -/
def deviceSerial (s : State) : Nat := if s.sec.idValid then s.sec.devId.toNat % 2 ^ 64 else 0

/-! ### The link (R338) -/

/-- The link has trained to a rate and a width; its reference clock is there (R514). -/
def linkTrained (s : State) (speed width : Fin 16) (flit : Bool) (tags : Fin 4) : State :=
  updHl (updPins s fun p => { p with refPcie := true }) fun h => { h with up := true, speed := speed.val % 8, width := width.val, flit := flit, tags := tags.val }

/-- PCIE_LINK_UP: after S2, a retraining, counted. -/
def execPcieLinkUp (speed width : Fin 16) (flit : Bool) (tags : Fin 4) (s : State) : Out :=
  .next (if running s && s.boot.linkDone then addF (linkTrained s speed width flit tags) Reg.HL_LINK_STAT_RETRAINS 0 0 1 else s)

end Sys2Proof.Machine
end

