-- ==== Sys2Proof/Machine/Power.lean ====
section
/-! DEFINITION. Heat, power, supplies, reference clocks, wear and telemetry (R329, R330, R488 to R496, R510, R514 to R521). The thermal and
power controllers judge one reading every 50 µs, so 10 ms are 200 readings, 1 ms is 20 and 1 s is 20,000 (log 32). -/

namespace Sys2Proof.Machine

/-! ### Sensors (R488, R489, R520) -/

/-- The largest of some readings. -/
def hottest : List Int → Int
  | [] => 0
  | x :: xs => xs.foldl max x

/-- The first place of a value. -/
def placeOf (v : Int) (l : List Int) : Nat := (l.findIdx? fun x => x = v).getD 0

/-- The readings kept: a sensor that is being trimmed, or that gives none, keeps its last. -/
def keepReadings (old new : List Int) (base n : Nat) (trim : Option Nat) : List Int :=
  (upto n).map fun i => if trim = some (base + i) then old.getD i 0 else new.getD i (old.getD i 0)

/-- Readings of a stack, 8 of them. -/
def stackTemps (l : List Int) (i : Nat) : List Int := (l.drop (8 * i)).take 8

/-- SENSOR_TRIM (R488): the sensor's last reading is held while it is trimmed, which is over the next sample (log 32). -/
def execSensorTrim (sensor : Fin 96) (s : State) : Out := .next (updHv s fun h => { h with trim := some sensor.val })

/-! ### The thermal controller (R489, R520, R521) -/

def thermT1 (s : State) : Int := (fld s Reg.HV_THERM_CTL_T1 : Nat)
def thermT2 (s : State) : Int := (fld s Reg.HV_THERM_CTL_T2 : Nat)
def thermStackT (s : State) : Int := (fld s Reg.HV_THERM_CTL_STACK_T : Nat)
def thermHyst (s : State) : Int := (fld s Reg.HV_THERM_CTL_HYST : Nat)

/-- The step that the readings demand. -/
def wantedStep (s : State) (logic stack : Int) : Nat :=
  if thermT2 s ≤ logic then 2 else if thermT1 s ≤ logic ∨ thermStackT s ≤ stack then 1 else 0

/-- Every reading that can set a step lies below its threshold minus `HYST`. -/
def belowStep (s : State) (step : Nat) (logic stack : Int) : Bool :=
  match step with
  | 0 => false
  | 1 => logic < thermT1 s - thermHyst s && stack < thermStackT s - thermHyst s
  | _ => logic < thermT2 s - thermHyst s

/-- The demand of R489 deepens at once, and the readings that lie low enough are counted. -/
def thermJudge (s : State) (logic stack : Int) : State :=
  let want := wantedStep s logic stack
  updHv s fun h =>
    let h1 := if h.demand < want then { h with demand := want, low := 0 }
      else { h with low := if belowStep s h.demand logic stack then h.low + 1 else 0 }
    { h1 with hotStack := h.hotStack || decide (95 < stack), stackLow := if stack ≤ 93 then h.stackLow + 1 else 0,
              hotLogic := h.hotLogic || decide (105 ≤ logic), logicLow := if logic ≤ 103 then h.logicLow + 1 else 0 }

/-- Refresh of a stack doubles above 85 °C, and returns after 1 ms at or below 83 °C (R329). -/
def refreshJudge (s : State) (i : Nat) : State :=
  let t := hottest (stackTemps s.hv.stackReads i)
  let n := if t ≤ 83 then mget 0 s.dram.cool i + 1 else 0
  updDram s fun d =>
    { d with cool := mset 0 d.cool i n,
             doubled := if 85 < t then (if d.doubled.contains i then d.doubled else d.doubled ++ [i])
               else if 20 ≤ n then d.doubled.filter (· ≠ i) else d.doubled }

/-- DRAM_HOT (R330): every reading above 95 °C sets HOT (R335); one that has risen above it is reported, and the event sources
of the stack's channels are set. -/
def hotJudge (old s : State) (i : Nat) : State :=
  if hottest (stackTemps s.hv.stackReads i) ≤ 95 then s
  else
    let s1 := setF s Reg.MEM_STACK_STAT_HOT 0 i 1
    if ready s && decide (hottest (stackTemps old.hv.stackReads i) ≤ 95) then
      report (thread (fun s' c => evSet s' (512 + 64 * i + c)) s1 (upto 64)) (mkReport 0x4C .dram (64 * i) 0 0 0)
    else s1

/-- A thermal trip (R521): the device holds itself in reset, with the sensors read on. -/
def thermalTrip (s : State) : State :=
  let s1 := updPins (deviceReset s 5 0 .thermal) fun p => { p with thermTripLow := true }
  updHv s1 fun h => { h with logic := s.hv.logic, stackReads := s.hv.stackReads }

/-- Take one sample into the readings. -/
def takeReadings (s : State) (logic stackReads : List Int) : State :=
  updHv s fun h => { h with logic := keepReadings h.logic logic 0 64 h.trim, stackReads := keepReadings h.stackReads stackReads 64 32 h.trim,
                            trim := none }

/-- THERMAL_SAMPLE. -/
def execThermalSample (logic stackReads : List Int) (s : State) : Out :=
  let s1 := takeReadings s logic stackReads
  let hot := hottest s1.hv.logic
  let stack := hottest s1.hv.stackReads
  .next (match s.pins.hold with
    | .thermal => updHv s1 fun h => { h with cool := if hot ≤ 95 ∧ stack ≤ 85 then h.cool + 1 else 0 }
    | .perst | .brownOut => s
    | .none =>
      let trip := decide (110 ≤ hot) || decide (100 ≤ stack)
      if trip && s.hv.tripOnce then thermalTrip s1
      else
        let s2 := setF (setF s1 Reg.HV_THERM_STAT_LOGIC_MAX 0 0 (unsgn 8 hot)) Reg.HV_THERM_STAT_SENSOR 0 0 (placeOf hot s1.hv.logic)
        let s3 := updHv (thermJudge s2 hot stack) fun h => { h with tripOnce := trip }
        let s4 := if 105 ≤ hot ∧ ¬ 105 ≤ hottest s.hv.logic then
            { s3 with latches := s3.latches ||| BitVec.ofNat 16 (2 ^ 11) } else s3
        aclkDemand (thread (hotJudge s) (thread refreshJudge s4 (upto 4)) (upto 4)))

/-- THERMAL_HYSTERESIS_EXPIRY: 10 ms below the thresholds: one step shallower; the demands of R520 clear by their own conditions. -/
def execThermalHysteresisExpiry (s : State) : Out :=
  let h := s.hv
  let h1 := if 200 ≤ h.low ∧ 0 < h.demand then { h with demand := h.demand - 1, low := 0 } else h
  .next (if s.pins.hold ≠ .none then s else
    aclkDemand { s with hv := { h1 with hotStack := h.hotStack && decide (h.stackLow < 200),
                                         hotLogic := h.hotLogic && decide (h.logicLow < 200) } })

/-- A hold ends: bring-up begins, unless `PERST_N` is low (R515). -/
def endHold (s : State) : State :=
  updPins s fun p => { p with hold := if p.perstLow then .perst else .none, thermTripLow := false }

/-- THERMAL_TRIP_RELEASE (R521): after 1 s of cool readings. -/
def execThermalTripRelease (s : State) : Out :=
  .next (if s.pins.hold = .thermal ∧ 20000 ≤ s.hv.cool then endHold s else s)

/-! ### The power controller (R516 to R518) -/

/-- The running average of 1 ms, in 0.1 W. -/
def avgPower (l : List Nat) : Nat := l.sum / l.length

/-- The return test: P × d / d′ below `LIMIT_W` − `HYST_W`, at the divisors of a step and the next shallower one. -/
def returnTest (s : State) (p step : Nat) : Bool :=
  p * (step + 2) < (fld s Reg.CK_PWR_LIMIT_LIMIT_W - fld s Reg.CK_PWR_LIMIT_HYST_W) * 10 * (step - 1 + 2)

/-- `OVER` becomes 1: event source 28. -/
def powerOver (s : State) : State :=
  let s1 := setF (updHv s fun h => { h with overLeft := 20 }) Reg.CK_PWR_STAT_OVER 0 0 1
  if bit s Reg.CK_PWR_STAT_OVER 0 0 then s1 else { s1 with latches := s1.latches ||| BitVec.ofNat 16 (2 ^ 12) }

/-- One judgement of P at the current step. -/
def powerJudge (s : State) (p : Nat) : State :=
  let step := s.clk.step
  if s.hv.pwrWait = 0 && fld s Reg.CK_PWR_LIMIT_LIMIT_W * 10 < p then
    if step < 2 then updHv (updClk s fun k => { k with pwrStep := step + 1 }) fun h => { h with pwrWait := 20, pwrLow := 0 }
    else updHv (powerOver s) fun h => { h with pwrLow := 0 }
  else
    let n := if 0 < s.clk.pwrStep && returnTest s p step then s.hv.pwrLow + 1 else 0
    if 200 ≤ n then updHv (updClk s fun k => { k with pwrStep := k.pwrStep - 1 }) fun h => { h with pwrLow := 0 }
    else updHv s fun h => { h with pwrLow := n }

/-- POWER_SAMPLE: a reading in 0.1 W. -/
def execPowerSample (deciWatts : Nat) (s : State) : Out :=
  let l := (deciWatts :: s.hv.power).take 20
  let p := avgPower l
  let s1 := updHv (setF s Reg.CK_PWR_STAT_POWER 0 0 (min 65535 p)) fun h =>
    { h with power := l, pwrWait := h.pwrWait - 1, overLeft := h.overLeft - 1 }
  let s2 := if s1.hv.overLeft = 0 then setF s1 Reg.CK_PWR_STAT_OVER 0 0 0 else s1
  .next (
    if s.pins.hold ≠ .none then s
    else if !bit s Reg.CK_PWR_LIMIT_EN 0 0 then aclkDemand (updClk s2 fun k => { k with pwrStep := 0 })
    else if l.length < 20 then s2
    else aclkDemand (powerJudge s2 p))

/-! ### Supplies and reference clocks (R490, R510, R514) -/

/-- A record on the telemetry ring (R493), while the block is enabled. -/
def telRecord (s : State) (code source : Nat) (args : List Nat) : State :=
  if hvEn s then postEvent s (fld s Reg.HV_CTL_RING) code 0 source args else s

/-- RAIL_SAMPLE (R490): lowest and highest reading kept, one alarm per excursion. -/
def execRailSample (rail : Fin 8) (mv : Nat) (s : State) : Out :=
  let r := rail.val
  let v := min 65535 mv
  let s1 := maxF (setF s Reg.HV_RAIL_MIN_MV 0 r (min (getF s Reg.HV_RAIL_MIN_MV 0 r) v)) Reg.HV_RAIL_MAX_MV 0 r v
  let alarm := getF s Reg.HV_RAIL_ALARM_MV 0 r
  .next (
    if s.pins.hold ≠ .none then s
    else if alarm = 0 || alarm ≤ v then updHv s1 fun h => { h with excursion := h.excursion.filter (· ≠ r) }
    else if s.hv.excursion.contains r then s1
    else telRecord (updHv s1 fun h => { h with excursion := h.excursion ++ [r] }) 0x54 r [getF s1 Reg.HV_RAIL_MIN_MV 0 r, alarm])

/-- BROWN_OUT (R510): reset, held until the supplies are back; the next bring-up has reset cause 1. -/
def execBrownOut (_rail : Fin 8) (s : State) : Out :=
  .next (if s.pins.hold = .brownOut then s else deviceReset s 1 0 .brownOut)

/-- BROWN_OUT_RELEASE. -/
def execBrownOutRelease (s : State) : Out := .next (if s.pins.hold = .brownOut then endHold s else s)

/-- The PLL is out of lock (R15): after bring-up it is reported as `PLL_LOCK`, the fault that leads to a device reset; from S1 to S7 the
error log takes the record and nothing contains it (log 13); S0 reports it itself. -/
def pllLost (s : State) : State :=
  let r := mkReport 0x4D .clock 0 0 0 0
  let s1 := updClk s fun k => { k with pllLocked := false }
  if ready s then report s1 r
  else if s.boot.stage = 0 || s.pins.hold ≠ .none then s1
  else writeLog (cnt s1 Reg.FM_CNT_ERRORS) r (nowNs s) 0 { cls := 0, escalated := false, nested := false, requested := false }

/-- PLL_LOCK_LOSS (R15). -/
def execPllLockLoss (s : State) : Out := .next (pllLost s)

/-- REFCLK_LOSS (R514): 0 `REFCLK_SYS`, 1 `REFCLK_PCIE`, 2 `REFCLK_SNS`. -/
def execRefclkLoss (which : Fin 3) (s : State) : Out :=
  .next (match which.val with
    | 0 => pllLost (updPins s fun p => { p with refSys := false })
    | 1 =>
      let s1 := updPins s fun p => { p with refPcie := false }
      if running s then hotResetOf s1 else s1
    | _ => thread dropLink (updPins s fun p => { p with refSns := false }) (upto 32))

/-! ### Wear (R491, R495) -/

/-- Bytes of a baseline entry's payload (log 30). -/
def baselineLen : Nat := 4 * 288

/-- The newest baseline entry of the flash log: one count for each monitor. -/
def flashBaseline (s : State) : Option (List Nat) :=
  s.sec.baseAt.bind fun b =>
    (((goodEntries s (65536 * b) 1023 64).filter fun e => e.type = 4).getLast?).map fun e =>
      (upto 288).map fun m => leNat (flashRead s (65536 * b + e.next - baselineLen + 4 * m) 4)

/-- Baselines in the registers; they are loaded from the log, or measured now where it holds none. -/
def loadBaseline (s : State) (counts : List Nat) : State :=
  if (upto 288).any fun m => getF s Reg.HV_WEAR_BASELINE 0 m ≠ 0 then s
  else
    let base := (flashBaseline s).getD counts
    let s1 := thread (fun s' m => setF s' Reg.HV_WEAR_BASELINE 0 m (base.getD m 0)) s (upto 288)
    if (flashBaseline s).isSome then s1 else logQueue s1 4 (baselineBytes s1)

/-- Degradation of a monitor, ppm. -/
def wearPpm (s : State) (m : Nat) : Nat :=
  let b := getF s Reg.HV_WEAR_BASELINE 0 m
  (b - getF s Reg.HV_WEAR_COUNT 0 m) * 1000000 / b

/-- WEAR_SAMPLE: the counts of the 288 monitors. -/
def execWearSample (counts : List Nat) (s : State) : Out :=
  let s1 := loadBaseline (thread (fun s' m => setF s' Reg.HV_WEAR_COUNT 0 m (counts.getD m 0)) s (upto 288)) counts
  let worst := (upto 288).foldl (fun (a : Nat × Nat) m => if a.1 < wearPpm s1 m then (wearPpm s1 m, m) else a) (0, 0)
  let s2 := setF (setF s1 Reg.HV_WEAR_STAT_WORST_PPM 0 0 (min 65535 worst.1)) Reg.HV_WEAR_STAT_MONITOR 0 0 worst.2
  .next (if !ready s then s else
    thread (fun s' m =>
      if fld s' Reg.HV_WEAR_CTL_LIMIT_PPM < wearPpm s' m && !s'.hv.wornPosted.contains m then
        telRecord (updHv s' fun h => { h with wornPosted := h.wornPosted ++ [m] }) 0x53 m [wearPpm s' m, getF s' Reg.HV_WEAR_COUNT 0 m]
      else s') s2 (upto 288))

/-! ### Telemetry (R493) -/

/-- TELEMETRY. -/
def execTelemetry (s : State) : Out :=
  let hot := hottest s.hv.logic
  let temps := (upto 4).map fun i => unsgn 8 (hottest (stackTemps s.hv.stackReads i)) * 2 ^ (16 + 8 * i)
  .next (if fld s Reg.HV_TEL_CTL_PERIOD_MS = 0 then s else
    telRecord s 0x52 s.clk.step
      [unsgn 8 hot + placeOf hot s.hv.logic * 2 ^ 8 + temps.sum, fld s Reg.CK_PWR_STAT_POWER + s.hv.passes % 65536 * 2 ^ 16])

end Sys2Proof.Machine
end

