-- ==== Sys2Proof/Machine/Boot.lean ====
section
/-! DEFINITION. Bring-up: the stages S0 to S8 and their boot records, firmware bundles, licences (R455 to R479). -/

namespace Sys2Proof.Machine

/-! ### Firmware bundles (R471, R472) -/

/-- All bytes of a range are 0. -/
def allZero (bs : List Byte) (off n : Nat) : Bool := ((bs.drop off).take n).all fun b => b = 0

def numAt (bs : List Byte) (off n : Nat) : Nat := leNat ((bs.drop off).take n)

/-- Components of a bundle: type, offset, size. -/
def components (bs : List Byte) : List (Nat × Nat × Nat) :=
  (upto (min 4 (numAt bs 6 2))).map fun i => (numAt bs (0x78 + 64 * i) 1, numAt bs (0x7C + 64 * i) 4, numAt bs (0x80 + 64 * i) 4)

/-- The header of a bundle is well formed. -/
def bundleHeader (bs : List Byte) : Bool :=
  let cs := components bs
  numAt bs 0 4 = 0x314D5850 && numAt bs 4 2 = 1 && 1 ≤ numAt bs 6 2 && numAt bs 6 2 ≤ 4 &&
  512 ≤ numAt bs 0x10 4 && numAt bs 0x10 4 ≤ 0x100000 && numAt bs 0x10 4 ≤ bs.length && allZero bs 0x14 4 && allZero bs 0x178 0x28 &&
  (cs.filter fun c => c.1 = 1).length = 1 && (cs.filter fun c => c.1 = 2).length ≤ 1 &&
  (cs.all fun c => 512 ≤ c.2.1 && c.2.1 + c.2.2 ≤ numAt bs 0x10 4 && (c.1 ≠ 1 || c.2.2 ≤ 0x40000)) &&
  ((upto cs.length).all fun i => numAt bs (0x78 + 64 * i) 1 = 1 || allZero bs (0x84 + 64 * i) 4) &&
  cs.zipIdx.all fun a => cs.zipIdx.all fun b => a.2 = b.2 || a.1.2.1 + a.1.2.2 ≤ b.1.2.1 || b.1.2.1 + b.1.2.2 ≤ a.1.2.1

/-- The check of a bundle in its order: the status of the first failure, or 0. A digest that is wrong has the status of a wrong
signature (log 31). -/
def bundleStatus (bs : List Byte) (c : Crypto) : Nat :=
  if !bundleHeader bs then 1 else if !c.keyOk then 2 else if !c.sigOk || !c.digestOk then 3 else 0

/-- Bytes of a bundle, by its header's length, of a source that has `n` bytes at most. -/
def bundleBytes (bs : List Byte) : List Byte := bs.take (numAt bs 0x10 4)

/-- Firmware slot in flash: 0 A, 1 B. -/
def slotBase (b : Nat) : Nat := 0x10000 + 0x100000 * b
def slotBytesIn (s : State) (b : Nat) : List Byte := flashRead s (slotBase b) (min 0x100000 (leNat (flashRead s (slotBase b + 0x10) 4)))

/-! ### Stages -/

/-- A stage is in progress. -/
def inStage (s : State) (n : Nat) : Bool := s.pins.hold = .none && s.boot.stage = n && !s.boot.fail

/-- A stage fails: its record is written and bring-up stops (R458). -/
def failStage (s : State) (stage code : Nat) (us : Nat) (d : List Nat) : State :=
  updBoot (bootRecord s stage (some code) s.boot.startNs us d) fun b => { b with fail := true, failCode := code }

/-- A stage passes: its record is written and the next one begins. -/
def passStage (s : State) (stage next : Nat) (us : Nat) (d : List Nat) : State :=
  updBoot (bootRecord s stage none s.boot.startNs us d) fun b => { b with stage := next, startNs := nowNs s }

/-- STAGE_S0 (R93, R455, R456, R462, R469, R519): on a pass FCLK runs and the time base has started at 0 with the lock. How long S0
took is no rule's, beyond its bound: a free value (log 3). -/
def execStageS0 (powerGood pllLocked : Bool) (bootMode : Fin 4) (lockUs : Nat) (s : State) : Out :=
  let us := Config.freeNat s.free % 10001
  let d := [s.boot.cause + s.boot.faultCause * 2 ^ 8, lockUs]
  .next (
    if !inStage s 0 then s
    else
      let s1 := drawn (setF s Reg.CK_PLL_STAT_LOCK_US 0 0 (min 65535 lockUs))
      if !powerGood then failStage s1 0 0x02 us d
      else if !pllLocked then failStage s1 0 0x01 us d
      else
        let s2 := updClk s1 fun k => { k with tb := 0, pllLocked := true }
        let s3 := updPins s2 fun p => { p with fclkRuns := true, resetOutLow := false, spiResetLow := false, refSys := true }
        let mode := if bootMode.val = 3 then 0 else bootMode.val
        passStage (updBoot s3 fun b => { b with mode := mode, s0Us := us }) 0 1 us d)

/-- Draw a new challenge (R483). -/
def newChallenge (s : State) : State :=
  updSec s fun k => { k with chal := Config.randomChallenge k.draws, draws := k.draws + 1 }

/-- `D2` of the record of S1. -/
def s1Detail (idValid idRecord a b : Bool) : Nat := b2n idValid + 2 * b2n idRecord + 4 * b2n a + 8 * b2n b

/-- A verified bundle boots: it fills the firmware store, which is locked, and the cores start; S1 ends. -/
def bootBundle (s : State) (src : Nat) (bs : List Byte) (detail : Nat) : State :=
  let s1 := updSec s fun k =>
    { k with store := wrBytes 0 [] 0 bs, fwLocked := true, bootSrc := src, fwVersion := numAt bs 8 4, licFloor := numAt bs 0xC 4 }
  let s2 := updBoot (startCores s1) fun b => { b with waitHost := false, s1Ns := nowNs s }
  passStage s2 1 3 0 [src, numAt bs 8 4 + Config.romVersion.toNat * 2 ^ 32, detail]

/-- STAGE_S1 (R472, R473, R480, R495): the place of the flash log, identity, then the verified slot with the higher version, slot A at a tie; in host mode, or after both
slots have failed in mode 0b10, S1 waits for a push. -/
def execStageS1 (selfTestOk : Bool) (slotA slotB : Crypto) (deviceId : BitVec 128) (idValid idRecord : Bool) (s : State) : Out :=
  .next (
    if !inStage s 1 || s.boot.waitHost then s
    else if !selfTestOk then failStage s 1 0x11 0 [0, Config.romVersion.toNat * 2 ^ 32]
    else
      let ok := idValid && idRecord
      let s1 := newChallenge (updSec (resumeLog s) fun k => { k with idValid := ok, devId := if ok then deviceId else 0, keyHeld := ok })
      let a := slotBytesIn s 0
      let b := slotBytesIn s 1
      let flash := s.boot.mode ≠ 1
      let okA := flash && bundleStatus a slotA = 0
      let okB := flash && bundleStatus b slotB = 0
      let d := s1Detail ok idRecord okA okB
      if okA && (!okB || numAt b 8 4 ≤ numAt a 8 4) then bootBundle s1 0 a d
      else if okB then bootBundle s1 1 b d
      else if s.boot.mode = 0 then failStage s1 1 0x10 0 [0, Config.romVersion.toNat * 2 ^ 32, d]
      else updBoot s1 fun k => { k with waitHost := true, s1Info := d })

/-- STAGE_S2 (R456): the link has reached its final rate and width. It runs beside S3 and the stages after it, and no failure of those
keeps it from ending. -/
def execStageS2 (speed width : Fin 16) (flit : Bool) (tags : Fin 4) (s : State) : Out :=
  let s1 := linkTrained s speed width flit tags
  .next (if s.pins.hold = .none && 3 ≤ s.boot.stage && !s.boot.linkDone then
    updBoot (bootRecord s1 2 none s.boot.s1Ns 0
      [s1.hl.speed + s1.hl.width % 16 * 8 + b2n flit * 2 ^ 7 + s1.hl.tags * 2 ^ 8]) fun b => { b with linkDone := true }
  else s)

/-! ### Repair (R332, R333, R465, R466) -/

/-- Spare rows of a bank that are neither in use nor failed. -/
def freeSpare (k : Channel) (bank : Nat) (bad : List Nat) : Option Nat :=
  (upto 16).find? fun x => !bad.contains x && !(k.repairs.any fun r => r.bank = bank && r.spare = x)

/-- Repair a row where its bank has a spare and its channel an entry; else it is a row that has to be withheld. -/
def repairRow (bads : List (Nat × Nat × Nat)) (march : Bool) (s : State) (r : Nat × Nat × Nat) : State :=
  let (c, bank, row) := r
  let k := channel s c
  if k.repairs.any fun e => e.bank = bank && e.row = row then s
  else match freeSpare k bank (bads.filterMap fun b => if b.1 = c && b.2.1 = bank then some b.2.2 else none) with
    | some x =>
      if k.repairs.length < 64 then updChannel s c fun e => { e with repairs := e.repairs ++ [{ bank := bank, row := row, spare := x, march := march }] }
      else updDram s fun d => { d with badRows := d.badRows ++ [r] }
    | none => updDram s fun d => { d with badRows := d.badRows ++ [r] }

/-- Rows of a repair record, of a kind. -/
def recordRows (s : State) (kind : Nat) : List (Nat × Nat × Nat) :=
  match repairPick s with
  | none => []
  | some p => p.2.2.filterMap fun e => if e.2.2.2 = kind then some (e.1, e.2.1, e.2.2.1) else none

/-- Rows repaired in all channels. -/
def repairCount (s : State) : Nat := (s.chans.map fun c => c.2.repairs.length).sum

/-- STAGE_S3 (R322, R332, R455): the repair tables are loaded and the map of the reset values committed. -/
def execStageS3 (channelsTrained : Nat) (s : State) : Out :=
  .next (
    if !inStage s 3 then s
    else if channelsTrained < 256 then failStage s 3 0x30 0 [channelsTrained, 0, 0xFF]
    else
      let s1 := thread (repairRow [] false) s (recordRows s 0)
      let s2 := commitMap s1 (bit s Reg.MEM_MAP_CTL_HASH 0 0) (fld s Reg.MEM_MAP_RET_BASE / 65536 * 65536) (fld s Reg.MEM_MAP_RET_SIZE)
      passStage s2 3 4 0 [channelsTrained, repairCount s2, (repairPick s).elim 0xFF (·.1)])

/-- A repair whose spare has failed is taken back; its row is repaired again with the others. -/
def dropSpares (bads : List (Nat × Nat × Nat)) (s : State) : State × List (Nat × Nat × Nat) :=
  let lost := s.chans.flatMap fun (c : Nat × Channel) => (c.2.repairs.filter fun r => bads.contains (c.1, r.bank, r.spare)).map fun r => (c.1, r.bank, r.row)
  ({ s with chans := s.chans.map fun (c : Nat × Channel) => (c.1, { c.2 with repairs := c.2.repairs.filter fun r => !bads.contains (c.1, r.bank, r.spare) }) },
   lost)

/-- STAGE_S4 (R332, R333, R463 to R466): rows that the March test fails, and the record's suspect rows, are repaired or withheld; DRAM
holds zeros; the other copy of the record is written. -/
def execStageS4 (failedRows : List (Fin 256 × Fin 16 × Nat)) (failedSpares : List (Fin 256 × Fin 16 × Fin 16)) (s : State) : Out :=
  let known := fun (s' : State) (r : Nat × Nat × Nat) =>
    (channel s' r.1).repairs.any fun e => e.bank = r.2.1 && e.row = r.2.2
  let bads := (failedSpares.map fun f => (f.1.val, f.2.1.val, f.2.2.val)).eraseDups
  let rows := ((failedRows.map fun f => (f.1.val, f.2.1.val, f.2.2)).filter fun r => r.2.2 < 12288 && !known s r && !s.dram.badRows.contains r).eraseDups
  .next (
    if !inStage s 4 then s
    else
      let back := dropSpares bads s
      let s1 := thread (repairRow bads false) back.1 back.2
      let s2 := thread (repairRow bads true) s1 rows
      let s3 := thread (repairRow bads false) s2 (recordRows s 1)
      let s4 := { updDram s3 fun d => { d with gen := 0, withheld := withheldOf { d with badRows := d.badRows.eraseDups }, badRows := d.badRows.eraseDups } with
                    mem := [], blocks := [] }
      let frames := (s4.dram.badRows.flatMap fun r => (upto 4).map fun i => frameOf s4.dram (r.2.2 * 64 + r.2.1 * 4 + i)).eraseDups.length
      let d := [rows.length + bads.length, repairCount s4, frames, bads.length]
      if 256 < frames then failStage s4 4 0x40 0 d
      else passStage (writeRepair s4 (repairRows s4 false)) 4 5 0 d)

/-! ### Self-test and known answers (R124, R125, R467, R468) -/

/-- `D2` of S5 and `D1` of S6 on a failure. -/
def unitWord (u : Option (UnitKind × Nat)) : Nat := u.elim 0 fun k => unitCode k.1 + k.2 % 65536 * 2 ^ 16

/-- STAGE_S5: every SRAM holds zeros; failing tiles leave the grid. -/
def execStageS5 (failedTiles : List (Fin 272)) (otherUnit : Option (UnitKind × Nat)) (s : State) : Out :=
  let bad := (failedTiles.map (·.val)).eraseDups
  .next (
    if !inStage s 5 then s
    else
      let s1 := formGrid { s with grid := { s.grid with cold := bad }, tiles := [], spPoison := [], iram := [], bitVars := [], mem := s.mem.filter fun e => e.1 < spBase } bad
      let d := [s1.grid.rows, bad.length, unitWord otherUnit]
      if otherUnit.isSome then failStage s1 5 0x50 0 d
      else if s1.grid.rows = 0 then failStage s1 5 0x51 0 d
      else passStage s1 5 6 0 d)

/-- STAGE_S6: a tile that fails its known answers is harvested and the grid is formed again; any other unit stops bring-up. -/
def execStageS6 (failedTiles : List (Fin 272)) (otherUnit : Option (UnitKind × Nat)) (s : State) : Out :=
  let new := ((failedTiles.map (·.val)).filter fun p => !s.grid.failed.contains p).eraseDups
  .next (
    if !inStage s 6 then s
    else
      let s1 := formGrid s (s.grid.failed ++ new)
      let d := [new.length, unitWord otherUnit, s1.grid.rows]
      if otherUnit.isSome then failStage s1 6 0x60 0 d else passStage s1 6 7 0 d)

/-! ### Licences (R476 to R478) -/

/-- The fields and reserved bytes of a licence are well formed. -/
def licenceForm (bs : List Byte) : Bool :=
  let keys := numAt bs 0x22 2 % 8
  numAt bs 0 4 = 0x314C5850 && numAt bs 4 2 = 1 && allZero bs 6 2 && numAt bs 8 8 ≠ 0 && keys ≤ 4 && numAt bs 0x22 2 / 8 = 0 &&
  allZero bs 0x28 8 && allZero bs (0x30 + 48 * keys) (0xC0 - 48 * keys) && allZero bs 0xF0 0xB0

/-- The check of a licence in the order of R477: the status of the first failure, or 0. Its signer is the vendor (R474). -/
def licenceStatus (s : State) (bs : List Byte) (c : Crypto) : Nat :=
  if !licenceForm bs then 1
  else if !c.keyOk then 2
  else if !c.sigOk then 3
  else if !s.sec.idValid then 9
  else if numAt bs 0x10 16 ≠ s.sec.devId.toNat then 4
  else if ! [128, 192, 256].contains (numAt bs 0x20 2) then 7
  else if s.sec.fwVersion < numAt bs 0x24 4 then 5
  else if numAt bs 0x24 4 < s.sec.licFloor then 6
  else if anyPlan s then 8
  else 0

/-- Put a licence in force: it sets how many tiles of the grid are enabled (R125). -/
def applyLicence (s : State) (bs : List Byte) : State :=
  let s1 := updSec s fun k => { k with licence := some { serial := BitVec.ofNat 64 (numAt bs 8 8), tiles := numAt bs 0x20 2 } }
  formGrid s1 s1.grid.failed

/-- Entry `i` of the licence store. -/
def licEntry (s : State) (i : Nat) : List Byte := flashRead s (0x210000 + 512 * i) 512

/-- STAGE_S7: of the entries that pass, the one with the most tiles, then the highest serial. Entries without an outcome of their
checks among the operands are none. -/
def execStageS7 (checks : List (Nat × Crypto)) (s : State) : Out :=
  .next (
    if !inStage s 7 || s.boot.s7Done then s
    else
      let cands := checks.filterMap fun c => if c.1 < 256 && numAt (licEntry s c.1) 0 4 = 0x314C5850 then some (licEntry s c.1, c.2) else none
      let good := (cands.filter fun c => licenceStatus s c.1 c.2 = 0).map (·.1)
      let refused := (cands.map fun c => licenceStatus s c.1 c.2).filter fun x => x ≠ 0
      let rank := fun (b : List Byte) => numAt b 0x20 2 * 2 ^ 64 + numAt b 8 8
      let s1 := match leastBy (fun a b => decide (rank b < rank a)) good with
        | some b => applyLicence s b
        | none => s
      let d := [s1.sec.licence.elim 0 fun l => l.serial.toNat, s1.grid.enabled, refused.getLastD 0]
      updBoot (bootRecord s1 7 none s.boot.startNs 0 d) fun b => { b with s7Done := true, startNs := nowNs s })

/-- STAGE_S8 (R456): S2 and S7 have both completed. -/
def execStageS8 (s : State) : Out :=
  .next (if inStage s 7 && s.boot.s7Done && s.boot.linkDone then
    passStage s 8 8 0 [(s.boot.s0Us + nowNs s / 1000) / 1000]
  else s)

end Sys2Proof.Machine
end

