-- ==== Sys2Proof/Machine/Security.lean ====
section
/-! DEFINITION. The commands of the security block and the debug port (R194, R462, R473, R477 to R487). A check or an effect is made at
the command; what a command writes to flash is written by FLASH_WRITE, which ends it. -/

namespace Sys2Proof.Machine

/-! ### Commands (R487) -/

/-- A write of `SEC_CMD` with an operation: ignored while a command runs, `BAD_STAGE` where it is not allowed. -/
def secCmd (s : State) (op : Nat) (allowed : Bool) (body : State → State) : State :=
  if !answers s 0x200030 then s
  else if s.sec.busy.isSome then setF s Reg.SEC_CMD_STAT_REJ 0 0 1
  else
    let s1 := setF s Reg.SEC_CMD_STAT_OP 0 0 op
    if allowed then body s1 else secDone s1 12

/-- S1 has ended. -/
def pastS1 (s : State) : Bool := 3 ≤ s.boot.stage

/-- The staging area. -/
def stageBytes (s : State) : List Byte := (upto 64).flatMap fun i => natLE 8 (getF s Reg.SEC_STAGE 0 i)
def putStage (s : State) (bs : List Byte) : State :=
  thread (fun s' i => setF s' Reg.SEC_STAGE 0 i (leNat ((bs.drop (8 * i)).take 8))) s (upto 64)

/-- The command runs until its flash writes have ended; without any it has ended. -/
def secWrites (s : State) (op : Nat) (ws : List (Nat × List Byte)) : State :=
  if ws.isEmpty then secDone s 0
  else thread (fun s' (w : Nat × List Byte) => flashQueue s' op w.1 w.2) (updSec s fun k => { k with busy := some op }) ws

/-! ### Licences (R479) -/

/-- LIC_APPLY. -/
def execLicApply (c : Crypto) (s : State) : Out :=
  .next (secCmd s 1 (ready s) fun s' =>
    let bs := stageBytes s'
    let st := licenceStatus s' bs c
    secDone (if st = 0 then applyLicence s' bs else s') st)

/-- Where a licence is stored: the entry with its serial, or else the first erased one. -/
def licSlot (s : State) (bs : List Byte) : Option Nat :=
  match (upto 256).find? fun i => numAt (licEntry s i) 0 4 = 0x314C5850 && numAt (licEntry s i) 8 8 = numAt bs 8 8 with
  | some i => some i
  | none => (upto 256).find? fun i => (licEntry s i).all fun b => b = erased

/-- LIC_STORE: a licence that no entry is free for stays applied, as one that cannot be written does. -/
def execLicStore (c : Crypto) (s : State) : Out :=
  .next (secCmd s 2 (ready s) fun s' =>
    let bs := stageBytes s'
    let st := licenceStatus s' bs c
    if st ≠ 0 then secDone s' st
    else match licSlot s' bs with
      | some i => secWrites (applyLicence s' bs) 2 [(0x210000 + 512 * i, bs)]
      | none => secDone (applyLicence s' bs) 14)

/-- The entry holds the licence in force. -/
def holdsForce (s : State) (i : Nat) : Bool :=
  s.sec.licence.elim false fun l => numAt (licEntry s i) 0 4 = 0x314C5850 && numAt (licEntry s i) 8 8 = l.serial.toNat

/-- LIC_CLEAR. -/
def execLicClear (s : State) : Out :=
  .next (secCmd s 8 (ready s) fun s' =>
    let gone := (upto 256).filter fun i => !holdsForce s' i && !((licEntry s' i).all fun b => b = erased)
    secWrites s' 8 (gone.map fun i => (0x210000 + 512 * i, List.replicate 512 erased)))

/-! ### Identity (R480, R481) -/

/-- The digest over the loaded plans, in increasing plan id. -/
def plansDigest (s : State) : List Byte :=
  if s.sec.planDigests.isEmpty then zeros 48
  else natLE 48 (Config.sha384 ((sortBy (fun (a b : Nat × BitVec 384) => decide (a.1 ≤ b.1)) s.sec.planDigests).flatMap
    fun d => natLE 1 d.1 ++ natLE 48 d.2.toNat)).toNat

/-- Bytes 0x000 to 0x19F of a report on a nonce. -/
def reportBody (s : State) (nonce : List Byte) : List Byte :=
  natLE 4 0x31415850 ++ natLE 2 1 ++ natLE 1 s.boot.stage ++ natLE 1 0 ++ natLE 16 s.sec.devId.toNat ++ nonce ++
    natLE 4 s.sec.fwVersion ++ natLE 4 Config.romVersion.toNat ++ natLE 48 (Config.sha384 (rdBytes 0 s.sec.store 0 0x1A0)).toNat ++
    natLE 8 (s.sec.licence.elim 0 fun l => l.serial.toNat) ++ natLE 2 s.grid.enabled ++
    natLE 2 (s.plans.filter fun e => e.2.loaded).length ++ zeros 4 ++ plansDigest s ++ natLE 96 Config.deviceKey.toNat ++ zeros 128

/-- ATTEST: the staging contents become the signed report, while the device key is held (R484). -/
def execAttest (s : State) : Out :=
  .next (secCmd s 3 (pastS1 s) fun s' =>
    if !s'.sec.idValid then secDone s' 9
    else if !s'.sec.keyHeld then secDone s' 10
    else
      let body := reportBody s' ((stageBytes s').take 48)
      secDone (putStage s' (body ++ natLE 96 (Config.deviceSign body).toNat)) 0)

/-- CERT_READ: the certificate is copied to the staging area. -/
def execCertRead (s : State) : Out :=
  .next (secCmd s 7 (pastS1 s) fun s' => secDone (putStage s' (flashRead s' 0 512)) 0)

/-! ### Debug (R482 to R484) -/

/-- The status of an unlock token. -/
def tokenStatus (s : State) (bs : List Byte) (c : Crypto) : Nat :=
  if numAt bs 0 4 ≠ 0x31445850 || 8 ≤ numAt bs 4 4 || !allZero bs 8 8 || !allZero bs 0x40 0x160 then 1
  else if !c.sigOk then 3
  else if numAt bs 0x10 16 ≠ s.sec.devId.toNat then 4
  else if numAt bs 0x20 32 ≠ s.sec.chal.toNat then 13
  else 0

/-- DEBUG_UNLOCK: an unlock opens its scopes, sets event source 29 and clears the device key; every attempt draws a new challenge. -/
def execDebugUnlock (c : Crypto) (s : State) : Out :=
  .next (secCmd s 4 (pastS1 s) fun s' =>
    let bs := stageBytes s'
    let st := tokenStatus s' bs c
    let s1 := if st = 0 then
        { updSec s' fun k => { k with scopes := k.scopes ||| BitVec.ofNat 3 (numAt bs 4 4), keyHeld := false } with
          latches := s'.latches ||| BitVec.ofNat 16 (2 ^ 13) }
      else s'
    secDone (newChallenge s1) st)

/-- DEBUG_HALT (R194): the running task of a tile stops at its next bundle boundary that is no delay slot and no repetition. -/
def execDebugHalt (t : Fin 256) (s : State) : Out :=
  .next (match (tile s t.val).running with
    | some c => if s.sec.scopes.getLsbD 1 then debugStop (updTile s t.val fun u => { u with haltReq := some c }) t.val c else s
    | none => s)

/-- Resume the halted task of a tile; a step asks for a halt after its next bundle. -/
def resumeTile (s : State) (t : Nat) (step : Bool) : State :=
  match (tile s t).running with
  | none => s
  | some c =>
    if s.sec.scopes.getLsbD 1 && (ctxOf s t c).state = .halted then
      updTile (updCtx s t c fun k => { k with state := .running }) t fun u => { u with haltReq := if step then some c else none }
    else s

/-- Resume a halted core; a step asks for a halt after its next instruction. -/
def resumeCore (s : State) (n : Nat) (step : Bool) : State :=
  if s.sec.scopes.getLsbD 0 && (coreNo s n).run = .halted then
    updCore s n fun k => { k with run := .running, step := step }
  else s

/-- DEBUG_RESUME (R482). -/
def execDebugResume (t : Option (Fin 256)) (c : Option (Fin 8)) (step : Bool) (s : State) : Out :=
  let s1 := match t with | some x => resumeTile s x.val step | none => s
  .next (match c with | some n => resumeCore s1 n.val step | none => s1)

/-- DEBUG_RESET (R462): through a debug port with any scope open (log 31). -/
def execDebugReset (s : State) : Out :=
  .next (if running s && s.sec.scopes ≠ 0 then deviceReset s 6 0 .none else s)

/-! ### Firmware (R472, R473, R487) -/

/-- BOOT_GO: a pushed bundle that is verified boots; one that is not leaves the store writable. -/
def execBootGo (c : Crypto) (s : State) : Out :=
  .next (secCmd s 5 s.boot.waitHost fun s' =>
    let bs := rdBytes 0 s'.sec.store 0 (min 0x100000 (storeNat s' 0x10 4))
    let st := bundleStatus bs c
    let s1 := secDone s' st
    if st = 0 then bootBundle s1 2 bs s1.boot.s1Info else s1)

/-- SLOT_WRITE: a verified bundle, from DRAM or the host window, goes to a slot. A bundle that lies elsewhere, or whose bytes come
poisoned, is `MALFORMED` (log 31). -/
def execSlotWrite (c : Crypto) (s : State) : Out :=
  .next (secCmd s 6 (ready s) fun s' =>
    let a := fld s' Reg.SEC_ARG_ADDR
    let head := devRead s' a 0x14 .clean 0
    let n := max 0x14 (min 0x100000 (leNat ((head.1.map (·.1)).drop 0x10)))
    let placed := a + n ≤ dramTop || inHostWin s' a n
    let got := devRead head.2 a n .clean 0
    let bs := got.1.map (·.1)
    let st := if !placed || got.1.any (·.2) then 1 else bundleStatus bs c
    if st ≠ 0 then secDone (if placed then got.2 else s') st
    else secWrites got.2 6 [(slotBase (fld s' Reg.SEC_ARG_SLOT), bundleBytes bs)])

end Sys2Proof.Machine
end

