-- ==== Sys2Proof/Machine/Access.lean ====
section
/-! DEFINITION. Writes of BAR0 registers by any requester (R341 to R344, R408, R422): plain fields, and the fields whose write is a
command of its own, which the write performs. -/

namespace Sys2Proof.Machine

/-- What a command that always answers a next state leaves. -/
def after (o : State → Out) (s : State) : State :=
  match o s with
  | .next t => t
  | _ => s

/-- A write of `SEC_CMD` (R5, R487): the operation it names is performed. What its checks find is a free value (log 4). -/
def secWrite (s : State) (op : Nat) : State :=
  let c : Crypto := ⟨Config.checkGood s.free 0, Config.checkGood s.free 1, Config.checkGood s.free 2⟩
  let s1 := drawn s
  match op with
  | 1 => after (execLicApply c) s1
  | 2 => after (execLicStore c) s1
  | 3 => after execAttest s
  | 4 => after (execDebugUnlock c) s1
  | 5 => after (execBootGo c) s1
  | 6 => after (execSlotWrite c) s1
  | 7 => after execCertRead s
  | 8 => after execLicClear s
  | _ => secUnlisted s op

/-- A write of the register of field `f`, its copy `i` on channel `ch`, that performs the commands its bits `v` ask for: those commands
store the register's other fields, or `rest` has. -/
def regCommand (s rest : State) (f : Fld) (i ch v : Nat) : State :=
  let on := fun (k : Nat) (o : State → Out) (s' : State) => if v.testBit k then after o s' else s'
  let w := BitVec.ofNat 32 v
  match f.off with
  | 0x18 => after (execGcEnableWrite w) s
  | 0x100040 => after (execAclkForceStep (BitVec.ofNat 2 (v / 16))) s
  | 0x300018 => after (execFmLogAck (BitVec.ofNat 16 v)) s
  | 0x300020 => on 2 (execRetryTbl (Fin.ofNat 32 (v / 256))) (on 1 execDevReset (on 0 execFrost s))
  | 0x500010 => after (execEventSet (Fin.ofNat 1024 v)) s
  | 0x500018 => after (execEventClear (Fin.ofNat 1024 v)) s
  | 0x600008 => after (execQmEnable w) s
  | 0x601000 =>
    if v.testBit 0 then after (execRingEnable (Fin.ofNat 2097152 ch) w) s
    else after (execRingDisable (Fin.ofNat 2097152 ch)) rest
  | 0x900018 => after (execEpochAdvance w) s
  | 0xA01000 => after (execPortEnable (Fin.ofNat 32 ch) w) s
  | 0xB00100 => after (execEncoderEnable (Fin.ofNat 8 i) (BitVec.ofNat 64 v)) s
  | 0xB00400 => on 17 (execTriggerFire (Fin.ofNat 32 i)) (after (execTriggerEnable (Fin.ofNat 32 i) w) s)
  | 0xB00A08 => after (execTimeStep (BitVec.ofNat 64 v)) s
  | 0xB00A18 => after (execTimeAdjust w) s
  | 0xC00000 => after (execIngestEnable w) s
  | 0xD01000 => after (execBeEnable (Fin.ofNat 32 ch) w) s
  | 0xD01008 => after (execTableLoad (Fin.ofNat 32 ch) (BitVec.ofNat 48 v)) s
  | 0xD01010 => on 0 (execTableSwapRequest (Fin.ofNat 32 ch)) s
  | 0xE02000 => after (execSeCtxArm (Fin.ofNat 32 ch) (Fin.ofNat 64 i) (BitVec.ofNat 48 v)) s
  | 0xE02030 => on 1 (execSeResume (Fin.ofNat 32 ch) (Fin.ofNat 64 i)) (on 0 (execSeCancel (Fin.ofNat 32 ch) (Fin.ofNat 64 i)) s)
  | 0xF01308 => (logicalOf s ch).elim s fun t => on 0 (execResidueInject (Fin.ofNat 256 t)) s
  | 0x1000008 => on 1 execMapCommit rest
  | 0x1001008 => on 0 (execCrcInject (Fin.ofNat 256 ch)) rest
  | _ => rest

/-- Write bits [lo + n − 1 : lo] of a register. -/
def writeBits (s : State) (q off lo n v : Nat) : State :=
  let rest := commitBits s q off lo n v
  match (fieldsAt off).find? fun p => p.1.own && lo ≤ p.1.lo && p.1.lo + p.1.w ≤ lo + n with
  | none => rest
  | some p => match chanIx s q p.1 with
    | none => rest
    | some ch => regCommand s rest p.1 p.2 ch v

/-- One register write raises at most one `CFG_LOCKED`, captured with the write's own offset and its requester's selection (R344). -/
def oneLocked (s : State) (q off : Nat) (t : State) : State :=
  let n := fld s Reg.HL_CNT_CFG_LOCKED
  if fld t Reg.HL_CNT_CFG_LOCKED ≤ n then t
  else
    let t1 := setF t Reg.HL_CNT_CFG_LOCKED 0 0 (n + 1)
    if bit s Reg.HL_REG_ERR_CFG_LOCKED 0 0 then t1
    else setF (setF t1 Reg.HL_REG_ERR_OFFSET 0 0 off) Reg.HL_REG_ERR_SEL 0 0 (selOf s q off)

/-- A register write (R341 to R343). -/
def regStore (s : State) (q off size data : Nat) : State :=
  if !okAccess off size then badAccess s
  else if !answers s off then s
  else if secLocked s off then setF s Reg.SEC_CMD_STAT_REJ 0 0 1
  else if off = 0x200030 then secWrite s (data % 16)
  else if 0x280000 ≤ off ∧ off < 0x300000 then bootWinWrite s off size data
  else
    let base := off / 8 * 8
    let k := halfKey q base
    if size = 8 then writeBits { s with heldLow := mset 0 s.heldLow k 0 } q base 0 64 (data % 2 ^ 64)
    else if inMsixTable base then
      if base / 8 % 2 = 0 then
        let old := currentBits s q base
        let v := if off % 8 = 0 then old / 2 ^ 32 * 2 ^ 32 + data % 2 ^ 32 else old % 2 ^ 32 + data % 2 ^ 32 * 2 ^ 32
        writeBits s q base 0 64 v
      else writeBits s q base (off % 8 * 8) 32 (data % 2 ^ 32 * 2 ^ (off % 8 * 8))
    else if is64 base then
      if off % 8 = 0 then { s with heldLow := mset 0 s.heldLow k (data % 2 ^ 32 + 1) }
      else
        let h := mget 0 s.heldLow k
        let low := if h = 0 then currentBits s q base % 2 ^ 32 else h - 1
        writeBits { s with heldLow := mset 0 s.heldLow k 0 } q base 0 64 (low + data % 2 ^ 32 * 2 ^ 32)
    else if off % 8 = 0 then writeBits s q base 0 32 (data % 2 ^ 32)
    else s

/-- A register write, with what R344 makes of it. -/
def regWrite (s : State) (q off size data : Nat) : State := oneLocked s q off (regStore s q off size data)

/-! ### Commands -/

/-- REGISTER_WRITE (R343). -/
def execRegisterWrite (req : Req) (off size : Nat) (data : Word) (s : State) : Out :=
  .next (if reached s req && windowShut s (reqIx req) off size then waitWindow s (getF s Reg.QM_SEL_RING (reqIx req) 0)
    else if reached s req then regWrite (touchWindow s (reqIx req) off size) (reqIx req) off size data.toNat else s)

/-- CORE_STORE_COMMIT (R416): the oldest store of the buffer takes effect, and is acknowledged with it (log 28); one that
completes with an error raises `BUS`. -/
def execCoreStoreCommit (n : Fin 8) (busError : Bool) (s : State) : Out :=
  .next (match (coreNo s n.val).sb with
    | [] => s
    | e :: rest =>
      let s1 := updCore s n.val fun k => { k with sb := rest }
      match coreMem s e.addr with
      | .tcm o => { s1 with tcm := wrBytes 0 s1.tcm (n.val * 2 ^ 18 + o) e.bytes }
      | .bits o => { s1 with bitVars := wrBytes 0 s1.bitVars o e.bytes }
      | .dev a => if busError then takeTrap s1 n.val 0x08 e.addr else devPut s1 a e.bytes
      | .reg o => if windowShut s (1 + n.val) o e.bytes.length then waitWindow s (getF s Reg.QM_SEL_RING (1 + n.val) 0)
        else if busError then takeTrap s1 n.val 0x08 e.addr
        else regWrite (touchWindow s1 (1 + n.val) o e.bytes.length) (1 + n.val) o e.bytes.length (leNat e.bytes)
      | .bad => s1)

end Sys2Proof.Machine
end

