-- ==== Sys2Proof/Machine/LaneRows.lean ====
section
/-! DEFINITION. The rows of the lane engine: each issues the running task's next bundle where that bundle holds one of its
operations (log 23). The bundle is what the fetch has delivered (R139, R142). -/

namespace Sys2Proof.Machine

/-- SCALAR_ALU (R166): an S-slot operation that computes a scalar. -/
def execScalarAlu (t : Fin 256) (b : BitVec 128) (s : State) : Out := .next (laneIssue .scalar t.val b 0 [] s)

/-- VTAKE (R131, R166): `vn` = min(c, CAP), rd = what is left. -/
def execVtake (t : Fin 256) (b : BitVec 128) (s : State) : Out := .next (laneIssue .vtake t.val b 0 [] s)

/-- VFORM (R131, R166): `vfmt` is written and `vn` becomes the new CAP. -/
def execVform (t : Fin 256) (b : BitVec 128) (s : State) : Out := .next (laneIssue .vform t.val b 0 [] s)

/-- PREDICATE_LOGIC (R166, R167): an S-slot operation that sets a predicate. -/
def execPredicateLogic (t : Fin 256) (b : BitVec 128) (s : State) : Out := .next (laneIssue .pred t.val b 0 [] s)

/-- ADDRESS_OP (R165, R168): an A-slot operation. -/
def execAddressOp (t : Fin 256) (b : BitVec 128) (s : State) : Out := .next (laneIssue .addr t.val b 0 [] s)

/-- LI (R162): a 64-bit immediate into an `s`, `a` or `m` register. -/
def execLi (t : Fin 256) (b : BitVec 128) (s : State) : Out := .next (laneIssue .li t.val b 0 [] s)

/-- VECTOR_INTEGER (R169): an element-wise integer operation, `vsel` or `vbcast`. -/
def execVectorInteger (t : Fin 256) (b : BitVec 128) (s : State) : Out := .next (laneIssue .vint t.val b 0 [] s)

/-- VECTOR_COMPARE (R169): a comparison writes a predicate. -/
def execVectorCompare (t : Fin 256) (b : BitVec 128) (s : State) : Out := .next (laneIssue .vcmp t.val b 0 [] s)

/-- VPERM (R169): vd[i] = vs1[op2[i] mod CAP]. -/
def execVperm (t : Fin 256) (b : BitVec 128) (s : State) : Out := .next (laneIssue .vperm t.val b 0 [] s)

/-- VCVT (R171): a conversion between types. -/
def execVcvt (t : Fin 256) (b : BitVec 128) (s : State) : Out := .next (laneIssue .vcvt t.val b 0 [] s)

/-- VECTOR_FLOAT (R170): a BF16 or FP32 operation. -/
def execVectorFloat (t : Fin 256) (b : BitVec 128) (s : State) : Out := .next (laneIssue .vfloat t.val b 0 [] s)

/-- VECTOR_REDUCTION (R169): a reduction into bytes 0 to 7 of vd. -/
def execVectorReduction (t : Fin 256) (b : BitVec 128) (s : State) : Out := .next (laneIssue .vred t.val b 0 [] s)

/-- VFREDSUM (R172): the FP32 sum in its fixed order. -/
def execVfredsum (t : Fin 256) (b : BitVec 128) (s : State) : Out := .next (laneIssue .vfredsum t.val b 0 [] s)

/-- VBEXP (R173): the block exponent of the active elements. -/
def execVbexp (t : Fin 256) (b : BitVec 128) (s : State) : Out := .next (laneIssue .vbexp t.val b 0 [] s)

/-- SCALAR_LOAD (R150, R174, R191): a scalar load. -/
def execScalarLoad (t : Fin 256) (b : BitVec 128) (upset : List Nat) (s : State) : Out := .next (laneIssue .sload t.val b 0 upset s)

/-- SCALAR_STORE (R149, R174): a scalar store enters the store buffer. -/
def execScalarStore (t : Fin 256) (b : BitVec 128) (s : State) : Out := .next (laneIssue .sstore t.val b 0 [] s)

/-- VLD (R174): a vector load. -/
def execVld (t : Fin 256) (b : BitVec 128) (upset : List Nat) (s : State) : Out := .next (laneIssue .vld t.val b 0 upset s)

/-- VST (R174): a vector store. -/
def execVst (t : Fin 256) (b : BitVec 128) (s : State) : Out := .next (laneIssue .vst t.val b 0 [] s)

/-- VGATHER (R175, R177): an indexed load. -/
def execVgather (t : Fin 256) (b : BitVec 128) (upset : List Nat) (s : State) : Out := .next (laneIssue .vgather t.val b 0 upset s)

/-- VSCATTER (R175, R177): an indexed store. -/
def execVscatter (t : Fin 256) (b : BitVec 128) (s : State) : Out := .next (laneIssue .vscatter t.val b 0 [] s)

/-- IST (R186): 128 bytes of a vector register into instruction RAM. -/
def execIst (t : Fin 256) (b : BitVec 128) (s : State) : Out := .next (laneIssue .ist t.val b 0 [] s)

/-- BR (R178): a conditional branch with its delay slot. -/
def execBr (t : Fin 256) (b : BitVec 128) (s : State) : Out := .next (laneIssue .br t.val b 0 [] s)

/-- CALL (R178): s31 = `pc` + 32, and a branch. -/
def execCall (t : Fin 256) (b : BitVec 128) (s : State) : Out := .next (laneIssue .call t.val b 0 [] s)

/-- JR (R178): a jump to a register. -/
def execJr (t : Fin 256) (b : BitVec 128) (s : State) : Out := .next (laneIssue .jr t.val b 0 [] s)

/-- RPT (R180): the next bundle, given too, is repeated. -/
def execRpt (t : Fin 256) (b next : BitVec 128) (s : State) : Out := .next (laneIssue .rpt t.val b next [] s)

/-- SYWAIT (R183, R279): wait until a counter has reached s[`RS`]. -/
def execSywait (t : Fin 256) (b : BitVec 128) (s : State) : Out := .next (laneIssue .sywait t.val b 0 [] s)

/-- SYADD (R183, R278, R279): add to a sync object. -/
def execSyadd (t : Fin 256) (b : BitVec 128) (s : State) : Out := .next (laneIssue .syadd t.val b 0 [] s)

/-- HQPUSH (R283, R284): push the held slot and take the next. -/
def execHqpush (t : Fin 256) (b : BitVec 128) (s : State) : Out := .next (laneIssue .hqpush t.val b 0 [] s)

/-- HQPOP (R283, R284): take the next filled slot. -/
def execHqpop (t : Fin 256) (b : BitVec 128) (s : State) : Out := .next (laneIssue .hqpop t.val b 0 [] s)

/-- HQREL (R283): release the oldest slot held. -/
def execHqrel (t : Fin 256) (b : BitVec 128) (s : State) : Out := .next (laneIssue .hqrel t.val b 0 [] s)

/-- EMIT (R183, R373, R387): stage a record or a token. -/
def execEmit (t : Fin 256) (b : BitVec 128) (s : State) : Out := .next (laneIssue .emit t.val b 0 [] s)

/-- MX_RUN (R213, R274): queue a RUN on the array. -/
def execMxRun (t : Fin 256) (b : BitVec 128) (s : State) : Out := .next (laneIssue .mxRun t.val b 0 [] s)

/-- MX_CBLOAD (R213, R274): queue a CBLOAD. -/
def execMxCbload (t : Fin 256) (b : BitVec 128) (s : State) : Out := .next (laneIssue .mxCbload t.val b 0 [] s)

/-- MX_SIGNAL (R183, R213): queue a SIGNAL. -/
def execMxSignal (t : Fin 256) (b : BitVec 128) (s : State) : Out := .next (laneIssue .mxSignal t.val b 0 [] s)

/-- MXFENCE (R183): hold issue until the task's `mx` commands have completed. -/
def execMxfence (t : Fin 256) (b : BitVec 128) (s : State) : Out := .next (laneIssue .mxfence t.val b 0 [] s)

/-- ISYNC (R185): instruction-RAM writes become visible; with `IC` the cache is invalidated. -/
def execIsync (t : Fin 256) (b : BitVec 128) (s : State) : Out := .next (laneIssue .isync t.val b 0 [] s)

/-- DONE (R184): the task issues nothing more. -/
def execDone (t : Fin 256) (b : BitVec 128) (s : State) : Out := .next (laneIssue .done t.val b 0 [] s)

/-- The task becomes READY again and its bundle issues once more (R189). -/
def resumeFaulted (s : State) (t c : Nat) : State :=
  updCtx s t c fun k => { k with state := .ready, faultAt := none, regs := k.regs.cause 0 }

/-- TASK_FAULT_HANDLER (R276): growth of a private buffer of a task outside Solstice mode, a fill of an absent shared one, or the end of
the attempt. -/
def execTaskFaultHandler (t : Fin 256) (c : Fin 8) (s : State) : Out :=
  let k := ctxOf s t.val c.val
  .next (match k.job.bind (jobOf s) with
    | none => s
    | some j =>
      if k.state ≠ .faulted then s
      else
        let cause := bitsOf k.regs.tstat.toNat 8 8
        let fail := attemptFails (updCtx s t.val c.val fun x => { x with state := .waiting, faultAt := none }) j.id (placeReport s j cause)
        match k.faultAt with
        | none => fail
        | some (h, o, n) =>
          let e := entryOf c.val h
          let x := handleOf s t.val e
          let sol := k.regs.tstat.getLsbD 0
          if cause = 0x04 && 128 ≤ h && !sol && 128 * x.len < o + n && o + n ≤ 128 * x.maxlen then
            resumeFaulted (cntT (updHandle s t.val e fun y => { y with len := (o + n + 127) / 128 }) Reg.TA_CNT_GROW t.val 1) t.val c.val
          else if cause = 0x06 && h < 128 && x.copy.isSome then
            resumeFaulted (cntT (beginFill s t.val e false x.tag) Reg.TA_CNT_ABSENT t.val 1) t.val c.val
          else fail)

end Sys2Proof.Machine
end

