-- ==== Sys2Proof/Machine/Dispatch.lean ====
section
/-! DEFINITION. One arm for each command. -/

namespace Sys2Proof.Machine

def exec (i : Instr) (s : State) : Host.Outcome State Fault Refusal :=
  match i with
  | .registerWrite req off size data => Sys2Proof.Machine.execRegisterWrite req off size data s
  | .registerReadClear req off size => Sys2Proof.Machine.execRegisterReadClear req off size s
  | .gcEnableWrite data => Sys2Proof.Machine.execGcEnableWrite data s
  | .aclkForceStep data => Sys2Proof.Machine.execAclkForceStep data s
  | .aclkStepChange hclk => Sys2Proof.Machine.execAclkStepChange hclk s
  | .pllLockLoss => Sys2Proof.Machine.execPllLockLoss s
  | .portEnable port data => Sys2Proof.Machine.execPortEnable port data s
  | .ethernetFrameRx port frame => Sys2Proof.Machine.execEthernetFrameRx port frame s
  | .resendWaitExpiry stream => Sys2Proof.Machine.execResendWaitExpiry stream s
  | .resendDeadline stream blockId packetId => Sys2Proof.Machine.execResendDeadline stream blockId packetId s
  | .cxpPacketRx port packet => Sys2Proof.Machine.execCxpPacketRx port packet s
  | .cxpSkewTimeout port => Sys2Proof.Machine.execCxpSkewTimeout port s
  | .cxpTriggerPacket port => Sys2Proof.Machine.execCxpTriggerPacket port s
  | .portTransmit port => Sys2Proof.Machine.execPortTransmit port s
  | .portTransmitComplete port => Sys2Proof.Machine.execPortTransmitComplete port s
  | .linkDown port => Sys2Proof.Machine.execLinkDown port s
  | .linkUp port => Sys2Proof.Machine.execLinkUp port s
  | .streamIdle stream => Sys2Proof.Machine.execStreamIdle stream s
  | .ingestTakePacket port => Sys2Proof.Machine.execIngestTakePacket port s
  | .stripeAnnounce stream => Sys2Proof.Machine.execStripeAnnounce stream s
  | .hostFeedResume stream => Sys2Proof.Machine.execHostFeedResume stream s
  | .ingestEnable data => Sys2Proof.Machine.execIngestEnable data s
  | .bApplied engine => Sys2Proof.Machine.execBApplied engine s
  | .harvestSnapshot stream => Sys2Proof.Machine.execHarvestSnapshot stream s
  | .beEnable engine data => Sys2Proof.Machine.execBeEnable engine data s
  | .tableLoad engine addr => Sys2Proof.Machine.execTableLoad engine addr s
  | .tableLoadComplete engine => Sys2Proof.Machine.execTableLoadComplete engine s
  | .tableSwapRequest engine => Sys2Proof.Machine.execTableSwapRequest engine s
  | .tableSwap engine => Sys2Proof.Machine.execTableSwap engine s
  | .tableParityError engine column => Sys2Proof.Machine.execTableParityError engine column s
  | .encoderEnable enc data => Sys2Proof.Machine.execEncoderEnable enc data s
  | .encoderCount enc a b => Sys2Proof.Machine.execEncoderCount enc a b s
  | .speedWindow enc => Sys2Proof.Machine.execSpeedWindow enc s
  | .stripStop enc => Sys2Proof.Machine.execStripStop enc s
  | .eosStopTimeout enc => Sys2Proof.Machine.execEosStopTimeout enc s
  | .generalInputEdge input pin => Sys2Proof.Machine.execGeneralInputEdge input pin s
  | .triggerEnable out data => Sys2Proof.Machine.execTriggerEnable out data s
  | .triggerFire out => Sys2Proof.Machine.execTriggerFire out s
  | .triggerTimer out => Sys2Proof.Machine.execTriggerTimer out s
  | .triggerPulseStart out => Sys2Proof.Machine.execTriggerPulseStart out s
  | .triggerPulseEnd out => Sys2Proof.Machine.execTriggerPulseEnd out s
  | .timeStep value => Sys2Proof.Machine.execTimeStep value s
  | .timeAdjust value => Sys2Proof.Machine.execTimeAdjust value s
  | .jobDispatch place contexts => Sys2Proof.Machine.execJobDispatch place contexts s
  | .jobFirstIssue place => Sys2Proof.Machine.execJobFirstIssue place s
  | .taskSelect tile => Sys2Proof.Machine.execTaskSelect tile s
  | .jobRetire job => Sys2Proof.Machine.execJobRetire job s
  | .jobAbort job cause => Sys2Proof.Machine.execJobAbort job cause s
  | .jobDiscardComplete job => Sys2Proof.Machine.execJobDiscardComplete job s
  | .jobCancelDrained job => Sys2Proof.Machine.execJobCancelDrained job s
  | .jobOverrun job => Sys2Proof.Machine.execJobOverrun job s
  | .waitTimeout job => Sys2Proof.Machine.execWaitTimeout job s
  | .icacheFill tile line tries => Sys2Proof.Machine.execIcacheFill tile line tries s
  | .storeBufferCommit tile => Sys2Proof.Machine.execStoreBufferCommit tile s
  | .scalarAlu tile bundle => Sys2Proof.Machine.execScalarAlu tile bundle s
  | .vtake tile bundle => Sys2Proof.Machine.execVtake tile bundle s
  | .vform tile bundle => Sys2Proof.Machine.execVform tile bundle s
  | .predicateLogic tile bundle => Sys2Proof.Machine.execPredicateLogic tile bundle s
  | .addressOp tile bundle => Sys2Proof.Machine.execAddressOp tile bundle s
  | .li tile bundle => Sys2Proof.Machine.execLi tile bundle s
  | .vectorInteger tile bundle => Sys2Proof.Machine.execVectorInteger tile bundle s
  | .vectorCompare tile bundle => Sys2Proof.Machine.execVectorCompare tile bundle s
  | .vperm tile bundle => Sys2Proof.Machine.execVperm tile bundle s
  | .vcvt tile bundle => Sys2Proof.Machine.execVcvt tile bundle s
  | .vectorFloat tile bundle => Sys2Proof.Machine.execVectorFloat tile bundle s
  | .vectorReduction tile bundle => Sys2Proof.Machine.execVectorReduction tile bundle s
  | .vfredsum tile bundle => Sys2Proof.Machine.execVfredsum tile bundle s
  | .vbexp tile bundle => Sys2Proof.Machine.execVbexp tile bundle s
  | .scalarLoad tile bundle upset => Sys2Proof.Machine.execScalarLoad tile bundle upset s
  | .scalarStore tile bundle => Sys2Proof.Machine.execScalarStore tile bundle s
  | .vld tile bundle upset => Sys2Proof.Machine.execVld tile bundle upset s
  | .vst tile bundle => Sys2Proof.Machine.execVst tile bundle s
  | .vgather tile bundle upset => Sys2Proof.Machine.execVgather tile bundle upset s
  | .vscatter tile bundle => Sys2Proof.Machine.execVscatter tile bundle s
  | .ist tile bundle => Sys2Proof.Machine.execIst tile bundle s
  | .br tile bundle => Sys2Proof.Machine.execBr tile bundle s
  | .call tile bundle => Sys2Proof.Machine.execCall tile bundle s
  | .jr tile bundle => Sys2Proof.Machine.execJr tile bundle s
  | .rpt tile bundle next => Sys2Proof.Machine.execRpt tile bundle next s
  | .sywait tile bundle => Sys2Proof.Machine.execSywait tile bundle s
  | .syadd tile bundle => Sys2Proof.Machine.execSyadd tile bundle s
  | .hqpush tile bundle => Sys2Proof.Machine.execHqpush tile bundle s
  | .hqpop tile bundle => Sys2Proof.Machine.execHqpop tile bundle s
  | .hqrel tile bundle => Sys2Proof.Machine.execHqrel tile bundle s
  | .emit tile bundle => Sys2Proof.Machine.execEmit tile bundle s
  | .mxRun tile bundle => Sys2Proof.Machine.execMxRun tile bundle s
  | .mxCbload tile bundle => Sys2Proof.Machine.execMxCbload tile bundle s
  | .mxSignal tile bundle => Sys2Proof.Machine.execMxSignal tile bundle s
  | .mxfence tile bundle => Sys2Proof.Machine.execMxfence tile bundle s
  | .isync tile bundle => Sys2Proof.Machine.execIsync tile bundle s
  | .done tile bundle => Sys2Proof.Machine.execDone tile bundle s
  | .taskFaultHandler tile ctx => Sys2Proof.Machine.execTaskFaultHandler tile ctx s
  | .debugHalt tile => Sys2Proof.Machine.execDebugHalt tile s
  | .mxBlockStart tile => Sys2Proof.Machine.execMxBlockStart tile s
  | .mxBlockComplete tile fault => Sys2Proof.Machine.execMxBlockComplete tile fault s
  | .mxCbloadComplete tile => Sys2Proof.Machine.execMxCbloadComplete tile s
  | .mxSignalAdd tile => Sys2Proof.Machine.execMxSignalAdd tile s
  | .residueInject tile => Sys2Proof.Machine.execResidueInject tile s
  | .driftCompute stream op => Sys2Proof.Machine.execDriftCompute stream op s
  | .fillComplete tile entry ok => Sys2Proof.Machine.execFillComplete tile entry ok s
  | .seCtxArm engine ctx addr => Sys2Proof.Machine.execSeCtxArm engine ctx addr s
  | .seBatchFetch engine ctx => Sys2Proof.Machine.execSeBatchFetch engine ctx s
  | .seDescStart engine ctx => Sys2Proof.Machine.execSeDescStart engine ctx s
  | .seReadIssue engine => Sys2Proof.Machine.execSeReadIssue engine s
  | .seReadReturn engine ctx result tries index => Sys2Proof.Machine.execSeReadReturn engine ctx result tries s index
  | .seDescComplete engine ctx => Sys2Proof.Machine.execSeDescComplete engine ctx s
  | .pacingUpdate engine ctx => Sys2Proof.Machine.execPacingUpdate engine ctx s
  | .seCancel engine ctx => Sys2Proof.Machine.execSeCancel engine ctx s
  | .seResume engine ctx => Sys2Proof.Machine.execSeResume engine ctx s
  | .dramRead addr tries => Sys2Proof.Machine.execDramRead addr tries s
  | .dramWrite addr bytes poisoned tries => Sys2Proof.Machine.execDramWrite addr bytes poisoned tries s
  | .scrubRead channel tries written => Sys2Proof.Machine.execScrubRead channel tries written s
  | .refresh channel => Sys2Proof.Machine.execRefresh channel s
  | .mapCommit => Sys2Proof.Machine.execMapCommit s
  | .crcInject channel => Sys2Proof.Machine.execCrcInject channel s
  | .doorbell off size data => Sys2Proof.Machine.execDoorbell off size data s
  | .bar4Read off len bar2 => Sys2Proof.Machine.execBar4Read off len s bar2
  | .bar4Write off bytes poisonedTlp reqId => Sys2Proof.Machine.execBar4Write off bytes poisonedTlp reqId s
  | .cplTimeout tag reader => Sys2Proof.Machine.execCplTimeout tag s reader
  | .unexpectedCompletion => Sys2Proof.Machine.execUnexpectedCompletion s
  | .msixUnmask vector => Sys2Proof.Machine.execMsixUnmask vector s
  | .conventionalReset rise => Sys2Proof.Machine.execConventionalReset rise s
  | .functionLevelReset => Sys2Proof.Machine.execFunctionLevelReset s
  | .hotReset => Sys2Proof.Machine.execHotReset s
  | .busMasterDisable => Sys2Proof.Machine.execBusMasterDisable s
  | .d3hot => Sys2Proof.Machine.execD3hot s
  | .ringEnable ring data => Sys2Proof.Machine.execRingEnable ring data s
  | .ringDisable ring => Sys2Proof.Machine.execRingDisable ring s
  | .qmEnable data => Sys2Proof.Machine.execQmEnable data s
  | .descriptorFetch => Sys2Proof.Machine.execDescriptorFetch s
  | .descriptorBurstCheck hostErrors => Sys2Proof.Machine.execDescriptorBurstCheck hostErrors s
  | .nop ring => Sys2Proof.Machine.execNop ring s
  | .planLoad ring crypto image => Sys2Proof.Machine.execPlanLoad ring crypto image s
  | .planUnload ring => Sys2Proof.Machine.execPlanUnload ring s
  | .streamBind ring => Sys2Proof.Machine.execStreamBind ring s
  | .streamUnbind ring => Sys2Proof.Machine.execStreamUnbind ring s
  | .streamFlush ring => Sys2Proof.Machine.execStreamFlush ring s
  | .hostFeed ring => Sys2Proof.Machine.execHostFeed ring s
  | .jobSubmit ring => Sys2Proof.Machine.execJobSubmit ring s
  | .jobCancel ring => Sys2Proof.Machine.execJobCancel ring s
  | .syncWait ring => Sys2Proof.Machine.execSyncWait ring s
  | .syncAdd ring => Sys2Proof.Machine.execSyncAdd ring s
  | .query ring => Sys2Proof.Machine.execQuery ring s
  | .streamResume ring => Sys2Proof.Machine.execStreamResume ring s
  | .resultRecordWrite ring => Sys2Proof.Machine.execResultRecordWrite ring s
  | .coalesceTimer ring => Sys2Proof.Machine.execCoalesceTimer ring s
  | .tokenSend peer => Sys2Proof.Machine.execTokenSend peer s
  | .resultSend peer => Sys2Proof.Machine.execResultSend peer s
  | .tokenReceive window => Sys2Proof.Machine.execTokenReceive window s
  | .resultReceive window => Sys2Proof.Machine.execResultReceive window s
  | .nackReceive window => Sys2Proof.Machine.execNackReceive window s
  | .creditBlockReceive window => Sys2Proof.Machine.execCreditBlockReceive window s
  | .creditBlockSend peer => Sys2Proof.Machine.execCreditBlockSend peer s
  | .batchTimeout expert => Sys2Proof.Machine.execBatchTimeout expert s
  | .tokenRetry token rank => Sys2Proof.Machine.execTokenRetry token rank s
  | .tokenTimeout token rank => Sys2Proof.Machine.execTokenTimeout token rank s
  | .epochAdvance value => Sys2Proof.Machine.execEpochAdvance value s
  | .eventSet source => Sys2Proof.Machine.execEventSet source s
  | .eventClear source => Sys2Proof.Machine.execEventClear source s
  | .eventRoute => Sys2Proof.Machine.execEventRoute s
  | .handlerEntry core => Sys2Proof.Machine.execHandlerEntry core s
  | .eclClaim core g => Sys2Proof.Machine.execEclClaim core g s
  | .evdone core source => Sys2Proof.Machine.execEvdone core source s
  | .rti core => Sys2Proof.Machine.execRti core s
  | .wfe core => Sys2Proof.Machine.execWfe core s
  | .asyncEdgeLatch input => Sys2Proof.Machine.execAsyncEdgeLatch input s
  | .latchApply => Sys2Proof.Machine.execLatchApply s
  | .coreArithmetic core op rd rs1 op2 => Sys2Proof.Machine.execCoreArithmetic core op rd rs1 op2 s
  | .coreBranch core op => Sys2Proof.Machine.execCoreBranch core op s
  | .push core rs => Sys2Proof.Machine.execPush core rs s
  | .pop core rd parityFails => Sys2Proof.Machine.execPop core rd s parityFails
  | .coreLoad core size signed rd addr parityFails busError => Sys2Proof.Machine.execCoreLoad core size signed rd addr parityFails busError s
  | .coreStore core size rs addr => Sys2Proof.Machine.execCoreStore core size rs addr s
  | .coreStoreCommit core busError => Sys2Proof.Machine.execCoreStoreCommit core busError s
  | .bitVariable core op rd rs => Sys2Proof.Machine.execBitVariable core op rd rs s
  | .btas core rd rs => Sys2Proof.Machine.execBtas core rd rs s
  | .mfsrMtsr core dir sr g => Sys2Proof.Machine.execMfsrMtsr core dir sr g s
  | .trapBrk core imm kind => Sys2Proof.Machine.execTrapBrk core imm kind s
  | .fence core => Sys2Proof.Machine.execFence core s
  | .fenceI core => Sys2Proof.Machine.execFenceI core s
  | .faultReport report => Sys2Proof.Machine.execFaultReport report s
  | .frost => Sys2Proof.Machine.execFrost s
  | .thaw failing => Sys2Proof.Machine.execThaw failing s
  | .settleExpiry => Sys2Proof.Machine.execSettleExpiry s
  | .devReset => Sys2Proof.Machine.execDevReset s
  | .devDelayExpiry => Sys2Proof.Machine.execDevDelayExpiry s
  | .retryTbl engine => Sys2Proof.Machine.execRetryTbl engine s
  | .fmLogAck head => Sys2Proof.Machine.execFmLogAck head s
  | .stageS0 powerGood pllLocked bootMode lockUs => Sys2Proof.Machine.execStageS0 powerGood pllLocked bootMode lockUs s
  | .stageS1 selfTestOk slotA slotB deviceId idValid idRecord => Sys2Proof.Machine.execStageS1 selfTestOk slotA slotB deviceId idValid idRecord s
  | .stageS2 speed width flit tags => Sys2Proof.Machine.execStageS2 speed width flit tags s
  | .stageS3 channelsTrained => Sys2Proof.Machine.execStageS3 channelsTrained s
  | .stageS4 failedRows failedSpares => Sys2Proof.Machine.execStageS4 failedRows failedSpares s
  | .stageS5 failedTiles otherUnit => Sys2Proof.Machine.execStageS5 failedTiles otherUnit s
  | .stageS6 failedTiles otherUnit => Sys2Proof.Machine.execStageS6 failedTiles otherUnit s
  | .stageS7 checks => Sys2Proof.Machine.execStageS7 checks s
  | .stageS8 => Sys2Proof.Machine.execStageS8 s
  | .licApply crypto => Sys2Proof.Machine.execLicApply crypto s
  | .licStore crypto => Sys2Proof.Machine.execLicStore crypto s
  | .licClear => Sys2Proof.Machine.execLicClear s
  | .attest => Sys2Proof.Machine.execAttest s
  | .certRead => Sys2Proof.Machine.execCertRead s
  | .debugUnlock crypto => Sys2Proof.Machine.execDebugUnlock crypto s
  | .bootGo crypto => Sys2Proof.Machine.execBootGo crypto s
  | .slotWrite crypto => Sys2Proof.Machine.execSlotWrite crypto s
  | .flashWrite refused => Sys2Proof.Machine.execFlashWrite refused s
  | .thermalSample logic stackTemps => Sys2Proof.Machine.execThermalSample logic stackTemps s
  | .thermalHysteresisExpiry => Sys2Proof.Machine.execThermalHysteresisExpiry s
  | .thermalTripRelease => Sys2Proof.Machine.execThermalTripRelease s
  | .powerSample decaWatts => Sys2Proof.Machine.execPowerSample decaWatts s
  | .railSample rail mv => Sys2Proof.Machine.execRailSample rail mv s
  | .brownOut rail => Sys2Proof.Machine.execBrownOut rail s
  | .brownOutRelease => Sys2Proof.Machine.execBrownOutRelease s
  | .refclkLoss which => Sys2Proof.Machine.execRefclkLoss which s
  | .wearSample counts => Sys2Proof.Machine.execWearSample counts s
  | .telemetry => Sys2Proof.Machine.execTelemetry s
  | .serdesCalibration port => Sys2Proof.Machine.execSerdesCalibration port s
  | .sensorTrim sensor => Sys2Proof.Machine.execSensorTrim sensor s
  | .debugReset => Sys2Proof.Machine.execDebugReset s
  | .debugCoreHalt core => Sys2Proof.Machine.execDebugCoreHalt core s
  | .debugResume tile core step => Sys2Proof.Machine.execDebugResume tile core step s
  | .lowHalfRead req off => Sys2Proof.Machine.execLowHalfRead req off s
  | .busMasterEnable cfg => Sys2Proof.Machine.execBusMasterEnable s cfg
  | .returnToD0 => Sys2Proof.Machine.execReturnToD0 s
  | .pcieLinkUp speed width flit tags => Sys2Proof.Machine.execPcieLinkUp speed width flit tags s
  | .linkError kind bar => Sys2Proof.Machine.execLinkError kind bar s

end Sys2Proof.Machine
end

