-- ==== Sys2Proof/Machine/Tick.lean ====
section
/-! DEFINITION. One FCLK cycle: what the clocks do by themselves, and the counters of cycles (log 5). Counters of what the manual gives no
rule for cycle by cycle (issue pairs, ports of a scratchpad, flits) do not move (log 33). -/

namespace Sys2Proof.Machine

/-! ### Clocks -/

/-- One CCLK cycle of the time base: `INCR` in units of 2⁻²⁸ ns (R93), and the slew of R94 at 1 ns per µs: of 2²⁷ / 125 units in each
4 ns cycle, the whole ones, with the remainder kept for the next. The time base never runs backward: a slew back takes at most `INCR`. -/
def tbCycle (s : State) : State :=
  let all := 2 ^ 27 + s.clk.slewFrac
  let lim : Int := (all / 125 : Nat)
  let back : Int := min lim (fld s Reg.LT_TB_INCR : Nat)
  let part : Int := if lim < s.clk.slew then lim else if s.clk.slew < -back then -back else s.clk.slew
  updClk s fun k => { k with tb := ((k.tb + fld s Reg.LT_TB_INCR : Nat) + part).toNat % 2 ^ 92, slew := k.slew - part,
                             slewFrac := if part = k.slew then 0 else all % 125 }

/-- ACLK cycles in FCLK cycle `n`: ACLK is root ÷ d and FCLK root ÷ 4 (R14), so d FCLK cycles hold 4 ACLK cycles. -/
def aclkIn (s : State) (n : Nat) : Nat := 4 * (n + 1) / (s.clk.step + 2) - 4 * n / (s.clk.step + 2)

/-! ### Activity (R55, R120, R154, R431) -/

/-- A tile: the run watchdog of its running job, its active and its idle cycles. -/
def tickTile (n : Nat) (s : State) (t : Nat) : State :=
  match (tile s t).running with
  | some c =>
    if (ctxOf s t c).state ≠ .running then s
    else
      let s1 := cntT s Reg.TA_CNT_ACTIVE t n
      match (ctxOf s t c).job with
      | some id => updJob s1 id fun j => { j with activeCyc := j.activeCyc + n }
      | none => s1
  | none =>
    let ks := (tile s t).ctxs.map (·.2)
    if (ks.any held) && !(ks.any fun k => k.state = .ready || k.state = .dispatched) then cntT s Reg.TA_CNT_IDLE t n else s

/-- A boundary engine that runs a job. -/
def tickEngine (n : Nat) (s : State) (b : Nat) : State :=
  match (engine s b).slots.find? fun k => (jobOf s k.2).elim false fun j => j.state = .running with
  | some k => updJob (addF s Reg.BE_CNT_BUSY b 0 n) k.2 fun j => { j with activeCyc := j.activeCyc + n }
  | none => s

def tickCore (s : State) (c : Nat) : State :=
  if (coreNo s c).run = .sleeping then addF s Reg.SC_CORE_CNT_SLEEP 0 c 1 else s

/-! ### Waits that are counted -/

/-- Count a cycle where a condition holds. -/
def tickIf (p : State → Bool) (f : Fld) (s : State) : State := if p s then cnt s f else s

/-- An eligible job has no free task context, or too few stream contexts are free for it (R58, R290). -/
def ctxWaits (s : State) : Bool := s.jobs.any fun j =>
  j.state = .eligible && (tmplOf s j).elim false fun t => !enoughCtxs s t ||
    (t.engine = .tiles && !(t.units.any fun u => tileOpen s u && (upto 8).any fun c => (ctxOf s u c).state = .free))

/-- A δ waits for its trail entry (R242). -/
def driftWaits (s : State) : Bool := s.drifts.any fun d =>
  (opOf s (stream s d.stream).plan d.op).elim false fun o =>
    let j := nextIndex s d.stream d
    let lag := getF s Reg.IG_STREAM_DRIFT_LAG 0 d.stream
    64 ≤ j && !indexAll s d.stream (stream s d.stream).plan o (j - 64) (fun _ => false) &&
      indexAll s d.stream (stream s d.stream).plan o (j - lag) fun k => k.state = .retired || k.regen

/-- A stream context waits for a slot of its destination that is not EMPTY. -/
def sctxSlotWaits (s : State) (k : SCtx) : Bool :=
  let lacks := fun (r : SRun) (n : Nat) => (sideQueue r.f.d true).any fun q =>
    r.dstSlots * slotBytes (queue s q) ≤ n && !dstSlotThere s q
  k.state = .running && (((issuing k).any fun r => !replayed r.f.d && lacks r r.issued) || k.run.any fun r => replaying r && lacks r r.landed)

/-- A producer waits for a slot (R283, R289): a task, a boundary engine's job, a stream context. -/
def slotWaits (s : State) : Bool :=
  (s.tiles.any fun e => e.2.ctxs.any fun k => match k.2.waitFor with | .push _ => true | _ => false) ||
  (s.jobs.any fun j => j.waitEnd.any (·.2)) || s.sctx.any fun e => sctxSlotWaits s e.2

/-- A message waits for credit (R395). -/
def creditWaits (s : State) : Bool := pmEn s && (upto 16).any fun p =>
  ((chanOf s (chanIdx p 0)).opened && (firstDue s p).elim false fun r => !maySend s (chanIdx p 0) (1 + r.1.bytes.length / 64)) ||
  ((chanOf s (chanIdx p 1)).opened && (s.pm.out.find? fun m => m.peer = p).elim false fun m =>
    !maySend s (chanIdx p 1) (1 + (if m.nack then 0 else m.block.length / 64)))

/-- The address of the request that a running stream context would issue next, and its bytes. -/
def wantsRead (s : State) (k : SCtx) : Option (Nat × Nat) :=
  if k.state ≠ .running then none
  else (issuing k).bind fun r => if slotsReady s k r then some (wouldRead s k r) else none

/-- A stream context wants to read the host. -/
def wantsHost (s : State) : Bool := s.sctx.any fun e => (wantsRead s e.2).elim false fun p => isHostAddr s p.1

/-- A core's load, a feed, a plan's load or a port's transmission wants to read the host. -/
def wantsWithin (s : State) : Bool :=
  (s.cores.any fun e => e.2.run = .running && e.2.hostWait) || ((upto 64).any (feedWants s)) ||
  ((busyRings s).any (planReads s)) || s.ports.any fun e => leadOf s e.1 = e.1 && txWants s e.1

/-- A requester stalls because Bus Master Enable = 0, or at the bound of R339. -/
def masterStalls (s : State) : Bool :=
  !busMaster s && (!s.hl.stalled.isEmpty || wantsHost s || wantsWithin s || wantsFetch s || s.sctx.any fun e => anyWriteHeld s (e.1 / 64) (e.1 % 64))
def npStalls (s : State) : Bool :=
  busMaster s && ((!npRoom s 1 && (wantsHost s || wantsWithin s)) ||
    (qmEn s && s.rings.any fun e => fetchWanted s e.1 && !(burstReads s e.1).isEmpty && !npRoom s (burstReads s e.1).length))

/-- An engine's waits at the bounds of R306 and for its buckets (R305). -/
def tickStream (s : State) (e : Nat) : State :=
  let want := (upto 64).filterMap fun c => wantsRead s (sctx s e c)
  let atBound := !want.isEmpty && (1024 ≤ outReads s e || (!npRoom s 1 && want.any fun p => isHostAddr s p.1))
  let noTokens := (want.any fun p => isHostAddr s p.1 && !bucketHas s e 0 p.2) || (busMaster s && (upto 64).any fun c => anyWriteHeld s e c)
  let s1 := if atBound then addF s Reg.SE_CNT_OUT_STALL e 0 1 else s
  if noTokens then addF s1 Reg.SE_CNT_BW_STALL e 0 1 else s1

/-- The token buckets refill, those of an engine with `EN` = 0 too: `RATE` counts 16 bytes per µs (R305). -/
def refill (s : State) : State :=
  let one := fun (m : SMap Nat) (b : Nat) => mupd 0 m b fun v => v - 16 * getF s (bucketFld (b % 3)).1 (b / 3) 0
  { s with bwTokens := (s.bwTokens.map (·.1)).foldl one s.bwTokens }

/-- A stripe waits for retention units (R107). -/
def retWaits (s : State) : Bool := s.stripes.any fun k => k.units.isNone

/-- A host feed of a stream waits for space (R102). -/
def tickFeed (s : State) (x : Nat) : State :=
  if igEn s && isBound s x && !(feedsOf s x).isEmpty then addF s Reg.IG_CNT_HOST_WAIT 0 x 1 else s

/-- What the compute part counts in one cycle with `n` ACLK cycles; nothing of it runs during a frost. -/
def tickCompute (s : State) (n : Nat) : State :=
  if s.fm.phase = .frost then s
  else
    let s1 := thread (tickTile n) s (s.tiles.map (·.1))
    let s2 := thread (tickEngine n) s1 (s1.engines.map (·.1))
    let s3 := thread tickCore s2 (s2.cores.map (·.1))
    let s4 := refill (thread tickStream s3 (s3.sctx.map fun e => e.1 / 64).eraseDups)
    tickIf slotWaits Reg.SY_CNT_CREDIT_WAIT (tickIf driftWaits Reg.SC_DRIFT_WAIT (tickIf ctxWaits Reg.SC_CTX_WAIT s4))

/-- What the rest counts in one cycle. -/
def tickOuter (s : State) : State :=
  let s1 := tickIf creditWaits Reg.PM_CNT_CREDIT_WAIT (tickIf retWaits Reg.IG_RET_STALL s)
  let s2 := tickIf npStalls Reg.HL_CNT_NP_STALL (tickIf masterStalls Reg.HL_CNT_BME_STALL s1)
  cachePass (tickIf cacheWaits Reg.QM_CNT_CACHE_WAIT (thread tickFeed s2 (s2.streams.map (·.1))))

/-- One FCLK cycle, while FCLK runs: FCLK is root ÷ 4 and CCLK root ÷ 16 (R14), so every fourth is a CCLK cycle. -/
def tick (s : State) : State :=
  if !s.pins.fclkRuns then s
  else
    let n := aclkIn s s.clk.fclk
    let s1 := updClk s fun k => { k with fclk := k.fclk + 1, aclk := k.aclk + n }
    let s2 := if s1.clk.fclk % 4 = 0 then filterCycle (tbCycle s1) else s1
    if ready s then tickOuter (tickCompute s2 n) else thread tickCore s2 (s2.cores.map (·.1))

end Sys2Proof.Machine
end

