-- ==== Sys2Proof/Safety.lean ====
section
/-! DEFINITION. What claims about the machine are made of: a safe step, the parts of the state, what a command leaves as it
was, and the canonical form of the memories. -/

namespace Sys2Proof

/-- A step of the machine goes on. -/
def Safe (s : Machine.State) : Prop := ∃ t, Machine.step s = .next t

namespace Machine

/-- The parts of the state, one for each field. -/
inductive Part where
  | pending | regs | shadow | heldLow | latched | readData | readError | free | mem | hostMem | blocks | spPoison
  | iram | tcm | bitVars | clk | pins | boot | sec | hv | fm | sources | latches | cores | hl | rings | bursts | descs
  | stage | fetchPtr | plans | objs | queues | jobs | ports | pstreams | streams | stripes | engines | encs | trigs
  | links | giLevel | giFrom | tiles | grid | sctx | bwTokens | chans | dram | pm | drifts
  deriving DecidableEq, Repr

/-- A part reads the same in both states. -/
def Part.same : Part → State → State → Prop
  | .pending, s, t => t.pending = s.pending
  | .regs, s, t => t.regs = s.regs
  | .shadow, s, t => t.shadow = s.shadow
  | .heldLow, s, t => t.heldLow = s.heldLow
  | .latched, s, t => t.latched = s.latched
  | .readData, s, t => t.readData = s.readData
  | .readError, s, t => t.readError = s.readError
  | .free, s, t => t.free = s.free
  | .mem, s, t => t.mem = s.mem
  | .hostMem, s, t => t.hostMem = s.hostMem
  | .blocks, s, t => t.blocks = s.blocks
  | .spPoison, s, t => t.spPoison = s.spPoison
  | .iram, s, t => t.iram = s.iram
  | .tcm, s, t => t.tcm = s.tcm
  | .bitVars, s, t => t.bitVars = s.bitVars
  | .clk, s, t => t.clk = s.clk
  | .pins, s, t => t.pins = s.pins
  | .boot, s, t => t.boot = s.boot
  | .sec, s, t => t.sec = s.sec
  | .hv, s, t => t.hv = s.hv
  | .fm, s, t => t.fm = s.fm
  | .sources, s, t => t.sources = s.sources
  | .latches, s, t => t.latches = s.latches
  | .cores, s, t => t.cores = s.cores
  | .hl, s, t => t.hl = s.hl
  | .rings, s, t => t.rings = s.rings
  | .bursts, s, t => t.bursts = s.bursts
  | .descs, s, t => t.descs = s.descs
  | .stage, s, t => t.stage = s.stage
  | .fetchPtr, s, t => t.fetchPtr = s.fetchPtr
  | .plans, s, t => t.plans = s.plans
  | .objs, s, t => t.objs = s.objs
  | .queues, s, t => t.queues = s.queues
  | .jobs, s, t => t.jobs = s.jobs
  | .ports, s, t => t.ports = s.ports
  | .pstreams, s, t => t.pstreams = s.pstreams
  | .streams, s, t => t.streams = s.streams
  | .stripes, s, t => t.stripes = s.stripes
  | .engines, s, t => t.engines = s.engines
  | .encs, s, t => t.encs = s.encs
  | .trigs, s, t => t.trigs = s.trigs
  | .links, s, t => t.links = s.links
  | .giLevel, s, t => t.giLevel = s.giLevel
  | .giFrom, s, t => t.giFrom = s.giFrom
  | .tiles, s, t => t.tiles = s.tiles
  | .grid, s, t => t.grid = s.grid
  | .sctx, s, t => t.sctx = s.sctx
  | .bwTokens, s, t => t.bwTokens = s.bwTokens
  | .chans, s, t => t.chans = s.chans
  | .dram, s, t => t.dram = s.dram
  | .pm, s, t => t.pm = s.pm
  | .drifts, s, t => t.drifts = s.drifts

/-- Every part of the state but those listed is as it was. -/
def KeepsBut (ps : List Part) (s t : State) : Prop := ∀ p, p ∉ ps → p.same s t

/-- Every register field but those at the listed keys is as it was. -/
def RegsKeptBut (ks : List Nat) (s t : State) : Prop := ∀ f ch i, fldKey f ch i ∉ ks → getF t f ch i = getF s f ch i

/-- The memories are in their canonical form: addresses strictly rising, and no entry equal to what an unlisted address reads
as. -/
def MemOk (s : State) : Prop :=
  mwf 0 s.mem = true ∧ mwf 0 s.hostMem = true ∧ mwf 0 s.iram = true ∧ mwf 0 s.tcm = true ∧ mwf 0 s.bitVars = true

/-- The parts of the state that a command may change. No command changes the queue; the effect of each on the parts it may
change is what its meaning says. -/
def mayChange : Instr → List Part
  | .registerWrite _ _ _ _ | .conventionalReset _ | .coreStoreCommit _ _ | .faultReport _ | .devReset | .devDelayExpiry |
    .thermalSample _ _ | .brownOut _ | .debugReset =>
    [.regs, .shadow, .heldLow, .latched, .readData, .readError, .free, .mem, .hostMem, .blocks, .spPoison, .iram,
     .tcm, .bitVars, .clk, .pins, .boot, .sec, .hv, .fm, .sources, .latches, .cores, .hl, .rings, .bursts, .descs,
     .stage, .fetchPtr, .plans, .objs, .queues, .jobs, .ports, .pstreams, .streams, .stripes, .engines, .encs, .trigs,
     .links, .giLevel, .giFrom, .tiles, .grid, .sctx, .bwTokens, .chans, .dram, .pm, .drifts]
  | .registerReadClear _ _ _ | .lowHalfRead _ _ =>
    [.regs, .latched, .readData, .readError, .hl, .rings]
  | .ringDisable _ =>
    [.regs, .hl, .rings]
  | .gcEnableWrite _ | .refresh _ =>
    [.regs]
  | .aclkForceStep _ =>
    [.regs, .clk]
  | .aclkStepChange _ =>
    [.regs, .clk, .latches]
  | .pllLockLoss =>
    [.regs, .hostMem, .clk, .fm, .sources, .hl]
  | .portEnable _ _ =>
    [.regs, .shadow, .ports]
  | .ethernetFrameRx _ _ | .cxpPacketRx _ _ | .cxpSkewTimeout _ | .linkDown _ =>
    [.regs, .free, .mem, .hostMem, .blocks, .spPoison, .fm, .sources, .latches, .hl, .rings, .ports, .pstreams,
     .streams, .stripes, .links, .chans]
  | .resendWaitExpiry _ =>
    [.regs, .ports, .pstreams]
  | .resendDeadline _ _ _ =>
    [.regs, .free, .mem, .hostMem, .blocks, .spPoison, .fm, .sources, .latches, .hl, .rings, .pstreams, .streams,
     .stripes, .links, .chans]
  | .cxpTriggerPacket _ | .serdesCalibration _ =>
    [.ports]
  | .portTransmit _ | .portTransmitComplete _ =>
    [.regs, .free, .mem, .hostMem, .blocks, .spPoison, .fm, .sources, .hl, .rings, .descs, .ports, .chans]
  | .linkUp _ =>
    [.regs, .free, .mem, .hostMem, .blocks, .spPoison, .pins, .fm, .sources, .hl, .rings, .ports, .chans]
  | .streamIdle _ =>
    [.regs, .free, .mem, .hostMem, .blocks, .spPoison, .fm, .sources, .hl, .rings, .pstreams, .chans]
  | .ingestTakePacket _ =>
    [.regs, .free, .mem, .hostMem, .blocks, .spPoison, .fm, .sources, .latches, .hl, .rings, .ports, .streams,
     .stripes, .links, .chans]
  | .stripeAnnounce _ | .jobDiscardComplete _ | .retryTbl _ =>
    [.regs, .free, .mem, .hostMem, .blocks, .spPoison, .fm, .sources, .hl, .jobs, .streams, .stripes, .engines,
     .tiles, .chans]
  | .hostFeedResume _ =>
    [.regs, .free, .mem, .hostMem, .blocks, .spPoison, .fm, .sources, .latches, .hl, .rings, .descs, .jobs, .pstreams,
     .streams, .stripes, .engines, .links, .tiles, .chans]
  | .ingestEnable _ | .beEnable _ _ | .qmEnable _ =>
    [.regs, .shadow]
  | .bApplied _ | .tableSwapRequest _ | .tableSwap _ =>
    [.regs, .free, .mem, .hostMem, .blocks, .spPoison, .fm, .sources, .hl, .rings, .engines, .chans]
  | .harvestSnapshot _ =>
    [.regs, .free, .mem, .hostMem, .blocks, .spPoison, .fm, .sources, .latches, .hl, .rings, .streams, .chans]
  | .tableLoad _ _ | .tableLoadComplete _ | .tableParityError _ _ =>
    [.regs, .free, .fm, .sources, .engines, .chans]
  | .encoderEnable _ _ =>
    [.regs, .shadow, .encs]
  | .encoderCount _ _ _ =>
    [.regs, .free, .mem, .hostMem, .blocks, .spPoison, .pins, .fm, .sources, .hl, .rings, .encs, .trigs, .chans]
  | .speedWindow _ | .stripStop _ =>
    [.regs, .free, .mem, .hostMem, .blocks, .spPoison, .fm, .sources, .hl, .rings, .encs, .chans]
  | .eosStopTimeout _ =>
    [.regs, .free, .mem, .hostMem, .blocks, .spPoison, .fm, .sources, .latches, .hl, .rings, .pstreams, .streams,
     .stripes, .encs, .links, .chans]
  | .generalInputEdge _ _ =>
    [.regs, .free, .mem, .hostMem, .blocks, .spPoison, .pins, .fm, .sources, .latches, .hl, .rings, .pstreams,
     .streams, .stripes, .encs, .trigs, .links, .giLevel, .giFrom, .chans]
  | .triggerEnable _ _ =>
    [.regs, .shadow, .sources, .trigs]
  | .triggerFire _ | .triggerTimer _ =>
    [.regs, .trigs]
  | .triggerPulseStart _ =>
    [.regs, .pins, .ports, .trigs, .links]
  | .triggerPulseEnd _ =>
    [.regs, .pins, .ports, .trigs]
  | .timeStep _ =>
    [.regs, .free, .mem, .hostMem, .blocks, .spPoison, .clk, .fm, .sources, .hl, .rings, .trigs, .chans]
  | .timeAdjust _ =>
    [.clk]
  | .jobDispatch _ _ =>
    [.regs, .free, .mem, .hostMem, .blocks, .spPoison, .fm, .sources, .hl, .rings, .descs, .plans, .objs, .queues,
     .jobs, .streams, .stripes, .engines, .tiles, .sctx, .chans]
  | .jobFirstIssue _ =>
    [.jobs, .tiles]
  | .taskSelect _ =>
    [.regs, .iram, .jobs, .tiles]
  | .jobRetire _ =>
    [.regs, .free, .mem, .hostMem, .blocks, .spPoison, .fm, .sources, .hl, .rings, .descs, .stage, .objs, .queues,
     .jobs, .streams, .stripes, .engines, .tiles, .sctx, .chans, .pm, .drifts]
  | .jobAbort _ _ =>
    [.regs, .free, .mem, .hostMem, .blocks, .spPoison, .fm, .sources, .hl, .rings, .descs, .objs, .queues, .jobs,
     .streams, .tiles, .sctx, .chans]
  | .jobCancelDrained _ | .doorbell _ _ _ | .nop _ | .planLoad _ _ _ | .planUnload _ | .streamBind _ | .streamUnbind _ |
    .streamFlush _ | .hostFeed _ | .jobSubmit _ | .jobCancel _ | .syncWait _ | .syncAdd _ | .query _ | .streamResume _ =>
    [.regs, .free, .mem, .hostMem, .blocks, .spPoison, .sec, .fm, .sources, .latches, .hl, .rings, .descs, .plans,
     .objs, .queues, .jobs, .pstreams, .streams, .stripes, .engines, .links, .tiles, .sctx, .chans, .pm, .drifts]
  | .jobOverrun _ | .waitTimeout _ =>
    [.fm, .jobs]
  | .icacheFill _ _ _ =>
    [.regs, .free, .fm, .sources, .jobs, .tiles, .chans]
  | .storeBufferCommit _ =>
    [.mem, .spPoison, .tiles]
  | .scalarAlu _ _ | .vtake _ _ | .vform _ _ | .predicateLogic _ _ | .addressOp _ _ | .li _ _ | .vectorInteger _ _ |
    .vectorCompare _ _ | .vperm _ _ | .vcvt _ _ | .vectorFloat _ _ | .vectorReduction _ _ | .vfredsum _ _ | .vbexp _ _ |
    .scalarLoad _ _ _ | .scalarStore _ _ | .vld _ _ _ | .vst _ _ | .vgather _ _ _ | .vscatter _ _ | .ist _ _ | .br _ _ | .call _ _ | .jr _ _
    | .rpt _ _ _ | .sywait _ _ | .syadd _ _ | .hqpush _ _ | .hqpop _ _ | .hqrel _ _ | .emit _ _ | .mxRun _ _ | .mxCbload _ _ |
    .mxSignal _ _ | .mxfence _ _ | .isync _ _ | .done _ _ =>
    [.regs, .free, .mem, .hostMem, .blocks, .spPoison, .iram, .fm, .sources, .hl, .rings, .descs, .objs, .queues,
     .jobs, .tiles, .sctx, .chans]
  | .mxBlockStart _ | .mxCbloadComplete _ =>
    [.regs, .fm, .sources, .jobs, .tiles]
  | .taskFaultHandler _ _ =>
    [.regs, .fm, .jobs, .tiles]
  | .debugHalt _ | .residueInject _ =>
    [.tiles]
  | .mxBlockComplete _ _ =>
    [.regs, .free, .mem, .spPoison, .fm, .sources, .jobs, .tiles]
  | .mxSignalAdd _ =>
    [.regs, .free, .mem, .hostMem, .blocks, .spPoison, .fm, .sources, .hl, .rings, .descs, .objs, .jobs, .tiles,
     .sctx, .chans]
  | .driftCompute _ _ =>
    [.regs, .free, .mem, .hostMem, .blocks, .spPoison, .fm, .sources, .hl, .jobs, .streams, .stripes, .engines,
     .tiles, .chans, .drifts]
  | .fillComplete _ _ _ =>
    [.regs, .free, .mem, .spPoison, .fm, .sources, .tiles, .chans]
  | .seCtxArm _ _ _ =>
    [.regs, .free, .mem, .hostMem, .blocks, .spPoison, .fm, .sources, .hl, .rings, .sctx, .chans]
  | .seDescComplete _ _ | .seReadIssue _ =>
    [.regs, .free, .mem, .hostMem, .blocks, .spPoison, .fm, .sources, .hl, .rings, .descs, .objs, .queues, .jobs,
     .tiles, .sctx, .bwTokens, .chans]
  | .seBatchFetch _ _ | .seDescStart _ _ | .seCancel _ _ =>
    [.regs, .free, .mem, .hostMem, .blocks, .spPoison, .fm, .sources, .hl, .rings, .descs, .objs, .queues, .jobs,
     .tiles, .sctx, .chans]
  | .seReadReturn _ _ _ _ _ =>
    [.regs, .free, .mem, .hostMem, .blocks, .spPoison, .fm, .sources, .hl, .rings, .descs, .objs, .queues, .jobs,
     .streams, .stripes, .tiles, .sctx, .bwTokens, .chans]
  | .pacingUpdate _ _ | .seResume _ _ =>
    [.sctx]
  | .dramRead _ _ | .bar4Read _ _ _ =>
    [.regs, .readData, .readError, .free, .fm, .sources, .chans]
  | .dramWrite _ _ _ _ =>
    [.regs, .free, .mem, .hostMem, .blocks, .spPoison, .fm, .sources, .hl, .chans]
  | .scrubRead _ _ _ =>
    [.regs, .free, .mem, .blocks, .hv, .fm, .sources, .chans]
  | .mapCommit =>
    [.regs, .hv, .rings, .dram, .pm]
  | .crcInject _ =>
    [.chans]
  | .bar4Write _ _ _ _ =>
    [.regs, .free, .mem, .hostMem, .blocks, .spPoison, .fm, .sources, .hl, .jobs, .streams, .stripes, .engines,
     .tiles, .chans, .pm]
  | .tokenSend _ | .resultSend _ | .creditBlockSend _ =>
    [.regs, .free, .mem, .hostMem, .blocks, .spPoison, .fm, .sources, .hl, .chans, .pm]
  | .cplTimeout _ _ =>
    [.regs, .free, .mem, .hostMem, .blocks, .spPoison, .fm, .sources, .hl, .rings, .bursts, .descs, .objs, .queues,
     .jobs, .streams, .stripes, .tiles, .sctx, .bwTokens, .chans]
  | .unexpectedCompletion | .linkError _ _ =>
    [.regs, .fm, .sources, .hl]
  | .msixUnmask _ =>
    [.regs, .hostMem, .hl]
  | .functionLevelReset | .hotReset =>
    [.regs, .free, .mem, .hostMem, .blocks, .spPoison, .iram, .tcm, .bitVars, .sec, .fm, .sources, .latches, .cores,
     .hl, .rings, .bursts, .descs, .stage, .plans, .objs, .queues, .jobs, .pstreams, .streams, .stripes, .engines,
     .links, .tiles, .sctx, .bwTokens, .chans, .pm, .drifts]
  | .busMasterDisable =>
    [.regs, .sources, .hl]
  | .d3hot =>
    [.hl]
  | .ringEnable _ _ =>
    [.regs, .shadow, .free, .mem, .hostMem, .blocks, .spPoison, .fm, .sources, .hl, .rings, .chans]
  | .descriptorFetch =>
    [.regs, .free, .fm, .sources, .hl, .rings, .bursts, .fetchPtr, .chans]
  | .descriptorBurstCheck _ =>
    [.regs, .free, .mem, .hostMem, .blocks, .spPoison, .sec, .fm, .sources, .latches, .hl, .rings, .bursts, .descs,
     .plans, .objs, .queues, .jobs, .pstreams, .streams, .stripes, .engines, .links, .tiles, .sctx, .chans, .pm,
     .drifts]
  | .resultRecordWrite _ =>
    [.regs, .free, .mem, .hostMem, .blocks, .spPoison, .fm, .sources, .hl, .rings, .stage, .tiles, .chans]
  | .coalesceTimer _ =>
    [.regs, .hostMem, .hl, .rings]
  | .tokenReceive _ | .batchTimeout _ | .tokenRetry _ _ | .tokenTimeout _ _ =>
    [.regs, .free, .mem, .hostMem, .blocks, .spPoison, .fm, .sources, .hl, .jobs, .chans, .pm]
  | .resultReceive _ =>
    [.regs, .free, .mem, .hostMem, .blocks, .spPoison, .fm, .sources, .hl, .stage, .tiles, .chans, .pm]
  | .nackReceive _ | .creditBlockReceive _ =>
    [.regs, .free, .mem, .hostMem, .blocks, .spPoison, .fm, .sources, .hl, .jobs, .streams, .stripes, .engines,
     .tiles, .chans, .pm]
  | .epochAdvance _ =>
    [.regs, .shadow, .free, .mem, .hostMem, .blocks, .spPoison, .fm, .sources, .hl, .jobs, .streams, .stripes,
     .engines, .tiles, .chans, .pm]
  | .eventSet _ =>
    [.regs, .sources]
  | .eventClear _ =>
    [.sources]
  | .eventRoute | .handlerEntry _ =>
    [.regs, .cores]
  | .rti _ | .coreArithmetic _ _ _ _ _ =>
    [.regs, .fm, .sources, .cores]
  | .eclClaim _ _ | .mfsrMtsr _ _ _ _ | .trapBrk _ _ _ =>
    [.regs, .free, .fm, .sources, .cores]
  | .evdone _ _ | .wfe _ | .coreBranch _ _ | .push _ _ | .coreStore _ _ _ _ | .fence _ | .fenceI _ =>
    [.regs, .fm, .sources, .cores]
  | .asyncEdgeLatch _ =>
    [.latches]
  | .latchApply =>
    [.regs, .sources, .latches, .cores]
  | .pop _ _ _ | .coreLoad _ _ _ _ _ _ _ =>
    [.regs, .latched, .free, .fm, .sources, .cores, .hl, .rings, .chans]
  | .bitVariable _ _ _ _ | .btas _ _ _ =>
    [.regs, .bitVars, .fm, .sources, .cores]
  | .frost =>
    [.regs, .free, .mem, .hostMem, .blocks, .spPoison, .iram, .tcm, .bitVars, .fm, .sources, .cores, .hl, .rings,
     .descs, .plans, .objs, .queues, .jobs, .streams, .engines, .tiles, .sctx, .bwTokens, .chans]
  | .thaw _ =>
    [.regs, .free, .mem, .hostMem, .blocks, .spPoison, .iram, .tcm, .bitVars, .sec, .fm, .sources, .latches, .cores,
     .hl, .rings, .descs, .plans, .objs, .queues, .jobs, .pstreams, .streams, .stripes, .engines, .links, .tiles,
     .grid, .sctx, .bwTokens, .chans, .pm, .drifts]
  | .settleExpiry =>
    [.fm]
  | .fmLogAck _ =>
    [.regs, .hostMem, .fm, .hl]
  | .stageS0 _ _ _ _ =>
    [.regs, .free, .clk, .pins, .boot, .sec]
  | .stageS1 _ _ _ _ _ _ | .bootGo _ =>
    [.regs, .tcm, .boot, .sec, .cores]
  | .stageS2 _ _ _ _ =>
    [.regs, .pins, .boot, .sec, .hl]
  | .stageS3 _ =>
    [.regs, .boot, .sec, .hv, .rings, .chans, .dram, .pm]
  | .stageS4 _ _ =>
    [.regs, .mem, .blocks, .boot, .sec, .chans, .dram]
  | .stageS5 _ _ =>
    [.regs, .mem, .spPoison, .iram, .bitVars, .boot, .sec, .tiles, .grid]
  | .stageS6 _ _ =>
    [.regs, .boot, .sec, .grid]
  | .stageS7 _ =>
    [.regs, .boot, .sec, .grid, .pm]
  | .stageS8 =>
    [.regs, .boot, .sec]
  | .licApply _ | .licStore _ =>
    [.regs, .sec, .grid]
  | .licClear | .attest | .certRead =>
    [.regs, .sec]
  | .debugUnlock _ =>
    [.regs, .sec, .latches]
  | .slotWrite _ =>
    [.regs, .free, .sec, .fm, .sources, .chans]
  | .flashWrite _ =>
    [.regs, .free, .sec, .pm]
  | .thermalHysteresisExpiry =>
    [.clk, .hv]
  | .thermalTripRelease | .brownOutRelease =>
    [.pins]
  | .powerSample _ =>
    [.regs, .clk, .hv, .latches]
  | .railSample _ _ =>
    [.regs, .free, .mem, .hostMem, .blocks, .spPoison, .hv, .fm, .sources, .hl, .rings, .chans]
  | .refclkLoss _ =>
    [.regs, .free, .mem, .hostMem, .blocks, .spPoison, .iram, .tcm, .bitVars, .clk, .pins, .sec, .fm, .sources,
     .latches, .cores, .hl, .rings, .bursts, .descs, .stage, .plans, .objs, .queues, .jobs, .ports, .pstreams,
     .streams, .stripes, .engines, .links, .tiles, .sctx, .bwTokens, .chans, .pm, .drifts]
  | .wearSample _ =>
    [.regs, .free, .mem, .hostMem, .blocks, .spPoison, .sec, .hv, .fm, .sources, .hl, .rings, .chans]
  | .telemetry =>
    [.regs, .free, .mem, .hostMem, .blocks, .spPoison, .fm, .sources, .hl, .rings, .chans]
  | .sensorTrim _ =>
    [.hv]
  | .debugCoreHalt _ =>
    [.cores]
  | .debugResume _ _ _ =>
    [.cores, .tiles]
  | .busMasterEnable _ =>
    [.regs, .hostMem, .sources, .hl]
  | .returnToD0 =>
    [.hostMem, .hl]
  | .pcieLinkUp _ _ _ _ =>
    [.regs, .pins, .hl]

/-- A counter has gone up by `n`, or stands at its field's largest value. -/
def Counted (f : Fld) (ch i n : Nat) (s t : State) : Prop := getF t f ch i = min (2 ^ f.w - 1) (getF s f ch i + n)

/-- One report more waits for the fault manager, behind those that waited. -/
def Reported (s t : State) (r : Report) : Prop := ∃ w : Waiting, w.rep = r ∧ t.fm.intake = s.fm.intake ++ [w]

/-! ### What the statements about the lane engine are made of -/

/-- The command that a row of the lane engine is. `next` is the bundle after it and `upset` the bytes whose parity fails, for
the rows that are given them. -/
def laneCommand (t : Fin 256) (b next : BitVec 128) (upset : List Nat) : LaneRow → Instr
  | .scalar => .scalarAlu t b
  | .vtake => .vtake t b
  | .vform => .vform t b
  | .pred => .predicateLogic t b
  | .addr => .addressOp t b
  | .li => .li t b
  | .vint => .vectorInteger t b
  | .vcmp => .vectorCompare t b
  | .vperm => .vperm t b
  | .vcvt => .vcvt t b
  | .vfloat => .vectorFloat t b
  | .vred => .vectorReduction t b
  | .vfredsum => .vfredsum t b
  | .vbexp => .vbexp t b
  | .sload => .scalarLoad t b upset
  | .sstore => .scalarStore t b
  | .vld => .vld t b upset
  | .vst => .vst t b
  | .vgather => .vgather t b upset
  | .vscatter => .vscatter t b
  | .ist => .ist t b
  | .br => .br t b
  | .call => .call t b
  | .jr => .jr t b
  | .rpt => .rpt t b next
  | .sywait => .sywait t b
  | .syadd => .syadd t b
  | .hqpush => .hqpush t b
  | .hqpop => .hqpop t b
  | .hqrel => .hqrel t b
  | .emit => .emit t b
  | .mxRun => .mxRun t b
  | .mxCbload => .mxCbload t b
  | .mxSignal => .mxSignal t b
  | .mxfence => .mxfence t b
  | .isync => .isync t b
  | .done => .done t b

/-- The bundle after `b` and the failing bytes, where a row is given none. -/
def rowNext (r : LaneRow) (next : BitVec 128) : BitVec 128 := if r = .rpt then next else 0

/-- The task running on tile `t` is at bundle `b`, fetched, and a row's to issue: `l` is the task as the bundle sees it, `f` its
flow. -/
abbrev AtBundle (r : LaneRow) (t : Fin 256) (b : BitVec 128) (l : Lane) (f : Flow) (s : State) : Prop :=
  laneAt s t.val = some (l, f) ∧ rowTakes r b = true ∧ fetchBad l = false ∧ fetchMiss s l f = none

/-- The bundle passes every check and its one operation is `o`, of row `r`; its other slots hold no-operations. -/
abbrev Issues (r : LaneRow) (t : Fin 256) (b next : BitVec 128) (l : Lane) (f : Flow) (o : SlotOp) (s : State) : Prop :=
  laneAt s t.val = some (l, f) ∧ (decodeBundle b).map (List.filter fun x => x.op ≠ 0) = some [o] ∧ rowOfOp o = some r ∧
    fetchBad l = false ∧ fetchMiss s l f = none ∧ bundleCheck s l f b next = .ok

/-- The C-slot operation among one. -/
def asC (o : SlotOp) : Option SlotOp := if o.kind = .c then some o else none

/-- The task has gone on behind the bundle, with the registers `r` but for its `pc`. -/
def WentOn (l : Lane) (f : Flow) (o : SlotOp) (r : Regs) (t : State) : Prop :=
  (ctxOf t l.t l.c).regs = { r with pc := (flowAfter l f (asC o)).2 } ∧ (ctxOf t l.t l.c).flow = (flowAfter l f (asC o)).1 ∧
    (ctxOf t l.t l.c).lastPc = l.r.pc

/-- No other task of the tile and no other tile differs. -/
def OthersKept (l : Lane) (s t : State) : Prop :=
  (∀ c, c ≠ l.c → ctxOf t l.t c = ctxOf s l.t c) ∧ ∀ u, u ≠ l.t → tile t u = tile s u

/-- The tile has the same buffered stores, commands on its array, handles, codebooks and cache lines. -/
def TileKept (l : Lane) (s t : State) : Prop :=
  (tile t l.t).sb = (tile s l.t).sb ∧ (tile t l.t).mxq = (tile s l.t).mxq ∧ (tile t l.t).handles = (tile s l.t).handles ∧
    (tile t l.t).cbs = (tile s l.t).cbs ∧ (tile t l.t).icache = (tile s l.t).icache

/-- Among the registers of the device only the tile's count of bundles differs: it has gone up by one. -/
def BundleCounted (l : Lane) (s t : State) : Prop :=
  ∀ p, physOf s l.t = some p → Counted Reg.TA_CNT_BUNDLES p 0 1 s t ∧ RegsKeptBut [fldKey Reg.TA_CNT_BUNDLES p 0] s t

/-- The task after it. -/
def Lane.after (l : Lane) (t : State) : Lane := { l with r := (ctxOf t l.t l.c).regs }

/-- Vector operand `vd` holds, as elements of `w` bits, the values and poison that `f` gives; its other elements and every other
vector register stand; the registers of other kinds are those of `r`, but for the `pc`. -/
def VectorWritten (l : Lane) (t : State) (w vd : Nat) (r : Regs) (f : Nat → Option (Nat × Bool)) : Prop :=
  (∀ j, j < l.vbits / w → elemAt w ((l.after t).v vd) j = (f j).elim (elemAt w (l.v vd) j) fun x => x.1 % 2 ^ w) ∧
  (∀ j, j < l.vbits / w → elemPoison w ((l.after t).vp vd) j = (f j).elim (elemPoison w (l.vp vd) j) fun x => x.2) ∧
  (∀ k, k ∉ vregs l.long vd → mget 0 (l.after t).r.v k = mget 0 l.r.v k ∧ mget 0 (l.after t).r.vPoison k = mget 0 l.r.vPoison k) ∧
  (l.after t).r = { r with v := (l.after t).r.v, vPoison := (l.after t).r.vPoison, pc := (l.after t).r.pc }

/-- The registers of a task after the post-modify of an M slot. -/
def posted (l : Lane) (o : SlotOp) (r : Regs) : Regs :=
  if o.f 19 1 = 1 then r.wA (o.f 23 4) ((mStepped l o).getD 0) (l.ap (o.f 23 4) || l.mp (o.f 16 3)) else r

/-- Two ranges of bytes have none in common. -/
abbrev Apart (a n b m : Nat) : Prop := a + n ≤ b ∨ b + m ≤ a

/-- A vector store has written the bytes of the elements it touches, a later element over an earlier one, and no other byte; a word that
it touches is marked if a poisoned byte was written to it, and is clean if all its bytes were written and none was poisoned. -/
def ElementsStored (l : Lane) (o : SlotOp) (s t : State) : Prop :=
  let parts := (mElems l o).map fun e => (at_ s l o.op e.2 l.eb, storeElem l (l.v (o.f 27 5)) (l.vp (o.f 27 5)) e.1)
  (∀ a, (∀ p ∈ parts, Apart p.1 l.eb a 1) → mget 0 t.mem a = mget 0 s.mem a) ∧
  (∀ ps p qs, parts = ps ++ p :: qs → (∀ q ∈ qs, Apart q.1 l.eb p.1 l.eb) → rdBytes 0 t.mem p.1 l.eb = p.2.map (·.1)) ∧
  (∀ w, (∀ i, i < 8 → partAt parts (8 * w + i) = none) → mget false t.spPoison w = mget false s.spPoison w) ∧
  (∀ w, (∃ p ∈ parts, ∃ i v, p.2[i]? = some (v, true) ∧ (p.1 + i) / 8 = w) → mget false t.spPoison w = true) ∧
  (∀ w, (∀ i, i < 8 → partAt parts (8 * w + i) ≠ none) →
    (∀ p ∈ parts, ∀ i v, p.2[i]? = some (v, true) → (p.1 + i) / 8 ≠ w) → mget false t.spPoison w = false)

/-- What an add to an object may change: the object, and whoever waits for it: tasks, jobs of boundary engines, stream contexts, SYNC_WAIT
commands with their completion entries. -/
def wakeParts : List Part :=
  [.regs, .free, .mem, .hostMem, .blocks, .spPoison, .fm, .sources, .hl, .rings, .descs, .objs, .jobs, .tiles, .sctx, .chans]

/-- The command at `ix` of a tile's array queue has failed with a cause: its job, where it holds its place, is ordered to abort, the
error is reported, and no later command of the task is queued. -/
def ArrayFails (t ix : Nat) (e : MxEntry) (c : Nat) (s s' : State) : Prop :=
  (∀ j, jobOf s e.job = some j → holdsPlace j = true → j.abortOrder = none → (jobOf s' e.job).map (·.abortOrder) = some (some c)) ∧
  Reported s s' (mxReport s t e c) ∧ (∀ x, x ∈ (tile s' t).mxq.drop ix → x.job ≠ e.job) ∧
  (c ≠ 0x15 → s'.sources = s.sources) ∧ KeepsBut [.regs, .fm, .sources, .jobs, .tiles] s s'

/-- A command as a task puts it into the queue of its array. -/
def queued (s : State) (l : Lane) (c : MxCmd) : MxEntry :=
  { cmd := c, job := l.job, attempt := l.attempt, started := 0, doneBlocks := 0, run := none, banks := [], issue := s.clk.aclk }

/-! ### What the statements about rings are made of -/

/-- `d` is the one command of ring `r` in the buffer; it has the opcode, nothing is wrong with it, and it may start. -/
abbrev OnlyCommand (r op : Nat) (d : Desc) (s : State) : Prop :=
  s.descs.filter (fun e => e.ring = r) = [d] ∧ d.started = false ∧ ringIs s r 0 0 = true ∧ descOp d = op ∧
    descFault s d = none ∧ mayStart s d = true

/-- Once what stands ahead of it and can only report what is wrong has completed, `d` is the next command of ring `r`; it has the
opcode, and it may start. -/
abbrev NextCommand (r op : Nat) (d : Desc) (s : State) : Prop :=
  nextDesc (faultPass s r) r = some d ∧ descOp d = op ∧ mayStart (faultPass s r) d = true

/-- The command has started and `f` has been done; what follows it on its ring and can only report what is wrong completes. -/
def begun (s : State) (d : Desc) (f : State → Desc → State) : State :=
  faultPass (f (startDesc s d).1 (startDesc s d).2) d.ring

/-- The command has started and `f` has been done; it completes with a status, a detail and two results. -/
def answered (s : State) (d : Desc) (f : State → State) (status detail r0 r1 : Nat) : State :=
  begun s d fun s' e => complete (f s') e status detail r0 r1

/-- First byte of a ring's next entry. -/
def entryAt (s : State) (r : Nat) : Nat :=
  getF s Reg.QM_RING_BASE r 0 + (ring s r).tail % ringEntries s r * ringEsz s r

/-- The next entry of a ring lies at offset `x` of the host window, its write-back word at `y`, apart from it, and the device may
write to the host. -/
abbrev HostRing (s : State) (r x y : Nat) : Prop :=
  region s (entryAt s r) = .host x ∧ region s (getF s Reg.QM_RING_WB r 0) = .host y ∧ busMaster s = true ∧
    Apart (hostAddr s x) 64 (hostAddr s y) 8

/-- A record of 64 bytes has become the ring's next entry, and its write-back word tells of it. -/
def EntryWritten (s t : State) (r x y : Nat) (bytes : List Byte) : Prop :=
  rdBytes 0 t.hostMem (hostAddr s x) 64 = bytes ∧ (ring t r).tail = mod32 ((ring s r).tail + 1) ∧
    rdBytes 0 t.hostMem (hostAddr s y) 8 = natLE 8 (mod32 ((ring s r).tail + 1))

/-! ### What the statements about the control cores are made of -/

/-- A core holds one source at most: an active one or a reservation. -/
abbrev HoldsOne (s : State) : Prop := ∀ n : Fin 8, (coreNo s n.val).active = none ∨ (coreNo s n.val).reserved = none

/-- Core `n` is running, and its `pc` lies in its TCM. -/
abbrev CoreRuns (n : Fin 8) (s : State) : Prop := (coreNo s n.val).run = .running ∧ (coreNo s n.val).pc.toNat < 0x40000

/-- A core with a general register written. -/
def withG (k : Core) (r v : Nat) : Core := if r = 0 then k else { k with g := mset 0 k.g r (BitVec.ofNat 64 v) }

/-- A core whose instruction has completed; it goes on at `next`, and halts there if the debug port steps it. -/
def coreAt (k : Core) (next : BitVec 32) : Core :=
  { k with run := if k.step then .halted else k.run, step := false, loadHeld := false, hostWait := false, lastPc := k.pc, pc := next }

/-- A core that has taken a trap. -/
def trapped (k : Core) (cause tval : Nat) : Core :=
  { k.noLoop with run := if k.step then .halted else if k.run = .sleeping then .running else k.run, step := false, loadHeld := false,
                  hostWait := false, tpc := k.pc, tcause := BitVec.ofNat 8 cause, tval := BitVec.ofNat 64 tval, tm := true, pc := k.tvec }

/-- What a core's load of `n` bytes at `a` reads, piece by piece, and the state it leaves: no piece waits. -/
def coreGot (s : State) (c a n : Nat) : List (Byte × Bool) × State :=
  (coreParts a n).foldl (fun (acc : List (Byte × Bool) × State) p =>
    let q := coreReadPart acc.2 c p
    (acc.1 ++ q.1, q.2)) ([], s)

/-- A load of core `c` may be made: it lies in one region, no piece of it waits for the store buffer or the link, and no host read of it has
timed out. -/
abbrev LoadFree (s : State) (c : Nat) (k : Core) (a n : Nat) : Prop :=
  coreAccess s a n = 0 ∧ (coreParts a n).any (coreBlocked k) = false ∧ (coreParts a n).any (coreHeld s c k) = false ∧
    ((coreParts a n).any (coreHost s k) && s.hl.failed.contains (.core c)) = false

/-- A core with a store put into its buffer. -/
def withStore (k : Core) (a : Nat) (bs : List Byte) : Core :=
  { k with sb := k.sb ++ (coreParts a bs.length).map fun p => { addr := p.1, bytes := (bs.drop (p.1 - a)).take p.2 } }

/-- No other core differs. -/
def CoresKept (n : Fin 8) (s t : State) : Prop := ∀ m, m ≠ n.val → coreNo t m = coreNo s m

/-- The core's instruction has completed and left it as `k`; the parts of `ps` aside, nothing else has changed. -/
def CoreDid (n : Fin 8) (k : Core) (ps : List Part) (s t : State) : Prop :=
  coreNo t n.val = k ∧ Counted Reg.SC_CORE_CNT_INSTR 0 n.val 1 s t ∧ CoresKept n s t ∧ KeepsBut (.regs :: .cores :: ps) s t

/-- The core has taken a trap that is counted and reported, or, in a trap already, has halted with it. -/
def CoreTrapped (n : Fin 8) (cause tval : Nat) (s t : State) : Prop :=
  ((coreNo s n.val).tm = false → coreNo t n.val = trapped (coreNo s n.val) cause tval ∧ Counted Reg.SC_CORE_CNT_TRAPS 0 n.val 1 s t ∧
    Reported s t (mkReport 0x48 .core n.val tval 0 cause)) ∧
  ((coreNo s n.val).tm = true → (coreNo t n.val).run = .faulted ∧ (coreNo t n.val).active = none ∧ (coreNo t n.val).reserved = none ∧
    Counted Reg.SC_CORE_CNT_TRAPS 0 n.val 1 s t ∧ Reported s t (mkReport 0x47 .core n.val tval 0 cause)) ∧ CoresKept n s t

/-! ### What the statements about resets and bring-up are made of -/

/-- The device has started over from S0 with a cause, a fault cause and a hold; the parts of `ps` aside, what lies outside the part
or outlasts its supply is kept and all else is as at reset. -/
def StartsOver (cause faultCause : Nat) (hold : Hold) (ps : List Part) (s t : State) : Prop :=
  t.boot = { Boot.start with cause := cause, faultCause := faultCause } ∧ t.pins.hold = hold ∧ t.pins.fclkRuns = false ∧
    t.pins.resetOutLow = true ∧ t.pins.giPins = s.pins.giPins ∧ t.giLevel = s.pins.giPins ∧ t.pending = s.pending ∧
    t.latches = s.latches ∧ t.sec.flash = s.sec.flash ∧ t.sec.scopes = 0 ∧ t.sec.licence = none ∧ t.sec.keyHeld = false ∧ t.sec.busy = none ∧
    KeepsBut ([.pending, .free, .hostMem, .latches, .ports, .hl, .pins, .boot, .sec, .giLevel] ++ ps) State.reset t

/-- The MSI-X table and `GC_ENABLE` hold their reset values; no other register differs. -/
def ConfigAsAtReset (s t : State) : Prop :=
  ∀ f ch i, let off := fldKey f ch i / 64
    (off = 0x18 ∨ 0x1180000 ≤ off ∧ off < 0x1188000 → getF t f ch i = f.reset) ∧
    (off ≠ 0x18 → off < 0x1180000 ∨ 0x1188000 ≤ off → getF t f ch i = getF s f ch i)

/-- The record of a stage says that it passed, or its failure's code. -/
def StageRecord (stage : Nat) (fail : Option Nat) (t : State) : Prop :=
  getF t Reg.GC_BOOT_RECORD 0 (8 * stage) % 2 ^ 16 = stage + (if fail.isSome then 16 else 0) + fail.getD 0 * 2 ^ 8

/-- A stage has failed with a code, and bring-up stands. -/
def StageFails (stage code : Nat) (s t : State) : Prop :=
  t.boot.fail = true ∧ t.boot.failCode = code ∧ t.boot.stage = stage ∧ StageRecord stage (some code) t ∧
    KeepsBut [.regs, .free, .boot, .sec] s t

/-- A bundle has booted: S1 has ended, the firmware store holds it, locked, and the cores run it from its entry. -/
def Booted (src : Nat) (bs : List Byte) (t : State) : Prop :=
  t.boot.stage = 3 ∧ t.boot.waitHost = false ∧ StageRecord 1 none t ∧ t.sec.store = wrBytes 0 [] 0 bs ∧ t.sec.fwLocked = true ∧
    t.sec.bootSrc = src ∧ t.sec.fwVersion = numAt bs 8 4 ∧ t.sec.licFloor = numAt bs 0xC 4 ∧
    ∀ off size entry, fwComponent t = some (off, size, entry) → ∀ n, n < 8 →
      (coreNo t n).run = .running ∧ (coreNo t n).pc = BitVec.ofNat 32 entry

/-- A row of DRAM is repaired, or is one to be withheld. -/
def RowCared (r : Nat × Nat × Nat) (t : State) : Prop :=
  (∃ e, e ∈ (channel t r.1).repairs ∧ e.bank = r.2.1 ∧ e.row = r.2.2) ∨ r ∈ t.dram.badRows

/-- A licence has come into force: it enables its number of the grid's tiles. -/
def InForce (bs : List Byte) (s t : State) : Prop :=
  t.sec.licence = some { serial := BitVec.ofNat 64 (numAt bs 8 8), tiles := numAt bs 0x20 2 } ∧
    t.grid = { failed := s.grid.failed, cold := s.grid.cold, rows := gridRows s.grid.failed,
               enabled := min (numAt bs 0x20 2) (16 * gridRows s.grid.failed) }

/-- The message at `LOG_THRESH` unread records: at most one from the moment that many are unread, and none again before fewer are. -/
def ThreshNoted (s t : State) : Prop :=
  t.fm = { s.fm with notified := decide (fld s Reg.FM_CTL_LOG_THRESH ≤ unread t) && (s.fm.notified || bit s Reg.FM_CTL_IRQ_EN 0 0) }

/-- The staging area holds these bytes. -/
def StagingHolds (bs : List Byte) (t : State) : Prop := ∀ i, i < 64 → getF t Reg.SEC_STAGE 0 i = leNat ((bs.drop (8 * i)).take 8)

end Machine

end Sys2Proof
end

