-- ==== Sys2Proof/Certificates/Slice0/Obligations.lean ====
section
/-! DEFINITION. The statements about the M8, for the provers. -/

open Sys2Proof Sys2Proof.Machine

/-! ### The machine as a whole -/

/-- The command at the front of the queue is the one that runs, on the state with the rest of the queue. On an empty queue one FCLK cycle
passes: it is counted while FCLK runs, and no command appears; between two CCLK cycles, while nothing waits for a ring's context, it draws
no free value and leaves the memories as they are. The queue and the idle cycle are the model's choice, log 5. -/
def Obligations.StepRunsTheFrontCommand : Prop :=
  (∀ (c : Instr) (rest : List Instr) (s : State), step { s with pending := c :: rest } = exec c { s with pending := rest }) ∧
  (∀ s : State, s.pending = [] → ∃ t, step s = .next t ∧ t.pending = [] ∧
     t.clk.fclk = (if s.pins.fclkRuns then s.clk.fclk + 1 else s.clk.fclk) ∧
     ((s.clk.fclk + 1) % 4 ≠ 0 → s.hl.dbWait = [] → (∀ e ∈ s.rings, e.2.waiting = []) → t.free = s.free ∧ t.mem = s.mem))

/-- Every step keeps the memories in their canonical form, whatever command runs. -/
def Obligations.StepKeepsMemoriesCanonical : Prop :=
  ∀ s t : State, MemOk s → step s = .next t → MemOk t

/-- No command changes a part of the state outside the parts listed for it in `mayChange`, and no free value is drawn twice. -/
def Obligations.CommandChangesOnlyItsParts : Prop :=
  ∀ (c : Instr) (s t : State), exec c s = .next t → KeepsBut (mayChange c) s t ∧ s.free ≤ t.free

/-- Every command but a DRAM access outside the 48 GiB answers a next state, in every state. -/
def Obligations.OnlyDramAccessesOutsideDramStop : Prop :=
  ∀ (c : Instr) (s : State), (∃ t, exec c s = .next t) ∨
    (exec c s = .fault .noSuchAddress ∧
      ((∃ a tries, c = .dramRead a tries ∧ dramTop ≤ a.toNat) ∨
       (∃ a bs p tries, c = .dramWrite a bs p tries ∧ dramTop < a.toNat + bs.length)))

/-- After reset every register field holds its reset value, the queue is empty, bring-up stands at stage 0, no block is enabled, and the
memories are in their canonical form. Fields whose reset value the manual does not give are the model's choice, log 2. -/
def Obligations.ResetState : Prop :=
  (State.reset.pending = [] ∧ State.reset.boot.stage = 0 ∧ State.reset.boot.cause = 1 ∧
   State.reset.boot.fail = false ∧ ready State.reset = false ∧ State.reset.sec.scopes = 0 ∧
   ∀ f ch i, getF State.reset f ch i = f.reset) ∧
  (MemOk State.reset)

/-- The debug scopes open only through DEBUG_UNLOCK, the command or a write of `SEC_CMD` that names it, from a register write or a core's
store; nothing but a reset of the device closes them. -/
def Obligations.DebugScopesOpenOnlyByUnlock : Prop :=
  ∀ (c : Instr) (s t : State), exec c s = .next t → t.sec.scopes ≠ s.sec.scopes →
    ((∃ m, t.sec.scopes = s.sec.scopes ||| m) ∧
      ((∃ k, c = .debugUnlock k) ∨
       (∃ req size data, c = .registerWrite req 0x200030 size data ∧ data.toNat % 16 = 4) ∨
       (∃ n err e rest, c = .coreStoreCommit n err ∧ (coreNo s n.val).sb = e :: rest ∧ coreMem s e.addr = .reg 0x200030 ∧
         leNat e.bytes % 16 = 4))) ∨
    t.sec.scopes = 0

/-! ### Registers and clocks -/

/-- A register write of 8 bytes stores every live field of the register that is stored as written, at any offset and on the channel
that the requester's selection names; a field whose write is a command of its own has that command performed; the first of two 4-byte
writes of a 64-bit register is held. A read of 8 bytes returns the register and clears its RC fields; a 4-byte read of a low half
returns it and latches the high half for the next read of that. An access of the wrong size or alignment is discarded, flagged and
counted; a write that would change a static field while its owner is enabled is ignored and raises `CFG_LOCKED`, with its offset
captured by the first. An access to the queue manager's window waits while its ring's context cannot be loaded, and its command comes
again (R5, R93, R341, R343, R344, R359; that it comes again is the model's choice, log 34). -/
def Obligations.RegisterAccesses : Prop :=
  ((∀ (req : Req) (off i ch : Nat) (f : Fld) (data : Word) (s : State), reached s req = true → answers s off = true → off % 8 = 0 →
     off / 0x80000 ≠ 5 → secLocked s off = false → windowShut s (reqIx req) off 8 = false → ((fieldsAt off).all fun p => !p.1.own) = true → (f, i) ∈ fieldsAt off → f.acc = .rw →
     f.upd = .none ∨ f.upd = .live → f.fix = .id → chanIx s (reqIx req) f = some ch →
     ∃ t, exec (.registerWrite req off 8 data) s = .next t ∧ getF t f ch i = bitsOf data.toNat f.lo f.w ∧
       (off ≠ 0x300000 → KeepsBut [.regs, .shadow, .heldLow, .hl, .rings] s t) ∧
       KeepsBut [.regs, .shadow, .heldLow, .hl, .rings, .hostMem, .fm] s t) ∧
   (∀ (req : Req) (data : Word) (s : State), reached s req = true → answers s 0x500010 = true →
     exec (.registerWrite req 0x500010 8 data) s = exec (.eventSet (Fin.ofNat 1024 (bitsOf data.toNat 0 64)))
       { s with heldLow := mset 0 s.heldLow (halfKey (reqIx req) 0x500010) 0 }) ∧
   (∀ (req : Req) (off : Nat) (data : Word) (s : State), reached s req = true → answers s off = true → off % 8 = 0 →
     off / 0x80000 ≠ 5 → secLocked s off = false → windowShut s (reqIx req) off 4 = false → is64 off = true →
     ∃ t, exec (.registerWrite req off 4 data) s = .next t ∧
       t.heldLow = mset 0 s.heldLow (halfKey (reqIx req) off) (data.toNat % 2 ^ 32 + 1) ∧ KeepsBut [.regs, .heldLow, .rings] s t) ∧
   (∀ (req : Req) (off : Nat) (s : State), reached s req = true → answers s off = true → off % 8 = 0 →
     windowShut s (reqIx req) off 8 = false → ∃ t, exec (.registerReadClear req off 8) s = .next t ∧
       t.readData = natLE 8 (regValue (touchWindow s (reqIx req) off 8) (reqIx req) off) ∧ t.readError = false ∧
       (∀ (f : Fld) (i ch : Nat), (f, i) ∈ fieldsAt off → f.acc = .rc → chanIx s (reqIx req) f = some ch →
         fid f ≠ fid Reg.HV_RAIL_MIN_MV → getF t f ch i = 0) ∧
       KeepsBut [.regs, .readData, .readError, .rings] s t) ∧
   (∀ (req : Req) (off : Nat) (s : State), reached s req = true → answers s off = true → off % 8 = 0 → is64 off = true →
     windowShut s (reqIx req) off 4 = false → ∃ t, exec (.lowHalfRead req off) s = .next t ∧
       t.readData = natLE 4 (regValue (touchWindow s (reqIx req) off 4) (reqIx req) off) ∧ t.readError = false ∧
       t.latched = mset 0 s.latched (halfKey (reqIx req) off)
         (regValue (touchWindow s (reqIx req) off 4) (reqIx req) off / 2 ^ 32 + 1) ∧
       KeepsBut [.regs, .latched, .readData, .readError, .rings] s t)) ∧
  ((∀ (req : Req) (data : Word) (s : State), reached s req = true → answers s 0x20 = true →
     ∃ t, exec (.registerWrite req 0x20 8 data) s = .next t ∧ getF t Reg.GC_SCRATCH 0 0 = data.toNat ∧
       RegsKeptBut [fldKey Reg.GC_SCRATCH 0 0] s t ∧ KeepsBut [.regs, .heldLow] s t) ∧
   (∀ (req : Req) (s : State), reached s req = true → answers s 0x1100200 = true →
     ∃ t, exec (.registerReadClear req 0x1100200 8) s = .next t ∧
       t.readData = natLE 8 (getF s Reg.HL_CNT_CFG_LOCKED 0 0 % 2 ^ 64) ∧ t.readError = false ∧
       getF t Reg.HL_CNT_CFG_LOCKED 0 0 = 0 ∧
       RegsKeptBut [fldKey Reg.HL_CNT_CFG_LOCKED 0 0] s t ∧ KeepsBut [.regs, .readData, .readError] s t) ∧
   (∀ (req : Req) (s : State), reached s req = true → answers s 0xB00A00 = true →
     ∃ t, exec (.lowHalfRead req 0xB00A00) s = .next t ∧ t.readData = natLE 4 (nowNs s) ∧
       mget 0 t.latched (halfKey (reqIx req) 0xB00A00) = nowNs s / 2 ^ 32 + 1 ∧
       KeepsBut [.latched, .readData, .readError] s t ∧
       ∀ u : State, u.latched = t.latched → reached u req = true →
         ∃ v, exec (.registerReadClear req 0xB00A04 4) u = .next v ∧ v.readData = natLE 4 (nowNs s / 2 ^ 32))) ∧
  ((∀ (req : Req) (off size : Nat) (data : Word) (s : State), reached s req = true → okAccess off size = false →
     ∃ t, exec (.registerWrite req off size data) s = .next t ∧ getF t Reg.HL_REG_ERR_BAD_ACCESS 0 0 = 1 ∧
       Counted Reg.HL_CNT_BAD_ACCESS 0 0 1 s t ∧
       RegsKeptBut [fldKey Reg.HL_REG_ERR_BAD_ACCESS 0 0, fldKey Reg.HL_CNT_BAD_ACCESS 0 0] s t ∧ KeepsBut [.regs] s t) ∧
   (∀ (req : Req) (data : Word) (s : State), reached s req = true → answers s 0x1100010 = true → busMaster s = true →
     data.toNat / 4096 * 4096 ≠ getF s Reg.HL_HOST_WIN_BASE 0 0 →
     ∃ t, exec (.registerWrite req 0x1100010 8 data) s = .next t ∧
       getF t Reg.HL_HOST_WIN_BASE 0 0 = getF s Reg.HL_HOST_WIN_BASE 0 0 ∧ getF t Reg.HL_REG_ERR_CFG_LOCKED 0 0 = 1 ∧
       (bit s Reg.HL_REG_ERR_CFG_LOCKED 0 0 = false → getF t Reg.HL_REG_ERR_OFFSET 0 0 = 0x1100010) ∧
       Counted Reg.HL_CNT_CFG_LOCKED 0 0 1 s t ∧
       KeepsBut [.regs, .heldLow] s t) ∧
   (∀ (req : Req) (off size : Nat) (data : Word) (s : State), reached s req = true → windowShut s (reqIx req) off size = true →
     ∃ t, exec (.registerWrite req off size data) s = .next t ∧ exec (.registerReadClear req off size) s = .next t ∧
       (getF s Reg.QM_SEL_RING (reqIx req) 0, none) ∈ t.hl.dbWait ∧ KeepsBut [.hl] s t))

/-- A write of `GC_ENABLE` stores one enable bit for each of the eleven blocks and nothing else. A port's `EN` bit: cleared at once; set
on a lead for a configuration that keeps R59 and R60, with the forwarding sequence restarted; refused with `CFG_ERR` for any other;
ignored on a member lane. A boundary
engine is enabled unless another enabled engine serves the same stream (R60, R111, R501). -/
def Obligations.UnitEnables : Prop :=
  (∀ (data : BitVec 32) (s : State), answers s 0x18 = true →
     ∃ t, exec (.gcEnableWrite data) s = .next t ∧
       getF t Reg.GC_ENABLE_SP 0 0 = bitsOf data.toNat 0 1 ∧ getF t Reg.GC_ENABLE_LT 0 0 = bitsOf data.toNat 1 1 ∧
       getF t Reg.GC_ENABLE_IG 0 0 = bitsOf data.toNat 2 1 ∧ getF t Reg.GC_ENABLE_BE 0 0 = bitsOf data.toNat 3 1 ∧
       getF t Reg.GC_ENABLE_SE 0 0 = bitsOf data.toNat 4 1 ∧ getF t Reg.GC_ENABLE_SC 0 0 = bitsOf data.toNat 5 1 ∧
       getF t Reg.GC_ENABLE_SY 0 0 = bitsOf data.toNat 6 1 ∧ getF t Reg.GC_ENABLE_QM 0 0 = bitsOf data.toNat 7 1 ∧
       getF t Reg.GC_ENABLE_PM 0 0 = bitsOf data.toNat 8 1 ∧ getF t Reg.GC_ENABLE_EV 0 0 = bitsOf data.toNat 9 1 ∧
       getF t Reg.GC_ENABLE_HV 0 0 = bitsOf data.toNat 10 1 ∧
       RegsKeptBut [fldKey Reg.GC_ENABLE_SP 0 0, fldKey Reg.GC_ENABLE_LT 0 0, fldKey Reg.GC_ENABLE_IG 0 0,
         fldKey Reg.GC_ENABLE_BE 0 0, fldKey Reg.GC_ENABLE_SE 0 0, fldKey Reg.GC_ENABLE_SC 0 0, fldKey Reg.GC_ENABLE_SY 0 0,
         fldKey Reg.GC_ENABLE_QM 0 0, fldKey Reg.GC_ENABLE_PM 0 0, fldKey Reg.GC_ENABLE_EV 0 0,
         fldKey Reg.GC_ENABLE_HV 0 0] s t ∧ KeepsBut [.regs] s t) ∧
  (∀ (p : Fin 32) (data : BitVec 32) (s : State), answers s 0xA01000 = true →
     (data.getLsbD 0 = false → ∃ t, exec (.portEnable p data) s = .next t ∧ getF t Reg.SP_PORT_CTL_EN p.val 0 = 0 ∧
       t.ports = s.ports) ∧
     (data.getLsbD 0 = true → getF s Reg.SP_PORT_CTL_EN p.val 0 = 0 →
       leadOf (storeOthers s 0xA01000 p.val 0 data.toNat) p.val = p.val →
       groupOk (storeOthers s 0xA01000 p.val 0 data.toNat) p.val = true →
       ∃ t, exec (.portEnable p data) s = .next t ∧ getF t Reg.SP_PORT_CTL_EN p.val 0 = 1 ∧ (port t p.val).fwdSeq = 0 ∧
         KeepsBut [.regs, .shadow, .ports] s t) ∧
     (data.getLsbD 0 = true → getF s Reg.SP_PORT_CTL_EN p.val 0 = 0 →
       leadOf (storeOthers s 0xA01000 p.val 0 data.toNat) p.val = p.val →
       groupOk (storeOthers s 0xA01000 p.val 0 data.toNat) p.val = false →
       ∃ t, exec (.portEnable p data) s = .next t ∧ getF t Reg.SP_PORT_CTL_EN p.val 0 = 0 ∧
         getF t Reg.SP_LINK_STAT_CFG_ERR p.val 0 = 1) ∧
     (data.getLsbD 0 = true → getF s Reg.SP_PORT_CTL_EN p.val 0 = 1 ∨
         leadOf (storeOthers s 0xA01000 p.val 0 data.toNat) p.val ≠ p.val →
       ∃ t, exec (.portEnable p data) s = .next t ∧ getF t Reg.SP_PORT_CTL_EN p.val 0 = getF s Reg.SP_PORT_CTL_EN p.val 0 ∧
         KeepsBut [.regs, .shadow] s t)) ∧
  (∀ (b : Fin 32) (data : BitVec 32) (s : State), answers s 0xD01000 = true →
     (data.getLsbD 0 = false → ∃ t, exec (.beEnable b data) s = .next t ∧ getF t Reg.BE_CTL_EN b.val 0 = 0) ∧
     (data.getLsbD 0 = true → getF s Reg.BE_CTL_EN b.val 0 = 0 → (∀ c : Fin 32, c ≠ b → getF s Reg.BE_CTL_EN c.val 0 = 1 →
         getF s Reg.BE_CTL_STREAM c.val 0 ≠ getF (storeOthers s 0xD01000 b.val 0 data.toNat) Reg.BE_CTL_STREAM b.val 0) →
       ∃ t, exec (.beEnable b data) s = .next t ∧ getF t Reg.BE_CTL_EN b.val 0 = 1 ∧ KeepsBut [.regs, .shadow] s t) ∧
     (data.getLsbD 0 = true → getF s Reg.BE_CTL_EN b.val 0 = 0 → (∃ c : Fin 32, c ≠ b ∧ getF s Reg.BE_CTL_EN c.val 0 = 1 ∧
         getF s Reg.BE_CTL_STREAM c.val 0 = getF (storeOthers s 0xD01000 b.val 0 data.toNat) Reg.BE_CTL_STREAM b.val 0) →
       ∃ t, exec (.beEnable b data) s = .next t ∧ getF t Reg.BE_CTL_EN b.val 0 = 0 ∧ getF t Reg.BE_CTL_CFG_ERR b.val 0 = 1))

/-- The clock commands: a forced step is stored, 0b11 as 0b10, and a demand that differs from the step in force begins a change
unless one is in progress; a completed change puts its step in force, is counted, and sets source 31; a PLL that loses lock
after bring-up is reported, one that loses it from S1 to S7 is in the error log (R15, R16, R17, R421). -/
def Obligations.ClockCommands : Prop :=
  (∀ (data : BitVec 2) (s : State), answers s 0x100040 = true →
    ∃ t, exec (.aclkForceStep data) s = .next t ∧ (s.clk.stepTo ≠ none → t.clk = s.clk) ∧ getF t Reg.CK_ACLK_CTL_FORCE_STEP 0 0 = min 2 data.toNat ∧
      (s.clk.stepTo = none → t.clk.stepTo = if max (thermStep s) (min 2 data.toNat) = s.clk.step then none
        else some (max (thermStep s) (min 2 data.toNat))) ∧
      t.clk.step = s.clk.step ∧ RegsKeptBut [fldKey Reg.CK_ACLK_CTL_FORCE_STEP 0 0] s t ∧ KeepsBut [.regs, .clk] s t) ∧
  (∀ (hclk n : Nat) (s : State), s.clk.stepTo = some n →
    ∃ t, exec (.aclkStepChange hclk) s = .next t ∧ t.clk.step = n ∧
      getF t Reg.CK_ACLK_CTL_SWITCH_LAT 0 0 = min 255 hclk ∧
      Counted Reg.CK_ACLK_CTL_STEP_CHANGES 0 0 1 s t ∧
      t.latches = s.latches ||| 0x8000 ∧ (t.clk.stepTo = if aclkGoal s = n then none else some (aclkGoal s)) ∧
      RegsKeptBut [fldKey Reg.CK_ACLK_CTL_SWITCH_LAT 0 0, fldKey Reg.CK_ACLK_CTL_STEP_CHANGES 0 0] s t) ∧
  (∀ s : State, ∃ t, exec .pllLockLoss s = .next t ∧ t.clk.pllLocked = false ∧
      (ready s = true → Reported s t (mkReport 0x4D .clock 0 0 0 0) ∧ KeepsBut [.clk, .fm] s t) ∧
      (ready s = false → s.boot.stage = 0 ∨ s.pins.hold ≠ .none → KeepsBut [.clk] s t) ∧
      (ready s = false → s.boot.stage ≠ 0 → s.pins.hold = .none → unread s < 64 →
        unread t = unread s + 1 ∧ getF t Reg.FM_LOG 0 (4 * (logTail s % 64)) % 256 = 0x4D))

/-! ### Sensor ports (R59 to R83) -/

/-- Ethernet frames: a frame that fails the MAC check and one for another destination are counted and nothing else happens; of the others
each is counted, forwarded, or given to the bound stream whose filter it matches, as its kind asks, an acknowledgement of the port's own
requests from whatever port it comes; a payload packet ahead of its
block's leader is held with its block, with its own receive stamp, and counted out of order, and its stream has been heard (R63, R64,
R66, R67, R68, R75, R81). -/
def Obligations.EthernetFrames : Prop :=
  (∀ (p : Fin 32) (f : EthFrame) (s : State), receives s p.val [1, 2] = true → (f.fcsOk = false ∨ f.len < 64 ∨ 9600 < f.len) →
    ∃ t, exec (.ethernetFrameRx p f) s = .next t ∧
      Counted Reg.SP_CNT_MAC_ERR (leadOf s p.val) 0 1 s t ∧
      RegsKeptBut [fldKey Reg.SP_CNT_MAC_ERR (leadOf s p.val) 0] s t ∧ KeepsBut [.regs] s t) ∧
  (∀ (p : Fin 32) (f : EthFrame) (s : State), receives s p.val [1, 2] = true → f.fcsOk = true → 64 ≤ f.len → f.len ≤ 9600 →
    f.dstMac.toNat ≠ getF s Reg.SP_MAC_ADDR_MAC (leadOf s p.val) 0 → f.groupAddr = false →
    ∃ t, exec (.ethernetFrameRx p f) s = .next t ∧
      Counted Reg.SP_CNT_MAC_FILT (leadOf s p.val) 0 1 s t ∧
      RegsKeptBut [fldKey Reg.SP_CNT_MAC_FILT (leadOf s p.val) 0] s t ∧ KeepsBut [.regs] s t) ∧
  (∀ (p : Fin 32) (f : EthFrame) (s : State), receives s p.val [1, 2] = true → f.fcsOk = true → 64 ≤ f.len → f.len ≤ 9600 →
    f.dstMac.toNat = getF s Reg.SP_MAC_ADDR_MAC (leadOf s p.val) 0 ∨ f.groupAddr = true →
    (f.body = .badChecksum → ∃ t, exec (.ethernetFrameRx p f) s = .next t ∧ Counted Reg.SP_CNT_CSUM (leadOf s p.val) 0 1 s t ∧
      RegsKeptBut [fldKey Reg.SP_CNT_CSUM (leadOf s p.val) 0] s t ∧ KeepsBut [.regs] s t) ∧
    (f.body = .pause ∨ (f.body = .other ∧ bit s Reg.SP_CTRL_RING_FWD_OTHER (leadOf s p.val) 0 = false) →
      ∃ t, exec (.ethernetFrameRx p f) s = .next t ∧ Counted Reg.SP_CNT_OTHER_DROP (leadOf s p.val) 0 1 s t ∧
        RegsKeptBut [fldKey Reg.SP_CNT_OTHER_DROP (leadOf s p.val) 0] s t ∧ KeepsBut [.regs] s t) ∧
    (f.body = .ptpEvent → exec (.ethernetFrameRx p f) s =
      .next (forward s (leadOf s p.val) 1 f.vlan.toNat (rxStamp s (leadOf s p.val)) f.content)) ∧
    (f.body = .ptpGeneral → exec (.ethernetFrameRx p f) s =
      .next (forward s (leadOf s p.val) 2 f.vlan.toNat (rxStamp s (leadOf s p.val)) f.content)) ∧
    (f.body = .other → bit s Reg.SP_CTRL_RING_FWD_OTHER (leadOf s p.val) 0 = true → exec (.ethernetFrameRx p f) s =
      .next (forward s (leadOf s p.val) 3 f.vlan.toNat (rxStamp s (leadOf s p.val)) f.content)) ∧
    (∀ ip sp dp odd ack g, f.body = .udp ip sp dp odd ack g →
      ((∃ a, ack = some a ∧ 0x8000 ≤ a.toNat) → ∃ t, exec (.ethernetFrameRx p f) s = .next t ∧
        Counted Reg.SP_CNT_RESEND_ACK (leadOf s p.val) 0 1 s t ∧ KeepsBut [.regs] s t) ∧
      (sp = 3956 → (∀ a, ack = some a → a.toNat < 0x8000) → exec (.ethernetFrameRx p f) s =
        .next (forward s (leadOf s p.val) 0 f.vlan.toNat (rxStamp s (leadOf s p.val)) f.content)) ∧
      (sp ≠ 3956 → (∀ a, ack = some a → a.toNat < 0x8000) → odd = true →
        (∃ x ∈ streamsOf s (leadOf s p.val), getF s Reg.SP_STREAM_FILT_UDP_DST x 0 = dp.toNat) →
        ∃ t, exec (.ethernetFrameRx p f) s = .next t ∧ Counted Reg.SP_CNT_MALFORMED (leadOf s p.val) 0 1 s t ∧ KeepsBut [.regs] s t) ∧
      (∀ x, sp ≠ 3956 → (∀ a, ack = some a → a.toNat < 0x8000) → odd = false → matchStream s (leadOf s p.val) ip sp dp = some x →
        (stream s x).bound = true → exec (.ethernetFrameRx p f) s =
          .next (gvspPacket (heard s x) (leadOf s p.val) x g (rxStamp s (leadOf s p.val)))))) ∧
  (∀ (p : Fin 32) (f : EthFrame) (ip : BitVec 32) (sp dp : BitVec 16) (ack : Option (BitVec 16)) (x id k : Nat)
    (bytes : List Byte) (b : Block) (s : State),
    receives s p.val [1, 2] = true → f.fcsOk = true → 64 ≤ f.len → f.len ≤ 9600 → f.groupAddr = true →
    f.body = .udp ip sp dp false ack { blockId := id, body := .payload k bytes } → sp ≠ 3956 →
    (∀ a, ack = some a → a.toNat < 0x8000) → matchStream s (leadOf s p.val) ip sp dp = some x → (stream s x).bound = true → 0 < id → id ≤ 65535 →
    (pstream s x).blocks = [b] → b.id = id → b.leader = false → b.bad = false → b.held = [] → b.abandoned = [] → b.placed = [] →
    b.payload = none → b.packets = none → b.trailer = none → 0 < k →
    payloadFits (heard s x) x { b with payload := learnSize (gvspBytes (heard s x) x b) none [(k, bytes.length)] } k bytes.length
      ≠ some false →
    ∃ t, exec (.ethernetFrameRx p f) s = .next t ∧ (pstream t x).lastPacketNs = nowNs s ∧ (pstream t x).idlePosted = false ∧
      (∃ b', (pstream t x).blocks = [b'] ∧ b'.id = id ∧ b'.held = [(k, bytes, rxStamp s (leadOf s p.val))] ∧ b'.placed = [] ∧ b'.highest = max b.highest k) ∧
      Counted Reg.SP_CNT_OOO (leadOf s p.val) 0 1 s t ∧
      KeepsBut [.regs, .pstreams] s t)

/-- Missing packets of a block: after the wait one resend command asks for the longest waiting position and the run behind it, at once or
behind what the port has to send; at the deadline a position is abandoned, a leader with its whole block. CoaXPress packets: one with a
wrong CRC is counted and discarded; each kind is counted, forwarded, or given to its stream; a stream packet next in order is put in
the receive queue with its stamp, if there is room; the first packet of a group of lanes waits for those whose order the skew tolerance
tells; when the packets that a held one waits for are given up, they are counted and the
held one is taken (R68, R70, R71, R73). -/
def Obligations.ResendsAndCoaxpress : Prop :=
  ((∀ (x : Fin 32) (b : Block) (g : Gap) (s : State), bit s Reg.SP_RESEND_CTL_EN x.val 0 = true →
     leastBy longerDue (dueGaps s x.val) = some (b, g) →
     let i := TxItem.resend x.val b.id g.packet (g.packet + resendRun s x.val b g - 1) (pstream s x.val).nextReq (resendSrc s x.val)
     ∃ t, exec (.resendWaitExpiry x) s = .next t ∧
       (txWaits s (leadOf s x.val) = true → (port t (leadOf s x.val)).txq = (port s (leadOf s x.val)).txq ++ [i] ∧
         (port t (leadOf s x.val)).sent = (port s (leadOf s x.val)).sent) ∧
       (txWaits s (leadOf s x.val) = false → (port t (leadOf s x.val)).txq = (port s (leadOf s x.val)).txq ∧
         (port t (leadOf s x.val)).sent = (port s (leadOf s x.val)).sent ++ [.item i]) ∧
       (pstream t x.val).blocks = (pstream s x.val).blocks.map (fun k => if k.id = b.id then
         { k with gaps := k.gaps.map fun e =>
             if g.packet ≤ e.packet && e.packet < g.packet + resendRun s x.val b g then
               { e with requests := e.requests + 1, lastNs := nowNs s }
             else e } else k) ∧
       (pstream t x.val).nextReq = (if (pstream s x.val).nextReq = 0xFFFF then 0x8000 else (pstream s x.val).nextReq + 1) ∧
       Counted Reg.SP_CNT_RESEND_REQ (leadOf s x.val) 0 1 s t ∧
       RegsKeptBut [fldKey Reg.SP_CNT_RESEND_REQ (leadOf s x.val) 0] s t ∧ KeepsBut [.regs, .ports, .pstreams] s t) ∧
   (∀ (x : Fin 32) (id k : Nat) (b : Block) (s : State), blockOf s x.val id = some b →
     (∃ g ∈ b.gaps, g.packet = k ∧ g.atNs + 1000 * getF s Reg.SP_RESEND_CTL_DEADLINE x.val 0 ≤ nowNs s) →
     ∃ t, exec (.resendDeadline x id k) s = .next t ∧
       ∀ c, blockOf t x.val id = some c → k ∈ c.abandoned ∧ (∀ g ∈ c.gaps, g.packet ≠ k) ∧ (k = 0 → c.bad = true)) ∧
   (∀ (x : Fin 32) (id k : Nat) (b : Block) (s : State), (pstream s x.val).blocks = [b] → b.id = id → b.trailer = none → 0 < k →
     (stream s x.val).welds = [] → (∃ g ∈ b.gaps, g.packet = k ∧ g.atNs + 1000 * getF s Reg.SP_RESEND_CTL_DEADLINE x.val 0 ≤ nowNs s) →
     ∃ t, exec (.resendDeadline x id k) s = .next t ∧
       (pstream t x.val).blocks = [{ b with gaps := b.gaps.filter fun g => g.packet ≠ k, abandoned := k :: b.abandoned }])) ∧
  ((∀ (p : Fin 32) (c : CxpPacket) (s : State), receives s p.val [3] = true → c.crcOk = false →
     ∃ t, exec (.cxpPacketRx p c) s = .next t ∧
       Counted Reg.SP_CNT_MALFORMED (leadOf s p.val) 0 1 s t ∧
       RegsKeptBut [fldKey Reg.SP_CNT_MALFORMED (leadOf s p.val) 0] s t ∧ KeepsBut [.regs] s t) ∧
   (∀ (p : Fin 32) (c : CxpPacket) (s : State), receives s p.val [3] = true → c.crcOk = true →
     (c.body = .unknown → ∃ t, exec (.cxpPacketRx p c) s = .next t ∧ Counted Reg.SP_CNT_MALFORMED (leadOf s p.val) 0 1 s t ∧
       KeepsBut [.regs] s t) ∧
     (∀ b, c.body = .control b → exec (.cxpPacketRx p c) s =
       .next (forward s (leadOf s p.val) 4 0 (rxStamp s (leadOf s p.val)) b)) ∧
     (∀ b, c.body = .event b → exec (.cxpPacketRx p c) s =
       .next (forward s (leadOf s p.val) 5 0 (rxStamp s (leadOf s p.val)) b)) ∧
     (∀ b, c.body = .heartbeat b → exec (.cxpPacketRx p c) s =
       .next (forward s (leadOf s p.val) 6 0 (rxStamp s (leadOf s p.val)) b)) ∧
     (∀ x, ((∃ fmt, c.body = .imageStart fmt) ∨ ∃ n off bytes, c.body = .pixels n off bytes) →
       (streamsOf s (leadOf s p.val)).find? (fun x => getF s Reg.SP_STREAM_FILT_CXP_ID x 0 = c.streamId.toNat) = some x →
       (stream s x).bound = true → exec (.cxpPacketRx p c) s =
         .next (cxpStream (heard s x) (leadOf s p.val) x c (rxStamp s (leadOf s p.val))))) ∧
   (∀ (p : Fin 32) (c : CxpPacket) (n off x : Nat) (bytes : List Byte) (s : State), receives s p.val [3] = true → c.crcOk = true →
     c.body = .pixels n off bytes →
     (streamsOf s (leadOf s p.val)).find? (fun x => getF s Reg.SP_STREAM_FILT_CXP_ID x 0 = c.streamId.toNat) = some x →
     (stream s x).bound = true → (stream s x).welds = [] → (pstream s x).fresh = false → (pstream s x).cxpBad = false →
     (pstream s x).nextTag = some c.tag → (pstream s x).cxpHeld = [] →
     (port s (leadOf s p.val)).rxBytes +
       ((linePieces (lineBytes (stream s x)) (n * lineBytes (stream s x) + off) bytes).map fun q => q.2.2.length).sum ≤ 65536 →
     ∃ t, exec (.cxpPacketRx p c) s = .next t ∧ (pstream t x).nextTag = some ((c.tag + 1) % 256) ∧
       (pstream t x).lastPacketNs = nowNs s ∧
       (port t (leadOf s p.val)).rxq = (port s (leadOf s p.val)).rxq ++
         (linePieces (lineBytes (stream s x)) (n * lineBytes (stream s x) + off) bytes).map (fun q =>
           { stream := x, line := lineAt (pstream s x).imageFirsts q.1, off := q.2.1, bytes := q.2.2,
             stampNs := rxStamp s (leadOf s p.val) }) ∧
       KeepsBut [.regs, .ports, .pstreams, .streams] s t) ∧
   (∀ (p : Fin 32) (c : CxpPacket) (x : Nat) (s : State), receives s p.val [3] = true → c.crcOk = true →
     (∃ n off bytes, c.body = .pixels n off bytes) ∨ (∃ fmt, c.body = .imageStart fmt) →
     (streamsOf s (leadOf s p.val)).find? (fun x => getF s Reg.SP_STREAM_FILT_CXP_ID x 0 = c.streamId.toNat) = some x →
     (stream s x).bound = true → (pstream s x).nextTag = none → groupSize s (leadOf s p.val) ≠ 1 →
     ∃ t, exec (.cxpPacketRx p c) s = .next t ∧
       (pstream t x).cxpHeld = (pstream s x).cxpHeld ++ [(c, rxStamp s (leadOf s p.val), nowNs s)] ∧
       (pstream t x).nextTag = none ∧ KeepsBut [.pstreams] s t) ∧
   (∀ (p : Fin 32) (s : State), exec (.cxpSkewTimeout p) s =
     .next (thread (skewStream (leadOf s p.val)) s (streamsOf s (leadOf s p.val)))) ∧
   (∀ (p : Fin 32) (c : CxpPacket) (x tag rx come : Nat) (s : State), x ∈ streamsOf s (leadOf s p.val) →
     (∀ y ∈ streamsOf s (leadOf s p.val), y ≠ x → (pstream s y).nextTag = none ∧ (pstream s y).cxpHeld = []) → (pstream s x).nextTag = some tag →
     (pstream s x).cxpHeld = [(c, rx, come)] → come + 4000 ≤ nowNs s →
     ∃ t, exec (.cxpSkewTimeout p) s = .next t ∧ (pstream t x).cxpHeld = [] ∧ (pstream t x).nextTag = some ((c.tag + 1) % 256) ∧
       Counted Reg.SP_CNT_SKEW (leadOf s p.val) 0 ((c.tag + 256 - tag) % 256) s t))

/-- What a port sends: a trigger packet that waits on its uplink goes out; the first stamped frame goes out with its stamp, and any other
frame once no item waits; a descriptor that is poisoned or breaks a rule completes with an error and sends nothing, and one whose data the host link cannot read now
waits; an item that waits goes out when no stamped frame is next; once a frame has left, what waited behind it goes
out unless a stamped frame is next (R64, R65, R68, R72, R77, R339, R352). -/
def Obligations.PortTransmissions : Prop :=
  (∀ (p : Fin 32) (i : TxItem) (s : State),
    (port s p.val).txq.find? (fun i => match i with | .trigger _ _ => true | _ => false) = some i →
    ∃ t, exec (.cxpTriggerPacket p) s = .next t ∧ (port t p.val).sent = (port s p.val).sent ++ [.item i] ∧
      (port t p.val).txq = (port s p.val).txq.filter (fun k => k ≠ i) ∧ KeepsBut [.ports] s t) ∧
  (∀ (p : Fin 32) (d : Desc) (s : State), portOn s (leadOf s p.val) = true → (port s (leadOf s p.val)).txBusy = none →
    (portMode s (leadOf s p.val) ≠ 3 ∧ (txReady s (leadOf s p.val)).find? (fun e => txStamped e && !e.poison) = some d) ∨
      ((portMode s (leadOf s p.val) = 3 ∨ (txReady s (leadOf s p.val)).find? (fun e => txStamped e && !e.poison) = none) ∧
        (port s (leadOf s p.val)).txq = [] ∧ (txReady s (leadOf s p.val)).head? = some d) →
    (∀ why, (d.poison = true ∧ why = (0x10, 0)) ∨
        (d.poison = false ∧ ∃ o, txBadField (portMode s (leadOf s p.val) = 3) d = some o ∧ why = (2, o)) →
      exec (.portTransmit p) s = .next (completeAs (startDesc s d).1 (startDesc s d).2 0xF0 false why.1 why.2 0 0)) ∧
    (d.poison = false → txBadField (portMode s (leadOf s p.val) = 3) d = none → hostOpen s = false →
      exec (.portTransmit p) s = .next s) ∧
    (d.poison = false → txBadField (portMode s (leadOf s p.val) = 3) d = none → hostOpen s = true →
    ∃ t, exec (.portTransmit p) s = .next t ∧
      (port t (leadOf s p.val)).txBusy = some ⟨d.ring, d.seq,
        if wordBits d.words 0 17 1 = 1 then (nowNs s + getF s Reg.SP_TS_ADJ_TX_LAT (leadOf s p.val) 0) % 2 ^ 64 else 0⟩ ∧
      (port t (leadOf s p.val)).sent.length = (port s (leadOf s p.val)).sent.length + 1 ∧
      (port t (leadOf s p.val)).txq = (port s (leadOf s p.val)).txq ∧ KeepsBut [.ports, .rings, .descs] s t)) ∧
  (∀ (p : Fin 32) (i : TxItem) (rest : List TxItem) (s : State), portOn s (leadOf s p.val) = true →
    (port s (leadOf s p.val)).txBusy = none →
    portMode s (leadOf s p.val) = 3 ∨ (txReady s (leadOf s p.val)).find? (fun e => txStamped e && !e.poison) = none →
    (port s (leadOf s p.val)).txq = i :: rest →
    ∃ t, exec (.portTransmit p) s = .next t ∧ (port t (leadOf s p.val)).txq = rest ∧
      (port t (leadOf s p.val)).sent = (port s (leadOf s p.val)).sent ++ [.item i] ∧ KeepsBut [.ports] s t) ∧
  (∀ (p : Fin 32) (b : TxBusy) (s : State), (port s (leadOf s p.val)).txBusy = some b →
    let u := txComplete (updPort s (leadOf s p.val) fun k => { k with txBusy := none }) b
    ∃ t, exec (.portTransmitComplete p) s = .next t ∧ (port t (leadOf s p.val)).txBusy = none ∧
      (portMode s (leadOf s p.val) ≠ 3 ∧ (txReady u (leadOf s p.val)).any txStamped = true →
        (port t (leadOf s p.val)).txq = (port s (leadOf s p.val)).txq ∧
        (port t (leadOf s p.val)).sent = (port s (leadOf s p.val)).sent) ∧
      (portMode s (leadOf s p.val) = 3 ∨ (txReady u (leadOf s p.val)).any txStamped = false →
        (port t (leadOf s p.val)).txq = [] ∧
        (port t (leadOf s p.val)).sent =
          (port s (leadOf s p.val)).sent ++ (port s (leadOf s p.val)).txq.map (fun i => .item i)))

/-- Links and idle streams: a link that goes down or comes up changes its port's state, an idle stream is noted once, and a
SerDes calibration leaves everything but its own time as it was (R74, R75, R488). -/
def Obligations.LinksAndIdleStreams : Prop :=
  (∀ (p : Fin 32) (s : State), (port s (leadOf s p.val)).linkUp = true →
    ∃ t, exec (.linkDown p) s = .next t ∧ (port t (leadOf s p.val)).linkUp = false ∧
      Counted Reg.SP_LINK_STAT_LINK_DOWNS (leadOf s p.val) 0 1 s t ∧
      ∀ x ∈ streamsOf s (leadOf s p.val), (pstream t x).nextTag = none ∧ (pstream t x).cxpHeld = []) ∧
  (∀ (p : Fin 32) (s : State), (port s (leadOf s p.val)).linkUp = false → portOn s (leadOf s p.val) = true →
    ∃ t, exec (.linkUp p) s = .next t ∧ (port t (leadOf s p.val)).linkUp = true ∧ t.pins.refSns = true) ∧
  (∀ (x : Fin 32) (s : State), (stream s x.val).bound = true → getF s Reg.SP_TIMEOUT_IDLE_MS x.val 0 ≠ 0 →
    (pstream s x.val).idlePosted = false →
    (pstream s x.val).lastPacketNs + 1000000 * getF s Reg.SP_TIMEOUT_IDLE_MS x.val 0 ≤ nowNs s →
    ∃ t, exec (.streamIdle x) s = .next t ∧ (pstream t x.val).idlePosted = true ∧
      (pstream t x.val).lastPacketNs = (pstream s x.val).lastPacketNs) ∧
  (∀ (p : Fin 32) (s : State), fld s Reg.HV_CAL_CTL_SERDES_S = 0 ∨ portOn s p.val = false →
    exec (.serdesCalibration p) s = .next s) ∧
  (∀ (p : Fin 32) (s : State), fld s Reg.HV_CAL_CTL_SERDES_S ≠ 0 → portOn s p.val = true →
    ∃ t, exec (.serdesCalibration p) s = .next t ∧ (port t p.val).calNs = nowNs s ∧
    (port t p.val).rxq = (port s p.val).rxq ∧ (port t p.val).linkUp = (port s p.val).linkUp ∧ KeepsBut [.ports] s t)

/-! ### Ingest and boundary engines (R25 to R33, R99 to R122) -/

/-- Ingest: the oldest packet of a port's queue is taken; `EN` is accepted only while the retention registers agree with the committed
map, and a write that sets it otherwise leaves it as it was and sets `MEM_MAP_STAT.RET_MISMATCH` (R323). -/
def Obligations.Ingest : Prop :=
  (∀ (p : Fin 32) (q : QPacket) (rest : List QPacket) (s : State), igEn s = true → (port s p.val).rxq = q :: rest →
    ∃ t, exec (.ingestTakePacket p) s = .next t ∧ (port t p.val).rxq = rest ∧
      (port t p.val).rxBytes = (port s p.val).rxBytes - q.bytes.length) ∧
  (∀ (data : BitVec 32) (s : State), answers s 0xC00000 = true →
    (data.getLsbD 0 = true → s.dram.committed = true → fld s Reg.IG_RET_BASE = s.dram.rb →
      fld s Reg.IG_RET_SIZE = s.dram.rs →
      ∃ t, exec (.ingestEnable data) s = .next t ∧ getF t Reg.IG_CTL_EN 0 0 = 1) ∧
    (data.getLsbD 0 = true →
      (s.dram.committed = false ∨ fld s Reg.IG_RET_BASE ≠ s.dram.rb ∨ fld s Reg.IG_RET_SIZE ≠ s.dram.rs) →
      ∃ t, exec (.ingestEnable data) s = .next t ∧ getF t Reg.IG_CTL_EN 0 0 = getF s Reg.IG_CTL_EN 0 0 ∧
        getF t Reg.MEM_MAP_STAT_RET_MISMATCH 0 0 = 1) ∧
    (data.getLsbD 0 = false → ∃ t, exec (.ingestEnable data) s = .next t ∧ getF t Reg.IG_CTL_EN 0 0 = 0))

/-- Stripes and epochs: the next stripe of a stream is announced and its jobs are created, while the stripe-job queue has room; the
snapshot of an epoch whose jobs have retired is written once and sets source 30; a class-B field that has taken effect is announced
once (R11, R30, R33, R34, R104, R492). What fills the stripe-job queue is the model's choice, log 5. -/
def Obligations.EpochEvents : Prop :=
  (∀ (x : Fin 64) (e : Stripe) (s : State), (stream s x.val).bound = true →
    s.stripes.find? (fun e => e.stream = x.val && !e.announced &&
      e.row * nSegs (stream s x.val) + e.seg = (stream s x.val).announcedTo) = some e → e.units.isSome = true →
    announceRoom s (stream s x.val).plan = true →
    ∃ t, exec (.stripeAnnounce x) s = .next t ∧ (stream t x.val).announcedTo = (stream s x.val).announcedTo + 1 ∧
      ∀ m ∈ templates s (stream s x.val).plan, m.kind = 1 → jobOf s (instAt x.val m e.row e.seg) = none →
        (jobOf t (instAt x.val m e.row e.seg)).isSome = true) ∧
  (∀ (x : Fin 64) (b : Bank) (s : State), (stream s x.val).prev = some b → (stream s x.val).bound = true →
    epochDone s x.val ((stream s x.val).epoch - 1) = true →
    ∃ t, exec (.harvestSnapshot x) s = .next t ∧ (stream t x.val).prev = none ∧
      (stream t x.val).snaps = (stream s x.val).snaps + 1 ∧ (stream t x.val).bank = (stream s x.val).bank ∧
      t.latches = s.latches ||| 0x4000) ∧
  (∀ (b : Fin 32) (line : Nat) (s : State), (engine s b.val).applyDue = some line →
    ∃ t, exec (.bApplied b) s = .next t ∧ (engine t b.val).applyDue = none ∧
      (engine t b.val).active = (engine s b.val).active) ∧
  (∀ (b : Fin 32) (s : State), (engine s b.val).applyDue = none → swapDue s b.val = true → (engine s b.val).applied = false →
    ∃ t, exec (.bApplied b) s = .next t ∧ (engine t b.val).applied = true ∧ (engine t b.val).active = (engine s b.val).active ∧
      (engine t b.val).swapStaged = true)

/-- Correction tables: a load of a good image fills the inactive bank and makes it ready; a swap staged for the next epoch
exchanges the banks at it, and at once on a disabled engine; entries whose parity fails, of the bank that the engine's job uses, are
reloaded and the fault is reported, or they are lost (R6, R112, R115, R116, R441). -/
def Obligations.CorrectionTables : Prop :=
  (∀ (b : Fin 32) (addr : Addr) (s : State), answers s 0xD01008 = true → (engine s b.val).oldBusy = false →
    (engine s b.val).loading = none → (readImage s (addr.toNat / 64 * 64) 64).2.1 = false →
    headerOk s b.val (readImage s (addr.toNat / 64 * 64) 64).1 = true →
    ∃ t, exec (.tableLoad b addr) s = .next t ∧ (engine t b.val).loading = some (addr.toNat / 64 * 64) ∧
      (engine t b.val).ready = false ∧ (engine t b.val).active = (engine s b.val).active) ∧
  (∀ (b : Fin 32) (a : Nat) (s : State), (engine s b.val).loading = some a →
    (readImage s a (tblBytes (boundW s b.val))).2.1 = false →
    headerOk s b.val ((readImage s a (tblBytes (boundW s b.val))).1.take 64) = true →
    (bankOfImage a (readImage s a (tblBytes (boundW s b.val))).1).entries.any (fun e => decide (2 ^ 33 ≤ e.2.toNat)) = false →
    ∃ t, exec (.tableLoadComplete b) s = .next t ∧ (engine t b.val).loading = none ∧ (engine t b.val).ready = true ∧
      (engine t b.val).inactive = bankOfImage a (readImage s a (tblBytes (boundW s b.val))).1 ∧
      (engine t b.val).active = (engine s b.val).active) ∧
  (∀ (b : Fin 32) (s : State), answers s 0xD01010 = true → (engine s b.val).ready = true →
    beEn s b.val = false → ∃ t, exec (.tableSwapRequest b) s = .next t ∧
      (engine t b.val).active = (engine s b.val).inactive ∧ (engine t b.val).inactive = (engine s b.val).active ∧
      (engine t b.val).ready = false ∧ (engine t b.val).since = (stream s (getF s Reg.BE_CTL_STREAM b.val 0)).row) ∧
  (∀ (b : Fin 32) (s : State), answers s 0xD01010 = true → (engine s b.val).ready = true → beEn s b.val = true →
    ∃ t, exec (.tableSwapRequest b) s = .next t ∧ (engine t b.val).swapStaged = true ∧
      (engine t b.val).swapEpoch = (stream s (getF s Reg.BE_CTL_STREAM b.val 0)).epoch ∧
      (engine t b.val).active = (engine s b.val).active ∧ KeepsBut [.engines] s t) ∧
  (∀ (b : Fin 32) (s : State), swapDue s b.val = true →
    ∃ t, exec (.tableSwap b) s = .next t ∧ (engine t b.val).active = (engine s b.val).inactive ∧
      (engine t b.val).inactive = (engine s b.val).active ∧ (engine t b.val).ready = false ∧
      (engine t b.val).swapStaged = false) ∧
  (∀ (b : Fin 32) (column : Nat) (s : State), (tblOf (engine s b.val) (jobOld s b.val)).valid = true →
    column < (tblOf (engine s b.val) (jobOld s b.val)).cols →
    ((reloadEntries (cntB s Reg.BE_CNT_PARITY b.val 1) b.val (jobOld s b.val) column).isSome = true →
      ∃ t, exec (.tableParityError b column) s = .next t ∧ (engine t b.val).lost = none ∧
        Reported s t (mkReport 0x44 .boundary b.val column ((engineJob s b.val).elim 0 (·.id)) 0)) ∧
    (reloadEntries (cntB s Reg.BE_CNT_PARITY b.val 1) b.val (jobOld s b.val) column = none →
      ∃ t, exec (.tableParityError b column) s = .next t ∧ (engine t b.val).lost = some column ∧
        (engine t b.val).lostOld = jobOld s b.val ∧
        ∃ w pre, w.rep = mkReport 0x45 .boundary b.val column ((engineJob s b.val).elim 0 (·.id)) 0 ∧
          t.fm.intake = s.fm.intake ++ pre ++ [w]))

/-! ### Line timing (R84 to R98) -/

/-- Encoders: enabling clears the position; a changed level is accepted once it has been held for `FILT` CCLK cycles, at once where that is
0, and until then counts nothing; an accepted change moves the position by one in the direction of its edge and raises the high-water
mark; an illegal transition is counted and moves nothing, and sets `FAULT` beyond the limit of its window; a
window ends with its speed; a strip that stalls stops, and ends after the wait of R96 (R84 to R87, R96, R97). -/
def Obligations.Encoders : Prop :=
  (∀ (e : Fin 8) (data : Word) (s : State), answers s 0xB00100 = true → data.getLsbD 0 = true →
    getF s Reg.LT_ENC_CTL_EN 0 e.val = 0 →
    ∃ t, exec (.encoderEnable e data) s = .next t ∧ getF t Reg.LT_ENC_CTL_EN 0 e.val = 1 ∧ (enc t e.val).pos = 0 ∧
      (enc t e.val).hwm = 0 ∧ KeepsBut [.regs, .shadow, .encs] s t) ∧
  (∀ (e : Fin 8) (data : Word) (s : State), answers s 0xB00100 = true → data.getLsbD 0 = false →
    ∃ t, exec (.encoderEnable e data) s = .next t ∧ getF t Reg.LT_ENC_CTL_EN 0 e.val = 0 ∧ t.encs = s.encs) ∧
  (∀ (e : Fin 8) (a b : Bool) (s : State), encOn s e.val = true →
    ((s.pins.encA.getLsbD e.val = a ∧ s.pins.encB.getLsbD e.val = b ∧
        (enc s e.val).aFrom + 4 * getF s Reg.LT_ENC_CTL_FILT 0 e.val ≤ s.clk.fclk ∧
        (enc s e.val).bFrom + 4 * getF s Reg.LT_ENC_CTL_FILT 0 e.val ≤ s.clk.fclk) ∨
      (getF s Reg.LT_ENC_CTL_FILT 0 e.val = 0 ∧ s.pins.encA.getLsbD e.val = (enc s e.val).a ∧
        s.pins.encB.getLsbD e.val = (enc s e.val).b)) →
    ((enc s e.val).a ≠ a ∧ (enc s e.val).b = b) ∨ ((enc s e.val).a = a ∧ (enc s e.val).b ≠ b) →
    ∃ t, exec (.encoderCount e a b) s = .next t ∧ (enc t e.val).a = a ∧ (enc t e.val).b = b ∧
      (enc t e.val).pos = (enc s e.val).pos +
        (if bit s Reg.LT_ENC_CTL_INVERT 0 e.val then - countDir (enc s e.val).a a b else countDir (enc s e.val).a a b) ∧
      (enc t e.val).hwm = max (enc s e.val).hwm (enc t e.val).pos) ∧
  (∀ (e : Fin 8) (a b : Bool) (s : State), 0 < getF s Reg.LT_ENC_CTL_FILT 0 e.val →
    s.pins.encA.getLsbD e.val = (enc s e.val).a → s.pins.encB.getLsbD e.val = (enc s e.val).b →
    ∃ t, exec (.encoderCount e a b) s = .next t ∧ (enc t e.val).a = (enc s e.val).a ∧ (enc t e.val).b = (enc s e.val).b ∧
      (enc t e.val).pos = (enc s e.val).pos ∧ t.pins.encA.getLsbD e.val = a ∧ t.pins.encB.getLsbD e.val = b ∧
      (a ≠ (enc s e.val).a → (enc t e.val).aFrom = s.clk.fclk) ∧ (b ≠ (enc s e.val).b → (enc t e.val).bFrom = s.clk.fclk) ∧
      KeepsBut [.pins, .encs] s t) ∧
  (∀ (e : Fin 8) (a b : Bool) (s : State), encOn s e.val = true →
    ((s.pins.encA.getLsbD e.val = a ∧ s.pins.encB.getLsbD e.val = b ∧ (enc s e.val).aFrom / 4 = (enc s e.val).bFrom / 4 ∧
        (enc s e.val).aFrom + 4 * getF s Reg.LT_ENC_CTL_FILT 0 e.val ≤ s.clk.fclk ∧
        (enc s e.val).bFrom + 4 * getF s Reg.LT_ENC_CTL_FILT 0 e.val ≤ s.clk.fclk) ∨
      (getF s Reg.LT_ENC_CTL_FILT 0 e.val = 0 ∧ s.pins.encA.getLsbD e.val = (enc s e.val).a ∧
        s.pins.encB.getLsbD e.val = (enc s e.val).b)) →
    (enc s e.val).a ≠ a → (enc s e.val).b ≠ b →
    ∃ t, exec (.encoderCount e a b) s = .next t ∧ (enc t e.val).pos = (enc s e.val).pos ∧ (enc t e.val).a = a ∧
      (enc t e.val).b = b ∧ Counted Reg.LT_ENC_ERRS 0 e.val 1 s t ∧
      (getF s Reg.LT_ENC_CTL_ERR_LIMIT 0 e.val < (enc s e.val).winErrs + 1 → (enc s e.val).winFault = false →
        (enc t e.val).winFault = true ∧ getF t Reg.LT_ENC_STAT_FAULT 0 e.val = 1) ∧
      ((enc s e.val).winErrs + 1 ≤ getF s Reg.LT_ENC_CTL_ERR_LIMIT 0 e.val →
        RegsKeptBut [fldKey Reg.LT_ENC_ERRS 0 e.val] s t ∧ KeepsBut [.regs, .pins, .encs] s t)) ∧
  (∀ (e : Fin 8) (s : State), encOn s e.val = true →
    (enc s e.val).winAt + 1000 * getF s Reg.LT_ENC_CTL_SPD_WIN 0 e.val ≤ s.clk.fclk →
    ∃ t, exec (.speedWindow e) s = .next t ∧ (enc t e.val).winPos = (enc s e.val).pos ∧
      (enc t e.val).speed = ((enc s e.val).pos - (enc s e.val).winPos) * 1000000 / (getF s Reg.LT_ENC_CTL_SPD_WIN 0 e.val : Nat) ∧
      (enc t e.val).range = decide (getF s Reg.LT_ENC_LIMITS_SPD_MAX 0 e.val < (enc t e.val).speed.natAbs) ∧
      (enc t e.val).pos = (enc s e.val).pos) ∧
  (∀ (e : Fin 8) (s : State), encOn s e.val = true → (enc s e.val).motion = .moving →
    (enc s e.val).countAt + 1000 * getF s Reg.LT_ENC_LIMITS_STALL_US 0 e.val ≤ s.clk.fclk →
    ∃ t, exec (.stripStop e) s = .next t ∧ (enc t e.val).motion = .stopped ∧ (enc t e.val).pos = (enc s e.val).pos) ∧
  (∀ (e : Fin 8) (s : State), encOn s e.val = true → (enc s e.val).motion = .stopped →
    getF s Reg.LT_ENC_LIMITS_EOS_MS 0 e.val ≠ 0 →
    (enc s e.val).stopAt + 1000000 * getF s Reg.LT_ENC_LIMITS_EOS_MS 0 e.val ≤ s.clk.fclk →
    ∃ t, exec (.eosStopTimeout e) s = .next t ∧ (enc t e.val).motion = .ended ∧ (enc t e.val).pos = (enc s e.val).pos)

/-- Trigger outputs: an enable is accepted for a source whose index is in range; a pulse request takes the output's delay and width, or
is merged while the output is busy, or is discarded by its gate; the timer requests once for each period, for its own source only; a
pulse drives the pin active, and its end drives it inactive. A general input's level counts once it has been held for its filter's time,
and its edge is timed then; a time
step puts exactly its value into the counter and discards pending slew; an adjustment replaces what has not been slewed in (R88 to R92,
R94). -/
def Obligations.TriggersInputsAndTimeBase : Prop :=
  ((∀ (o : Fin 32) (data : BitVec 32) (s : State), answers s 0xB00400 = true → data.getLsbD 0 = true →
     getF s Reg.LT_TRIG_CTL_EN 0 o.val = 0 → trigCfgOk (storeOthers s (0xB00400 + 0x20 * o.val) 0 o.val data.toNat) o.val = true →
     ∃ t, exec (.triggerEnable o data) s = .next t ∧ getF t Reg.LT_TRIG_CTL_EN 0 o.val = 1 ∧
       (bit t Reg.LT_TRIG_CTL_ALIGN 0 o.val = false →
         (trig t o.val).timerAt = s.clk.fclk + getF s Reg.LT_TRIG_PERIOD 0 o.val) ∧ KeepsBut [.regs, .shadow, .trigs] s t) ∧
   (∀ (o : Fin 32) (data : BitVec 32) (s : State), answers s 0xB00400 = true → data.getLsbD 0 = false →
     ∃ t, exec (.triggerEnable o data) s = .next t ∧ getF t Reg.LT_TRIG_CTL_EN 0 o.val = 0 ∧ t.trigs = s.trigs) ∧
   (∀ (o : Fin 32) (data : BitVec 32) (s : State), answers s 0xB00400 = true → data.getLsbD 0 = true →
     getF s Reg.LT_TRIG_CTL_EN 0 o.val = 0 → trigCfgOk (storeOthers s (0xB00400 + 0x20 * o.val) 0 o.val data.toNat) o.val = false →
     ∃ t, exec (.triggerEnable o data) s = .next t ∧ getF t Reg.LT_TRIG_CTL_EN 0 o.val = 0 ∧
       getF t Reg.LT_TRIG_CTL_CFG_ERR 0 o.val = 1 ∧ t.trigs = s.trigs) ∧
   (∀ (o : Fin 32) (s : State), ltEn s = true → bit s Reg.LT_TRIG_CTL_EN 0 o.val = true →
     bit s Reg.LT_TRIG_CTL_GATE_EN 0 o.val = false ∨ giOn s (getF s Reg.LT_TRIG_CTL_GATE_GI 0 o.val) = true →
     (trig s o.val).busy = false → ∃ t, exec (.triggerFire o) s = .next t ∧ (trig t o.val).busy = true ∧ (trig t o.val).since = s.clk.fclk ∧
       (trig t o.val).delay = getF s Reg.LT_TRIG_SHAPE_DELAY 0 o.val / 4 * 4 ∧
       (trig t o.val).width = getF s Reg.LT_TRIG_SHAPE_WIDTH 0 o.val / 4 * 4 ∧ KeepsBut [.trigs] s t) ∧
   (∀ (o : Fin 32) (s : State), ltEn s = true → bit s Reg.LT_TRIG_CTL_EN 0 o.val = true →
     bit s Reg.LT_TRIG_CTL_GATE_EN 0 o.val = false ∨ giOn s (getF s Reg.LT_TRIG_CTL_GATE_GI 0 o.val) = true →
     (trig s o.val).busy = true → ∃ t, exec (.triggerFire o) s = .next t ∧
       Counted Reg.LT_TRIG_CNT_MERGED 0 o.val 1 s t ∧
       RegsKeptBut [fldKey Reg.LT_TRIG_CNT_MERGED 0 o.val] s t ∧ KeepsBut [.regs] s t) ∧
   (∀ (o : Fin 32) (s : State), bit s Reg.LT_TRIG_CTL_GATE_EN 0 o.val = true →
     giOn s (getF s Reg.LT_TRIG_CTL_GATE_GI 0 o.val) = false → exec (.triggerFire o) s = .next s) ∧
   (∀ (o : Fin 32) (s : State), getF s Reg.LT_TRIG_CTL_SRC 0 o.val ≠ 2 ∨ timerDue s o.val = false →
     exec (.triggerTimer o) s = .next s) ∧
   (∀ (o : Fin 32) (s : State), ltEn s = true → bit s Reg.LT_TRIG_CTL_EN 0 o.val = true →
     getF s Reg.LT_TRIG_CTL_SRC 0 o.val = 2 → timerDue s o.val = true →
     ∃ t, exec (.triggerTimer o) s = .next t ∧ (trig t o.val).timerAt = timerNext s o.val ∧
       (bit s Reg.LT_TRIG_CTL_GATE_EN 0 o.val = false ∨ giOn s (getF s Reg.LT_TRIG_CTL_GATE_GI 0 o.val) = true →
         (trig t o.val).busy = true ∧ ((trig s o.val).busy = true → Counted Reg.LT_TRIG_CNT_MERGED 0 o.val 1 s t)) ∧
       KeepsBut [.regs, .trigs] s t) ∧
   (∀ (o : Fin 32) (s : State), (trig s o.val).busy = true → (trig s o.val).active = false →
     (trig s o.val).since + (trig s o.val).delay ≤ s.clk.fclk →
     ∃ t, exec (.triggerPulseStart o) s = .next t ∧ (trig t o.val).active = true ∧ (trig t o.val).busy = true ∧
       t.pins.trigOut.getLsbD o.val = true ∧ Counted Reg.LT_TRIG_CNT_PULSES 0 o.val 1 s t) ∧
   (∀ (o : Fin 32) (s : State), (trig s o.val).active = true →
     (trig s o.val).since + (trig s o.val).delay + (trig s o.val).width ≤ s.clk.fclk →
     ∃ t, exec (.triggerPulseEnd o) s = .next t ∧ (trig t o.val).active = false ∧ (trig t o.val).busy = false ∧
       t.pins.trigOut.getLsbD o.val = false)) ∧
  ((∀ (g : Fin 16) (pin : Bool) (s : State),
     ∃ t, exec (.generalInputEdge g pin) s = .next t ∧ t.pins.giPins.getLsbD g.val = pin ∧
       (∀ h : Fin 16, h ≠ g → t.giLevel.getLsbD h.val = s.giLevel.getLsbD h.val ∧
         t.pins.giPins.getLsbD h.val = s.pins.giPins.getLsbD h.val) ∧
       ((s.pins.giPins.getLsbD g.val = pin ∧ mget 0 s.giFrom g.val + 1000 * getF s Reg.LT_GI_CTL_FILT 0 g.val ≤ s.clk.fclk) ∨
           (getF s Reg.LT_GI_CTL_FILT 0 g.val = 0 ∧ s.pins.giPins.getLsbD g.val ≠ pin) →
         t.giLevel.getLsbD g.val = pin ∧
         (s.giLevel.getLsbD g.val ≠ pin → ltEn s = true → bit s Reg.LT_GI_CTL_EN 0 g.val = true →
           getF t Reg.LT_GI_TIME 0 g.val = nowNs s)) ∧
       (s.pins.giPins.getLsbD g.val = s.giLevel.getLsbD g.val → s.pins.giPins.getLsbD g.val ≠ pin →
           0 < getF s Reg.LT_GI_CTL_FILT 0 g.val →
         t.giLevel = s.giLevel ∧ mget 0 t.giFrom g.val = s.clk.fclk ∧ KeepsBut [.pins, .giFrom] s t)) ∧
   (∀ (value : Word) (s : State), answers s 0xB00A08 = true →
     ∃ t, exec (.timeStep value) s = .next t ∧ nowNs t = value.toNat ∧ t.clk.slew = 0 ∧ t.clk.fclk = s.clk.fclk) ∧
   (∀ (value : BitVec 32) (s : State), answers s 0xB00A18 = true →
     ∃ t, exec (.timeAdjust value) s = .next t ∧ t.clk.slew = value.toInt * 2 ^ 28 ∧ nowNs t = nowNs s ∧ KeepsBut [.clk] s t))

/-! ### Jobs and tasks (R34 to R58, R129 to R152) -/

/-- Dispatch: the job that is loaded is the first of all in the order of R40 that can be dispatched, into a place and contexts that it can
take, and no other; a context starts with the argument
words, its job id and its program counter, an engine takes the job behind those it holds. A context's first bundle runs once its tile has
selected it, an engine's job once it heads the engine's slots (R38, R40, R130, R135). -/
def Obligations.JobDispatchAndStart : Prop :=
  (∀ (p : Place) (cs : List (Fin 32 × Fin 64)) (j : Job) (m : Template) (s : State), scEn s = true → s.fm.phase = .normal →
    nextJob s = some j → tmplOf s j = some m → mayDispatch s p cs j = true →
    ∃ t, exec (.jobDispatch p cs) s = .next t ∧
      (jobOf t j.id).map (fun k => (k.state, k.place)) = some (.dispatched, some p) ∧
      (∀ (u : Fin 256) (c : Fin 8), p = .tile u c → (ctxOf t u.val c.val).job = some j.id ∧
        (ctxOf t u.val c.val).state = .dispatched ∧
        (ctxOf t u.val c.val).regs = startRegs j m ((blockFor s j m.attemptObjs).getD 0) ∧
        (ctxOf t u.val c.val).codeBase = (plan s j.plan).base ∧ (ctxOf t u.val c.val).attempt = j.attempt) ∧
      (∀ (b : Fin 32) (k : Fin 16), p = .engine b k → (engine t b.val).slots = (engine s b.val).slots ++ [(k.val, j.id)])) ∧
  (∀ (p : Place) (cs : List (Fin 32 × Fin 64)) (s : State), (∀ j, nextJob s = some j → mayDispatch s p cs j = false) →
    exec (.jobDispatch p cs) s = .next s) ∧
  (∀ (u : Fin 256) (c : Fin 8) (j : Job) (s : State), ctxJob s u.val c.val = some j → (tile s u.val).running = some c.val →
    (ctxOf s u.val c.val).state = .dispatched → j.state = .dispatched → tagBusy s j.id j.attempt = false →
    ∃ t, exec (.jobFirstIssue (.tile u c)) s = .next t ∧ (ctxOf t u.val c.val).state = .running ∧
      (jobOf t j.id).map (·.state) = some .running ∧ (ctxOf t u.val c.val).regs = (ctxOf s u.val c.val).regs ∧
      KeepsBut [.jobs, .tiles] s t) ∧
  (∀ (b : Fin 32) (k : Fin 16) (id : JobId) (rest : List (Nat × JobId)) (j : Job) (s : State),
    (engine s b.val).slots = (k.val, id) :: rest → jobOf s id = some j → j.state = .dispatched →
    ∃ t, exec (.jobFirstIssue (.engine b k)) s = .next t ∧ (jobOf t id).map (·.state) = some .running ∧ KeepsBut [.jobs] s t) ∧
  (∀ (u : Fin 256) (c : Nat) (s : State), (tile s u.val).running = none →
    leastBy (selectBefore s u.val) ((upto 8).filter fun c => isReady (ctxOf s u.val c)) = some c → mayEnter s u.val c = true →
    ∃ t, exec (.taskSelect u) s = .next t ∧ (tile t u.val).running = some c ∧ (tile t u.val).loopHeld = false ∧
      (tile t u.val).loopBr = none ∧
      (ctxOf t u.val c).state = (if (ctxOf s u.val c).state = .dispatched then .dispatched else .running) ∧
      (ctxOf t u.val c).regs = (ctxOf s u.val c).regs ∧ KeepsBut [.regs, .jobs, .tiles] s t)

/-- The ended job of a task whose work is complete, with no poison in an output, retires; its context is free and what it staged is
passed on; an engine's running job computes, retires and leaves its slot, and waits while a slot of its queues is not ready. An
expert-job that has emitted too few results, and a job with poison in an output, is ordered to abort instead. An abort signal ends
the attempt and a new attempt number begins; once its reads are discarded the job leaves its place and stands first in line to run
again, unless it awaits the escalation or a frost holds it; a cancelled job whose reads have drained is over; a job that overruns its time, or waits too
long itself or on a halted context, is ordered to abort and reported (R38, R42 to R45, R55, R118, R184, R280, R283, R313, R398). -/
def Obligations.JobEnds : Prop :=
  (∀ (u : Fin 256) (c : Fin 8) (j : Job) (m : Template) (s : State), jobOf s j.id = some j → tmplOf s j = some m →
     j.cancelling = false → j.abortOrder = none → j.place = some (.tile u c) → workDone s j u.val c.val = true →
     (expertShort j = true → holdsPlace j = true → ∃ t, exec (.jobRetire j.id) s = .next t ∧
       (jobOf t j.id).map (fun k => (k.state, k.abortOrder)) = some (j.state, some 0x1A) ∧
       Reported s t (placeReport s j 0x1A) ∧ KeepsBut [.fm, .jobs] s t) ∧
     (expertShort j = false → outputPoison s j = false → ∃ t, exec (.jobRetire j.id) s = .next t ∧ (ctxOf t u.val c.val).state = .free ∧
       (ctxOf t u.val c.val).job = none ∧ ∀ k, jobOf t j.id = some k → k.state = .retired ∧ k.staged = []) ∧
     (expertShort j = false → outputPoison s j = true → holdsPlace j = true → ∃ t, exec (.jobRetire j.id) s = .next t ∧
       (jobOf t j.id).map (fun k => (k.state, k.abortOrder)) = some (j.state, some 0) ∧ KeepsBut [.jobs] s t)) ∧
  (∀ (b : Fin 32) (k : Fin 16) (j : Job) (m : Template) (s : State), jobOf s j.id = some j → tmplOf s j = some m →
     j.cancelling = false → j.abortOrder = none → j.place = some (.engine b k) → j.state = .running →
     (engine s b.val).slots.head? = some (k.val, j.id) →
     (engineStuck s m = none → (engineRun s j m b.val).2 = none → ∃ t, exec (.jobRetire j.id) s = .next t ∧
       ∀ e, jobOf t j.id = some e → e.state = .retired ∧ e.place = none ∧ e.staged = []) ∧
     (∀ a, engineStuck s m = none → (engineRun s j m b.val).2 = some a →
       exec (.jobRetire j.id) s = .next (badInput (orderAbort (engineRun s j m b.val).1 j.id 0x40) j.id a)) ∧
     (∀ w, engineStuck s m = some w → ∃ t, exec (.jobRetire j.id) s = .next t ∧
       (jobOf t j.id).map (fun e => (e.state, e.waitNs, e.waitEnd)) = some (.suspended, nowNs s, some w) ∧ KeepsBut [.regs, .jobs] s t)) ∧
  ((∀ (cause : BitVec 8) (j : Job) (s : State), jobOf s j.id = some j → j.abortOrder = some cause.toNat → holdsPlace j = true →
     j.cancelling = false → inDelaySlot s j = false →
     ∃ t, exec (.jobAbort j.id cause) s = .next t ∧
       (jobOf t j.id).map (fun k => (k.state, k.attempt, k.abortOrder, k.staged)) = some (.aborted, j.attempt + 1, none, [])) ∧
   (∀ (j : Job) (s : State), jobOf s j.id = some j → j.state = .aborted → j.place.isSome = true → j.cancelling = false →
     ∃ t, exec (.jobDiscardComplete j.id) s = .next t ∧
       ∃ k, jobOf t j.id = some k ∧ k.place = none ∧ k.claim = j.place ∧
         (j.awaitEsc = false → s.fm.phase ≠ .frost → k.restarted = true ∧ k.state = .eligible ∧ k.eligAt = s.clk.fclk) ∧
         (j.awaitEsc = true ∨ s.fm.phase = .frost → k.state = .aborted)) ∧
   (∀ (j : Job) (s : State), jobOf s j.id = some j → j.cancelling = true →
     s.sctx.any (fun e => decide (e.2.holder = .job j.id)) = false →
     ∃ t, exec (.jobCancelDrained j.id) s = .next t ∧ ∀ k, jobOf t j.id = some k → k.state = .cancelled ∧ k.cancelling = false) ∧
   (∀ (j : Job) (s : State), jobOf s j.id = some j → j.state = .running → j.abortOrder = none → j.cancelling = false →
     fld s Reg.SC_JOB_CTL_WATCHDOG_MULT * ((tmplOf s j).elim 0 (·.d)) * 200 ≤ j.activeCyc →
     ∃ t, exec (.jobOverrun j.id) s = .next t ∧ (jobOf t j.id).map (·.abortOrder) = some (some 0x1B) ∧
       Reported s t (placeReport s j 0x1B) ∧ KeepsBut [.fm, .jobs] s t) ∧
   (∀ (j : Job) (s : State), jobOf s j.id = some j → j.abortOrder = none → j.cancelling = false → holdsPlace j = true →
     (j.state = .suspended ∧ j.waitNs + 1000 * fld s Reg.SC_JOB_CTL_WAIT_LIMIT < nowNs s) ∨
       (∃ e ∈ s.sctx, e.2.holder = .job j.id ∧ e.2.state = .halted ∧
         e.2.haltNs + 1000 * fld s Reg.SC_JOB_CTL_WAIT_LIMIT < nowNs s) →
     ∃ t, exec (.waitTimeout j.id) s = .next t ∧ (jobOf t j.id).map (·.abortOrder) = some (some 0x1C) ∧
       Reported s t (placeReport s j 0x1C) ∧ KeepsBut [.fm, .jobs] s t))

/-- What a tile's memory side completes: an instruction-cache line that arrives good is installed, a poisoned one orders every
job that waits for it to abort, and the fill is over; the oldest store of a store buffer reaches its bytes, and no other byte changes; a
fill ends with its rows there, or absent. The next step exponent of a DRIFT operator is the one R241 gives for the statistics of its
index (R139, R142, R149, R239 to R242, R275). -/
def Obligations.TileMemoryAndDrift : Prop :=
  ((∀ (u : Fin 256) (line : Nat) (tries : ReadTry) (s : State), ((tile s u.val).fills.take 2).contains line = true →
     let r := devRead s (128 * line) 128 tries ((icacheWaiters s u.val line).headD 0)
     ∃ t, exec (.icacheFill u line tries) s = .next t ∧ (tile t u.val).fills = (tile r.2 u.val).fills.erase line ∧
       (r.1.any (·.2) = false → mget [] (tile t u.val).icache line = r.1.map (·.1)) ∧
       (r.1.any (·.2) = true → (tile t u.val).icache = (tile r.2 u.val).icache ∧
         ∀ id ∈ icacheWaiters s u.val line, ∀ j, jobOf r.2 id = some j → holdsPlace j = true → j.abortOrder = none →
           (jobOf t id).map (·.abortOrder) = some (some 0x40))) ∧
   (∀ (u : Fin 256) (e : SbEntry) (rest : List SbEntry) (s : State), (tile s u.val).sb = e :: rest →
     ∃ t, exec (.storeBufferCommit u) s = .next t ∧ (tile t u.val).sb = rest ∧ rdBytes 0 t.mem e.addr e.bytes.length = e.bytes ∧
       (∀ a, a < e.addr ∨ e.addr + e.bytes.length ≤ a → mget 0 t.mem a = mget 0 s.mem a) ∧
       KeepsBut [.mem, .spPoison, .tiles] s t) ∧
   (∀ (u entry : Fin 256) (a : Nat) (s : State), (handleOf s u.val entry.val).filling = true →
     (handleOf s u.val entry.val).byStream = false → (handleOf s u.val entry.val).copy = some a →
     ∃ t, exec (.fillComplete u entry true) s = .next t ∧ (handleOf t u.val entry.val).present = true ∧
       (handleOf t u.val entry.val).filling = false ∧ (handleOf t u.val entry.val).landed = (handleOf s u.val entry.val).len) ∧
   (∀ (u entry : Fin 256) (ok : Bool) (s : State), (handleOf s u.val entry.val).filling = true →
     (handleOf s u.val entry.val).byStream = false → ok = false ∨ (handleOf s u.val entry.val).copy = none →
     ∃ t, exec (.fillComplete u entry ok) s = .next t ∧ (handleOf t u.val entry.val).present = false ∧
       (handleOf t u.val entry.val).filling = false ∧ (handleOf t u.val entry.val).landed = 0 ∧ KeepsBut [.jobs, .tiles] s t)) ∧
  (∀ (x : Fin 64) (op : Nat) (d : Drift) (o : OpEntry) (s : State), driftOf s x.val op = some d →
     opOf s (stream s x.val).plan op = some o →
     statsComplete s x.val (stream s x.val).plan o (nextIndex s x.val d - getF s Reg.IG_STREAM_DRIFT_LAG 0 x.val) = true →
     nextIndex s x.val d < 64 ∨ indexAll s x.val (stream s x.val).plan o (nextIndex s x.val d - 64) (fun _ => false) = true →
     ∃ t, exec (.driftCompute x op) s = .next t ∧
       (driftOf t x.val op).map (fun e => (e.stream, e.op, e.deltas.head?)) = some (d.stream, d.op, some (nextIndex s x.val d,
         (adapt o ((deltaOf s x.val o (nextIndex s x.val d - 1)).getD o.d0)
           ((deltaOf s x.val o (nextIndex s x.val d - getF s Reg.IG_STREAM_DRIFT_LAG 0 x.val)).getD o.d0)
           ((d.stats.find? fun e => e.1 = nextIndex s x.val d - getF s Reg.IG_STREAM_DRIFT_LAG 0 x.val).getD
             (nextIndex s x.val d - getF s Reg.IG_STREAM_DRIFT_LAG 0 x.val, 0, 0, 0, -128))).1)))

/-! ### The lane engine (R129 to R194) -/

/-- Every row of the lane engine issues a bundle that is fetched and passes its checks: the task goes on to the next bundle,
after a delay slot to the branch's target, in a repeat to the same bundle again; a bundle that raises an exception has none of
its effects and the task keeps its registers but for the cause, and so with one that waits; a stalled one changes nothing but
counts (R134, R139, R179 to R182, R187 to R189). -/
def Obligations.LaneBundles : Prop :=
  ∀ (r : LaneRow) (t : Fin 256) (b next : BitVec 128) (upset : List Nat) (l : Lane) (f : Flow) (s : State),
    (∀ ops, AtBundle r t b l f s → decodeBundle b = some ops → bundleCheck s l f b (rowNext r next) = .ok →
      ∃ s', exec (laneCommand t b next upset r) s = .next s' ∧ (ctxOf s' l.t l.c).lastPc = l.r.pc ∧
        (f.rpt = 0 → f.inSlot = true → (ctxOf s' l.t l.c).regs.pc = f.slot.getD (l.r.pc + 16) ∧
          (ctxOf s' l.t l.c).flow.inSlot = false) ∧
        (f.rpt = 0 → f.inSlot = false → cSlot ops = none → (ctxOf s' l.t l.c).regs.pc = l.r.pc + 16) ∧
        (f.rpt = 1 → (ctxOf s' l.t l.c).regs.pc = l.r.pc + 16 ∧ (ctxOf s' l.t l.c).flow.rpt = 0) ∧
        (1 < f.rpt → (ctxOf s' l.t l.c).regs.pc = l.r.pc ∧ (ctxOf s' l.t l.c).flow.rpt = f.rpt - 1) ∧
        (∀ u, u ≠ l.t → ∀ c, (ctxOf s' u c).regs = (ctxOf s u c).regs)) ∧
    (∀ cause place, AtBundle r t b l f s → bundleCheck s l f b (rowNext r next) = .exc cause place →
      ∃ s', exec (laneCommand t b next upset r) s = .next s' ∧ (ctxOf s' l.t l.c).regs = l.r.cause cause ∧
        (tile s' l.t).running = none ∧
        (ctxOf s' l.t l.c).state = (if cause = 0x04 ∨ cause = 0x06 then .faulted else .waiting) ∧
        (cause ≠ 0x04 → cause ≠ 0x06 → s'.fm.intake.length = s.fm.intake.length + 1) ∧
        (cause ≠ 0x04 → cause ≠ 0x06 → s'.sources = s.sources) ∧
        OthersKept l s s' ∧ KeepsBut [.regs, .fm, .sources, .jobs, .tiles] s s') ∧
    (laneAt s t.val = some (l, f) → rowTakes r b = true → fetchBad l = true →
      ∃ s', exec (laneCommand t b next upset r) s = .next s' ∧ (ctxOf s' l.t l.c).regs = l.r.cause 0x03 ∧
        KeepsBut [.regs, .fm, .jobs, .tiles] s s') ∧
    (∀ line, laneAt s t.val = some (l, f) → rowTakes r b = true → fetchBad l = false → fetchMiss s l f = some line →
      ∃ s', exec (laneCommand t b next upset r) s = .next s' ∧ (ctxOf s' l.t l.c).regs = l.r ∧
        (ctxOf s' l.t l.c).waitFor = .icache line ∧ KeepsBut [.regs, .jobs, .tiles] s s') ∧
    (∀ code w, AtBundle r t b l f s → bundleCheck s l f b (rowNext r next) = .wait code w →
      ∃ s', exec (laneCommand t b next upset r) s = .next s' ∧ (ctxOf s' l.t l.c).regs = l.r ∧
        (ctxOf s' l.t l.c).state = .waiting ∧ (ctxOf s' l.t l.c).wait = code ∧ (ctxOf s' l.t l.c).waitFor = w ∧
        (tile s' l.t).running = none ∧ (jobOf s' l.job).map (·.state) = some .suspended ∧ OthersKept l s s' ∧
        KeepsBut [.regs, .jobs, .tiles] s s') ∧
    (∀ qf pl, AtBundle r t b l f s → bundleCheck s l f b (rowNext r next) = .stall qf pl →
      ∃ s', exec (laneCommand t b next upset r) s = .next s' ∧ (ctxOf s' l.t l.c).regs = l.r ∧ (ctxOf s' l.t l.c).flow = f ∧
        (tile s' l.t).running = some l.c ∧ OthersKept l s s' ∧ TileKept l s s' ∧ KeepsBut [.regs, .tiles] s s')

/-- Scalar, predicate and address operations write the register they name, with its poison, and nothing else: the result of
R166 to R168 for an S or A operation, the immediate for `li`, `vn` and the rest for `vtake`, the new format for `vform`. -/
def Obligations.ScalarOperations : Prop :=
  ∀ (t : Fin 256) (b : BitVec 128) (l : Lane) (f : Flow) (o : SlotOp) (s : State),
    (Issues .scalar t b 0 l f o s → ∃ s', exec (.scalarAlu t b) s = .next s' ∧
      WentOn l f o (l.r.wS (o.f 27 5) (sResult l o s.free).1 (sResult l o s.free).2) s' ∧
      OthersKept l s s' ∧ TileKept l s s' ∧ BundleCounted l s s' ∧ KeepsBut [.regs, .free, .tiles] s s') ∧
    (Issues .pred t b 0 l f o s → ∃ s', exec (.predicateLogic t b) s = .next s' ∧
      WentOn l f o (l.r.wP (o.f 27 5 % 8) (pResult l o)) s' ∧
      OthersKept l s s' ∧ TileKept l s s' ∧ BundleCounted l s s' ∧ KeepsBut [.regs, .tiles] s s') ∧
    (Issues .vtake t b 0 l f o s → ∃ s', exec (.vtake t b) s = .next s' ∧
      WentOn l f o { l.r.wS (o.f 27 5) ((l.second o).1 - min (l.second o).1 l.cap) false with vn := min (l.second o).1 l.cap } s' ∧
      OthersKept l s s' ∧ TileKept l s s' ∧ BundleCounted l s s' ∧ KeepsBut [.regs, .tiles] s s') ∧
    (Issues .vform t b 0 l f o s → ∃ s', exec (.vform t b) s = .next s' ∧
      (l.after s').r.vfmt = BitVec.ofNat 8 (l.second o).1 ∧ (l.after s').vn = (l.after s').cap ∧
      WentOn l f o { l.r.wS (o.f 27 5) (l.after s').cap false with vn := (l.after s').cap, vfmt := (l.after s').r.vfmt } s' ∧
      OthersKept l s s' ∧ TileKept l s s' ∧ BundleCounted l s s' ∧ KeepsBut [.regs, .tiles] s s') ∧
    (Issues .addr t b 0 l f o s → ∃ s', exec (.addressOp t b) s = .next s' ∧
      WentOn l f o (match o.op with
        | 0x01 => l.r.wA (o.f 28 4) (unsgn 48 (l.a (o.f 24 4) + (l.step o).1)) (l.ap (o.f 24 4) || (l.step o).2)
        | 0x02 => l.r.wA (o.f 28 4) ((modStep (l.a (o.f 24 4)) (l.m (o.f 21 3)) (l.step o).1).getD 0)
            (l.ap (o.f 24 4) || (l.step o).2 || l.mp (o.f 21 3))
        | 0x03 => l.r.wA (o.f 28 4) (unsgn 48 (l.step o).1) (l.step o).2
        | 0x04 => l.r.wM (o.f 28 3) (l.s (o.f 15 5)) (l.sp (o.f 15 5))
        | _ => l.r.wA (o.f 28 4) (2 ^ 47 + o.f 0 8 * 2 ^ 39) false) s' ∧
      OthersKept l s s' ∧ TileKept l s s' ∧ BundleCounted l s s' ∧ KeepsBut [.regs, .tiles] s s') ∧
    (Issues .li t b 0 l f o s → ∃ s', exec (.li t b) s = .next s' ∧
      WentOn l f o (match o.f 65 2 with
        | 0 => l.r.wS (o.f 67 5) (o.f 0 64) false
        | 1 => l.r.wA (o.f 67 5) (o.f 0 64) false
        | _ => l.r.wM (o.f 67 5) (o.f 0 64) false) s' ∧
      OthersKept l s s' ∧ TileKept l s s' ∧ BundleCounted l s s' ∧ KeepsBut [.regs, .tiles] s s')

/-- Vector operations write the active elements of their destination, with their poison; every other element and register stands.
Reductions write the low element of their destination with the sum, the least or the greatest active element, or the FP32 sum in
its fixed order; `vbexp` writes the block exponent to a scalar register, alone or as the least seen (R133, R167, R169 to R173,
R192). -/
def Obligations.VectorOperations : Prop :=
  (∀ (t : Fin 256) (b : BitVec 128) (l : Lane) (f : Flow) (o : SlotOp) (s : State),
     (Issues .vint t b 0 l f o s → ∃ s', exec (.vectorInteger t b) s = .next s' ∧
       VectorWritten l s' l.ew (o.f 27 5) l.r (fun j =>
         if o.op = 0x18 then
           (if j < l.vn then some (if l.active (o.f 9 3) j then l.el (l.v (o.f 22 5)) j else (l.op2 o j).1,
             l.ep (l.vp (o.f 22 5)) j || (l.op2 o j).2) else none)
         else if !l.active (o.f 9 3) j then none
         else if o.op = 0x19 then some (l.op2 o j)
         else some (vInt o.op l.ew (l.el (l.v (o.f 27 5)) j) (l.el (l.v (o.f 22 5)) j) (l.op2 o j).1,
           l.ep (l.vp (o.f 22 5)) j || (usesOp2 o.op && (l.op2 o j).2) || (o.op = 0x07 && l.ep (l.vp (o.f 27 5)) j))) ∧
       OthersKept l s s' ∧ TileKept l s s' ∧ BundleCounted l s s' ∧ KeepsBut [.regs, .tiles] s s') ∧
     (Issues .vcmp t b 0 l f o s → ∃ s', exec (.vectorCompare t b) s = .next s' ∧
       (∀ j, j < 128 / l.eb → o.f 27 3 ≠ 0 → bitsOf ((l.after s').p (o.f 27 3)) (j * l.eb) l.eb =
         if l.active (o.f 9 3) j then
           (if !l.ep (l.vp (o.f 22 5)) j && !(l.op2 o j).2 && vCmp o.op l.ew (l.el (l.v (o.f 22 5)) j) (l.op2 o j).1
             then 2 ^ l.eb - 1 else 0)
         else bitsOf (l.p (o.f 27 3)) (j * l.eb) l.eb) ∧
       (∀ k, k = 0 ∨ k ≠ o.f 27 3 → (l.after s').p k = l.p k) ∧
       (l.after s').r = { l.r.seen ((l.actives (o.f 9 3)).any fun j => l.ep (l.vp (o.f 22 5)) j || (l.op2 o j).2) with
         p := (l.after s').r.p, pc := (l.after s').r.pc } ∧
       OthersKept l s s' ∧ TileKept l s s' ∧ BundleCounted l s s' ∧ KeepsBut [.regs, .tiles] s s') ∧
     (Issues .vperm t b 0 l f o s → ∃ s', exec (.vperm t b) s = .next s' ∧
       VectorWritten l s' l.ew (o.f 27 5) l.r (fun j =>
         if l.active (o.f 9 3) j then
           some (l.el (l.v (o.f 22 5)) ((l.op2 o j).1 % l.cap), l.ep (l.vp (o.f 22 5)) ((l.op2 o j).1 % l.cap) || (l.op2 o j).2)
         else none) ∧
       OthersKept l s s' ∧ TileKept l s s' ∧ BundleCounted l s s' ∧ KeepsBut [.regs, .tiles] s s') ∧
     (∀ dw sw, Issues .vcvt t b 0 l f o s → cvtWidth (o.f 4 3) = some dw → cvtWidth (o.f 1 3) = some sw →
       ∃ s', exec (.vcvt t b) s = .next s' ∧
       VectorWritten l s' dw (o.f 27 5) l.r (fun k =>
         let dst := if o.f 0 1 = 1 ∧ dw < sw then l.cap else 0
         let frm := if o.f 0 1 = 1 ∧ sw < dw then l.cap else 0
         if dst ≤ k && k < dst + l.cap && l.active (o.f 9 3) (k - dst) then
           some (cvtElem (o.f 4 3) (o.f 1 3) (elemAt sw (l.v (o.f 22 5)) (k - dst + frm)),
             elemPoison sw (l.vp (o.f 22 5)) (k - dst + frm))
         else none) ∧
       OthersKept l s s' ∧ TileKept l s s' ∧ BundleCounted l s s' ∧ KeepsBut [.regs, .tiles] s s') ∧
     (Issues .vfloat t b 0 l f o s → ∃ s', exec (.vectorFloat t b) s = .next s' ∧
       VectorWritten l s' l.ew (o.f 27 5) l.r (fun j =>
         if l.active (o.f 9 3) j then
           some (vFlt o.op l.ff (l.el (l.v (o.f 27 5)) j) (l.el (l.v (o.f 22 5)) j) (l.op2 o j).1,
             l.ep (l.vp (o.f 22 5)) j || (l.op2 o j).2 || (o.op = 0x1F && l.ep (l.vp (o.f 27 5)) j))
         else none) ∧
       OthersKept l s s' ∧ TileKept l s s' ∧ BundleCounted l s s' ∧ KeepsBut [.regs, .tiles] s s')) ∧
  (∀ (t : Fin 256) (b : BitVec 128) (l : Lane) (f : Flow) (o : SlotOp) (s : State),
     (Issues .vred t b 0 l f o s → ∃ s', exec (.vectorReduction t b) s = .next s' ∧
       VectorWritten l s' 64 (o.f 27 5) l.r (fun j =>
         if j = 0 ∧ l.vn ≠ 0 then
           some (unsgn 64 (match o.op with
             | 0x22 => ((l.actives (o.f 9 3)).map fun i => sgn l.ew (l.el (l.v (o.f 22 5)) i)).sum
             | 0x23 => ((l.actives (o.f 9 3)).map fun i => sgn l.ew (l.el (l.v (o.f 22 5)) i)).foldl min ((2 ^ (l.ew - 1) : Nat) - 1)
             | _ => ((l.actives (o.f 9 3)).map fun i => sgn l.ew (l.el (l.v (o.f 22 5)) i)).foldl max (-(2 ^ (l.ew - 1) : Nat))),
             (l.actives (o.f 9 3)).any (l.ep (l.vp (o.f 22 5))))
         else none) ∧
       OthersKept l s s' ∧ TileKept l s s' ∧ BundleCounted l s s' ∧ KeepsBut [.regs, .tiles] s s') ∧
     (Issues .vfredsum t b 0 l f o s → ∃ s', exec (.vfredsum t b) s = .next s' ∧
       VectorWritten l s' 32 (o.f 27 5) l.r (fun j =>
         if j = 0 ∧ l.vn ≠ 0 then
           some (fredSum ((l.actives (o.f 9 3)).map fun i => fRound fp32 (fRead l.ff (l.el (l.v (o.f 22 5)) i))),
             (l.actives (o.f 9 3)).any (l.ep (l.vp (o.f 22 5))))
         else none) ∧
       OthersKept l s s' ∧ TileKept l s s' ∧ BundleCounted l s s' ∧ KeepsBut [.regs, .tiles] s s') ∧
     (Issues .vbexp t b 0 l f o s → ∃ s', exec (.vbexp t b) s = .next s' ∧
       (l.vn ≠ 0 → WentOn l f o (l.r.wS (o.f 27 5)
         (if o.op = 0x26 then blockExp l.ew ((l.actives (o.f 9 3)).map (l.el (l.v (o.f 22 5))))
           else unsgn 64 (min (sgn 64 (l.s (o.f 27 5))) (blockExp l.ew ((l.actives (o.f 9 3)).map (l.el (l.v (o.f 22 5)))) : Nat)))
         ((l.actives (o.f 9 3)).any (l.ep (l.vp (o.f 22 5))) || (o.op = 0x27 && l.sp (o.f 27 5)))) s') ∧
       (l.vn = 0 → WentOn l f o l.r s') ∧
       OthersKept l s s' ∧ TileKept l s s' ∧ BundleCounted l s s' ∧ KeepsBut [.regs, .tiles] s s'))

/-- Loads write their register with what the scratchpad holds under the store buffer, and no byte of memory; a scalar store
enters the store buffer; vector stores write exactly the bytes of the elements they touch, a later element over an earlier one, and a word keeps its poison
marker unless the store writes all its eight bytes clean; the 128 bytes of an `ist` go to instruction RAM in order, at the next
`isync` or switch (R142, R149, R150, R174 to R177, R186, R191). -/
def Obligations.LoadsAndStores : Prop :=
  ∀ (t : Fin 256) (b : BitVec 128) (upset : List Nat) (l : Lane) (f : Flow) (o : SlotOp) (s : State),
    (Issues .sload t b 0 l f o s → ∃ s', exec (.scalarLoad t b upset) s = .next s' ∧
      (let n := scalarSize o.op
       let bs := laneRead s l.t (access s l (mEa l o) n n false).2 n upset
       WentOn l f o (posted l o (l.r.wS (o.f 27 5) (loadValue o.op (bs.map (·.1))) (bs.any (·.2)))) s') ∧
      OthersKept l s s' ∧ TileKept l s s' ∧ KeepsBut [.regs, .fm, .sources, .jobs, .tiles] s s') ∧
    (Issues .sstore t b 0 l f o s → ∃ s', exec (.scalarStore t b) s = .next s' ∧
      (let n := scalarSize o.op
       (tile s' l.t).sb = (tile s l.t).sb ++ [⟨(access s l (mEa l o) n n true).2, natLE n (l.s (o.f 27 5)), l.sp (o.f 27 5)⟩]) ∧
      WentOn l f o (posted l o l.r) s' ∧ OthersKept l s s' ∧ KeepsBut [.regs, .fm, .jobs, .tiles] s s') ∧
    (Issues .vld t b 0 l f o s → ∃ s', exec (.vld t b upset) s = .next s' ∧
      VectorWritten l s' l.ew (o.f 27 5) (if l.vn = 0 then l.r else posted l o l.r) (fun j =>
        if l.active (o.f 20 3) j then
          (let bs := laneRead s l.t (at_ s l o.op ((mEa l o + j * l.eb) % 2 ^ 48) l.eb) l.eb upset
           some (leNat (bs.map (·.1)), bs.any (·.2)))
        else none) ∧
      OthersKept l s s' ∧ TileKept l s s' ∧ KeepsBut [.regs, .fm, .sources, .jobs, .tiles] s s') ∧
    (Issues .vgather t b 0 l f o s → ∃ s', exec (.vgather t b upset) s = .next s' ∧
      VectorWritten l s' l.ew (o.f 27 5) l.r (fun j =>
        if !l.active (o.f 20 3) j then none
        else if (idxOf l o j).2 then some (l.el (l.v (o.f 27 5)) j, true)
        else
          let bs := laneRead s l.t (at_ s l o.op ((l.a (o.f 23 4) + (idxOf l o j).1 * l.eb) % 2 ^ 48) l.eb) l.eb upset
          some (leNat (bs.map (·.1)), bs.any (·.2))) ∧
      OthersKept l s s' ∧ TileKept l s s' ∧ KeepsBut [.regs, .fm, .sources, .jobs, .tiles] s s') ∧
    (Issues .vst t b 0 l f o s → ∃ s', exec (.vst t b) s = .next s' ∧
      WentOn l f o (if l.vn = 0 then l.r else posted l o l.r) s' ∧
      ((∀ e, e ∈ mElems l o → sbOver s l.t (at_ s l o.op e.2 l.eb) l.eb = []) → ElementsStored l o s s' ∧ TileKept l s s') ∧
      OthersKept l s s' ∧ KeepsBut [.regs, .mem, .spPoison, .fm, .jobs, .tiles] s s') ∧
    (Issues .vscatter t b 0 l f o s → ∃ s', exec (.vscatter t b) s = .next s' ∧
      WentOn l f o (l.r.seen ((l.actives (o.f 20 3)).any fun i => (idxOf l o i).2)) s' ∧
      ((∀ e, e ∈ mElems l o → sbOver s l.t (at_ s l o.op e.2 l.eb) l.eb = []) → ElementsStored l o s s' ∧ TileKept l s s') ∧
      OthersKept l s s' ∧ KeepsBut [.regs, .mem, .spPoison, .fm, .jobs, .tiles] s s') ∧
    (Issues .ist t b 0 l f o s → ∃ s', exec (.ist t b) s = .next s' ∧
      (tile s' l.t).istq = (tile s l.t).istq ++ [(l.a (o.f 23 4), natLE 128 (mget 0 l.r.v (o.f 27 5)).toNat)] ∧
      WentOn l f o l.r s' ∧ OthersKept l s s' ∧ TileKept l s s' ∧ KeepsBut [.regs, .tiles] s s')

/-- Branches: the bundle behind one is its delay slot, and a taken branch goes to its target after it; `call` and `jr` leave `pc` + 32
in the link register; `rpt` repeats the next bundle, or passes it over. `sywait` passes once the counter has reached its register;
`syadd` adds to a STREAMING or ATTEMPT object at once and to a COMMIT object at retirement; `hqpush`, `hqpop` and `hqrel` move the
slots of a queue and give the address of the slot taken (R178 to R183, R277 to R284). -/
def Obligations.BranchesSyncAndQueues : Prop :=
  (∀ (t : Fin 256) (b next : BitVec 128) (l : Lane) (f : Flow) (o : SlotOp) (s : State),
     (Issues .br t b 0 l f o s → f.rpt = 0 → ∃ s', exec (.br t b) s = .next s' ∧
       (ctxOf s' l.t l.c).regs = { l.r with pc := l.r.pc + 16 } ∧
       (ctxOf s' l.t l.c).flow = { slot := (if condHolds l o then some (BitVec.ofInt 32 (l.r.pc.toNat + 16 * o.sf 0 24)) else none),
                                   inSlot := true, rpt := 0 } ∧ OthersKept l s s' ∧ KeepsBut [.regs, .tiles] s s') ∧
     (Issues .call t b 0 l f o s → f.rpt = 0 → ∃ s', exec (.call t b) s = .next s' ∧
       (ctxOf s' l.t l.c).regs = { l.r.wS 31 (l.r.pc + 32).toNat false with pc := l.r.pc + 16 } ∧
       (ctxOf s' l.t l.c).flow = { slot := some (BitVec.ofInt 32 (l.r.pc.toNat + 16 * o.sf 0 24)), inSlot := true, rpt := 0 } ∧
       OthersKept l s s' ∧ KeepsBut [.regs, .tiles] s s') ∧
     (Issues .jr t b 0 l f o s → f.rpt = 0 → ∃ s', exec (.jr t b) s = .next s' ∧
       (ctxOf s' l.t l.c).regs = { l.r.wS (o.f 22 5) (l.r.pc + 32).toNat false with pc := l.r.pc + 16 } ∧
       (ctxOf s' l.t l.c).flow = { slot := some (BitVec.ofNat 32 (l.s (o.f 27 5))), inSlot := true, rpt := 0 } ∧
       OthersKept l s s' ∧ KeepsBut [.regs, .tiles] s s') ∧
     (Issues .rpt t b next l f o s → f.rpt = 0 → f.inSlot = false → ∃ s', exec (.rpt t b next) s = .next s' ∧
       (let n := if o.f 26 1 = 1 then o.f 0 12 + 1 else l.s (o.f 27 5)
        (ctxOf s' l.t l.c).flow = { slot := none, inSlot := false, rpt := n } ∧
        (ctxOf s' l.t l.c).regs = { l.r with pc := l.r.pc + (if n = 0 then 32 else 16) }) ∧
       OthersKept l s s' ∧ KeepsBut [.regs, .tiles] s s')) ∧
  (∀ (t : Fin 256) (b : BitVec 128) (l : Lane) (f : Flow) (o : SlotOp) (s : State),
     (Issues .sywait t b 0 l f o s → l.s (o.f 27 5) ≤ (obj s (objNamed l o).1).count.toNat ∧
       ∃ s', exec (.sywait t b) s = .next s' ∧ WentOn l f o l.r s' ∧ OthersKept l s s' ∧ TileKept l s s' ∧ BundleCounted l s s' ∧
         KeepsBut [.regs, .tiles] s s') ∧
     (Issues .syadd t b 0 l f o s → ∃ s', exec (.syadd t b) s = .next s' ∧
       WentOn l f o l.r s' ∧
       ((obj s (objNamed l o).1).kind ≠ 0 →
         (obj s' (objNamed l o).1).count =
           BitVec.ofNat 64 (min (2 ^ 64 - 1) ((obj s (objNamed l o).1).count.toNat + l.s (o.f 27 5))) ∧
         KeepsBut wakeParts s s') ∧
       ((obj s (objNamed l o).1).kind = 0 →
         (∃ j k, jobOf s l.job = some j ∧ jobOf s' l.job = some k ∧
           ((k.adds.find? fun a => a.1 = (objNamed l o).1).map (·.2)) =
             some (((j.adds.find? fun a => a.1 = (objNamed l o).1).elim 0 (·.2)) + l.s (o.f 27 5))) ∧
         OthersKept l s s' ∧ KeepsBut [.regs, .jobs, .tiles] s s') ∧
       (∀ n, n ≠ (objNamed l o).1 → obj s' n = obj s n)) ∧
     (Issues .hqpush t b 0 l f o s → ∃ s', exec (.hqpush t b) s = .next s' ∧
       (let qn := (queueNamed l o).1
        let q := queue s qn
        let a := l.a (o.f 28 4)
        WentOn l f o (l.r.wA (o.f 28 4) (slotRef q q.tail) false) s' ∧
        (q.decl.kind ≠ 2 → queue s' qn = takeSlot (if a = 0 then q else (fillingSlot q).elim q (pushSlot q))) ∧
        (q.decl.kind = 2 → queue s' qn = takeHalo (if a = 0 then q
          else queue (publishHalo s qn (q.tail - 1) (slotPoisoned s q (q.tail - 1)) (l.job :: List.replicate q.decl.refs 0)) qn)
          l.job (haloTagOf s l.job qn q.tail)) ∧
        (q.decl.kind ≠ 2 → KeepsBut [.regs, .jobs, .queues, .tiles] s s') ∧
        (a ≠ 0 → q.decl.kind = 2 → slotPoisoned s q (q.tail - 1) = true → ∀ j, jobOf s l.job = some j → holdsPlace j = true →
          j.abortOrder = none → (jobOf s' l.job).map (fun k => (k.poisonOut, k.abortOrder)) = some (true, some 0)) ∧
        (∀ n, n ≠ qn → queue s' n = queue s n)) ∧ KeepsBut ([.jobs, .queues] ++ wakeParts) s s') ∧
     (Issues .hqpop t b 0 l f o s → ∃ s', exec (.hqpop t b) s = .next s' ∧
       (let qn := (queueNamed l o).1
        let q := queue s qn
        WentOn l f o (l.r.wA (o.f 28 4) (slotRef q (if q.decl.kind = 2 then mget 0 q.hpos l.tmpl else q.head)) false) s' ∧
        queue s' qn = (if q.decl.kind = 2 then popHalo q l.job l.tmpl else popSlot q) ∧
        ∀ n, n ≠ qn → queue s' n = queue s n) ∧ KeepsBut [.regs, .jobs, .queues, .tiles] s s') ∧
     (Issues .hqrel t b 0 l f o s → ∃ s', exec (.hqrel t b) s = .next s' ∧
       (let qn := (queueNamed l o).1
        let q := queue s qn
        WentOn l f o l.r s' ∧
        queue s' qn = (if q.decl.kind = 2 then q else (drainingSlot q).elim q (releaseSlot q)) ∧
        ∀ n, n ≠ qn → queue s' n = queue s n) ∧ KeepsBut [.regs, .jobs, .queues, .tiles] s s'))

/-- What a task hands over: `emit` stages a block until retirement, or fails the attempt where the block is poisoned; the `mx`
operations queue a command on the array; `mxfence` passes when the task has none there; `isync` makes the task's writes to instruction
RAM visible and with `IC` empties the instruction cache; `done` ends the task (R183 to R185, R192, R213, R216, R373, R387). -/
def Obligations.EmitArrayAndEnd : Prop :=
  ∀ (t : Fin 256) (b : BitVec 128) (l : Lane) (f : Flow) (o : SlotOp) (s : State),
    (Issues .emit t b 0 l f o s → ∃ s', exec (.emit t b) s = .next s' ∧ WentOn l f o l.r s' ∧ TileKept l s s' ∧
      (let bs := laneRead s l.t (emitBytes s l o).1 (emitBytes s l o).2 []
       ∃ j k, jobOf s l.job = some j ∧ jobOf s' l.job = some k ∧
         (bs.any (·.2) = false →
           k.staged = j.staged ++ [emitStaged s j (decide (o.f 27 1 = 1)) (bs.map (·.1))] ∧ k.emits = j.emits + 1) ∧
         (bs.any (·.2) = true → k.staged = j.staged ∧ k.poisonOut = true ∧
           (holdsPlace j = true → j.abortOrder = none → k.abortOrder = some 0))) ∧
      OthersKept l s s' ∧ KeepsBut [.regs, .fm, .jobs, .tiles] s s') ∧
    (Issues .mxRun t b 0 l f o s → ∃ s', exec (.mxRun t b) s = .next s' ∧ WentOn l f o l.r s' ∧
      (tile s' l.t).mxq = (tile s l.t).mxq ++
        [queued s l (.run l.c (o.f 0 5 + 1) (l.a (o.f 24 4)) (l.a (o.f 20 4)) (l.s (o.f 15 5)) (l.s (o.f 10 5)) l.r.pc)] ∧
      OthersKept l s s' ∧ BundleCounted l s s' ∧ KeepsBut [.regs, .tiles] s s') ∧
    (Issues .mxCbload t b 0 l f o s → ∃ s', exec (.mxCbload t b) s = .next s' ∧ WentOn l f o l.r s' ∧
      (tile s' l.t).mxq = (tile s l.t).mxq ++
        [queued s l (.cbload l.c (o.f 0 1 = 1) (o.f 1 1 = 1) (l.a (o.f 24 4)) l.r.pc)] ∧
      OthersKept l s s' ∧ BundleCounted l s s' ∧ KeepsBut [.regs, .tiles] s s') ∧
    (Issues .mxSignal t b 0 l f o s → ∃ s', exec (.mxSignal t b) s = .next s' ∧ WentOn l f o l.r s' ∧
      (tile s' l.t).mxq = (tile s l.t).mxq ++
        [queued s l (.signal l.c (l.s (o.f 10 5)) (BitVec.ofNat 64 (l.s (o.f 15 5))) l.r.pc)] ∧
      OthersKept l s s' ∧ BundleCounted l s s' ∧ KeepsBut [.regs, .tiles] s s') ∧
    (Issues .mxfence t b 0 l f o s → (tile s l.t).mxq.any (fun e => e.job = l.job) = false ∧
      ∃ s', exec (.mxfence t b) s = .next s' ∧ WentOn l f o l.r s' ∧ OthersKept l s s' ∧ TileKept l s s' ∧ BundleCounted l s s' ∧
        KeepsBut [.regs, .tiles] s s') ∧
    (Issues .isync t b 0 l f o s → ∃ s', exec (.isync t b) s = .next s' ∧ WentOn l f o l.r s' ∧
      (tile s' l.t).icache = (if o.f 0 1 = 1 then [] else (tile s l.t).icache) ∧ (tile s' l.t).loopHeld = false ∧
      s'.iram = wrParts 0 s.iram ((tile s l.t).istq.map fun p => (iramKey l.t p.1, p.2)) ∧ (tile s' l.t).istq = [] ∧
      OthersKept l s s' ∧ BundleCounted l s s' ∧ KeepsBut [.regs, .iram, .tiles] s s') ∧
    (Issues .done t b 0 l f o s → ∃ s', exec (.done t b) s = .next s' ∧
      (jobOf s' l.job).map (·.ended) = some true ∧ (tile s' l.t).running = none ∧ (ctxOf s' l.t l.c).state = .waiting ∧
      (ctxOf s' l.t l.c).job = (ctxOf s l.t l.c).job ∧ OthersKept l s s' ∧ TileKept l s s' ∧
      KeepsBut [.regs, .jobs, .tiles] s s')

/-- The fault handler lets a private buffer of a task outside Solstice mode grow to its largest size or has an absent shared buffer
filled, and the bundle issues again; any other fault fails the attempt. A debug halt stops the running task before its next bundle, but for a delay slot and a
repeat; the debug port resumes a halted task or core within its scopes, and a step asks for the next halt (R194, R276, R462, R482). -/
def Obligations.TaskFaultsAndDebug : Prop :=
  ((∀ (t : Fin 256) (c : Fin 8) (j : Job) (h o n : Nat) (s : State), ctxJob s t.val c.val = some j →
     (ctxOf s t.val c.val).state = .faulted → (ctxOf s t.val c.val).faultAt = some (h, o, n) →
     let k := ctxOf s t.val c.val
     let e := entryOf c.val h
     let x := handleOf s t.val e
     let cause := bitsOf k.regs.tstat.toNat 8 8
     let grows := cause = 0x04 ∧ 128 ≤ h ∧ k.regs.tstat.getLsbD 0 = false ∧ 128 * x.len < o + n ∧ o + n ≤ 128 * x.maxlen
     let fills := cause = 0x06 ∧ h < 128 ∧ x.copy.isSome = true
     ∃ s', exec (.taskFaultHandler t c) s = .next s' ∧
       (grows → (ctxOf s' t.val c.val).state = .ready ∧ handleOf s' t.val e = { x with len := (o + n + 127) / 128 } ∧
         KeepsBut [.regs, .tiles] s s') ∧
       (fills → (ctxOf s' t.val c.val).state = .ready ∧ (handleOf s' t.val e).filling = true ∧
         KeepsBut [.regs, .tiles] s s') ∧
       (¬grows → ¬fills → (ctxOf s' t.val c.val).state = .waiting ∧ (ctxOf s' t.val c.val).regs = k.regs ∧
         (holdsPlace j = true → j.abortOrder = none → (jobOf s' j.id).map (·.abortOrder) = some (some cause)) ∧
         Reported s s' (placeReport s j cause) ∧ KeepsBut [.fm, .jobs, .tiles] s s')) ∧
   (∀ (t : Fin 256) (c : Fin 8) (j : Job) (s : State), ctxJob s t.val c.val = some j → (ctxOf s t.val c.val).state = .faulted →
     (ctxOf s t.val c.val).faultAt = none →
     let cause := bitsOf (ctxOf s t.val c.val).regs.tstat.toNat 8 8
     ∃ s', exec (.taskFaultHandler t c) s = .next s' ∧ (ctxOf s' t.val c.val).state = .waiting ∧
       (holdsPlace j = true → j.abortOrder = none → (jobOf s' j.id).map (·.abortOrder) = some (some cause)) ∧
       Reported s s' (placeReport s j cause) ∧ KeepsBut [.fm, .jobs, .tiles] s s') ∧
   (∀ (t : Fin 256) (c : Nat) (s : State), s.sec.scopes.getLsbD 1 = true → (tile s t.val).running = some c →
     ∃ s', exec (.debugHalt t) s = .next s' ∧ (ctxOf s' t.val c).regs = (ctxOf s t.val c).regs ∧
       ((ctxOf s t.val c).state = .running → (ctxOf s t.val c).flow.inSlot = false → (ctxOf s t.val c).flow.rpt = 0 →
         (ctxOf s' t.val c).state = .halted ∧ (tile s' t.val).haltReq = none) ∧
       (((ctxOf s t.val c).state ≠ .running ∨ (ctxOf s t.val c).flow.inSlot = true ∨ (ctxOf s t.val c).flow.rpt ≠ 0) →
         (ctxOf s' t.val c).state = (ctxOf s t.val c).state ∧ (tile s' t.val).haltReq = some c) ∧
       KeepsBut [.tiles] s s')) ∧
  (∀ (step : Bool) (s : State),
     (∀ (t : Fin 256) (c : Nat), (tile s t.val).running = some c → s.sec.scopes.getLsbD 1 = true → (ctxOf s t.val c).state = .halted →
       ∃ u, exec (.debugResume (some t) none step) s = .next u ∧ (ctxOf u t.val c).state = .running ∧
         (tile u t.val).running = some c ∧ (tile u t.val).haltReq = (if step then some c else none) ∧
         (∀ x, x ≠ t.val → tile u x = tile s x) ∧ KeepsBut [.tiles] s u) ∧
     (∀ n : Fin 8, s.sec.scopes.getLsbD 0 = true → (coreNo s n.val).run = .halted →
       ∃ u, exec (.debugResume none (some n) step) s = .next u ∧ coreNo u n.val = { coreNo s n.val with run := .running, step := step } ∧
         CoresKept n s u ∧ KeepsBut [.cores] s u) ∧
     (∀ (t : Fin 256) (n : Fin 8), ∃ u v, exec (.debugResume (some t) none step) s = .next u ∧
       exec (.debugResume none (some n) step) u = .next v ∧ exec (.debugResume (some t) (some n) step) s = .next v) ∧
     (∀ t c, s.sec.scopes = 0 → exec (.debugResume t c step) s = .next s))

/-! ### The multiply array (R195 to R236) -/

/-- The multiply array: the next block of the first run enters a free bank, with the operands of the run as they are checked before its
first block; the oldest block in progress writes exactly its rows of outputs, each byte converted from its sums. Where its residues
disagree at a row, no row of the block from there on is written (of an injected error, a free value picks the row: log 25); a fault that
no check finds goes out in its own output alone. An error of the operands, a
side table, a scale block, a residue or a codebook fails the attempt; a codebook load completes behind the blocks queued ahead of it, a
signal at the head of the queue (R202, R207 to R219, R221 to R224, R230, R232). -/
def Obligations.MultiplyArray : Prop :=
  (∀ (t : Fin 256) (e : MxEntry) (ix : Nat) (j : Job) (m : Template) (s : State), nextRun (tile s t.val).mxq = some (e, ix) →
    ((tile s t.val).mxq.map fun x => x.started - x.doneBlocks).sum < 2 → jobOf s e.job = some j → tmplOf s j = some m →
    measurePending s t.val j ix (entryOp s t.val j.plan e) = false →
    (∀ r, checkEntry s t.val j m e = .ok r → tableCheck r = none → scaleCheck s r = none →
      ∃ s', exec (.mxBlockStart t) s = .next s' ∧ (tile s' t.val).mxBank = nextBank (tile s t.val) ∧
        (tile s' t.val).mxq = (tile s t.val).mxq.set ix
          { e with started := e.started + 1, run := some r, banks := e.banks ++ [nextBank (tile s t.val)] } ∧
        KeepsBut [.regs, .fm, .jobs, .tiles] s s') ∧
    (∀ c, checkEntry s t.val j m e = .error c ∨ (∃ r, checkEntry s t.val j m e = .ok r ∧
        (tableCheck r = some c ∨ tableCheck r = none ∧ scaleCheck s r = some c)) →
      ∃ s', exec (.mxBlockStart t) s = .next s' ∧ ArrayFails t.val ix e c s s')) ∧
  (∀ (t : Fin 256) (e : MxEntry) (ix : Nat) (j : Job) (r : RunAt) (s : State),
    ((tile s t.val).mxq.zipIdx.find? fun x => x.1.doneBlocks < x.1.started) = some (e, ix) → jobOf s e.job = some j →
    e.run = some r →
    (∀ fault c, scaleCheck s r = some c → ∃ s', exec (.mxBlockComplete t fault) s = .next s' ∧ ArrayFails t.val ix e c s s') ∧
    (∀ fault : Option MxFault, scaleCheck s r = none → (tile s t.val).inject = false →
      (∀ f, fault = some f → faultFound s r e.doneBlocks f = false) → ∃ s', exec (.mxBlockComplete t fault) s = .next s' ∧
      (tile s' t.val).mxq = (if e.doneBlocks + 1 = runBlocks e.cmd then (tile s t.val).mxq.eraseIdx ix
        else (tile s t.val).mxq.set ix { e with doneBlocks := e.doneBlocks + 1, banks := e.banks.drop 1 }) ∧
      (∀ q x y, q ∈ outRows r → x < 128 →
        outByte r (fun i k => outCode r (if ∃ f, fault = some f ∧ f.chan = i ∧ f.pos = k then (outWith s r e.doneBlocks fault i k).2
            else (outOf s r e.doneBlocks i k).2))
          (fun i k => posPoison s r e.doneBlocks k || chPoison s r i) q x = some y →
        (∀ q', q' ∈ outRows r → q < q' → Apart (outRow r e.doneBlocks q') 128 (outRow r e.doneBlocks q) 128) →
        mget 0 s'.mem (outRow r e.doneBlocks q + x) = y.1) ∧
      (∀ a, (∀ q, q ∈ outRows r → Apart (outRow r e.doneBlocks q) 128 a 1) → mget 0 s'.mem a = mget 0 s.mem a) ∧
      KeepsBut [.regs, .mem, .spPoison, .fm, .jobs, .tiles] s s') ∧
    (∀ fault : Option MxFault, scaleCheck s r = none →
      (tile s t.val).inject = true ∨ (∃ f, fault = some f ∧ faultFound s r e.doneBlocks f = true) →
      ∃ s', exec (.mxBlockComplete t fault) s = .next s' ∧ (tile s' t.val).inject = false ∧
        (holdsPlace j = true → j.abortOrder = none → (jobOf s' e.job).map (·.abortOrder) = some (some 0x15)) ∧
        (∃ w ws, s'.fm.intake = s.fm.intake ++ w :: ws ∧ w.rep = mxReport s t.val e 0x15) ∧
        (∀ x, x ∈ (tile s' t.val).mxq.drop ix → x.job ≠ e.job) ∧
        ((tile s t.val).inject = true → ∀ a, (∀ q, q ∈ (outRows r).take (Config.freeNat s.free % (outRows r).length) →
          Apart (outRow r e.doneBlocks q) 128 a 1) → mget 0 s'.mem a = mget 0 s.mem a) ∧
        (∀ f, fault = some f → faultFound s r e.doneBlocks f = true →
          ∀ a, (∀ q, q ∈ (outRows r).take (f.chan / oCR r.d.oFmt) →
            Apart (outRow r e.doneBlocks q) 128 a 1) → mget 0 s'.mem a = mget 0 s.mem a) ∧
        KeepsBut [.regs, .free, .mem, .spPoison, .fm, .sources, .jobs, .tiles] s s')) ∧
  (∀ (t : Fin 256) (e : MxEntry) (ix c addr : Nat) (big bf : Bool) (pc : BitVec 32) (j : Job) (s : State),
    ((tile s t.val).mxq.zipIdx.find? fun x => match x.1.cmd with | .cbload .. => true | _ => false) = some (e, ix) →
    ((tile s t.val).mxq.take ix).any (fun x => x.started < runBlocks x.cmd) = false → e.cmd = .cbload c big bf addr pc →
    jobOf s e.job = some j →
    let n := if big then 256 else 16
    (∀ a, addr % 128 = 0 → mxExtent s t.val c j.plan addr 0 (2 * n : Nat) false = some (a, 2) →
      let got := (upto n).map fun i => spNat s (a + 2 * i) 2
      (∀ cb, convertBook bf (got.any (·.2)) (got.map (·.1)) = some cb →
        ∃ s', exec (.mxCbloadComplete t) s = .next s' ∧ mget CodeBook.none (tile s' t.val).cbs c = cb ∧
          (tile s' t.val).mxq = (tile s t.val).mxq.eraseIdx ix ∧ KeepsBut [.regs, .fm, .jobs, .tiles] s s') ∧
      (convertBook bf (got.any (·.2)) (got.map (·.1)) = none →
        ∃ s', exec (.mxCbloadComplete t) s = .next s' ∧ ArrayFails t.val ix e 0x13 s s')) ∧
    (addr % 128 ≠ 0 ∨ (∀ a, mxExtent s t.val c j.plan addr 0 (2 * n : Nat) false ≠ some (a, 2)) →
      ∃ s', exec (.mxCbloadComplete t) s = .next s' ∧ ArrayFails t.val ix e 0x12 s s')) ∧
  (∀ (t : Fin 256) (e : MxEntry) (rest : List MxEntry) (c o : Nat) (v : Word) (pc : BitVec 32) (s : State),
    (tile s t.val).mxq = e :: rest → e.cmd = .signal c o v pc →
    ∃ s', exec (.mxSignalAdd t) s = .next s' ∧ (tile s' t.val).mxq = rest ∧
      ((obj s o).kind ≠ 0 → (obj s' o).count = BitVec.ofNat 64 (min (2 ^ 64 - 1) ((obj s o).count.toNat + v.toNat)) ∧
        KeepsBut wakeParts s s') ∧
      ((obj s o).kind = 0 → KeepsBut [.regs, .jobs, .tiles] s s')) ∧
  (∀ (t : Fin 256) (s : State), answers s 0xF01308 = true → t.val < s.grid.enabled →
    ∃ s', exec (.residueInject t) s = .next s' ∧ (tile s' t.val).inject = true ∧ KeepsBut [.tiles] s s')

/-! ### The tile stream unit (R290 to R316) -/

/-- Commands to a stream context: arming a free one gives it to the host and starts it, arming one the host holds fills its
shadow, or is refused, counted and noted where the shadow is taken; a context of a job or a plan is refused and counted; a cancel ends
the arming, the shadow and the batch, lets outstanding reads drain, and frees a context that has none; a resume sets a halted context
running from its saved position; pacing follows the marks (R290, R292, R304, R309 to R311, R313). -/
def Obligations.StreamContextCommands : Prop :=
  (∀ (e : Fin 32) (c : Fin 64) (addr : Addr) (s : State), answers s 0xE02000 = true →
    ((sctx s e.val c.val).holder = .none → ∃ t, exec (.seCtxArm e c addr) s = .next t ∧
      sctx t e.val c.val = { (sctx s e.val c.val).released with
        holder := .host, state := .running, armed := some (addr.toNat / 128 * 128), armFclk := s.clk.fclk } ∧
      KeepsBut [.sctx] s t) ∧
    ((sctx s e.val c.val).holder = .host → (sctx s e.val c.val).shadow = none → ∃ t, exec (.seCtxArm e c addr) s = .next t ∧
      sctx t e.val c.val = { sctx s e.val c.val with shadow := some (addr.toNat / 128 * 128), shadowFclk := s.clk.fclk } ∧
      KeepsBut [.sctx] s t) ∧
    (∀ a, (sctx s e.val c.val).holder = .host → (sctx s e.val c.val).shadow = some a → ∃ t, exec (.seCtxArm e c addr) s = .next t ∧
      t.sctx = s.sctx ∧ getF t Reg.SE_CTX_STAT_REARM_REJ e.val c.val = 1 ∧ Counted Reg.SE_CNT_REARM_REJ e.val 0 1 s t) ∧
    (((∃ j, (sctx s e.val c.val).holder = .job j) ∨ ∃ p, (sctx s e.val c.val).holder = .plan p) →
      ∃ t, exec (.seCtxArm e c addr) s = .next t ∧ Counted Reg.SE_CNT_HOST_REFUSED e.val 0 1 s t ∧
        RegsKeptBut [fldKey Reg.SE_CNT_HOST_REFUSED e.val 0] s t ∧ KeepsBut [.regs] s t)) ∧
  (∀ (e : Fin 32) (c : Fin 64) (s : State), answers s 0xE02030 = true →
    (((∃ j, (sctx s e.val c.val).holder = .job j) ∨ ∃ p, (sctx s e.val c.val).holder = .plan p) →
      ∃ t, exec (.seCancel e c) s = .next t ∧ Counted Reg.SE_CNT_HOST_REFUSED e.val 0 1 s t ∧
        RegsKeptBut [fldKey Reg.SE_CNT_HOST_REFUSED e.val 0] s t ∧ KeepsBut [.regs] s t) ∧
    ((sctx s e.val c.val).holder = .host ∨ (sctx s e.val c.val).holder = .none → (sctx s e.val c.val).state ≠ .free →
      (sctx s e.val c.val).state ≠ .draining →
      ∃ t, exec (.seCancel e c) s = .next t ∧ (sctx t e.val c.val).armed = none ∧ (sctx t e.val c.val).shadow = none ∧
        ((∀ r, (sctx s e.val c.val).run.head? = some r → r.landed ≠ walkBytes r.f.d) →
          (dropReads (sctx s e.val c.val).reads ≠ [] →
            sctx t e.val c.val = { sctx s e.val c.val with
              shadow := none, armed := none, batch := [], silent := false, state := .draining,
              reads := dropReads (sctx s e.val c.val).reads } ∧ KeepsBut [.sctx] s t) ∧
          (dropReads (sctx s e.val c.val).reads = [] →
            sctx t e.val c.val = { (sctx s e.val c.val).released with
              reads := [], last := if (sctx s e.val c.val).run.isEmpty then (sctx s e.val c.val).last else 1 })))) ∧
  (∀ (e : Fin 32) (c : Fin 64) (s : State), answers s 0xE02030 = true → (sctx s e.val c.val).state = .halted →
    ∃ t, exec (.seResume e c) s = .next t ∧ sctx t e.val c.val = { sctx s e.val c.val with state := .running } ∧
      KeepsBut [.sctx] s t) ∧
  (∀ (e : Fin 32) (c : Fin 64) (r : SRun) (q : Nat) (s : State), issuing (sctx s e.val c.val) = some r →
    sideQueue r.f.d true = some q → r.f.d.hiWm ≠ 0 →
    ∃ t, exec (.pacingUpdate e c) s = .next t ∧
      (r.f.d.hiWm ≤ fullSlots (queue s q) → (sctx t e.val c.val).paced = true) ∧
      (fullSlots (queue s q) < r.f.d.hiWm → fullSlots (queue s q) ≤ r.f.d.loWm → (sctx t e.val c.val).paced = false) ∧
      (fullSlots (queue s q) < r.f.d.hiWm → r.f.d.loWm < fullSlots (queue s q) →
        (sctx t e.val c.val).paced = (sctx s e.val c.val).paced) ∧ KeepsBut [.sctx] s t)

/-- Descriptors: an armed batch is read and cut at its `LAST`, and ends with a status where it lies nowhere or has none; the next
descriptor starts behind its barrier, its wait and its queue ends, for which it waits, or ends with a status when it is wrong or its
bytes are poisoned; once what waits in the engine's funnels for its destination has landed, one that has landed whole ends `OK` (R289,
R292 to R296, R300, R302). -/
def Obligations.StreamDescriptors : Prop :=
  (∀ (e : Fin 32) (c : Fin 64) (a : Nat) (s : State), (sctx s e.val c.val).armed = some a → seEn s e.val = true →
    (sctx s e.val c.val).batch = [] → (sctx s e.val c.val).run = [] → (sctx s e.val c.val).state ≠ .draining →
    (region s a ≠ .dram → (∀ u o, region s a ≠ .sp u o) → ∃ t, exec (.seBatchFetch e c) s = .next t ∧
      (sctx t e.val c.val).armed = none ∧ (sctx t e.val c.val).last = 3 ∧ Counted Reg.SE_CNT_DESC e.val 0 1 s t) ∧
    (region s a = .dram ∨ (∃ u o, region s a = .sp u o) →
    let m := batchLen s a
    let got := (devRead (updSctx s e.val c.val fun q => { q with armed := none }) a (128 * m) .clean (holderJob (sctx s e.val c.val))).1
    let fs := (upto m).map fun i =>
      { addr := a + 128 * i, d := sdescOf (((got.drop (128 * i)).take 128).map (·.1)),
        poison := ((got.drop (128 * i)).take 128).any (·.2) : SFetched }
    ((cutBatch fs).any (fun f => f.d.last || f.poison) = true →
      ∃ t, exec (.seBatchFetch e c) s = .next t ∧
        sctx t e.val c.val = { sctx s e.val c.val with armed := none, batch := cutBatch fs } ∧
        KeepsBut [.regs, .free, .fm, .sources, .jobs, .chans, .sctx] s t) ∧
    ((cutBatch fs).any (fun f => f.d.last || f.poison) = false →
      ∃ t, exec (.seBatchFetch e c) s = .next t ∧ (sctx t e.val c.val).armed = none ∧ (sctx t e.val c.val).last = 2 ∧
        (sctx t e.val c.val).batch = []))) ∧
  (∀ (e : Fin 32) (c : Fin 64) (f : SFetched) (rest : List SFetched) (s : State), (sctx s e.val c.val).batch = f :: rest →
    (sctx s e.val c.val).state = .running ∨ (sctx s e.val c.val).state = .waiting → allIssued (sctx s e.val c.val) = true →
    (f.poison = true → (sctx s e.val c.val).run = [] → ∃ t, exec (.seDescStart e c) s = .next t ∧
      (sctx t e.val c.val).last = 6 ∧ (sctx t e.val c.val).run = [] ∧ (sctx t e.val c.val).batch = []) ∧
    (f.poison = false → badDesc s (sctx s e.val c.val) f.d = false → badAddress s f.d = false → (f.d.bar = true → (sctx s e.val c.val).run = []) →
      (f.d.waitEn = true → syncMet s f.d.waitSo (BitVec.ofNat 64 f.d.waitVal) = true) →
      endFree s (sctx s e.val c.val) e.val c.val f.d false = true → endFree s (sctx s e.val c.val) e.val c.val f.d true = true →
      ∃ t, exec (.seDescStart e c) s = .next t ∧
        sctx t e.val c.val = { sctx s e.val c.val with
          state := .running, batch := rest, paced := false,
          run := (sctx s e.val c.val).run ++ [{ runOf f with armFclk := (sctx s e.val c.val).armFclk }] } ∧
        KeepsBut [.regs, .queues, .tiles, .sctx] s t) ∧
    (f.poison = false → (f.d.bar = true ∧ (sctx s e.val c.val).run ≠ []) ∨
        (badDesc s (sctx s e.val c.val) f.d = false ∧
          ((f.d.waitEn = true ∧ syncMet s f.d.waitSo (BitVec.ofNat 64 f.d.waitVal) = false) ∨
           (badAddress s f.d = false ∧ (endFree s (sctx s e.val c.val) e.val c.val f.d false = false ∨
             endFree s (sctx s e.val c.val) e.val c.val f.d true = false)))) →
      ∃ t, exec (.seDescStart e c) s = .next t ∧
      sctx t e.val c.val = { sctx s e.val c.val with state := .waiting } ∧
        getF t Reg.SY_WAITERS_HWM 0 0 = max (getF s Reg.SY_WAITERS_HWM 0 0) (waitedObjs t).length ∧
        RegsKeptBut [fldKey Reg.SY_WAITERS_HWM 0 0] s t ∧ KeepsBut [.regs, .sctx] s t) ∧
    (f.poison = false → badDesc s (sctx s e.val c.val) f.d = true → (sctx s e.val c.val).run = [] → ∃ t, exec (.seDescStart e c) s = .next t ∧
      (sctx t e.val c.val).last = 2 ∧ (sctx t e.val c.val).run = [] ∧ (sctx t e.val c.val).batch = []) ∧
    (f.poison = false → badDesc s (sctx s e.val c.val) f.d = false → badAddress s f.d = true →
      (f.d.waitEn = true → syncMet s f.d.waitSo (BitVec.ofNat 64 f.d.waitVal) = true) → (sctx s e.val c.val).run = [] →
      ∃ t, exec (.seDescStart e c) s = .next t ∧
      (sctx t e.val c.val).last = 3 ∧ (sctx t e.val c.val).run = [] ∧ (sctx t e.val c.val).batch = [])) ∧
  (∀ (e : Fin 32) (c : Fin 64) (r : SRun) (rest : List SRun) (s : State),
    let u := landPass s e.val c.val
    (sctx u e.val c.val).run = r :: rest → (sctx u e.val c.val).state ≠ .draining →
    (r.stopped = none → r.landed = walkBytes r.f.d → ∃ t, exec (.seDescComplete e c) s = .next t ∧
      (sctx t e.val c.val).last = 0 ∧ ∀ x, x ∈ (sctx t e.val c.val).run → x.f.addr ≠ r.f.addr) ∧
    (r.stopped = none → r.landed ≠ walkBytes r.f.d → exec (.seDescComplete e c) s = .next u) ∧
    (∀ st, r.stopped = some st → (sctx u e.val c.val).reads = [] → ∃ t, exec (.seDescComplete e c) s = .next t ∧
      (sctx t e.val c.val).last = st ∧ ∀ x, x ∈ (sctx t e.val c.val).run → x.f.addr ≠ r.f.addr) ∧
    (r.stopped ≠ none → (sctx u e.val c.val).reads ≠ [] → ∃ t, exec (.seDescComplete e c) s = .next t ∧
      sctx t e.val c.val = { sctx u e.val c.val with reads := dropReads (sctx u e.val c.val).reads } ∧ KeepsBut [.sctx] u t))

/-- Reads: once what waits in the engine's funnels has landed, the context that an engine serves issues its next request, with the slot it
needs taken first from a queue it reads or fills; reads return in any order, and one that returns ahead of an older one waits in the funnel;
the oldest leaves the outstanding ones, and its bytes land at their place in the walk with their poison, or are discarded and counted; a run
that has stopped takes no more of what is outstanding; the last read of a draining context frees it, and a read that fails at the host halts
a context that asks for it (R285, R295, R303, R306, R310 to R313). -/
def Obligations.StreamReads : Prop :=
  (∀ (e : Fin 32) (c : Nat) (r : SRun) (s : State),
    let u := landEngine s e.val
    pickCtx u e.val = some c → issuing (sctx u e.val c) = some r →
    (sctx u e.val c).run.find? (fun x => x.f.addr = r.f.addr) = some r →
    ∃ t rd, exec (.seReadIssue e) s = .next t ∧ (sctx t e.val c).reads = (sctx u e.val c).reads ++ [rd] ∧
      rd.desc = r.f.addr ∧ rd.at_ = r.issued ∧ rd.discard = false ∧ rd.back = none ∧
      rd.job = holderJob (sctx u e.val c) ∧ rd.attempt = (sctx u e.val c).attempt ∧
      ((sctx t e.val c).run.find? (fun x => x.f.addr = r.f.addr)).map (·.issued) = some (r.issued + rd.len) ∧
      (sideQueue r.f.d false = none → sideQueue r.f.d true = none → (rd.addr, rd.len) = nextRead u r ∧
        (rd.tag.isSome ↔ isHostAddr u rd.addr = true) ∧ KeepsBut [.regs, .hl, .sctx, .bwTokens] u t) ∧
      (∀ q, sideQueue r.f.d false = some q → sideQueue r.f.d true = none → queue t q =
        if r.issued < r.srcSlots * slotBytes (queue u q) then queue u q else popFor u (sctx u e.val c) (queue u q)) ∧
      (∀ q, sideQueue r.f.d false = none → sideQueue r.f.d true = some q → queue t q =
        if replayed r.f.d || r.issued < r.dstSlots * slotBytes (queue u q) then queue u q else takeFor u (sctx u e.val c) q) ∧
      KeepsBut [.regs, .hl, .queues, .jobs, .tiles, .sctx, .bwTokens] u t) ∧
  (∀ (e : Fin 32) (s : State), pickCtx (landEngine s e.val) e.val = none → exec (.seReadIssue e) s = .next (landEngine s e.val)) ∧
  (∀ (e : Fin 32) (c : Fin 64) (s : State), (∀ rd, (sctx s e.val c.val).reads.head? = some rd → rd.back = none) →
    (∀ x ∈ (sctx s e.val c.val).run, replaying x = false) → landPass s e.val c.val = s) ∧
  (∀ (e : Fin 32) (c : Fin 64) (n : Nat) (result : ReadResult) (tries : ReadTry) (rd : SRead) (s : State),
    (sctx s e.val c.val).reads[n]? = some rd → rd.back = none →
    (rd.discard = true → (sctx s e.val c.val).state ≠ .draining ∨ (sctx s e.val c.val).reads.eraseIdx n ≠ [] →
      ∃ t, exec (.seReadReturn e c result tries n) s = .next t ∧
        sctx t e.val c.val = { sctx s e.val c.val with reads := (sctx s e.val c.val).reads.eraseIdx n } ∧
        Counted Reg.SE_CNT_DISCARD e.val 0 1 s t ∧ KeepsBut [.regs, .hl, .sctx] s t) ∧
    (rd.discard = true → (sctx s e.val c.val).state = .draining → (sctx s e.val c.val).reads.eraseIdx n = [] →
      ∃ t, exec (.seReadReturn e c result tries n) s = .next t ∧
      (sctx t e.val c.val).run = [] ∧ (sctx t e.val c.val).batch = [] ∧
      (sctx t e.val c.val).last = (if (sctx s e.val c.val).run.isEmpty then (sctx s e.val c.val).last else 1)) ∧
    (rd.discard = false → (∃ older rest, (sctx s e.val c.val).reads = older :: rest ∧ older.back = none ∧ 0 < n) →
      (∀ x ∈ (sctx s e.val c.val).run, replaying x = false) →
      ∃ t b, exec (.seReadReturn e c result tries n) s = .next t ∧
        (sctx t e.val c.val).reads = (sctx s e.val c.val).reads.set n { rd with tag := none, back := some b } ∧
        (b.2 = true ↔ result = .hostError ∧ rd.tag.isSome = true) ∧
        (sctx t e.val c.val).run = (sctx s e.val c.val).run ∧ t.mem = s.mem ∧ t.queues = s.queues)) ∧
  (∀ (e : Fin 32) (c : Fin 64) (result : ReadResult) (tries : ReadTry) (rd : SRead) (rest : List SRead) (r : SRun) (s : State),
    (sctx s e.val c.val).reads = rd :: rest → rd.back = none → rd.discard = false → (∀ x ∈ rest, x.back = none) →
    (sctx s e.val c.val).run.find? (fun x => x.f.addr = rd.desc) = some r →
    replayed r.f.d = true ∨ writeWaits s e.val (sideAddr s r.f.d true r.dstSlot rd.at_) rd.len = false →
    (¬(result = .hostError ∧ rd.tag.isSome = true ∧ r.f.d.m5c = true) →
      (∀ x ∈ (sctx s e.val c.val).run, x.f.addr ≠ r.f.addr → replaying x = false) →
      ∃ t, exec (.seReadReturn e c result tries 0) s = .next t ∧ (sctx t e.val c.val).reads =
        if ((sctx t e.val c.val).run.find? (fun x => x.f.addr = rd.desc)).any (fun x => x.stopped.isSome) then dropReads rest else rest) ∧
    (result = .hostError → rd.tag.isSome = true → r.f.d.m5c = true →
      ∃ t, exec (.seReadReturn e c result tries 0) s = .next t ∧ (sctx t e.val c.val).state = .halted ∧
        (sctx t e.val c.val).last = 4 ∧ (sctx t e.val c.val).pos = posWord r.f.d rd.at_ ∧ (sctx t e.val c.val).haltNs = nowNs s ∧
        (sctx t e.val c.val).reads = dropReads rest) ∧
    (∀ a, r.f.d.frc = 0 → (∀ x ∈ (sctx s e.val c.val).run, replayed x.f.d = false) → r.stopped = none → r.held = [] →
      (∀ q, sideQueue r.f.d true = some q → (queue s q).decl.kind ≠ 2) → result ≠ .hostError → rd.tag = none → rd.dev = rd.len →
      beatRest s r rd.at_ rd.len = 0 →
      dstPieces s r rd.at_ rd.len = [(rd.at_, a, rd.len)] → (∃ u o, region s a = .sp u o) → (∃ v o, region s rd.addr = .sp v o) →
      ∃ t, exec (.seReadReturn e c result tries 0) s = .next t ∧ (sctx t e.val c.val).reads = rest ∧
        rdBytes 0 t.mem a rd.len = rdBytes 0 s.mem rd.addr rd.len ∧
        (∀ b, Apart a rd.len b 1 → mget 0 t.mem b = mget 0 s.mem b) ∧
        ((sctx t e.val c.val).run.find? (fun x => x.f.addr = rd.desc)).map (·.landed) = some (rd.at_ + rd.len)))

/-! ### Stacked memory (R317 to R337) -/

/-- Blocks of DRAM: a read gives the stored bytes, with poison for a block that is withheld, fails its check twice, or is
marked; a failure is reported; a whole write stores the block afresh, a partial one merges, and nothing else in memory changes
(R324 to R327, R333 to R335). -/
def Obligations.DramBlocks : Prop :=
  (∀ (addr : Addr) (tries : ReadTry) (s : State), addr.toNat < dramTop →
    let b := addr.toNat / 64
    let ch := (dramMap s (64 * b)).1
    (isWithheld s (64 * b) = true → ∃ t, exec (.dramRead addr tries) s = .next t ∧ t.readError = true ∧
      Counted Reg.MEM_CNT_WITHHELD ch 0 1 s t ∧ KeepsBut [.regs, .readData, .readError, .free] s t) ∧
    (isWithheld s (64 * b) = false → blockBad s b = false → tries ≠ .fails → ∃ t, exec (.dramRead addr tries) s = .next t ∧
      t.readData = rdBytes 0 s.mem (64 * b) 64 ∧ t.readError = (blockMeta s b).poison ∧
      Counted Reg.MEM_CNT_RD ch 0 1 s t ∧ KeepsBut [.regs, .readData, .readError] s t) ∧
    (isWithheld s (64 * b) = false → blockBad s b = true ∨ tries = .fails → ∃ t, exec (.dramRead addr tries) s = .next t ∧
      t.readError = true ∧ ((blockMeta s b).gen = s.dram.gen → t.readData = rdBytes 0 s.mem (64 * b) 64) ∧
      (∃ r : Report, r.cause = 0x40 ∧ r.unit = ch ∧ Reported s t r) ∧ Counted Reg.MEM_CNT_CRC ch 0 1 s t ∧
      KeepsBut [.regs, .free, .fm, .sources, .chans, .readData, .readError] s t)) ∧
  (∀ (addr : Addr) (bytes : List Byte) (poisoned : Bool) (tries : ReadTry) (s : State), addr.toNat + bytes.length ≤ dramTop →
    0 < bytes.length → addr.toNat % 64 + bytes.length ≤ 64 →
    let b := addr.toNat / 64
    let ch := (dramMap s (64 * b)).1
    (isWithheld s (64 * b) = true → ∃ t, exec (.dramWrite addr bytes poisoned tries) s = .next t ∧
      Counted Reg.MEM_CNT_WITHHELD ch 0 1 s t ∧ KeepsBut [.regs] s t) ∧
    (isWithheld s (64 * b) = false → bytes.length = 64 ∨ (blockBad s b = false ∧ tries ≠ .fails) →
      ∃ t, exec (.dramWrite addr bytes poisoned tries) s = .next t ∧ rdBytes 0 t.mem addr.toNat bytes.length = bytes ∧
        (∀ a, Apart addr.toNat bytes.length a 1 → mget 0 t.mem a = mget 0 s.mem a) ∧
        blockMeta t b = { poison := poisoned || (bytes.length ≠ 64 && (blockMeta s b).poison),
                          syndrome := (if (channel s ch).inject then 1 else 0), gen := s.dram.gen } ∧
        (∀ k, k ≠ b → blockMeta t k = blockMeta s k) ∧ (channel t ch).inject = false ∧ Counted Reg.MEM_CNT_WR ch 0 1 s t ∧
        KeepsBut [.regs, .mem, .blocks, .chans] s t) ∧
    (isWithheld s (64 * b) = false → bytes.length ≠ 64 → blockBad s b = true ∨ tries = .fails →
      ∃ t, exec (.dramWrite addr bytes poisoned tries) s = .next t ∧ (blockMeta t b).poison = true ∧
        rdBytes 0 t.mem addr.toNat bytes.length = bytes ∧ Counted Reg.MEM_CNT_CRC ch 0 1 s t))

/-- The memory's own work: the scrubber marks a block that fails, unless a write has come since, moves on, begins again behind the
channel's last block, and counts a pass when every channel has ended it; a refresh is counted; a map is fixed only while nothing uses DRAM, withholds the frames of bad rows and resets the rings; an injection
spoils the next write's code (R322, R328, R329, R333, R336, R488). -/
def Obligations.MemoryMaintenance : Prop :=
  (∀ (c : Fin 256) (tries : ReadTry) (written : Bool) (s : State), s.dram.committed = true →
    bit s Reg.HV_SCRUB_CTL_EN 0 0 = true →
    let at0 := mget 0 s.hv.scrubAt c.val
    let b := blockAt s c.val at0
    ∃ t, exec (.scrubRead c tries written) s = .next t ∧
      mget 0 t.hv.scrubAt c.val = (if at0 + 1 < chanBlocks then at0 + 1 else 0) ∧
      (at0 + 1 < chanBlocks → t.hv.scrubDone = s.hv.scrubDone ∧ t.hv.passes = s.hv.passes) ∧
      (chanBlocks ≤ at0 + 1 → s.hv.scrubDone.contains c.val = false → s.hv.scrubDone.length = 255 →
        t.hv.scrubDone = [] ∧ t.hv.passes = s.hv.passes + 1) ∧
      (∀ k, k ≠ c.val → mget 0 t.hv.scrubAt k = mget 0 s.hv.scrubAt k) ∧
      ((blockBad s b || decide (tries = .fails)) = true → isWithheld s (64 * b) = false → written = false →
        (blockMeta t b).poison = true ∧ Counted Reg.MEM_CNT_SCRUB_MARK c.val 0 1 s t) ∧
      ((blockBad s b || decide (tries = .fails)) = false ∨ isWithheld s (64 * b) = true ∨ written = true →
        t.blocks = s.blocks ∧ t.mem = s.mem)) ∧
  (∀ (c : Fin 256) (s : State), s.dram.committed = true → ∃ t, exec (.refresh c) s = .next t ∧
    Counted Reg.MEM_CNT_REFRESH c.val 0 1 s t ∧ RegsKeptBut [fldKey Reg.MEM_CNT_REFRESH c.val 0] s t ∧ KeepsBut [.regs] s t) ∧
  (∀ s : State, answers s 0x1000008 = true →
    let rb := fld s Reg.MEM_MAP_RET_BASE / 65536 * 65536
    let rs := fld s Reg.MEM_MAP_RET_SIZE
    (memOn s = true → ∃ t, exec .mapCommit s = .next t ∧ Counted Reg.HL_CNT_CFG_LOCKED 0 0 1 s t ∧ KeepsBut [.regs] s t) ∧
    (memOn s = false → dramTop < rb + rs → ∃ t, exec .mapCommit s = .next t ∧ fld t Reg.MEM_MAP_STAT_RET_RANGE = 1 ∧
      KeepsBut [.regs] s t) ∧
    (memOn s = false → rb + rs ≤ dramTop → ∃ t, exec .mapCommit s = .next t ∧ t.dram.committed = true ∧ t.dram.rb = rb ∧
      t.dram.rs = rs ∧ t.dram.hash = bit s Reg.MEM_MAP_CTL_HASH 0 0 ∧ t.dram.gen = s.dram.gen + 1 ∧ t.rings = [] ∧
      t.dram.badRows = s.dram.badRows ∧ t.dram.withheld.length ≤ 256 ∧ KeepsBut [.regs, .rings, .hv, .pm, .dram] s t)) ∧
  (∀ (c : Fin 256) (s : State), answers s 0x1001008 = true → ∃ t, exec (.crcInject c) s = .next t ∧
    channel t c.val = { channel s c.val with inject := true } ∧ KeepsBut [.chans] s t)

/-! ### The host link (R338 to R352, R457) -/

/-- The BAR4 window: a read inside DRAM gives its bytes, one beyond it or in D3hot is unsupported, one before the device is ready
gives zeros, and so does a read of BAR2; a write goes into an open receive window, and any other is dropped and counted, one inside a closed
window also by peer messaging, unless it holds counts alone (R340, R345, R346, R352, R394, R457). -/
def Obligations.BarWindow : Prop :=
  (∀ (off len : Nat) (s : State), inBar4 s off len = true →
    (s.hl.d3 = true → ∃ t, exec (.bar4Read off len false) s = .next t ∧ t.readData = [] ∧ t.readError = true ∧
      KeepsBut [.readData, .readError] s t) ∧
    (s.hl.d3 = false → ready s = false → ∃ t, exec (.bar4Read off len false) s = .next t ∧ t.readData = zeros len ∧ t.readError = false ∧
      Counted Reg.HL_CNT_BAR4_RD 0 0 1 s t ∧ KeepsBut [.regs, .readData, .readError] s t) ∧
    (s.hl.d3 = false → ready s = true → dramTop < bar4Base s + off + len → ∃ t, exec (.bar4Read off len false) s = .next t ∧
      t.readData = [] ∧ t.readError = true ∧ KeepsBut [.regs, .readData, .readError] s t) ∧
    (s.hl.d3 = false → ready s = true → bar4Base s + off + len ≤ dramTop → 0 < len →
      (∀ p, p ∈ pieces (bar4Base s + off) len →
        isWithheld s (64 * p.1) = false ∧ blockBad s p.1 = false ∧ (blockMeta s p.1).poison = false) →
      ∃ t, exec (.bar4Read off len false) s = .next t ∧ t.readData = rdBytes 0 s.mem (bar4Base s + off) len ∧ t.readError = false ∧
        KeepsBut [.regs, .readData, .readError] s t) ∧
    (s.hl.d3 = false → ready s = true → bar4Base s + off + len ≤ dramTop →
      let got := devRead (cnt s Reg.HL_CNT_BAR4_RD) (bar4Base s + off) len .clean 0
      ∃ t, exec (.bar4Read off len false) s = .next t ∧ t.readData = got.1.map (·.1) ∧ t.readError = got.1.any (·.2) ∧
        KeepsBut [.regs, .readData, .readError, .free, .fm, .sources, .chans] s t)) ∧
  (∀ (off len : Nat) (s : State), hostThere s = true → off + len ≤ 2 ^ 24 →
    ∃ t, exec (.bar4Read off len true) s = .next t ∧ t.readData = (if s.hl.d3 then [] else zeros len) ∧ t.readError = s.hl.d3 ∧
      KeepsBut [.readData, .readError] s t) ∧
  (∀ (off : Nat) (bytes : List Byte) (bad : Bool) (req : BitVec 16) (s : State), ready s = true → s.hl.d3 = false →
    inBar4 s off bytes.length = true →
    (bar4Window s (bar4Base s + off) bytes.length = none → ∃ t, exec (.bar4Write off bytes bad req) s = .next t ∧
      Counted Reg.HL_CNT_BAR4_DROP 0 0 1 s t ∧ t.hl.aer = s.hl.aer ++ [.unsupportedRequest] ∧
      KeepsBut [.regs, .fm, .sources, .hl] s t) ∧
    (∀ w, bar4Window s (bar4Base s + off) bytes.length = some w → (winOf s w).state ≠ .closed →
      exec (.bar4Write off bytes bad req) s =
        .next (landWrite s w (bar4Base s + off - winBase s w) req.toNat bytes bad)) ∧
    (∀ w, bar4Window s (bar4Base s + off) bytes.length = some w → (winOf s w).state = .closed →
      ∃ t, exec (.bar4Write off bytes bad req) s = .next t ∧ Counted Reg.HL_CNT_BAR4_DROP 0 0 1 s t ∧ t.mem = s.mem ∧
        t = landShut (bar4Drop s) w (bar4Base s + off - winBase s w) req.toNat bytes bad ∧
        (64 < bar4Base s + off - winBase s w + bytes.length → Counted Reg.PM_CNT_DISCARD 0 0 1 s t)))

/-- Errors of the link: an unexpected completion, a poisoned request, an ECRC failure while that is checked and a completion timeout are
counted and logged; a request that times out counts as returned with an error and its tag rests for twice the timeout. The host programs
configuration space as it will, except while requests receive Request Retry Status; a change of Bus Master Enable is an event; held
posted requests go out in their order when the device may send again; training gives the link's rate and width (R338, R349, R350,
R352; which read of one command has timed out is an operand, log 25). -/
def Obligations.LinkAndItsErrors : Prop :=
  ((∀ s : State, s.pins.hold = .none → ∃ t, exec .unexpectedCompletion s = .next t ∧ Counted Reg.HL_CNT_UNEXP_CPL 0 0 1 s t ∧
     t.hl.aer = s.hl.aer ++ [.unexpectedCompletion] ∧
     (ready s = true → Reported s t (mkReport 0x4B .hostLink 0 0 0 0)) ∧ KeepsBut [.regs, .fm, .sources, .hl] s t) ∧
   (∀ (bar : Fin 8) (s : State), s.pins.hold = .none → s.hl.ecrcCheck = false → exec (.linkError .ecrc bar) s = .next s) ∧
   (∀ (kind : TlpFault) (bar : Fin 8) (s : State), s.pins.hold = .none → kind ≠ .ecrc ∨ s.hl.ecrcCheck = true →
     ∃ t, exec (.linkError kind bar) s = .next t ∧
     (kind ≠ .other → bar.val = 0 ∨ bar.val = 2 → Counted Reg.HL_CNT_POISON_IN 0 0 1 s t) ∧
     t.hl.aer = s.hl.aer ++ [match kind with | .poisoned => .poisonedTlp | .ecrc => .ecrc | .other => .other] ∧
     (ready s = true → Reported s t (mkReport 0x4B .hostLink 0 0 0 bar.val)) ∧ KeepsBut [.regs, .fm, .sources, .hl] s t) ∧
   (∀ (tag : Nat) (r : NpReq) (s : State), s.hl.np.find? (fun x => x.tag = tag && decide (x.dueNs ≤ nowNs s)) = some r →
     ∃ t, exec (.cplTimeout tag none) s = .next t ∧ (∀ x, x ∈ t.hl.np → x.tag ≠ tag) ∧
       (tag, nowNs s + 2 * r.limitNs) ∈ t.hl.quarantined ∧
       (r.owner = .queueManager → t.hl.aer = s.hl.aer ++ [.completionTimeout] ∧ Counted Reg.HL_CNT_CPL_TIMEOUT 0 0 1 s t)) ∧
   (∀ (tag : Nat) (r : HostReader) (s : State), hostOpen s = true → readerWants s r = true → (tagSpace s).1 ≤ tag →
     tag < (tagSpace s).1 + (tagSpace s).2 → s.hl.np.any (fun q => q.tag = tag) = false →
     s.hl.quarantined.any (fun q => q.1 = tag && tagRests s q) = false →
     ∃ t, exec (.cplTimeout tag (some r)) s = .next t ∧ Counted Reg.HL_CNT_CPL_TIMEOUT 0 0 1 s t ∧
       t.hl.aer = s.hl.aer ++ [.completionTimeout] ∧
       t.hl.quarantined = s.hl.quarantined ++ [(tag, nowNs s + 2000 * fld s Reg.HL_CPL_TO_US)] ∧
       ((∃ n, r = .core n) ∨ (∃ n, r = .planLoad n) → r ∈ t.hl.failed) ∧ KeepsBut [.regs, .fm, .sources, .hl] s t) ∧
   (∀ (tag : Nat) (r : HostReader) (s : State), hostOpen s = false ∨ readerWants s r = false →
     exec (.cplTimeout tag (some r)) s = .next s)) ∧
  ((∀ (cfg : HostCfg) (s : State), hostThere s = false ∨ s.hl.retry = true → exec .busMasterDisable s = .next s ∧
     exec (.busMasterEnable cfg) s = .next s ∧ exec .d3hot s = .next s ∧ exec .returnToD0 s = .next s) ∧
   (∀ (cfg : HostCfg) (s : State), hostThere s = true → s.hl.retry = false →
     (s.hl.bme = true → ∃ t, exec .busMasterDisable s = .next t ∧ t.hl = { s.hl with bme := false } ∧ busMaster t = false ∧
       (source s 35 = .idle → source t 35 = .pending) ∧ KeepsBut [.regs, .sources, .hl] s t) ∧
     (s.hl.bme = false → exec .busMasterDisable s = .next s) ∧
     (∃ t, exec (.busMasterEnable cfg) s = .next t ∧ t.hl.bme = true ∧ t.hl.mse = true ∧ t.hl.msixEn = cfg.msixEn ∧
       t.hl.fnMask = cfg.fnMask ∧ t.hl.mps = 128 * 2 ^ cfg.mps.val ∧ t.hl.mrrs = 128 * 2 ^ cfg.mrrs.val ∧
       t.hl.bar4Log2 = 30 + cfg.bar4.val ∧ t.hl.ecrcGen = cfg.ecrcGen ∧ t.hl.ecrcCheck = cfg.ecrcCheck ∧
       (s.hl.d3 = false → t.hl.stalled = []) ∧ (s.hl.d3 = true → t.hostMem = s.hostMem ∧
         ∃ l, t.hl.stalled = s.hl.stalled ++ l ∧ ∀ x, x ∈ l → ∃ v, x = .msix v ∧ s.hl.pending.contains v = true) ∧
       (∀ v, s.hl.d3 = false → cfg.msixEn = true → cfg.fnMask = false → s.hl.pending = [v] → bit s Reg.HL_MSIX_MASK 0 v = false →
         v ∈ t.hl.sent ∧ t.hl.pending = []) ∧
       (s.hl.d3 = false → ∀ a bs, s.hl.stalled = [.host a bs] → t.hostMem = wrBytes 0 s.hostMem a bs) ∧
       KeepsBut [.regs, .hostMem, .sources, .hl] s t) ∧
     (∃ t, exec .d3hot s = .next t ∧ t.hl = { s.hl with d3 := true } ∧ busMaster t = false ∧ KeepsBut [.hl] s t) ∧
     (∃ t, exec .returnToD0 s = .next t ∧ t.hl.d3 = false ∧ (s.hl.bme = true → t.hl.stalled = []) ∧
       (s.hl.bme = false → t.hl = { s.hl with d3 := false } ∧ t.hostMem = s.hostMem) ∧ KeepsBut [.hostMem, .hl] s t)) ∧
   (∀ (speed width : Fin 16) (flit : Bool) (tags : Fin 4) (s : State), s.pins.hold = .none → s.boot.linkDone = true →
     ∃ t, exec (.pcieLinkUp speed width flit tags) s = .next t ∧
       t.hl = { s.hl with up := true, speed := speed.val % 8, width := width.val, flit := flit, tags := tags.val } ∧
       t.pins.refPcie = true ∧ Counted Reg.HL_LINK_STAT_RETRAINS 0 0 1 s t ∧ KeepsBut [.regs, .pins, .hl] s t))

/-! ### Rings (R345, R351, R355 to R384) -/

/-- Doorbells and the fetch of descriptors: a good doorbell moves the host's index of its ring and nothing else of it; one whose ring's
context cannot be loaded waits, and so does any behind it; a burst of
a ring's next entries joins the bursts on their way, and when it has returned, its descriptors join the buffer in order and the
ring's head moves on (R345, R359 to R364). -/
def Obligations.DoorbellsAndFetch : Prop :=
  (∀ (off size : Nat) (data : Word) (s : State), ready s = true → hostThere s = true → s.hl.d3 = false → off < 2 ^ 24 →
    (size ≠ 8 ∨ off % 8 ≠ 0 → ∃ t, exec (.doorbell off size data) s = .next t ∧ Counted Reg.HL_CNT_DB_BAD 0 0 1 s t ∧
      RegsKeptBut [fldKey Reg.HL_CNT_DB_BAD 0 0] s t ∧ KeepsBut [.regs] s t) ∧
    (size = 8 → off % 8 = 0 → (ringAble s (off / 8) = false ∨ ∃ w ∈ s.hl.dbWait, w.1 = off / 8) →
      ∃ t, exec (.doorbell off size data) s = .next t ∧ t.hl.dbWait = s.hl.dbWait ++ [(off / 8, some data.toNat)] ∧ KeepsBut [.hl] s t) ∧
    (size = 8 → off % 8 = 0 → ringAble s (off / 8) = true → (∀ w ∈ s.hl.dbWait, w.1 ≠ off / 8) →
      doorbellFault s (off / 8) data.toNat = none →
      (getF s Reg.QM_RING_CFG_KIND (off / 8) 0 = 0 → ∃ t, exec (.doorbell off size data) s = .next t ∧
        ring t (off / 8) = { ring s (off / 8) with tail := mod32 data.toNat, cached := s.clk.fclk + 1 } ∧
        Counted Reg.QM_CNT_DB 0 0 1 s t ∧ KeepsBut [.regs, .rings] s t) ∧
      (getF s Reg.QM_RING_CFG_KIND (off / 8) 0 ≠ 0 → ∃ t, exec (.doorbell off size data) s = .next t ∧
        (ring t (off / 8)).head = mod32 data.toNat ∧ Counted Reg.QM_CNT_DB 0 0 1 s t) ∧
      (getF s Reg.QM_RING_CFG_KIND (off / 8) 0 ≠ 0 → data.getLsbD 32 = false → s.descs = [] → (ring s (off / 8)).waiting = [] →
        (∀ e ∈ s.streams, e.2.closing = false) → (∀ e ∈ s.plans, e.2.unloading = false) → ∃ t, exec (.doorbell off size data) s = .next t ∧
        ring t (off / 8) = { ring s (off / 8) with head := mod32 data.toNat, cached := s.clk.fclk + 1 } ∧
        KeepsBut [.regs, .rings] s t) ∧
      (getF s Reg.QM_RING_CFG_KIND (off / 8) 0 ≠ 0 → data.getLsbD 32 = true → s.descs = [] → (ring s (off / 8)).waiting = [] →
        (∀ e ∈ s.streams, e.2.closing = false) → (∀ e ∈ s.plans, e.2.unloading = false) → bit s Reg.QM_RING_CFG_IRQ_EN (off / 8) 0 = false → ∃ t, exec (.doorbell off size data) s = .next t ∧
        (ring t (off / 8)).head = mod32 data.toNat ∧ (ring t (off / 8)).armed = true ∧
        (ring t (off / 8)).pend = ahead (ring s (off / 8)).tail (mod32 data.toNat) ∧ KeepsBut [.regs, .rings] s t)) ∧
    (∀ f, size = 8 → off % 8 = 0 → ringAble s (off / 8) = true → (∀ w ∈ s.hl.dbWait, w.1 ≠ off / 8) →
      doorbellFault s (off / 8) data.toNat = some f → ∃ t, exec (.doorbell off size data) s = .next t ∧
      Counted Reg.QM_CNT_DB_REJ 0 0 1 s t ∧ getF t Reg.QM_RING_STAT_DB_REJ (off / 8) 0 = 1 ∧ t.descs = s.descs ∧
      KeepsBut [.regs, .free, .mem, .hostMem, .blocks, .spPoison, .fm, .sources, .hl, .rings, .chans] s t)) ∧
  (∀ (r : Nat) (s : State), qmEn s = true → fetchPick s = some r →
    ∃ t b, exec .descriptorFetch s = .next t ∧ t.bursts = s.bursts ++ [b] ∧ b.ring = r ∧ b.descs.length = burstLen s r ∧
      (∀ x i, region s (getF s Reg.QM_RING_BASE r 0 + (ring s r).head % ringEntries s r * ringEsz s r) = .host x →
        i < burstLen s r → b.descs[i]? = some (rdBytes 0 s.hostMem (hostAddr s x + i * ringEsz s r) (ringEsz s r), false)) ∧
      mget 0 t.fetchPtr (getF s Reg.QM_RING_CFG_PRIO r 0) = r ∧ ring t r = { ring s r with cached := s.clk.fclk + 1 } ∧
      (∀ q, q ≠ r → ring t q = { ring s q with cached := (ring t q).cached }) ∧
      KeepsBut [.regs, .free, .fm, .sources, .hl, .rings, .bursts, .fetchPtr, .chans] s t) ∧
  (∀ (bad : List Nat) (b : Burst) (rest : List Burst) (s : State), s.bursts = b :: rest → b.descs ≠ [] →
    ∃ t u, exec (.descriptorBurstCheck bad) s = .next t ∧ t = faultPass u b.ring ∧ u.bursts = rest ∧
      u.descs.length = s.descs.length + b.descs.length ∧ u.descs.take s.descs.length = s.descs ∧
      (∀ i d, u.descs[s.descs.length + i]? = some d → d.ring = b.ring ∧ d.started = false ∧
        d.cplRing = getF s Reg.QM_RING_PAIR_CPL_RING b.ring 0 ∧
        (b.tags ≠ [] → bad.contains i = true → d.poison = true)) ∧
      (ring u b.ring).head = mod32 ((ring s b.ring).head + b.descs.length))

/-- Enabling rings and the queue manager: an enable that R358 refuses says why and changes nothing of the ring; one it allows
begins the ring afresh, but for the entries that commands under way have reserved, writes a zero write-back word, and then the records that
waited for the ring; a disable clears the enable alone; both wait while the ring's context cannot be loaded; the queue manager is enabled only
with its context table in the general region (R355, R356, R358, R359, R383). -/
def Obligations.RingAndQueueEnables : Prop :=
  (∀ (r : Fin 2097152) (data : BitVec 32) (s : State), answers s 0x601000 = true → ringAble s r.val = false →
    ∃ t, exec (.ringEnable r data) s = .next t ∧ exec (.ringDisable r) s = .next t ∧ (r.val, none) ∈ t.hl.dbWait ∧ KeepsBut [.hl] s t) ∧
  (∀ (r : Fin 2097152) (data : BitVec 32) (s : State), answers s 0x601000 = true → ringAble s r.val = true →
    let s1 := storeOthers (useRing s r.val) 0x601000 r.val 0 data.toNat
    (ringEn s1 r.val = true → exec (.ringEnable r data) s = .next s1) ∧
    (ringEn s1 r.val = false → ringRefusal s1 r.val ≠ 0 → ∃ t, exec (.ringEnable r data) s = .next t ∧
      getF t Reg.QM_RING_STAT_ERR r.val 0 = ringRefusal s1 r.val ∧ ringEn t r.val = false ∧ ring t r.val = ring s1 r.val ∧
      KeepsBut [.regs, .shadow, .rings] s t) ∧
    (ringEn s1 r.val = false → ringRefusal s1 r.val = 0 → ∃ t, exec (.ringEnable r data) s = .next (flushRing t r.val) ∧
      ringEn t r.val = true ∧
      ring t r.val = { Ring.zero with
        cached := s.clk.fclk + 1, reserved := (ring s r.val).reserved, waiting := (ring s r.val).waiting } ∧ ((ring s r.val).waiting = [] → flushRing t r.val = t) ∧
      ∀ y, busMaster s = true → region s1 (getF s1 Reg.QM_RING_WB r.val 0) = .host y →
        rdBytes 0 t.hostMem (hostAddr s1 y) 8 = zeros 8 ∧ KeepsBut [.regs, .shadow, .hostMem, .rings] s t)) ∧
  (∀ (r : Fin 2097152) (s : State), answers s 0x601000 = true → ringAble s r.val = true →
    ∃ t, exec (.ringDisable r) s = .next t ∧ ringEn t r.val = false ∧
    RegsKeptBut [fldKey Reg.QM_RING_CFG_EN r.val 0, fldKey Reg.QM_CNT_CACHE_MISS 0 0] s t ∧
    (∀ q, ring t q = { ring s q with cached := (ring t q).cached }) ∧ KeepsBut [.regs, .rings] s t) ∧
  (∀ (data : BitVec 32) (s : State), answers s 0x600008 = true →
    let s1 := storeOthers s 0x600008 0 0 data.toNat
    let ok := inGeneral s1 (fld s1 Reg.QM_RCTX_BASE / 65536 * 65536) (128 * 2097152)
    ∃ t, exec (.qmEnable data) s = .next t ∧
      (data.getLsbD 0 = false → fld t Reg.QM_CTL_EN = 0) ∧
      (data.getLsbD 0 = true → ok = true → fld t Reg.QM_CTL_EN = 1) ∧
      (data.getLsbD 0 = true → ok = false → fld t Reg.QM_CTL_EN = fld s1 Reg.QM_CTL_EN ∧ fld t Reg.QM_CTL_CFG_ERR = 1) ∧
      KeepsBut [.regs, .shadow] s t)

/-- What the queue manager writes and sends: a staged record that nothing lower precedes becomes the next entry of its ring, or is
counted as misrouted where the ring takes no records; a
coalescing timer that expires sends the ring's message and disarms it, and none runs where `US` is 0; unmasking a vector sends what it held back (R351, R375,
R376, R380, R381). -/
def Obligations.RecordsAndMessages : Prop :=
  (∀ (r : Fin 2097152) (k : StageRec) (x y : Nat) (s : State),
    (s.stage.find? fun k => k.ring = r.val && !lowerPending s k) = some k → qmEn s = true →
    (ringIs s r.val 2 0 = false → ∃ t, exec (.resultRecordWrite r) s = .next t ∧ Counted Reg.QM_CNT_MISROUTE 0 0 1 s t ∧
      t.stage.length + 1 = s.stage.length ∧ ((∀ e ∈ s.stage, e.spilled = false) → KeepsBut [.regs, .stage, .tiles] s t) ∧
      KeepsBut [.regs, .free, .fm, .sources, .stage, .tiles, .chans] s t) ∧
    (ringIs s r.val 2 0 = true → ringEn s r.val = false ∨ ringAble s r.val = false ∨ ringRoom s r.val = 0 →
      exec (.resultRecordWrite r) s = .next s) ∧
    (ringIs s r.val 2 0 = true → ringEn s r.val = true → ringAble s r.val = true → 1 ≤ ringRoom s r.val →
      ∃ t, exec (.resultRecordWrite r) s = .next t ∧ Counted Reg.QM_CNT_RESULTS 0 0 1 s t ∧
        (ring t r.val).tail = mod32 ((ring s r.val).tail + 1) ∧ t.stage.length + 1 = s.stage.length ∧
        (HostRing s r.val x y → k.bytes.length = 64 → EntryWritten s t r.val x y k.bytes ∧
          ((∀ e ∈ s.stage, e.spilled = false) → KeepsBut [.regs, .hostMem, .hl, .rings, .stage, .tiles] s t) ∧
          KeepsBut [.regs, .free, .hostMem, .fm, .sources, .hl, .rings, .stage, .tiles, .chans] s t))) ∧
  (∀ (r : Fin 2097152) (at0 : Nat) (s : State), (ring s r.val).timer = some at0 → getF s Reg.QM_RING_COAL_US r.val 0 ≠ 0 →
    at0 + 1000 * getF s Reg.QM_RING_COAL_US r.val 0 ≤ nowNs s → (ring s r.val).armed = true → 0 < (ring s r.val).pend →
    bit s Reg.QM_RING_CFG_IRQ_EN r.val 0 = true → ∃ t, exec (.coalesceTimer r) s = .next t ∧
      ring t r.val = { ring s r.val with pend := 0, timer := none, armed := false } ∧
      Counted Reg.QM_CNT_MSIX 0 0 1 s t ∧
      (ready s = true → s.hl.msixEn = true → s.hl.fnMask = false → busMaster s = true →
        bit s Reg.HL_MSIX_MASK 0 (getF s Reg.QM_RING_CFG_VECTOR r.val 0) = false →
        t.hl.sent = s.hl.sent ++ [getF s Reg.QM_RING_CFG_VECTOR r.val 0]) ∧ KeepsBut [.regs, .hostMem, .hl, .rings] s t) ∧
  (∀ (r : Fin 2097152) (s : State), getF s Reg.QM_RING_COAL_US r.val 0 = 0 → exec (.coalesceTimer r) s = .next s) ∧
  (∀ (v : Fin 2048) (s : State), answers s 0x1180000 = true → ∃ t, exec (.msixUnmask v) s = .next t ∧
      bit t Reg.HL_MSIX_MASK 0 v.val = false ∧
      (ready s = true → s.hl.msixEn = true → s.hl.fnMask = false → busMaster s = true → s.hl.pending.contains v.val = true →
        t.hl.sent = s.hl.sent ++ [v.val] ∧ ¬ v.val ∈ t.hl.pending) ∧
      (s.hl.pending.contains v.val = false → t.hl = s.hl) ∧ KeepsBut [.regs, .hostMem, .hl] s t)

/-! ### Commands (R365 to R371) -/

/-- Commands of a submit ring: once what stands ahead of it and can only report what is wrong has completed, the ring's next command
starts, takes an entry of its completion ring, and completes there with the record of R371, or without one where it asked for none and
succeeded; `NOP` does nothing else; `SYNC_ADD` adds, `SYNC_WAIT` completes once it is satisfied, `QUERY` answers as R370 says,
`STREAM_RESUME` resumes a halted context (R279, R313, R365 to R371). -/
def Obligations.SimpleCommands : Prop :=
  ∀ (r : Fin 2097152) (d : Desc) (s : State),
    (NextCommand r.val 0 d s → exec (.nop r) s = .next (answered (faultPass s r.val) d id 0 0 0 0)) ∧
    (OnlyCommand r.val 0 d s →
      (wordBits d.words 0 8 1 = 0 → ringAble s d.cplRing = true → (ring s d.cplRing).waiting = [] → ∀ x y, HostRing s d.cplRing x y → ∃ t, exec (.nop r) s = .next t ∧
        EntryWritten s t d.cplRing x y (cplRec 0 0 0 r.val (descTag d 0) d.seq 0 0 (nowNs s)) ∧
        (∀ e, e ∈ t.descs → e.ring ≠ r.val) ∧ KeepsBut [.regs, .hostMem, .hl, .rings, .descs] s t) ∧
      (wordBits d.words 0 8 1 = 1 → ∃ t, exec (.nop r) s = .next t ∧ (∀ e, e ∈ t.descs → e.ring ≠ r.val) ∧
        (ring t d.cplRing).reserved = (ring s d.cplRing).reserved ∧ (ring t d.cplRing).tail = (ring s d.cplRing).tail ∧
        KeepsBut [.regs, .rings, .descs] s t)) ∧
    (NextCommand r.val 10 d s → exec (.syncAdd r) s =
      .next (answered (faultPass s r.val) d (fun s' => addObj s' (descArg d 0) (descArg d 1) 0) 0 0 0 0)) ∧
    (OnlyCommand r.val 10 d s → ∃ t, exec (.syncAdd r) s = .next t ∧
      (obj t (descArg d 0)).count = BitVec.ofNat 64 (min (2 ^ 64 - 1) ((obj s (descArg d 0)).count.toNat + descArg d 1)) ∧
      (∀ n, n ≠ descArg d 0 → obj t n = obj s n) ∧ (∀ e, e ∈ t.descs → e.ring ≠ r.val) ∧ KeepsBut wakeParts s t) ∧
    (let u := faultPass (waitPass s r.val) r.val
     NextCommand r.val 9 d (waitPass s r.val) →
      (syncMet u (descArg d 0) (BitVec.ofNat 64 (descArg d 1)) = true → exec (.syncWait r) s = .next (answered u d id 0 0 0 0)) ∧
      (syncMet u (descArg d 0) (BitVec.ofNat 64 (descArg d 1)) = false →
        exec (.syncWait r) s = .next (begun u d fun s' _ => noteWaiters s'))) ∧
    (OnlyCommand r.val 9 d s → syncMet s (descArg d 0) (BitVec.ofNat 64 (descArg d 1)) = false →
      ∃ t, exec (.syncWait r) s = .next t ∧
        t.descs.filter (fun e => e.ring = r.val) = [{ d with started := true, reserved := true }] ∧
        KeepsBut [.regs, .rings, .descs] s t) ∧
    (let u := faultPass s r.val
     NextCommand r.val 11 d s →
      (descArg d 0 = 0 → exec (.query r) s = .next (answered u d id 0 0
        (u.grid.enabled + (u.plans.filter fun e => e.2.loaded).length * 2 ^ 9) u.sec.fwVersion)) ∧
      (descArg d 0 = 1 → exec (.query r) s = .next (answered u d id 0 0 (stream u (descArg d 1)).nextLine
        (b2n (stream u (descArg d 1)).bound + (stream u (descArg d 1)).plan * 2 + openLines (stream u (descArg d 1)) * 2 ^ 9))) ∧
      (∀ j, descArg d 0 = 2 → jobOf u (BitVec.ofNat 64 (descArg d 1)) = some j →
        exec (.query r) s = .next (answered u d id 0 0 (jobStateCode j.state) j.attempt)) ∧
      (descArg d 0 = 2 → jobOf u (BitVec.ofNat 64 (descArg d 1)) = none →
        exec (.query r) s = .next (answered u d id 0xB 0 0 0)) ∧
      (3 ≤ descArg d 0 → (plan u (descArg d 1)).loaded = true → exec (.query r) s = .next (answered u d id 0 0
        (templates u (descArg d 1)).length (plan u (descArg d 1)).used)) ∧
      (3 ≤ descArg d 0 → (plan u (descArg d 1)).loaded = false → exec (.query r) s = .next (answered u d id 0xB 0 0 0))) ∧
    (NextCommand r.val 12 d s → exec (.streamResume r) s = .next
      (answered (faultPass s r.val) d (fun s' => resumeSctx s' (descArg d 0 % 32) (descArg d 0 / 32 % 64)) 0 0 0 0))

/-- Plans and streams by command: a load or a binding that a check of R524 fails completes with its status and does nothing; a plan that
passes takes the lowest free plan id, holds its image, and gives its objects their initial values; a stream is bound at line 0 with
the geometry its registers hold; an unload cancels what the plan has; unbinding flushes and cancels; a feed goes to the stream that
names its ring, and a feed whose last line finds room completes; a load and a feed wait while the host link cannot read what they need (R28,
R31, R99 to R103, R339, R366, R475, R477, R524). -/
def Obligations.PlanAndStreamCommands : Prop :=
  (∀ (r : Fin 2097152) (d : Desc) (s : State),
     let u := faultPass s r.val
     (∀ (c : Crypto) (im : PlanImage), planReads u r.val = true → hostOpen u = false → exec (.planLoad r c im) s = .next u) ∧
     (∀ (c : Crypto) (im : PlanImage), NextCommand r.val 1 d s → (planReads u r.val = true → hostOpen u = true) →
       (∀ f, loadFault (startDesc u d).1 (startDesc u d).2 c im = some f →
         exec (.planLoad r c im) s = .next (answered u d (fun s' => clearFailed s' (.planLoad r.val)) f.1 f.2 0 0)) ∧
       (loadFault (startDesc u d).1 (startDesc u d).2 c im = none →
         exec (.planLoad r c im) s = .next (begun u d fun s' e => loadPlan (clearFailed s' (.planLoad r.val)) e im))) ∧
     (∀ (c : Crypto) (im : PlanImage), OnlyCommand r.val 1 d s → (planReads s r.val = true → hostOpen s = true) → loadFault (startDesc s d).1 (startDesc s d).2 c im = none →
       ∃ t, exec (.planLoad r c im) s = .next t ∧ (plan s (freePlan s)).loaded = false ∧
         (plan t (freePlan s)).loaded = true ∧ (plan t (freePlan s)).image = im ∧ (plan t (freePlan s)).base = descArg d 2 ∧
         (plan t (freePlan s)).size = descArg d 3 ∧ (∀ p, p ≠ freePlan s → plan t p = plan s p) ∧
         freeObjs s im.objects.length = some (plan t (freePlan s)).objs ∧
         (∀ i o kind init : Nat, (plan t (freePlan s)).objs[i]? = some o → im.objects[i]? = some (kind, init) →
           obj t o = { alloc := true, plan := freePlan s, kind := kind, init := BitVec.ofNat 64 init, count := BitVec.ofNat 64 init,
                       owner := none }) ∧
         (∀ e, e ∈ t.descs → e.ring ≠ r.val)) ∧
     (NextCommand r.val 2 d s →
       (planHere u (descPlan d) = false → exec (.planUnload r) s = .next (answered u d id 0xB 0 0 0)) ∧
       (planHere u (descPlan d) = true → ∃ t, exec (.planUnload r) s = .next t ∧ planHere t (descPlan d) = false ∧
         t = begun u d fun s' _ => settle (drainPass (unload s' (descPlan d)))))) ∧
  (∀ (r : Fin 2097152) (d : Desc) (s : State),
     let u := faultPass s r.val
     let x := descArg d 0 % 64
     (NextCommand r.val 3 d s →
       (∀ f, bindFault (startDesc u d).1 (startDesc u d).2 = some f → exec (.streamBind r) s = .next (answered u d id f.1 f.2 0 0)) ∧
       (bindFault (startDesc u d).1 (startDesc u d).2 = none → exec (.streamBind r) s = .next (begun u d bindStream))) ∧
     (OnlyCommand r.val 3 d s → bindFault (startDesc s d).1 (startDesc s d).2 = none → ∃ t, exec (.streamBind r) s = .next t ∧
       stream t x = { geometry s x with
         bound := true, plan := descPlan d, prio := descArg d 0 / 64 % 4, resultRing := descArg d 1, eventRing := descArg d 2,
         feedRing := descArg d 3, reserve := reserveOf (geometry s x) } ∧
       (pstream t x).lastPacketNs = nowNs s ∧ (∀ z, z ≠ x → stream t z = stream s z) ∧ (∀ e, e ∈ t.descs → e.ring ≠ r.val) ∧
       t.jobs = s.jobs) ∧
     (NextCommand r.val 4 d s →
       (isBound u x = false → exec (.streamUnbind r) s = .next (answered u d id 0xB 0 0 0)) ∧
       (isBound u x = true → ∃ t, exec (.streamUnbind r) s = .next t ∧ isBound t x = false ∧
         t = begun u d fun s' _ => settle (drainPass (unbind s' x)))) ∧
     (NextCommand r.val 5 d s →
       (isBound u x = false → exec (.streamFlush r) s = .next (answered u d id 0xB 0 0 0)) ∧
       (isBound u x = true →
         exec (.streamFlush r) s = .next (answered u d (fun s' => settle (flushStream s' x)) 0 0
           (stream (settle (flushStream (startDesc u d).1 x)) x).nextLine 0))) ∧
     (NextCommand r.val 6 d s →
       ((isBound u x && (stream u x).feedRing = r.val) = false → exec (.hostFeed r) s = .next (answered u d id 0xD 0 0 0)) ∧
       ((isBound u x && (stream u x).feedRing = r.val) = true →
         exec (.hostFeed r) s = .next (begun u d fun s' _ => feedAll s' x)))) ∧
  (∀ (x : Fin 64) (d : Desc) (rest : List Desc) (i first : Nat) (s : State), feedsOf s x.val = d :: rest →
     (stream s x.val).feed = some (i, first) →
     let s0 := weldDue s x.val (stream s x.val).nextLine ((feedStamp s d i).elim (nowNs s) (·.1))
     let room := sramRoom s0 x.val (lineBlocks (stream s0 x.val))
     let go := igEn s && isBound s x.val && room && (!feedReads s d i || hostOpen s)
     (go = false → exec (.hostFeedResume x) s = .next (settle s)) ∧
     (go = true → rest = [] → descArg d 2 = i + 1 → (stream s0 x.val).feed = some (i, first) →
       exec (.hostFeedResume x) s = .next (settle (complete
         (updStream (feedLine s0 x.val d i) x.val fun k => { k with feed := none }) d 0 0 first 0))) ∧
     exec (.hostFeedResume x) s = .next (feedAll s x.val))

/-- Host jobs: the job of a submission is there since its descriptor was fetched, with its arguments; the submission lets it run and
waits for it, and drops it where it has nowhere to run or its sizes are wrong; a cancellation of a job that does not exist or is over
fails, and of another cancels it with all that depends on it (R34, R36, R45, R249, R366, R369). -/
def Obligations.HostJobCommands : Prop :=
  ∀ (r : Fin 2097152) (d : Desc) (s : State),
    let u := faultPass s r.val
    let drop := fun (s' : State) => dropJob s' (hostId r.val d.seq)
    (NextCommand r.val 7 d s →
      (∀ m, (tmplAt u (descPlan d) (descTmpl d)).filter (fun t => t.kind = 4) = some m → planHere u (descPlan d) = true →
        (∀ i, badShapeFor (plan u (descPlan d)).image m (descArg d) = some i →
          exec (.jobSubmit r) s = .next (answered u d drop 5 i 0 0)) ∧
        (badShapeFor (plan u (descPlan d)).image m (descArg d) = none →
          m.emits = true → bit u Reg.QM_RING_PAIR_RES_EN r.val 0 = false →
          exec (.jobSubmit r) s = .next (answered u d drop 0xD 0 0 0)) ∧
        (badShapeFor (plan u (descPlan d)).image m (descArg d) = none →
          (m.emits = true → bit u Reg.QM_RING_PAIR_RES_EN r.val 0 = true) →
          exec (.jobSubmit r) s = .next (begun u d fun s' e =>
            eligPass (updJob (addJob s' (hostJob s' e)) (hostId r.val d.seq) fun j => { j with submitted := true })) ∧
          (OnlyCommand r.val 7 d s → ∃ t j, exec (.jobSubmit r) s = .next t ∧ jobOf t (hostId r.val d.seq) = some j ∧
            j.submitted = true ∧
            (jobOf s (hostId r.val d.seq) = none → j.kind = .host ∧ j.plan = descPlan d ∧ j.tmpl = descTmpl d ∧ j.ring = r.val ∧
              j.attempt = 0 ∧ j.args = ((upto 6).map fun i => BitVec.ofNat 64 (descArg d i)) ∧
              (j.state = .waiting ∨ j.state = .eligible)) ∧
            (∀ k, jobOf s (hostId r.val d.seq) = some k → j.kind = k.kind ∧ j.args = k.args ∧ j.attempt = k.attempt) ∧
            t.descs.filter (fun e => e.ring = r.val) = [{ d with started := true, reserved := true }] ∧
            KeepsBut [.regs, .rings, .descs, .jobs] s t))) ∧
      ((tmplAt u (descPlan d) (descTmpl d)).filter (fun t => t.kind = 4) = none ∨ planHere u (descPlan d) = false →
        exec (.jobSubmit r) s = .next (answered u d drop 0xB 0 0 0))) ∧
    (NextCommand r.val 8 d s →
      (jobOf u (BitVec.ofNat 64 (descArg d 0)) = none → exec (.jobCancel r) s = .next (answered u d id 0xB 0 0 0)) ∧
      (∀ j, jobOf u (BitVec.ofNat 64 (descArg d 0)) = some j → j.kind ≠ .host ∨ (jobOver j = true ∧ j.submitted = true) →
        exec (.jobCancel r) s = .next (answered u d id 0xB 0 0 0)) ∧
      (∀ j, jobOf u (BitVec.ofNat 64 (descArg d 0)) = some j → j.kind = .host → jobOver j = false ∨ j.submitted = false →
        exec (.jobCancel r) s = .next (begun u d fun s' _ => settle (drainPass (cancelJob s' j.id 0)))))

/-! ### Expert groups (R385 to R404) -/

/-- Sending: the first route that waits for a channel goes when its credit allows, with the channel's position and counts moved on;
so does the first RESULT or NACK; frees are reported in a credit block (R390 to R395). -/
def Obligations.PeerSending : Prop :=
  (∀ (p : Fin 16) (k : Token) (rank : Nat) (r : Route) (s : State), firstDue s p.val = some (k, rank, r) →
    (s.pm.tokens.find? fun e => e.id = k.id) = some k →
    (maySend s (chanIdx p.val 0) (1 + k.bytes.length / 64) = true → ∃ t, exec (.tokenSend p) s = .next t ∧
      routeOf t k.id rank = some { r with due := false, part := p.val, sentNs := nowNs s } ∧
      (let c := chanOf s (chanIdx p.val 0)
       let a := sendAt s (chanIdx p.val 0) (1 + k.bytes.length / 64)
       chanOf t (chanIdx p.val 0) = { c with
         pos := a.1 + (1 + k.bytes.length / 64), sent := c.sent + (1 + k.bytes.length / 64) + a.2, msgSeq := c.msgSeq + 1 }) ∧
      (∀ c, c ≠ chanIdx p.val 0 → chanOf t c = chanOf s c) ∧ t.pm.rx = s.pm.rx ∧ t.pm.out = s.pm.out) ∧
    (maySend s (chanIdx p.val 0) (1 + k.bytes.length / 64) = false → exec (.tokenSend p) s = .next s)) ∧
  (∀ (p : Fin 16) (m : OutMsg) (s : State), (s.pm.out.find? fun e => e.peer = p.val) = some m →
    let n := 1 + (if m.nack then [] else m.block).length / 64
    (maySend s (chanIdx p.val 1) n = true → ∃ t, exec (.resultSend p) s = .next t ∧ t.pm.out = s.pm.out.erase m ∧
      (let c := chanOf s (chanIdx p.val 1)
       let a := sendAt s (chanIdx p.val 1) n
       chanOf t (chanIdx p.val 1) = { c with
         pos := a.1 + n, sent := c.sent + n + a.2, msgSeq := c.msgSeq + 1,
         results := (if m.nack then c.results else c.results ++ [(m.token, m.expert, c.sent + n + a.2)]) }) ∧
      (∀ c, c ≠ chanIdx p.val 1 → chanOf t c = chanOf s c) ∧ t.pm.tokens = s.pm.tokens ∧ t.pm.rx = s.pm.rx) ∧
    (maySend s (chanIdx p.val 1) n = false → exec (.resultSend p) s = .next s)) ∧
  (∀ (p : Fin 16) (s : State), pmEn s = true → 0 < unreported s p.val → (chanOf s (chanIdx p.val 1)).opened = true →
    ∃ t, exec (.creditBlockSend p) s = .next t ∧ unreported t p.val = 0 ∧ t.pm.chans = s.pm.chans ∧
      (∀ w, (winOf t w).freed = (winOf s w).freed ∧ (winOf t w).held = (winOf s w).held))

/-- Receiving: a damaged message is refused as damaged, one of another epoch or of no expert here is refused and logged; a token
joins its expert's batch, which closes at the plan's size once there is a place for its table (which places there are, log 20), and its
message stays held; a result fills its route and its message is freed,
or is counted as stray or as a duplicate; a message of another kind is accepted and freed with nothing done; a NACK sets the time at which its token's route is sent again, or has the expert-job of its
result run again; a credit block gives the counts of both channels (R391, R394 to R400). -/
def Obligations.PeerReceiving : Prop :=
  (∀ (w : Fin 64) (m : HeldMsg) (bs : List Byte) (s : State), unjudged s w.val = some (m, bs) → pmEn s = true → hKind bs = 1 →
    (damaged m bs = true → ∃ t, exec (.tokenReceive w) s = .next t ∧ t.pm.rx = s.pm.rx ∧ t.pm.batches = s.pm.batches ∧
      Counted Reg.PM_CNT_DISCARD 0 0 1 s t ∧
      ((chanOf s (chanIdx (hSender bs) 1)).opened = true → ∃ o, t.pm.out = s.pm.out ++ [o] ∧ o.reason = 3 ∧ o.token = hToken bs) ∧
      KeepsBut [.regs, .pm] s t) ∧
    (damaged m bs = false → hEpoch bs ≠ s.pm.epoch ∨ hPlan bs ≠ groupPlan s ∨ hostsExpert s (hExpert bs) = false →
      ∃ t, exec (.tokenReceive w) s = .next t ∧ t.pm.rx = s.pm.rx ∧ t.pm.batches = s.pm.batches ∧
      ((chanOf s (chanIdx (hSender bs) 1)).opened = true → ∃ o, t.pm.out = s.pm.out ++ [o] ∧ o.token = hToken bs ∧
        o.reason = (if hEpoch bs ≠ s.pm.epoch then 1 else 2)) ∧ KeepsBut [.regs, .pm] s t) ∧
    (∀ x, damaged m bs = false → hEpoch bs = s.pm.epoch → hPlan bs = groupPlan s → hostsExpert s (hExpert bs) = true →
      expertTmpl s (hExpert bs) = some x → (batchOf s (hExpert bs)).opened.length + 1 < x.batchSize →
      ∃ t, exec (.tokenReceive w) s = .next t ∧ Counted Reg.PM_CNT_TOKENS_RX 0 0 1 s t ∧
        (batchOf t (hExpert bs)).opened = (batchOf s (hExpert bs)).opened ++ [(hToken bs, winBase s w.val + 64 * m.pos + 64)] ∧
        (∃ k, t.pm.rx = s.pm.rx ++ [k] ∧ k.id = hToken bs ∧ k.window = some w.val ∧ k.pos = m.pos) ∧
        (winOf t w.val).freed = (winOf s w.val).freed ∧ KeepsBut [.regs, .pm] s t) ∧
    (∀ x, damaged m bs = false → hEpoch bs = s.pm.epoch → hPlan bs = groupPlan s → hostsExpert s (hExpert bs) = true →
      expertTmpl s (hExpert bs) = some x → x.batchSize ≤ (batchOf s (hExpert bs)).opened.length + 1 →
      let b := batchOf s (hExpert bs)
      let all := b.opened ++ [(hToken bs, winBase s w.val + 64 * m.pos + 64)]
      ∃ t, exec (.tokenReceive w) s = .next t ∧ Counted Reg.PM_CNT_TOKENS_RX 0 0 1 s t ∧
        ((tablePlace s (groupPlan s) (hExpert bs) b.next).isSome = true →
          (batchOf t (hExpert bs)).opened = all.drop (max 1 x.batchSize) ∧ (batchOf t (hExpert bs)).next = b.next + 1 ∧
          (jobOf s (expertId (hExpert bs) x.index b.next) = none → ∃ j, jobOf t (expertId (hExpert bs) x.index b.next) = some j ∧
            j.kind = .expert ∧ j.tokens.length = min (max 1 x.batchSize) all.length ∧
            ∀ k, k ∈ j.tokens ↔ ∃ a, (k, a) ∈ all.take (max 1 x.batchSize))) ∧
        (tablePlace s (groupPlan s) (hExpert bs) b.next = none → (batchOf t (hExpert bs)).opened = all ∧
          (batchOf t (hExpert bs)).next = b.next ∧ t.jobs = s.jobs) ∧
        (winOf t w.val).freed = (winOf s w.val).freed)) ∧
  (∀ (w : Fin 64) (m : HeldMsg) (bs : List Byte) (s : State), unjudged s w.val = some (m, bs) → pmEn s = true →
    [1, 2, 3].contains (hKind bs) = false → damaged m bs = false → (winOf s w.val).held = [m] →
    ∃ t, exec (.tokenReceive w) s = .next t ∧ exec (.resultReceive w) s = .next t ∧ exec (.nackReceive w) s = .next t ∧
      (winOf t w.val).held = [] ∧ (winOf t w.val).freed = (winOf s w.val).freed + m.blocks ∧ t.pm.rx = s.pm.rx ∧
      t.pm.tokens = s.pm.tokens ∧ t.pm.batches = s.pm.batches ∧ t.pm.out = s.pm.out ∧ KeepsBut [.pm] s t) ∧
  (∀ (w : Fin 64) (m : HeldMsg) (bs : List Byte) (s : State), unjudged s w.val = some (m, bs) → pmEn s = true → hKind bs = 2 →
    (damaged m bs = true ∨ hEpoch bs ≠ s.pm.epoch → ∃ t, exec (.resultReceive w) s = .next t ∧ t.pm.tokens = s.pm.tokens ∧
      Counted Reg.PM_CNT_DISCARD 0 0 1 s t ∧ KeepsBut [.regs, .pm] s t) ∧
    (damaged m bs = false → hEpoch bs = s.pm.epoch →
      (∀ k r, (s.pm.tokens.find? fun e => e.id = hToken bs) = some k → k.routes[hRank bs]? = some r → r.expert ≠ hExpert bs) →
      ∃ t, exec (.resultReceive w) s = .next t ∧ t.pm.tokens = s.pm.tokens ∧ Counted Reg.PM_CNT_STRAY 0 0 1 s t ∧
        KeepsBut [.regs, .pm] s t) ∧
    (∀ k r, damaged m bs = false → hEpoch bs = s.pm.epoch → (s.pm.tokens.find? fun e => e.id = hToken bs) = some k →
      k.routes[hRank bs]? = some r → r.expert = hExpert bs → r.result.isSome = true →
      ∃ t, exec (.resultReceive w) s = .next t ∧ t.pm.tokens = s.pm.tokens ∧ Counted Reg.PM_CNT_DUP 0 0 1 s t ∧
        KeepsBut [.regs, .pm] s t)) ∧
  (∀ (w : Fin 64) (m : HeldMsg) (bs : List Byte) (k : Token) (r : Route) (s : State), unjudged s w.val = some (m, bs) →
    pmEn s = true → hKind bs = 2 → damaged m bs = false → hEpoch bs = s.pm.epoch →
    (s.pm.tokens.find? fun e => e.id = hToken bs) = some k → k.routes[hRank bs]? = some r → r.expert = hExpert bs →
    r.result = none →
    ((∃ i q, i ≠ hRank bs ∧ k.routes[i]? = some q ∧ q.result = none) → ∃ t, exec (.resultReceive w) s = .next t ∧
      routeOf t (hToken bs) (hRank bs) = some { r with result := some ((bs.drop 64).take 64), due := false, retryAt := none } ∧
      t.stage = s.stage ∧ Counted Reg.PM_CNT_RESULTS_RX 0 0 1 s t ∧ KeepsBut [.regs, .pm] s t) ∧
    ((∀ i q, i ≠ hRank bs → k.routes[i]? = some q → q.result ≠ none) → ∃ t, exec (.resultReceive w) s = .next t ∧
      (∀ e, e ∈ t.pm.tokens → e.id ≠ hToken bs) ∧ t.stage.length = s.stage.length + 1 ∧
      Counted Reg.PM_CNT_MERGED 0 0 1 s t ∧ (1 ≤ chipFree s → KeepsBut [.regs, .stage, .tiles, .pm] s t) ∧
      KeepsBut [.regs, .free, .mem, .hostMem, .blocks, .spPoison, .fm, .sources, .hl, .stage, .tiles, .chans, .pm] s t)) ∧
  (∀ (w : Fin 64) (m : HeldMsg) (bs : List Byte) (s : State), unjudged s w.val = some (m, bs) → pmEn s = true → hKind bs = 3 →
    (damaged m bs = true → ∃ t, exec (.nackReceive w) s = .next t ∧ t.pm.tokens = s.pm.tokens ∧ t.pm.out = s.pm.out ∧
      Counted Reg.PM_CNT_DISCARD 0 0 1 s t ∧ KeepsBut [.regs, .pm] s t) ∧
    (damaged m bs = false → ∃ t, exec (.nackReceive w) s = .next t ∧ Counted Reg.PM_CNT_NACK_RX 0 0 1 s t ∧ t.pm.out = s.pm.out) ∧
    (∀ q id j, damaged m bs = false → bytesNat bs 36 1 / 16 = 2 → (chanOf s (chanIdx (hSender bs) 1)).opened = true →
      (s.pm.rx.find? fun k => k.id = hToken bs && k.expert = hExpert bs && k.rank = hRank bs && k.window.isSome) = some q →
      q.job = some id → jobOf s id = some j → j.state = .retired → ∃ t, exec (.nackReceive w) s = .next t ∧
        (jobOf t id).map (fun k => (k.regen, k.attempt)) = some (true, j.attempt + 1) ∧
        t.pm.tokens = s.pm.tokens)) ∧
  (∀ (w : Fin 64) (m : HeldMsg) (bs : List Byte) (r : Route) (s : State), unjudged s w.val = some (m, bs) → pmEn s = true →
    hKind bs = 3 → damaged m bs = false → bytesNat bs 36 1 / 16 = 1 → routeOf s (hToken bs) (hRank bs) = some r → r.result = none →
    r.expert = hExpert bs → r.due = false → ∃ t, exec (.nackReceive w) s = .next t ∧
      routeOf t (hToken bs) (hRank bs) = some { r with retryAt := some (nowNs s + 1000 * fld s Reg.PM_CTL_RETRY_US) } ∧
      t.pm.out = s.pm.out ∧ Counted Reg.PM_CNT_NACK_RX 0 0 1 s t ∧ KeepsBut [.regs, .pm] s t) ∧
  (∀ (w : Fin 64) (s : State), (winOf s w.val).credit = true → pmEn s = true →
    let p := getF s Reg.PM_WIN_CFG_PEER 0 w.val
    (getF s Reg.PM_WIN_CFG_CLASS 0 w.val = 1 → ∃ t, exec (.creditBlockReceive w) s = .next t ∧
      (winOf t w.val).credit = false ∧
      (chanOf t (chanIdx p 0)).freed = bytesNat (devGet s (winBase s w.val) 64) 0 8 ∧
      (chanOf t (chanIdx p 1)).freed = bytesNat (devGet s (winBase s w.val) 64) 8 8) ∧
    (getF s Reg.PM_WIN_CFG_CLASS 0 w.val = 0 → ∃ t, exec (.creditBlockReceive w) s = .next t ∧
      winOf t w.val = { winOf s w.val with credit := false } ∧ t.pm.chans = s.pm.chans ∧ KeepsBut [.pm] s t))

/-- Time-outs and epochs: an open batch closes at its age and becomes an expert-job, once there is a place for its table; a route is sent again after a NACK's delay or
without an answer, a local one by joining its expert's batch, and the fault manager hears of it once at the limit; a new peer epoch opens and closes windows and channels as
their enables were written (R34, R396 to R401). -/
def Obligations.PeerTimersAndEpochs : Prop :=
  (∀ (e : Fin 256) (m : Template) (s : State), expertTmpl s e.val = some m → pmEn s = true → (batchOf s e.val).opened ≠ [] →
    (batchOf s e.val).openedNs + 1000 * m.batchUs ≤ nowNs s → jobOf s (expertId e.val m.index (batchOf s e.val).next) = none →
    (tablePlace s (groupPlan s) e.val (batchOf s e.val).next = none → exec (.batchTimeout e) s = .next s) ∧
    ((tablePlace s (groupPlan s) e.val (batchOf s e.val).next).isSome = true → ∃ t j, exec (.batchTimeout e) s = .next t ∧
      (batchOf t e.val).opened = (batchOf s e.val).opened.drop (max 1 m.batchSize) ∧
      (batchOf t e.val).next = (batchOf s e.val).next + 1 ∧
      jobOf t (expertId e.val m.index (batchOf s e.val).next) = some j ∧ j.kind = .expert ∧ j.plan = groupPlan s ∧
      j.tokens.length = min (max 1 m.batchSize) (batchOf s e.val).opened.length ∧
      ∀ k, k ∈ j.tokens ↔ ∃ a, (k, a) ∈ (batchOf s e.val).opened.take (max 1 m.batchSize))) ∧
  (∀ (id : BitVec 128) (rank : Fin 2) (r : Route) (at0 : Nat) (s : State), routeOf s id rank.val = some r →
    r.retryAt = some at0 → at0 ≤ nowNs s → pmEn s = true → r.result = none →
    (hostsExpert s r.expert = false → ∃ t, exec (.tokenRetry id rank) s = .next t ∧
      routeOf t id rank.val = some { r with due := true, retryAt := none } ∧ KeepsBut [.pm] s t) ∧
    (hostsExpert s r.expert = true → ∃ t, exec (.tokenRetry id rank) s = .next t ∧
      routeOf t id rank.val = some { r with due := false, retryAt := none, part := fld s Reg.PM_CTL_SELF, sentNs := nowNs s } ∧
      ∃ q, q ∈ t.pm.rx ∧ q.id = id ∧ q.expert = r.expert ∧ q.window = none)) ∧
  (∀ (id : BitVec 128) (rank : Fin 2) (r : Route) (s : State), routeOf s id rank.val = some r → pmEn s = true → r.result = none →
    r.due = false → r.retryAt = none → r.sentNs + 1000 * fld s Reg.PM_TIMEOUT_TOKEN_TO ≤ nowNs s →
    ∃ t, exec (.tokenTimeout id rank) s = .next t ∧ Counted Reg.PM_CNT_RESEND 0 0 1 s t ∧
      (hostsExpert s r.expert = false →
        (r.resends < fld s Reg.PM_TIMEOUT_MAX_RESEND ∨ r.told = true →
          routeOf t id rank.val = some { r with due := true, retryAt := none, resends := r.resends + 1, sentNs := nowNs s } ∧
          KeepsBut [.regs, .pm] s t) ∧
        (fld s Reg.PM_TIMEOUT_MAX_RESEND ≤ r.resends → r.told = false →
          routeOf t id rank.val =
            some { r with due := true, retryAt := none, resends := r.resends + 1, sentNs := nowNs s, told := true } ∧
          Reported s t (mkReport 0x4A .peer 0 (id.toNat % 2 ^ 64) 0 r.part) ∧ KeepsBut [.regs, .fm, .sources, .pm] s t)) ∧
      (hostsExpert s r.expert = true →
        (routeOf t id rank.val).map (fun q => (q.due, q.resends, q.sentNs)) = some (false, r.resends + 1, nowNs s) ∧
        ∃ q, q ∈ t.pm.rx ∧ q.id = id ∧ q.expert = r.expert ∧ q.window = none)) ∧
  (∀ (v : BitVec 32) (s : State), answers s 0x900018 = true →
    (v.toNat = s.pm.epoch → exec (.epochAdvance v) s = .next s) ∧
    (v.toNat ≠ s.pm.epoch → ∃ t, exec (.epochAdvance v) s = .next t ∧ t.pm.epoch = v.toNat ∧
      (∀ w, w < 64 →
        let shadow := mget 0 s.shadow (fldKey Reg.PM_WIN_CFG_EN 0 w)
        let on := if shadow = 0 then getF s Reg.PM_WIN_CFG_EN 0 w else (shadow - 1) % 2
        (on = 0 → (winOf t w).state = .closed) ∧
        (on = 1 → (winOf s w).state = .closed → ((winOf s w).held.map fun m => m.blocks).sum = 0 →
          (winOf t w).state = .opened ∧ (winOf t w).epoch = v.toNat)) ∧
      (∀ k, k < 32 →
        let shadow := mget 0 s.shadow (fldKey Reg.PM_SEND_CTL_EN 0 k)
        let on := if shadow = 0 then getF s Reg.PM_SEND_CTL_EN 0 k else (shadow - 1) % 2
        (chanOf t k).opened = decide (on = 1))))

/-! ### The event hub and the control cores (R405 to R431) -/

/-- The event hub: a set makes an idle source pending, an active one active and pending, and is counted where it is lost in one
that stands; a clear takes the pending half back; an edge sets its latch, and while FCLK runs the latches set their sources;
the first pending source that a core may take is reserved for the core of lowest priority that may, and wakes it (R421 to R428). -/
def Obligations.EventHub : Prop :=
  (∀ (x : Fin 1024) (s : State), s.fm.phase ≠ .frost →
    (∃ t, exec (.eventSet x) s = .next t ∧
      source t x.val = (match source s x.val with
        | .idle | .pending => .pending
        | .active | .activePending => .activePending) ∧
      (source s x.val = .pending ∨ source s x.val = .activePending → Counted Reg.EV_CNT_COALESCED 0 0 1 s t ∧
        Counted Reg.EV_SRC_COALESCED 0 x.val 1 s t) ∧
      (∀ y, y ≠ x.val → source t y = source s y) ∧ KeepsBut [.regs, .sources] s t) ∧
    (∃ t, exec (.eventClear x) s = .next t ∧
      source t x.val = (match source s x.val with
        | .idle | .pending => .idle
        | .active | .activePending => .active) ∧
      (∀ y, y ≠ x.val → source t y = source s y) ∧ KeepsBut [.sources] s t)) ∧
  (∀ (i : Fin 16) (s : State), ∃ t, exec (.asyncEdgeLatch i) s = .next t ∧ t.latches.getLsbD i.val = true ∧
    (∀ j, j ≠ i.val → t.latches.getLsbD j = s.latches.getLsbD j) ∧ KeepsBut [.latches] s t) ∧
  (∀ s : State, s.pins.fclkRuns = true → s.fm.phase ≠ .frost → s.pins.hold = .none →
    ∃ t, exec .latchApply s = .next t ∧ t.latches = 0 ∧
      (∀ i, i < 16 → s.latches.getLsbD i = true → source s (16 + i) = .idle → source t (16 + i) = .pending) ∧
      (∀ y, (∀ i, i < 16 → s.latches.getLsbD i = true → y ≠ 16 + i) → source t y = source s y) ∧
      KeepsBut [.regs, .sources, .latches, .cores] s t) ∧
  (∀ (x c : Nat) (pre post : List (Nat × SrcState)) (s : State), evEn s = true → s.fm.phase ≠ .frost →
    s.sources = pre ++ (x, .pending) :: post →
    (∀ e, e ∈ pre → e.2 ≠ .pending ∨ bit s Reg.EV_SRC_EN 0 e.1 = false ∨ isReserved s e.1 = true ∨ pickCore s e.1 = none) →
    bit s Reg.EV_SRC_EN 0 x = true → isReserved s x = false → pickCore s x = some c →
    ∃ t, exec .eventRoute s = .next t ∧ (coreNo t c).reserved = some x ∧
      ((coreNo s c).run = .sleeping → (coreNo t c).pc = (coreNo s c).pc + 4 ∧
        (coreNo t c).run = (if (coreNo s c).step then .halted else .running)) ∧
      (post = [] → ∀ d, d ≠ c → coreNo t d = coreNo s d) ∧ t.sources = s.sources ∧ KeepsBut [.regs, .cores] s t)

/-- A handler never nests: whatever command runs, a core that holds an ACTIVE source or a reservation receives no other source until
it has completed the first, and a core in handler mode enters no handler. Routing leaves every source as it was, pending, where it
reserves none, and reserves one only for a core that holds none, that its `ROUTE` names and that stands at lower priority (R424). -/
def Obligations.HandlersNeverNest : Prop :=
  HoldsOne State.reset ∧
  (∀ (c : Instr) (s t : State), HoldsOne s → exec c s = .next t → HoldsOne t ∧
    ∀ (n : Fin 8) (x : Nat),
      ((coreNo s n.val).active = some x → (coreNo t n.val).reserved = none ∧
        ((coreNo t n.val).active = some x ∨ (coreNo t n.val).active = none)) ∧
      ((coreNo s n.val).reserved = some x →
        ((coreNo t n.val).reserved = some x ∧ (coreNo t n.val).active = none) ∨
        ((coreNo t n.val).reserved = none ∧ ((coreNo t n.val).active = some x ∨ (coreNo t n.val).active = none)))) ∧
  (∀ (n : Fin 8) (s : State), (coreNo s n.val).hm = true → exec (.handlerEntry n) s = .next s) ∧
  (∀ (s t : State), exec .eventRoute s = .next t → t.sources = s.sources ∧
    ∀ (n : Fin 8) (x : Nat), (coreNo t n.val).reserved = some x → (coreNo s n.val).reserved = some x ∨
      ((x, SrcState.pending) ∈ s.sources ∧ (coreNo s n.val).reserved = none ∧ (coreNo s n.val).active = none ∧
        bit s Reg.EV_SRC_EN 0 x = true ∧ (getF s Reg.EV_SRC_ROUTE 0 x).testBit n.val = true ∧ x < (coreNo s n.val).tpri))

/-- Traps are precise: whatever command makes a core take a trap, no general or special register of the core changes but those of the
trap, nothing enters its store buffer, and no bit variable changes; `tpc` holds the offset of the instruction, `TM` is
set and the core continues at `tvec`; `brk` shows `tcause` and `tval` written. `rti` in trap mode returns to `tpc` and clears `TM` (R418). A write of
`cst` that sets `TM` itself is no trap. -/
def Obligations.TrapsArePrecise : Prop :=
  (∀ (n : Fin 8) (c : Instr) (s t : State), (coreNo s n.val).tm = false → (∀ g, c ≠ .mfsrMtsr n .mtsr .cst g) →
    exec c s = .next t → (coreNo t n.val).tm = true →
    let k := coreNo s n.val
    let k' := coreNo t n.val
    k'.tpc = k.pc ∧ k'.pc = k.tvec ∧
      k'.g = k.g ∧ k'.rstack = k.rstack ∧ k'.dsp = k.dsp ∧ k'.dlo = k.dlo ∧ k'.dhi = k.dhi ∧ k'.ee = k.ee ∧ k'.hm = k.hm ∧
      k'.evec = k.evec ∧ k'.tvec = k.tvec ∧ k'.epc = k.epc ∧ k'.ecl = k.ecl ∧ k'.tpri = k.tpri ∧ k'.reserved = k.reserved ∧
      k'.active = k.active ∧ k'.sb <:+ k.sb ∧ t.bitVars = s.bitVars) ∧
  (∀ (n : Fin 8) (s : State), CoreRuns n s → (coreNo s n.val).tm = true →
    ∃ t, exec (.rti n) s = .next t ∧ (coreNo t n.val).pc = (coreNo s n.val).tpc ∧ (coreNo t n.val).tm = false) ∧
  (∀ (n : Fin 8) (imm : BitVec 32) (s : State), CoreRuns n s → (coreNo s n.val).tm = false →
    ∃ t, exec (.trapBrk n imm .brk) s = .next t ∧ (coreNo t n.val).tm = true ∧ (coreNo t n.val).tcause = 0x09 ∧
      (coreNo t n.val).tval.toNat = imm.toNat)

/-- Arithmetic and branches of a core: the result of R409 to the destination, none to `g0`; a branch to its target where its
condition holds; `call` and `ret` over a return stack of 64 entries, with a trap where it is full or empty (R409 to R411, R414,
R418). -/
def Obligations.CoreArithmeticAndBranches : Prop :=
  ∀ (n : Fin 8) (s : State), CoreRuns n s →
    let k := coreNo s n.val
    (∀ (op : CoreOp) (rd rs : Fin 16) (o : CoreOp2),
      (coreLegal op o (op2Val k o) = true → ∃ t, exec (.coreArithmetic n op rd rs o) s = .next t ∧
        CoreDid n (coreAt (withG k rd.val (coreResult op (gReg k rd.val) (gReg k rs.val) (op2Val k o))) (k.pc + 4)) [] s t) ∧
      (coreLegal op o (op2Val k o) = false → ∃ t, exec (.coreArithmetic n op rd rs o) s = .next t ∧
        CoreTrapped n 0x01 (leNat (rdBytes 0 s.tcm (n.val * 2 ^ 18 + k.pc.toNat) 4)) s t)) ∧
    (∀ (c : Fin 5) (r : Fin 16) (dst : BitVec 32), ∃ t, exec (.coreBranch n (.br c r dst)) s = .next t ∧
      (let taken := if brHolds c.val (gReg k r.val) then some dst else none
       CoreDid n (coreAt (loopAfter k taken) (taken.getD (k.pc + 4))) [] s t)) ∧
    (∀ dst : BitVec 32,
      (k.rstack.length < 64 → ∃ t, exec (.coreBranch n (.call dst)) s = .next t ∧
        (coreNo t n.val).rstack = (k.pc + 4) :: k.rstack ∧ (coreNo t n.val).pc = dst ∧ (coreNo t n.val).g = k.g ∧
        CoresKept n s t ∧ KeepsBut [.regs, .cores] s t) ∧
      (64 ≤ k.rstack.length → ∃ t, exec (.coreBranch n (.call dst)) s = .next t ∧ CoreTrapped n 0x05 k.rstack.length s t)) ∧
    (∀ dst rest, k.rstack = dst :: rest → ∃ t, exec (.coreBranch n .ret) s = .next t ∧
      (coreNo t n.val).rstack = rest ∧ (coreNo t n.val).pc = dst ∧ (coreNo t n.val).g = k.g ∧ CoresKept n s t ∧
      KeepsBut [.regs, .cores] s t) ∧
    (k.rstack = [] → ∃ t, exec (.coreBranch n .ret) s = .next t ∧ CoreTrapped n 0x05 0 s t)

/-- Memory of a core: `push` and stores enter the store buffer and the oldest takes effect at its commit; `pop` and loads give the
buffered bytes, or those in memory, in two pieces where they are not aligned; a load that a buffered store covers in part stalls, and is counted
once; one of the host waits while the link cannot take it; a store to a register writes it as any requester does; a bit variable is set, cleared or tested alone; an access out of bounds, a stack past its
limits and a parity failure trap (R408, R412, R413, R415, R416, R418, R420). -/
def Obligations.CoreMemoryAccesses : Prop :=
  (∀ (n : Fin 8) (s : State), CoreRuns n s →
    let k := coreNo s n.val
    (∀ rs : Fin 16, (k.dsp.toNat < k.dlo.toNat + 8 → ∃ t, exec (.push n rs) s = .next t ∧ CoreTrapped n 0x04 k.dsp.toNat s t) ∧
      (k.dlo.toNat + 8 ≤ k.dsp.toNat → k.dsp.toNat ≤ 0x40000 → k.dsp.toNat % 8 = 0 → k.sb.length < 4 →
        ∃ t, exec (.push n rs) s = .next t ∧
        CoreDid n (coreAt { k with sb := k.sb ++ [{ addr := tcmAddr (k.dsp.toNat - 8), bytes := natLE 8 (gReg k rs.val) }],
                                   dsp := k.dsp - 8 } (k.pc + 4)) [] s t)) ∧
    (∀ rs : Fin 16, k.dlo.toNat + 8 ≤ k.dsp.toNat → let a := tcmAddr (k.dsp.toNat - 8)
      (coreAccess s a 8 ≠ 0 → ∃ t, exec (.push n rs) s = .next t ∧ CoreTrapped n (coreAccess s a 8) a s t) ∧
      (coreAccess s a 8 = 0 → k.sb.length + (coreParts a 8).length ≤ 4 → ∃ t, exec (.push n rs) s = .next t ∧
        CoreDid n (coreAt { withStore k a (natLE 8 (gReg k rs.val)) with dsp := k.dsp - 8 } (k.pc + 4)) [] s t)) ∧
    (∀ rd : Fin 16, k.dsp.toNat < k.dhi.toNat → let a := tcmAddr k.dsp.toNat
      (∀ bad, coreAccess s a 8 ≠ 0 → ∃ t, exec (.pop n rd bad) s = .next t ∧ CoreTrapped n (coreAccess s a 8) a s t) ∧
      (LoadFree s n.val k a 8 → (coreGot s n.val a 8).1.any (·.2) = false → coreKind s a < 3 →
        (coreParts a 8).all (fun p => (coreFwd k p).isSome) = false →
        ∃ t, exec (.pop n rd true) s = .next t ∧ CoreTrapped n 0x07 a s t) ∧
      (LoadFree s n.val k a 8 → (coreGot s n.val a 8).1.any (·.2) = false → ∃ t, exec (.pop n rd false) s = .next t ∧
        coreNo t n.val = coreAt (withG { k with dsp := k.dsp + 8 } rd.val (leNat ((coreGot s n.val a 8).1.map (·.1)))) (k.pc + 4) ∧
        CoresKept n s t)) ∧
    (∀ rd : Fin 16, (∀ bad, k.dhi.toNat ≤ k.dsp.toNat → ∃ t, exec (.pop n rd bad) s = .next t ∧ CoreTrapped n 0x04 k.dsp.toNat s t) ∧
      (k.dsp.toNat < k.dhi.toNat → k.dsp.toNat + 8 ≤ 0x40000 → k.dsp.toNat % 8 = 0 →
        coreBlocked k (tcmAddr k.dsp.toNat, 8) = false → ∃ t, exec (.pop n rd false) s = .next t ∧
        CoreDid n (coreAt (withG { k with dsp := k.dsp + 8 } rd.val (leNat ((coreFwd k (tcmAddr k.dsp.toNat, 8)).getD
          (rdBytes 0 s.tcm (n.val * 2 ^ 18 + k.dsp.toNat) 8)))) (k.pc + 4)) [] s t)) ∧
    (∀ (size : Fin 4) (sg : Bool) (rd : Fin 16) (a : BitVec 64),
      (∀ bad err, coreAccess s a.toNat (2 ^ size.val) ≠ 0 → ∃ t, exec (.coreLoad n size sg rd a bad err) s = .next t ∧
        CoreTrapped n (coreAccess s a.toNat (2 ^ size.val)) a.toNat s t) ∧
      (∀ o err, coreMem s a.toNat = .tcm o → a.toNat % 2 ^ size.val = 0 → coreBlocked k (a.toNat, 2 ^ size.val) = false →
        ∃ t, exec (.coreLoad n size sg rd a false err) s = .next t ∧
        CoreDid n (coreAt (withG k rd.val (coreExtend (2 ^ size.val) sg (leNat ((coreFwd k (a.toNat, 2 ^ size.val)).getD
          (rdBytes 0 s.tcm (n.val * 2 ^ 18 + o) (2 ^ size.val)))))) (k.pc + 4)) [] s t) ∧
      (∀ o err, coreMem s a.toNat = .tcm o → a.toNat % 2 ^ size.val = 0 → youngest k (a.toNat, 2 ^ size.val) = none →
        ∃ t, exec (.coreLoad n size sg rd a true err) s = .next t ∧ CoreTrapped n 0x07 a.toNat s t) ∧
      (∀ x bad, coreMem s a.toNat = .dev x → a.toNat % 2 ^ size.val = 0 → k.sb = [] →
        (coreKind s a.toNat = 5 → hostOpen s = true ∧ s.hl.failed.contains (.core n.val) = false) → (devRead s x (2 ^ size.val) .clean 0).1.any (·.2) = false →
        ∃ t, exec (.coreLoad n size sg rd a bad false) s = .next t ∧
        CoreDid n (coreAt (withG k rd.val (coreExtend (2 ^ size.val) sg
          (leNat ((devRead s x (2 ^ size.val) .clean 0).1.map (·.1))))) (k.pc + 4)) [.free, .fm, .sources, .chans] s t)) ∧
    (∀ (size : Fin 4) (sg : Bool) (rd : Fin 16) (a : BitVec 64) (bad err : Bool), LoadFree s n.val k a.toNat (2 ^ size.val) →
      let got := coreGot s n.val a.toNat (2 ^ size.val)
      let fwd := (coreParts a.toNat (2 ^ size.val)).all fun p => (coreFwd k p).isSome
      let near := decide (coreKind s a.toNat < 3)
      (got.1.any (·.2) = false → (bad && near && !fwd) = false → (err && !near && !fwd) = false →
        ∃ t, exec (.coreLoad n size sg rd a bad err) s = .next t ∧
          coreNo t n.val = coreAt (withG k rd.val (coreExtend (2 ^ size.val) sg (leNat (got.1.map (·.1))))) (k.pc + 4) ∧
          CoresKept n s t) ∧
      (k.tm = false → got.1.any (·.2) = true → ∃ t, exec (.coreLoad n size sg rd a bad err) s = .next t ∧
        coreNo t n.val = trapped k 0x06 a.toNat ∧ CoresKept n s t) ∧
      (k.tm = false → got.1.any (·.2) = false → (bad && near && !fwd) = true → ∃ t, exec (.coreLoad n size sg rd a bad err) s = .next t ∧
        coreNo t n.val = trapped k 0x07 a.toNat ∧ CoresKept n s t) ∧
      (k.tm = false → got.1.any (·.2) = false → (bad && near && !fwd) = false → (err && !near && !fwd) = true →
        ∃ t, exec (.coreLoad n size sg rd a bad err) s = .next t ∧ coreNo t n.val = trapped k 0x08 a.toNat ∧ CoresKept n s t)) ∧
    (∀ (size : Fin 4) (sg : Bool) (rd : Fin 16) (a : BitVec 64) (bad err : Bool), coreAccess s a.toNat (2 ^ size.val) = 0 →
      (coreParts a.toNat (2 ^ size.val)).any (coreBlocked k) = false →
      ((coreParts a.toNat (2 ^ size.val)).any (coreHeld s n.val k) = true → ∃ t, exec (.coreLoad n size sg rd a bad err) s = .next t ∧
        (coreNo t n.val = k ∨ coreNo t n.val = { k with hostWait := true }) ∧
        ((coreParts a.toNat (2 ^ size.val)).any (coreHost s k) = true → hostOpen s = false →
          coreNo t n.val = { k with hostWait := true }) ∧ CoresKept n s t ∧ KeepsBut [.cores] s t) ∧
      ((coreParts a.toNat (2 ^ size.val)).any (coreHeld s n.val k) = false →
        (coreParts a.toNat (2 ^ size.val)).any (coreHost s k) = true → s.hl.failed.contains (.core n.val) = true →
        ∃ t, exec (.coreLoad n size sg rd a bad err) s = .next t ∧ CoreTrapped n 0x08 a.toNat s t ∧
          t.hl.failed.contains (.core n.val) = false)) ∧
    (∀ (size : Fin 4) (sg : Bool) (rd : Fin 16) (a : BitVec 64) (bad err : Bool), coreAccess s a.toNat (2 ^ size.val) = 0 →
      (coreParts a.toNat (2 ^ size.val)).any (coreBlocked k) = true →
      (k.loadHeld = false → ∃ t, exec (.coreLoad n size sg rd a bad err) s = .next t ∧
        coreNo t n.val = { k with loadHeld := true } ∧ Counted Reg.SC_CORE_CNT_SB_PARTIAL 0 n.val 1 s t ∧ CoresKept n s t ∧
        KeepsBut [.regs, .cores] s t) ∧
      (k.loadHeld = true → exec (.coreLoad n size sg rd a bad err) s = .next s)) ∧
    (∀ (size : Fin 4) (rs : Fin 16) (a : BitVec 64), coreAccess s a.toNat (2 ^ size.val) = 0 →
      k.sb.length + (coreParts a.toNat (2 ^ size.val)).length ≤ 4 → ∃ t, exec (.coreStore n size rs a) s = .next t ∧
        CoreDid n (coreAt (withStore k a.toNat (natLE (2 ^ size.val) (gReg k rs.val))) (k.pc + 4)) [] s t) ∧
    (∀ (size : Fin 4) (rs : Fin 16) (a : BitVec 64),
      (coreAccess s a.toNat (2 ^ size.val) ≠ 0 → ∃ t, exec (.coreStore n size rs a) s = .next t ∧
        CoreTrapped n (coreAccess s a.toNat (2 ^ size.val)) a.toNat s t) ∧
      (coreAccess s a.toNat (2 ^ size.val) = 0 → a.toNat % 2 ^ size.val = 0 → k.sb.length < 4 →
        ∃ t, exec (.coreStore n size rs a) s = .next t ∧
        CoreDid n (coreAt { k with sb := k.sb ++ [{ addr := a.toNat, bytes := natLE (2 ^ size.val) (gReg k rs.val) }] }
          (k.pc + 4)) [] s t) ∧
      (coreAccess s a.toNat (2 ^ size.val) = 0 → 4 ≤ k.sb.length → exec (.coreStore n size rs a) s = .next s)) ∧
    (∀ (op : BitOp) (rd rs : Fin 16), let b := gReg k rs.val
      (524288 ≤ b → ∃ t, exec (.bitVariable n op rd rs) s = .next t ∧ CoreTrapped n 0x02 b s t) ∧
      (b < 524288 → ∃ t, exec (.bitVariable n op rd rs) s = .next t ∧
        bitVar t b = (match op with | .bset => true | .bclr => false | .btst => bitVar s b) ∧
        (∀ c, c ≠ b → bitVar t c = bitVar s c) ∧
        CoreDid n (coreAt (if op = .btst then withG k rd.val (b2n (bitVar s b)) else k) (k.pc + 4)) [.bitVars] s t)) ∧
    (∀ rd rs : Fin 16, let b := gReg k rs.val
      (524288 ≤ b → ∃ t, exec (.btas n rd rs) s = .next t ∧ CoreTrapped n 0x02 b s t) ∧
      (b < 524288 → ∃ t, exec (.btas n rd rs) s = .next t ∧ bitVar t b = true ∧ (∀ c, c ≠ b → bitVar t c = bitVar s c) ∧
        CoreDid n (coreAt (withG k rd.val (b2n (bitVar s b))) (k.pc + 4)) [.bitVars] s t))) ∧
  (∀ (n : Fin 8) (err : Bool) (e : CoreStore) (rest : List CoreStore) (s : State), (coreNo s n.val).sb = e :: rest →
    (∀ o, coreMem s e.addr = .tcm o → ∃ t, exec (.coreStoreCommit n err) s = .next t ∧
      coreNo t n.val = { coreNo s n.val with sb := rest } ∧ rdBytes 0 t.tcm (n.val * 2 ^ 18 + o) e.bytes.length = e.bytes ∧
      (∀ a, Apart (n.val * 2 ^ 18 + o) e.bytes.length a 1 → mget 0 t.tcm a = mget 0 s.tcm a) ∧
      CoresKept n s t ∧ KeepsBut [.tcm, .cores] s t) ∧
    (∀ o, coreMem s e.addr = .bits o → ∃ t, exec (.coreStoreCommit n err) s = .next t ∧
      coreNo t n.val = { coreNo s n.val with sb := rest } ∧ rdBytes 0 t.bitVars o e.bytes.length = e.bytes ∧
      (∀ a, Apart o e.bytes.length a 1 → mget 0 t.bitVars a = mget 0 s.bitVars a) ∧
      CoresKept n s t ∧ KeepsBut [.bitVars, .cores] s t) ∧
    (∀ a, coreMem s e.addr = .dev a → exec (.coreStoreCommit n false) s =
      .next (devPut (updCore s n.val fun k => { k with sb := rest }) a e.bytes)) ∧
    (∀ o, coreMem s e.addr = .reg o → let u := updCore s n.val fun k => { k with sb := rest }
      let m := e.bytes.length
      (windowShut s (1 + n.val) o m = false → exec (.coreStoreCommit n false) s =
        .next (regWrite (touchWindow u (1 + n.val) o m) (1 + n.val) o m (leNat e.bytes))) ∧
      (windowShut s (1 + n.val) o m = true → exec (.coreStoreCommit n err) s =
        .next (waitWindow s (getF s Reg.QM_SEL_RING (1 + n.val) 0)))) ∧
    (((∃ a, coreMem s e.addr = .dev a) ∨ ∃ o, coreMem s e.addr = .reg o ∧ windowShut s (1 + n.val) o e.bytes.length = false) → (coreNo s n.val).tm = false →
      ∃ t, exec (.coreStoreCommit n true) s = .next t ∧
        coreNo t n.val = trapped { coreNo s n.val with sb := rest } 0x08 e.addr ∧ t.mem = s.mem))

/-- The rest of a core: a handler is entered with the source's core in handler mode; claim, completion and return follow R422 and
R426; `wfe` sleeps unless a source is reserved; special registers are read and written; `brk` traps quietly and `trap` with a
report, and so does an instruction that is illegal or fails parity as it is fetched (that these two stand beside `trap`, log 28); fences wait for the store buffer; the debug port halts a core (R407, R417 to R420, R426, R428, R431). -/
def Obligations.CoreControl : Prop :=
  (∀ (n : Fin 8) (s : State), let k := coreNo s n.val
    (k.run = .running → k.reserved ≠ none → k.ee = true → k.hm = false → ∃ t, exec (.handlerEntry n) s = .next t ∧
      coreNo t n.val = { k.noLoop with epc := k.pc, hm := true, ee := false, loadHeld := false, hostWait := false, pc := k.evec } ∧
      Counted Reg.EV_CNT_DELIVERED 0 0 1 s t ∧ CoresKept n s t ∧ KeepsBut [.regs, .cores] s t) ∧
    (s.sec.scopes.getLsbD 0 = true → k.run = .running ∨ k.run = .sleeping → ∃ t, exec (.debugCoreHalt n) s = .next t ∧
      coreNo t n.val = { k with run := .halted } ∧ CoresKept n s t ∧ KeepsBut [.cores] s t)) ∧
  (∀ (n : Fin 8) (s : State), CoreRuns n s →
    let k := coreNo s n.val
    (∀ (g : Fin 16) (x : Nat), k.reserved = some x →
      (source s x = .pending → ∃ t, exec (.eclClaim n g) s = .next t ∧ source t x = .active ∧
        CoreDid n (coreAt (withG { k with reserved := none, active := some x, ecl := BitVec.ofNat 11 x } g.val x) (k.pc + 4))
          [.sources] s t) ∧
      (source s x ≠ .pending → ∃ t, exec (.eclClaim n g) s = .next t ∧ Counted Reg.EV_CNT_SPURIOUS 0 0 1 s t ∧
        CoreDid n (coreAt (withG { k with reserved := none, ecl := 1024 } g.val 1024) (k.pc + 4)) [] s t)) ∧
    (∀ g : Fin 16, (k.reserved = none → ∃ t v, exec (.eclClaim n g) s = .next t ∧ v < 2048 ∧
        CoreDid n (coreAt (withG k g.val v) (k.pc + 4)) [.free] s t) ∧
      exec (.mfsrMtsr n .mfsr .ecl g) s = exec (.eclClaim n g) s) ∧
    (∀ x : BitVec 64,
      (k.active = some x.toNat → ∃ t, exec (.evdone n x) s = .next t ∧
        source t x.toNat = (match source s x.toNat with | .active => .idle | .activePending => .pending | y => y) ∧
        CoreDid n (coreAt { k with active := none } (k.pc + 4)) [.sources] s t) ∧
      (k.active ≠ some x.toNat → ∃ t, exec (.evdone n x) s = .next t ∧ Counted Reg.EV_CNT_BAD_DONE 0 0 1 s t ∧
        CoreDid n (coreAt k (k.pc + 4)) [] s t)) ∧
    (k.tm = true → ∃ t, exec (.rti n) s = .next t ∧ CoreDid n (coreAt { k.noLoop with tm := false } k.tpc) [] s t) ∧
    (k.tm = false → k.hm = true → k.reserved = none → ∃ t, exec (.rti n) s = .next t ∧
      CoreDid n (coreAt { k.noLoop with hm := false, ee := true, active := none } k.epc) [.sources] s t) ∧
    (k.tm = false → k.hm = true → k.reserved ≠ none → ∃ t, exec (.rti n) s = .next t ∧
      Counted Reg.EV_CNT_CHAINED 0 0 1 s t ∧ CoreDid n (coreAt { k.noLoop with active := none } k.evec) [.sources] s t) ∧
    (k.tm = false → k.hm = false → ∃ t, exec (.rti n) s = .next t ∧
      CoreTrapped n 0x01 (leNat (rdBytes 0 s.tcm (n.val * 2 ^ 18 + k.pc.toNat) 4)) s t) ∧
    (k.reserved = none → ∃ t, exec (.wfe n) s = .next t ∧ coreNo t n.val = { k with run := .sleeping } ∧ CoresKept n s t ∧
      KeepsBut [.cores] s t) ∧
    (k.reserved ≠ none → ∃ t, exec (.wfe n) s = .next t ∧ CoreDid n (coreAt k (k.pc + 4)) [] s t) ∧
    (∀ (r : CoreSr) (g : Fin 16), r ≠ .ecl → ∃ t, exec (.mfsrMtsr n .mfsr r g) s = .next t ∧
      CoreDid n (coreAt (withG k g.val (srValue k r)) (k.pc + 4)) [] s t) ∧
    (∀ (r : CoreSr) (g : Fin 16), ∃ t, exec (.mfsrMtsr n .mtsr r g) s = .next t ∧
      CoreDid n (coreAt (srWrite k r (gReg k g.val)) (k.pc + 4)) [] s t) ∧
    (∀ v : BitVec 32,
      (k.tm = false → ∃ t, exec (.trapBrk n v .brk) s = .next t ∧ coreNo t n.val = trapped k 0x09 v.toNat ∧ CoresKept n s t ∧
        KeepsBut [.cores] s t) ∧
      (∃ t c x, exec (.trapBrk n v .trap) s = .next t ∧ c < 256 ∧ CoreTrapped n c x s t) ∧
      (∃ t, exec (.trapBrk n v .illegal) s = .next t ∧
        CoreTrapped n 0x01 (leNat (rdBytes 0 s.tcm (n.val * 2 ^ 18 + k.pc.toNat) 4)) s t) ∧
      (∃ t, exec (.trapBrk n v .fetchParity) s = .next t ∧ CoreTrapped n 0x07 (tcmAddr k.pc.toNat) s t)) ∧
    (k.sb = [] → ∃ t, exec (.fence n) s = .next t ∧ CoreDid n (coreAt k (k.pc + 4)) [] s t) ∧
    (k.sb = [] → ∃ t, exec (.fenceI n) s = .next t ∧ CoreDid n (coreAt k.noLoop (k.pc + 4)) [] s t) ∧
    (k.sb ≠ [] → exec (.fence n) s = .next s ∧ exec (.fenceI n) s = .next s))

/-! ### Resets, faults, bring-up, security, heat and power (R432 to R496, R510 to R521) -/

/-- Resets of the device: `PERST_N`, a brown-out, a class 4 and the debug port start it over from S0 with their cause; all but the
flash, the host's memory and the edge latches is as at reset. A hold ends with its supplies, its readings or `PERST_N` (R448, R457,
R462, R510, R515, R521). -/
def Obligations.DeviceResets : Prop :=
  ∀ s : State,
    (s.pins.hold = .none ∨ s.pins.hold = .perst →
      (s.fm.phase ≠ .devPending → ∃ t, exec (.conventionalReset false) s = .next t ∧ StartsOver 2 0 .perst [] s t ∧
        t.pins.perstLow = true) ∧
      (s.fm.phase = .devPending → ∃ t, exec (.conventionalReset false) s = .next t ∧
        StartsOver s.fm.resetCause s.fm.cause .perst [] s t ∧ t.pins.perstLow = true)) ∧
    (s.pins.hold = .thermal ∨ s.pins.hold = .brownOut → ∃ t, exec (.conventionalReset false) s = .next t ∧
      t.pins = { s.pins with perstLow := true } ∧ KeepsBut [.pins] s t) ∧
    (∃ t, exec (.conventionalReset true) s = .next t ∧
      t.pins = { s.pins with perstLow := false, hold := if s.pins.hold = .perst then .none else s.pins.hold } ∧
      KeepsBut [.pins] s t) ∧
    (∀ r, (s.pins.hold ≠ .brownOut → ∃ t, exec (.brownOut r) s = .next t ∧ StartsOver 1 0 .brownOut [] s t) ∧
      (s.pins.hold = .brownOut → exec (.brownOut r) s = .next s)) ∧
    (s.pins.hold = .brownOut → ∃ t, exec .brownOutRelease s = .next t ∧
      t.pins.hold = (if s.pins.perstLow then .perst else .none) ∧ KeepsBut [.pins] s t) ∧
    (s.pins.hold = .thermal →
      (20000 ≤ s.hv.cool → ∃ t, exec .thermalTripRelease s = .next t ∧
        t.pins.hold = (if s.pins.perstLow then .perst else .none) ∧ t.pins.thermTripLow = false ∧ KeepsBut [.pins] s t) ∧
      (s.hv.cool < 20000 → exec .thermalTripRelease s = .next s)) ∧
    (s.pins.hold = .none →
      (s.sec.scopes ≠ 0 → ∃ t, exec .debugReset s = .next t ∧ StartsOver 6 0 .none [] s t) ∧
      (s.sec.scopes = 0 → exec .debugReset s = .next s)) ∧
    (s.fm.phase ≠ .devPending → exec .devDelayExpiry s = .next s) ∧
    (s.fm.phase = .devPending →
      (s.fm.since + 1000000 * fld s Reg.FM_CTL_DEV_DELAY ≤ nowNs s → ∃ t, exec .devDelayExpiry s = .next t ∧
        StartsOver s.fm.resetCause s.fm.cause .none [] s t ∧
        t.sec.queue.length = s.sec.queue.length + 1 ∧ (t.sec.queue.getLast?.map fun q => q.bytes) = some (errorLog s)) ∧
      (nowNs s < s.fm.since + 1000000 * fld s Reg.FM_CTL_DEV_DELAY → exec .devDelayExpiry s = .next s))

/-- Resets of the function: before S8 they return configuration space, the MSI-X table and `GC_ENABLE` to their reset values and
touch nothing else; at S8 they also drop every ring and what it had fetched, and set event source 32 or 33 (R352, R457, R501). -/
def Obligations.FunctionResets : Prop :=
  ∀ s : State,
    (s.boot.stage ≠ 8 →
      (hostThere s = true → ∃ t, exec .functionLevelReset s = .next t ∧ t.hl.bme = false ∧ t.hl.d3 = false ∧ t.hl.msixEn = false ∧
        t.hl.up = s.hl.up ∧ ConfigAsAtReset s t ∧ KeepsBut [.regs, .hl] s t) ∧
      (s.pins.hold = .none → ∃ t, exec .hotReset s = .next t ∧ t.hl.bme = false ∧ t.hl.d3 = false ∧ t.hl.msixEn = false ∧
        t.hl.up = false ∧ ConfigAsAtReset s t ∧ KeepsBut [.regs, .hl] s t)) ∧
    (s.boot.stage = 8 → s.pins.hold = .none →
      (hostThere s = true → ∃ t, exec .functionLevelReset s = .next t ∧ t.rings = [] ∧ t.descs = [] ∧ t.bursts = [] ∧
        t.stage = [] ∧ t.hl.np = [] ∧ t.hl.stalled = [] ∧ (source t 32 = .pending ∨ source t 32 = .activePending)) ∧
      (∃ t, exec .hotReset s = .next t ∧ t.rings = [] ∧ t.descs = [] ∧ t.bursts = [] ∧
        t.stage = [] ∧ t.hl.np = [] ∧ t.hl.stalled = [] ∧ (source t 33 = .pending ∨ source t 33 = .activePending)))

/-- Fault reports: before S8 nothing is taken; a report joins the queue behind those that wait, equal ones too, and the fault manager takes
the one at the head, or, where no unit has a new one, only that; a word of a scratchpad that failed its check is counted and stands
poisoned, a bundle's failure is counted; a report of class 0 is written to the log, or counted lost where 64 records are unread, with one
message from `LOG_THRESH` unread records on; one whose recovery is under way
is merged; loss of the PLL's lock resets the device at once (R191, R288, R432, R434, R437, R447, R448, R450, R452). -/
def Obligations.FaultReports : Prop :=
  ∀ (r : Report) (s : State),
    (ready s = false → ∀ f, exec (.faultReport f) s = .next s) ∧
    (ready s = true → exec (.faultReport none) s = .next (takeReport s)) ∧
    (s.fm.intake = [] → takeReport s = s) ∧
    (let u := parityMark s r
     (ready s = true → ∃ v, exec (.faultReport (some r)) s = .next (takeReport v) ∧ Reported u v r ∧ KeepsBut [.fm] u v) ∧
     (r.unitKind = .tile → r.unit < 272 →
       (r.cause = 0x42 → Counted Reg.TA_CNT_SP_PARITY r.unit 0 1 s u ∧
         ∀ t, logicalOf s r.unit = some t → mget false u.spPoison (spAddr t (r.loc % 0x200000) / 8) = true) ∧
       (r.cause = 0x43 → Counted Reg.TA_CNT_IPARITY r.unit 0 1 s u ∧ u.spPoison = s.spPoison)) ∧
     ((r.cause ≠ 0x42 ∧ r.cause ≠ 0x43) ∨ r.unitKind ≠ .tile ∨ 272 ≤ r.unit → u = s) ∧ KeepsBut [.regs, .spPoison, .sources] s u) ∧
    (ready s = true → ∀ (f : Option Report) (w : Waiting) (rest : List Waiting), s.fm.intake = w :: rest →
      w.esc = false → isProgram w.rep.cause = false → (∃ k, k ∈ s.fm.recoveries ∧ k.rep.cause = w.rep.cause ∧
          k.rep.unitKind = w.rep.unitKind ∧ k.rep.unit = w.rep.unit ∧ k.rep.loc = w.rep.loc) → ∃ t, exec (.faultReport f) s = .next t ∧
        Counted Reg.FM_CNT_ERRORS 0 0 1 s t ∧ Counted Reg.FM_CNT_MERGED 0 0 1 s t ∧ (∀ x, x ∈ rest → x ∈ t.fm.intake) ∧
        (f = none → t.fm.intake = rest) ∧
        t.fm.recoveries = s.fm.recoveries ∧ t.fm.phase = s.fm.phase) ∧
    (ready s = true → s.fm.intake = [] →
      (0x48 ≤ r.cause → r.cause ≤ 0x4C → r.job = 0 → s.fm.recoveries = [] → s.fm.phase = .normal →
        ∃ t, exec (.faultReport (some r)) s = .next t ∧ Counted Reg.FM_CNT_ERRORS 0 0 1 s t ∧
          (unread s < 64 → ThreshNoted s t ∧ logTail t = (logTail s + 1) % 2 ^ 16 ∧ logHead t = logHead s ∧
            ∀ i, i < 4 → getF t Reg.FM_LOG 0 (4 * (logTail s % 64) + i) = (logWords (cnt s Reg.FM_CNT_ERRORS) r (nowNs s) r.aux
              { cls := 0, escalated := false, nested := false, requested := false }).getD i 0) ∧
          (64 ≤ unread s → t.fm = s.fm ∧ logTail t = logTail s ∧ Counted Reg.FM_CNT_LOST 0 0 1 s t ∧ bit t Reg.FM_STAT_OVERFLOW 0 0 = true) ∧
          KeepsBut [.regs, .hostMem, .fm, .sources, .hl] s t) ∧
      (isProgram r.cause = false → (∃ k, k ∈ s.fm.recoveries ∧ k.rep.cause = r.cause ∧ k.rep.unitKind = r.unitKind ∧
          k.rep.unit = r.unit ∧ k.rep.loc = r.loc) → ∃ t, exec (.faultReport (some r)) s = .next t ∧
        Counted Reg.FM_CNT_ERRORS 0 0 1 s t ∧ Counted Reg.FM_CNT_MERGED 0 0 1 s t ∧ t.fm.intake = [] ∧
        t.fm.recoveries = s.fm.recoveries ∧ t.fm.phase = s.fm.phase ∧ KeepsBut [.regs, .spPoison, .fm, .sources] s t) ∧
      (r.cause = 0x4D → s.fm.recoveries = [] → s.fm.phase ≠ .devPending →
        ∃ t, exec (.faultReport (some r)) s = .next t ∧ StartsOver 3 0x4D .none [] s t))

/-- Frost and thaw, the request of a device reset, the retry of a table and the log's acknowledgement: a frost resets the left
column of R443; thaw harvests the positions that failed, of those not harvested at the last cold S5; a further request of a reset copies the
rows that have become suspect since; `SETTLE_MS` ends the recovery (R435, R441 to R448, R452). -/
def Obligations.FrostAndThaw : Prop :=
  ∀ s : State,
    (answers s 0x300020 = true → ready s = true →
      (s.fm.phase = .normal → ∃ t, exec .frost s = .next t ∧ t.fm.phase = .frost ∧ t.fm.quarantined = [] ∧ t.fm.since = nowNs s ∧
        t.tiles = [] ∧ t.iram = [] ∧ t.tcm = [] ∧ t.spPoison = [] ∧ t.bitVars = [] ∧ t.sources = [] ∧
        (∀ e c, sctx t e c = { SCtx.free with reads := (sctx t e c).reads } ∧
          ∀ x, x ∈ (sctx t e c).reads → x.discard = true ∧ x.tag ≠ none) ∧
        (∀ a, spBase ≤ a → mget 0 t.mem a = 0) ∧
        (∀ n, (coreNo t n).run = Core.zero.run ∧ (coreNo t n).entry = (coreNo s n).entry ∧ (coreNo t n).g = Core.zero.g) ∧
        (∀ b, (engine t b).slots = [] ∧ (engine t b).ready = false)) ∧
      (s.fm.phase = .frost → ∃ t, exec .frost s = .next t ∧ Counted Reg.FM_CNT_ERRORS 0 0 1 s t ∧
        Counted Reg.FM_CNT_MERGED 0 0 1 s t ∧ KeepsBut [.regs] s t) ∧
      (s.fm.phase = .devPending → ∃ t, exec .frost s = .next t ∧ Counted Reg.FM_CNT_ERRORS 0 0 1 s t ∧ KeepsBut [.regs] s t) ∧
      (s.fm.phase ≠ .devPending → ∃ t, exec .devReset s = .next t ∧
        t.fm = { s.fm with phase := .devPending, devReq := true, since := nowNs s, cause := 0, resetCause := 4, notified := t.fm.notified } ∧
        KeepsBut [.regs, .hostMem, .sec, .fm, .sources, .hl] s t) ∧
      (s.fm.phase = .devPending → exec .devReset s = .next (writeRepair s (repairRows s true)))) ∧
    (∃ q, (writeRepair s (repairRows s true)).sec.queue = s.sec.queue ++ [q] ∧ KeepsBut [.sec] s (writeRepair s (repairRows s true))) ∧
    (∀ failing : List (Fin 272), s.fm.phase = .frost → ready s = true → ∃ t, exec (.thaw failing) s = .next t ∧
      (let failed := s.grid.cold ++ ((failing.map (·.val)).filter fun p => !s.grid.cold.contains p).eraseDups
       t.grid = { failed := failed, cold := s.grid.cold, rows := gridRows failed,
                  enabled := min (s.sec.licence.elim 0 (·.tiles)) (16 * gridRows failed) })) ∧
    (∀ failing : List (Fin 272), s.fm.phase ≠ .frost → exec (.thaw failing) s = .next s) ∧
    (s.fm.phase = .normal → s.fm.thawNs + 1000000 * fld s Reg.FM_CTL_SETTLE_MS ≤ nowNs s →
      ∃ t, exec .settleExpiry s = .next t ∧
        t.fm = { s.fm with recoveries := s.fm.recoveries.filter fun r => !(r.holds && r.cls = 3) } ∧ KeepsBut [.fm] s t) ∧
    (s.fm.phase ≠ .normal → exec .settleExpiry s = .next s) ∧
    (∀ b : Fin 32, answers s 0x300020 = true →
      ((engine s b.val).lost = none → exec (.retryTbl b) s = .next s) ∧
      (∀ col, (engine s b.val).lost = some col →
        (reloadEntries s b.val (engine s b.val).lostOld col = none → ∃ t, exec (.retryTbl b) s = .next t ∧
          Reported s t (mkReport 0x45 .boundary b.val col 0 0) ∧ KeepsBut [.fm] s t) ∧
        (∀ u, reloadEntries s b.val (engine s b.val).lostOld col = some u → exec (.retryTbl b) s = .next (settle u)))) ∧
    (∀ h : BitVec 16, answers s 0x300018 = true →
      ((h.toNat + 2 ^ 16 - logHead s) % 2 ^ 16 ≤ unread s → ∃ t, exec (.fmLogAck h) s = .next t ∧ logHead t = h.toNat ∧
        ThreshNoted s t ∧ RegsKeptBut [fldKey Reg.FM_LOG_IDX_HEAD 0 0] s t ∧ KeepsBut [.regs, .hostMem, .fm, .hl] s t ∧
        (unread t < fld s Reg.FM_CTL_LOG_THRESH ∨ s.fm.notified = true ∨ bit s Reg.FM_CTL_IRQ_EN 0 0 = false →
          KeepsBut [.regs, .fm] s t)) ∧
      (unread s < (h.toNat + 2 ^ 16 - logHead s) % 2 ^ 16 → exec (.fmLogAck h) s = .next s))

/-- Bring-up: each stage passes to the next and writes its record, or fails with its code and stops; S2 trains the link beside the
others, and S8 follows S7 once the link is there (R93, R455 to R473, R478). -/
def Obligations.BringUp : Prop :=
  ∀ s : State,
    (inStage s 0 = true → ∀ (m : Fin 4) (us : Nat),
      (∃ t, exec (.stageS0 true true m us) s = .next t ∧ t.boot.stage = 1 ∧ t.boot.fail = false ∧
        t.boot.mode = (if m.val = 3 then 0 else m.val) ∧ t.clk.tb = 0 ∧ t.clk.pllLocked = true ∧ t.pins.fclkRuns = true ∧
        t.pins.resetOutLow = false ∧ t.pins.spiResetLow = false ∧
        fld t Reg.CK_PLL_STAT_LOCK_US = min 65535 us ∧ StageRecord 0 none t ∧ KeepsBut [.regs, .free, .clk, .pins, .boot, .sec] s t) ∧
      (∀ lock, ∃ t, exec (.stageS0 false lock m us) s = .next t ∧ StageFails 0 0x02 s t) ∧
      (∃ t, exec (.stageS0 true false m us) s = .next t ∧ StageFails 0 0x01 s t)) ∧
    (inStage s 1 = true → s.boot.waitHost = false → ∀ (a b : Crypto) (dev : BitVec 128) (v r : Bool),
      (∃ t, exec (.stageS1 false a b dev v r) s = .next t ∧ StageFails 1 0x11 s t) ∧
      (s.boot.mode ≠ 1 → bundleStatus (slotBytesIn s 0) a = 0 →
        (bundleStatus (slotBytesIn s 1) b ≠ 0 ∨ numAt (slotBytesIn s 1) 8 4 ≤ numAt (slotBytesIn s 0) 8 4) →
        ∃ t, exec (.stageS1 true a b dev v r) s = .next t ∧ Booted 0 (slotBytesIn s 0) t ∧ t.sec.idValid = (v && r) ∧
          t.sec.chal = Config.randomChallenge s.sec.draws) ∧
      (s.boot.mode ≠ 1 → bundleStatus (slotBytesIn s 1) b = 0 →
        (bundleStatus (slotBytesIn s 0) a ≠ 0 ∨ numAt (slotBytesIn s 0) 8 4 < numAt (slotBytesIn s 1) 8 4) →
        ∃ t, exec (.stageS1 true a b dev v r) s = .next t ∧ Booted 1 (slotBytesIn s 1) t ∧ t.sec.idValid = (v && r)) ∧
      (bundleStatus (slotBytesIn s 0) a ≠ 0 → bundleStatus (slotBytesIn s 1) b ≠ 0 →
        ∃ t, exec (.stageS1 true a b dev v r) s = .next t ∧
          (s.boot.mode = 0 → StageFails 1 0x10 s t) ∧
          (s.boot.mode ≠ 0 → t.boot.stage = 1 ∧ t.boot.waitHost = true ∧ RegsKeptBut [fldKey Reg.HV_FLASH_STAT_SECTOR 0 0] s t ∧
            KeepsBut [.regs, .boot, .sec] s t)) ∧
      (s.boot.mode = 1 → ∃ t, exec (.stageS1 true a b dev v r) s = .next t ∧ t.boot.stage = 1 ∧ t.boot.waitHost = true)) ∧
    (s.pins.hold = .none → 3 ≤ s.boot.stage → s.boot.linkDone = false → ∀ (speed width : Fin 16) (flit : Bool) (tags : Fin 4),
      ∃ t, exec (.stageS2 speed width flit tags) s = .next t ∧ t.boot.linkDone = true ∧ t.boot.stage = s.boot.stage ∧
        t.hl.up = true ∧ t.hl.speed = speed.val % 8 ∧ t.hl.width = width.val ∧ t.hl.flit = flit ∧ t.hl.tags = tags.val ∧
        StageRecord 2 none t ∧ KeepsBut [.regs, .pins, .boot, .sec, .hl] s t) ∧
    (s.boot.linkDone = true → ∀ speed width flit tags, exec (.stageS2 speed width flit tags) s = .next s) ∧
    (inStage s 3 = true → ∀ n : Nat,
      (n < 256 → ∃ t, exec (.stageS3 n) s = .next t ∧ StageFails 3 0x30 s t) ∧
      (256 ≤ n → ∃ t, exec (.stageS3 n) s = .next t ∧ t.boot.stage = 4 ∧ t.boot.fail = false ∧ StageRecord 3 none t ∧
        ∀ r, r ∈ recordRows s 0 → RowCared r t)) ∧
    (inStage s 4 = true → ∀ rows spares, ∃ t, exec (.stageS4 rows spares) s = .next t ∧ t.mem = [] ∧ t.blocks = [] ∧
      (∀ r : Fin 256 × Fin 16 × Nat, r ∈ rows → r.2.2 < 12288 → RowCared (r.1.val, r.2.1.val, r.2.2) t) ∧
      (let frames := (t.dram.badRows.flatMap fun r => (upto 4).map fun i => frameOf t.dram (r.2.2 * 64 + r.2.1 * 4 + i)).eraseDups
       (frames.length ≤ 256 → t.boot.stage = 5 ∧ t.boot.fail = false ∧ StageRecord 4 none t) ∧
       (256 < frames.length → t.boot.stage = 4 ∧ t.boot.fail = true ∧ t.boot.failCode = 0x40 ∧ StageRecord 4 (some 0x40) t))) ∧
    (inStage s 5 = true → ∀ (failed : List (Fin 272)) (u : Option (UnitKind × Nat)), ∃ t, exec (.stageS5 failed u) s = .next t ∧
      (let bad := (failed.map (·.val)).eraseDups
       t.grid.failed = bad ∧ t.grid.cold = bad ∧ t.grid.rows = gridRows bad ∧ t.tiles = [] ∧ t.iram = [] ∧ t.spPoison = [] ∧ t.bitVars = [] ∧
       (u.isSome = true → t.boot.fail = true ∧ t.boot.failCode = 0x50 ∧ StageRecord 5 (some 0x50) t) ∧
       (u = none → gridRows bad = 0 → t.boot.fail = true ∧ t.boot.failCode = 0x51 ∧ StageRecord 5 (some 0x51) t) ∧
       (u = none → gridRows bad ≠ 0 → t.boot.stage = 6 ∧ t.boot.fail = false ∧ StageRecord 5 none t))) ∧
    (inStage s 6 = true → ∀ (failed : List (Fin 272)) (u : Option (UnitKind × Nat)), ∃ t, exec (.stageS6 failed u) s = .next t ∧
      t.grid.failed = s.grid.failed ++ ((failed.map (·.val)).filter fun p => !s.grid.failed.contains p).eraseDups ∧
      t.grid.cold = s.grid.cold ∧ t.grid.rows = gridRows t.grid.failed ∧
      (u.isSome = true → t.boot.fail = true ∧ t.boot.failCode = 0x60 ∧ StageRecord 6 (some 0x60) t) ∧
      (u = none → t.boot.stage = 7 ∧ t.boot.fail = false ∧ StageRecord 6 none t)) ∧
    (inStage s 7 = true → s.boot.s7Done = false →
      (∃ t, exec (.stageS7 []) s = .next t ∧ t.boot.s7Done = true ∧ t.boot.stage = 7 ∧ t.sec.licence = s.sec.licence ∧
        StageRecord 7 none t ∧ KeepsBut [.regs, .boot, .sec] s t) ∧
      (∀ checks : List (Nat × Crypto), ∃ t, exec (.stageS7 checks) s = .next t ∧ t.boot.s7Done = true ∧ t.boot.stage = 7 ∧
        StageRecord 7 none t ∧
        (let rank := fun i => numAt (licEntry s i) 0x20 2 * 2 ^ 64 + numAt (licEntry s i) 8 8
         let good := fun (x : Nat × Crypto) => x.1 < 256 ∧ numAt (licEntry s x.1) 0 4 = 0x314C5850 ∧
           licenceStatus s (licEntry s x.1) x.2 = 0
         ((∀ x, x ∈ checks → ¬ good x) → t.sec.licence = s.sec.licence ∧ t.grid = s.grid) ∧
         (∀ x, x ∈ checks → good x → (∀ y, y ∈ checks → good y → y.1 ≠ x.1 → rank y.1 < rank x.1) →
           InForce (licEntry s x.1) s t)))) ∧
    (inStage s 7 = true → s.boot.s7Done = true → s.boot.linkDone = true → ∃ t, exec .stageS8 s = .next t ∧ t.boot.stage = 8 ∧
      ready t = true ∧ StageRecord 8 none t ∧ KeepsBut [.regs, .boot, .sec] s t) ∧
    (s.boot.linkDone = false ∨ s.boot.s7Done = false → exec .stageS8 s = .next s)

/-- The security block: a command while one runs is rejected, one that its stage forbids ends with `BAD_STAGE`; a licence that
passes comes into force, one that does not ends with its status and changes nothing else; an unlock opens its scopes and clears the
device key; attestation answers in the staging area (R476 to R487). -/
def Obligations.SecurityCommands : Prop :=
  ∀ (c : Crypto) (s : State), answers s 0x200030 = true →
    (s.sec.busy.isSome = true →
      ∀ i, i ∈ [Instr.licApply c, .licStore c, .licClear, .attest, .certRead, .debugUnlock c, .bootGo c, .slotWrite c] →
        ∃ t, exec i s = .next t ∧ bit t Reg.SEC_CMD_STAT_REJ 0 0 = true ∧
          RegsKeptBut [fldKey Reg.SEC_CMD_STAT_REJ 0 0] s t ∧ KeepsBut [.regs] s t) ∧
    (s.sec.busy = none →
      (∀ i, (ready s = false ∧ i ∈ [Instr.licApply c, .licStore c, .licClear, .slotWrite c] ∨
          s.boot.stage < 3 ∧ i ∈ [Instr.attest, .certRead, .debugUnlock c] ∨ s.boot.waitHost = false ∧ i = .bootGo c) →
        ∃ t, exec i s = .next t ∧ fld t Reg.SEC_CMD_STAT_STATUS = 12 ∧ KeepsBut [.regs] s t) ∧
      (ready s = true →
        (licenceStatus s (stageBytes s) c = 0 →
          (∃ t, exec (.licApply c) s = .next t ∧ InForce (stageBytes s) s t ∧ fld t Reg.SEC_CMD_STAT_STATUS = 0 ∧
            KeepsBut [.regs, .sec, .grid] s t) ∧
          (∀ i, licSlot s (stageBytes s) = some i → ∃ t, exec (.licStore c) s = .next t ∧ InForce (stageBytes s) s t ∧
            t.sec.busy = some 2 ∧
            t.sec.queue = s.sec.queue ++ [{ op := 2, entry := 0, off := 0x210000 + 512 * i, bytes := stageBytes s }]) ∧
          (licSlot s (stageBytes s) = none → ∃ t, exec (.licStore c) s = .next t ∧ InForce (stageBytes s) s t ∧
            fld t Reg.SEC_CMD_STAT_STATUS = 14)) ∧
        (licenceStatus s (stageBytes s) c ≠ 0 → ∀ i, i ∈ [Instr.licApply c, .licStore c] → ∃ t, exec i s = .next t ∧
          fld t Reg.SEC_CMD_STAT_STATUS = licenceStatus s (stageBytes s) c ∧ KeepsBut [.regs] s t) ∧
        (∃ t, exec .licClear s = .next t ∧
          t.sec.queue = s.sec.queue ++ ((upto 256).filter fun i => !holdsForce s i && !((licEntry s i).all fun b => b = erased)).map
            (fun i => { op := 8, entry := 0, off := 0x210000 + 512 * i, bytes := List.replicate 512 erased }) ∧
          t.sec.licence = s.sec.licence ∧ KeepsBut [.regs, .sec] s t)) ∧
      (3 ≤ s.boot.stage →
        (s.sec.idValid = false → ∃ t, exec .attest s = .next t ∧ fld t Reg.SEC_CMD_STAT_STATUS = 9 ∧ KeepsBut [.regs] s t) ∧
        (s.sec.idValid = true → s.sec.keyHeld = false → ∃ t, exec .attest s = .next t ∧ fld t Reg.SEC_CMD_STAT_STATUS = 10 ∧
          KeepsBut [.regs] s t) ∧
        (s.sec.idValid = true → s.sec.keyHeld = true → ∃ t, exec .attest s = .next t ∧ fld t Reg.SEC_CMD_STAT_STATUS = 0 ∧
          (let body := reportBody s ((stageBytes s).take 48)
           StagingHolds (body ++ natLE 96 (Config.deviceSign body).toNat) t) ∧ KeepsBut [.regs] s t) ∧
        (∃ t, exec .certRead s = .next t ∧ fld t Reg.SEC_CMD_STAT_STATUS = 0 ∧ StagingHolds (flashRead s 0 512) t ∧ KeepsBut [.regs] s t) ∧
        (∃ t, exec (.debugUnlock c) s = .next t ∧ t.sec.chal = Config.randomChallenge s.sec.draws ∧
          fld t Reg.SEC_CMD_STAT_STATUS = tokenStatus s (stageBytes s) c ∧
          (tokenStatus s (stageBytes s) c = 0 → t.sec.scopes = s.sec.scopes ||| BitVec.ofNat 3 (numAt (stageBytes s) 4 4) ∧
            t.sec.keyHeld = false ∧ t.latches = s.latches ||| BitVec.ofNat 16 (2 ^ 13)) ∧
          (tokenStatus s (stageBytes s) c ≠ 0 → t.sec.scopes = s.sec.scopes ∧ t.sec.keyHeld = s.sec.keyHeld ∧ t.latches = s.latches) ∧
          KeepsBut [.regs, .sec, .latches] s t)))

/-- Firmware and flash: a pushed bundle that verifies boots and one that does not leaves S1 waiting; a bundle goes to its slot; the
oldest write of the flash's queue ends, a slot's being erased first, or is refused and reported to its command (R472, R473, R487,
R494). -/
def Obligations.FirmwareAndFlash : Prop :=
  (∀ (c : Crypto) (s : State), answers s 0x200030 = true → s.sec.busy = none → s.boot.waitHost = true →
    let bs := rdBytes 0 s.sec.store 0 (min 0x100000 (storeNat s 0x10 4))
    (bundleStatus bs c = 0 → ∃ t, exec (.bootGo c) s = .next t ∧ Booted 2 bs t ∧ fld t Reg.SEC_CMD_STAT_STATUS = 0) ∧
    (bundleStatus bs c ≠ 0 → ∃ t, exec (.bootGo c) s = .next t ∧ fld t Reg.SEC_CMD_STAT_STATUS = bundleStatus bs c ∧
      KeepsBut [.regs] s t)) ∧
  (∀ (c : Crypto) (s : State), answers s 0x200030 = true → s.sec.busy = none → ready s = true →
    let u := setF s Reg.SEC_CMD_STAT_OP 0 0 6
    let a := fld s Reg.SEC_ARG_ADDR
    let head := devRead u a 0x14 .clean 0
    let n := max 0x14 (min 0x100000 (leNat ((head.1.map (·.1)).drop 0x10)))
    let got := devRead head.2 a n .clean 0
    let placed := a + n ≤ dramTop ∨ inHostWin s a n = true
    (¬ placed → ∃ t, exec (.slotWrite c) s = .next t ∧ fld t Reg.SEC_CMD_STAT_STATUS = 1 ∧ KeepsBut [.regs] s t) ∧
    (placed → got.1.any (·.2) = true → ∃ t, exec (.slotWrite c) s = .next t ∧ fld t Reg.SEC_CMD_STAT_STATUS = 1 ∧ t.sec = s.sec) ∧
    (placed → got.1.any (·.2) = false → bundleStatus (got.1.map (·.1)) c = 0 →
      ∃ t, exec (.slotWrite c) s = .next t ∧ t.sec.busy = some 6 ∧
        t.sec.queue = s.sec.queue ++ [{ op := 6, entry := 0, off := 0x10000 + 0x100000 * fld s Reg.SEC_ARG_SLOT,
                                        bytes := bundleBytes (got.1.map (·.1)) }]) ∧
    (placed → got.1.any (·.2) = false → bundleStatus (got.1.map (·.1)) c ≠ 0 →
      ∃ t, exec (.slotWrite c) s = .next t ∧ fld t Reg.SEC_CMD_STAT_STATUS = bundleStatus (got.1.map (·.1)) c ∧
        t.sec = s.sec)) ∧
  (∀ (refused : Bool) (s : State), s.sec.queue = [] → exec (.flashWrite refused) s = .next s) ∧
  (∀ (e : FlashOp) (rest : List FlashOp) (s : State), s.sec.queue = e :: rest →
    (e.entry = 0 → e.op ≠ 6 → ∃ t, exec (.flashWrite false) s = .next t ∧ flashRead t e.off e.bytes.length = e.bytes ∧
      (∀ a, a < e.off ∨ e.off + e.bytes.length ≤ a → flashRead t a 1 = flashRead s a 1) ∧ t.sec.queue = rest ∧
      KeepsBut [.regs, .sec] s t) ∧
    (e.entry = 0 → e.op = 6 → e.bytes.length ≤ 0x100000 → ∃ t, exec (.flashWrite false) s = .next t ∧
      flashRead t e.off e.bytes.length = e.bytes ∧
      (∀ a, e.off + e.bytes.length ≤ a → a < e.off + 0x100000 → flashRead t a 1 = [erased]) ∧
      (∀ a, a < e.off ∨ e.off + 0x100000 ≤ a → flashRead t a 1 = flashRead s a 1) ∧ t.sec.queue = rest ∧
      KeepsBut [.regs, .sec] s t) ∧
    (∃ t, exec (.flashWrite false) s = .next t ∧ t.sec.queue = rest ∧
      (e.op ≠ 0 → s.sec.busy = some e.op → (∀ q, q ∈ rest → q.op ≠ e.op) → t.sec.busy = none ∧
        fld t Reg.SEC_CMD_STAT_STATUS = 0) ∧ KeepsBut [.regs, .sec] s t) ∧
    (∃ t, exec (.flashWrite true) s = .next t ∧ t.sec.flash = s.sec.flash ∧ Counted Reg.HV_FLASH_STAT_REFUSED 0 0 1 s t ∧
      (e.op ≠ 0 → ∀ q, q ∈ t.sec.queue → q ∈ rest ∧ q.op ≠ e.op ∨ q.entry = 3) ∧
      (e.op ≠ 0 → s.sec.busy = some e.op → t.sec.busy = none ∧ fld t Reg.SEC_CMD_STAT_STATUS = 11) ∧
      KeepsBut [.regs, .free, .sec] s t))

/-- Heat: a sample shows its highest reading and deepens the clock step it demands, the refresh of a hot stack doubles, and two
samples at a trip level hold the device in reset; a step is given back after its readings have lain low for 10 ms (R329, R330, R488,
R489, R520, R521). -/
def Obligations.Heat : Prop :=
  ∀ (logic stackReads : List Int) (s : State),
    (s.pins.hold = .none →
      let u := takeReadings s logic stackReads
      let hot := hottest u.hv.logic
      let stack := hottest u.hv.stackReads
      (hot < 110 ∧ stack < 100 ∨ s.hv.tripOnce = false → ∃ t, exec (.thermalSample logic stackReads) s = .next t ∧
        t.hv.logic = u.hv.logic ∧ t.hv.stackReads = u.hv.stackReads ∧ t.hv.trim = none ∧
        t.hv.tripOnce = (decide (110 ≤ hot) || decide (100 ≤ stack)) ∧
        t.hv.demand = max s.hv.demand (wantedStep s hot stack) ∧
        fld t Reg.HV_THERM_STAT_LOGIC_MAX = unsgn 8 hot % 256 ∧
        (∀ i, i < 4 → let x := hottest (stackTemps u.hv.stackReads i)
          (85 < x → i ∈ t.dram.doubled) ∧ (83 < x → x ≤ 85 → (i ∈ t.dram.doubled ↔ i ∈ s.dram.doubled)) ∧
          (95 < x → bit t Reg.MEM_STACK_STAT_HOT 0 i = true))) ∧
      (110 ≤ hot ∨ 100 ≤ stack → s.hv.tripOnce = true → ∃ t, exec (.thermalSample logic stackReads) s = .next t ∧
        StartsOver 5 0 .thermal [.hv] s t ∧ t.pins.thermTripLow = true)) ∧
    (s.pins.hold = .perst ∨ s.pins.hold = .brownOut → exec (.thermalSample logic stackReads) s = .next s) ∧
    (s.pins.hold = .thermal → ∃ t, exec (.thermalSample logic stackReads) s = .next t ∧
      (let u := takeReadings s logic stackReads
       t.hv = { u.hv with cool := if hottest u.hv.logic ≤ 95 ∧ hottest u.hv.stackReads ≤ 85 then s.hv.cool + 1 else 0 }) ∧
      KeepsBut [.hv] s t) ∧
    (s.pins.hold = .none → ∃ t, exec .thermalHysteresisExpiry s = .next t ∧
      t.hv.demand = (if 200 ≤ s.hv.low ∧ 0 < s.hv.demand then s.hv.demand - 1 else s.hv.demand) ∧
      (t.hv.hotStack = true ↔ s.hv.hotStack = true ∧ s.hv.stackLow < 200) ∧
      (t.hv.hotLogic = true ↔ s.hv.hotLogic = true ∧ s.hv.logicLow < 200) ∧ KeepsBut [.clk, .hv] s t) ∧
    (s.pins.hold ≠ .none → exec .thermalHysteresisExpiry s = .next s) ∧
    (∀ x : Fin 96, ∃ t, exec (.sensorTrim x) s = .next t ∧ t.hv = { s.hv with trim := some x.val } ∧ KeepsBut [.hv] s t)

/-- Power, supplies, reference clocks and wear: the average of 1 ms is shown, and one above the limit asks for the next clock step
or, at the last one, sets `OVER`; the extremes of a rail are kept; a lost reference clock is reported or logged, resets the function or drops
the ports' links; wear counts are kept, against the baseline in the flash log or that of the first sample (R490, R491, R493, R495, R514, R516, R517). -/
def Obligations.PowerSuppliesAndWear : Prop :=
  (∀ (w : Nat) (s : State), s.pins.hold = .none →
    let l := (w :: s.hv.power).take 20
    ∃ t, exec (.powerSample w) s = .next t ∧ t.hv.power = l ∧ fld t Reg.CK_PWR_STAT_POWER = min 65535 (l.sum / l.length) ∧
      (bit s Reg.CK_PWR_LIMIT_EN 0 0 = false → t.clk.pwrStep = 0) ∧
      (bit s Reg.CK_PWR_LIMIT_EN 0 0 = true → l.length < 20 → t.clk = s.clk) ∧
      (bit s Reg.CK_PWR_LIMIT_EN 0 0 = true → l.length = 20 → s.hv.pwrWait ≤ 1 →
        fld s Reg.CK_PWR_LIMIT_LIMIT_W * 10 < l.sum / l.length →
        (s.clk.step < 2 → t.clk.pwrStep = s.clk.step + 1 ∧ t.hv.pwrWait = 20) ∧
        (2 ≤ s.clk.step → bit t Reg.CK_PWR_STAT_OVER 0 0 = true ∧ t.clk.pwrStep = s.clk.pwrStep)) ∧
      KeepsBut [.regs, .clk, .hv, .latches] s t) ∧
  (∀ (r : Fin 8) (mv : Nat) (s : State), s.pins.hold = .none → ∃ t, exec (.railSample r mv) s = .next t ∧
    getF t Reg.HV_RAIL_MIN_MV 0 r.val = min (getF s Reg.HV_RAIL_MIN_MV 0 r.val) (min 65535 mv) % 2 ^ 16 ∧
    getF t Reg.HV_RAIL_MAX_MV 0 r.val = max (getF s Reg.HV_RAIL_MAX_MV 0 r.val) (min 65535 mv) % 2 ^ 16 ∧
    (let alarm := getF s Reg.HV_RAIL_ALARM_MV 0 r.val
     (alarm = 0 ∨ alarm ≤ min 65535 mv → (r.val ∉ t.hv.excursion) ∧ KeepsBut [.regs, .hv] s t) ∧
     (alarm ≠ 0 → min 65535 mv < alarm → r.val ∈ t.hv.excursion))) ∧
  (∀ s : State, (∃ t, exec (.refclkLoss 0) s = .next t ∧ t.pins.refSys = false ∧ t.clk.pllLocked = false ∧
      (ready s = true → Reported s t (mkReport 0x4D .clock 0 0 0 0) ∧ KeepsBut [.clk, .pins, .fm] s t) ∧
      (ready s = false → s.boot.stage = 0 ∨ s.pins.hold ≠ .none → KeepsBut [.clk, .pins] s t) ∧
      (ready s = false → s.boot.stage ≠ 0 → s.pins.hold = .none → unread s < 64 →
        unread t = unread s + 1 ∧ getF t Reg.FM_LOG 0 (4 * (logTail s % 64)) % 256 = 0x4D) ∧
      KeepsBut [.regs, .hostMem, .clk, .pins, .fm, .sources, .hl] s t) ∧
    (running s = false → exec (.refclkLoss 1) s = .next (updPins s fun p => { p with refPcie := false })) ∧
    (running s = true → exec (.refclkLoss 1) s = .next (hotResetOf (updPins s fun p => { p with refPcie := false }))) ∧
    exec (.refclkLoss 2) s = .next (thread dropLink (updPins s fun p => { p with refSns := false }) (upto 32))) ∧
  (∀ (counts : List Nat) (s : State),
    (ready s = false → exec (.wearSample counts) s = .next s) ∧
    (ready s = true → ∃ t, exec (.wearSample counts) s = .next t ∧
      (∀ m, m < 288 → getF t Reg.HV_WEAR_COUNT 0 m = counts.getD m 0 % 2 ^ 32) ∧
      ((∀ m, m < 288 → getF s Reg.HV_WEAR_BASELINE 0 m = 0) → flashBaseline s = none →
        ∀ m, m < 288 → getF t Reg.HV_WEAR_BASELINE 0 m = counts.getD m 0 % 2 ^ 32) ∧
      (∀ base, (∀ m, m < 288 → getF s Reg.HV_WEAR_BASELINE 0 m = 0) → flashBaseline s = some base →
        ∀ m, m < 288 → getF t Reg.HV_WEAR_BASELINE 0 m = base.getD m 0 % 2 ^ 32) ∧
      ((∃ m, m < 288 ∧ getF s Reg.HV_WEAR_BASELINE 0 m ≠ 0) →
        ∀ m, m < 288 → getF t Reg.HV_WEAR_BASELINE 0 m = getF s Reg.HV_WEAR_BASELINE 0 m))) ∧
  (∀ s : State,
    (fld s Reg.HV_TEL_CTL_PERIOD_MS = 0 ∨ hvEn s = false → exec .telemetry s = .next s) ∧
    (fld s Reg.HV_TEL_CTL_PERIOD_MS ≠ 0 → hvEn s = true → exec .telemetry s = .next (postEvent s (fld s Reg.HV_CTL_RING) 0x52 0 s.clk.step
      [unsgn 8 (hottest s.hv.logic) + placeOf (hottest s.hv.logic) s.hv.logic * 2 ^ 8 +
         ((upto 4).map fun i => unsgn 8 (hottest (stackTemps s.hv.stackReads i)) * 2 ^ (16 + 8 * i)).sum,
       fld s Reg.CK_PWR_STAT_POWER + s.hv.passes % 65536 * 2 ^ 16])))
end

