-- ==== Sys2Proof/Laws/Maps.lean ====
section
/-! SUPPORT. Laws of the finite maps and byte memories: a read after a write, a read elsewhere, and the canonical form. -/

namespace Sys2Proof.Machine

variable {α : Type}

theorem mget_mdel (d : α) (m : List (Nat × α)) (k j : Nat) :
    mget d (mdel m k) j = if j = k then d else mget d m j := by
  induction m with
  | nil => simp [mdel, mget]
  | cons e m ih =>
    simp only [mdel, mget]
    split
    · next h => rw [ih]; split
                · rfl
                · rw [if_neg (by omega)]
    · next h => simp only [mget, ih]; split
                · rw [if_neg (by omega)]
                · rfl

theorem not_mem_mdel (m : List (Nat × α)) (k : Nat) : ∀ e ∈ mdel m k, e.1 ≠ k := by
  induction m with
  | nil => simp [mdel]
  | cons e m ih =>
    simp only [mdel]
    split
    · exact ih
    · next h => intro x hx
                rcases List.mem_cons.1 hx with rfl | hx
                · exact h
                · exact ih x hx

theorem mget_mins (d : α) (m : List (Nat × α)) (k j : Nat) (v : α) (h : ∀ e ∈ m, e.1 ≠ k) :
    mget d (mins m k v) j = if j = k then v else mget d m j := by
  induction m with
  | nil => simp [mins, mget, eq_comm]
  | cons e m ih =>
    have he : e.1 ≠ k := h e (List.mem_cons_self ..)
    have ih := ih fun x hx => h x (List.mem_cons_of_mem _ hx)
    simp only [mins]
    split
    · simp only [mget, eq_comm]
    · simp only [mget, ih]
      by_cases hj : e.1 = j
      · rw [if_pos hj, if_neg (by omega), if_pos hj]
      · rw [if_neg hj, if_neg hj]

/-- A read after a write: the value written at that key, what stood there elsewhere. -/
theorem mget_mset [DecidableEq α] (d : α) (m : List (Nat × α)) (k j : Nat) (v : α) :
    mget d (mset d m k v) j = if j = k then v else mget d m j := by
  unfold mset
  split
  · next h => rw [mget_mdel, h]
  · rw [mget_mins _ _ _ _ _ (not_mem_mdel m k), mget_mdel]
    split <;> rfl

@[simp] theorem mget_mset_self [DecidableEq α] (d : α) (m : List (Nat × α)) (k : Nat) (v : α) :
    mget d (mset d m k v) k = v := by rw [mget_mset, if_pos rfl]

theorem mget_mset_ne [DecidableEq α] (d : α) (m : List (Nat × α)) {k j : Nat} (v : α) (h : j ≠ k) :
    mget d (mset d m k v) j = mget d m j := by rw [mget_mset, if_neg h]

@[simp] theorem mget_mupd_self [DecidableEq α] (d : α) (m : List (Nat × α)) (k : Nat) (f : α → α) :
    mget d (mupd d m k f) k = f (mget d m k) := mget_mset_self ..

theorem mget_mupd_ne [DecidableEq α] (d : α) (m : List (Nat × α)) {k j : Nat} (f : α → α) (h : j ≠ k) :
    mget d (mupd d m k f) j = mget d m j := mget_mset_ne _ _ _ h

/-- A read elsewhere of a map written through another default: register fields differ in their reset values. -/
theorem mget_mset_other [DecidableEq α] (d d' : α) (m : List (Nat × α)) {k j : Nat} (v : α) (h : j ≠ k) :
    mget d (mset d' m k v) j = mget d m j := by
  unfold mset
  split
  · rw [mget_mdel, if_neg h]
  · rw [mget_mins _ _ _ _ _ (not_mem_mdel m k), if_neg h, mget_mdel, if_neg h]

/-! ### The canonical form -/

theorem mwfFrom_mono [DecidableEq α] {d : α} {m : List (Nat × α)} {a b : Nat} (h : a ≤ b) (hm : mwfFrom d b m = true) :
    mwfFrom d a m = true := by
  cases m with
  | nil => rfl
  | cons e m =>
    simp only [mwfFrom, Bool.and_eq_true, decide_eq_true_eq] at hm ⊢
    exact ⟨⟨by omega, hm.1.2⟩, hm.2⟩

theorem mwfFrom_mdel [DecidableEq α] {d : α} {m : List (Nat × α)} (k : Nat) :
    ∀ {a : Nat}, mwfFrom d a m = true → mwfFrom d a (mdel m k) = true := by
  induction m with
  | nil => intro a h; exact h
  | cons e m ih =>
    intro a h
    simp only [mwfFrom, Bool.and_eq_true, decide_eq_true_eq] at h
    simp only [mdel]
    split
    · exact ih (mwfFrom_mono (by omega) h.2)
    · simp only [mwfFrom, Bool.and_eq_true, decide_eq_true_eq]
      exact ⟨h.1, ih h.2⟩

theorem mwfFrom_mins [DecidableEq α] {d : α} {m : List (Nat × α)} {k : Nat} {v : α} (hv : v ≠ d) :
    ∀ {a : Nat}, a ≤ k → (∀ e ∈ m, e.1 ≠ k) → mwfFrom d a m = true → mwfFrom d a (mins m k v) = true := by
  induction m with
  | nil => intro a ha _ _; simp [mins, mwfFrom, ha, hv]
  | cons e m ih =>
    intro a ha hk h
    have he := hk e (List.mem_cons_self ..)
    simp only [mwfFrom, Bool.and_eq_true, decide_eq_true_eq] at h
    simp only [mins]
    split
    · simp only [mwfFrom, Bool.and_eq_true, decide_eq_true_eq]
      exact ⟨⟨ha, by simp [hv]⟩, ⟨by omega, h.1.2⟩, h.2⟩
    · simp only [mwfFrom, Bool.and_eq_true, decide_eq_true_eq]
      exact ⟨h.1, ih (by omega) (fun x hx => hk x (List.mem_cons_of_mem _ hx)) h.2⟩

/-- A write keeps the canonical form. -/
theorem mwf_mset [DecidableEq α] {d : α} {m : List (Nat × α)} (k : Nat) (v : α) (h : mwf d m = true) :
    mwf d (mset d m k v) = true := by
  unfold mset
  split
  · exact mwfFrom_mdel k h
  · next hv => exact mwfFrom_mins hv (Nat.zero_le k) (not_mem_mdel m k) (mwfFrom_mdel k h)

theorem mwf_mupd [DecidableEq α] {d : α} {m : List (Nat × α)} (k : Nat) (f : α → α) (h : mwf d m = true) :
    mwf d (mupd d m k f) = true := mwf_mset _ _ h

theorem mwfFrom_filter [DecidableEq α] {d : α} {m : List (Nat × α)} (p : Nat × α → Bool) :
    ∀ {a : Nat}, mwfFrom d a m = true → mwfFrom d a (m.filter p) = true := by
  induction m with
  | nil => intro a h; exact h
  | cons e m ih =>
    intro a h
    simp only [mwfFrom, Bool.and_eq_true, decide_eq_true_eq] at h
    simp only [List.filter]
    split
    · simp only [mwfFrom, Bool.and_eq_true, decide_eq_true_eq]
      exact ⟨h.1, ih h.2⟩
    · exact ih (mwfFrom_mono (by omega) h.2)

theorem mwf_filter [DecidableEq α] {d : α} {m : List (Nat × α)} (p : Nat × α → Bool) (h : mwf d m = true) :
    mwf d (m.filter p) = true := mwfFrom_filter p h

/-! ### Byte memories -/

theorem mwf_wrBytes {d : Byte} (bs : List Byte) : ∀ {m : SMap Byte} (a : Nat), mwf d m = true → mwf d (wrBytes d m a bs) = true := by
  induction bs with
  | nil => intro m a h; exact h
  | cons b bs ih => intro m a h; exact ih (a + 1) (mwf_mset a b h)

theorem mwf_wrParts {d : Byte} (ps : List (Nat × List Byte)) : ∀ {m : SMap Byte}, mwf d m = true → mwf d (wrParts d m ps) = true := by
  induction ps with
  | nil => intro m h; exact h
  | cons p ps ih => intro m h; exact ih (mwf_wrBytes p.2 p.1 h)

theorem mget_wrBytes {d : Byte} (bs : List Byte) : ∀ (m : SMap Byte) (a j : Nat),
    mget d (wrBytes d m a bs) j = if a ≤ j ∧ j < a + bs.length then bs.getD (j - a) d else mget d m j := by
  induction bs with
  | nil => intro m a j; rw [if_neg (by simp)]; rfl
  | cons b bs ih =>
    intro m a j
    simp only [wrBytes, ih, mget_mset, List.length_cons]
    by_cases h : j = a
    · subst h
      rw [if_neg (by omega), if_pos rfl, if_pos (by omega)]
      simp
    · rw [if_neg h]
      by_cases h2 : a + 1 ≤ j ∧ j < a + 1 + bs.length
      · rw [if_pos h2, if_pos (by omega)]
        obtain ⟨n, hn⟩ : ∃ n, j - a = n + 1 := ⟨j - a - 1, by omega⟩
        rw [hn, show j - (a + 1) = n by omega]
        simp
      · rw [if_neg h2, if_neg (by omega)]

/-- A byte outside the bytes written reads as before. -/
theorem mget_wrBytes_outside {d : Byte} (bs : List Byte) (m : SMap Byte) {a j : Nat} (h : j < a ∨ a + bs.length ≤ j) :
    mget d (wrBytes d m a bs) j = mget d m j := by rw [mget_wrBytes, if_neg (by omega)]

theorem rdBytes_congr {d : Byte} {m m' : SMap Byte} : ∀ (n a : Nat), (∀ j, a ≤ j → j < a + n → mget d m' j = mget d m j) →
    rdBytes d m' a n = rdBytes d m a n := by
  intro n
  induction n with
  | zero => intro a _; rfl
  | succ n ih =>
    intro a h
    simp only [rdBytes]
    rw [h a (by omega) (by omega), ih (a + 1) fun j h1 h2 => h j (by omega) (by omega)]

theorem rdBytes_wrBytes {d : Byte} (bs : List Byte) : ∀ (m : SMap Byte) (a : Nat), rdBytes d (wrBytes d m a bs) a bs.length = bs := by
  induction bs with
  | nil => intro m a; rfl
  | cons b bs ih =>
    intro m a
    simp only [wrBytes, List.length_cons, rdBytes, ih]
    rw [mget_wrBytes_outside _ _ (by omega), mget_mset_self]

theorem rdBytes_wrBytes_outside {d : Byte} (bs : List Byte) (m : SMap Byte) {a j n : Nat} (h : j + n ≤ a ∨ a + bs.length ≤ j) :
    rdBytes d (wrBytes d m a bs) j n = rdBytes d m j n :=
  rdBytes_congr n j fun i h1 h2 => mget_wrBytes_outside _ _ (by omega)

end Sys2Proof.Machine
end

