-- ==== Sys2Proof/Laws/State.lean ====
section
/-! SUPPORT. The state after one named update, field by field, and what each accessor reads after it. -/

namespace Sys2Proof.Machine

@[simp] theorem setF_pending (s : State) (f : Fld) (ch i v : Nat) : (setF s f ch i v).pending = s.pending := rfl
@[simp] theorem setF_shadow (s : State) (f : Fld) (ch i v : Nat) : (setF s f ch i v).shadow = s.shadow := rfl
@[simp] theorem setF_heldLow (s : State) (f : Fld) (ch i v : Nat) : (setF s f ch i v).heldLow = s.heldLow := rfl
@[simp] theorem setF_latched (s : State) (f : Fld) (ch i v : Nat) : (setF s f ch i v).latched = s.latched := rfl
@[simp] theorem setF_readData (s : State) (f : Fld) (ch i v : Nat) : (setF s f ch i v).readData = s.readData := rfl
@[simp] theorem setF_readError (s : State) (f : Fld) (ch i v : Nat) : (setF s f ch i v).readError = s.readError := rfl
@[simp] theorem setF_free (s : State) (f : Fld) (ch i v : Nat) : (setF s f ch i v).free = s.free := rfl
@[simp] theorem setF_mem (s : State) (f : Fld) (ch i v : Nat) : (setF s f ch i v).mem = s.mem := rfl
@[simp] theorem setF_hostMem (s : State) (f : Fld) (ch i v : Nat) : (setF s f ch i v).hostMem = s.hostMem := rfl
@[simp] theorem setF_blocks (s : State) (f : Fld) (ch i v : Nat) : (setF s f ch i v).blocks = s.blocks := rfl
@[simp] theorem setF_spPoison (s : State) (f : Fld) (ch i v : Nat) : (setF s f ch i v).spPoison = s.spPoison := rfl
@[simp] theorem setF_iram (s : State) (f : Fld) (ch i v : Nat) : (setF s f ch i v).iram = s.iram := rfl
@[simp] theorem setF_tcm (s : State) (f : Fld) (ch i v : Nat) : (setF s f ch i v).tcm = s.tcm := rfl
@[simp] theorem setF_bitVars (s : State) (f : Fld) (ch i v : Nat) : (setF s f ch i v).bitVars = s.bitVars := rfl
@[simp] theorem setF_clk (s : State) (f : Fld) (ch i v : Nat) : (setF s f ch i v).clk = s.clk := rfl
@[simp] theorem setF_pins (s : State) (f : Fld) (ch i v : Nat) : (setF s f ch i v).pins = s.pins := rfl
@[simp] theorem setF_boot (s : State) (f : Fld) (ch i v : Nat) : (setF s f ch i v).boot = s.boot := rfl
@[simp] theorem setF_sec (s : State) (f : Fld) (ch i v : Nat) : (setF s f ch i v).sec = s.sec := rfl
@[simp] theorem setF_hv (s : State) (f : Fld) (ch i v : Nat) : (setF s f ch i v).hv = s.hv := rfl
@[simp] theorem setF_fm (s : State) (f : Fld) (ch i v : Nat) : (setF s f ch i v).fm = s.fm := rfl
@[simp] theorem setF_sources (s : State) (f : Fld) (ch i v : Nat) : (setF s f ch i v).sources = s.sources := rfl
@[simp] theorem setF_latches (s : State) (f : Fld) (ch i v : Nat) : (setF s f ch i v).latches = s.latches := rfl
@[simp] theorem setF_cores (s : State) (f : Fld) (ch i v : Nat) : (setF s f ch i v).cores = s.cores := rfl
@[simp] theorem setF_hl (s : State) (f : Fld) (ch i v : Nat) : (setF s f ch i v).hl = s.hl := rfl
@[simp] theorem setF_rings (s : State) (f : Fld) (ch i v : Nat) : (setF s f ch i v).rings = s.rings := rfl
@[simp] theorem setF_bursts (s : State) (f : Fld) (ch i v : Nat) : (setF s f ch i v).bursts = s.bursts := rfl
@[simp] theorem setF_descs (s : State) (f : Fld) (ch i v : Nat) : (setF s f ch i v).descs = s.descs := rfl
@[simp] theorem setF_stage (s : State) (f : Fld) (ch i v : Nat) : (setF s f ch i v).stage = s.stage := rfl
@[simp] theorem setF_fetchPtr (s : State) (f : Fld) (ch i v : Nat) : (setF s f ch i v).fetchPtr = s.fetchPtr := rfl
@[simp] theorem setF_plans (s : State) (f : Fld) (ch i v : Nat) : (setF s f ch i v).plans = s.plans := rfl
@[simp] theorem setF_objs (s : State) (f : Fld) (ch i v : Nat) : (setF s f ch i v).objs = s.objs := rfl
@[simp] theorem setF_queues (s : State) (f : Fld) (ch i v : Nat) : (setF s f ch i v).queues = s.queues := rfl
@[simp] theorem setF_jobs (s : State) (f : Fld) (ch i v : Nat) : (setF s f ch i v).jobs = s.jobs := rfl
@[simp] theorem setF_ports (s : State) (f : Fld) (ch i v : Nat) : (setF s f ch i v).ports = s.ports := rfl
@[simp] theorem setF_pstreams (s : State) (f : Fld) (ch i v : Nat) : (setF s f ch i v).pstreams = s.pstreams := rfl
@[simp] theorem setF_streams (s : State) (f : Fld) (ch i v : Nat) : (setF s f ch i v).streams = s.streams := rfl
@[simp] theorem setF_stripes (s : State) (f : Fld) (ch i v : Nat) : (setF s f ch i v).stripes = s.stripes := rfl
@[simp] theorem setF_engines (s : State) (f : Fld) (ch i v : Nat) : (setF s f ch i v).engines = s.engines := rfl
@[simp] theorem setF_encs (s : State) (f : Fld) (ch i v : Nat) : (setF s f ch i v).encs = s.encs := rfl
@[simp] theorem setF_trigs (s : State) (f : Fld) (ch i v : Nat) : (setF s f ch i v).trigs = s.trigs := rfl
@[simp] theorem setF_links (s : State) (f : Fld) (ch i v : Nat) : (setF s f ch i v).links = s.links := rfl
@[simp] theorem setF_giLevel (s : State) (f : Fld) (ch i v : Nat) : (setF s f ch i v).giLevel = s.giLevel := rfl
@[simp] theorem setF_giFrom (s : State) (f : Fld) (ch i v : Nat) : (setF s f ch i v).giFrom = s.giFrom := rfl
@[simp] theorem setF_tiles (s : State) (f : Fld) (ch i v : Nat) : (setF s f ch i v).tiles = s.tiles := rfl
@[simp] theorem setF_grid (s : State) (f : Fld) (ch i v : Nat) : (setF s f ch i v).grid = s.grid := rfl
@[simp] theorem setF_sctx (s : State) (f : Fld) (ch i v : Nat) : (setF s f ch i v).sctx = s.sctx := rfl
@[simp] theorem setF_bwTokens (s : State) (f : Fld) (ch i v : Nat) : (setF s f ch i v).bwTokens = s.bwTokens := rfl
@[simp] theorem setF_chans (s : State) (f : Fld) (ch i v : Nat) : (setF s f ch i v).chans = s.chans := rfl
@[simp] theorem setF_dram (s : State) (f : Fld) (ch i v : Nat) : (setF s f ch i v).dram = s.dram := rfl
@[simp] theorem setF_pm (s : State) (f : Fld) (ch i v : Nat) : (setF s f ch i v).pm = s.pm := rfl
@[simp] theorem setF_drifts (s : State) (f : Fld) (ch i v : Nat) : (setF s f ch i v).drifts = s.drifts := rfl

@[simp] theorem addF_pending (s : State) (f : Fld) (ch i n : Nat) : (addF s f ch i n).pending = s.pending := rfl
@[simp] theorem addF_shadow (s : State) (f : Fld) (ch i n : Nat) : (addF s f ch i n).shadow = s.shadow := rfl
@[simp] theorem addF_heldLow (s : State) (f : Fld) (ch i n : Nat) : (addF s f ch i n).heldLow = s.heldLow := rfl
@[simp] theorem addF_latched (s : State) (f : Fld) (ch i n : Nat) : (addF s f ch i n).latched = s.latched := rfl
@[simp] theorem addF_readData (s : State) (f : Fld) (ch i n : Nat) : (addF s f ch i n).readData = s.readData := rfl
@[simp] theorem addF_readError (s : State) (f : Fld) (ch i n : Nat) : (addF s f ch i n).readError = s.readError := rfl
@[simp] theorem addF_free (s : State) (f : Fld) (ch i n : Nat) : (addF s f ch i n).free = s.free := rfl
@[simp] theorem addF_mem (s : State) (f : Fld) (ch i n : Nat) : (addF s f ch i n).mem = s.mem := rfl
@[simp] theorem addF_hostMem (s : State) (f : Fld) (ch i n : Nat) : (addF s f ch i n).hostMem = s.hostMem := rfl
@[simp] theorem addF_blocks (s : State) (f : Fld) (ch i n : Nat) : (addF s f ch i n).blocks = s.blocks := rfl
@[simp] theorem addF_spPoison (s : State) (f : Fld) (ch i n : Nat) : (addF s f ch i n).spPoison = s.spPoison := rfl
@[simp] theorem addF_iram (s : State) (f : Fld) (ch i n : Nat) : (addF s f ch i n).iram = s.iram := rfl
@[simp] theorem addF_tcm (s : State) (f : Fld) (ch i n : Nat) : (addF s f ch i n).tcm = s.tcm := rfl
@[simp] theorem addF_bitVars (s : State) (f : Fld) (ch i n : Nat) : (addF s f ch i n).bitVars = s.bitVars := rfl
@[simp] theorem addF_clk (s : State) (f : Fld) (ch i n : Nat) : (addF s f ch i n).clk = s.clk := rfl
@[simp] theorem addF_pins (s : State) (f : Fld) (ch i n : Nat) : (addF s f ch i n).pins = s.pins := rfl
@[simp] theorem addF_boot (s : State) (f : Fld) (ch i n : Nat) : (addF s f ch i n).boot = s.boot := rfl
@[simp] theorem addF_sec (s : State) (f : Fld) (ch i n : Nat) : (addF s f ch i n).sec = s.sec := rfl
@[simp] theorem addF_hv (s : State) (f : Fld) (ch i n : Nat) : (addF s f ch i n).hv = s.hv := rfl
@[simp] theorem addF_fm (s : State) (f : Fld) (ch i n : Nat) : (addF s f ch i n).fm = s.fm := rfl
@[simp] theorem addF_sources (s : State) (f : Fld) (ch i n : Nat) : (addF s f ch i n).sources = s.sources := rfl
@[simp] theorem addF_latches (s : State) (f : Fld) (ch i n : Nat) : (addF s f ch i n).latches = s.latches := rfl
@[simp] theorem addF_cores (s : State) (f : Fld) (ch i n : Nat) : (addF s f ch i n).cores = s.cores := rfl
@[simp] theorem addF_hl (s : State) (f : Fld) (ch i n : Nat) : (addF s f ch i n).hl = s.hl := rfl
@[simp] theorem addF_rings (s : State) (f : Fld) (ch i n : Nat) : (addF s f ch i n).rings = s.rings := rfl
@[simp] theorem addF_bursts (s : State) (f : Fld) (ch i n : Nat) : (addF s f ch i n).bursts = s.bursts := rfl
@[simp] theorem addF_descs (s : State) (f : Fld) (ch i n : Nat) : (addF s f ch i n).descs = s.descs := rfl
@[simp] theorem addF_stage (s : State) (f : Fld) (ch i n : Nat) : (addF s f ch i n).stage = s.stage := rfl
@[simp] theorem addF_fetchPtr (s : State) (f : Fld) (ch i n : Nat) : (addF s f ch i n).fetchPtr = s.fetchPtr := rfl
@[simp] theorem addF_plans (s : State) (f : Fld) (ch i n : Nat) : (addF s f ch i n).plans = s.plans := rfl
@[simp] theorem addF_objs (s : State) (f : Fld) (ch i n : Nat) : (addF s f ch i n).objs = s.objs := rfl
@[simp] theorem addF_queues (s : State) (f : Fld) (ch i n : Nat) : (addF s f ch i n).queues = s.queues := rfl
@[simp] theorem addF_jobs (s : State) (f : Fld) (ch i n : Nat) : (addF s f ch i n).jobs = s.jobs := rfl
@[simp] theorem addF_ports (s : State) (f : Fld) (ch i n : Nat) : (addF s f ch i n).ports = s.ports := rfl
@[simp] theorem addF_pstreams (s : State) (f : Fld) (ch i n : Nat) : (addF s f ch i n).pstreams = s.pstreams := rfl
@[simp] theorem addF_streams (s : State) (f : Fld) (ch i n : Nat) : (addF s f ch i n).streams = s.streams := rfl
@[simp] theorem addF_stripes (s : State) (f : Fld) (ch i n : Nat) : (addF s f ch i n).stripes = s.stripes := rfl
@[simp] theorem addF_engines (s : State) (f : Fld) (ch i n : Nat) : (addF s f ch i n).engines = s.engines := rfl
@[simp] theorem addF_encs (s : State) (f : Fld) (ch i n : Nat) : (addF s f ch i n).encs = s.encs := rfl
@[simp] theorem addF_trigs (s : State) (f : Fld) (ch i n : Nat) : (addF s f ch i n).trigs = s.trigs := rfl
@[simp] theorem addF_links (s : State) (f : Fld) (ch i n : Nat) : (addF s f ch i n).links = s.links := rfl
@[simp] theorem addF_giLevel (s : State) (f : Fld) (ch i n : Nat) : (addF s f ch i n).giLevel = s.giLevel := rfl
@[simp] theorem addF_giFrom (s : State) (f : Fld) (ch i n : Nat) : (addF s f ch i n).giFrom = s.giFrom := rfl
@[simp] theorem addF_tiles (s : State) (f : Fld) (ch i n : Nat) : (addF s f ch i n).tiles = s.tiles := rfl
@[simp] theorem addF_grid (s : State) (f : Fld) (ch i n : Nat) : (addF s f ch i n).grid = s.grid := rfl
@[simp] theorem addF_sctx (s : State) (f : Fld) (ch i n : Nat) : (addF s f ch i n).sctx = s.sctx := rfl
@[simp] theorem addF_bwTokens (s : State) (f : Fld) (ch i n : Nat) : (addF s f ch i n).bwTokens = s.bwTokens := rfl
@[simp] theorem addF_chans (s : State) (f : Fld) (ch i n : Nat) : (addF s f ch i n).chans = s.chans := rfl
@[simp] theorem addF_dram (s : State) (f : Fld) (ch i n : Nat) : (addF s f ch i n).dram = s.dram := rfl
@[simp] theorem addF_pm (s : State) (f : Fld) (ch i n : Nat) : (addF s f ch i n).pm = s.pm := rfl
@[simp] theorem addF_drifts (s : State) (f : Fld) (ch i n : Nat) : (addF s f ch i n).drifts = s.drifts := rfl

@[simp] theorem cnt_pending (s : State) (f : Fld) : (cnt s f).pending = s.pending := rfl
@[simp] theorem cnt_shadow (s : State) (f : Fld) : (cnt s f).shadow = s.shadow := rfl
@[simp] theorem cnt_heldLow (s : State) (f : Fld) : (cnt s f).heldLow = s.heldLow := rfl
@[simp] theorem cnt_latched (s : State) (f : Fld) : (cnt s f).latched = s.latched := rfl
@[simp] theorem cnt_readData (s : State) (f : Fld) : (cnt s f).readData = s.readData := rfl
@[simp] theorem cnt_readError (s : State) (f : Fld) : (cnt s f).readError = s.readError := rfl
@[simp] theorem cnt_free (s : State) (f : Fld) : (cnt s f).free = s.free := rfl
@[simp] theorem cnt_mem (s : State) (f : Fld) : (cnt s f).mem = s.mem := rfl
@[simp] theorem cnt_hostMem (s : State) (f : Fld) : (cnt s f).hostMem = s.hostMem := rfl
@[simp] theorem cnt_blocks (s : State) (f : Fld) : (cnt s f).blocks = s.blocks := rfl
@[simp] theorem cnt_spPoison (s : State) (f : Fld) : (cnt s f).spPoison = s.spPoison := rfl
@[simp] theorem cnt_iram (s : State) (f : Fld) : (cnt s f).iram = s.iram := rfl
@[simp] theorem cnt_tcm (s : State) (f : Fld) : (cnt s f).tcm = s.tcm := rfl
@[simp] theorem cnt_bitVars (s : State) (f : Fld) : (cnt s f).bitVars = s.bitVars := rfl
@[simp] theorem cnt_clk (s : State) (f : Fld) : (cnt s f).clk = s.clk := rfl
@[simp] theorem cnt_pins (s : State) (f : Fld) : (cnt s f).pins = s.pins := rfl
@[simp] theorem cnt_boot (s : State) (f : Fld) : (cnt s f).boot = s.boot := rfl
@[simp] theorem cnt_sec (s : State) (f : Fld) : (cnt s f).sec = s.sec := rfl
@[simp] theorem cnt_hv (s : State) (f : Fld) : (cnt s f).hv = s.hv := rfl
@[simp] theorem cnt_fm (s : State) (f : Fld) : (cnt s f).fm = s.fm := rfl
@[simp] theorem cnt_sources (s : State) (f : Fld) : (cnt s f).sources = s.sources := rfl
@[simp] theorem cnt_latches (s : State) (f : Fld) : (cnt s f).latches = s.latches := rfl
@[simp] theorem cnt_cores (s : State) (f : Fld) : (cnt s f).cores = s.cores := rfl
@[simp] theorem cnt_hl (s : State) (f : Fld) : (cnt s f).hl = s.hl := rfl
@[simp] theorem cnt_rings (s : State) (f : Fld) : (cnt s f).rings = s.rings := rfl
@[simp] theorem cnt_bursts (s : State) (f : Fld) : (cnt s f).bursts = s.bursts := rfl
@[simp] theorem cnt_descs (s : State) (f : Fld) : (cnt s f).descs = s.descs := rfl
@[simp] theorem cnt_stage (s : State) (f : Fld) : (cnt s f).stage = s.stage := rfl
@[simp] theorem cnt_fetchPtr (s : State) (f : Fld) : (cnt s f).fetchPtr = s.fetchPtr := rfl
@[simp] theorem cnt_plans (s : State) (f : Fld) : (cnt s f).plans = s.plans := rfl
@[simp] theorem cnt_objs (s : State) (f : Fld) : (cnt s f).objs = s.objs := rfl
@[simp] theorem cnt_queues (s : State) (f : Fld) : (cnt s f).queues = s.queues := rfl
@[simp] theorem cnt_jobs (s : State) (f : Fld) : (cnt s f).jobs = s.jobs := rfl
@[simp] theorem cnt_ports (s : State) (f : Fld) : (cnt s f).ports = s.ports := rfl
@[simp] theorem cnt_pstreams (s : State) (f : Fld) : (cnt s f).pstreams = s.pstreams := rfl
@[simp] theorem cnt_streams (s : State) (f : Fld) : (cnt s f).streams = s.streams := rfl
@[simp] theorem cnt_stripes (s : State) (f : Fld) : (cnt s f).stripes = s.stripes := rfl
@[simp] theorem cnt_engines (s : State) (f : Fld) : (cnt s f).engines = s.engines := rfl
@[simp] theorem cnt_encs (s : State) (f : Fld) : (cnt s f).encs = s.encs := rfl
@[simp] theorem cnt_trigs (s : State) (f : Fld) : (cnt s f).trigs = s.trigs := rfl
@[simp] theorem cnt_links (s : State) (f : Fld) : (cnt s f).links = s.links := rfl
@[simp] theorem cnt_giLevel (s : State) (f : Fld) : (cnt s f).giLevel = s.giLevel := rfl
@[simp] theorem cnt_giFrom (s : State) (f : Fld) : (cnt s f).giFrom = s.giFrom := rfl
@[simp] theorem cnt_tiles (s : State) (f : Fld) : (cnt s f).tiles = s.tiles := rfl
@[simp] theorem cnt_grid (s : State) (f : Fld) : (cnt s f).grid = s.grid := rfl
@[simp] theorem cnt_sctx (s : State) (f : Fld) : (cnt s f).sctx = s.sctx := rfl
@[simp] theorem cnt_bwTokens (s : State) (f : Fld) : (cnt s f).bwTokens = s.bwTokens := rfl
@[simp] theorem cnt_chans (s : State) (f : Fld) : (cnt s f).chans = s.chans := rfl
@[simp] theorem cnt_dram (s : State) (f : Fld) : (cnt s f).dram = s.dram := rfl
@[simp] theorem cnt_pm (s : State) (f : Fld) : (cnt s f).pm = s.pm := rfl
@[simp] theorem cnt_drifts (s : State) (f : Fld) : (cnt s f).drifts = s.drifts := rfl

@[simp] theorem maxF_pending (s : State) (f : Fld) (ch i v : Nat) : (maxF s f ch i v).pending = s.pending := rfl
@[simp] theorem maxF_shadow (s : State) (f : Fld) (ch i v : Nat) : (maxF s f ch i v).shadow = s.shadow := rfl
@[simp] theorem maxF_heldLow (s : State) (f : Fld) (ch i v : Nat) : (maxF s f ch i v).heldLow = s.heldLow := rfl
@[simp] theorem maxF_latched (s : State) (f : Fld) (ch i v : Nat) : (maxF s f ch i v).latched = s.latched := rfl
@[simp] theorem maxF_readData (s : State) (f : Fld) (ch i v : Nat) : (maxF s f ch i v).readData = s.readData := rfl
@[simp] theorem maxF_readError (s : State) (f : Fld) (ch i v : Nat) : (maxF s f ch i v).readError = s.readError := rfl
@[simp] theorem maxF_free (s : State) (f : Fld) (ch i v : Nat) : (maxF s f ch i v).free = s.free := rfl
@[simp] theorem maxF_mem (s : State) (f : Fld) (ch i v : Nat) : (maxF s f ch i v).mem = s.mem := rfl
@[simp] theorem maxF_hostMem (s : State) (f : Fld) (ch i v : Nat) : (maxF s f ch i v).hostMem = s.hostMem := rfl
@[simp] theorem maxF_blocks (s : State) (f : Fld) (ch i v : Nat) : (maxF s f ch i v).blocks = s.blocks := rfl
@[simp] theorem maxF_spPoison (s : State) (f : Fld) (ch i v : Nat) : (maxF s f ch i v).spPoison = s.spPoison := rfl
@[simp] theorem maxF_iram (s : State) (f : Fld) (ch i v : Nat) : (maxF s f ch i v).iram = s.iram := rfl
@[simp] theorem maxF_tcm (s : State) (f : Fld) (ch i v : Nat) : (maxF s f ch i v).tcm = s.tcm := rfl
@[simp] theorem maxF_bitVars (s : State) (f : Fld) (ch i v : Nat) : (maxF s f ch i v).bitVars = s.bitVars := rfl
@[simp] theorem maxF_clk (s : State) (f : Fld) (ch i v : Nat) : (maxF s f ch i v).clk = s.clk := rfl
@[simp] theorem maxF_pins (s : State) (f : Fld) (ch i v : Nat) : (maxF s f ch i v).pins = s.pins := rfl
@[simp] theorem maxF_boot (s : State) (f : Fld) (ch i v : Nat) : (maxF s f ch i v).boot = s.boot := rfl
@[simp] theorem maxF_sec (s : State) (f : Fld) (ch i v : Nat) : (maxF s f ch i v).sec = s.sec := rfl
@[simp] theorem maxF_hv (s : State) (f : Fld) (ch i v : Nat) : (maxF s f ch i v).hv = s.hv := rfl
@[simp] theorem maxF_fm (s : State) (f : Fld) (ch i v : Nat) : (maxF s f ch i v).fm = s.fm := rfl
@[simp] theorem maxF_sources (s : State) (f : Fld) (ch i v : Nat) : (maxF s f ch i v).sources = s.sources := rfl
@[simp] theorem maxF_latches (s : State) (f : Fld) (ch i v : Nat) : (maxF s f ch i v).latches = s.latches := rfl
@[simp] theorem maxF_cores (s : State) (f : Fld) (ch i v : Nat) : (maxF s f ch i v).cores = s.cores := rfl
@[simp] theorem maxF_hl (s : State) (f : Fld) (ch i v : Nat) : (maxF s f ch i v).hl = s.hl := rfl
@[simp] theorem maxF_rings (s : State) (f : Fld) (ch i v : Nat) : (maxF s f ch i v).rings = s.rings := rfl
@[simp] theorem maxF_bursts (s : State) (f : Fld) (ch i v : Nat) : (maxF s f ch i v).bursts = s.bursts := rfl
@[simp] theorem maxF_descs (s : State) (f : Fld) (ch i v : Nat) : (maxF s f ch i v).descs = s.descs := rfl
@[simp] theorem maxF_stage (s : State) (f : Fld) (ch i v : Nat) : (maxF s f ch i v).stage = s.stage := rfl
@[simp] theorem maxF_fetchPtr (s : State) (f : Fld) (ch i v : Nat) : (maxF s f ch i v).fetchPtr = s.fetchPtr := rfl
@[simp] theorem maxF_plans (s : State) (f : Fld) (ch i v : Nat) : (maxF s f ch i v).plans = s.plans := rfl
@[simp] theorem maxF_objs (s : State) (f : Fld) (ch i v : Nat) : (maxF s f ch i v).objs = s.objs := rfl
@[simp] theorem maxF_queues (s : State) (f : Fld) (ch i v : Nat) : (maxF s f ch i v).queues = s.queues := rfl
@[simp] theorem maxF_jobs (s : State) (f : Fld) (ch i v : Nat) : (maxF s f ch i v).jobs = s.jobs := rfl
@[simp] theorem maxF_ports (s : State) (f : Fld) (ch i v : Nat) : (maxF s f ch i v).ports = s.ports := rfl
@[simp] theorem maxF_pstreams (s : State) (f : Fld) (ch i v : Nat) : (maxF s f ch i v).pstreams = s.pstreams := rfl
@[simp] theorem maxF_streams (s : State) (f : Fld) (ch i v : Nat) : (maxF s f ch i v).streams = s.streams := rfl
@[simp] theorem maxF_stripes (s : State) (f : Fld) (ch i v : Nat) : (maxF s f ch i v).stripes = s.stripes := rfl
@[simp] theorem maxF_engines (s : State) (f : Fld) (ch i v : Nat) : (maxF s f ch i v).engines = s.engines := rfl
@[simp] theorem maxF_encs (s : State) (f : Fld) (ch i v : Nat) : (maxF s f ch i v).encs = s.encs := rfl
@[simp] theorem maxF_trigs (s : State) (f : Fld) (ch i v : Nat) : (maxF s f ch i v).trigs = s.trigs := rfl
@[simp] theorem maxF_links (s : State) (f : Fld) (ch i v : Nat) : (maxF s f ch i v).links = s.links := rfl
@[simp] theorem maxF_giLevel (s : State) (f : Fld) (ch i v : Nat) : (maxF s f ch i v).giLevel = s.giLevel := rfl
@[simp] theorem maxF_giFrom (s : State) (f : Fld) (ch i v : Nat) : (maxF s f ch i v).giFrom = s.giFrom := rfl
@[simp] theorem maxF_tiles (s : State) (f : Fld) (ch i v : Nat) : (maxF s f ch i v).tiles = s.tiles := rfl
@[simp] theorem maxF_grid (s : State) (f : Fld) (ch i v : Nat) : (maxF s f ch i v).grid = s.grid := rfl
@[simp] theorem maxF_sctx (s : State) (f : Fld) (ch i v : Nat) : (maxF s f ch i v).sctx = s.sctx := rfl
@[simp] theorem maxF_bwTokens (s : State) (f : Fld) (ch i v : Nat) : (maxF s f ch i v).bwTokens = s.bwTokens := rfl
@[simp] theorem maxF_chans (s : State) (f : Fld) (ch i v : Nat) : (maxF s f ch i v).chans = s.chans := rfl
@[simp] theorem maxF_dram (s : State) (f : Fld) (ch i v : Nat) : (maxF s f ch i v).dram = s.dram := rfl
@[simp] theorem maxF_pm (s : State) (f : Fld) (ch i v : Nat) : (maxF s f ch i v).pm = s.pm := rfl
@[simp] theorem maxF_drifts (s : State) (f : Fld) (ch i v : Nat) : (maxF s f ch i v).drifts = s.drifts := rfl

@[simp] theorem drawn_pending (s : State) : (drawn s).pending = s.pending := rfl
@[simp] theorem drawn_regs (s : State) : (drawn s).regs = s.regs := rfl
@[simp] theorem drawn_shadow (s : State) : (drawn s).shadow = s.shadow := rfl
@[simp] theorem drawn_heldLow (s : State) : (drawn s).heldLow = s.heldLow := rfl
@[simp] theorem drawn_latched (s : State) : (drawn s).latched = s.latched := rfl
@[simp] theorem drawn_readData (s : State) : (drawn s).readData = s.readData := rfl
@[simp] theorem drawn_readError (s : State) : (drawn s).readError = s.readError := rfl
@[simp] theorem drawn_mem (s : State) : (drawn s).mem = s.mem := rfl
@[simp] theorem drawn_hostMem (s : State) : (drawn s).hostMem = s.hostMem := rfl
@[simp] theorem drawn_blocks (s : State) : (drawn s).blocks = s.blocks := rfl
@[simp] theorem drawn_spPoison (s : State) : (drawn s).spPoison = s.spPoison := rfl
@[simp] theorem drawn_iram (s : State) : (drawn s).iram = s.iram := rfl
@[simp] theorem drawn_tcm (s : State) : (drawn s).tcm = s.tcm := rfl
@[simp] theorem drawn_bitVars (s : State) : (drawn s).bitVars = s.bitVars := rfl
@[simp] theorem drawn_clk (s : State) : (drawn s).clk = s.clk := rfl
@[simp] theorem drawn_pins (s : State) : (drawn s).pins = s.pins := rfl
@[simp] theorem drawn_boot (s : State) : (drawn s).boot = s.boot := rfl
@[simp] theorem drawn_sec (s : State) : (drawn s).sec = s.sec := rfl
@[simp] theorem drawn_hv (s : State) : (drawn s).hv = s.hv := rfl
@[simp] theorem drawn_fm (s : State) : (drawn s).fm = s.fm := rfl
@[simp] theorem drawn_sources (s : State) : (drawn s).sources = s.sources := rfl
@[simp] theorem drawn_latches (s : State) : (drawn s).latches = s.latches := rfl
@[simp] theorem drawn_cores (s : State) : (drawn s).cores = s.cores := rfl
@[simp] theorem drawn_hl (s : State) : (drawn s).hl = s.hl := rfl
@[simp] theorem drawn_rings (s : State) : (drawn s).rings = s.rings := rfl
@[simp] theorem drawn_bursts (s : State) : (drawn s).bursts = s.bursts := rfl
@[simp] theorem drawn_descs (s : State) : (drawn s).descs = s.descs := rfl
@[simp] theorem drawn_stage (s : State) : (drawn s).stage = s.stage := rfl
@[simp] theorem drawn_fetchPtr (s : State) : (drawn s).fetchPtr = s.fetchPtr := rfl
@[simp] theorem drawn_plans (s : State) : (drawn s).plans = s.plans := rfl
@[simp] theorem drawn_objs (s : State) : (drawn s).objs = s.objs := rfl
@[simp] theorem drawn_queues (s : State) : (drawn s).queues = s.queues := rfl
@[simp] theorem drawn_jobs (s : State) : (drawn s).jobs = s.jobs := rfl
@[simp] theorem drawn_ports (s : State) : (drawn s).ports = s.ports := rfl
@[simp] theorem drawn_pstreams (s : State) : (drawn s).pstreams = s.pstreams := rfl
@[simp] theorem drawn_streams (s : State) : (drawn s).streams = s.streams := rfl
@[simp] theorem drawn_stripes (s : State) : (drawn s).stripes = s.stripes := rfl
@[simp] theorem drawn_engines (s : State) : (drawn s).engines = s.engines := rfl
@[simp] theorem drawn_encs (s : State) : (drawn s).encs = s.encs := rfl
@[simp] theorem drawn_trigs (s : State) : (drawn s).trigs = s.trigs := rfl
@[simp] theorem drawn_links (s : State) : (drawn s).links = s.links := rfl
@[simp] theorem drawn_giLevel (s : State) : (drawn s).giLevel = s.giLevel := rfl
@[simp] theorem drawn_giFrom (s : State) : (drawn s).giFrom = s.giFrom := rfl
@[simp] theorem drawn_tiles (s : State) : (drawn s).tiles = s.tiles := rfl
@[simp] theorem drawn_grid (s : State) : (drawn s).grid = s.grid := rfl
@[simp] theorem drawn_sctx (s : State) : (drawn s).sctx = s.sctx := rfl
@[simp] theorem drawn_bwTokens (s : State) : (drawn s).bwTokens = s.bwTokens := rfl
@[simp] theorem drawn_chans (s : State) : (drawn s).chans = s.chans := rfl
@[simp] theorem drawn_dram (s : State) : (drawn s).dram = s.dram := rfl
@[simp] theorem drawn_pm (s : State) : (drawn s).pm = s.pm := rfl
@[simp] theorem drawn_drifts (s : State) : (drawn s).drifts = s.drifts := rfl

@[simp] theorem updTile_pending (s : State) (t : Nat) (f : Tile → Tile) : (updTile s t f).pending = s.pending := rfl
@[simp] theorem updTile_regs (s : State) (t : Nat) (f : Tile → Tile) : (updTile s t f).regs = s.regs := rfl
@[simp] theorem updTile_shadow (s : State) (t : Nat) (f : Tile → Tile) : (updTile s t f).shadow = s.shadow := rfl
@[simp] theorem updTile_heldLow (s : State) (t : Nat) (f : Tile → Tile) : (updTile s t f).heldLow = s.heldLow := rfl
@[simp] theorem updTile_latched (s : State) (t : Nat) (f : Tile → Tile) : (updTile s t f).latched = s.latched := rfl
@[simp] theorem updTile_readData (s : State) (t : Nat) (f : Tile → Tile) : (updTile s t f).readData = s.readData := rfl
@[simp] theorem updTile_readError (s : State) (t : Nat) (f : Tile → Tile) : (updTile s t f).readError = s.readError := rfl
@[simp] theorem updTile_free (s : State) (t : Nat) (f : Tile → Tile) : (updTile s t f).free = s.free := rfl
@[simp] theorem updTile_mem (s : State) (t : Nat) (f : Tile → Tile) : (updTile s t f).mem = s.mem := rfl
@[simp] theorem updTile_hostMem (s : State) (t : Nat) (f : Tile → Tile) : (updTile s t f).hostMem = s.hostMem := rfl
@[simp] theorem updTile_blocks (s : State) (t : Nat) (f : Tile → Tile) : (updTile s t f).blocks = s.blocks := rfl
@[simp] theorem updTile_spPoison (s : State) (t : Nat) (f : Tile → Tile) : (updTile s t f).spPoison = s.spPoison := rfl
@[simp] theorem updTile_iram (s : State) (t : Nat) (f : Tile → Tile) : (updTile s t f).iram = s.iram := rfl
@[simp] theorem updTile_tcm (s : State) (t : Nat) (f : Tile → Tile) : (updTile s t f).tcm = s.tcm := rfl
@[simp] theorem updTile_bitVars (s : State) (t : Nat) (f : Tile → Tile) : (updTile s t f).bitVars = s.bitVars := rfl
@[simp] theorem updTile_clk (s : State) (t : Nat) (f : Tile → Tile) : (updTile s t f).clk = s.clk := rfl
@[simp] theorem updTile_pins (s : State) (t : Nat) (f : Tile → Tile) : (updTile s t f).pins = s.pins := rfl
@[simp] theorem updTile_boot (s : State) (t : Nat) (f : Tile → Tile) : (updTile s t f).boot = s.boot := rfl
@[simp] theorem updTile_sec (s : State) (t : Nat) (f : Tile → Tile) : (updTile s t f).sec = s.sec := rfl
@[simp] theorem updTile_hv (s : State) (t : Nat) (f : Tile → Tile) : (updTile s t f).hv = s.hv := rfl
@[simp] theorem updTile_fm (s : State) (t : Nat) (f : Tile → Tile) : (updTile s t f).fm = s.fm := rfl
@[simp] theorem updTile_sources (s : State) (t : Nat) (f : Tile → Tile) : (updTile s t f).sources = s.sources := rfl
@[simp] theorem updTile_latches (s : State) (t : Nat) (f : Tile → Tile) : (updTile s t f).latches = s.latches := rfl
@[simp] theorem updTile_cores (s : State) (t : Nat) (f : Tile → Tile) : (updTile s t f).cores = s.cores := rfl
@[simp] theorem updTile_hl (s : State) (t : Nat) (f : Tile → Tile) : (updTile s t f).hl = s.hl := rfl
@[simp] theorem updTile_rings (s : State) (t : Nat) (f : Tile → Tile) : (updTile s t f).rings = s.rings := rfl
@[simp] theorem updTile_bursts (s : State) (t : Nat) (f : Tile → Tile) : (updTile s t f).bursts = s.bursts := rfl
@[simp] theorem updTile_descs (s : State) (t : Nat) (f : Tile → Tile) : (updTile s t f).descs = s.descs := rfl
@[simp] theorem updTile_stage (s : State) (t : Nat) (f : Tile → Tile) : (updTile s t f).stage = s.stage := rfl
@[simp] theorem updTile_fetchPtr (s : State) (t : Nat) (f : Tile → Tile) : (updTile s t f).fetchPtr = s.fetchPtr := rfl
@[simp] theorem updTile_plans (s : State) (t : Nat) (f : Tile → Tile) : (updTile s t f).plans = s.plans := rfl
@[simp] theorem updTile_objs (s : State) (t : Nat) (f : Tile → Tile) : (updTile s t f).objs = s.objs := rfl
@[simp] theorem updTile_queues (s : State) (t : Nat) (f : Tile → Tile) : (updTile s t f).queues = s.queues := rfl
@[simp] theorem updTile_jobs (s : State) (t : Nat) (f : Tile → Tile) : (updTile s t f).jobs = s.jobs := rfl
@[simp] theorem updTile_ports (s : State) (t : Nat) (f : Tile → Tile) : (updTile s t f).ports = s.ports := rfl
@[simp] theorem updTile_pstreams (s : State) (t : Nat) (f : Tile → Tile) : (updTile s t f).pstreams = s.pstreams := rfl
@[simp] theorem updTile_streams (s : State) (t : Nat) (f : Tile → Tile) : (updTile s t f).streams = s.streams := rfl
@[simp] theorem updTile_stripes (s : State) (t : Nat) (f : Tile → Tile) : (updTile s t f).stripes = s.stripes := rfl
@[simp] theorem updTile_engines (s : State) (t : Nat) (f : Tile → Tile) : (updTile s t f).engines = s.engines := rfl
@[simp] theorem updTile_encs (s : State) (t : Nat) (f : Tile → Tile) : (updTile s t f).encs = s.encs := rfl
@[simp] theorem updTile_trigs (s : State) (t : Nat) (f : Tile → Tile) : (updTile s t f).trigs = s.trigs := rfl
@[simp] theorem updTile_links (s : State) (t : Nat) (f : Tile → Tile) : (updTile s t f).links = s.links := rfl
@[simp] theorem updTile_giLevel (s : State) (t : Nat) (f : Tile → Tile) : (updTile s t f).giLevel = s.giLevel := rfl
@[simp] theorem updTile_giFrom (s : State) (t : Nat) (f : Tile → Tile) : (updTile s t f).giFrom = s.giFrom := rfl
@[simp] theorem updTile_grid (s : State) (t : Nat) (f : Tile → Tile) : (updTile s t f).grid = s.grid := rfl
@[simp] theorem updTile_sctx (s : State) (t : Nat) (f : Tile → Tile) : (updTile s t f).sctx = s.sctx := rfl
@[simp] theorem updTile_bwTokens (s : State) (t : Nat) (f : Tile → Tile) : (updTile s t f).bwTokens = s.bwTokens := rfl
@[simp] theorem updTile_chans (s : State) (t : Nat) (f : Tile → Tile) : (updTile s t f).chans = s.chans := rfl
@[simp] theorem updTile_dram (s : State) (t : Nat) (f : Tile → Tile) : (updTile s t f).dram = s.dram := rfl
@[simp] theorem updTile_pm (s : State) (t : Nat) (f : Tile → Tile) : (updTile s t f).pm = s.pm := rfl
@[simp] theorem updTile_drifts (s : State) (t : Nat) (f : Tile → Tile) : (updTile s t f).drifts = s.drifts := rfl

@[simp] theorem updCtx_pending (s : State) (t c : Nat) (f : Ctx → Ctx) : (updCtx s t c f).pending = s.pending := rfl
@[simp] theorem updCtx_regs (s : State) (t c : Nat) (f : Ctx → Ctx) : (updCtx s t c f).regs = s.regs := rfl
@[simp] theorem updCtx_shadow (s : State) (t c : Nat) (f : Ctx → Ctx) : (updCtx s t c f).shadow = s.shadow := rfl
@[simp] theorem updCtx_heldLow (s : State) (t c : Nat) (f : Ctx → Ctx) : (updCtx s t c f).heldLow = s.heldLow := rfl
@[simp] theorem updCtx_latched (s : State) (t c : Nat) (f : Ctx → Ctx) : (updCtx s t c f).latched = s.latched := rfl
@[simp] theorem updCtx_readData (s : State) (t c : Nat) (f : Ctx → Ctx) : (updCtx s t c f).readData = s.readData := rfl
@[simp] theorem updCtx_readError (s : State) (t c : Nat) (f : Ctx → Ctx) : (updCtx s t c f).readError = s.readError := rfl
@[simp] theorem updCtx_free (s : State) (t c : Nat) (f : Ctx → Ctx) : (updCtx s t c f).free = s.free := rfl
@[simp] theorem updCtx_mem (s : State) (t c : Nat) (f : Ctx → Ctx) : (updCtx s t c f).mem = s.mem := rfl
@[simp] theorem updCtx_hostMem (s : State) (t c : Nat) (f : Ctx → Ctx) : (updCtx s t c f).hostMem = s.hostMem := rfl
@[simp] theorem updCtx_blocks (s : State) (t c : Nat) (f : Ctx → Ctx) : (updCtx s t c f).blocks = s.blocks := rfl
@[simp] theorem updCtx_spPoison (s : State) (t c : Nat) (f : Ctx → Ctx) : (updCtx s t c f).spPoison = s.spPoison := rfl
@[simp] theorem updCtx_iram (s : State) (t c : Nat) (f : Ctx → Ctx) : (updCtx s t c f).iram = s.iram := rfl
@[simp] theorem updCtx_tcm (s : State) (t c : Nat) (f : Ctx → Ctx) : (updCtx s t c f).tcm = s.tcm := rfl
@[simp] theorem updCtx_bitVars (s : State) (t c : Nat) (f : Ctx → Ctx) : (updCtx s t c f).bitVars = s.bitVars := rfl
@[simp] theorem updCtx_clk (s : State) (t c : Nat) (f : Ctx → Ctx) : (updCtx s t c f).clk = s.clk := rfl
@[simp] theorem updCtx_pins (s : State) (t c : Nat) (f : Ctx → Ctx) : (updCtx s t c f).pins = s.pins := rfl
@[simp] theorem updCtx_boot (s : State) (t c : Nat) (f : Ctx → Ctx) : (updCtx s t c f).boot = s.boot := rfl
@[simp] theorem updCtx_sec (s : State) (t c : Nat) (f : Ctx → Ctx) : (updCtx s t c f).sec = s.sec := rfl
@[simp] theorem updCtx_hv (s : State) (t c : Nat) (f : Ctx → Ctx) : (updCtx s t c f).hv = s.hv := rfl
@[simp] theorem updCtx_fm (s : State) (t c : Nat) (f : Ctx → Ctx) : (updCtx s t c f).fm = s.fm := rfl
@[simp] theorem updCtx_sources (s : State) (t c : Nat) (f : Ctx → Ctx) : (updCtx s t c f).sources = s.sources := rfl
@[simp] theorem updCtx_latches (s : State) (t c : Nat) (f : Ctx → Ctx) : (updCtx s t c f).latches = s.latches := rfl
@[simp] theorem updCtx_cores (s : State) (t c : Nat) (f : Ctx → Ctx) : (updCtx s t c f).cores = s.cores := rfl
@[simp] theorem updCtx_hl (s : State) (t c : Nat) (f : Ctx → Ctx) : (updCtx s t c f).hl = s.hl := rfl
@[simp] theorem updCtx_rings (s : State) (t c : Nat) (f : Ctx → Ctx) : (updCtx s t c f).rings = s.rings := rfl
@[simp] theorem updCtx_bursts (s : State) (t c : Nat) (f : Ctx → Ctx) : (updCtx s t c f).bursts = s.bursts := rfl
@[simp] theorem updCtx_descs (s : State) (t c : Nat) (f : Ctx → Ctx) : (updCtx s t c f).descs = s.descs := rfl
@[simp] theorem updCtx_stage (s : State) (t c : Nat) (f : Ctx → Ctx) : (updCtx s t c f).stage = s.stage := rfl
@[simp] theorem updCtx_fetchPtr (s : State) (t c : Nat) (f : Ctx → Ctx) : (updCtx s t c f).fetchPtr = s.fetchPtr := rfl
@[simp] theorem updCtx_plans (s : State) (t c : Nat) (f : Ctx → Ctx) : (updCtx s t c f).plans = s.plans := rfl
@[simp] theorem updCtx_objs (s : State) (t c : Nat) (f : Ctx → Ctx) : (updCtx s t c f).objs = s.objs := rfl
@[simp] theorem updCtx_queues (s : State) (t c : Nat) (f : Ctx → Ctx) : (updCtx s t c f).queues = s.queues := rfl
@[simp] theorem updCtx_jobs (s : State) (t c : Nat) (f : Ctx → Ctx) : (updCtx s t c f).jobs = s.jobs := rfl
@[simp] theorem updCtx_ports (s : State) (t c : Nat) (f : Ctx → Ctx) : (updCtx s t c f).ports = s.ports := rfl
@[simp] theorem updCtx_pstreams (s : State) (t c : Nat) (f : Ctx → Ctx) : (updCtx s t c f).pstreams = s.pstreams := rfl
@[simp] theorem updCtx_streams (s : State) (t c : Nat) (f : Ctx → Ctx) : (updCtx s t c f).streams = s.streams := rfl
@[simp] theorem updCtx_stripes (s : State) (t c : Nat) (f : Ctx → Ctx) : (updCtx s t c f).stripes = s.stripes := rfl
@[simp] theorem updCtx_engines (s : State) (t c : Nat) (f : Ctx → Ctx) : (updCtx s t c f).engines = s.engines := rfl
@[simp] theorem updCtx_encs (s : State) (t c : Nat) (f : Ctx → Ctx) : (updCtx s t c f).encs = s.encs := rfl
@[simp] theorem updCtx_trigs (s : State) (t c : Nat) (f : Ctx → Ctx) : (updCtx s t c f).trigs = s.trigs := rfl
@[simp] theorem updCtx_links (s : State) (t c : Nat) (f : Ctx → Ctx) : (updCtx s t c f).links = s.links := rfl
@[simp] theorem updCtx_giLevel (s : State) (t c : Nat) (f : Ctx → Ctx) : (updCtx s t c f).giLevel = s.giLevel := rfl
@[simp] theorem updCtx_giFrom (s : State) (t c : Nat) (f : Ctx → Ctx) : (updCtx s t c f).giFrom = s.giFrom := rfl
@[simp] theorem updCtx_grid (s : State) (t c : Nat) (f : Ctx → Ctx) : (updCtx s t c f).grid = s.grid := rfl
@[simp] theorem updCtx_sctx (s : State) (t c : Nat) (f : Ctx → Ctx) : (updCtx s t c f).sctx = s.sctx := rfl
@[simp] theorem updCtx_bwTokens (s : State) (t c : Nat) (f : Ctx → Ctx) : (updCtx s t c f).bwTokens = s.bwTokens := rfl
@[simp] theorem updCtx_chans (s : State) (t c : Nat) (f : Ctx → Ctx) : (updCtx s t c f).chans = s.chans := rfl
@[simp] theorem updCtx_dram (s : State) (t c : Nat) (f : Ctx → Ctx) : (updCtx s t c f).dram = s.dram := rfl
@[simp] theorem updCtx_pm (s : State) (t c : Nat) (f : Ctx → Ctx) : (updCtx s t c f).pm = s.pm := rfl
@[simp] theorem updCtx_drifts (s : State) (t c : Nat) (f : Ctx → Ctx) : (updCtx s t c f).drifts = s.drifts := rfl

@[simp] theorem updHandle_pending (s : State) (t e : Nat) (f : Handle → Handle) : (updHandle s t e f).pending = s.pending := rfl
@[simp] theorem updHandle_regs (s : State) (t e : Nat) (f : Handle → Handle) : (updHandle s t e f).regs = s.regs := rfl
@[simp] theorem updHandle_shadow (s : State) (t e : Nat) (f : Handle → Handle) : (updHandle s t e f).shadow = s.shadow := rfl
@[simp] theorem updHandle_heldLow (s : State) (t e : Nat) (f : Handle → Handle) : (updHandle s t e f).heldLow = s.heldLow := rfl
@[simp] theorem updHandle_latched (s : State) (t e : Nat) (f : Handle → Handle) : (updHandle s t e f).latched = s.latched := rfl
@[simp] theorem updHandle_readData (s : State) (t e : Nat) (f : Handle → Handle) : (updHandle s t e f).readData = s.readData := rfl
@[simp] theorem updHandle_readError (s : State) (t e : Nat) (f : Handle → Handle) : (updHandle s t e f).readError = s.readError := rfl
@[simp] theorem updHandle_free (s : State) (t e : Nat) (f : Handle → Handle) : (updHandle s t e f).free = s.free := rfl
@[simp] theorem updHandle_mem (s : State) (t e : Nat) (f : Handle → Handle) : (updHandle s t e f).mem = s.mem := rfl
@[simp] theorem updHandle_hostMem (s : State) (t e : Nat) (f : Handle → Handle) : (updHandle s t e f).hostMem = s.hostMem := rfl
@[simp] theorem updHandle_blocks (s : State) (t e : Nat) (f : Handle → Handle) : (updHandle s t e f).blocks = s.blocks := rfl
@[simp] theorem updHandle_spPoison (s : State) (t e : Nat) (f : Handle → Handle) : (updHandle s t e f).spPoison = s.spPoison := rfl
@[simp] theorem updHandle_iram (s : State) (t e : Nat) (f : Handle → Handle) : (updHandle s t e f).iram = s.iram := rfl
@[simp] theorem updHandle_tcm (s : State) (t e : Nat) (f : Handle → Handle) : (updHandle s t e f).tcm = s.tcm := rfl
@[simp] theorem updHandle_bitVars (s : State) (t e : Nat) (f : Handle → Handle) : (updHandle s t e f).bitVars = s.bitVars := rfl
@[simp] theorem updHandle_clk (s : State) (t e : Nat) (f : Handle → Handle) : (updHandle s t e f).clk = s.clk := rfl
@[simp] theorem updHandle_pins (s : State) (t e : Nat) (f : Handle → Handle) : (updHandle s t e f).pins = s.pins := rfl
@[simp] theorem updHandle_boot (s : State) (t e : Nat) (f : Handle → Handle) : (updHandle s t e f).boot = s.boot := rfl
@[simp] theorem updHandle_sec (s : State) (t e : Nat) (f : Handle → Handle) : (updHandle s t e f).sec = s.sec := rfl
@[simp] theorem updHandle_hv (s : State) (t e : Nat) (f : Handle → Handle) : (updHandle s t e f).hv = s.hv := rfl
@[simp] theorem updHandle_fm (s : State) (t e : Nat) (f : Handle → Handle) : (updHandle s t e f).fm = s.fm := rfl
@[simp] theorem updHandle_sources (s : State) (t e : Nat) (f : Handle → Handle) : (updHandle s t e f).sources = s.sources := rfl
@[simp] theorem updHandle_latches (s : State) (t e : Nat) (f : Handle → Handle) : (updHandle s t e f).latches = s.latches := rfl
@[simp] theorem updHandle_cores (s : State) (t e : Nat) (f : Handle → Handle) : (updHandle s t e f).cores = s.cores := rfl
@[simp] theorem updHandle_hl (s : State) (t e : Nat) (f : Handle → Handle) : (updHandle s t e f).hl = s.hl := rfl
@[simp] theorem updHandle_rings (s : State) (t e : Nat) (f : Handle → Handle) : (updHandle s t e f).rings = s.rings := rfl
@[simp] theorem updHandle_bursts (s : State) (t e : Nat) (f : Handle → Handle) : (updHandle s t e f).bursts = s.bursts := rfl
@[simp] theorem updHandle_descs (s : State) (t e : Nat) (f : Handle → Handle) : (updHandle s t e f).descs = s.descs := rfl
@[simp] theorem updHandle_stage (s : State) (t e : Nat) (f : Handle → Handle) : (updHandle s t e f).stage = s.stage := rfl
@[simp] theorem updHandle_fetchPtr (s : State) (t e : Nat) (f : Handle → Handle) : (updHandle s t e f).fetchPtr = s.fetchPtr := rfl
@[simp] theorem updHandle_plans (s : State) (t e : Nat) (f : Handle → Handle) : (updHandle s t e f).plans = s.plans := rfl
@[simp] theorem updHandle_objs (s : State) (t e : Nat) (f : Handle → Handle) : (updHandle s t e f).objs = s.objs := rfl
@[simp] theorem updHandle_queues (s : State) (t e : Nat) (f : Handle → Handle) : (updHandle s t e f).queues = s.queues := rfl
@[simp] theorem updHandle_jobs (s : State) (t e : Nat) (f : Handle → Handle) : (updHandle s t e f).jobs = s.jobs := rfl
@[simp] theorem updHandle_ports (s : State) (t e : Nat) (f : Handle → Handle) : (updHandle s t e f).ports = s.ports := rfl
@[simp] theorem updHandle_pstreams (s : State) (t e : Nat) (f : Handle → Handle) : (updHandle s t e f).pstreams = s.pstreams := rfl
@[simp] theorem updHandle_streams (s : State) (t e : Nat) (f : Handle → Handle) : (updHandle s t e f).streams = s.streams := rfl
@[simp] theorem updHandle_stripes (s : State) (t e : Nat) (f : Handle → Handle) : (updHandle s t e f).stripes = s.stripes := rfl
@[simp] theorem updHandle_engines (s : State) (t e : Nat) (f : Handle → Handle) : (updHandle s t e f).engines = s.engines := rfl
@[simp] theorem updHandle_encs (s : State) (t e : Nat) (f : Handle → Handle) : (updHandle s t e f).encs = s.encs := rfl
@[simp] theorem updHandle_trigs (s : State) (t e : Nat) (f : Handle → Handle) : (updHandle s t e f).trigs = s.trigs := rfl
@[simp] theorem updHandle_links (s : State) (t e : Nat) (f : Handle → Handle) : (updHandle s t e f).links = s.links := rfl
@[simp] theorem updHandle_giLevel (s : State) (t e : Nat) (f : Handle → Handle) : (updHandle s t e f).giLevel = s.giLevel := rfl
@[simp] theorem updHandle_giFrom (s : State) (t e : Nat) (f : Handle → Handle) : (updHandle s t e f).giFrom = s.giFrom := rfl
@[simp] theorem updHandle_grid (s : State) (t e : Nat) (f : Handle → Handle) : (updHandle s t e f).grid = s.grid := rfl
@[simp] theorem updHandle_sctx (s : State) (t e : Nat) (f : Handle → Handle) : (updHandle s t e f).sctx = s.sctx := rfl
@[simp] theorem updHandle_bwTokens (s : State) (t e : Nat) (f : Handle → Handle) : (updHandle s t e f).bwTokens = s.bwTokens := rfl
@[simp] theorem updHandle_chans (s : State) (t e : Nat) (f : Handle → Handle) : (updHandle s t e f).chans = s.chans := rfl
@[simp] theorem updHandle_dram (s : State) (t e : Nat) (f : Handle → Handle) : (updHandle s t e f).dram = s.dram := rfl
@[simp] theorem updHandle_pm (s : State) (t e : Nat) (f : Handle → Handle) : (updHandle s t e f).pm = s.pm := rfl
@[simp] theorem updHandle_drifts (s : State) (t e : Nat) (f : Handle → Handle) : (updHandle s t e f).drifts = s.drifts := rfl

@[simp] theorem updPort_pending (s : State) (p : Nat) (f : Port → Port) : (updPort s p f).pending = s.pending := rfl
@[simp] theorem updPort_regs (s : State) (p : Nat) (f : Port → Port) : (updPort s p f).regs = s.regs := rfl
@[simp] theorem updPort_shadow (s : State) (p : Nat) (f : Port → Port) : (updPort s p f).shadow = s.shadow := rfl
@[simp] theorem updPort_heldLow (s : State) (p : Nat) (f : Port → Port) : (updPort s p f).heldLow = s.heldLow := rfl
@[simp] theorem updPort_latched (s : State) (p : Nat) (f : Port → Port) : (updPort s p f).latched = s.latched := rfl
@[simp] theorem updPort_readData (s : State) (p : Nat) (f : Port → Port) : (updPort s p f).readData = s.readData := rfl
@[simp] theorem updPort_readError (s : State) (p : Nat) (f : Port → Port) : (updPort s p f).readError = s.readError := rfl
@[simp] theorem updPort_free (s : State) (p : Nat) (f : Port → Port) : (updPort s p f).free = s.free := rfl
@[simp] theorem updPort_mem (s : State) (p : Nat) (f : Port → Port) : (updPort s p f).mem = s.mem := rfl
@[simp] theorem updPort_hostMem (s : State) (p : Nat) (f : Port → Port) : (updPort s p f).hostMem = s.hostMem := rfl
@[simp] theorem updPort_blocks (s : State) (p : Nat) (f : Port → Port) : (updPort s p f).blocks = s.blocks := rfl
@[simp] theorem updPort_spPoison (s : State) (p : Nat) (f : Port → Port) : (updPort s p f).spPoison = s.spPoison := rfl
@[simp] theorem updPort_iram (s : State) (p : Nat) (f : Port → Port) : (updPort s p f).iram = s.iram := rfl
@[simp] theorem updPort_tcm (s : State) (p : Nat) (f : Port → Port) : (updPort s p f).tcm = s.tcm := rfl
@[simp] theorem updPort_bitVars (s : State) (p : Nat) (f : Port → Port) : (updPort s p f).bitVars = s.bitVars := rfl
@[simp] theorem updPort_clk (s : State) (p : Nat) (f : Port → Port) : (updPort s p f).clk = s.clk := rfl
@[simp] theorem updPort_pins (s : State) (p : Nat) (f : Port → Port) : (updPort s p f).pins = s.pins := rfl
@[simp] theorem updPort_boot (s : State) (p : Nat) (f : Port → Port) : (updPort s p f).boot = s.boot := rfl
@[simp] theorem updPort_sec (s : State) (p : Nat) (f : Port → Port) : (updPort s p f).sec = s.sec := rfl
@[simp] theorem updPort_hv (s : State) (p : Nat) (f : Port → Port) : (updPort s p f).hv = s.hv := rfl
@[simp] theorem updPort_fm (s : State) (p : Nat) (f : Port → Port) : (updPort s p f).fm = s.fm := rfl
@[simp] theorem updPort_sources (s : State) (p : Nat) (f : Port → Port) : (updPort s p f).sources = s.sources := rfl
@[simp] theorem updPort_latches (s : State) (p : Nat) (f : Port → Port) : (updPort s p f).latches = s.latches := rfl
@[simp] theorem updPort_cores (s : State) (p : Nat) (f : Port → Port) : (updPort s p f).cores = s.cores := rfl
@[simp] theorem updPort_hl (s : State) (p : Nat) (f : Port → Port) : (updPort s p f).hl = s.hl := rfl
@[simp] theorem updPort_rings (s : State) (p : Nat) (f : Port → Port) : (updPort s p f).rings = s.rings := rfl
@[simp] theorem updPort_bursts (s : State) (p : Nat) (f : Port → Port) : (updPort s p f).bursts = s.bursts := rfl
@[simp] theorem updPort_descs (s : State) (p : Nat) (f : Port → Port) : (updPort s p f).descs = s.descs := rfl
@[simp] theorem updPort_stage (s : State) (p : Nat) (f : Port → Port) : (updPort s p f).stage = s.stage := rfl
@[simp] theorem updPort_fetchPtr (s : State) (p : Nat) (f : Port → Port) : (updPort s p f).fetchPtr = s.fetchPtr := rfl
@[simp] theorem updPort_plans (s : State) (p : Nat) (f : Port → Port) : (updPort s p f).plans = s.plans := rfl
@[simp] theorem updPort_objs (s : State) (p : Nat) (f : Port → Port) : (updPort s p f).objs = s.objs := rfl
@[simp] theorem updPort_queues (s : State) (p : Nat) (f : Port → Port) : (updPort s p f).queues = s.queues := rfl
@[simp] theorem updPort_jobs (s : State) (p : Nat) (f : Port → Port) : (updPort s p f).jobs = s.jobs := rfl
@[simp] theorem updPort_pstreams (s : State) (p : Nat) (f : Port → Port) : (updPort s p f).pstreams = s.pstreams := rfl
@[simp] theorem updPort_streams (s : State) (p : Nat) (f : Port → Port) : (updPort s p f).streams = s.streams := rfl
@[simp] theorem updPort_stripes (s : State) (p : Nat) (f : Port → Port) : (updPort s p f).stripes = s.stripes := rfl
@[simp] theorem updPort_engines (s : State) (p : Nat) (f : Port → Port) : (updPort s p f).engines = s.engines := rfl
@[simp] theorem updPort_encs (s : State) (p : Nat) (f : Port → Port) : (updPort s p f).encs = s.encs := rfl
@[simp] theorem updPort_trigs (s : State) (p : Nat) (f : Port → Port) : (updPort s p f).trigs = s.trigs := rfl
@[simp] theorem updPort_links (s : State) (p : Nat) (f : Port → Port) : (updPort s p f).links = s.links := rfl
@[simp] theorem updPort_giLevel (s : State) (p : Nat) (f : Port → Port) : (updPort s p f).giLevel = s.giLevel := rfl
@[simp] theorem updPort_giFrom (s : State) (p : Nat) (f : Port → Port) : (updPort s p f).giFrom = s.giFrom := rfl
@[simp] theorem updPort_tiles (s : State) (p : Nat) (f : Port → Port) : (updPort s p f).tiles = s.tiles := rfl
@[simp] theorem updPort_grid (s : State) (p : Nat) (f : Port → Port) : (updPort s p f).grid = s.grid := rfl
@[simp] theorem updPort_sctx (s : State) (p : Nat) (f : Port → Port) : (updPort s p f).sctx = s.sctx := rfl
@[simp] theorem updPort_bwTokens (s : State) (p : Nat) (f : Port → Port) : (updPort s p f).bwTokens = s.bwTokens := rfl
@[simp] theorem updPort_chans (s : State) (p : Nat) (f : Port → Port) : (updPort s p f).chans = s.chans := rfl
@[simp] theorem updPort_dram (s : State) (p : Nat) (f : Port → Port) : (updPort s p f).dram = s.dram := rfl
@[simp] theorem updPort_pm (s : State) (p : Nat) (f : Port → Port) : (updPort s p f).pm = s.pm := rfl
@[simp] theorem updPort_drifts (s : State) (p : Nat) (f : Port → Port) : (updPort s p f).drifts = s.drifts := rfl

@[simp] theorem updPstream_pending (s : State) (x : Nat) (f : PortStream → PortStream) : (updPstream s x f).pending = s.pending := rfl
@[simp] theorem updPstream_regs (s : State) (x : Nat) (f : PortStream → PortStream) : (updPstream s x f).regs = s.regs := rfl
@[simp] theorem updPstream_shadow (s : State) (x : Nat) (f : PortStream → PortStream) : (updPstream s x f).shadow = s.shadow := rfl
@[simp] theorem updPstream_heldLow (s : State) (x : Nat) (f : PortStream → PortStream) : (updPstream s x f).heldLow = s.heldLow := rfl
@[simp] theorem updPstream_latched (s : State) (x : Nat) (f : PortStream → PortStream) : (updPstream s x f).latched = s.latched := rfl
@[simp] theorem updPstream_readData (s : State) (x : Nat) (f : PortStream → PortStream) : (updPstream s x f).readData = s.readData := rfl
@[simp] theorem updPstream_readError (s : State) (x : Nat) (f : PortStream → PortStream) : (updPstream s x f).readError = s.readError := rfl
@[simp] theorem updPstream_free (s : State) (x : Nat) (f : PortStream → PortStream) : (updPstream s x f).free = s.free := rfl
@[simp] theorem updPstream_mem (s : State) (x : Nat) (f : PortStream → PortStream) : (updPstream s x f).mem = s.mem := rfl
@[simp] theorem updPstream_hostMem (s : State) (x : Nat) (f : PortStream → PortStream) : (updPstream s x f).hostMem = s.hostMem := rfl
@[simp] theorem updPstream_blocks (s : State) (x : Nat) (f : PortStream → PortStream) : (updPstream s x f).blocks = s.blocks := rfl
@[simp] theorem updPstream_spPoison (s : State) (x : Nat) (f : PortStream → PortStream) : (updPstream s x f).spPoison = s.spPoison := rfl
@[simp] theorem updPstream_iram (s : State) (x : Nat) (f : PortStream → PortStream) : (updPstream s x f).iram = s.iram := rfl
@[simp] theorem updPstream_tcm (s : State) (x : Nat) (f : PortStream → PortStream) : (updPstream s x f).tcm = s.tcm := rfl
@[simp] theorem updPstream_bitVars (s : State) (x : Nat) (f : PortStream → PortStream) : (updPstream s x f).bitVars = s.bitVars := rfl
@[simp] theorem updPstream_clk (s : State) (x : Nat) (f : PortStream → PortStream) : (updPstream s x f).clk = s.clk := rfl
@[simp] theorem updPstream_pins (s : State) (x : Nat) (f : PortStream → PortStream) : (updPstream s x f).pins = s.pins := rfl
@[simp] theorem updPstream_boot (s : State) (x : Nat) (f : PortStream → PortStream) : (updPstream s x f).boot = s.boot := rfl
@[simp] theorem updPstream_sec (s : State) (x : Nat) (f : PortStream → PortStream) : (updPstream s x f).sec = s.sec := rfl
@[simp] theorem updPstream_hv (s : State) (x : Nat) (f : PortStream → PortStream) : (updPstream s x f).hv = s.hv := rfl
@[simp] theorem updPstream_fm (s : State) (x : Nat) (f : PortStream → PortStream) : (updPstream s x f).fm = s.fm := rfl
@[simp] theorem updPstream_sources (s : State) (x : Nat) (f : PortStream → PortStream) : (updPstream s x f).sources = s.sources := rfl
@[simp] theorem updPstream_latches (s : State) (x : Nat) (f : PortStream → PortStream) : (updPstream s x f).latches = s.latches := rfl
@[simp] theorem updPstream_cores (s : State) (x : Nat) (f : PortStream → PortStream) : (updPstream s x f).cores = s.cores := rfl
@[simp] theorem updPstream_hl (s : State) (x : Nat) (f : PortStream → PortStream) : (updPstream s x f).hl = s.hl := rfl
@[simp] theorem updPstream_rings (s : State) (x : Nat) (f : PortStream → PortStream) : (updPstream s x f).rings = s.rings := rfl
@[simp] theorem updPstream_bursts (s : State) (x : Nat) (f : PortStream → PortStream) : (updPstream s x f).bursts = s.bursts := rfl
@[simp] theorem updPstream_descs (s : State) (x : Nat) (f : PortStream → PortStream) : (updPstream s x f).descs = s.descs := rfl
@[simp] theorem updPstream_stage (s : State) (x : Nat) (f : PortStream → PortStream) : (updPstream s x f).stage = s.stage := rfl
@[simp] theorem updPstream_fetchPtr (s : State) (x : Nat) (f : PortStream → PortStream) : (updPstream s x f).fetchPtr = s.fetchPtr := rfl
@[simp] theorem updPstream_plans (s : State) (x : Nat) (f : PortStream → PortStream) : (updPstream s x f).plans = s.plans := rfl
@[simp] theorem updPstream_objs (s : State) (x : Nat) (f : PortStream → PortStream) : (updPstream s x f).objs = s.objs := rfl
@[simp] theorem updPstream_queues (s : State) (x : Nat) (f : PortStream → PortStream) : (updPstream s x f).queues = s.queues := rfl
@[simp] theorem updPstream_jobs (s : State) (x : Nat) (f : PortStream → PortStream) : (updPstream s x f).jobs = s.jobs := rfl
@[simp] theorem updPstream_ports (s : State) (x : Nat) (f : PortStream → PortStream) : (updPstream s x f).ports = s.ports := rfl
@[simp] theorem updPstream_streams (s : State) (x : Nat) (f : PortStream → PortStream) : (updPstream s x f).streams = s.streams := rfl
@[simp] theorem updPstream_stripes (s : State) (x : Nat) (f : PortStream → PortStream) : (updPstream s x f).stripes = s.stripes := rfl
@[simp] theorem updPstream_engines (s : State) (x : Nat) (f : PortStream → PortStream) : (updPstream s x f).engines = s.engines := rfl
@[simp] theorem updPstream_encs (s : State) (x : Nat) (f : PortStream → PortStream) : (updPstream s x f).encs = s.encs := rfl
@[simp] theorem updPstream_trigs (s : State) (x : Nat) (f : PortStream → PortStream) : (updPstream s x f).trigs = s.trigs := rfl
@[simp] theorem updPstream_links (s : State) (x : Nat) (f : PortStream → PortStream) : (updPstream s x f).links = s.links := rfl
@[simp] theorem updPstream_giLevel (s : State) (x : Nat) (f : PortStream → PortStream) : (updPstream s x f).giLevel = s.giLevel := rfl
@[simp] theorem updPstream_giFrom (s : State) (x : Nat) (f : PortStream → PortStream) : (updPstream s x f).giFrom = s.giFrom := rfl
@[simp] theorem updPstream_tiles (s : State) (x : Nat) (f : PortStream → PortStream) : (updPstream s x f).tiles = s.tiles := rfl
@[simp] theorem updPstream_grid (s : State) (x : Nat) (f : PortStream → PortStream) : (updPstream s x f).grid = s.grid := rfl
@[simp] theorem updPstream_sctx (s : State) (x : Nat) (f : PortStream → PortStream) : (updPstream s x f).sctx = s.sctx := rfl
@[simp] theorem updPstream_bwTokens (s : State) (x : Nat) (f : PortStream → PortStream) : (updPstream s x f).bwTokens = s.bwTokens := rfl
@[simp] theorem updPstream_chans (s : State) (x : Nat) (f : PortStream → PortStream) : (updPstream s x f).chans = s.chans := rfl
@[simp] theorem updPstream_dram (s : State) (x : Nat) (f : PortStream → PortStream) : (updPstream s x f).dram = s.dram := rfl
@[simp] theorem updPstream_pm (s : State) (x : Nat) (f : PortStream → PortStream) : (updPstream s x f).pm = s.pm := rfl
@[simp] theorem updPstream_drifts (s : State) (x : Nat) (f : PortStream → PortStream) : (updPstream s x f).drifts = s.drifts := rfl

@[simp] theorem updStream_pending (s : State) (x : Nat) (f : Stream → Stream) : (updStream s x f).pending = s.pending := rfl
@[simp] theorem updStream_regs (s : State) (x : Nat) (f : Stream → Stream) : (updStream s x f).regs = s.regs := rfl
@[simp] theorem updStream_shadow (s : State) (x : Nat) (f : Stream → Stream) : (updStream s x f).shadow = s.shadow := rfl
@[simp] theorem updStream_heldLow (s : State) (x : Nat) (f : Stream → Stream) : (updStream s x f).heldLow = s.heldLow := rfl
@[simp] theorem updStream_latched (s : State) (x : Nat) (f : Stream → Stream) : (updStream s x f).latched = s.latched := rfl
@[simp] theorem updStream_readData (s : State) (x : Nat) (f : Stream → Stream) : (updStream s x f).readData = s.readData := rfl
@[simp] theorem updStream_readError (s : State) (x : Nat) (f : Stream → Stream) : (updStream s x f).readError = s.readError := rfl
@[simp] theorem updStream_free (s : State) (x : Nat) (f : Stream → Stream) : (updStream s x f).free = s.free := rfl
@[simp] theorem updStream_mem (s : State) (x : Nat) (f : Stream → Stream) : (updStream s x f).mem = s.mem := rfl
@[simp] theorem updStream_hostMem (s : State) (x : Nat) (f : Stream → Stream) : (updStream s x f).hostMem = s.hostMem := rfl
@[simp] theorem updStream_blocks (s : State) (x : Nat) (f : Stream → Stream) : (updStream s x f).blocks = s.blocks := rfl
@[simp] theorem updStream_spPoison (s : State) (x : Nat) (f : Stream → Stream) : (updStream s x f).spPoison = s.spPoison := rfl
@[simp] theorem updStream_iram (s : State) (x : Nat) (f : Stream → Stream) : (updStream s x f).iram = s.iram := rfl
@[simp] theorem updStream_tcm (s : State) (x : Nat) (f : Stream → Stream) : (updStream s x f).tcm = s.tcm := rfl
@[simp] theorem updStream_bitVars (s : State) (x : Nat) (f : Stream → Stream) : (updStream s x f).bitVars = s.bitVars := rfl
@[simp] theorem updStream_clk (s : State) (x : Nat) (f : Stream → Stream) : (updStream s x f).clk = s.clk := rfl
@[simp] theorem updStream_pins (s : State) (x : Nat) (f : Stream → Stream) : (updStream s x f).pins = s.pins := rfl
@[simp] theorem updStream_boot (s : State) (x : Nat) (f : Stream → Stream) : (updStream s x f).boot = s.boot := rfl
@[simp] theorem updStream_sec (s : State) (x : Nat) (f : Stream → Stream) : (updStream s x f).sec = s.sec := rfl
@[simp] theorem updStream_hv (s : State) (x : Nat) (f : Stream → Stream) : (updStream s x f).hv = s.hv := rfl
@[simp] theorem updStream_fm (s : State) (x : Nat) (f : Stream → Stream) : (updStream s x f).fm = s.fm := rfl
@[simp] theorem updStream_sources (s : State) (x : Nat) (f : Stream → Stream) : (updStream s x f).sources = s.sources := rfl
@[simp] theorem updStream_latches (s : State) (x : Nat) (f : Stream → Stream) : (updStream s x f).latches = s.latches := rfl
@[simp] theorem updStream_cores (s : State) (x : Nat) (f : Stream → Stream) : (updStream s x f).cores = s.cores := rfl
@[simp] theorem updStream_hl (s : State) (x : Nat) (f : Stream → Stream) : (updStream s x f).hl = s.hl := rfl
@[simp] theorem updStream_rings (s : State) (x : Nat) (f : Stream → Stream) : (updStream s x f).rings = s.rings := rfl
@[simp] theorem updStream_bursts (s : State) (x : Nat) (f : Stream → Stream) : (updStream s x f).bursts = s.bursts := rfl
@[simp] theorem updStream_descs (s : State) (x : Nat) (f : Stream → Stream) : (updStream s x f).descs = s.descs := rfl
@[simp] theorem updStream_stage (s : State) (x : Nat) (f : Stream → Stream) : (updStream s x f).stage = s.stage := rfl
@[simp] theorem updStream_fetchPtr (s : State) (x : Nat) (f : Stream → Stream) : (updStream s x f).fetchPtr = s.fetchPtr := rfl
@[simp] theorem updStream_plans (s : State) (x : Nat) (f : Stream → Stream) : (updStream s x f).plans = s.plans := rfl
@[simp] theorem updStream_objs (s : State) (x : Nat) (f : Stream → Stream) : (updStream s x f).objs = s.objs := rfl
@[simp] theorem updStream_queues (s : State) (x : Nat) (f : Stream → Stream) : (updStream s x f).queues = s.queues := rfl
@[simp] theorem updStream_jobs (s : State) (x : Nat) (f : Stream → Stream) : (updStream s x f).jobs = s.jobs := rfl
@[simp] theorem updStream_ports (s : State) (x : Nat) (f : Stream → Stream) : (updStream s x f).ports = s.ports := rfl
@[simp] theorem updStream_pstreams (s : State) (x : Nat) (f : Stream → Stream) : (updStream s x f).pstreams = s.pstreams := rfl
@[simp] theorem updStream_stripes (s : State) (x : Nat) (f : Stream → Stream) : (updStream s x f).stripes = s.stripes := rfl
@[simp] theorem updStream_engines (s : State) (x : Nat) (f : Stream → Stream) : (updStream s x f).engines = s.engines := rfl
@[simp] theorem updStream_encs (s : State) (x : Nat) (f : Stream → Stream) : (updStream s x f).encs = s.encs := rfl
@[simp] theorem updStream_trigs (s : State) (x : Nat) (f : Stream → Stream) : (updStream s x f).trigs = s.trigs := rfl
@[simp] theorem updStream_links (s : State) (x : Nat) (f : Stream → Stream) : (updStream s x f).links = s.links := rfl
@[simp] theorem updStream_giLevel (s : State) (x : Nat) (f : Stream → Stream) : (updStream s x f).giLevel = s.giLevel := rfl
@[simp] theorem updStream_giFrom (s : State) (x : Nat) (f : Stream → Stream) : (updStream s x f).giFrom = s.giFrom := rfl
@[simp] theorem updStream_tiles (s : State) (x : Nat) (f : Stream → Stream) : (updStream s x f).tiles = s.tiles := rfl
@[simp] theorem updStream_grid (s : State) (x : Nat) (f : Stream → Stream) : (updStream s x f).grid = s.grid := rfl
@[simp] theorem updStream_sctx (s : State) (x : Nat) (f : Stream → Stream) : (updStream s x f).sctx = s.sctx := rfl
@[simp] theorem updStream_bwTokens (s : State) (x : Nat) (f : Stream → Stream) : (updStream s x f).bwTokens = s.bwTokens := rfl
@[simp] theorem updStream_chans (s : State) (x : Nat) (f : Stream → Stream) : (updStream s x f).chans = s.chans := rfl
@[simp] theorem updStream_dram (s : State) (x : Nat) (f : Stream → Stream) : (updStream s x f).dram = s.dram := rfl
@[simp] theorem updStream_pm (s : State) (x : Nat) (f : Stream → Stream) : (updStream s x f).pm = s.pm := rfl
@[simp] theorem updStream_drifts (s : State) (x : Nat) (f : Stream → Stream) : (updStream s x f).drifts = s.drifts := rfl

@[simp] theorem updEngine_pending (s : State) (b : Nat) (f : BEngine → BEngine) : (updEngine s b f).pending = s.pending := rfl
@[simp] theorem updEngine_regs (s : State) (b : Nat) (f : BEngine → BEngine) : (updEngine s b f).regs = s.regs := rfl
@[simp] theorem updEngine_shadow (s : State) (b : Nat) (f : BEngine → BEngine) : (updEngine s b f).shadow = s.shadow := rfl
@[simp] theorem updEngine_heldLow (s : State) (b : Nat) (f : BEngine → BEngine) : (updEngine s b f).heldLow = s.heldLow := rfl
@[simp] theorem updEngine_latched (s : State) (b : Nat) (f : BEngine → BEngine) : (updEngine s b f).latched = s.latched := rfl
@[simp] theorem updEngine_readData (s : State) (b : Nat) (f : BEngine → BEngine) : (updEngine s b f).readData = s.readData := rfl
@[simp] theorem updEngine_readError (s : State) (b : Nat) (f : BEngine → BEngine) : (updEngine s b f).readError = s.readError := rfl
@[simp] theorem updEngine_free (s : State) (b : Nat) (f : BEngine → BEngine) : (updEngine s b f).free = s.free := rfl
@[simp] theorem updEngine_mem (s : State) (b : Nat) (f : BEngine → BEngine) : (updEngine s b f).mem = s.mem := rfl
@[simp] theorem updEngine_hostMem (s : State) (b : Nat) (f : BEngine → BEngine) : (updEngine s b f).hostMem = s.hostMem := rfl
@[simp] theorem updEngine_blocks (s : State) (b : Nat) (f : BEngine → BEngine) : (updEngine s b f).blocks = s.blocks := rfl
@[simp] theorem updEngine_spPoison (s : State) (b : Nat) (f : BEngine → BEngine) : (updEngine s b f).spPoison = s.spPoison := rfl
@[simp] theorem updEngine_iram (s : State) (b : Nat) (f : BEngine → BEngine) : (updEngine s b f).iram = s.iram := rfl
@[simp] theorem updEngine_tcm (s : State) (b : Nat) (f : BEngine → BEngine) : (updEngine s b f).tcm = s.tcm := rfl
@[simp] theorem updEngine_bitVars (s : State) (b : Nat) (f : BEngine → BEngine) : (updEngine s b f).bitVars = s.bitVars := rfl
@[simp] theorem updEngine_clk (s : State) (b : Nat) (f : BEngine → BEngine) : (updEngine s b f).clk = s.clk := rfl
@[simp] theorem updEngine_pins (s : State) (b : Nat) (f : BEngine → BEngine) : (updEngine s b f).pins = s.pins := rfl
@[simp] theorem updEngine_boot (s : State) (b : Nat) (f : BEngine → BEngine) : (updEngine s b f).boot = s.boot := rfl
@[simp] theorem updEngine_sec (s : State) (b : Nat) (f : BEngine → BEngine) : (updEngine s b f).sec = s.sec := rfl
@[simp] theorem updEngine_hv (s : State) (b : Nat) (f : BEngine → BEngine) : (updEngine s b f).hv = s.hv := rfl
@[simp] theorem updEngine_fm (s : State) (b : Nat) (f : BEngine → BEngine) : (updEngine s b f).fm = s.fm := rfl
@[simp] theorem updEngine_sources (s : State) (b : Nat) (f : BEngine → BEngine) : (updEngine s b f).sources = s.sources := rfl
@[simp] theorem updEngine_latches (s : State) (b : Nat) (f : BEngine → BEngine) : (updEngine s b f).latches = s.latches := rfl
@[simp] theorem updEngine_cores (s : State) (b : Nat) (f : BEngine → BEngine) : (updEngine s b f).cores = s.cores := rfl
@[simp] theorem updEngine_hl (s : State) (b : Nat) (f : BEngine → BEngine) : (updEngine s b f).hl = s.hl := rfl
@[simp] theorem updEngine_rings (s : State) (b : Nat) (f : BEngine → BEngine) : (updEngine s b f).rings = s.rings := rfl
@[simp] theorem updEngine_bursts (s : State) (b : Nat) (f : BEngine → BEngine) : (updEngine s b f).bursts = s.bursts := rfl
@[simp] theorem updEngine_descs (s : State) (b : Nat) (f : BEngine → BEngine) : (updEngine s b f).descs = s.descs := rfl
@[simp] theorem updEngine_stage (s : State) (b : Nat) (f : BEngine → BEngine) : (updEngine s b f).stage = s.stage := rfl
@[simp] theorem updEngine_fetchPtr (s : State) (b : Nat) (f : BEngine → BEngine) : (updEngine s b f).fetchPtr = s.fetchPtr := rfl
@[simp] theorem updEngine_plans (s : State) (b : Nat) (f : BEngine → BEngine) : (updEngine s b f).plans = s.plans := rfl
@[simp] theorem updEngine_objs (s : State) (b : Nat) (f : BEngine → BEngine) : (updEngine s b f).objs = s.objs := rfl
@[simp] theorem updEngine_queues (s : State) (b : Nat) (f : BEngine → BEngine) : (updEngine s b f).queues = s.queues := rfl
@[simp] theorem updEngine_jobs (s : State) (b : Nat) (f : BEngine → BEngine) : (updEngine s b f).jobs = s.jobs := rfl
@[simp] theorem updEngine_ports (s : State) (b : Nat) (f : BEngine → BEngine) : (updEngine s b f).ports = s.ports := rfl
@[simp] theorem updEngine_pstreams (s : State) (b : Nat) (f : BEngine → BEngine) : (updEngine s b f).pstreams = s.pstreams := rfl
@[simp] theorem updEngine_streams (s : State) (b : Nat) (f : BEngine → BEngine) : (updEngine s b f).streams = s.streams := rfl
@[simp] theorem updEngine_stripes (s : State) (b : Nat) (f : BEngine → BEngine) : (updEngine s b f).stripes = s.stripes := rfl
@[simp] theorem updEngine_encs (s : State) (b : Nat) (f : BEngine → BEngine) : (updEngine s b f).encs = s.encs := rfl
@[simp] theorem updEngine_trigs (s : State) (b : Nat) (f : BEngine → BEngine) : (updEngine s b f).trigs = s.trigs := rfl
@[simp] theorem updEngine_links (s : State) (b : Nat) (f : BEngine → BEngine) : (updEngine s b f).links = s.links := rfl
@[simp] theorem updEngine_giLevel (s : State) (b : Nat) (f : BEngine → BEngine) : (updEngine s b f).giLevel = s.giLevel := rfl
@[simp] theorem updEngine_giFrom (s : State) (b : Nat) (f : BEngine → BEngine) : (updEngine s b f).giFrom = s.giFrom := rfl
@[simp] theorem updEngine_tiles (s : State) (b : Nat) (f : BEngine → BEngine) : (updEngine s b f).tiles = s.tiles := rfl
@[simp] theorem updEngine_grid (s : State) (b : Nat) (f : BEngine → BEngine) : (updEngine s b f).grid = s.grid := rfl
@[simp] theorem updEngine_sctx (s : State) (b : Nat) (f : BEngine → BEngine) : (updEngine s b f).sctx = s.sctx := rfl
@[simp] theorem updEngine_bwTokens (s : State) (b : Nat) (f : BEngine → BEngine) : (updEngine s b f).bwTokens = s.bwTokens := rfl
@[simp] theorem updEngine_chans (s : State) (b : Nat) (f : BEngine → BEngine) : (updEngine s b f).chans = s.chans := rfl
@[simp] theorem updEngine_dram (s : State) (b : Nat) (f : BEngine → BEngine) : (updEngine s b f).dram = s.dram := rfl
@[simp] theorem updEngine_pm (s : State) (b : Nat) (f : BEngine → BEngine) : (updEngine s b f).pm = s.pm := rfl
@[simp] theorem updEngine_drifts (s : State) (b : Nat) (f : BEngine → BEngine) : (updEngine s b f).drifts = s.drifts := rfl

@[simp] theorem updEnc_pending (s : State) (e : Nat) (f : Encoder → Encoder) : (updEnc s e f).pending = s.pending := rfl
@[simp] theorem updEnc_regs (s : State) (e : Nat) (f : Encoder → Encoder) : (updEnc s e f).regs = s.regs := rfl
@[simp] theorem updEnc_shadow (s : State) (e : Nat) (f : Encoder → Encoder) : (updEnc s e f).shadow = s.shadow := rfl
@[simp] theorem updEnc_heldLow (s : State) (e : Nat) (f : Encoder → Encoder) : (updEnc s e f).heldLow = s.heldLow := rfl
@[simp] theorem updEnc_latched (s : State) (e : Nat) (f : Encoder → Encoder) : (updEnc s e f).latched = s.latched := rfl
@[simp] theorem updEnc_readData (s : State) (e : Nat) (f : Encoder → Encoder) : (updEnc s e f).readData = s.readData := rfl
@[simp] theorem updEnc_readError (s : State) (e : Nat) (f : Encoder → Encoder) : (updEnc s e f).readError = s.readError := rfl
@[simp] theorem updEnc_free (s : State) (e : Nat) (f : Encoder → Encoder) : (updEnc s e f).free = s.free := rfl
@[simp] theorem updEnc_mem (s : State) (e : Nat) (f : Encoder → Encoder) : (updEnc s e f).mem = s.mem := rfl
@[simp] theorem updEnc_hostMem (s : State) (e : Nat) (f : Encoder → Encoder) : (updEnc s e f).hostMem = s.hostMem := rfl
@[simp] theorem updEnc_blocks (s : State) (e : Nat) (f : Encoder → Encoder) : (updEnc s e f).blocks = s.blocks := rfl
@[simp] theorem updEnc_spPoison (s : State) (e : Nat) (f : Encoder → Encoder) : (updEnc s e f).spPoison = s.spPoison := rfl
@[simp] theorem updEnc_iram (s : State) (e : Nat) (f : Encoder → Encoder) : (updEnc s e f).iram = s.iram := rfl
@[simp] theorem updEnc_tcm (s : State) (e : Nat) (f : Encoder → Encoder) : (updEnc s e f).tcm = s.tcm := rfl
@[simp] theorem updEnc_bitVars (s : State) (e : Nat) (f : Encoder → Encoder) : (updEnc s e f).bitVars = s.bitVars := rfl
@[simp] theorem updEnc_clk (s : State) (e : Nat) (f : Encoder → Encoder) : (updEnc s e f).clk = s.clk := rfl
@[simp] theorem updEnc_pins (s : State) (e : Nat) (f : Encoder → Encoder) : (updEnc s e f).pins = s.pins := rfl
@[simp] theorem updEnc_boot (s : State) (e : Nat) (f : Encoder → Encoder) : (updEnc s e f).boot = s.boot := rfl
@[simp] theorem updEnc_sec (s : State) (e : Nat) (f : Encoder → Encoder) : (updEnc s e f).sec = s.sec := rfl
@[simp] theorem updEnc_hv (s : State) (e : Nat) (f : Encoder → Encoder) : (updEnc s e f).hv = s.hv := rfl
@[simp] theorem updEnc_fm (s : State) (e : Nat) (f : Encoder → Encoder) : (updEnc s e f).fm = s.fm := rfl
@[simp] theorem updEnc_sources (s : State) (e : Nat) (f : Encoder → Encoder) : (updEnc s e f).sources = s.sources := rfl
@[simp] theorem updEnc_latches (s : State) (e : Nat) (f : Encoder → Encoder) : (updEnc s e f).latches = s.latches := rfl
@[simp] theorem updEnc_cores (s : State) (e : Nat) (f : Encoder → Encoder) : (updEnc s e f).cores = s.cores := rfl
@[simp] theorem updEnc_hl (s : State) (e : Nat) (f : Encoder → Encoder) : (updEnc s e f).hl = s.hl := rfl
@[simp] theorem updEnc_rings (s : State) (e : Nat) (f : Encoder → Encoder) : (updEnc s e f).rings = s.rings := rfl
@[simp] theorem updEnc_bursts (s : State) (e : Nat) (f : Encoder → Encoder) : (updEnc s e f).bursts = s.bursts := rfl
@[simp] theorem updEnc_descs (s : State) (e : Nat) (f : Encoder → Encoder) : (updEnc s e f).descs = s.descs := rfl
@[simp] theorem updEnc_stage (s : State) (e : Nat) (f : Encoder → Encoder) : (updEnc s e f).stage = s.stage := rfl
@[simp] theorem updEnc_fetchPtr (s : State) (e : Nat) (f : Encoder → Encoder) : (updEnc s e f).fetchPtr = s.fetchPtr := rfl
@[simp] theorem updEnc_plans (s : State) (e : Nat) (f : Encoder → Encoder) : (updEnc s e f).plans = s.plans := rfl
@[simp] theorem updEnc_objs (s : State) (e : Nat) (f : Encoder → Encoder) : (updEnc s e f).objs = s.objs := rfl
@[simp] theorem updEnc_queues (s : State) (e : Nat) (f : Encoder → Encoder) : (updEnc s e f).queues = s.queues := rfl
@[simp] theorem updEnc_jobs (s : State) (e : Nat) (f : Encoder → Encoder) : (updEnc s e f).jobs = s.jobs := rfl
@[simp] theorem updEnc_ports (s : State) (e : Nat) (f : Encoder → Encoder) : (updEnc s e f).ports = s.ports := rfl
@[simp] theorem updEnc_pstreams (s : State) (e : Nat) (f : Encoder → Encoder) : (updEnc s e f).pstreams = s.pstreams := rfl
@[simp] theorem updEnc_streams (s : State) (e : Nat) (f : Encoder → Encoder) : (updEnc s e f).streams = s.streams := rfl
@[simp] theorem updEnc_stripes (s : State) (e : Nat) (f : Encoder → Encoder) : (updEnc s e f).stripes = s.stripes := rfl
@[simp] theorem updEnc_engines (s : State) (e : Nat) (f : Encoder → Encoder) : (updEnc s e f).engines = s.engines := rfl
@[simp] theorem updEnc_trigs (s : State) (e : Nat) (f : Encoder → Encoder) : (updEnc s e f).trigs = s.trigs := rfl
@[simp] theorem updEnc_links (s : State) (e : Nat) (f : Encoder → Encoder) : (updEnc s e f).links = s.links := rfl
@[simp] theorem updEnc_giLevel (s : State) (e : Nat) (f : Encoder → Encoder) : (updEnc s e f).giLevel = s.giLevel := rfl
@[simp] theorem updEnc_giFrom (s : State) (e : Nat) (f : Encoder → Encoder) : (updEnc s e f).giFrom = s.giFrom := rfl
@[simp] theorem updEnc_tiles (s : State) (e : Nat) (f : Encoder → Encoder) : (updEnc s e f).tiles = s.tiles := rfl
@[simp] theorem updEnc_grid (s : State) (e : Nat) (f : Encoder → Encoder) : (updEnc s e f).grid = s.grid := rfl
@[simp] theorem updEnc_sctx (s : State) (e : Nat) (f : Encoder → Encoder) : (updEnc s e f).sctx = s.sctx := rfl
@[simp] theorem updEnc_bwTokens (s : State) (e : Nat) (f : Encoder → Encoder) : (updEnc s e f).bwTokens = s.bwTokens := rfl
@[simp] theorem updEnc_chans (s : State) (e : Nat) (f : Encoder → Encoder) : (updEnc s e f).chans = s.chans := rfl
@[simp] theorem updEnc_dram (s : State) (e : Nat) (f : Encoder → Encoder) : (updEnc s e f).dram = s.dram := rfl
@[simp] theorem updEnc_pm (s : State) (e : Nat) (f : Encoder → Encoder) : (updEnc s e f).pm = s.pm := rfl
@[simp] theorem updEnc_drifts (s : State) (e : Nat) (f : Encoder → Encoder) : (updEnc s e f).drifts = s.drifts := rfl

@[simp] theorem updTrig_pending (s : State) (t : Nat) (f : Trig → Trig) : (updTrig s t f).pending = s.pending := rfl
@[simp] theorem updTrig_regs (s : State) (t : Nat) (f : Trig → Trig) : (updTrig s t f).regs = s.regs := rfl
@[simp] theorem updTrig_shadow (s : State) (t : Nat) (f : Trig → Trig) : (updTrig s t f).shadow = s.shadow := rfl
@[simp] theorem updTrig_heldLow (s : State) (t : Nat) (f : Trig → Trig) : (updTrig s t f).heldLow = s.heldLow := rfl
@[simp] theorem updTrig_latched (s : State) (t : Nat) (f : Trig → Trig) : (updTrig s t f).latched = s.latched := rfl
@[simp] theorem updTrig_readData (s : State) (t : Nat) (f : Trig → Trig) : (updTrig s t f).readData = s.readData := rfl
@[simp] theorem updTrig_readError (s : State) (t : Nat) (f : Trig → Trig) : (updTrig s t f).readError = s.readError := rfl
@[simp] theorem updTrig_free (s : State) (t : Nat) (f : Trig → Trig) : (updTrig s t f).free = s.free := rfl
@[simp] theorem updTrig_mem (s : State) (t : Nat) (f : Trig → Trig) : (updTrig s t f).mem = s.mem := rfl
@[simp] theorem updTrig_hostMem (s : State) (t : Nat) (f : Trig → Trig) : (updTrig s t f).hostMem = s.hostMem := rfl
@[simp] theorem updTrig_blocks (s : State) (t : Nat) (f : Trig → Trig) : (updTrig s t f).blocks = s.blocks := rfl
@[simp] theorem updTrig_spPoison (s : State) (t : Nat) (f : Trig → Trig) : (updTrig s t f).spPoison = s.spPoison := rfl
@[simp] theorem updTrig_iram (s : State) (t : Nat) (f : Trig → Trig) : (updTrig s t f).iram = s.iram := rfl
@[simp] theorem updTrig_tcm (s : State) (t : Nat) (f : Trig → Trig) : (updTrig s t f).tcm = s.tcm := rfl
@[simp] theorem updTrig_bitVars (s : State) (t : Nat) (f : Trig → Trig) : (updTrig s t f).bitVars = s.bitVars := rfl
@[simp] theorem updTrig_clk (s : State) (t : Nat) (f : Trig → Trig) : (updTrig s t f).clk = s.clk := rfl
@[simp] theorem updTrig_pins (s : State) (t : Nat) (f : Trig → Trig) : (updTrig s t f).pins = s.pins := rfl
@[simp] theorem updTrig_boot (s : State) (t : Nat) (f : Trig → Trig) : (updTrig s t f).boot = s.boot := rfl
@[simp] theorem updTrig_sec (s : State) (t : Nat) (f : Trig → Trig) : (updTrig s t f).sec = s.sec := rfl
@[simp] theorem updTrig_hv (s : State) (t : Nat) (f : Trig → Trig) : (updTrig s t f).hv = s.hv := rfl
@[simp] theorem updTrig_fm (s : State) (t : Nat) (f : Trig → Trig) : (updTrig s t f).fm = s.fm := rfl
@[simp] theorem updTrig_sources (s : State) (t : Nat) (f : Trig → Trig) : (updTrig s t f).sources = s.sources := rfl
@[simp] theorem updTrig_latches (s : State) (t : Nat) (f : Trig → Trig) : (updTrig s t f).latches = s.latches := rfl
@[simp] theorem updTrig_cores (s : State) (t : Nat) (f : Trig → Trig) : (updTrig s t f).cores = s.cores := rfl
@[simp] theorem updTrig_hl (s : State) (t : Nat) (f : Trig → Trig) : (updTrig s t f).hl = s.hl := rfl
@[simp] theorem updTrig_rings (s : State) (t : Nat) (f : Trig → Trig) : (updTrig s t f).rings = s.rings := rfl
@[simp] theorem updTrig_bursts (s : State) (t : Nat) (f : Trig → Trig) : (updTrig s t f).bursts = s.bursts := rfl
@[simp] theorem updTrig_descs (s : State) (t : Nat) (f : Trig → Trig) : (updTrig s t f).descs = s.descs := rfl
@[simp] theorem updTrig_stage (s : State) (t : Nat) (f : Trig → Trig) : (updTrig s t f).stage = s.stage := rfl
@[simp] theorem updTrig_fetchPtr (s : State) (t : Nat) (f : Trig → Trig) : (updTrig s t f).fetchPtr = s.fetchPtr := rfl
@[simp] theorem updTrig_plans (s : State) (t : Nat) (f : Trig → Trig) : (updTrig s t f).plans = s.plans := rfl
@[simp] theorem updTrig_objs (s : State) (t : Nat) (f : Trig → Trig) : (updTrig s t f).objs = s.objs := rfl
@[simp] theorem updTrig_queues (s : State) (t : Nat) (f : Trig → Trig) : (updTrig s t f).queues = s.queues := rfl
@[simp] theorem updTrig_jobs (s : State) (t : Nat) (f : Trig → Trig) : (updTrig s t f).jobs = s.jobs := rfl
@[simp] theorem updTrig_ports (s : State) (t : Nat) (f : Trig → Trig) : (updTrig s t f).ports = s.ports := rfl
@[simp] theorem updTrig_pstreams (s : State) (t : Nat) (f : Trig → Trig) : (updTrig s t f).pstreams = s.pstreams := rfl
@[simp] theorem updTrig_streams (s : State) (t : Nat) (f : Trig → Trig) : (updTrig s t f).streams = s.streams := rfl
@[simp] theorem updTrig_stripes (s : State) (t : Nat) (f : Trig → Trig) : (updTrig s t f).stripes = s.stripes := rfl
@[simp] theorem updTrig_engines (s : State) (t : Nat) (f : Trig → Trig) : (updTrig s t f).engines = s.engines := rfl
@[simp] theorem updTrig_encs (s : State) (t : Nat) (f : Trig → Trig) : (updTrig s t f).encs = s.encs := rfl
@[simp] theorem updTrig_links (s : State) (t : Nat) (f : Trig → Trig) : (updTrig s t f).links = s.links := rfl
@[simp] theorem updTrig_giLevel (s : State) (t : Nat) (f : Trig → Trig) : (updTrig s t f).giLevel = s.giLevel := rfl
@[simp] theorem updTrig_giFrom (s : State) (t : Nat) (f : Trig → Trig) : (updTrig s t f).giFrom = s.giFrom := rfl
@[simp] theorem updTrig_tiles (s : State) (t : Nat) (f : Trig → Trig) : (updTrig s t f).tiles = s.tiles := rfl
@[simp] theorem updTrig_grid (s : State) (t : Nat) (f : Trig → Trig) : (updTrig s t f).grid = s.grid := rfl
@[simp] theorem updTrig_sctx (s : State) (t : Nat) (f : Trig → Trig) : (updTrig s t f).sctx = s.sctx := rfl
@[simp] theorem updTrig_bwTokens (s : State) (t : Nat) (f : Trig → Trig) : (updTrig s t f).bwTokens = s.bwTokens := rfl
@[simp] theorem updTrig_chans (s : State) (t : Nat) (f : Trig → Trig) : (updTrig s t f).chans = s.chans := rfl
@[simp] theorem updTrig_dram (s : State) (t : Nat) (f : Trig → Trig) : (updTrig s t f).dram = s.dram := rfl
@[simp] theorem updTrig_pm (s : State) (t : Nat) (f : Trig → Trig) : (updTrig s t f).pm = s.pm := rfl
@[simp] theorem updTrig_drifts (s : State) (t : Nat) (f : Trig → Trig) : (updTrig s t f).drifts = s.drifts := rfl

@[simp] theorem updLink_pending (s : State) (x : Nat) (f : Link → Link) : (updLink s x f).pending = s.pending := rfl
@[simp] theorem updLink_regs (s : State) (x : Nat) (f : Link → Link) : (updLink s x f).regs = s.regs := rfl
@[simp] theorem updLink_shadow (s : State) (x : Nat) (f : Link → Link) : (updLink s x f).shadow = s.shadow := rfl
@[simp] theorem updLink_heldLow (s : State) (x : Nat) (f : Link → Link) : (updLink s x f).heldLow = s.heldLow := rfl
@[simp] theorem updLink_latched (s : State) (x : Nat) (f : Link → Link) : (updLink s x f).latched = s.latched := rfl
@[simp] theorem updLink_readData (s : State) (x : Nat) (f : Link → Link) : (updLink s x f).readData = s.readData := rfl
@[simp] theorem updLink_readError (s : State) (x : Nat) (f : Link → Link) : (updLink s x f).readError = s.readError := rfl
@[simp] theorem updLink_free (s : State) (x : Nat) (f : Link → Link) : (updLink s x f).free = s.free := rfl
@[simp] theorem updLink_mem (s : State) (x : Nat) (f : Link → Link) : (updLink s x f).mem = s.mem := rfl
@[simp] theorem updLink_hostMem (s : State) (x : Nat) (f : Link → Link) : (updLink s x f).hostMem = s.hostMem := rfl
@[simp] theorem updLink_blocks (s : State) (x : Nat) (f : Link → Link) : (updLink s x f).blocks = s.blocks := rfl
@[simp] theorem updLink_spPoison (s : State) (x : Nat) (f : Link → Link) : (updLink s x f).spPoison = s.spPoison := rfl
@[simp] theorem updLink_iram (s : State) (x : Nat) (f : Link → Link) : (updLink s x f).iram = s.iram := rfl
@[simp] theorem updLink_tcm (s : State) (x : Nat) (f : Link → Link) : (updLink s x f).tcm = s.tcm := rfl
@[simp] theorem updLink_bitVars (s : State) (x : Nat) (f : Link → Link) : (updLink s x f).bitVars = s.bitVars := rfl
@[simp] theorem updLink_clk (s : State) (x : Nat) (f : Link → Link) : (updLink s x f).clk = s.clk := rfl
@[simp] theorem updLink_pins (s : State) (x : Nat) (f : Link → Link) : (updLink s x f).pins = s.pins := rfl
@[simp] theorem updLink_boot (s : State) (x : Nat) (f : Link → Link) : (updLink s x f).boot = s.boot := rfl
@[simp] theorem updLink_sec (s : State) (x : Nat) (f : Link → Link) : (updLink s x f).sec = s.sec := rfl
@[simp] theorem updLink_hv (s : State) (x : Nat) (f : Link → Link) : (updLink s x f).hv = s.hv := rfl
@[simp] theorem updLink_fm (s : State) (x : Nat) (f : Link → Link) : (updLink s x f).fm = s.fm := rfl
@[simp] theorem updLink_sources (s : State) (x : Nat) (f : Link → Link) : (updLink s x f).sources = s.sources := rfl
@[simp] theorem updLink_latches (s : State) (x : Nat) (f : Link → Link) : (updLink s x f).latches = s.latches := rfl
@[simp] theorem updLink_cores (s : State) (x : Nat) (f : Link → Link) : (updLink s x f).cores = s.cores := rfl
@[simp] theorem updLink_hl (s : State) (x : Nat) (f : Link → Link) : (updLink s x f).hl = s.hl := rfl
@[simp] theorem updLink_rings (s : State) (x : Nat) (f : Link → Link) : (updLink s x f).rings = s.rings := rfl
@[simp] theorem updLink_bursts (s : State) (x : Nat) (f : Link → Link) : (updLink s x f).bursts = s.bursts := rfl
@[simp] theorem updLink_descs (s : State) (x : Nat) (f : Link → Link) : (updLink s x f).descs = s.descs := rfl
@[simp] theorem updLink_stage (s : State) (x : Nat) (f : Link → Link) : (updLink s x f).stage = s.stage := rfl
@[simp] theorem updLink_fetchPtr (s : State) (x : Nat) (f : Link → Link) : (updLink s x f).fetchPtr = s.fetchPtr := rfl
@[simp] theorem updLink_plans (s : State) (x : Nat) (f : Link → Link) : (updLink s x f).plans = s.plans := rfl
@[simp] theorem updLink_objs (s : State) (x : Nat) (f : Link → Link) : (updLink s x f).objs = s.objs := rfl
@[simp] theorem updLink_queues (s : State) (x : Nat) (f : Link → Link) : (updLink s x f).queues = s.queues := rfl
@[simp] theorem updLink_jobs (s : State) (x : Nat) (f : Link → Link) : (updLink s x f).jobs = s.jobs := rfl
@[simp] theorem updLink_ports (s : State) (x : Nat) (f : Link → Link) : (updLink s x f).ports = s.ports := rfl
@[simp] theorem updLink_pstreams (s : State) (x : Nat) (f : Link → Link) : (updLink s x f).pstreams = s.pstreams := rfl
@[simp] theorem updLink_streams (s : State) (x : Nat) (f : Link → Link) : (updLink s x f).streams = s.streams := rfl
@[simp] theorem updLink_stripes (s : State) (x : Nat) (f : Link → Link) : (updLink s x f).stripes = s.stripes := rfl
@[simp] theorem updLink_engines (s : State) (x : Nat) (f : Link → Link) : (updLink s x f).engines = s.engines := rfl
@[simp] theorem updLink_encs (s : State) (x : Nat) (f : Link → Link) : (updLink s x f).encs = s.encs := rfl
@[simp] theorem updLink_trigs (s : State) (x : Nat) (f : Link → Link) : (updLink s x f).trigs = s.trigs := rfl
@[simp] theorem updLink_giLevel (s : State) (x : Nat) (f : Link → Link) : (updLink s x f).giLevel = s.giLevel := rfl
@[simp] theorem updLink_giFrom (s : State) (x : Nat) (f : Link → Link) : (updLink s x f).giFrom = s.giFrom := rfl
@[simp] theorem updLink_tiles (s : State) (x : Nat) (f : Link → Link) : (updLink s x f).tiles = s.tiles := rfl
@[simp] theorem updLink_grid (s : State) (x : Nat) (f : Link → Link) : (updLink s x f).grid = s.grid := rfl
@[simp] theorem updLink_sctx (s : State) (x : Nat) (f : Link → Link) : (updLink s x f).sctx = s.sctx := rfl
@[simp] theorem updLink_bwTokens (s : State) (x : Nat) (f : Link → Link) : (updLink s x f).bwTokens = s.bwTokens := rfl
@[simp] theorem updLink_chans (s : State) (x : Nat) (f : Link → Link) : (updLink s x f).chans = s.chans := rfl
@[simp] theorem updLink_dram (s : State) (x : Nat) (f : Link → Link) : (updLink s x f).dram = s.dram := rfl
@[simp] theorem updLink_pm (s : State) (x : Nat) (f : Link → Link) : (updLink s x f).pm = s.pm := rfl
@[simp] theorem updLink_drifts (s : State) (x : Nat) (f : Link → Link) : (updLink s x f).drifts = s.drifts := rfl

@[simp] theorem updCore_pending (s : State) (n : Nat) (f : Core → Core) : (updCore s n f).pending = s.pending := rfl
@[simp] theorem updCore_regs (s : State) (n : Nat) (f : Core → Core) : (updCore s n f).regs = s.regs := rfl
@[simp] theorem updCore_shadow (s : State) (n : Nat) (f : Core → Core) : (updCore s n f).shadow = s.shadow := rfl
@[simp] theorem updCore_heldLow (s : State) (n : Nat) (f : Core → Core) : (updCore s n f).heldLow = s.heldLow := rfl
@[simp] theorem updCore_latched (s : State) (n : Nat) (f : Core → Core) : (updCore s n f).latched = s.latched := rfl
@[simp] theorem updCore_readData (s : State) (n : Nat) (f : Core → Core) : (updCore s n f).readData = s.readData := rfl
@[simp] theorem updCore_readError (s : State) (n : Nat) (f : Core → Core) : (updCore s n f).readError = s.readError := rfl
@[simp] theorem updCore_free (s : State) (n : Nat) (f : Core → Core) : (updCore s n f).free = s.free := rfl
@[simp] theorem updCore_mem (s : State) (n : Nat) (f : Core → Core) : (updCore s n f).mem = s.mem := rfl
@[simp] theorem updCore_hostMem (s : State) (n : Nat) (f : Core → Core) : (updCore s n f).hostMem = s.hostMem := rfl
@[simp] theorem updCore_blocks (s : State) (n : Nat) (f : Core → Core) : (updCore s n f).blocks = s.blocks := rfl
@[simp] theorem updCore_spPoison (s : State) (n : Nat) (f : Core → Core) : (updCore s n f).spPoison = s.spPoison := rfl
@[simp] theorem updCore_iram (s : State) (n : Nat) (f : Core → Core) : (updCore s n f).iram = s.iram := rfl
@[simp] theorem updCore_tcm (s : State) (n : Nat) (f : Core → Core) : (updCore s n f).tcm = s.tcm := rfl
@[simp] theorem updCore_bitVars (s : State) (n : Nat) (f : Core → Core) : (updCore s n f).bitVars = s.bitVars := rfl
@[simp] theorem updCore_clk (s : State) (n : Nat) (f : Core → Core) : (updCore s n f).clk = s.clk := rfl
@[simp] theorem updCore_pins (s : State) (n : Nat) (f : Core → Core) : (updCore s n f).pins = s.pins := rfl
@[simp] theorem updCore_boot (s : State) (n : Nat) (f : Core → Core) : (updCore s n f).boot = s.boot := rfl
@[simp] theorem updCore_sec (s : State) (n : Nat) (f : Core → Core) : (updCore s n f).sec = s.sec := rfl
@[simp] theorem updCore_hv (s : State) (n : Nat) (f : Core → Core) : (updCore s n f).hv = s.hv := rfl
@[simp] theorem updCore_fm (s : State) (n : Nat) (f : Core → Core) : (updCore s n f).fm = s.fm := rfl
@[simp] theorem updCore_sources (s : State) (n : Nat) (f : Core → Core) : (updCore s n f).sources = s.sources := rfl
@[simp] theorem updCore_latches (s : State) (n : Nat) (f : Core → Core) : (updCore s n f).latches = s.latches := rfl
@[simp] theorem updCore_hl (s : State) (n : Nat) (f : Core → Core) : (updCore s n f).hl = s.hl := rfl
@[simp] theorem updCore_rings (s : State) (n : Nat) (f : Core → Core) : (updCore s n f).rings = s.rings := rfl
@[simp] theorem updCore_bursts (s : State) (n : Nat) (f : Core → Core) : (updCore s n f).bursts = s.bursts := rfl
@[simp] theorem updCore_descs (s : State) (n : Nat) (f : Core → Core) : (updCore s n f).descs = s.descs := rfl
@[simp] theorem updCore_stage (s : State) (n : Nat) (f : Core → Core) : (updCore s n f).stage = s.stage := rfl
@[simp] theorem updCore_fetchPtr (s : State) (n : Nat) (f : Core → Core) : (updCore s n f).fetchPtr = s.fetchPtr := rfl
@[simp] theorem updCore_plans (s : State) (n : Nat) (f : Core → Core) : (updCore s n f).plans = s.plans := rfl
@[simp] theorem updCore_objs (s : State) (n : Nat) (f : Core → Core) : (updCore s n f).objs = s.objs := rfl
@[simp] theorem updCore_queues (s : State) (n : Nat) (f : Core → Core) : (updCore s n f).queues = s.queues := rfl
@[simp] theorem updCore_jobs (s : State) (n : Nat) (f : Core → Core) : (updCore s n f).jobs = s.jobs := rfl
@[simp] theorem updCore_ports (s : State) (n : Nat) (f : Core → Core) : (updCore s n f).ports = s.ports := rfl
@[simp] theorem updCore_pstreams (s : State) (n : Nat) (f : Core → Core) : (updCore s n f).pstreams = s.pstreams := rfl
@[simp] theorem updCore_streams (s : State) (n : Nat) (f : Core → Core) : (updCore s n f).streams = s.streams := rfl
@[simp] theorem updCore_stripes (s : State) (n : Nat) (f : Core → Core) : (updCore s n f).stripes = s.stripes := rfl
@[simp] theorem updCore_engines (s : State) (n : Nat) (f : Core → Core) : (updCore s n f).engines = s.engines := rfl
@[simp] theorem updCore_encs (s : State) (n : Nat) (f : Core → Core) : (updCore s n f).encs = s.encs := rfl
@[simp] theorem updCore_trigs (s : State) (n : Nat) (f : Core → Core) : (updCore s n f).trigs = s.trigs := rfl
@[simp] theorem updCore_links (s : State) (n : Nat) (f : Core → Core) : (updCore s n f).links = s.links := rfl
@[simp] theorem updCore_giLevel (s : State) (n : Nat) (f : Core → Core) : (updCore s n f).giLevel = s.giLevel := rfl
@[simp] theorem updCore_giFrom (s : State) (n : Nat) (f : Core → Core) : (updCore s n f).giFrom = s.giFrom := rfl
@[simp] theorem updCore_tiles (s : State) (n : Nat) (f : Core → Core) : (updCore s n f).tiles = s.tiles := rfl
@[simp] theorem updCore_grid (s : State) (n : Nat) (f : Core → Core) : (updCore s n f).grid = s.grid := rfl
@[simp] theorem updCore_sctx (s : State) (n : Nat) (f : Core → Core) : (updCore s n f).sctx = s.sctx := rfl
@[simp] theorem updCore_bwTokens (s : State) (n : Nat) (f : Core → Core) : (updCore s n f).bwTokens = s.bwTokens := rfl
@[simp] theorem updCore_chans (s : State) (n : Nat) (f : Core → Core) : (updCore s n f).chans = s.chans := rfl
@[simp] theorem updCore_dram (s : State) (n : Nat) (f : Core → Core) : (updCore s n f).dram = s.dram := rfl
@[simp] theorem updCore_pm (s : State) (n : Nat) (f : Core → Core) : (updCore s n f).pm = s.pm := rfl
@[simp] theorem updCore_drifts (s : State) (n : Nat) (f : Core → Core) : (updCore s n f).drifts = s.drifts := rfl

@[simp] theorem setSource_pending (s : State) (n : Nat) (v : SrcState) : (setSource s n v).pending = s.pending := rfl
@[simp] theorem setSource_regs (s : State) (n : Nat) (v : SrcState) : (setSource s n v).regs = s.regs := rfl
@[simp] theorem setSource_shadow (s : State) (n : Nat) (v : SrcState) : (setSource s n v).shadow = s.shadow := rfl
@[simp] theorem setSource_heldLow (s : State) (n : Nat) (v : SrcState) : (setSource s n v).heldLow = s.heldLow := rfl
@[simp] theorem setSource_latched (s : State) (n : Nat) (v : SrcState) : (setSource s n v).latched = s.latched := rfl
@[simp] theorem setSource_readData (s : State) (n : Nat) (v : SrcState) : (setSource s n v).readData = s.readData := rfl
@[simp] theorem setSource_readError (s : State) (n : Nat) (v : SrcState) : (setSource s n v).readError = s.readError := rfl
@[simp] theorem setSource_free (s : State) (n : Nat) (v : SrcState) : (setSource s n v).free = s.free := rfl
@[simp] theorem setSource_mem (s : State) (n : Nat) (v : SrcState) : (setSource s n v).mem = s.mem := rfl
@[simp] theorem setSource_hostMem (s : State) (n : Nat) (v : SrcState) : (setSource s n v).hostMem = s.hostMem := rfl
@[simp] theorem setSource_blocks (s : State) (n : Nat) (v : SrcState) : (setSource s n v).blocks = s.blocks := rfl
@[simp] theorem setSource_spPoison (s : State) (n : Nat) (v : SrcState) : (setSource s n v).spPoison = s.spPoison := rfl
@[simp] theorem setSource_iram (s : State) (n : Nat) (v : SrcState) : (setSource s n v).iram = s.iram := rfl
@[simp] theorem setSource_tcm (s : State) (n : Nat) (v : SrcState) : (setSource s n v).tcm = s.tcm := rfl
@[simp] theorem setSource_bitVars (s : State) (n : Nat) (v : SrcState) : (setSource s n v).bitVars = s.bitVars := rfl
@[simp] theorem setSource_clk (s : State) (n : Nat) (v : SrcState) : (setSource s n v).clk = s.clk := rfl
@[simp] theorem setSource_pins (s : State) (n : Nat) (v : SrcState) : (setSource s n v).pins = s.pins := rfl
@[simp] theorem setSource_boot (s : State) (n : Nat) (v : SrcState) : (setSource s n v).boot = s.boot := rfl
@[simp] theorem setSource_sec (s : State) (n : Nat) (v : SrcState) : (setSource s n v).sec = s.sec := rfl
@[simp] theorem setSource_hv (s : State) (n : Nat) (v : SrcState) : (setSource s n v).hv = s.hv := rfl
@[simp] theorem setSource_fm (s : State) (n : Nat) (v : SrcState) : (setSource s n v).fm = s.fm := rfl
@[simp] theorem setSource_latches (s : State) (n : Nat) (v : SrcState) : (setSource s n v).latches = s.latches := rfl
@[simp] theorem setSource_cores (s : State) (n : Nat) (v : SrcState) : (setSource s n v).cores = s.cores := rfl
@[simp] theorem setSource_hl (s : State) (n : Nat) (v : SrcState) : (setSource s n v).hl = s.hl := rfl
@[simp] theorem setSource_rings (s : State) (n : Nat) (v : SrcState) : (setSource s n v).rings = s.rings := rfl
@[simp] theorem setSource_bursts (s : State) (n : Nat) (v : SrcState) : (setSource s n v).bursts = s.bursts := rfl
@[simp] theorem setSource_descs (s : State) (n : Nat) (v : SrcState) : (setSource s n v).descs = s.descs := rfl
@[simp] theorem setSource_stage (s : State) (n : Nat) (v : SrcState) : (setSource s n v).stage = s.stage := rfl
@[simp] theorem setSource_fetchPtr (s : State) (n : Nat) (v : SrcState) : (setSource s n v).fetchPtr = s.fetchPtr := rfl
@[simp] theorem setSource_plans (s : State) (n : Nat) (v : SrcState) : (setSource s n v).plans = s.plans := rfl
@[simp] theorem setSource_objs (s : State) (n : Nat) (v : SrcState) : (setSource s n v).objs = s.objs := rfl
@[simp] theorem setSource_queues (s : State) (n : Nat) (v : SrcState) : (setSource s n v).queues = s.queues := rfl
@[simp] theorem setSource_jobs (s : State) (n : Nat) (v : SrcState) : (setSource s n v).jobs = s.jobs := rfl
@[simp] theorem setSource_ports (s : State) (n : Nat) (v : SrcState) : (setSource s n v).ports = s.ports := rfl
@[simp] theorem setSource_pstreams (s : State) (n : Nat) (v : SrcState) : (setSource s n v).pstreams = s.pstreams := rfl
@[simp] theorem setSource_streams (s : State) (n : Nat) (v : SrcState) : (setSource s n v).streams = s.streams := rfl
@[simp] theorem setSource_stripes (s : State) (n : Nat) (v : SrcState) : (setSource s n v).stripes = s.stripes := rfl
@[simp] theorem setSource_engines (s : State) (n : Nat) (v : SrcState) : (setSource s n v).engines = s.engines := rfl
@[simp] theorem setSource_encs (s : State) (n : Nat) (v : SrcState) : (setSource s n v).encs = s.encs := rfl
@[simp] theorem setSource_trigs (s : State) (n : Nat) (v : SrcState) : (setSource s n v).trigs = s.trigs := rfl
@[simp] theorem setSource_links (s : State) (n : Nat) (v : SrcState) : (setSource s n v).links = s.links := rfl
@[simp] theorem setSource_giLevel (s : State) (n : Nat) (v : SrcState) : (setSource s n v).giLevel = s.giLevel := rfl
@[simp] theorem setSource_giFrom (s : State) (n : Nat) (v : SrcState) : (setSource s n v).giFrom = s.giFrom := rfl
@[simp] theorem setSource_tiles (s : State) (n : Nat) (v : SrcState) : (setSource s n v).tiles = s.tiles := rfl
@[simp] theorem setSource_grid (s : State) (n : Nat) (v : SrcState) : (setSource s n v).grid = s.grid := rfl
@[simp] theorem setSource_sctx (s : State) (n : Nat) (v : SrcState) : (setSource s n v).sctx = s.sctx := rfl
@[simp] theorem setSource_bwTokens (s : State) (n : Nat) (v : SrcState) : (setSource s n v).bwTokens = s.bwTokens := rfl
@[simp] theorem setSource_chans (s : State) (n : Nat) (v : SrcState) : (setSource s n v).chans = s.chans := rfl
@[simp] theorem setSource_dram (s : State) (n : Nat) (v : SrcState) : (setSource s n v).dram = s.dram := rfl
@[simp] theorem setSource_pm (s : State) (n : Nat) (v : SrcState) : (setSource s n v).pm = s.pm := rfl
@[simp] theorem setSource_drifts (s : State) (n : Nat) (v : SrcState) : (setSource s n v).drifts = s.drifts := rfl

@[simp] theorem updRing_pending (s : State) (r : Nat) (f : Ring → Ring) : (updRing s r f).pending = s.pending := rfl
@[simp] theorem updRing_regs (s : State) (r : Nat) (f : Ring → Ring) : (updRing s r f).regs = s.regs := rfl
@[simp] theorem updRing_shadow (s : State) (r : Nat) (f : Ring → Ring) : (updRing s r f).shadow = s.shadow := rfl
@[simp] theorem updRing_heldLow (s : State) (r : Nat) (f : Ring → Ring) : (updRing s r f).heldLow = s.heldLow := rfl
@[simp] theorem updRing_latched (s : State) (r : Nat) (f : Ring → Ring) : (updRing s r f).latched = s.latched := rfl
@[simp] theorem updRing_readData (s : State) (r : Nat) (f : Ring → Ring) : (updRing s r f).readData = s.readData := rfl
@[simp] theorem updRing_readError (s : State) (r : Nat) (f : Ring → Ring) : (updRing s r f).readError = s.readError := rfl
@[simp] theorem updRing_free (s : State) (r : Nat) (f : Ring → Ring) : (updRing s r f).free = s.free := rfl
@[simp] theorem updRing_mem (s : State) (r : Nat) (f : Ring → Ring) : (updRing s r f).mem = s.mem := rfl
@[simp] theorem updRing_hostMem (s : State) (r : Nat) (f : Ring → Ring) : (updRing s r f).hostMem = s.hostMem := rfl
@[simp] theorem updRing_blocks (s : State) (r : Nat) (f : Ring → Ring) : (updRing s r f).blocks = s.blocks := rfl
@[simp] theorem updRing_spPoison (s : State) (r : Nat) (f : Ring → Ring) : (updRing s r f).spPoison = s.spPoison := rfl
@[simp] theorem updRing_iram (s : State) (r : Nat) (f : Ring → Ring) : (updRing s r f).iram = s.iram := rfl
@[simp] theorem updRing_tcm (s : State) (r : Nat) (f : Ring → Ring) : (updRing s r f).tcm = s.tcm := rfl
@[simp] theorem updRing_bitVars (s : State) (r : Nat) (f : Ring → Ring) : (updRing s r f).bitVars = s.bitVars := rfl
@[simp] theorem updRing_clk (s : State) (r : Nat) (f : Ring → Ring) : (updRing s r f).clk = s.clk := rfl
@[simp] theorem updRing_pins (s : State) (r : Nat) (f : Ring → Ring) : (updRing s r f).pins = s.pins := rfl
@[simp] theorem updRing_boot (s : State) (r : Nat) (f : Ring → Ring) : (updRing s r f).boot = s.boot := rfl
@[simp] theorem updRing_sec (s : State) (r : Nat) (f : Ring → Ring) : (updRing s r f).sec = s.sec := rfl
@[simp] theorem updRing_hv (s : State) (r : Nat) (f : Ring → Ring) : (updRing s r f).hv = s.hv := rfl
@[simp] theorem updRing_fm (s : State) (r : Nat) (f : Ring → Ring) : (updRing s r f).fm = s.fm := rfl
@[simp] theorem updRing_sources (s : State) (r : Nat) (f : Ring → Ring) : (updRing s r f).sources = s.sources := rfl
@[simp] theorem updRing_latches (s : State) (r : Nat) (f : Ring → Ring) : (updRing s r f).latches = s.latches := rfl
@[simp] theorem updRing_cores (s : State) (r : Nat) (f : Ring → Ring) : (updRing s r f).cores = s.cores := rfl
@[simp] theorem updRing_hl (s : State) (r : Nat) (f : Ring → Ring) : (updRing s r f).hl = s.hl := rfl
@[simp] theorem updRing_bursts (s : State) (r : Nat) (f : Ring → Ring) : (updRing s r f).bursts = s.bursts := rfl
@[simp] theorem updRing_descs (s : State) (r : Nat) (f : Ring → Ring) : (updRing s r f).descs = s.descs := rfl
@[simp] theorem updRing_stage (s : State) (r : Nat) (f : Ring → Ring) : (updRing s r f).stage = s.stage := rfl
@[simp] theorem updRing_fetchPtr (s : State) (r : Nat) (f : Ring → Ring) : (updRing s r f).fetchPtr = s.fetchPtr := rfl
@[simp] theorem updRing_plans (s : State) (r : Nat) (f : Ring → Ring) : (updRing s r f).plans = s.plans := rfl
@[simp] theorem updRing_objs (s : State) (r : Nat) (f : Ring → Ring) : (updRing s r f).objs = s.objs := rfl
@[simp] theorem updRing_queues (s : State) (r : Nat) (f : Ring → Ring) : (updRing s r f).queues = s.queues := rfl
@[simp] theorem updRing_jobs (s : State) (r : Nat) (f : Ring → Ring) : (updRing s r f).jobs = s.jobs := rfl
@[simp] theorem updRing_ports (s : State) (r : Nat) (f : Ring → Ring) : (updRing s r f).ports = s.ports := rfl
@[simp] theorem updRing_pstreams (s : State) (r : Nat) (f : Ring → Ring) : (updRing s r f).pstreams = s.pstreams := rfl
@[simp] theorem updRing_streams (s : State) (r : Nat) (f : Ring → Ring) : (updRing s r f).streams = s.streams := rfl
@[simp] theorem updRing_stripes (s : State) (r : Nat) (f : Ring → Ring) : (updRing s r f).stripes = s.stripes := rfl
@[simp] theorem updRing_engines (s : State) (r : Nat) (f : Ring → Ring) : (updRing s r f).engines = s.engines := rfl
@[simp] theorem updRing_encs (s : State) (r : Nat) (f : Ring → Ring) : (updRing s r f).encs = s.encs := rfl
@[simp] theorem updRing_trigs (s : State) (r : Nat) (f : Ring → Ring) : (updRing s r f).trigs = s.trigs := rfl
@[simp] theorem updRing_links (s : State) (r : Nat) (f : Ring → Ring) : (updRing s r f).links = s.links := rfl
@[simp] theorem updRing_giLevel (s : State) (r : Nat) (f : Ring → Ring) : (updRing s r f).giLevel = s.giLevel := rfl
@[simp] theorem updRing_giFrom (s : State) (r : Nat) (f : Ring → Ring) : (updRing s r f).giFrom = s.giFrom := rfl
@[simp] theorem updRing_tiles (s : State) (r : Nat) (f : Ring → Ring) : (updRing s r f).tiles = s.tiles := rfl
@[simp] theorem updRing_grid (s : State) (r : Nat) (f : Ring → Ring) : (updRing s r f).grid = s.grid := rfl
@[simp] theorem updRing_sctx (s : State) (r : Nat) (f : Ring → Ring) : (updRing s r f).sctx = s.sctx := rfl
@[simp] theorem updRing_bwTokens (s : State) (r : Nat) (f : Ring → Ring) : (updRing s r f).bwTokens = s.bwTokens := rfl
@[simp] theorem updRing_chans (s : State) (r : Nat) (f : Ring → Ring) : (updRing s r f).chans = s.chans := rfl
@[simp] theorem updRing_dram (s : State) (r : Nat) (f : Ring → Ring) : (updRing s r f).dram = s.dram := rfl
@[simp] theorem updRing_pm (s : State) (r : Nat) (f : Ring → Ring) : (updRing s r f).pm = s.pm := rfl
@[simp] theorem updRing_drifts (s : State) (r : Nat) (f : Ring → Ring) : (updRing s r f).drifts = s.drifts := rfl

@[simp] theorem updPlan_pending (s : State) (p : Nat) (f : Plan → Plan) : (updPlan s p f).pending = s.pending := rfl
@[simp] theorem updPlan_regs (s : State) (p : Nat) (f : Plan → Plan) : (updPlan s p f).regs = s.regs := rfl
@[simp] theorem updPlan_shadow (s : State) (p : Nat) (f : Plan → Plan) : (updPlan s p f).shadow = s.shadow := rfl
@[simp] theorem updPlan_heldLow (s : State) (p : Nat) (f : Plan → Plan) : (updPlan s p f).heldLow = s.heldLow := rfl
@[simp] theorem updPlan_latched (s : State) (p : Nat) (f : Plan → Plan) : (updPlan s p f).latched = s.latched := rfl
@[simp] theorem updPlan_readData (s : State) (p : Nat) (f : Plan → Plan) : (updPlan s p f).readData = s.readData := rfl
@[simp] theorem updPlan_readError (s : State) (p : Nat) (f : Plan → Plan) : (updPlan s p f).readError = s.readError := rfl
@[simp] theorem updPlan_free (s : State) (p : Nat) (f : Plan → Plan) : (updPlan s p f).free = s.free := rfl
@[simp] theorem updPlan_mem (s : State) (p : Nat) (f : Plan → Plan) : (updPlan s p f).mem = s.mem := rfl
@[simp] theorem updPlan_hostMem (s : State) (p : Nat) (f : Plan → Plan) : (updPlan s p f).hostMem = s.hostMem := rfl
@[simp] theorem updPlan_blocks (s : State) (p : Nat) (f : Plan → Plan) : (updPlan s p f).blocks = s.blocks := rfl
@[simp] theorem updPlan_spPoison (s : State) (p : Nat) (f : Plan → Plan) : (updPlan s p f).spPoison = s.spPoison := rfl
@[simp] theorem updPlan_iram (s : State) (p : Nat) (f : Plan → Plan) : (updPlan s p f).iram = s.iram := rfl
@[simp] theorem updPlan_tcm (s : State) (p : Nat) (f : Plan → Plan) : (updPlan s p f).tcm = s.tcm := rfl
@[simp] theorem updPlan_bitVars (s : State) (p : Nat) (f : Plan → Plan) : (updPlan s p f).bitVars = s.bitVars := rfl
@[simp] theorem updPlan_clk (s : State) (p : Nat) (f : Plan → Plan) : (updPlan s p f).clk = s.clk := rfl
@[simp] theorem updPlan_pins (s : State) (p : Nat) (f : Plan → Plan) : (updPlan s p f).pins = s.pins := rfl
@[simp] theorem updPlan_boot (s : State) (p : Nat) (f : Plan → Plan) : (updPlan s p f).boot = s.boot := rfl
@[simp] theorem updPlan_sec (s : State) (p : Nat) (f : Plan → Plan) : (updPlan s p f).sec = s.sec := rfl
@[simp] theorem updPlan_hv (s : State) (p : Nat) (f : Plan → Plan) : (updPlan s p f).hv = s.hv := rfl
@[simp] theorem updPlan_fm (s : State) (p : Nat) (f : Plan → Plan) : (updPlan s p f).fm = s.fm := rfl
@[simp] theorem updPlan_sources (s : State) (p : Nat) (f : Plan → Plan) : (updPlan s p f).sources = s.sources := rfl
@[simp] theorem updPlan_latches (s : State) (p : Nat) (f : Plan → Plan) : (updPlan s p f).latches = s.latches := rfl
@[simp] theorem updPlan_cores (s : State) (p : Nat) (f : Plan → Plan) : (updPlan s p f).cores = s.cores := rfl
@[simp] theorem updPlan_hl (s : State) (p : Nat) (f : Plan → Plan) : (updPlan s p f).hl = s.hl := rfl
@[simp] theorem updPlan_rings (s : State) (p : Nat) (f : Plan → Plan) : (updPlan s p f).rings = s.rings := rfl
@[simp] theorem updPlan_bursts (s : State) (p : Nat) (f : Plan → Plan) : (updPlan s p f).bursts = s.bursts := rfl
@[simp] theorem updPlan_descs (s : State) (p : Nat) (f : Plan → Plan) : (updPlan s p f).descs = s.descs := rfl
@[simp] theorem updPlan_stage (s : State) (p : Nat) (f : Plan → Plan) : (updPlan s p f).stage = s.stage := rfl
@[simp] theorem updPlan_fetchPtr (s : State) (p : Nat) (f : Plan → Plan) : (updPlan s p f).fetchPtr = s.fetchPtr := rfl
@[simp] theorem updPlan_objs (s : State) (p : Nat) (f : Plan → Plan) : (updPlan s p f).objs = s.objs := rfl
@[simp] theorem updPlan_queues (s : State) (p : Nat) (f : Plan → Plan) : (updPlan s p f).queues = s.queues := rfl
@[simp] theorem updPlan_jobs (s : State) (p : Nat) (f : Plan → Plan) : (updPlan s p f).jobs = s.jobs := rfl
@[simp] theorem updPlan_ports (s : State) (p : Nat) (f : Plan → Plan) : (updPlan s p f).ports = s.ports := rfl
@[simp] theorem updPlan_pstreams (s : State) (p : Nat) (f : Plan → Plan) : (updPlan s p f).pstreams = s.pstreams := rfl
@[simp] theorem updPlan_streams (s : State) (p : Nat) (f : Plan → Plan) : (updPlan s p f).streams = s.streams := rfl
@[simp] theorem updPlan_stripes (s : State) (p : Nat) (f : Plan → Plan) : (updPlan s p f).stripes = s.stripes := rfl
@[simp] theorem updPlan_engines (s : State) (p : Nat) (f : Plan → Plan) : (updPlan s p f).engines = s.engines := rfl
@[simp] theorem updPlan_encs (s : State) (p : Nat) (f : Plan → Plan) : (updPlan s p f).encs = s.encs := rfl
@[simp] theorem updPlan_trigs (s : State) (p : Nat) (f : Plan → Plan) : (updPlan s p f).trigs = s.trigs := rfl
@[simp] theorem updPlan_links (s : State) (p : Nat) (f : Plan → Plan) : (updPlan s p f).links = s.links := rfl
@[simp] theorem updPlan_giLevel (s : State) (p : Nat) (f : Plan → Plan) : (updPlan s p f).giLevel = s.giLevel := rfl
@[simp] theorem updPlan_giFrom (s : State) (p : Nat) (f : Plan → Plan) : (updPlan s p f).giFrom = s.giFrom := rfl
@[simp] theorem updPlan_tiles (s : State) (p : Nat) (f : Plan → Plan) : (updPlan s p f).tiles = s.tiles := rfl
@[simp] theorem updPlan_grid (s : State) (p : Nat) (f : Plan → Plan) : (updPlan s p f).grid = s.grid := rfl
@[simp] theorem updPlan_sctx (s : State) (p : Nat) (f : Plan → Plan) : (updPlan s p f).sctx = s.sctx := rfl
@[simp] theorem updPlan_bwTokens (s : State) (p : Nat) (f : Plan → Plan) : (updPlan s p f).bwTokens = s.bwTokens := rfl
@[simp] theorem updPlan_chans (s : State) (p : Nat) (f : Plan → Plan) : (updPlan s p f).chans = s.chans := rfl
@[simp] theorem updPlan_dram (s : State) (p : Nat) (f : Plan → Plan) : (updPlan s p f).dram = s.dram := rfl
@[simp] theorem updPlan_pm (s : State) (p : Nat) (f : Plan → Plan) : (updPlan s p f).pm = s.pm := rfl
@[simp] theorem updPlan_drifts (s : State) (p : Nat) (f : Plan → Plan) : (updPlan s p f).drifts = s.drifts := rfl

@[simp] theorem updObj_pending (s : State) (n : Nat) (f : SyncObj → SyncObj) : (updObj s n f).pending = s.pending := rfl
@[simp] theorem updObj_regs (s : State) (n : Nat) (f : SyncObj → SyncObj) : (updObj s n f).regs = s.regs := rfl
@[simp] theorem updObj_shadow (s : State) (n : Nat) (f : SyncObj → SyncObj) : (updObj s n f).shadow = s.shadow := rfl
@[simp] theorem updObj_heldLow (s : State) (n : Nat) (f : SyncObj → SyncObj) : (updObj s n f).heldLow = s.heldLow := rfl
@[simp] theorem updObj_latched (s : State) (n : Nat) (f : SyncObj → SyncObj) : (updObj s n f).latched = s.latched := rfl
@[simp] theorem updObj_readData (s : State) (n : Nat) (f : SyncObj → SyncObj) : (updObj s n f).readData = s.readData := rfl
@[simp] theorem updObj_readError (s : State) (n : Nat) (f : SyncObj → SyncObj) : (updObj s n f).readError = s.readError := rfl
@[simp] theorem updObj_free (s : State) (n : Nat) (f : SyncObj → SyncObj) : (updObj s n f).free = s.free := rfl
@[simp] theorem updObj_mem (s : State) (n : Nat) (f : SyncObj → SyncObj) : (updObj s n f).mem = s.mem := rfl
@[simp] theorem updObj_hostMem (s : State) (n : Nat) (f : SyncObj → SyncObj) : (updObj s n f).hostMem = s.hostMem := rfl
@[simp] theorem updObj_blocks (s : State) (n : Nat) (f : SyncObj → SyncObj) : (updObj s n f).blocks = s.blocks := rfl
@[simp] theorem updObj_spPoison (s : State) (n : Nat) (f : SyncObj → SyncObj) : (updObj s n f).spPoison = s.spPoison := rfl
@[simp] theorem updObj_iram (s : State) (n : Nat) (f : SyncObj → SyncObj) : (updObj s n f).iram = s.iram := rfl
@[simp] theorem updObj_tcm (s : State) (n : Nat) (f : SyncObj → SyncObj) : (updObj s n f).tcm = s.tcm := rfl
@[simp] theorem updObj_bitVars (s : State) (n : Nat) (f : SyncObj → SyncObj) : (updObj s n f).bitVars = s.bitVars := rfl
@[simp] theorem updObj_clk (s : State) (n : Nat) (f : SyncObj → SyncObj) : (updObj s n f).clk = s.clk := rfl
@[simp] theorem updObj_pins (s : State) (n : Nat) (f : SyncObj → SyncObj) : (updObj s n f).pins = s.pins := rfl
@[simp] theorem updObj_boot (s : State) (n : Nat) (f : SyncObj → SyncObj) : (updObj s n f).boot = s.boot := rfl
@[simp] theorem updObj_sec (s : State) (n : Nat) (f : SyncObj → SyncObj) : (updObj s n f).sec = s.sec := rfl
@[simp] theorem updObj_hv (s : State) (n : Nat) (f : SyncObj → SyncObj) : (updObj s n f).hv = s.hv := rfl
@[simp] theorem updObj_fm (s : State) (n : Nat) (f : SyncObj → SyncObj) : (updObj s n f).fm = s.fm := rfl
@[simp] theorem updObj_sources (s : State) (n : Nat) (f : SyncObj → SyncObj) : (updObj s n f).sources = s.sources := rfl
@[simp] theorem updObj_latches (s : State) (n : Nat) (f : SyncObj → SyncObj) : (updObj s n f).latches = s.latches := rfl
@[simp] theorem updObj_cores (s : State) (n : Nat) (f : SyncObj → SyncObj) : (updObj s n f).cores = s.cores := rfl
@[simp] theorem updObj_hl (s : State) (n : Nat) (f : SyncObj → SyncObj) : (updObj s n f).hl = s.hl := rfl
@[simp] theorem updObj_rings (s : State) (n : Nat) (f : SyncObj → SyncObj) : (updObj s n f).rings = s.rings := rfl
@[simp] theorem updObj_bursts (s : State) (n : Nat) (f : SyncObj → SyncObj) : (updObj s n f).bursts = s.bursts := rfl
@[simp] theorem updObj_descs (s : State) (n : Nat) (f : SyncObj → SyncObj) : (updObj s n f).descs = s.descs := rfl
@[simp] theorem updObj_stage (s : State) (n : Nat) (f : SyncObj → SyncObj) : (updObj s n f).stage = s.stage := rfl
@[simp] theorem updObj_fetchPtr (s : State) (n : Nat) (f : SyncObj → SyncObj) : (updObj s n f).fetchPtr = s.fetchPtr := rfl
@[simp] theorem updObj_plans (s : State) (n : Nat) (f : SyncObj → SyncObj) : (updObj s n f).plans = s.plans := rfl
@[simp] theorem updObj_queues (s : State) (n : Nat) (f : SyncObj → SyncObj) : (updObj s n f).queues = s.queues := rfl
@[simp] theorem updObj_jobs (s : State) (n : Nat) (f : SyncObj → SyncObj) : (updObj s n f).jobs = s.jobs := rfl
@[simp] theorem updObj_ports (s : State) (n : Nat) (f : SyncObj → SyncObj) : (updObj s n f).ports = s.ports := rfl
@[simp] theorem updObj_pstreams (s : State) (n : Nat) (f : SyncObj → SyncObj) : (updObj s n f).pstreams = s.pstreams := rfl
@[simp] theorem updObj_streams (s : State) (n : Nat) (f : SyncObj → SyncObj) : (updObj s n f).streams = s.streams := rfl
@[simp] theorem updObj_stripes (s : State) (n : Nat) (f : SyncObj → SyncObj) : (updObj s n f).stripes = s.stripes := rfl
@[simp] theorem updObj_engines (s : State) (n : Nat) (f : SyncObj → SyncObj) : (updObj s n f).engines = s.engines := rfl
@[simp] theorem updObj_encs (s : State) (n : Nat) (f : SyncObj → SyncObj) : (updObj s n f).encs = s.encs := rfl
@[simp] theorem updObj_trigs (s : State) (n : Nat) (f : SyncObj → SyncObj) : (updObj s n f).trigs = s.trigs := rfl
@[simp] theorem updObj_links (s : State) (n : Nat) (f : SyncObj → SyncObj) : (updObj s n f).links = s.links := rfl
@[simp] theorem updObj_giLevel (s : State) (n : Nat) (f : SyncObj → SyncObj) : (updObj s n f).giLevel = s.giLevel := rfl
@[simp] theorem updObj_giFrom (s : State) (n : Nat) (f : SyncObj → SyncObj) : (updObj s n f).giFrom = s.giFrom := rfl
@[simp] theorem updObj_tiles (s : State) (n : Nat) (f : SyncObj → SyncObj) : (updObj s n f).tiles = s.tiles := rfl
@[simp] theorem updObj_grid (s : State) (n : Nat) (f : SyncObj → SyncObj) : (updObj s n f).grid = s.grid := rfl
@[simp] theorem updObj_sctx (s : State) (n : Nat) (f : SyncObj → SyncObj) : (updObj s n f).sctx = s.sctx := rfl
@[simp] theorem updObj_bwTokens (s : State) (n : Nat) (f : SyncObj → SyncObj) : (updObj s n f).bwTokens = s.bwTokens := rfl
@[simp] theorem updObj_chans (s : State) (n : Nat) (f : SyncObj → SyncObj) : (updObj s n f).chans = s.chans := rfl
@[simp] theorem updObj_dram (s : State) (n : Nat) (f : SyncObj → SyncObj) : (updObj s n f).dram = s.dram := rfl
@[simp] theorem updObj_pm (s : State) (n : Nat) (f : SyncObj → SyncObj) : (updObj s n f).pm = s.pm := rfl
@[simp] theorem updObj_drifts (s : State) (n : Nat) (f : SyncObj → SyncObj) : (updObj s n f).drifts = s.drifts := rfl

@[simp] theorem updQueue_pending (s : State) (q : Nat) (f : Queue → Queue) : (updQueue s q f).pending = s.pending := rfl
@[simp] theorem updQueue_regs (s : State) (q : Nat) (f : Queue → Queue) : (updQueue s q f).regs = s.regs := rfl
@[simp] theorem updQueue_shadow (s : State) (q : Nat) (f : Queue → Queue) : (updQueue s q f).shadow = s.shadow := rfl
@[simp] theorem updQueue_heldLow (s : State) (q : Nat) (f : Queue → Queue) : (updQueue s q f).heldLow = s.heldLow := rfl
@[simp] theorem updQueue_latched (s : State) (q : Nat) (f : Queue → Queue) : (updQueue s q f).latched = s.latched := rfl
@[simp] theorem updQueue_readData (s : State) (q : Nat) (f : Queue → Queue) : (updQueue s q f).readData = s.readData := rfl
@[simp] theorem updQueue_readError (s : State) (q : Nat) (f : Queue → Queue) : (updQueue s q f).readError = s.readError := rfl
@[simp] theorem updQueue_free (s : State) (q : Nat) (f : Queue → Queue) : (updQueue s q f).free = s.free := rfl
@[simp] theorem updQueue_mem (s : State) (q : Nat) (f : Queue → Queue) : (updQueue s q f).mem = s.mem := rfl
@[simp] theorem updQueue_hostMem (s : State) (q : Nat) (f : Queue → Queue) : (updQueue s q f).hostMem = s.hostMem := rfl
@[simp] theorem updQueue_blocks (s : State) (q : Nat) (f : Queue → Queue) : (updQueue s q f).blocks = s.blocks := rfl
@[simp] theorem updQueue_spPoison (s : State) (q : Nat) (f : Queue → Queue) : (updQueue s q f).spPoison = s.spPoison := rfl
@[simp] theorem updQueue_iram (s : State) (q : Nat) (f : Queue → Queue) : (updQueue s q f).iram = s.iram := rfl
@[simp] theorem updQueue_tcm (s : State) (q : Nat) (f : Queue → Queue) : (updQueue s q f).tcm = s.tcm := rfl
@[simp] theorem updQueue_bitVars (s : State) (q : Nat) (f : Queue → Queue) : (updQueue s q f).bitVars = s.bitVars := rfl
@[simp] theorem updQueue_clk (s : State) (q : Nat) (f : Queue → Queue) : (updQueue s q f).clk = s.clk := rfl
@[simp] theorem updQueue_pins (s : State) (q : Nat) (f : Queue → Queue) : (updQueue s q f).pins = s.pins := rfl
@[simp] theorem updQueue_boot (s : State) (q : Nat) (f : Queue → Queue) : (updQueue s q f).boot = s.boot := rfl
@[simp] theorem updQueue_sec (s : State) (q : Nat) (f : Queue → Queue) : (updQueue s q f).sec = s.sec := rfl
@[simp] theorem updQueue_hv (s : State) (q : Nat) (f : Queue → Queue) : (updQueue s q f).hv = s.hv := rfl
@[simp] theorem updQueue_fm (s : State) (q : Nat) (f : Queue → Queue) : (updQueue s q f).fm = s.fm := rfl
@[simp] theorem updQueue_sources (s : State) (q : Nat) (f : Queue → Queue) : (updQueue s q f).sources = s.sources := rfl
@[simp] theorem updQueue_latches (s : State) (q : Nat) (f : Queue → Queue) : (updQueue s q f).latches = s.latches := rfl
@[simp] theorem updQueue_cores (s : State) (q : Nat) (f : Queue → Queue) : (updQueue s q f).cores = s.cores := rfl
@[simp] theorem updQueue_hl (s : State) (q : Nat) (f : Queue → Queue) : (updQueue s q f).hl = s.hl := rfl
@[simp] theorem updQueue_rings (s : State) (q : Nat) (f : Queue → Queue) : (updQueue s q f).rings = s.rings := rfl
@[simp] theorem updQueue_bursts (s : State) (q : Nat) (f : Queue → Queue) : (updQueue s q f).bursts = s.bursts := rfl
@[simp] theorem updQueue_descs (s : State) (q : Nat) (f : Queue → Queue) : (updQueue s q f).descs = s.descs := rfl
@[simp] theorem updQueue_stage (s : State) (q : Nat) (f : Queue → Queue) : (updQueue s q f).stage = s.stage := rfl
@[simp] theorem updQueue_fetchPtr (s : State) (q : Nat) (f : Queue → Queue) : (updQueue s q f).fetchPtr = s.fetchPtr := rfl
@[simp] theorem updQueue_plans (s : State) (q : Nat) (f : Queue → Queue) : (updQueue s q f).plans = s.plans := rfl
@[simp] theorem updQueue_objs (s : State) (q : Nat) (f : Queue → Queue) : (updQueue s q f).objs = s.objs := rfl
@[simp] theorem updQueue_jobs (s : State) (q : Nat) (f : Queue → Queue) : (updQueue s q f).jobs = s.jobs := rfl
@[simp] theorem updQueue_ports (s : State) (q : Nat) (f : Queue → Queue) : (updQueue s q f).ports = s.ports := rfl
@[simp] theorem updQueue_pstreams (s : State) (q : Nat) (f : Queue → Queue) : (updQueue s q f).pstreams = s.pstreams := rfl
@[simp] theorem updQueue_streams (s : State) (q : Nat) (f : Queue → Queue) : (updQueue s q f).streams = s.streams := rfl
@[simp] theorem updQueue_stripes (s : State) (q : Nat) (f : Queue → Queue) : (updQueue s q f).stripes = s.stripes := rfl
@[simp] theorem updQueue_engines (s : State) (q : Nat) (f : Queue → Queue) : (updQueue s q f).engines = s.engines := rfl
@[simp] theorem updQueue_encs (s : State) (q : Nat) (f : Queue → Queue) : (updQueue s q f).encs = s.encs := rfl
@[simp] theorem updQueue_trigs (s : State) (q : Nat) (f : Queue → Queue) : (updQueue s q f).trigs = s.trigs := rfl
@[simp] theorem updQueue_links (s : State) (q : Nat) (f : Queue → Queue) : (updQueue s q f).links = s.links := rfl
@[simp] theorem updQueue_giLevel (s : State) (q : Nat) (f : Queue → Queue) : (updQueue s q f).giLevel = s.giLevel := rfl
@[simp] theorem updQueue_giFrom (s : State) (q : Nat) (f : Queue → Queue) : (updQueue s q f).giFrom = s.giFrom := rfl
@[simp] theorem updQueue_tiles (s : State) (q : Nat) (f : Queue → Queue) : (updQueue s q f).tiles = s.tiles := rfl
@[simp] theorem updQueue_grid (s : State) (q : Nat) (f : Queue → Queue) : (updQueue s q f).grid = s.grid := rfl
@[simp] theorem updQueue_sctx (s : State) (q : Nat) (f : Queue → Queue) : (updQueue s q f).sctx = s.sctx := rfl
@[simp] theorem updQueue_bwTokens (s : State) (q : Nat) (f : Queue → Queue) : (updQueue s q f).bwTokens = s.bwTokens := rfl
@[simp] theorem updQueue_chans (s : State) (q : Nat) (f : Queue → Queue) : (updQueue s q f).chans = s.chans := rfl
@[simp] theorem updQueue_dram (s : State) (q : Nat) (f : Queue → Queue) : (updQueue s q f).dram = s.dram := rfl
@[simp] theorem updQueue_pm (s : State) (q : Nat) (f : Queue → Queue) : (updQueue s q f).pm = s.pm := rfl
@[simp] theorem updQueue_drifts (s : State) (q : Nat) (f : Queue → Queue) : (updQueue s q f).drifts = s.drifts := rfl

@[simp] theorem updSctx_pending (s : State) (e c : Nat) (f : SCtx → SCtx) : (updSctx s e c f).pending = s.pending := rfl
@[simp] theorem updSctx_regs (s : State) (e c : Nat) (f : SCtx → SCtx) : (updSctx s e c f).regs = s.regs := rfl
@[simp] theorem updSctx_shadow (s : State) (e c : Nat) (f : SCtx → SCtx) : (updSctx s e c f).shadow = s.shadow := rfl
@[simp] theorem updSctx_heldLow (s : State) (e c : Nat) (f : SCtx → SCtx) : (updSctx s e c f).heldLow = s.heldLow := rfl
@[simp] theorem updSctx_latched (s : State) (e c : Nat) (f : SCtx → SCtx) : (updSctx s e c f).latched = s.latched := rfl
@[simp] theorem updSctx_readData (s : State) (e c : Nat) (f : SCtx → SCtx) : (updSctx s e c f).readData = s.readData := rfl
@[simp] theorem updSctx_readError (s : State) (e c : Nat) (f : SCtx → SCtx) : (updSctx s e c f).readError = s.readError := rfl
@[simp] theorem updSctx_free (s : State) (e c : Nat) (f : SCtx → SCtx) : (updSctx s e c f).free = s.free := rfl
@[simp] theorem updSctx_mem (s : State) (e c : Nat) (f : SCtx → SCtx) : (updSctx s e c f).mem = s.mem := rfl
@[simp] theorem updSctx_hostMem (s : State) (e c : Nat) (f : SCtx → SCtx) : (updSctx s e c f).hostMem = s.hostMem := rfl
@[simp] theorem updSctx_blocks (s : State) (e c : Nat) (f : SCtx → SCtx) : (updSctx s e c f).blocks = s.blocks := rfl
@[simp] theorem updSctx_spPoison (s : State) (e c : Nat) (f : SCtx → SCtx) : (updSctx s e c f).spPoison = s.spPoison := rfl
@[simp] theorem updSctx_iram (s : State) (e c : Nat) (f : SCtx → SCtx) : (updSctx s e c f).iram = s.iram := rfl
@[simp] theorem updSctx_tcm (s : State) (e c : Nat) (f : SCtx → SCtx) : (updSctx s e c f).tcm = s.tcm := rfl
@[simp] theorem updSctx_bitVars (s : State) (e c : Nat) (f : SCtx → SCtx) : (updSctx s e c f).bitVars = s.bitVars := rfl
@[simp] theorem updSctx_clk (s : State) (e c : Nat) (f : SCtx → SCtx) : (updSctx s e c f).clk = s.clk := rfl
@[simp] theorem updSctx_pins (s : State) (e c : Nat) (f : SCtx → SCtx) : (updSctx s e c f).pins = s.pins := rfl
@[simp] theorem updSctx_boot (s : State) (e c : Nat) (f : SCtx → SCtx) : (updSctx s e c f).boot = s.boot := rfl
@[simp] theorem updSctx_sec (s : State) (e c : Nat) (f : SCtx → SCtx) : (updSctx s e c f).sec = s.sec := rfl
@[simp] theorem updSctx_hv (s : State) (e c : Nat) (f : SCtx → SCtx) : (updSctx s e c f).hv = s.hv := rfl
@[simp] theorem updSctx_fm (s : State) (e c : Nat) (f : SCtx → SCtx) : (updSctx s e c f).fm = s.fm := rfl
@[simp] theorem updSctx_sources (s : State) (e c : Nat) (f : SCtx → SCtx) : (updSctx s e c f).sources = s.sources := rfl
@[simp] theorem updSctx_latches (s : State) (e c : Nat) (f : SCtx → SCtx) : (updSctx s e c f).latches = s.latches := rfl
@[simp] theorem updSctx_cores (s : State) (e c : Nat) (f : SCtx → SCtx) : (updSctx s e c f).cores = s.cores := rfl
@[simp] theorem updSctx_hl (s : State) (e c : Nat) (f : SCtx → SCtx) : (updSctx s e c f).hl = s.hl := rfl
@[simp] theorem updSctx_rings (s : State) (e c : Nat) (f : SCtx → SCtx) : (updSctx s e c f).rings = s.rings := rfl
@[simp] theorem updSctx_bursts (s : State) (e c : Nat) (f : SCtx → SCtx) : (updSctx s e c f).bursts = s.bursts := rfl
@[simp] theorem updSctx_descs (s : State) (e c : Nat) (f : SCtx → SCtx) : (updSctx s e c f).descs = s.descs := rfl
@[simp] theorem updSctx_stage (s : State) (e c : Nat) (f : SCtx → SCtx) : (updSctx s e c f).stage = s.stage := rfl
@[simp] theorem updSctx_fetchPtr (s : State) (e c : Nat) (f : SCtx → SCtx) : (updSctx s e c f).fetchPtr = s.fetchPtr := rfl
@[simp] theorem updSctx_plans (s : State) (e c : Nat) (f : SCtx → SCtx) : (updSctx s e c f).plans = s.plans := rfl
@[simp] theorem updSctx_objs (s : State) (e c : Nat) (f : SCtx → SCtx) : (updSctx s e c f).objs = s.objs := rfl
@[simp] theorem updSctx_queues (s : State) (e c : Nat) (f : SCtx → SCtx) : (updSctx s e c f).queues = s.queues := rfl
@[simp] theorem updSctx_jobs (s : State) (e c : Nat) (f : SCtx → SCtx) : (updSctx s e c f).jobs = s.jobs := rfl
@[simp] theorem updSctx_ports (s : State) (e c : Nat) (f : SCtx → SCtx) : (updSctx s e c f).ports = s.ports := rfl
@[simp] theorem updSctx_pstreams (s : State) (e c : Nat) (f : SCtx → SCtx) : (updSctx s e c f).pstreams = s.pstreams := rfl
@[simp] theorem updSctx_streams (s : State) (e c : Nat) (f : SCtx → SCtx) : (updSctx s e c f).streams = s.streams := rfl
@[simp] theorem updSctx_stripes (s : State) (e c : Nat) (f : SCtx → SCtx) : (updSctx s e c f).stripes = s.stripes := rfl
@[simp] theorem updSctx_engines (s : State) (e c : Nat) (f : SCtx → SCtx) : (updSctx s e c f).engines = s.engines := rfl
@[simp] theorem updSctx_encs (s : State) (e c : Nat) (f : SCtx → SCtx) : (updSctx s e c f).encs = s.encs := rfl
@[simp] theorem updSctx_trigs (s : State) (e c : Nat) (f : SCtx → SCtx) : (updSctx s e c f).trigs = s.trigs := rfl
@[simp] theorem updSctx_links (s : State) (e c : Nat) (f : SCtx → SCtx) : (updSctx s e c f).links = s.links := rfl
@[simp] theorem updSctx_giLevel (s : State) (e c : Nat) (f : SCtx → SCtx) : (updSctx s e c f).giLevel = s.giLevel := rfl
@[simp] theorem updSctx_giFrom (s : State) (e c : Nat) (f : SCtx → SCtx) : (updSctx s e c f).giFrom = s.giFrom := rfl
@[simp] theorem updSctx_tiles (s : State) (e c : Nat) (f : SCtx → SCtx) : (updSctx s e c f).tiles = s.tiles := rfl
@[simp] theorem updSctx_grid (s : State) (e c : Nat) (f : SCtx → SCtx) : (updSctx s e c f).grid = s.grid := rfl
@[simp] theorem updSctx_bwTokens (s : State) (e c : Nat) (f : SCtx → SCtx) : (updSctx s e c f).bwTokens = s.bwTokens := rfl
@[simp] theorem updSctx_chans (s : State) (e c : Nat) (f : SCtx → SCtx) : (updSctx s e c f).chans = s.chans := rfl
@[simp] theorem updSctx_dram (s : State) (e c : Nat) (f : SCtx → SCtx) : (updSctx s e c f).dram = s.dram := rfl
@[simp] theorem updSctx_pm (s : State) (e c : Nat) (f : SCtx → SCtx) : (updSctx s e c f).pm = s.pm := rfl
@[simp] theorem updSctx_drifts (s : State) (e c : Nat) (f : SCtx → SCtx) : (updSctx s e c f).drifts = s.drifts := rfl

@[simp] theorem updChannel_pending (s : State) (c : Nat) (f : Channel → Channel) : (updChannel s c f).pending = s.pending := rfl
@[simp] theorem updChannel_regs (s : State) (c : Nat) (f : Channel → Channel) : (updChannel s c f).regs = s.regs := rfl
@[simp] theorem updChannel_shadow (s : State) (c : Nat) (f : Channel → Channel) : (updChannel s c f).shadow = s.shadow := rfl
@[simp] theorem updChannel_heldLow (s : State) (c : Nat) (f : Channel → Channel) : (updChannel s c f).heldLow = s.heldLow := rfl
@[simp] theorem updChannel_latched (s : State) (c : Nat) (f : Channel → Channel) : (updChannel s c f).latched = s.latched := rfl
@[simp] theorem updChannel_readData (s : State) (c : Nat) (f : Channel → Channel) : (updChannel s c f).readData = s.readData := rfl
@[simp] theorem updChannel_readError (s : State) (c : Nat) (f : Channel → Channel) : (updChannel s c f).readError = s.readError := rfl
@[simp] theorem updChannel_free (s : State) (c : Nat) (f : Channel → Channel) : (updChannel s c f).free = s.free := rfl
@[simp] theorem updChannel_mem (s : State) (c : Nat) (f : Channel → Channel) : (updChannel s c f).mem = s.mem := rfl
@[simp] theorem updChannel_hostMem (s : State) (c : Nat) (f : Channel → Channel) : (updChannel s c f).hostMem = s.hostMem := rfl
@[simp] theorem updChannel_blocks (s : State) (c : Nat) (f : Channel → Channel) : (updChannel s c f).blocks = s.blocks := rfl
@[simp] theorem updChannel_spPoison (s : State) (c : Nat) (f : Channel → Channel) : (updChannel s c f).spPoison = s.spPoison := rfl
@[simp] theorem updChannel_iram (s : State) (c : Nat) (f : Channel → Channel) : (updChannel s c f).iram = s.iram := rfl
@[simp] theorem updChannel_tcm (s : State) (c : Nat) (f : Channel → Channel) : (updChannel s c f).tcm = s.tcm := rfl
@[simp] theorem updChannel_bitVars (s : State) (c : Nat) (f : Channel → Channel) : (updChannel s c f).bitVars = s.bitVars := rfl
@[simp] theorem updChannel_clk (s : State) (c : Nat) (f : Channel → Channel) : (updChannel s c f).clk = s.clk := rfl
@[simp] theorem updChannel_pins (s : State) (c : Nat) (f : Channel → Channel) : (updChannel s c f).pins = s.pins := rfl
@[simp] theorem updChannel_boot (s : State) (c : Nat) (f : Channel → Channel) : (updChannel s c f).boot = s.boot := rfl
@[simp] theorem updChannel_sec (s : State) (c : Nat) (f : Channel → Channel) : (updChannel s c f).sec = s.sec := rfl
@[simp] theorem updChannel_hv (s : State) (c : Nat) (f : Channel → Channel) : (updChannel s c f).hv = s.hv := rfl
@[simp] theorem updChannel_fm (s : State) (c : Nat) (f : Channel → Channel) : (updChannel s c f).fm = s.fm := rfl
@[simp] theorem updChannel_sources (s : State) (c : Nat) (f : Channel → Channel) : (updChannel s c f).sources = s.sources := rfl
@[simp] theorem updChannel_latches (s : State) (c : Nat) (f : Channel → Channel) : (updChannel s c f).latches = s.latches := rfl
@[simp] theorem updChannel_cores (s : State) (c : Nat) (f : Channel → Channel) : (updChannel s c f).cores = s.cores := rfl
@[simp] theorem updChannel_hl (s : State) (c : Nat) (f : Channel → Channel) : (updChannel s c f).hl = s.hl := rfl
@[simp] theorem updChannel_rings (s : State) (c : Nat) (f : Channel → Channel) : (updChannel s c f).rings = s.rings := rfl
@[simp] theorem updChannel_bursts (s : State) (c : Nat) (f : Channel → Channel) : (updChannel s c f).bursts = s.bursts := rfl
@[simp] theorem updChannel_descs (s : State) (c : Nat) (f : Channel → Channel) : (updChannel s c f).descs = s.descs := rfl
@[simp] theorem updChannel_stage (s : State) (c : Nat) (f : Channel → Channel) : (updChannel s c f).stage = s.stage := rfl
@[simp] theorem updChannel_fetchPtr (s : State) (c : Nat) (f : Channel → Channel) : (updChannel s c f).fetchPtr = s.fetchPtr := rfl
@[simp] theorem updChannel_plans (s : State) (c : Nat) (f : Channel → Channel) : (updChannel s c f).plans = s.plans := rfl
@[simp] theorem updChannel_objs (s : State) (c : Nat) (f : Channel → Channel) : (updChannel s c f).objs = s.objs := rfl
@[simp] theorem updChannel_queues (s : State) (c : Nat) (f : Channel → Channel) : (updChannel s c f).queues = s.queues := rfl
@[simp] theorem updChannel_jobs (s : State) (c : Nat) (f : Channel → Channel) : (updChannel s c f).jobs = s.jobs := rfl
@[simp] theorem updChannel_ports (s : State) (c : Nat) (f : Channel → Channel) : (updChannel s c f).ports = s.ports := rfl
@[simp] theorem updChannel_pstreams (s : State) (c : Nat) (f : Channel → Channel) : (updChannel s c f).pstreams = s.pstreams := rfl
@[simp] theorem updChannel_streams (s : State) (c : Nat) (f : Channel → Channel) : (updChannel s c f).streams = s.streams := rfl
@[simp] theorem updChannel_stripes (s : State) (c : Nat) (f : Channel → Channel) : (updChannel s c f).stripes = s.stripes := rfl
@[simp] theorem updChannel_engines (s : State) (c : Nat) (f : Channel → Channel) : (updChannel s c f).engines = s.engines := rfl
@[simp] theorem updChannel_encs (s : State) (c : Nat) (f : Channel → Channel) : (updChannel s c f).encs = s.encs := rfl
@[simp] theorem updChannel_trigs (s : State) (c : Nat) (f : Channel → Channel) : (updChannel s c f).trigs = s.trigs := rfl
@[simp] theorem updChannel_links (s : State) (c : Nat) (f : Channel → Channel) : (updChannel s c f).links = s.links := rfl
@[simp] theorem updChannel_giLevel (s : State) (c : Nat) (f : Channel → Channel) : (updChannel s c f).giLevel = s.giLevel := rfl
@[simp] theorem updChannel_giFrom (s : State) (c : Nat) (f : Channel → Channel) : (updChannel s c f).giFrom = s.giFrom := rfl
@[simp] theorem updChannel_tiles (s : State) (c : Nat) (f : Channel → Channel) : (updChannel s c f).tiles = s.tiles := rfl
@[simp] theorem updChannel_grid (s : State) (c : Nat) (f : Channel → Channel) : (updChannel s c f).grid = s.grid := rfl
@[simp] theorem updChannel_sctx (s : State) (c : Nat) (f : Channel → Channel) : (updChannel s c f).sctx = s.sctx := rfl
@[simp] theorem updChannel_bwTokens (s : State) (c : Nat) (f : Channel → Channel) : (updChannel s c f).bwTokens = s.bwTokens := rfl
@[simp] theorem updChannel_dram (s : State) (c : Nat) (f : Channel → Channel) : (updChannel s c f).dram = s.dram := rfl
@[simp] theorem updChannel_pm (s : State) (c : Nat) (f : Channel → Channel) : (updChannel s c f).pm = s.pm := rfl
@[simp] theorem updChannel_drifts (s : State) (c : Nat) (f : Channel → Channel) : (updChannel s c f).drifts = s.drifts := rfl

@[simp] theorem updPm_pending (s : State) (f : Pm → Pm) : (updPm s f).pending = s.pending := rfl
@[simp] theorem updPm_regs (s : State) (f : Pm → Pm) : (updPm s f).regs = s.regs := rfl
@[simp] theorem updPm_shadow (s : State) (f : Pm → Pm) : (updPm s f).shadow = s.shadow := rfl
@[simp] theorem updPm_heldLow (s : State) (f : Pm → Pm) : (updPm s f).heldLow = s.heldLow := rfl
@[simp] theorem updPm_latched (s : State) (f : Pm → Pm) : (updPm s f).latched = s.latched := rfl
@[simp] theorem updPm_readData (s : State) (f : Pm → Pm) : (updPm s f).readData = s.readData := rfl
@[simp] theorem updPm_readError (s : State) (f : Pm → Pm) : (updPm s f).readError = s.readError := rfl
@[simp] theorem updPm_free (s : State) (f : Pm → Pm) : (updPm s f).free = s.free := rfl
@[simp] theorem updPm_mem (s : State) (f : Pm → Pm) : (updPm s f).mem = s.mem := rfl
@[simp] theorem updPm_hostMem (s : State) (f : Pm → Pm) : (updPm s f).hostMem = s.hostMem := rfl
@[simp] theorem updPm_blocks (s : State) (f : Pm → Pm) : (updPm s f).blocks = s.blocks := rfl
@[simp] theorem updPm_spPoison (s : State) (f : Pm → Pm) : (updPm s f).spPoison = s.spPoison := rfl
@[simp] theorem updPm_iram (s : State) (f : Pm → Pm) : (updPm s f).iram = s.iram := rfl
@[simp] theorem updPm_tcm (s : State) (f : Pm → Pm) : (updPm s f).tcm = s.tcm := rfl
@[simp] theorem updPm_bitVars (s : State) (f : Pm → Pm) : (updPm s f).bitVars = s.bitVars := rfl
@[simp] theorem updPm_clk (s : State) (f : Pm → Pm) : (updPm s f).clk = s.clk := rfl
@[simp] theorem updPm_pins (s : State) (f : Pm → Pm) : (updPm s f).pins = s.pins := rfl
@[simp] theorem updPm_boot (s : State) (f : Pm → Pm) : (updPm s f).boot = s.boot := rfl
@[simp] theorem updPm_sec (s : State) (f : Pm → Pm) : (updPm s f).sec = s.sec := rfl
@[simp] theorem updPm_hv (s : State) (f : Pm → Pm) : (updPm s f).hv = s.hv := rfl
@[simp] theorem updPm_fm (s : State) (f : Pm → Pm) : (updPm s f).fm = s.fm := rfl
@[simp] theorem updPm_sources (s : State) (f : Pm → Pm) : (updPm s f).sources = s.sources := rfl
@[simp] theorem updPm_latches (s : State) (f : Pm → Pm) : (updPm s f).latches = s.latches := rfl
@[simp] theorem updPm_cores (s : State) (f : Pm → Pm) : (updPm s f).cores = s.cores := rfl
@[simp] theorem updPm_hl (s : State) (f : Pm → Pm) : (updPm s f).hl = s.hl := rfl
@[simp] theorem updPm_rings (s : State) (f : Pm → Pm) : (updPm s f).rings = s.rings := rfl
@[simp] theorem updPm_bursts (s : State) (f : Pm → Pm) : (updPm s f).bursts = s.bursts := rfl
@[simp] theorem updPm_descs (s : State) (f : Pm → Pm) : (updPm s f).descs = s.descs := rfl
@[simp] theorem updPm_stage (s : State) (f : Pm → Pm) : (updPm s f).stage = s.stage := rfl
@[simp] theorem updPm_fetchPtr (s : State) (f : Pm → Pm) : (updPm s f).fetchPtr = s.fetchPtr := rfl
@[simp] theorem updPm_plans (s : State) (f : Pm → Pm) : (updPm s f).plans = s.plans := rfl
@[simp] theorem updPm_objs (s : State) (f : Pm → Pm) : (updPm s f).objs = s.objs := rfl
@[simp] theorem updPm_queues (s : State) (f : Pm → Pm) : (updPm s f).queues = s.queues := rfl
@[simp] theorem updPm_jobs (s : State) (f : Pm → Pm) : (updPm s f).jobs = s.jobs := rfl
@[simp] theorem updPm_ports (s : State) (f : Pm → Pm) : (updPm s f).ports = s.ports := rfl
@[simp] theorem updPm_pstreams (s : State) (f : Pm → Pm) : (updPm s f).pstreams = s.pstreams := rfl
@[simp] theorem updPm_streams (s : State) (f : Pm → Pm) : (updPm s f).streams = s.streams := rfl
@[simp] theorem updPm_stripes (s : State) (f : Pm → Pm) : (updPm s f).stripes = s.stripes := rfl
@[simp] theorem updPm_engines (s : State) (f : Pm → Pm) : (updPm s f).engines = s.engines := rfl
@[simp] theorem updPm_encs (s : State) (f : Pm → Pm) : (updPm s f).encs = s.encs := rfl
@[simp] theorem updPm_trigs (s : State) (f : Pm → Pm) : (updPm s f).trigs = s.trigs := rfl
@[simp] theorem updPm_links (s : State) (f : Pm → Pm) : (updPm s f).links = s.links := rfl
@[simp] theorem updPm_giLevel (s : State) (f : Pm → Pm) : (updPm s f).giLevel = s.giLevel := rfl
@[simp] theorem updPm_giFrom (s : State) (f : Pm → Pm) : (updPm s f).giFrom = s.giFrom := rfl
@[simp] theorem updPm_tiles (s : State) (f : Pm → Pm) : (updPm s f).tiles = s.tiles := rfl
@[simp] theorem updPm_grid (s : State) (f : Pm → Pm) : (updPm s f).grid = s.grid := rfl
@[simp] theorem updPm_sctx (s : State) (f : Pm → Pm) : (updPm s f).sctx = s.sctx := rfl
@[simp] theorem updPm_bwTokens (s : State) (f : Pm → Pm) : (updPm s f).bwTokens = s.bwTokens := rfl
@[simp] theorem updPm_chans (s : State) (f : Pm → Pm) : (updPm s f).chans = s.chans := rfl
@[simp] theorem updPm_dram (s : State) (f : Pm → Pm) : (updPm s f).dram = s.dram := rfl
@[simp] theorem updPm_drifts (s : State) (f : Pm → Pm) : (updPm s f).drifts = s.drifts := rfl

@[simp] theorem updWin_pending (s : State) (w : Nat) (f : Win → Win) : (updWin s w f).pending = s.pending := rfl
@[simp] theorem updWin_regs (s : State) (w : Nat) (f : Win → Win) : (updWin s w f).regs = s.regs := rfl
@[simp] theorem updWin_shadow (s : State) (w : Nat) (f : Win → Win) : (updWin s w f).shadow = s.shadow := rfl
@[simp] theorem updWin_heldLow (s : State) (w : Nat) (f : Win → Win) : (updWin s w f).heldLow = s.heldLow := rfl
@[simp] theorem updWin_latched (s : State) (w : Nat) (f : Win → Win) : (updWin s w f).latched = s.latched := rfl
@[simp] theorem updWin_readData (s : State) (w : Nat) (f : Win → Win) : (updWin s w f).readData = s.readData := rfl
@[simp] theorem updWin_readError (s : State) (w : Nat) (f : Win → Win) : (updWin s w f).readError = s.readError := rfl
@[simp] theorem updWin_free (s : State) (w : Nat) (f : Win → Win) : (updWin s w f).free = s.free := rfl
@[simp] theorem updWin_mem (s : State) (w : Nat) (f : Win → Win) : (updWin s w f).mem = s.mem := rfl
@[simp] theorem updWin_hostMem (s : State) (w : Nat) (f : Win → Win) : (updWin s w f).hostMem = s.hostMem := rfl
@[simp] theorem updWin_blocks (s : State) (w : Nat) (f : Win → Win) : (updWin s w f).blocks = s.blocks := rfl
@[simp] theorem updWin_spPoison (s : State) (w : Nat) (f : Win → Win) : (updWin s w f).spPoison = s.spPoison := rfl
@[simp] theorem updWin_iram (s : State) (w : Nat) (f : Win → Win) : (updWin s w f).iram = s.iram := rfl
@[simp] theorem updWin_tcm (s : State) (w : Nat) (f : Win → Win) : (updWin s w f).tcm = s.tcm := rfl
@[simp] theorem updWin_bitVars (s : State) (w : Nat) (f : Win → Win) : (updWin s w f).bitVars = s.bitVars := rfl
@[simp] theorem updWin_clk (s : State) (w : Nat) (f : Win → Win) : (updWin s w f).clk = s.clk := rfl
@[simp] theorem updWin_pins (s : State) (w : Nat) (f : Win → Win) : (updWin s w f).pins = s.pins := rfl
@[simp] theorem updWin_boot (s : State) (w : Nat) (f : Win → Win) : (updWin s w f).boot = s.boot := rfl
@[simp] theorem updWin_sec (s : State) (w : Nat) (f : Win → Win) : (updWin s w f).sec = s.sec := rfl
@[simp] theorem updWin_hv (s : State) (w : Nat) (f : Win → Win) : (updWin s w f).hv = s.hv := rfl
@[simp] theorem updWin_fm (s : State) (w : Nat) (f : Win → Win) : (updWin s w f).fm = s.fm := rfl
@[simp] theorem updWin_sources (s : State) (w : Nat) (f : Win → Win) : (updWin s w f).sources = s.sources := rfl
@[simp] theorem updWin_latches (s : State) (w : Nat) (f : Win → Win) : (updWin s w f).latches = s.latches := rfl
@[simp] theorem updWin_cores (s : State) (w : Nat) (f : Win → Win) : (updWin s w f).cores = s.cores := rfl
@[simp] theorem updWin_hl (s : State) (w : Nat) (f : Win → Win) : (updWin s w f).hl = s.hl := rfl
@[simp] theorem updWin_rings (s : State) (w : Nat) (f : Win → Win) : (updWin s w f).rings = s.rings := rfl
@[simp] theorem updWin_bursts (s : State) (w : Nat) (f : Win → Win) : (updWin s w f).bursts = s.bursts := rfl
@[simp] theorem updWin_descs (s : State) (w : Nat) (f : Win → Win) : (updWin s w f).descs = s.descs := rfl
@[simp] theorem updWin_stage (s : State) (w : Nat) (f : Win → Win) : (updWin s w f).stage = s.stage := rfl
@[simp] theorem updWin_fetchPtr (s : State) (w : Nat) (f : Win → Win) : (updWin s w f).fetchPtr = s.fetchPtr := rfl
@[simp] theorem updWin_plans (s : State) (w : Nat) (f : Win → Win) : (updWin s w f).plans = s.plans := rfl
@[simp] theorem updWin_objs (s : State) (w : Nat) (f : Win → Win) : (updWin s w f).objs = s.objs := rfl
@[simp] theorem updWin_queues (s : State) (w : Nat) (f : Win → Win) : (updWin s w f).queues = s.queues := rfl
@[simp] theorem updWin_jobs (s : State) (w : Nat) (f : Win → Win) : (updWin s w f).jobs = s.jobs := rfl
@[simp] theorem updWin_ports (s : State) (w : Nat) (f : Win → Win) : (updWin s w f).ports = s.ports := rfl
@[simp] theorem updWin_pstreams (s : State) (w : Nat) (f : Win → Win) : (updWin s w f).pstreams = s.pstreams := rfl
@[simp] theorem updWin_streams (s : State) (w : Nat) (f : Win → Win) : (updWin s w f).streams = s.streams := rfl
@[simp] theorem updWin_stripes (s : State) (w : Nat) (f : Win → Win) : (updWin s w f).stripes = s.stripes := rfl
@[simp] theorem updWin_engines (s : State) (w : Nat) (f : Win → Win) : (updWin s w f).engines = s.engines := rfl
@[simp] theorem updWin_encs (s : State) (w : Nat) (f : Win → Win) : (updWin s w f).encs = s.encs := rfl
@[simp] theorem updWin_trigs (s : State) (w : Nat) (f : Win → Win) : (updWin s w f).trigs = s.trigs := rfl
@[simp] theorem updWin_links (s : State) (w : Nat) (f : Win → Win) : (updWin s w f).links = s.links := rfl
@[simp] theorem updWin_giLevel (s : State) (w : Nat) (f : Win → Win) : (updWin s w f).giLevel = s.giLevel := rfl
@[simp] theorem updWin_giFrom (s : State) (w : Nat) (f : Win → Win) : (updWin s w f).giFrom = s.giFrom := rfl
@[simp] theorem updWin_tiles (s : State) (w : Nat) (f : Win → Win) : (updWin s w f).tiles = s.tiles := rfl
@[simp] theorem updWin_grid (s : State) (w : Nat) (f : Win → Win) : (updWin s w f).grid = s.grid := rfl
@[simp] theorem updWin_sctx (s : State) (w : Nat) (f : Win → Win) : (updWin s w f).sctx = s.sctx := rfl
@[simp] theorem updWin_bwTokens (s : State) (w : Nat) (f : Win → Win) : (updWin s w f).bwTokens = s.bwTokens := rfl
@[simp] theorem updWin_chans (s : State) (w : Nat) (f : Win → Win) : (updWin s w f).chans = s.chans := rfl
@[simp] theorem updWin_dram (s : State) (w : Nat) (f : Win → Win) : (updWin s w f).dram = s.dram := rfl
@[simp] theorem updWin_drifts (s : State) (w : Nat) (f : Win → Win) : (updWin s w f).drifts = s.drifts := rfl

@[simp] theorem updChan_pending (s : State) (k : Nat) (f : SendCh → SendCh) : (updChan s k f).pending = s.pending := rfl
@[simp] theorem updChan_regs (s : State) (k : Nat) (f : SendCh → SendCh) : (updChan s k f).regs = s.regs := rfl
@[simp] theorem updChan_shadow (s : State) (k : Nat) (f : SendCh → SendCh) : (updChan s k f).shadow = s.shadow := rfl
@[simp] theorem updChan_heldLow (s : State) (k : Nat) (f : SendCh → SendCh) : (updChan s k f).heldLow = s.heldLow := rfl
@[simp] theorem updChan_latched (s : State) (k : Nat) (f : SendCh → SendCh) : (updChan s k f).latched = s.latched := rfl
@[simp] theorem updChan_readData (s : State) (k : Nat) (f : SendCh → SendCh) : (updChan s k f).readData = s.readData := rfl
@[simp] theorem updChan_readError (s : State) (k : Nat) (f : SendCh → SendCh) : (updChan s k f).readError = s.readError := rfl
@[simp] theorem updChan_free (s : State) (k : Nat) (f : SendCh → SendCh) : (updChan s k f).free = s.free := rfl
@[simp] theorem updChan_mem (s : State) (k : Nat) (f : SendCh → SendCh) : (updChan s k f).mem = s.mem := rfl
@[simp] theorem updChan_hostMem (s : State) (k : Nat) (f : SendCh → SendCh) : (updChan s k f).hostMem = s.hostMem := rfl
@[simp] theorem updChan_blocks (s : State) (k : Nat) (f : SendCh → SendCh) : (updChan s k f).blocks = s.blocks := rfl
@[simp] theorem updChan_spPoison (s : State) (k : Nat) (f : SendCh → SendCh) : (updChan s k f).spPoison = s.spPoison := rfl
@[simp] theorem updChan_iram (s : State) (k : Nat) (f : SendCh → SendCh) : (updChan s k f).iram = s.iram := rfl
@[simp] theorem updChan_tcm (s : State) (k : Nat) (f : SendCh → SendCh) : (updChan s k f).tcm = s.tcm := rfl
@[simp] theorem updChan_bitVars (s : State) (k : Nat) (f : SendCh → SendCh) : (updChan s k f).bitVars = s.bitVars := rfl
@[simp] theorem updChan_clk (s : State) (k : Nat) (f : SendCh → SendCh) : (updChan s k f).clk = s.clk := rfl
@[simp] theorem updChan_pins (s : State) (k : Nat) (f : SendCh → SendCh) : (updChan s k f).pins = s.pins := rfl
@[simp] theorem updChan_boot (s : State) (k : Nat) (f : SendCh → SendCh) : (updChan s k f).boot = s.boot := rfl
@[simp] theorem updChan_sec (s : State) (k : Nat) (f : SendCh → SendCh) : (updChan s k f).sec = s.sec := rfl
@[simp] theorem updChan_hv (s : State) (k : Nat) (f : SendCh → SendCh) : (updChan s k f).hv = s.hv := rfl
@[simp] theorem updChan_fm (s : State) (k : Nat) (f : SendCh → SendCh) : (updChan s k f).fm = s.fm := rfl
@[simp] theorem updChan_sources (s : State) (k : Nat) (f : SendCh → SendCh) : (updChan s k f).sources = s.sources := rfl
@[simp] theorem updChan_latches (s : State) (k : Nat) (f : SendCh → SendCh) : (updChan s k f).latches = s.latches := rfl
@[simp] theorem updChan_cores (s : State) (k : Nat) (f : SendCh → SendCh) : (updChan s k f).cores = s.cores := rfl
@[simp] theorem updChan_hl (s : State) (k : Nat) (f : SendCh → SendCh) : (updChan s k f).hl = s.hl := rfl
@[simp] theorem updChan_rings (s : State) (k : Nat) (f : SendCh → SendCh) : (updChan s k f).rings = s.rings := rfl
@[simp] theorem updChan_bursts (s : State) (k : Nat) (f : SendCh → SendCh) : (updChan s k f).bursts = s.bursts := rfl
@[simp] theorem updChan_descs (s : State) (k : Nat) (f : SendCh → SendCh) : (updChan s k f).descs = s.descs := rfl
@[simp] theorem updChan_stage (s : State) (k : Nat) (f : SendCh → SendCh) : (updChan s k f).stage = s.stage := rfl
@[simp] theorem updChan_fetchPtr (s : State) (k : Nat) (f : SendCh → SendCh) : (updChan s k f).fetchPtr = s.fetchPtr := rfl
@[simp] theorem updChan_plans (s : State) (k : Nat) (f : SendCh → SendCh) : (updChan s k f).plans = s.plans := rfl
@[simp] theorem updChan_objs (s : State) (k : Nat) (f : SendCh → SendCh) : (updChan s k f).objs = s.objs := rfl
@[simp] theorem updChan_queues (s : State) (k : Nat) (f : SendCh → SendCh) : (updChan s k f).queues = s.queues := rfl
@[simp] theorem updChan_jobs (s : State) (k : Nat) (f : SendCh → SendCh) : (updChan s k f).jobs = s.jobs := rfl
@[simp] theorem updChan_ports (s : State) (k : Nat) (f : SendCh → SendCh) : (updChan s k f).ports = s.ports := rfl
@[simp] theorem updChan_pstreams (s : State) (k : Nat) (f : SendCh → SendCh) : (updChan s k f).pstreams = s.pstreams := rfl
@[simp] theorem updChan_streams (s : State) (k : Nat) (f : SendCh → SendCh) : (updChan s k f).streams = s.streams := rfl
@[simp] theorem updChan_stripes (s : State) (k : Nat) (f : SendCh → SendCh) : (updChan s k f).stripes = s.stripes := rfl
@[simp] theorem updChan_engines (s : State) (k : Nat) (f : SendCh → SendCh) : (updChan s k f).engines = s.engines := rfl
@[simp] theorem updChan_encs (s : State) (k : Nat) (f : SendCh → SendCh) : (updChan s k f).encs = s.encs := rfl
@[simp] theorem updChan_trigs (s : State) (k : Nat) (f : SendCh → SendCh) : (updChan s k f).trigs = s.trigs := rfl
@[simp] theorem updChan_links (s : State) (k : Nat) (f : SendCh → SendCh) : (updChan s k f).links = s.links := rfl
@[simp] theorem updChan_giLevel (s : State) (k : Nat) (f : SendCh → SendCh) : (updChan s k f).giLevel = s.giLevel := rfl
@[simp] theorem updChan_giFrom (s : State) (k : Nat) (f : SendCh → SendCh) : (updChan s k f).giFrom = s.giFrom := rfl
@[simp] theorem updChan_tiles (s : State) (k : Nat) (f : SendCh → SendCh) : (updChan s k f).tiles = s.tiles := rfl
@[simp] theorem updChan_grid (s : State) (k : Nat) (f : SendCh → SendCh) : (updChan s k f).grid = s.grid := rfl
@[simp] theorem updChan_sctx (s : State) (k : Nat) (f : SendCh → SendCh) : (updChan s k f).sctx = s.sctx := rfl
@[simp] theorem updChan_bwTokens (s : State) (k : Nat) (f : SendCh → SendCh) : (updChan s k f).bwTokens = s.bwTokens := rfl
@[simp] theorem updChan_chans (s : State) (k : Nat) (f : SendCh → SendCh) : (updChan s k f).chans = s.chans := rfl
@[simp] theorem updChan_dram (s : State) (k : Nat) (f : SendCh → SendCh) : (updChan s k f).dram = s.dram := rfl
@[simp] theorem updChan_drifts (s : State) (k : Nat) (f : SendCh → SendCh) : (updChan s k f).drifts = s.drifts := rfl

@[simp] theorem updFm_pending (s : State) (f : Fm → Fm) : (updFm s f).pending = s.pending := rfl
@[simp] theorem updFm_regs (s : State) (f : Fm → Fm) : (updFm s f).regs = s.regs := rfl
@[simp] theorem updFm_shadow (s : State) (f : Fm → Fm) : (updFm s f).shadow = s.shadow := rfl
@[simp] theorem updFm_heldLow (s : State) (f : Fm → Fm) : (updFm s f).heldLow = s.heldLow := rfl
@[simp] theorem updFm_latched (s : State) (f : Fm → Fm) : (updFm s f).latched = s.latched := rfl
@[simp] theorem updFm_readData (s : State) (f : Fm → Fm) : (updFm s f).readData = s.readData := rfl
@[simp] theorem updFm_readError (s : State) (f : Fm → Fm) : (updFm s f).readError = s.readError := rfl
@[simp] theorem updFm_free (s : State) (f : Fm → Fm) : (updFm s f).free = s.free := rfl
@[simp] theorem updFm_mem (s : State) (f : Fm → Fm) : (updFm s f).mem = s.mem := rfl
@[simp] theorem updFm_hostMem (s : State) (f : Fm → Fm) : (updFm s f).hostMem = s.hostMem := rfl
@[simp] theorem updFm_blocks (s : State) (f : Fm → Fm) : (updFm s f).blocks = s.blocks := rfl
@[simp] theorem updFm_spPoison (s : State) (f : Fm → Fm) : (updFm s f).spPoison = s.spPoison := rfl
@[simp] theorem updFm_iram (s : State) (f : Fm → Fm) : (updFm s f).iram = s.iram := rfl
@[simp] theorem updFm_tcm (s : State) (f : Fm → Fm) : (updFm s f).tcm = s.tcm := rfl
@[simp] theorem updFm_bitVars (s : State) (f : Fm → Fm) : (updFm s f).bitVars = s.bitVars := rfl
@[simp] theorem updFm_clk (s : State) (f : Fm → Fm) : (updFm s f).clk = s.clk := rfl
@[simp] theorem updFm_pins (s : State) (f : Fm → Fm) : (updFm s f).pins = s.pins := rfl
@[simp] theorem updFm_boot (s : State) (f : Fm → Fm) : (updFm s f).boot = s.boot := rfl
@[simp] theorem updFm_sec (s : State) (f : Fm → Fm) : (updFm s f).sec = s.sec := rfl
@[simp] theorem updFm_hv (s : State) (f : Fm → Fm) : (updFm s f).hv = s.hv := rfl
@[simp] theorem updFm_sources (s : State) (f : Fm → Fm) : (updFm s f).sources = s.sources := rfl
@[simp] theorem updFm_latches (s : State) (f : Fm → Fm) : (updFm s f).latches = s.latches := rfl
@[simp] theorem updFm_cores (s : State) (f : Fm → Fm) : (updFm s f).cores = s.cores := rfl
@[simp] theorem updFm_hl (s : State) (f : Fm → Fm) : (updFm s f).hl = s.hl := rfl
@[simp] theorem updFm_rings (s : State) (f : Fm → Fm) : (updFm s f).rings = s.rings := rfl
@[simp] theorem updFm_bursts (s : State) (f : Fm → Fm) : (updFm s f).bursts = s.bursts := rfl
@[simp] theorem updFm_descs (s : State) (f : Fm → Fm) : (updFm s f).descs = s.descs := rfl
@[simp] theorem updFm_stage (s : State) (f : Fm → Fm) : (updFm s f).stage = s.stage := rfl
@[simp] theorem updFm_fetchPtr (s : State) (f : Fm → Fm) : (updFm s f).fetchPtr = s.fetchPtr := rfl
@[simp] theorem updFm_plans (s : State) (f : Fm → Fm) : (updFm s f).plans = s.plans := rfl
@[simp] theorem updFm_objs (s : State) (f : Fm → Fm) : (updFm s f).objs = s.objs := rfl
@[simp] theorem updFm_queues (s : State) (f : Fm → Fm) : (updFm s f).queues = s.queues := rfl
@[simp] theorem updFm_jobs (s : State) (f : Fm → Fm) : (updFm s f).jobs = s.jobs := rfl
@[simp] theorem updFm_ports (s : State) (f : Fm → Fm) : (updFm s f).ports = s.ports := rfl
@[simp] theorem updFm_pstreams (s : State) (f : Fm → Fm) : (updFm s f).pstreams = s.pstreams := rfl
@[simp] theorem updFm_streams (s : State) (f : Fm → Fm) : (updFm s f).streams = s.streams := rfl
@[simp] theorem updFm_stripes (s : State) (f : Fm → Fm) : (updFm s f).stripes = s.stripes := rfl
@[simp] theorem updFm_engines (s : State) (f : Fm → Fm) : (updFm s f).engines = s.engines := rfl
@[simp] theorem updFm_encs (s : State) (f : Fm → Fm) : (updFm s f).encs = s.encs := rfl
@[simp] theorem updFm_trigs (s : State) (f : Fm → Fm) : (updFm s f).trigs = s.trigs := rfl
@[simp] theorem updFm_links (s : State) (f : Fm → Fm) : (updFm s f).links = s.links := rfl
@[simp] theorem updFm_giLevel (s : State) (f : Fm → Fm) : (updFm s f).giLevel = s.giLevel := rfl
@[simp] theorem updFm_giFrom (s : State) (f : Fm → Fm) : (updFm s f).giFrom = s.giFrom := rfl
@[simp] theorem updFm_tiles (s : State) (f : Fm → Fm) : (updFm s f).tiles = s.tiles := rfl
@[simp] theorem updFm_grid (s : State) (f : Fm → Fm) : (updFm s f).grid = s.grid := rfl
@[simp] theorem updFm_sctx (s : State) (f : Fm → Fm) : (updFm s f).sctx = s.sctx := rfl
@[simp] theorem updFm_bwTokens (s : State) (f : Fm → Fm) : (updFm s f).bwTokens = s.bwTokens := rfl
@[simp] theorem updFm_chans (s : State) (f : Fm → Fm) : (updFm s f).chans = s.chans := rfl
@[simp] theorem updFm_dram (s : State) (f : Fm → Fm) : (updFm s f).dram = s.dram := rfl
@[simp] theorem updFm_pm (s : State) (f : Fm → Fm) : (updFm s f).pm = s.pm := rfl
@[simp] theorem updFm_drifts (s : State) (f : Fm → Fm) : (updFm s f).drifts = s.drifts := rfl

@[simp] theorem updHl_pending (s : State) (f : HostLink → HostLink) : (updHl s f).pending = s.pending := rfl
@[simp] theorem updHl_regs (s : State) (f : HostLink → HostLink) : (updHl s f).regs = s.regs := rfl
@[simp] theorem updHl_shadow (s : State) (f : HostLink → HostLink) : (updHl s f).shadow = s.shadow := rfl
@[simp] theorem updHl_heldLow (s : State) (f : HostLink → HostLink) : (updHl s f).heldLow = s.heldLow := rfl
@[simp] theorem updHl_latched (s : State) (f : HostLink → HostLink) : (updHl s f).latched = s.latched := rfl
@[simp] theorem updHl_readData (s : State) (f : HostLink → HostLink) : (updHl s f).readData = s.readData := rfl
@[simp] theorem updHl_readError (s : State) (f : HostLink → HostLink) : (updHl s f).readError = s.readError := rfl
@[simp] theorem updHl_free (s : State) (f : HostLink → HostLink) : (updHl s f).free = s.free := rfl
@[simp] theorem updHl_mem (s : State) (f : HostLink → HostLink) : (updHl s f).mem = s.mem := rfl
@[simp] theorem updHl_hostMem (s : State) (f : HostLink → HostLink) : (updHl s f).hostMem = s.hostMem := rfl
@[simp] theorem updHl_blocks (s : State) (f : HostLink → HostLink) : (updHl s f).blocks = s.blocks := rfl
@[simp] theorem updHl_spPoison (s : State) (f : HostLink → HostLink) : (updHl s f).spPoison = s.spPoison := rfl
@[simp] theorem updHl_iram (s : State) (f : HostLink → HostLink) : (updHl s f).iram = s.iram := rfl
@[simp] theorem updHl_tcm (s : State) (f : HostLink → HostLink) : (updHl s f).tcm = s.tcm := rfl
@[simp] theorem updHl_bitVars (s : State) (f : HostLink → HostLink) : (updHl s f).bitVars = s.bitVars := rfl
@[simp] theorem updHl_clk (s : State) (f : HostLink → HostLink) : (updHl s f).clk = s.clk := rfl
@[simp] theorem updHl_pins (s : State) (f : HostLink → HostLink) : (updHl s f).pins = s.pins := rfl
@[simp] theorem updHl_boot (s : State) (f : HostLink → HostLink) : (updHl s f).boot = s.boot := rfl
@[simp] theorem updHl_sec (s : State) (f : HostLink → HostLink) : (updHl s f).sec = s.sec := rfl
@[simp] theorem updHl_hv (s : State) (f : HostLink → HostLink) : (updHl s f).hv = s.hv := rfl
@[simp] theorem updHl_fm (s : State) (f : HostLink → HostLink) : (updHl s f).fm = s.fm := rfl
@[simp] theorem updHl_sources (s : State) (f : HostLink → HostLink) : (updHl s f).sources = s.sources := rfl
@[simp] theorem updHl_latches (s : State) (f : HostLink → HostLink) : (updHl s f).latches = s.latches := rfl
@[simp] theorem updHl_cores (s : State) (f : HostLink → HostLink) : (updHl s f).cores = s.cores := rfl
@[simp] theorem updHl_rings (s : State) (f : HostLink → HostLink) : (updHl s f).rings = s.rings := rfl
@[simp] theorem updHl_bursts (s : State) (f : HostLink → HostLink) : (updHl s f).bursts = s.bursts := rfl
@[simp] theorem updHl_descs (s : State) (f : HostLink → HostLink) : (updHl s f).descs = s.descs := rfl
@[simp] theorem updHl_stage (s : State) (f : HostLink → HostLink) : (updHl s f).stage = s.stage := rfl
@[simp] theorem updHl_fetchPtr (s : State) (f : HostLink → HostLink) : (updHl s f).fetchPtr = s.fetchPtr := rfl
@[simp] theorem updHl_plans (s : State) (f : HostLink → HostLink) : (updHl s f).plans = s.plans := rfl
@[simp] theorem updHl_objs (s : State) (f : HostLink → HostLink) : (updHl s f).objs = s.objs := rfl
@[simp] theorem updHl_queues (s : State) (f : HostLink → HostLink) : (updHl s f).queues = s.queues := rfl
@[simp] theorem updHl_jobs (s : State) (f : HostLink → HostLink) : (updHl s f).jobs = s.jobs := rfl
@[simp] theorem updHl_ports (s : State) (f : HostLink → HostLink) : (updHl s f).ports = s.ports := rfl
@[simp] theorem updHl_pstreams (s : State) (f : HostLink → HostLink) : (updHl s f).pstreams = s.pstreams := rfl
@[simp] theorem updHl_streams (s : State) (f : HostLink → HostLink) : (updHl s f).streams = s.streams := rfl
@[simp] theorem updHl_stripes (s : State) (f : HostLink → HostLink) : (updHl s f).stripes = s.stripes := rfl
@[simp] theorem updHl_engines (s : State) (f : HostLink → HostLink) : (updHl s f).engines = s.engines := rfl
@[simp] theorem updHl_encs (s : State) (f : HostLink → HostLink) : (updHl s f).encs = s.encs := rfl
@[simp] theorem updHl_trigs (s : State) (f : HostLink → HostLink) : (updHl s f).trigs = s.trigs := rfl
@[simp] theorem updHl_links (s : State) (f : HostLink → HostLink) : (updHl s f).links = s.links := rfl
@[simp] theorem updHl_giLevel (s : State) (f : HostLink → HostLink) : (updHl s f).giLevel = s.giLevel := rfl
@[simp] theorem updHl_giFrom (s : State) (f : HostLink → HostLink) : (updHl s f).giFrom = s.giFrom := rfl
@[simp] theorem updHl_tiles (s : State) (f : HostLink → HostLink) : (updHl s f).tiles = s.tiles := rfl
@[simp] theorem updHl_grid (s : State) (f : HostLink → HostLink) : (updHl s f).grid = s.grid := rfl
@[simp] theorem updHl_sctx (s : State) (f : HostLink → HostLink) : (updHl s f).sctx = s.sctx := rfl
@[simp] theorem updHl_bwTokens (s : State) (f : HostLink → HostLink) : (updHl s f).bwTokens = s.bwTokens := rfl
@[simp] theorem updHl_chans (s : State) (f : HostLink → HostLink) : (updHl s f).chans = s.chans := rfl
@[simp] theorem updHl_dram (s : State) (f : HostLink → HostLink) : (updHl s f).dram = s.dram := rfl
@[simp] theorem updHl_pm (s : State) (f : HostLink → HostLink) : (updHl s f).pm = s.pm := rfl
@[simp] theorem updHl_drifts (s : State) (f : HostLink → HostLink) : (updHl s f).drifts = s.drifts := rfl

@[simp] theorem updSec_pending (s : State) (f : Sec → Sec) : (updSec s f).pending = s.pending := rfl
@[simp] theorem updSec_regs (s : State) (f : Sec → Sec) : (updSec s f).regs = s.regs := rfl
@[simp] theorem updSec_shadow (s : State) (f : Sec → Sec) : (updSec s f).shadow = s.shadow := rfl
@[simp] theorem updSec_heldLow (s : State) (f : Sec → Sec) : (updSec s f).heldLow = s.heldLow := rfl
@[simp] theorem updSec_latched (s : State) (f : Sec → Sec) : (updSec s f).latched = s.latched := rfl
@[simp] theorem updSec_readData (s : State) (f : Sec → Sec) : (updSec s f).readData = s.readData := rfl
@[simp] theorem updSec_readError (s : State) (f : Sec → Sec) : (updSec s f).readError = s.readError := rfl
@[simp] theorem updSec_free (s : State) (f : Sec → Sec) : (updSec s f).free = s.free := rfl
@[simp] theorem updSec_mem (s : State) (f : Sec → Sec) : (updSec s f).mem = s.mem := rfl
@[simp] theorem updSec_hostMem (s : State) (f : Sec → Sec) : (updSec s f).hostMem = s.hostMem := rfl
@[simp] theorem updSec_blocks (s : State) (f : Sec → Sec) : (updSec s f).blocks = s.blocks := rfl
@[simp] theorem updSec_spPoison (s : State) (f : Sec → Sec) : (updSec s f).spPoison = s.spPoison := rfl
@[simp] theorem updSec_iram (s : State) (f : Sec → Sec) : (updSec s f).iram = s.iram := rfl
@[simp] theorem updSec_tcm (s : State) (f : Sec → Sec) : (updSec s f).tcm = s.tcm := rfl
@[simp] theorem updSec_bitVars (s : State) (f : Sec → Sec) : (updSec s f).bitVars = s.bitVars := rfl
@[simp] theorem updSec_clk (s : State) (f : Sec → Sec) : (updSec s f).clk = s.clk := rfl
@[simp] theorem updSec_pins (s : State) (f : Sec → Sec) : (updSec s f).pins = s.pins := rfl
@[simp] theorem updSec_boot (s : State) (f : Sec → Sec) : (updSec s f).boot = s.boot := rfl
@[simp] theorem updSec_hv (s : State) (f : Sec → Sec) : (updSec s f).hv = s.hv := rfl
@[simp] theorem updSec_fm (s : State) (f : Sec → Sec) : (updSec s f).fm = s.fm := rfl
@[simp] theorem updSec_sources (s : State) (f : Sec → Sec) : (updSec s f).sources = s.sources := rfl
@[simp] theorem updSec_latches (s : State) (f : Sec → Sec) : (updSec s f).latches = s.latches := rfl
@[simp] theorem updSec_cores (s : State) (f : Sec → Sec) : (updSec s f).cores = s.cores := rfl
@[simp] theorem updSec_hl (s : State) (f : Sec → Sec) : (updSec s f).hl = s.hl := rfl
@[simp] theorem updSec_rings (s : State) (f : Sec → Sec) : (updSec s f).rings = s.rings := rfl
@[simp] theorem updSec_bursts (s : State) (f : Sec → Sec) : (updSec s f).bursts = s.bursts := rfl
@[simp] theorem updSec_descs (s : State) (f : Sec → Sec) : (updSec s f).descs = s.descs := rfl
@[simp] theorem updSec_stage (s : State) (f : Sec → Sec) : (updSec s f).stage = s.stage := rfl
@[simp] theorem updSec_fetchPtr (s : State) (f : Sec → Sec) : (updSec s f).fetchPtr = s.fetchPtr := rfl
@[simp] theorem updSec_plans (s : State) (f : Sec → Sec) : (updSec s f).plans = s.plans := rfl
@[simp] theorem updSec_objs (s : State) (f : Sec → Sec) : (updSec s f).objs = s.objs := rfl
@[simp] theorem updSec_queues (s : State) (f : Sec → Sec) : (updSec s f).queues = s.queues := rfl
@[simp] theorem updSec_jobs (s : State) (f : Sec → Sec) : (updSec s f).jobs = s.jobs := rfl
@[simp] theorem updSec_ports (s : State) (f : Sec → Sec) : (updSec s f).ports = s.ports := rfl
@[simp] theorem updSec_pstreams (s : State) (f : Sec → Sec) : (updSec s f).pstreams = s.pstreams := rfl
@[simp] theorem updSec_streams (s : State) (f : Sec → Sec) : (updSec s f).streams = s.streams := rfl
@[simp] theorem updSec_stripes (s : State) (f : Sec → Sec) : (updSec s f).stripes = s.stripes := rfl
@[simp] theorem updSec_engines (s : State) (f : Sec → Sec) : (updSec s f).engines = s.engines := rfl
@[simp] theorem updSec_encs (s : State) (f : Sec → Sec) : (updSec s f).encs = s.encs := rfl
@[simp] theorem updSec_trigs (s : State) (f : Sec → Sec) : (updSec s f).trigs = s.trigs := rfl
@[simp] theorem updSec_links (s : State) (f : Sec → Sec) : (updSec s f).links = s.links := rfl
@[simp] theorem updSec_giLevel (s : State) (f : Sec → Sec) : (updSec s f).giLevel = s.giLevel := rfl
@[simp] theorem updSec_giFrom (s : State) (f : Sec → Sec) : (updSec s f).giFrom = s.giFrom := rfl
@[simp] theorem updSec_tiles (s : State) (f : Sec → Sec) : (updSec s f).tiles = s.tiles := rfl
@[simp] theorem updSec_grid (s : State) (f : Sec → Sec) : (updSec s f).grid = s.grid := rfl
@[simp] theorem updSec_sctx (s : State) (f : Sec → Sec) : (updSec s f).sctx = s.sctx := rfl
@[simp] theorem updSec_bwTokens (s : State) (f : Sec → Sec) : (updSec s f).bwTokens = s.bwTokens := rfl
@[simp] theorem updSec_chans (s : State) (f : Sec → Sec) : (updSec s f).chans = s.chans := rfl
@[simp] theorem updSec_dram (s : State) (f : Sec → Sec) : (updSec s f).dram = s.dram := rfl
@[simp] theorem updSec_pm (s : State) (f : Sec → Sec) : (updSec s f).pm = s.pm := rfl
@[simp] theorem updSec_drifts (s : State) (f : Sec → Sec) : (updSec s f).drifts = s.drifts := rfl

@[simp] theorem updHv_pending (s : State) (f : Hv → Hv) : (updHv s f).pending = s.pending := rfl
@[simp] theorem updHv_regs (s : State) (f : Hv → Hv) : (updHv s f).regs = s.regs := rfl
@[simp] theorem updHv_shadow (s : State) (f : Hv → Hv) : (updHv s f).shadow = s.shadow := rfl
@[simp] theorem updHv_heldLow (s : State) (f : Hv → Hv) : (updHv s f).heldLow = s.heldLow := rfl
@[simp] theorem updHv_latched (s : State) (f : Hv → Hv) : (updHv s f).latched = s.latched := rfl
@[simp] theorem updHv_readData (s : State) (f : Hv → Hv) : (updHv s f).readData = s.readData := rfl
@[simp] theorem updHv_readError (s : State) (f : Hv → Hv) : (updHv s f).readError = s.readError := rfl
@[simp] theorem updHv_free (s : State) (f : Hv → Hv) : (updHv s f).free = s.free := rfl
@[simp] theorem updHv_mem (s : State) (f : Hv → Hv) : (updHv s f).mem = s.mem := rfl
@[simp] theorem updHv_hostMem (s : State) (f : Hv → Hv) : (updHv s f).hostMem = s.hostMem := rfl
@[simp] theorem updHv_blocks (s : State) (f : Hv → Hv) : (updHv s f).blocks = s.blocks := rfl
@[simp] theorem updHv_spPoison (s : State) (f : Hv → Hv) : (updHv s f).spPoison = s.spPoison := rfl
@[simp] theorem updHv_iram (s : State) (f : Hv → Hv) : (updHv s f).iram = s.iram := rfl
@[simp] theorem updHv_tcm (s : State) (f : Hv → Hv) : (updHv s f).tcm = s.tcm := rfl
@[simp] theorem updHv_bitVars (s : State) (f : Hv → Hv) : (updHv s f).bitVars = s.bitVars := rfl
@[simp] theorem updHv_clk (s : State) (f : Hv → Hv) : (updHv s f).clk = s.clk := rfl
@[simp] theorem updHv_pins (s : State) (f : Hv → Hv) : (updHv s f).pins = s.pins := rfl
@[simp] theorem updHv_boot (s : State) (f : Hv → Hv) : (updHv s f).boot = s.boot := rfl
@[simp] theorem updHv_sec (s : State) (f : Hv → Hv) : (updHv s f).sec = s.sec := rfl
@[simp] theorem updHv_fm (s : State) (f : Hv → Hv) : (updHv s f).fm = s.fm := rfl
@[simp] theorem updHv_sources (s : State) (f : Hv → Hv) : (updHv s f).sources = s.sources := rfl
@[simp] theorem updHv_latches (s : State) (f : Hv → Hv) : (updHv s f).latches = s.latches := rfl
@[simp] theorem updHv_cores (s : State) (f : Hv → Hv) : (updHv s f).cores = s.cores := rfl
@[simp] theorem updHv_hl (s : State) (f : Hv → Hv) : (updHv s f).hl = s.hl := rfl
@[simp] theorem updHv_rings (s : State) (f : Hv → Hv) : (updHv s f).rings = s.rings := rfl
@[simp] theorem updHv_bursts (s : State) (f : Hv → Hv) : (updHv s f).bursts = s.bursts := rfl
@[simp] theorem updHv_descs (s : State) (f : Hv → Hv) : (updHv s f).descs = s.descs := rfl
@[simp] theorem updHv_stage (s : State) (f : Hv → Hv) : (updHv s f).stage = s.stage := rfl
@[simp] theorem updHv_fetchPtr (s : State) (f : Hv → Hv) : (updHv s f).fetchPtr = s.fetchPtr := rfl
@[simp] theorem updHv_plans (s : State) (f : Hv → Hv) : (updHv s f).plans = s.plans := rfl
@[simp] theorem updHv_objs (s : State) (f : Hv → Hv) : (updHv s f).objs = s.objs := rfl
@[simp] theorem updHv_queues (s : State) (f : Hv → Hv) : (updHv s f).queues = s.queues := rfl
@[simp] theorem updHv_jobs (s : State) (f : Hv → Hv) : (updHv s f).jobs = s.jobs := rfl
@[simp] theorem updHv_ports (s : State) (f : Hv → Hv) : (updHv s f).ports = s.ports := rfl
@[simp] theorem updHv_pstreams (s : State) (f : Hv → Hv) : (updHv s f).pstreams = s.pstreams := rfl
@[simp] theorem updHv_streams (s : State) (f : Hv → Hv) : (updHv s f).streams = s.streams := rfl
@[simp] theorem updHv_stripes (s : State) (f : Hv → Hv) : (updHv s f).stripes = s.stripes := rfl
@[simp] theorem updHv_engines (s : State) (f : Hv → Hv) : (updHv s f).engines = s.engines := rfl
@[simp] theorem updHv_encs (s : State) (f : Hv → Hv) : (updHv s f).encs = s.encs := rfl
@[simp] theorem updHv_trigs (s : State) (f : Hv → Hv) : (updHv s f).trigs = s.trigs := rfl
@[simp] theorem updHv_links (s : State) (f : Hv → Hv) : (updHv s f).links = s.links := rfl
@[simp] theorem updHv_giLevel (s : State) (f : Hv → Hv) : (updHv s f).giLevel = s.giLevel := rfl
@[simp] theorem updHv_giFrom (s : State) (f : Hv → Hv) : (updHv s f).giFrom = s.giFrom := rfl
@[simp] theorem updHv_tiles (s : State) (f : Hv → Hv) : (updHv s f).tiles = s.tiles := rfl
@[simp] theorem updHv_grid (s : State) (f : Hv → Hv) : (updHv s f).grid = s.grid := rfl
@[simp] theorem updHv_sctx (s : State) (f : Hv → Hv) : (updHv s f).sctx = s.sctx := rfl
@[simp] theorem updHv_bwTokens (s : State) (f : Hv → Hv) : (updHv s f).bwTokens = s.bwTokens := rfl
@[simp] theorem updHv_chans (s : State) (f : Hv → Hv) : (updHv s f).chans = s.chans := rfl
@[simp] theorem updHv_dram (s : State) (f : Hv → Hv) : (updHv s f).dram = s.dram := rfl
@[simp] theorem updHv_pm (s : State) (f : Hv → Hv) : (updHv s f).pm = s.pm := rfl
@[simp] theorem updHv_drifts (s : State) (f : Hv → Hv) : (updHv s f).drifts = s.drifts := rfl

@[simp] theorem updClk_pending (s : State) (f : Clocks → Clocks) : (updClk s f).pending = s.pending := rfl
@[simp] theorem updClk_regs (s : State) (f : Clocks → Clocks) : (updClk s f).regs = s.regs := rfl
@[simp] theorem updClk_shadow (s : State) (f : Clocks → Clocks) : (updClk s f).shadow = s.shadow := rfl
@[simp] theorem updClk_heldLow (s : State) (f : Clocks → Clocks) : (updClk s f).heldLow = s.heldLow := rfl
@[simp] theorem updClk_latched (s : State) (f : Clocks → Clocks) : (updClk s f).latched = s.latched := rfl
@[simp] theorem updClk_readData (s : State) (f : Clocks → Clocks) : (updClk s f).readData = s.readData := rfl
@[simp] theorem updClk_readError (s : State) (f : Clocks → Clocks) : (updClk s f).readError = s.readError := rfl
@[simp] theorem updClk_free (s : State) (f : Clocks → Clocks) : (updClk s f).free = s.free := rfl
@[simp] theorem updClk_mem (s : State) (f : Clocks → Clocks) : (updClk s f).mem = s.mem := rfl
@[simp] theorem updClk_hostMem (s : State) (f : Clocks → Clocks) : (updClk s f).hostMem = s.hostMem := rfl
@[simp] theorem updClk_blocks (s : State) (f : Clocks → Clocks) : (updClk s f).blocks = s.blocks := rfl
@[simp] theorem updClk_spPoison (s : State) (f : Clocks → Clocks) : (updClk s f).spPoison = s.spPoison := rfl
@[simp] theorem updClk_iram (s : State) (f : Clocks → Clocks) : (updClk s f).iram = s.iram := rfl
@[simp] theorem updClk_tcm (s : State) (f : Clocks → Clocks) : (updClk s f).tcm = s.tcm := rfl
@[simp] theorem updClk_bitVars (s : State) (f : Clocks → Clocks) : (updClk s f).bitVars = s.bitVars := rfl
@[simp] theorem updClk_pins (s : State) (f : Clocks → Clocks) : (updClk s f).pins = s.pins := rfl
@[simp] theorem updClk_boot (s : State) (f : Clocks → Clocks) : (updClk s f).boot = s.boot := rfl
@[simp] theorem updClk_sec (s : State) (f : Clocks → Clocks) : (updClk s f).sec = s.sec := rfl
@[simp] theorem updClk_hv (s : State) (f : Clocks → Clocks) : (updClk s f).hv = s.hv := rfl
@[simp] theorem updClk_fm (s : State) (f : Clocks → Clocks) : (updClk s f).fm = s.fm := rfl
@[simp] theorem updClk_sources (s : State) (f : Clocks → Clocks) : (updClk s f).sources = s.sources := rfl
@[simp] theorem updClk_latches (s : State) (f : Clocks → Clocks) : (updClk s f).latches = s.latches := rfl
@[simp] theorem updClk_cores (s : State) (f : Clocks → Clocks) : (updClk s f).cores = s.cores := rfl
@[simp] theorem updClk_hl (s : State) (f : Clocks → Clocks) : (updClk s f).hl = s.hl := rfl
@[simp] theorem updClk_rings (s : State) (f : Clocks → Clocks) : (updClk s f).rings = s.rings := rfl
@[simp] theorem updClk_bursts (s : State) (f : Clocks → Clocks) : (updClk s f).bursts = s.bursts := rfl
@[simp] theorem updClk_descs (s : State) (f : Clocks → Clocks) : (updClk s f).descs = s.descs := rfl
@[simp] theorem updClk_stage (s : State) (f : Clocks → Clocks) : (updClk s f).stage = s.stage := rfl
@[simp] theorem updClk_fetchPtr (s : State) (f : Clocks → Clocks) : (updClk s f).fetchPtr = s.fetchPtr := rfl
@[simp] theorem updClk_plans (s : State) (f : Clocks → Clocks) : (updClk s f).plans = s.plans := rfl
@[simp] theorem updClk_objs (s : State) (f : Clocks → Clocks) : (updClk s f).objs = s.objs := rfl
@[simp] theorem updClk_queues (s : State) (f : Clocks → Clocks) : (updClk s f).queues = s.queues := rfl
@[simp] theorem updClk_jobs (s : State) (f : Clocks → Clocks) : (updClk s f).jobs = s.jobs := rfl
@[simp] theorem updClk_ports (s : State) (f : Clocks → Clocks) : (updClk s f).ports = s.ports := rfl
@[simp] theorem updClk_pstreams (s : State) (f : Clocks → Clocks) : (updClk s f).pstreams = s.pstreams := rfl
@[simp] theorem updClk_streams (s : State) (f : Clocks → Clocks) : (updClk s f).streams = s.streams := rfl
@[simp] theorem updClk_stripes (s : State) (f : Clocks → Clocks) : (updClk s f).stripes = s.stripes := rfl
@[simp] theorem updClk_engines (s : State) (f : Clocks → Clocks) : (updClk s f).engines = s.engines := rfl
@[simp] theorem updClk_encs (s : State) (f : Clocks → Clocks) : (updClk s f).encs = s.encs := rfl
@[simp] theorem updClk_trigs (s : State) (f : Clocks → Clocks) : (updClk s f).trigs = s.trigs := rfl
@[simp] theorem updClk_links (s : State) (f : Clocks → Clocks) : (updClk s f).links = s.links := rfl
@[simp] theorem updClk_giLevel (s : State) (f : Clocks → Clocks) : (updClk s f).giLevel = s.giLevel := rfl
@[simp] theorem updClk_giFrom (s : State) (f : Clocks → Clocks) : (updClk s f).giFrom = s.giFrom := rfl
@[simp] theorem updClk_tiles (s : State) (f : Clocks → Clocks) : (updClk s f).tiles = s.tiles := rfl
@[simp] theorem updClk_grid (s : State) (f : Clocks → Clocks) : (updClk s f).grid = s.grid := rfl
@[simp] theorem updClk_sctx (s : State) (f : Clocks → Clocks) : (updClk s f).sctx = s.sctx := rfl
@[simp] theorem updClk_bwTokens (s : State) (f : Clocks → Clocks) : (updClk s f).bwTokens = s.bwTokens := rfl
@[simp] theorem updClk_chans (s : State) (f : Clocks → Clocks) : (updClk s f).chans = s.chans := rfl
@[simp] theorem updClk_dram (s : State) (f : Clocks → Clocks) : (updClk s f).dram = s.dram := rfl
@[simp] theorem updClk_pm (s : State) (f : Clocks → Clocks) : (updClk s f).pm = s.pm := rfl
@[simp] theorem updClk_drifts (s : State) (f : Clocks → Clocks) : (updClk s f).drifts = s.drifts := rfl

@[simp] theorem updPins_pending (s : State) (f : Pins → Pins) : (updPins s f).pending = s.pending := rfl
@[simp] theorem updPins_regs (s : State) (f : Pins → Pins) : (updPins s f).regs = s.regs := rfl
@[simp] theorem updPins_shadow (s : State) (f : Pins → Pins) : (updPins s f).shadow = s.shadow := rfl
@[simp] theorem updPins_heldLow (s : State) (f : Pins → Pins) : (updPins s f).heldLow = s.heldLow := rfl
@[simp] theorem updPins_latched (s : State) (f : Pins → Pins) : (updPins s f).latched = s.latched := rfl
@[simp] theorem updPins_readData (s : State) (f : Pins → Pins) : (updPins s f).readData = s.readData := rfl
@[simp] theorem updPins_readError (s : State) (f : Pins → Pins) : (updPins s f).readError = s.readError := rfl
@[simp] theorem updPins_free (s : State) (f : Pins → Pins) : (updPins s f).free = s.free := rfl
@[simp] theorem updPins_mem (s : State) (f : Pins → Pins) : (updPins s f).mem = s.mem := rfl
@[simp] theorem updPins_hostMem (s : State) (f : Pins → Pins) : (updPins s f).hostMem = s.hostMem := rfl
@[simp] theorem updPins_blocks (s : State) (f : Pins → Pins) : (updPins s f).blocks = s.blocks := rfl
@[simp] theorem updPins_spPoison (s : State) (f : Pins → Pins) : (updPins s f).spPoison = s.spPoison := rfl
@[simp] theorem updPins_iram (s : State) (f : Pins → Pins) : (updPins s f).iram = s.iram := rfl
@[simp] theorem updPins_tcm (s : State) (f : Pins → Pins) : (updPins s f).tcm = s.tcm := rfl
@[simp] theorem updPins_bitVars (s : State) (f : Pins → Pins) : (updPins s f).bitVars = s.bitVars := rfl
@[simp] theorem updPins_clk (s : State) (f : Pins → Pins) : (updPins s f).clk = s.clk := rfl
@[simp] theorem updPins_boot (s : State) (f : Pins → Pins) : (updPins s f).boot = s.boot := rfl
@[simp] theorem updPins_sec (s : State) (f : Pins → Pins) : (updPins s f).sec = s.sec := rfl
@[simp] theorem updPins_hv (s : State) (f : Pins → Pins) : (updPins s f).hv = s.hv := rfl
@[simp] theorem updPins_fm (s : State) (f : Pins → Pins) : (updPins s f).fm = s.fm := rfl
@[simp] theorem updPins_sources (s : State) (f : Pins → Pins) : (updPins s f).sources = s.sources := rfl
@[simp] theorem updPins_latches (s : State) (f : Pins → Pins) : (updPins s f).latches = s.latches := rfl
@[simp] theorem updPins_cores (s : State) (f : Pins → Pins) : (updPins s f).cores = s.cores := rfl
@[simp] theorem updPins_hl (s : State) (f : Pins → Pins) : (updPins s f).hl = s.hl := rfl
@[simp] theorem updPins_rings (s : State) (f : Pins → Pins) : (updPins s f).rings = s.rings := rfl
@[simp] theorem updPins_bursts (s : State) (f : Pins → Pins) : (updPins s f).bursts = s.bursts := rfl
@[simp] theorem updPins_descs (s : State) (f : Pins → Pins) : (updPins s f).descs = s.descs := rfl
@[simp] theorem updPins_stage (s : State) (f : Pins → Pins) : (updPins s f).stage = s.stage := rfl
@[simp] theorem updPins_fetchPtr (s : State) (f : Pins → Pins) : (updPins s f).fetchPtr = s.fetchPtr := rfl
@[simp] theorem updPins_plans (s : State) (f : Pins → Pins) : (updPins s f).plans = s.plans := rfl
@[simp] theorem updPins_objs (s : State) (f : Pins → Pins) : (updPins s f).objs = s.objs := rfl
@[simp] theorem updPins_queues (s : State) (f : Pins → Pins) : (updPins s f).queues = s.queues := rfl
@[simp] theorem updPins_jobs (s : State) (f : Pins → Pins) : (updPins s f).jobs = s.jobs := rfl
@[simp] theorem updPins_ports (s : State) (f : Pins → Pins) : (updPins s f).ports = s.ports := rfl
@[simp] theorem updPins_pstreams (s : State) (f : Pins → Pins) : (updPins s f).pstreams = s.pstreams := rfl
@[simp] theorem updPins_streams (s : State) (f : Pins → Pins) : (updPins s f).streams = s.streams := rfl
@[simp] theorem updPins_stripes (s : State) (f : Pins → Pins) : (updPins s f).stripes = s.stripes := rfl
@[simp] theorem updPins_engines (s : State) (f : Pins → Pins) : (updPins s f).engines = s.engines := rfl
@[simp] theorem updPins_encs (s : State) (f : Pins → Pins) : (updPins s f).encs = s.encs := rfl
@[simp] theorem updPins_trigs (s : State) (f : Pins → Pins) : (updPins s f).trigs = s.trigs := rfl
@[simp] theorem updPins_links (s : State) (f : Pins → Pins) : (updPins s f).links = s.links := rfl
@[simp] theorem updPins_giLevel (s : State) (f : Pins → Pins) : (updPins s f).giLevel = s.giLevel := rfl
@[simp] theorem updPins_giFrom (s : State) (f : Pins → Pins) : (updPins s f).giFrom = s.giFrom := rfl
@[simp] theorem updPins_tiles (s : State) (f : Pins → Pins) : (updPins s f).tiles = s.tiles := rfl
@[simp] theorem updPins_grid (s : State) (f : Pins → Pins) : (updPins s f).grid = s.grid := rfl
@[simp] theorem updPins_sctx (s : State) (f : Pins → Pins) : (updPins s f).sctx = s.sctx := rfl
@[simp] theorem updPins_bwTokens (s : State) (f : Pins → Pins) : (updPins s f).bwTokens = s.bwTokens := rfl
@[simp] theorem updPins_chans (s : State) (f : Pins → Pins) : (updPins s f).chans = s.chans := rfl
@[simp] theorem updPins_dram (s : State) (f : Pins → Pins) : (updPins s f).dram = s.dram := rfl
@[simp] theorem updPins_pm (s : State) (f : Pins → Pins) : (updPins s f).pm = s.pm := rfl
@[simp] theorem updPins_drifts (s : State) (f : Pins → Pins) : (updPins s f).drifts = s.drifts := rfl

@[simp] theorem updBoot_pending (s : State) (f : Boot → Boot) : (updBoot s f).pending = s.pending := rfl
@[simp] theorem updBoot_regs (s : State) (f : Boot → Boot) : (updBoot s f).regs = s.regs := rfl
@[simp] theorem updBoot_shadow (s : State) (f : Boot → Boot) : (updBoot s f).shadow = s.shadow := rfl
@[simp] theorem updBoot_heldLow (s : State) (f : Boot → Boot) : (updBoot s f).heldLow = s.heldLow := rfl
@[simp] theorem updBoot_latched (s : State) (f : Boot → Boot) : (updBoot s f).latched = s.latched := rfl
@[simp] theorem updBoot_readData (s : State) (f : Boot → Boot) : (updBoot s f).readData = s.readData := rfl
@[simp] theorem updBoot_readError (s : State) (f : Boot → Boot) : (updBoot s f).readError = s.readError := rfl
@[simp] theorem updBoot_free (s : State) (f : Boot → Boot) : (updBoot s f).free = s.free := rfl
@[simp] theorem updBoot_mem (s : State) (f : Boot → Boot) : (updBoot s f).mem = s.mem := rfl
@[simp] theorem updBoot_hostMem (s : State) (f : Boot → Boot) : (updBoot s f).hostMem = s.hostMem := rfl
@[simp] theorem updBoot_blocks (s : State) (f : Boot → Boot) : (updBoot s f).blocks = s.blocks := rfl
@[simp] theorem updBoot_spPoison (s : State) (f : Boot → Boot) : (updBoot s f).spPoison = s.spPoison := rfl
@[simp] theorem updBoot_iram (s : State) (f : Boot → Boot) : (updBoot s f).iram = s.iram := rfl
@[simp] theorem updBoot_tcm (s : State) (f : Boot → Boot) : (updBoot s f).tcm = s.tcm := rfl
@[simp] theorem updBoot_bitVars (s : State) (f : Boot → Boot) : (updBoot s f).bitVars = s.bitVars := rfl
@[simp] theorem updBoot_clk (s : State) (f : Boot → Boot) : (updBoot s f).clk = s.clk := rfl
@[simp] theorem updBoot_pins (s : State) (f : Boot → Boot) : (updBoot s f).pins = s.pins := rfl
@[simp] theorem updBoot_sec (s : State) (f : Boot → Boot) : (updBoot s f).sec = s.sec := rfl
@[simp] theorem updBoot_hv (s : State) (f : Boot → Boot) : (updBoot s f).hv = s.hv := rfl
@[simp] theorem updBoot_fm (s : State) (f : Boot → Boot) : (updBoot s f).fm = s.fm := rfl
@[simp] theorem updBoot_sources (s : State) (f : Boot → Boot) : (updBoot s f).sources = s.sources := rfl
@[simp] theorem updBoot_latches (s : State) (f : Boot → Boot) : (updBoot s f).latches = s.latches := rfl
@[simp] theorem updBoot_cores (s : State) (f : Boot → Boot) : (updBoot s f).cores = s.cores := rfl
@[simp] theorem updBoot_hl (s : State) (f : Boot → Boot) : (updBoot s f).hl = s.hl := rfl
@[simp] theorem updBoot_rings (s : State) (f : Boot → Boot) : (updBoot s f).rings = s.rings := rfl
@[simp] theorem updBoot_bursts (s : State) (f : Boot → Boot) : (updBoot s f).bursts = s.bursts := rfl
@[simp] theorem updBoot_descs (s : State) (f : Boot → Boot) : (updBoot s f).descs = s.descs := rfl
@[simp] theorem updBoot_stage (s : State) (f : Boot → Boot) : (updBoot s f).stage = s.stage := rfl
@[simp] theorem updBoot_fetchPtr (s : State) (f : Boot → Boot) : (updBoot s f).fetchPtr = s.fetchPtr := rfl
@[simp] theorem updBoot_plans (s : State) (f : Boot → Boot) : (updBoot s f).plans = s.plans := rfl
@[simp] theorem updBoot_objs (s : State) (f : Boot → Boot) : (updBoot s f).objs = s.objs := rfl
@[simp] theorem updBoot_queues (s : State) (f : Boot → Boot) : (updBoot s f).queues = s.queues := rfl
@[simp] theorem updBoot_jobs (s : State) (f : Boot → Boot) : (updBoot s f).jobs = s.jobs := rfl
@[simp] theorem updBoot_ports (s : State) (f : Boot → Boot) : (updBoot s f).ports = s.ports := rfl
@[simp] theorem updBoot_pstreams (s : State) (f : Boot → Boot) : (updBoot s f).pstreams = s.pstreams := rfl
@[simp] theorem updBoot_streams (s : State) (f : Boot → Boot) : (updBoot s f).streams = s.streams := rfl
@[simp] theorem updBoot_stripes (s : State) (f : Boot → Boot) : (updBoot s f).stripes = s.stripes := rfl
@[simp] theorem updBoot_engines (s : State) (f : Boot → Boot) : (updBoot s f).engines = s.engines := rfl
@[simp] theorem updBoot_encs (s : State) (f : Boot → Boot) : (updBoot s f).encs = s.encs := rfl
@[simp] theorem updBoot_trigs (s : State) (f : Boot → Boot) : (updBoot s f).trigs = s.trigs := rfl
@[simp] theorem updBoot_links (s : State) (f : Boot → Boot) : (updBoot s f).links = s.links := rfl
@[simp] theorem updBoot_giLevel (s : State) (f : Boot → Boot) : (updBoot s f).giLevel = s.giLevel := rfl
@[simp] theorem updBoot_giFrom (s : State) (f : Boot → Boot) : (updBoot s f).giFrom = s.giFrom := rfl
@[simp] theorem updBoot_tiles (s : State) (f : Boot → Boot) : (updBoot s f).tiles = s.tiles := rfl
@[simp] theorem updBoot_grid (s : State) (f : Boot → Boot) : (updBoot s f).grid = s.grid := rfl
@[simp] theorem updBoot_sctx (s : State) (f : Boot → Boot) : (updBoot s f).sctx = s.sctx := rfl
@[simp] theorem updBoot_bwTokens (s : State) (f : Boot → Boot) : (updBoot s f).bwTokens = s.bwTokens := rfl
@[simp] theorem updBoot_chans (s : State) (f : Boot → Boot) : (updBoot s f).chans = s.chans := rfl
@[simp] theorem updBoot_dram (s : State) (f : Boot → Boot) : (updBoot s f).dram = s.dram := rfl
@[simp] theorem updBoot_pm (s : State) (f : Boot → Boot) : (updBoot s f).pm = s.pm := rfl
@[simp] theorem updBoot_drifts (s : State) (f : Boot → Boot) : (updBoot s f).drifts = s.drifts := rfl

@[simp] theorem updDram_pending (s : State) (f : Dram → Dram) : (updDram s f).pending = s.pending := rfl
@[simp] theorem updDram_regs (s : State) (f : Dram → Dram) : (updDram s f).regs = s.regs := rfl
@[simp] theorem updDram_shadow (s : State) (f : Dram → Dram) : (updDram s f).shadow = s.shadow := rfl
@[simp] theorem updDram_heldLow (s : State) (f : Dram → Dram) : (updDram s f).heldLow = s.heldLow := rfl
@[simp] theorem updDram_latched (s : State) (f : Dram → Dram) : (updDram s f).latched = s.latched := rfl
@[simp] theorem updDram_readData (s : State) (f : Dram → Dram) : (updDram s f).readData = s.readData := rfl
@[simp] theorem updDram_readError (s : State) (f : Dram → Dram) : (updDram s f).readError = s.readError := rfl
@[simp] theorem updDram_free (s : State) (f : Dram → Dram) : (updDram s f).free = s.free := rfl
@[simp] theorem updDram_mem (s : State) (f : Dram → Dram) : (updDram s f).mem = s.mem := rfl
@[simp] theorem updDram_hostMem (s : State) (f : Dram → Dram) : (updDram s f).hostMem = s.hostMem := rfl
@[simp] theorem updDram_blocks (s : State) (f : Dram → Dram) : (updDram s f).blocks = s.blocks := rfl
@[simp] theorem updDram_spPoison (s : State) (f : Dram → Dram) : (updDram s f).spPoison = s.spPoison := rfl
@[simp] theorem updDram_iram (s : State) (f : Dram → Dram) : (updDram s f).iram = s.iram := rfl
@[simp] theorem updDram_tcm (s : State) (f : Dram → Dram) : (updDram s f).tcm = s.tcm := rfl
@[simp] theorem updDram_bitVars (s : State) (f : Dram → Dram) : (updDram s f).bitVars = s.bitVars := rfl
@[simp] theorem updDram_clk (s : State) (f : Dram → Dram) : (updDram s f).clk = s.clk := rfl
@[simp] theorem updDram_pins (s : State) (f : Dram → Dram) : (updDram s f).pins = s.pins := rfl
@[simp] theorem updDram_boot (s : State) (f : Dram → Dram) : (updDram s f).boot = s.boot := rfl
@[simp] theorem updDram_sec (s : State) (f : Dram → Dram) : (updDram s f).sec = s.sec := rfl
@[simp] theorem updDram_hv (s : State) (f : Dram → Dram) : (updDram s f).hv = s.hv := rfl
@[simp] theorem updDram_fm (s : State) (f : Dram → Dram) : (updDram s f).fm = s.fm := rfl
@[simp] theorem updDram_sources (s : State) (f : Dram → Dram) : (updDram s f).sources = s.sources := rfl
@[simp] theorem updDram_latches (s : State) (f : Dram → Dram) : (updDram s f).latches = s.latches := rfl
@[simp] theorem updDram_cores (s : State) (f : Dram → Dram) : (updDram s f).cores = s.cores := rfl
@[simp] theorem updDram_hl (s : State) (f : Dram → Dram) : (updDram s f).hl = s.hl := rfl
@[simp] theorem updDram_rings (s : State) (f : Dram → Dram) : (updDram s f).rings = s.rings := rfl
@[simp] theorem updDram_bursts (s : State) (f : Dram → Dram) : (updDram s f).bursts = s.bursts := rfl
@[simp] theorem updDram_descs (s : State) (f : Dram → Dram) : (updDram s f).descs = s.descs := rfl
@[simp] theorem updDram_stage (s : State) (f : Dram → Dram) : (updDram s f).stage = s.stage := rfl
@[simp] theorem updDram_fetchPtr (s : State) (f : Dram → Dram) : (updDram s f).fetchPtr = s.fetchPtr := rfl
@[simp] theorem updDram_plans (s : State) (f : Dram → Dram) : (updDram s f).plans = s.plans := rfl
@[simp] theorem updDram_objs (s : State) (f : Dram → Dram) : (updDram s f).objs = s.objs := rfl
@[simp] theorem updDram_queues (s : State) (f : Dram → Dram) : (updDram s f).queues = s.queues := rfl
@[simp] theorem updDram_jobs (s : State) (f : Dram → Dram) : (updDram s f).jobs = s.jobs := rfl
@[simp] theorem updDram_ports (s : State) (f : Dram → Dram) : (updDram s f).ports = s.ports := rfl
@[simp] theorem updDram_pstreams (s : State) (f : Dram → Dram) : (updDram s f).pstreams = s.pstreams := rfl
@[simp] theorem updDram_streams (s : State) (f : Dram → Dram) : (updDram s f).streams = s.streams := rfl
@[simp] theorem updDram_stripes (s : State) (f : Dram → Dram) : (updDram s f).stripes = s.stripes := rfl
@[simp] theorem updDram_engines (s : State) (f : Dram → Dram) : (updDram s f).engines = s.engines := rfl
@[simp] theorem updDram_encs (s : State) (f : Dram → Dram) : (updDram s f).encs = s.encs := rfl
@[simp] theorem updDram_trigs (s : State) (f : Dram → Dram) : (updDram s f).trigs = s.trigs := rfl
@[simp] theorem updDram_links (s : State) (f : Dram → Dram) : (updDram s f).links = s.links := rfl
@[simp] theorem updDram_giLevel (s : State) (f : Dram → Dram) : (updDram s f).giLevel = s.giLevel := rfl
@[simp] theorem updDram_giFrom (s : State) (f : Dram → Dram) : (updDram s f).giFrom = s.giFrom := rfl
@[simp] theorem updDram_tiles (s : State) (f : Dram → Dram) : (updDram s f).tiles = s.tiles := rfl
@[simp] theorem updDram_grid (s : State) (f : Dram → Dram) : (updDram s f).grid = s.grid := rfl
@[simp] theorem updDram_sctx (s : State) (f : Dram → Dram) : (updDram s f).sctx = s.sctx := rfl
@[simp] theorem updDram_bwTokens (s : State) (f : Dram → Dram) : (updDram s f).bwTokens = s.bwTokens := rfl
@[simp] theorem updDram_chans (s : State) (f : Dram → Dram) : (updDram s f).chans = s.chans := rfl
@[simp] theorem updDram_pm (s : State) (f : Dram → Dram) : (updDram s f).pm = s.pm := rfl
@[simp] theorem updDram_drifts (s : State) (f : Dram → Dram) : (updDram s f).drifts = s.drifts := rfl

@[simp] theorem updJob_pending (s : State) (id : JobId) (f : Job → Job) : (updJob s id f).pending = s.pending := rfl
@[simp] theorem updJob_regs (s : State) (id : JobId) (f : Job → Job) : (updJob s id f).regs = s.regs := rfl
@[simp] theorem updJob_shadow (s : State) (id : JobId) (f : Job → Job) : (updJob s id f).shadow = s.shadow := rfl
@[simp] theorem updJob_heldLow (s : State) (id : JobId) (f : Job → Job) : (updJob s id f).heldLow = s.heldLow := rfl
@[simp] theorem updJob_latched (s : State) (id : JobId) (f : Job → Job) : (updJob s id f).latched = s.latched := rfl
@[simp] theorem updJob_readData (s : State) (id : JobId) (f : Job → Job) : (updJob s id f).readData = s.readData := rfl
@[simp] theorem updJob_readError (s : State) (id : JobId) (f : Job → Job) : (updJob s id f).readError = s.readError := rfl
@[simp] theorem updJob_free (s : State) (id : JobId) (f : Job → Job) : (updJob s id f).free = s.free := rfl
@[simp] theorem updJob_mem (s : State) (id : JobId) (f : Job → Job) : (updJob s id f).mem = s.mem := rfl
@[simp] theorem updJob_hostMem (s : State) (id : JobId) (f : Job → Job) : (updJob s id f).hostMem = s.hostMem := rfl
@[simp] theorem updJob_blocks (s : State) (id : JobId) (f : Job → Job) : (updJob s id f).blocks = s.blocks := rfl
@[simp] theorem updJob_spPoison (s : State) (id : JobId) (f : Job → Job) : (updJob s id f).spPoison = s.spPoison := rfl
@[simp] theorem updJob_iram (s : State) (id : JobId) (f : Job → Job) : (updJob s id f).iram = s.iram := rfl
@[simp] theorem updJob_tcm (s : State) (id : JobId) (f : Job → Job) : (updJob s id f).tcm = s.tcm := rfl
@[simp] theorem updJob_bitVars (s : State) (id : JobId) (f : Job → Job) : (updJob s id f).bitVars = s.bitVars := rfl
@[simp] theorem updJob_clk (s : State) (id : JobId) (f : Job → Job) : (updJob s id f).clk = s.clk := rfl
@[simp] theorem updJob_pins (s : State) (id : JobId) (f : Job → Job) : (updJob s id f).pins = s.pins := rfl
@[simp] theorem updJob_boot (s : State) (id : JobId) (f : Job → Job) : (updJob s id f).boot = s.boot := rfl
@[simp] theorem updJob_sec (s : State) (id : JobId) (f : Job → Job) : (updJob s id f).sec = s.sec := rfl
@[simp] theorem updJob_hv (s : State) (id : JobId) (f : Job → Job) : (updJob s id f).hv = s.hv := rfl
@[simp] theorem updJob_fm (s : State) (id : JobId) (f : Job → Job) : (updJob s id f).fm = s.fm := rfl
@[simp] theorem updJob_sources (s : State) (id : JobId) (f : Job → Job) : (updJob s id f).sources = s.sources := rfl
@[simp] theorem updJob_latches (s : State) (id : JobId) (f : Job → Job) : (updJob s id f).latches = s.latches := rfl
@[simp] theorem updJob_cores (s : State) (id : JobId) (f : Job → Job) : (updJob s id f).cores = s.cores := rfl
@[simp] theorem updJob_hl (s : State) (id : JobId) (f : Job → Job) : (updJob s id f).hl = s.hl := rfl
@[simp] theorem updJob_rings (s : State) (id : JobId) (f : Job → Job) : (updJob s id f).rings = s.rings := rfl
@[simp] theorem updJob_bursts (s : State) (id : JobId) (f : Job → Job) : (updJob s id f).bursts = s.bursts := rfl
@[simp] theorem updJob_descs (s : State) (id : JobId) (f : Job → Job) : (updJob s id f).descs = s.descs := rfl
@[simp] theorem updJob_stage (s : State) (id : JobId) (f : Job → Job) : (updJob s id f).stage = s.stage := rfl
@[simp] theorem updJob_fetchPtr (s : State) (id : JobId) (f : Job → Job) : (updJob s id f).fetchPtr = s.fetchPtr := rfl
@[simp] theorem updJob_plans (s : State) (id : JobId) (f : Job → Job) : (updJob s id f).plans = s.plans := rfl
@[simp] theorem updJob_objs (s : State) (id : JobId) (f : Job → Job) : (updJob s id f).objs = s.objs := rfl
@[simp] theorem updJob_queues (s : State) (id : JobId) (f : Job → Job) : (updJob s id f).queues = s.queues := rfl
@[simp] theorem updJob_ports (s : State) (id : JobId) (f : Job → Job) : (updJob s id f).ports = s.ports := rfl
@[simp] theorem updJob_pstreams (s : State) (id : JobId) (f : Job → Job) : (updJob s id f).pstreams = s.pstreams := rfl
@[simp] theorem updJob_streams (s : State) (id : JobId) (f : Job → Job) : (updJob s id f).streams = s.streams := rfl
@[simp] theorem updJob_stripes (s : State) (id : JobId) (f : Job → Job) : (updJob s id f).stripes = s.stripes := rfl
@[simp] theorem updJob_engines (s : State) (id : JobId) (f : Job → Job) : (updJob s id f).engines = s.engines := rfl
@[simp] theorem updJob_encs (s : State) (id : JobId) (f : Job → Job) : (updJob s id f).encs = s.encs := rfl
@[simp] theorem updJob_trigs (s : State) (id : JobId) (f : Job → Job) : (updJob s id f).trigs = s.trigs := rfl
@[simp] theorem updJob_links (s : State) (id : JobId) (f : Job → Job) : (updJob s id f).links = s.links := rfl
@[simp] theorem updJob_giLevel (s : State) (id : JobId) (f : Job → Job) : (updJob s id f).giLevel = s.giLevel := rfl
@[simp] theorem updJob_giFrom (s : State) (id : JobId) (f : Job → Job) : (updJob s id f).giFrom = s.giFrom := rfl
@[simp] theorem updJob_tiles (s : State) (id : JobId) (f : Job → Job) : (updJob s id f).tiles = s.tiles := rfl
@[simp] theorem updJob_grid (s : State) (id : JobId) (f : Job → Job) : (updJob s id f).grid = s.grid := rfl
@[simp] theorem updJob_sctx (s : State) (id : JobId) (f : Job → Job) : (updJob s id f).sctx = s.sctx := rfl
@[simp] theorem updJob_bwTokens (s : State) (id : JobId) (f : Job → Job) : (updJob s id f).bwTokens = s.bwTokens := rfl
@[simp] theorem updJob_chans (s : State) (id : JobId) (f : Job → Job) : (updJob s id f).chans = s.chans := rfl
@[simp] theorem updJob_dram (s : State) (id : JobId) (f : Job → Job) : (updJob s id f).dram = s.dram := rfl
@[simp] theorem updJob_pm (s : State) (id : JobId) (f : Job → Job) : (updJob s id f).pm = s.pm := rfl
@[simp] theorem updJob_drifts (s : State) (id : JobId) (f : Job → Job) : (updJob s id f).drifts = s.drifts := rfl

@[simp] theorem pushReport_pending (s : State) (r : Report) (esc : Bool) : (pushReport s r esc).pending = s.pending := rfl
@[simp] theorem pushReport_regs (s : State) (r : Report) (esc : Bool) : (pushReport s r esc).regs = s.regs := rfl
@[simp] theorem pushReport_shadow (s : State) (r : Report) (esc : Bool) : (pushReport s r esc).shadow = s.shadow := rfl
@[simp] theorem pushReport_heldLow (s : State) (r : Report) (esc : Bool) : (pushReport s r esc).heldLow = s.heldLow := rfl
@[simp] theorem pushReport_latched (s : State) (r : Report) (esc : Bool) : (pushReport s r esc).latched = s.latched := rfl
@[simp] theorem pushReport_readData (s : State) (r : Report) (esc : Bool) : (pushReport s r esc).readData = s.readData := rfl
@[simp] theorem pushReport_readError (s : State) (r : Report) (esc : Bool) : (pushReport s r esc).readError = s.readError := rfl
@[simp] theorem pushReport_free (s : State) (r : Report) (esc : Bool) : (pushReport s r esc).free = s.free := rfl
@[simp] theorem pushReport_mem (s : State) (r : Report) (esc : Bool) : (pushReport s r esc).mem = s.mem := rfl
@[simp] theorem pushReport_hostMem (s : State) (r : Report) (esc : Bool) : (pushReport s r esc).hostMem = s.hostMem := rfl
@[simp] theorem pushReport_blocks (s : State) (r : Report) (esc : Bool) : (pushReport s r esc).blocks = s.blocks := rfl
@[simp] theorem pushReport_spPoison (s : State) (r : Report) (esc : Bool) : (pushReport s r esc).spPoison = s.spPoison := rfl
@[simp] theorem pushReport_iram (s : State) (r : Report) (esc : Bool) : (pushReport s r esc).iram = s.iram := rfl
@[simp] theorem pushReport_tcm (s : State) (r : Report) (esc : Bool) : (pushReport s r esc).tcm = s.tcm := rfl
@[simp] theorem pushReport_bitVars (s : State) (r : Report) (esc : Bool) : (pushReport s r esc).bitVars = s.bitVars := rfl
@[simp] theorem pushReport_clk (s : State) (r : Report) (esc : Bool) : (pushReport s r esc).clk = s.clk := rfl
@[simp] theorem pushReport_pins (s : State) (r : Report) (esc : Bool) : (pushReport s r esc).pins = s.pins := rfl
@[simp] theorem pushReport_boot (s : State) (r : Report) (esc : Bool) : (pushReport s r esc).boot = s.boot := rfl
@[simp] theorem pushReport_sec (s : State) (r : Report) (esc : Bool) : (pushReport s r esc).sec = s.sec := rfl
@[simp] theorem pushReport_hv (s : State) (r : Report) (esc : Bool) : (pushReport s r esc).hv = s.hv := rfl
@[simp] theorem pushReport_sources (s : State) (r : Report) (esc : Bool) : (pushReport s r esc).sources = s.sources := rfl
@[simp] theorem pushReport_latches (s : State) (r : Report) (esc : Bool) : (pushReport s r esc).latches = s.latches := rfl
@[simp] theorem pushReport_cores (s : State) (r : Report) (esc : Bool) : (pushReport s r esc).cores = s.cores := rfl
@[simp] theorem pushReport_hl (s : State) (r : Report) (esc : Bool) : (pushReport s r esc).hl = s.hl := rfl
@[simp] theorem pushReport_rings (s : State) (r : Report) (esc : Bool) : (pushReport s r esc).rings = s.rings := rfl
@[simp] theorem pushReport_bursts (s : State) (r : Report) (esc : Bool) : (pushReport s r esc).bursts = s.bursts := rfl
@[simp] theorem pushReport_descs (s : State) (r : Report) (esc : Bool) : (pushReport s r esc).descs = s.descs := rfl
@[simp] theorem pushReport_stage (s : State) (r : Report) (esc : Bool) : (pushReport s r esc).stage = s.stage := rfl
@[simp] theorem pushReport_fetchPtr (s : State) (r : Report) (esc : Bool) : (pushReport s r esc).fetchPtr = s.fetchPtr := rfl
@[simp] theorem pushReport_plans (s : State) (r : Report) (esc : Bool) : (pushReport s r esc).plans = s.plans := rfl
@[simp] theorem pushReport_objs (s : State) (r : Report) (esc : Bool) : (pushReport s r esc).objs = s.objs := rfl
@[simp] theorem pushReport_queues (s : State) (r : Report) (esc : Bool) : (pushReport s r esc).queues = s.queues := rfl
@[simp] theorem pushReport_jobs (s : State) (r : Report) (esc : Bool) : (pushReport s r esc).jobs = s.jobs := rfl
@[simp] theorem pushReport_ports (s : State) (r : Report) (esc : Bool) : (pushReport s r esc).ports = s.ports := rfl
@[simp] theorem pushReport_pstreams (s : State) (r : Report) (esc : Bool) : (pushReport s r esc).pstreams = s.pstreams := rfl
@[simp] theorem pushReport_streams (s : State) (r : Report) (esc : Bool) : (pushReport s r esc).streams = s.streams := rfl
@[simp] theorem pushReport_stripes (s : State) (r : Report) (esc : Bool) : (pushReport s r esc).stripes = s.stripes := rfl
@[simp] theorem pushReport_engines (s : State) (r : Report) (esc : Bool) : (pushReport s r esc).engines = s.engines := rfl
@[simp] theorem pushReport_encs (s : State) (r : Report) (esc : Bool) : (pushReport s r esc).encs = s.encs := rfl
@[simp] theorem pushReport_trigs (s : State) (r : Report) (esc : Bool) : (pushReport s r esc).trigs = s.trigs := rfl
@[simp] theorem pushReport_links (s : State) (r : Report) (esc : Bool) : (pushReport s r esc).links = s.links := rfl
@[simp] theorem pushReport_giLevel (s : State) (r : Report) (esc : Bool) : (pushReport s r esc).giLevel = s.giLevel := rfl
@[simp] theorem pushReport_giFrom (s : State) (r : Report) (esc : Bool) : (pushReport s r esc).giFrom = s.giFrom := rfl
@[simp] theorem pushReport_tiles (s : State) (r : Report) (esc : Bool) : (pushReport s r esc).tiles = s.tiles := rfl
@[simp] theorem pushReport_grid (s : State) (r : Report) (esc : Bool) : (pushReport s r esc).grid = s.grid := rfl
@[simp] theorem pushReport_sctx (s : State) (r : Report) (esc : Bool) : (pushReport s r esc).sctx = s.sctx := rfl
@[simp] theorem pushReport_bwTokens (s : State) (r : Report) (esc : Bool) : (pushReport s r esc).bwTokens = s.bwTokens := rfl
@[simp] theorem pushReport_chans (s : State) (r : Report) (esc : Bool) : (pushReport s r esc).chans = s.chans := rfl
@[simp] theorem pushReport_dram (s : State) (r : Report) (esc : Bool) : (pushReport s r esc).dram = s.dram := rfl
@[simp] theorem pushReport_pm (s : State) (r : Report) (esc : Bool) : (pushReport s r esc).pm = s.pm := rfl
@[simp] theorem pushReport_drifts (s : State) (r : Report) (esc : Bool) : (pushReport s r esc).drifts = s.drifts := rfl

@[simp] theorem report_pending (s : State) (r : Report) : (report s r).pending = s.pending := rfl
@[simp] theorem report_regs (s : State) (r : Report) : (report s r).regs = s.regs := rfl
@[simp] theorem report_shadow (s : State) (r : Report) : (report s r).shadow = s.shadow := rfl
@[simp] theorem report_heldLow (s : State) (r : Report) : (report s r).heldLow = s.heldLow := rfl
@[simp] theorem report_latched (s : State) (r : Report) : (report s r).latched = s.latched := rfl
@[simp] theorem report_readData (s : State) (r : Report) : (report s r).readData = s.readData := rfl
@[simp] theorem report_readError (s : State) (r : Report) : (report s r).readError = s.readError := rfl
@[simp] theorem report_free (s : State) (r : Report) : (report s r).free = s.free := rfl
@[simp] theorem report_mem (s : State) (r : Report) : (report s r).mem = s.mem := rfl
@[simp] theorem report_hostMem (s : State) (r : Report) : (report s r).hostMem = s.hostMem := rfl
@[simp] theorem report_blocks (s : State) (r : Report) : (report s r).blocks = s.blocks := rfl
@[simp] theorem report_spPoison (s : State) (r : Report) : (report s r).spPoison = s.spPoison := rfl
@[simp] theorem report_iram (s : State) (r : Report) : (report s r).iram = s.iram := rfl
@[simp] theorem report_tcm (s : State) (r : Report) : (report s r).tcm = s.tcm := rfl
@[simp] theorem report_bitVars (s : State) (r : Report) : (report s r).bitVars = s.bitVars := rfl
@[simp] theorem report_clk (s : State) (r : Report) : (report s r).clk = s.clk := rfl
@[simp] theorem report_pins (s : State) (r : Report) : (report s r).pins = s.pins := rfl
@[simp] theorem report_boot (s : State) (r : Report) : (report s r).boot = s.boot := rfl
@[simp] theorem report_sec (s : State) (r : Report) : (report s r).sec = s.sec := rfl
@[simp] theorem report_hv (s : State) (r : Report) : (report s r).hv = s.hv := rfl
@[simp] theorem report_sources (s : State) (r : Report) : (report s r).sources = s.sources := rfl
@[simp] theorem report_latches (s : State) (r : Report) : (report s r).latches = s.latches := rfl
@[simp] theorem report_cores (s : State) (r : Report) : (report s r).cores = s.cores := rfl
@[simp] theorem report_hl (s : State) (r : Report) : (report s r).hl = s.hl := rfl
@[simp] theorem report_rings (s : State) (r : Report) : (report s r).rings = s.rings := rfl
@[simp] theorem report_bursts (s : State) (r : Report) : (report s r).bursts = s.bursts := rfl
@[simp] theorem report_descs (s : State) (r : Report) : (report s r).descs = s.descs := rfl
@[simp] theorem report_stage (s : State) (r : Report) : (report s r).stage = s.stage := rfl
@[simp] theorem report_fetchPtr (s : State) (r : Report) : (report s r).fetchPtr = s.fetchPtr := rfl
@[simp] theorem report_plans (s : State) (r : Report) : (report s r).plans = s.plans := rfl
@[simp] theorem report_objs (s : State) (r : Report) : (report s r).objs = s.objs := rfl
@[simp] theorem report_queues (s : State) (r : Report) : (report s r).queues = s.queues := rfl
@[simp] theorem report_jobs (s : State) (r : Report) : (report s r).jobs = s.jobs := rfl
@[simp] theorem report_ports (s : State) (r : Report) : (report s r).ports = s.ports := rfl
@[simp] theorem report_pstreams (s : State) (r : Report) : (report s r).pstreams = s.pstreams := rfl
@[simp] theorem report_streams (s : State) (r : Report) : (report s r).streams = s.streams := rfl
@[simp] theorem report_stripes (s : State) (r : Report) : (report s r).stripes = s.stripes := rfl
@[simp] theorem report_engines (s : State) (r : Report) : (report s r).engines = s.engines := rfl
@[simp] theorem report_encs (s : State) (r : Report) : (report s r).encs = s.encs := rfl
@[simp] theorem report_trigs (s : State) (r : Report) : (report s r).trigs = s.trigs := rfl
@[simp] theorem report_links (s : State) (r : Report) : (report s r).links = s.links := rfl
@[simp] theorem report_giLevel (s : State) (r : Report) : (report s r).giLevel = s.giLevel := rfl
@[simp] theorem report_giFrom (s : State) (r : Report) : (report s r).giFrom = s.giFrom := rfl
@[simp] theorem report_tiles (s : State) (r : Report) : (report s r).tiles = s.tiles := rfl
@[simp] theorem report_grid (s : State) (r : Report) : (report s r).grid = s.grid := rfl
@[simp] theorem report_sctx (s : State) (r : Report) : (report s r).sctx = s.sctx := rfl
@[simp] theorem report_bwTokens (s : State) (r : Report) : (report s r).bwTokens = s.bwTokens := rfl
@[simp] theorem report_chans (s : State) (r : Report) : (report s r).chans = s.chans := rfl
@[simp] theorem report_dram (s : State) (r : Report) : (report s r).dram = s.dram := rfl
@[simp] theorem report_pm (s : State) (r : Report) : (report s r).pm = s.pm := rfl
@[simp] theorem report_drifts (s : State) (r : Report) : (report s r).drifts = s.drifts := rfl

/-- What `tile` reads after `updTile`. -/
theorem tile_updTile (s : State) (k j : Nat) (f : Tile → Tile) :
    tile (updTile s k f) j = if j = k then f (tile s k) else tile s j := by
  unfold tile updTile mupd; dsimp only; rw [mget_mset]

@[simp] theorem tile_updTile_self (s : State) (k : Nat) (f : Tile → Tile) : tile (updTile s k f) k = f (tile s k) := by
  rw [tile_updTile, if_pos rfl]

/-- `tile` reads one part only. -/
theorem tile_congr {s t : State} (h : t.tiles = s.tiles) (k : Nat) : tile t k = tile s k := by unfold tile; rw [h]

/-- What `port` reads after `updPort`. -/
theorem port_updPort (s : State) (k j : Nat) (f : Port → Port) :
    port (updPort s k f) j = if j = k then f (port s k) else port s j := by
  unfold port updPort mupd; dsimp only; rw [mget_mset]

@[simp] theorem port_updPort_self (s : State) (k : Nat) (f : Port → Port) : port (updPort s k f) k = f (port s k) := by
  rw [port_updPort, if_pos rfl]

/-- `port` reads one part only. -/
theorem port_congr {s t : State} (h : t.ports = s.ports) (k : Nat) : port t k = port s k := by unfold port; rw [h]

/-- What `pstream` reads after `updPstream`. -/
theorem pstream_updPstream (s : State) (k j : Nat) (f : PortStream → PortStream) :
    pstream (updPstream s k f) j = if j = k then f (pstream s k) else pstream s j := by
  unfold pstream updPstream mupd; dsimp only; rw [mget_mset]

@[simp] theorem pstream_updPstream_self (s : State) (k : Nat) (f : PortStream → PortStream) : pstream (updPstream s k f) k = f (pstream s k) := by
  rw [pstream_updPstream, if_pos rfl]

/-- `pstream` reads one part only. -/
theorem pstream_congr {s t : State} (h : t.pstreams = s.pstreams) (k : Nat) : pstream t k = pstream s k := by unfold pstream; rw [h]

/-- What `stream` reads after `updStream`. -/
theorem stream_updStream (s : State) (k j : Nat) (f : Stream → Stream) :
    stream (updStream s k f) j = if j = k then f (stream s k) else stream s j := by
  unfold stream updStream mupd; dsimp only; rw [mget_mset]

@[simp] theorem stream_updStream_self (s : State) (k : Nat) (f : Stream → Stream) : stream (updStream s k f) k = f (stream s k) := by
  rw [stream_updStream, if_pos rfl]

/-- `stream` reads one part only. -/
theorem stream_congr {s t : State} (h : t.streams = s.streams) (k : Nat) : stream t k = stream s k := by unfold stream; rw [h]

/-- What `engine` reads after `updEngine`. -/
theorem engine_updEngine (s : State) (k j : Nat) (f : BEngine → BEngine) :
    engine (updEngine s k f) j = if j = k then f (engine s k) else engine s j := by
  unfold engine updEngine mupd; dsimp only; rw [mget_mset]

@[simp] theorem engine_updEngine_self (s : State) (k : Nat) (f : BEngine → BEngine) : engine (updEngine s k f) k = f (engine s k) := by
  rw [engine_updEngine, if_pos rfl]

/-- `engine` reads one part only. -/
theorem engine_congr {s t : State} (h : t.engines = s.engines) (k : Nat) : engine t k = engine s k := by unfold engine; rw [h]

/-- What `enc` reads after `updEnc`. -/
theorem enc_updEnc (s : State) (k j : Nat) (f : Encoder → Encoder) :
    enc (updEnc s k f) j = if j = k then f (enc s k) else enc s j := by
  unfold enc updEnc mupd; dsimp only; rw [mget_mset]

@[simp] theorem enc_updEnc_self (s : State) (k : Nat) (f : Encoder → Encoder) : enc (updEnc s k f) k = f (enc s k) := by
  rw [enc_updEnc, if_pos rfl]

/-- `enc` reads one part only. -/
theorem enc_congr {s t : State} (h : t.encs = s.encs) (k : Nat) : enc t k = enc s k := by unfold enc; rw [h]

/-- What `trig` reads after `updTrig`. -/
theorem trig_updTrig (s : State) (k j : Nat) (f : Trig → Trig) :
    trig (updTrig s k f) j = if j = k then f (trig s k) else trig s j := by
  unfold trig updTrig mupd; dsimp only; rw [mget_mset]

@[simp] theorem trig_updTrig_self (s : State) (k : Nat) (f : Trig → Trig) : trig (updTrig s k f) k = f (trig s k) := by
  rw [trig_updTrig, if_pos rfl]

/-- `trig` reads one part only. -/
theorem trig_congr {s t : State} (h : t.trigs = s.trigs) (k : Nat) : trig t k = trig s k := by unfold trig; rw [h]

/-- What `link` reads after `updLink`. -/
theorem link_updLink (s : State) (k j : Nat) (f : Link → Link) :
    link (updLink s k f) j = if j = k then f (link s k) else link s j := by
  unfold link updLink mupd; dsimp only; rw [mget_mset]

@[simp] theorem link_updLink_self (s : State) (k : Nat) (f : Link → Link) : link (updLink s k f) k = f (link s k) := by
  rw [link_updLink, if_pos rfl]

/-- `link` reads one part only. -/
theorem link_congr {s t : State} (h : t.links = s.links) (k : Nat) : link t k = link s k := by unfold link; rw [h]

/-- What `coreNo` reads after `updCore`. -/
theorem coreNo_updCore (s : State) (k j : Nat) (f : Core → Core) :
    coreNo (updCore s k f) j = if j = k then f (coreNo s k) else coreNo s j := by
  unfold coreNo updCore mupd; dsimp only; rw [mget_mset]

@[simp] theorem coreNo_updCore_self (s : State) (k : Nat) (f : Core → Core) : coreNo (updCore s k f) k = f (coreNo s k) := by
  rw [coreNo_updCore, if_pos rfl]

/-- `coreNo` reads one part only. -/
theorem coreNo_congr {s t : State} (h : t.cores = s.cores) (k : Nat) : coreNo t k = coreNo s k := by unfold coreNo; rw [h]

/-- What `ring` reads after `updRing`. -/
theorem ring_updRing (s : State) (k j : Nat) (f : Ring → Ring) :
    ring (updRing s k f) j = if j = k then f (ring s k) else ring s j := by
  unfold ring updRing mupd; dsimp only; rw [mget_mset]

@[simp] theorem ring_updRing_self (s : State) (k : Nat) (f : Ring → Ring) : ring (updRing s k f) k = f (ring s k) := by
  rw [ring_updRing, if_pos rfl]

/-- `ring` reads one part only. -/
theorem ring_congr {s t : State} (h : t.rings = s.rings) (k : Nat) : ring t k = ring s k := by unfold ring; rw [h]

/-- What `plan` reads after `updPlan`. -/
theorem plan_updPlan (s : State) (k j : Nat) (f : Plan → Plan) :
    plan (updPlan s k f) j = if j = k then f (plan s k) else plan s j := by
  unfold plan updPlan mupd; dsimp only; rw [mget_mset]

@[simp] theorem plan_updPlan_self (s : State) (k : Nat) (f : Plan → Plan) : plan (updPlan s k f) k = f (plan s k) := by
  rw [plan_updPlan, if_pos rfl]

/-- `plan` reads one part only. -/
theorem plan_congr {s t : State} (h : t.plans = s.plans) (k : Nat) : plan t k = plan s k := by unfold plan; rw [h]

/-- What `obj` reads after `updObj`. -/
theorem obj_updObj (s : State) (k j : Nat) (f : SyncObj → SyncObj) :
    obj (updObj s k f) j = if j = k then f (obj s k) else obj s j := by
  unfold obj updObj mupd; dsimp only; rw [mget_mset]

@[simp] theorem obj_updObj_self (s : State) (k : Nat) (f : SyncObj → SyncObj) : obj (updObj s k f) k = f (obj s k) := by
  rw [obj_updObj, if_pos rfl]

/-- `obj` reads one part only. -/
theorem obj_congr {s t : State} (h : t.objs = s.objs) (k : Nat) : obj t k = obj s k := by unfold obj; rw [h]

/-- What `queue` reads after `updQueue`. -/
theorem queue_updQueue (s : State) (k j : Nat) (f : Queue → Queue) :
    queue (updQueue s k f) j = if j = k then f (queue s k) else queue s j := by
  unfold queue updQueue mupd; dsimp only; rw [mget_mset]

@[simp] theorem queue_updQueue_self (s : State) (k : Nat) (f : Queue → Queue) : queue (updQueue s k f) k = f (queue s k) := by
  rw [queue_updQueue, if_pos rfl]

/-- `queue` reads one part only. -/
theorem queue_congr {s t : State} (h : t.queues = s.queues) (k : Nat) : queue t k = queue s k := by unfold queue; rw [h]

/-- What `channel` reads after `updChannel`. -/
theorem channel_updChannel (s : State) (k j : Nat) (f : Channel → Channel) :
    channel (updChannel s k f) j = if j = k then f (channel s k) else channel s j := by
  unfold channel updChannel mupd; dsimp only; rw [mget_mset]

@[simp] theorem channel_updChannel_self (s : State) (k : Nat) (f : Channel → Channel) : channel (updChannel s k f) k = f (channel s k) := by
  rw [channel_updChannel, if_pos rfl]

/-- `channel` reads one part only. -/
theorem channel_congr {s t : State} (h : t.chans = s.chans) (k : Nat) : channel t k = channel s k := by unfold channel; rw [h]

/-- A register field after a write of that field: the value cut to the field's width. -/
@[simp] theorem getF_setF_self (s : State) (f : Fld) (ch i v : Nat) : getF (setF s f ch i v) f ch i = v % 2 ^ f.w := by
  unfold getF setF; dsimp only; rw [mget_mset_self]

/-- Any other field after it. -/
theorem getF_setF_other (s : State) (f g : Fld) (ch i v ch' i' : Nat) (h : fldKey g ch' i' ≠ fldKey f ch i) :
    getF (setF s f ch i v) g ch' i' = getF s g ch' i' := by
  unfold getF setF; dsimp only; rw [mget_mset_other _ _ _ _ h]

theorem getF_congr {s t : State} (h : t.regs = s.regs) (f : Fld) (ch i : Nat) : getF t f ch i = getF s f ch i := by
  unfold getF; rw [h]

/-- A counter after an addition: it saturates at the field's largest value. -/
theorem getF_addF_self (s : State) (f : Fld) (ch i n : Nat) :
    getF (addF s f ch i n) f ch i = min (2 ^ f.w - 1) (getF s f ch i + n) := by
  unfold addF; rw [getF_setF_self]
  exact Nat.mod_eq_of_lt (by have := Nat.two_pow_pos f.w; omega)

theorem getF_addF_other (s : State) (f g : Fld) (ch i n ch' i' : Nat) (h : fldKey g ch' i' ≠ fldKey f ch i) :
    getF (addF s f ch i n) g ch' i' = getF s g ch' i' := getF_setF_other _ _ _ _ _ _ _ _ h

/-- The state of an event source after it is set. -/
theorem source_setSource (s : State) (k j : Nat) (v : SrcState) : source (setSource s k v) j = if j = k then v else source s j := by
  unfold source setSource; dsimp only; rw [mget_mset]

theorem sctx_updSctx_self (s : State) (e c : Nat) (f : SCtx → SCtx) : sctx (updSctx s e c f) e c = f (sctx s e c) := by
  unfold sctx updSctx; dsimp only; rw [mget_mupd_self]

theorem ctxOf_updCtx_self (s : State) (t c : Nat) (f : Ctx → Ctx) : ctxOf (updCtx s t c f) t c = f (ctxOf s t c) := by
  unfold ctxOf updCtx; rw [tile_updTile_self]; dsimp only; rw [mget_mupd_self]

theorem handleOf_updHandle_self (s : State) (t e : Nat) (f : Handle → Handle) :
    handleOf (updHandle s t e f) t e = f (handleOf s t e) := by
  unfold handleOf updHandle; rw [tile_updTile_self]; dsimp only; rw [mget_mupd_self]

end Sys2Proof.Machine
end

