-- ==== Sys2Proof/Laws/AccessFrames.lean ====
section
/-! SUPPORT. What a write of a BAR0 register does, case by case: refused, unanswered, a plain field, a field whose write is a command. -/

namespace Sys2Proof.Machine

theorem after_of_next (o : State → Out) (s t : State) (h : o s = .next t) : after o s = t := by
  unfold after
  rw [h]

/-- A write that covers no field whose write is a command stores the fields it covers. -/
theorem writeBits_plain (s : State) (q off lo n v : Nat)
    (h : ((fieldsAt off).find? fun p => p.1.own && lo ≤ p.1.lo && p.1.lo + p.1.w ≤ lo + n) = none) :
    writeBits s q off lo n v = commitBits s q off lo n v := by
  unfold writeBits
  rw [h]

/-- A write that covers such a field performs the commands of its register, where the register is there for this requester. -/
theorem writeBits_command (s : State) (q off lo n v ch : Nat) (p : Fld × Nat)
    (h : ((fieldsAt off).find? fun p => p.1.own && lo ≤ p.1.lo && p.1.lo + p.1.w ≤ lo + n) = some p) (hc : chanIx s q p.1 = some ch) :
    writeBits s q off lo n v = regCommand s (commitBits s q off lo n v) p.1 p.2 ch v := by
  unfold writeBits
  simp only [h, hc]

/-- A write that raises no `CFG_LOCKED` leaves what it stores (R344). -/
theorem oneLocked_none (s t : State) (q off : Nat) (h : fld t Reg.HL_CNT_CFG_LOCKED ≤ fld s Reg.HL_CNT_CFG_LOCKED) :
    oneLocked s q off t = t := by
  unfold oneLocked
  simp only [h, if_true]

theorem regWrite_refused (s : State) (q off size v : Nat) (h : okAccess off size = false) : regWrite s q off size v = badAccess s := by
  unfold regWrite regStore
  simp only [h, Bool.not_false, if_true]
  apply oneLocked_none
  unfold badAccess fld cnt
  refine Nat.le_of_eq ?_
  rw [getF_setF_other _ _ _ _ _ _ _ _ (by decide), getF_addF_other _ _ _ _ _ _ _ _ (by decide)]

theorem regWrite_unanswered (s : State) (q off size v : Nat) (h : okAccess off size = true) (ha : answers s off = false) :
    regWrite s q off size v = s := by
  unfold regWrite regStore
  simp only [h, ha, Bool.not_true, Bool.not_false, if_true, if_false, Bool.false_eq_true]
  exact oneLocked_none _ _ _ _ (Nat.le_refl _)

end Sys2Proof.Machine
end

