-- ==== Sys2Proof/Laws/Blocks.lean ====
section
/-! SUPPORT. The metadata of a DRAM block (R324): a block's stored CRC is the right one exactly when its syndrome is 0, and the flag
stands in its own bit. -/

namespace Sys2Proof.Machine

theorem blockWord_crc (s : State) (b : Nat) :
    (blockWord s b).setWidth 32 = blockCrc b (rdBytes 0 s.mem (64 * b) 64) (blockMeta s b).poison ↔
      (blockMeta s b).syndrome = 0 := by
  have low : (blockWord s b).setWidth 32 =
      blockCrc b (rdBytes 0 s.mem (64 * b) 64) (blockMeta s b).poison ^^^ (blockMeta s b).syndrome := by
    unfold blockWord
    cases h : (blockMeta s b).poison <;>
      (apply BitVec.eq_of_getLsbD_eq; intro i hi; simp [b2n, h, hi]; try omega)
  rw [low]
  constructor
  · intro h
    have := congrArg (blockCrc b (rdBytes 0 s.mem (64 * b) 64) (blockMeta s b).poison ^^^ ·) h
    simpa [← BitVec.xor_assoc] using this
  · intro h; simp [h]

theorem blockWord_flag (s : State) (b : Nat) : (blockWord s b).getLsbD 32 = (blockMeta s b).poison := by
  unfold blockWord
  cases h : (blockMeta s b).poison <;> simp [b2n, h]

end Sys2Proof.Machine
end

