-- ==== Sys2Proof/Laws/Frame.lean ====
section
/-! SUPPORT. What an operation can do to the state, said once for each: which parts it may change, that it keeps the canonical
form of the memories, and that the counter of free values never runs back. A set of parts is a number, one bit for each. -/

namespace Sys2Proof.Machine

/-- Every part in `a` is in `b`. -/
def sub (a b : Nat) : Bool := a &&& b == a

/-- `t` differs from `s` at most in the parts of `m`; canonical memories stay canonical; no free value comes twice. -/
structure Frame (m : Nat) (s t : State) : Prop where
  keeps : ∀ p : Part, m.testBit p.ctorIdx = false → p.same s t
  ok : MemOk s → MemOk t
  free : s.free ≤ t.free

theorem Part.same_refl (p : Part) (s : State) : p.same s s := by cases p <;> exact rfl

theorem Part.same_trans {p : Part} {s x t : State} (h : p.same s x) (h' : p.same x t) : p.same s t := by
  cases p <;> exact Eq.trans h' h

theorem sub_of {a b : Nat} (h : sub a b = true) : sub a b = true := h

theorem mwf_nil {p : Prop} : p → mwf (0 : Byte) [] = true := fun _ => rfl

theorem mwf_wrBytes_imp {m : SMap Byte} {a : Nat} {bs : List Byte} : mwf 0 m = true → mwf 0 (wrBytes 0 m a bs) = true := mwf_wrBytes bs a

theorem mwf_wrParts_imp {m : SMap Byte} {ps : List (Nat × List Byte)} : mwf 0 m = true → mwf 0 (wrParts 0 m ps) = true := mwf_wrParts ps

theorem mwf_filter_imp {m : SMap Byte} {p : Nat × Byte → Bool} : mwf 0 m = true → mwf 0 (m.filter p) = true := mwf_filter p

theorem mwf_mupd_imp {m : SMap Byte} {k : Nat} {f : Byte → Byte} : mwf 0 m = true → mwf 0 (mupd 0 m k f) = true := mwf_mupd k f

theorem sub_testBit {a b i : Nat} (h : sub a b = true) (hb : b.testBit i = false) : a.testBit i = false := by
  have h : a &&& b = a := by simpa [sub] using h
  rw [← h, Nat.testBit_and, hb, Bool.and_false]

theorem sub_trans {a b c : Nat} (h : sub a b = true) (h' : sub b c = true) : sub a c = true := by
  have h : a &&& b = a := by simpa [sub] using h
  have h' : b &&& c = b := by simpa [sub] using h'
  have : a &&& c = a := by
    conv => lhs; rw [← h]
    rw [Nat.and_assoc, h', h]
  simpa [sub] using this

theorem Frame.refl {m : Nat} (s : State) : Frame m s s := ⟨fun p _ => p.same_refl s, id, Nat.le_refl _⟩

/-- One operation after others. -/
theorem Frame.step {m n : Nat} {s x t : State} (hg : Frame n x t) (hs : sub n m = true) (h : Frame m s x) : Frame m s t :=
  ⟨fun p hp => Part.same_trans (h.keeps p hp) (hg.keeps p (sub_testBit hs hp)), hg.ok ∘ h.ok, Nat.le_trans h.free hg.free⟩

/-- What a frame says of the parts by name. -/
theorem Frame.keepsBut {m : Nat} {s t : State} (h : Frame m s t) (ps : List Part)
    (hp : ∀ p, p ∈ ps ∨ m.testBit p.ctorIdx = false) : KeepsBut ps s t :=
  fun p hn => h.keeps p ((hp p).resolve_left hn)

/-- An update of one part. -/
theorem Frame.part {s t : State} (q : Part) (hk : ∀ p, p ≠ q → p.same s t) (ok : MemOk s → MemOk t)
    (free : s.free ≤ t.free) : Frame (2 ^ q.ctorIdx) s t := by
  refine ⟨fun p hp => hk p ?_, ok, free⟩
  rintro rfl
  simp at hp

theorem Frame.ite {m : Nat} {s a b : State} {c : Prop} {_ : Decidable c} (ha : Frame m s a) (hb : Frame m s b) :
    Frame m s (if c then a else b) := by
  split
  · exact ha
  · exact hb

theorem Frame.snd {α : Type} {m : Nat} {s t : State} {y : α × State} {a : α} (e : y = (a, t)) (h : Frame m s y.2) : Frame m s t := by
  subst e; exact h

theorem Frame.fst {α : Type} {m : Nat} {s t : State} {y : State × α} {a : α} (e : y = (t, a)) (h : Frame m s y.1) : Frame m s t := by
  subst e; exact h

theorem Frame.trd {α β : Type} {m : Nat} {s t : State} {y : α × β × State} {a : α} {b : β} (e : y = (a, b, t))
    (h : Frame m s y.2.2) : Frame m s t := by
  subst e; exact h

theorem Frame.thread {β : Type} {m : Nat} {s x : State} {f : State → β → State} {l : List β}
    (hf : ∀ y e, Frame m s y → Frame m s (f y e)) (h : Frame m s x) : Frame m s (Machine.thread f x l) := by
  unfold Machine.thread
  induction l generalizing x with
  | nil => exact h
  | cons e l ih => exact ih (hf x e h)

theorem Frame.thread_fst {α β : Type} {m : Nat} {s : State} {x : State × α} {f : State × α → β → State × α} {l : List β}
    (hf : ∀ y e, Frame m s y.1 → Frame m s (f y e).1) (h : Frame m s x.1) : Frame m s (Machine.thread f x l).1 := by
  unfold Machine.thread
  induction l generalizing x with
  | nil => exact h
  | cons e l ih => exact ih (hf x e h)

theorem Frame.thread_snd {α β : Type} {m : Nat} {s : State} {x : α × State} {f : α × State → β → α × State} {l : List β}
    (hf : ∀ y e, Frame m s y.2 → Frame m s (f y e).2) (h : Frame m s x.2) : Frame m s (Machine.thread f x l).2 := by
  unfold Machine.thread
  induction l generalizing x with
  | nil => exact h
  | cons e l ih => exact ih (hf x e h)

theorem Frame.thread_trd {α β γ : Type} {m : Nat} {s : State} {x : α × γ × State} {f : α × γ × State → β → α × γ × State}
    {l : List β} (hf : ∀ y e, Frame m s y.2.2 → Frame m s (f y e).2.2) (h : Frame m s x.2.2) :
    Frame m s (Machine.thread f x l).2.2 := by
  unfold Machine.thread
  induction l generalizing x with
  | nil => exact h
  | cons e l ih => exact ih (hf x e h)

theorem Frame.foldl_snd {α β : Type} {m : Nat} {s : State} {x : α × State} {f : α × State → β → α × State} {l : List β}
    (hf : ∀ y e, Frame m s y.2 → Frame m s (f y e).2) (h : Frame m s x.2) : Frame m s (l.foldl f x).2 :=
  Frame.thread_snd hf h

theorem Frame.foldl {β : Type} {m : Nat} {s x : State} {f : State → β → State} {l : List β}
    (hf : ∀ y e, Frame m s y → Frame m s (f y e)) (h : Frame m s x) : Frame m s (l.foldl f x) := Frame.thread hf h

theorem Frame.foldl_fst {α β : Type} {m : Nat} {s : State} {x : State × α} {f : State × α → β → State × α} {l : List β}
    (hf : ∀ y e, Frame m s y.1 → Frame m s (f y e).1) (h : Frame m s x.1) : Frame m s (l.foldl f x).1 :=
  Frame.thread_fst hf h

theorem Frame.foldl_fst_of {α β : Type} {m : Nat} {s t : State} {x : State × α} {a : α} {f : State × α → β → State × α} {l : List β}
    (e : l.foldl f x = (t, a)) (hf : ∀ y e, Frame m s y.1 → Frame m s (f y e).1) (h : Frame m s x.1) : Frame m s t :=
  Frame.fst e (Frame.thread_fst hf h)

/-! ### Updates of one field -/

def put_pending (x : State) (v : List Instr) : State := { x with pending := v }

theorem put_pending_def (x : State) (v : List Instr) : { x with pending := v } = put_pending x v := rfl

theorem put_pending_frame (x : State) (v : List Instr) : Frame 1 x (put_pending x v) :=
  Frame.part .pending (fun p hp => by cases p <;> first | rfl | exact absurd rfl hp) (id) (Nat.le_refl _)

def put_regs (x : State) (v : SMap Nat) : State := { x with regs := v }

theorem put_regs_def (x : State) (v : SMap Nat) : { x with regs := v } = put_regs x v := rfl

theorem put_regs_frame (x : State) (v : SMap Nat) : Frame 2 x (put_regs x v) :=
  Frame.part .regs (fun p hp => by cases p <;> first | rfl | exact absurd rfl hp) (id) (Nat.le_refl _)

def put_shadow (x : State) (v : SMap Nat) : State := { x with shadow := v }

theorem put_shadow_def (x : State) (v : SMap Nat) : { x with shadow := v } = put_shadow x v := rfl

theorem put_shadow_frame (x : State) (v : SMap Nat) : Frame 4 x (put_shadow x v) :=
  Frame.part .shadow (fun p hp => by cases p <;> first | rfl | exact absurd rfl hp) (id) (Nat.le_refl _)

def put_heldLow (x : State) (v : SMap Nat) : State := { x with heldLow := v }

theorem put_heldLow_def (x : State) (v : SMap Nat) : { x with heldLow := v } = put_heldLow x v := rfl

theorem put_heldLow_frame (x : State) (v : SMap Nat) : Frame 8 x (put_heldLow x v) :=
  Frame.part .heldLow (fun p hp => by cases p <;> first | rfl | exact absurd rfl hp) (id) (Nat.le_refl _)

def put_latched (x : State) (v : SMap Nat) : State := { x with latched := v }

theorem put_latched_def (x : State) (v : SMap Nat) : { x with latched := v } = put_latched x v := rfl

theorem put_latched_frame (x : State) (v : SMap Nat) : Frame 16 x (put_latched x v) :=
  Frame.part .latched (fun p hp => by cases p <;> first | rfl | exact absurd rfl hp) (id) (Nat.le_refl _)

def put_readData (x : State) (v : List Byte) : State := { x with readData := v }

theorem put_readData_def (x : State) (v : List Byte) : { x with readData := v } = put_readData x v := rfl

theorem put_readData_frame (x : State) (v : List Byte) : Frame 32 x (put_readData x v) :=
  Frame.part .readData (fun p hp => by cases p <;> first | rfl | exact absurd rfl hp) (id) (Nat.le_refl _)

def put_readError (x : State) (v : Bool) : State := { x with readError := v }

theorem put_readError_def (x : State) (v : Bool) : { x with readError := v } = put_readError x v := rfl

theorem put_readError_frame (x : State) (v : Bool) : Frame 64 x (put_readError x v) :=
  Frame.part .readError (fun p hp => by cases p <;> first | rfl | exact absurd rfl hp) (id) (Nat.le_refl _)

def put_free (x : State) (v : Nat) : State := { x with free := v }

theorem put_free_def (x : State) (v : Nat) : { x with free := v } = put_free x v := rfl

theorem put_free_frame (x : State) (v : Nat) (hv : x.free ≤ v) : Frame 128 x (put_free x v) :=
  Frame.part .free (fun p hp => by cases p <;> first | rfl | exact absurd rfl hp) (id) (hv)

def put_mem (x : State) (v : List Host.Cell) : State := { x with mem := v }

theorem put_mem_def (x : State) (v : List Host.Cell) : { x with mem := v } = put_mem x v := rfl

theorem put_mem_frame (x : State) (v : List Host.Cell) (hv : mwf 0 x.mem = true → mwf 0 v = true) : Frame 256 x (put_mem x v) :=
  Frame.part .mem (fun p hp => by cases p <;> first | rfl | exact absurd rfl hp) (fun h => ⟨hv h.1, h.2.1, h.2.2.1, h.2.2.2.1, h.2.2.2.2⟩) (Nat.le_refl _)

def put_hostMem (x : State) (v : List Host.Cell) : State := { x with hostMem := v }

theorem put_hostMem_def (x : State) (v : List Host.Cell) : { x with hostMem := v } = put_hostMem x v := rfl

theorem put_hostMem_frame (x : State) (v : List Host.Cell) (hv : mwf 0 x.hostMem = true → mwf 0 v = true) : Frame 512 x (put_hostMem x v) :=
  Frame.part .hostMem (fun p hp => by cases p <;> first | rfl | exact absurd rfl hp) (fun h => ⟨h.1, hv h.2.1, h.2.2.1, h.2.2.2.1, h.2.2.2.2⟩) (Nat.le_refl _)

def put_blocks (x : State) (v : SMap BlockMeta) : State := { x with blocks := v }

theorem put_blocks_def (x : State) (v : SMap BlockMeta) : { x with blocks := v } = put_blocks x v := rfl

theorem put_blocks_frame (x : State) (v : SMap BlockMeta) : Frame 1024 x (put_blocks x v) :=
  Frame.part .blocks (fun p hp => by cases p <;> first | rfl | exact absurd rfl hp) (id) (Nat.le_refl _)

def put_spPoison (x : State) (v : SMap Bool) : State := { x with spPoison := v }

theorem put_spPoison_def (x : State) (v : SMap Bool) : { x with spPoison := v } = put_spPoison x v := rfl

theorem put_spPoison_frame (x : State) (v : SMap Bool) : Frame 2048 x (put_spPoison x v) :=
  Frame.part .spPoison (fun p hp => by cases p <;> first | rfl | exact absurd rfl hp) (id) (Nat.le_refl _)

def put_iram (x : State) (v : SMap Byte) : State := { x with iram := v }

theorem put_iram_def (x : State) (v : SMap Byte) : { x with iram := v } = put_iram x v := rfl

theorem put_iram_frame (x : State) (v : SMap Byte) (hv : mwf 0 x.iram = true → mwf 0 v = true) : Frame 4096 x (put_iram x v) :=
  Frame.part .iram (fun p hp => by cases p <;> first | rfl | exact absurd rfl hp) (fun h => ⟨h.1, h.2.1, hv h.2.2.1, h.2.2.2.1, h.2.2.2.2⟩) (Nat.le_refl _)

def put_tcm (x : State) (v : SMap Byte) : State := { x with tcm := v }

theorem put_tcm_def (x : State) (v : SMap Byte) : { x with tcm := v } = put_tcm x v := rfl

theorem put_tcm_frame (x : State) (v : SMap Byte) (hv : mwf 0 x.tcm = true → mwf 0 v = true) : Frame 8192 x (put_tcm x v) :=
  Frame.part .tcm (fun p hp => by cases p <;> first | rfl | exact absurd rfl hp) (fun h => ⟨h.1, h.2.1, h.2.2.1, hv h.2.2.2.1, h.2.2.2.2⟩) (Nat.le_refl _)

def put_bitVars (x : State) (v : SMap Byte) : State := { x with bitVars := v }

theorem put_bitVars_def (x : State) (v : SMap Byte) : { x with bitVars := v } = put_bitVars x v := rfl

theorem put_bitVars_frame (x : State) (v : SMap Byte) (hv : mwf 0 x.bitVars = true → mwf 0 v = true) : Frame 16384 x (put_bitVars x v) :=
  Frame.part .bitVars (fun p hp => by cases p <;> first | rfl | exact absurd rfl hp) (fun h => ⟨h.1, h.2.1, h.2.2.1, h.2.2.2.1, hv h.2.2.2.2⟩) (Nat.le_refl _)

def put_clk (x : State) (v : Clocks) : State := { x with clk := v }

theorem put_clk_def (x : State) (v : Clocks) : { x with clk := v } = put_clk x v := rfl

theorem put_clk_frame (x : State) (v : Clocks) : Frame 32768 x (put_clk x v) :=
  Frame.part .clk (fun p hp => by cases p <;> first | rfl | exact absurd rfl hp) (id) (Nat.le_refl _)

def put_pins (x : State) (v : Pins) : State := { x with pins := v }

theorem put_pins_def (x : State) (v : Pins) : { x with pins := v } = put_pins x v := rfl

theorem put_pins_frame (x : State) (v : Pins) : Frame 65536 x (put_pins x v) :=
  Frame.part .pins (fun p hp => by cases p <;> first | rfl | exact absurd rfl hp) (id) (Nat.le_refl _)

def put_boot (x : State) (v : Boot) : State := { x with boot := v }

theorem put_boot_def (x : State) (v : Boot) : { x with boot := v } = put_boot x v := rfl

theorem put_boot_frame (x : State) (v : Boot) : Frame 131072 x (put_boot x v) :=
  Frame.part .boot (fun p hp => by cases p <;> first | rfl | exact absurd rfl hp) (id) (Nat.le_refl _)

def put_sec (x : State) (v : Sec) : State := { x with sec := v }

theorem put_sec_def (x : State) (v : Sec) : { x with sec := v } = put_sec x v := rfl

theorem put_sec_frame (x : State) (v : Sec) : Frame 262144 x (put_sec x v) :=
  Frame.part .sec (fun p hp => by cases p <;> first | rfl | exact absurd rfl hp) (id) (Nat.le_refl _)

def put_hv (x : State) (v : Hv) : State := { x with hv := v }

theorem put_hv_def (x : State) (v : Hv) : { x with hv := v } = put_hv x v := rfl

theorem put_hv_frame (x : State) (v : Hv) : Frame 524288 x (put_hv x v) :=
  Frame.part .hv (fun p hp => by cases p <;> first | rfl | exact absurd rfl hp) (id) (Nat.le_refl _)

def put_fm (x : State) (v : Fm) : State := { x with fm := v }

theorem put_fm_def (x : State) (v : Fm) : { x with fm := v } = put_fm x v := rfl

theorem put_fm_frame (x : State) (v : Fm) : Frame 1048576 x (put_fm x v) :=
  Frame.part .fm (fun p hp => by cases p <;> first | rfl | exact absurd rfl hp) (id) (Nat.le_refl _)

def put_sources (x : State) (v : SMap SrcState) : State := { x with sources := v }

theorem put_sources_def (x : State) (v : SMap SrcState) : { x with sources := v } = put_sources x v := rfl

theorem put_sources_frame (x : State) (v : SMap SrcState) : Frame 2097152 x (put_sources x v) :=
  Frame.part .sources (fun p hp => by cases p <;> first | rfl | exact absurd rfl hp) (id) (Nat.le_refl _)

def put_latches (x : State) (v : BitVec 16) : State := { x with latches := v }

theorem put_latches_def (x : State) (v : BitVec 16) : { x with latches := v } = put_latches x v := rfl

theorem put_latches_frame (x : State) (v : BitVec 16) : Frame 4194304 x (put_latches x v) :=
  Frame.part .latches (fun p hp => by cases p <;> first | rfl | exact absurd rfl hp) (id) (Nat.le_refl _)

def put_cores (x : State) (v : SMap Core) : State := { x with cores := v }

theorem put_cores_def (x : State) (v : SMap Core) : { x with cores := v } = put_cores x v := rfl

theorem put_cores_frame (x : State) (v : SMap Core) : Frame 8388608 x (put_cores x v) :=
  Frame.part .cores (fun p hp => by cases p <;> first | rfl | exact absurd rfl hp) (id) (Nat.le_refl _)

def put_hl (x : State) (v : HostLink) : State := { x with hl := v }

theorem put_hl_def (x : State) (v : HostLink) : { x with hl := v } = put_hl x v := rfl

theorem put_hl_frame (x : State) (v : HostLink) : Frame 16777216 x (put_hl x v) :=
  Frame.part .hl (fun p hp => by cases p <;> first | rfl | exact absurd rfl hp) (id) (Nat.le_refl _)

def put_rings (x : State) (v : SMap Ring) : State := { x with rings := v }

theorem put_rings_def (x : State) (v : SMap Ring) : { x with rings := v } = put_rings x v := rfl

theorem put_rings_frame (x : State) (v : SMap Ring) : Frame 33554432 x (put_rings x v) :=
  Frame.part .rings (fun p hp => by cases p <;> first | rfl | exact absurd rfl hp) (id) (Nat.le_refl _)

def put_bursts (x : State) (v : List Burst) : State := { x with bursts := v }

theorem put_bursts_def (x : State) (v : List Burst) : { x with bursts := v } = put_bursts x v := rfl

theorem put_bursts_frame (x : State) (v : List Burst) : Frame 67108864 x (put_bursts x v) :=
  Frame.part .bursts (fun p hp => by cases p <;> first | rfl | exact absurd rfl hp) (id) (Nat.le_refl _)

def put_descs (x : State) (v : List Desc) : State := { x with descs := v }

theorem put_descs_def (x : State) (v : List Desc) : { x with descs := v } = put_descs x v := rfl

theorem put_descs_frame (x : State) (v : List Desc) : Frame 134217728 x (put_descs x v) :=
  Frame.part .descs (fun p hp => by cases p <;> first | rfl | exact absurd rfl hp) (id) (Nat.le_refl _)

def put_stage (x : State) (v : List StageRec) : State := { x with stage := v }

theorem put_stage_def (x : State) (v : List StageRec) : { x with stage := v } = put_stage x v := rfl

theorem put_stage_frame (x : State) (v : List StageRec) : Frame 268435456 x (put_stage x v) :=
  Frame.part .stage (fun p hp => by cases p <;> first | rfl | exact absurd rfl hp) (id) (Nat.le_refl _)

def put_fetchPtr (x : State) (v : SMap Nat) : State := { x with fetchPtr := v }

theorem put_fetchPtr_def (x : State) (v : SMap Nat) : { x with fetchPtr := v } = put_fetchPtr x v := rfl

theorem put_fetchPtr_frame (x : State) (v : SMap Nat) : Frame 536870912 x (put_fetchPtr x v) :=
  Frame.part .fetchPtr (fun p hp => by cases p <;> first | rfl | exact absurd rfl hp) (id) (Nat.le_refl _)

def put_plans (x : State) (v : SMap Plan) : State := { x with plans := v }

theorem put_plans_def (x : State) (v : SMap Plan) : { x with plans := v } = put_plans x v := rfl

theorem put_plans_frame (x : State) (v : SMap Plan) : Frame 1073741824 x (put_plans x v) :=
  Frame.part .plans (fun p hp => by cases p <;> first | rfl | exact absurd rfl hp) (id) (Nat.le_refl _)

def put_objs (x : State) (v : SMap SyncObj) : State := { x with objs := v }

theorem put_objs_def (x : State) (v : SMap SyncObj) : { x with objs := v } = put_objs x v := rfl

theorem put_objs_frame (x : State) (v : SMap SyncObj) : Frame 2147483648 x (put_objs x v) :=
  Frame.part .objs (fun p hp => by cases p <;> first | rfl | exact absurd rfl hp) (id) (Nat.le_refl _)

def put_queues (x : State) (v : SMap Queue) : State := { x with queues := v }

theorem put_queues_def (x : State) (v : SMap Queue) : { x with queues := v } = put_queues x v := rfl

theorem put_queues_frame (x : State) (v : SMap Queue) : Frame 4294967296 x (put_queues x v) :=
  Frame.part .queues (fun p hp => by cases p <;> first | rfl | exact absurd rfl hp) (id) (Nat.le_refl _)

def put_jobs (x : State) (v : List Job) : State := { x with jobs := v }

theorem put_jobs_def (x : State) (v : List Job) : { x with jobs := v } = put_jobs x v := rfl

theorem put_jobs_frame (x : State) (v : List Job) : Frame 8589934592 x (put_jobs x v) :=
  Frame.part .jobs (fun p hp => by cases p <;> first | rfl | exact absurd rfl hp) (id) (Nat.le_refl _)

def put_ports (x : State) (v : SMap Port) : State := { x with ports := v }

theorem put_ports_def (x : State) (v : SMap Port) : { x with ports := v } = put_ports x v := rfl

theorem put_ports_frame (x : State) (v : SMap Port) : Frame 17179869184 x (put_ports x v) :=
  Frame.part .ports (fun p hp => by cases p <;> first | rfl | exact absurd rfl hp) (id) (Nat.le_refl _)

def put_pstreams (x : State) (v : SMap PortStream) : State := { x with pstreams := v }

theorem put_pstreams_def (x : State) (v : SMap PortStream) : { x with pstreams := v } = put_pstreams x v := rfl

theorem put_pstreams_frame (x : State) (v : SMap PortStream) : Frame 34359738368 x (put_pstreams x v) :=
  Frame.part .pstreams (fun p hp => by cases p <;> first | rfl | exact absurd rfl hp) (id) (Nat.le_refl _)

def put_streams (x : State) (v : SMap Stream) : State := { x with streams := v }

theorem put_streams_def (x : State) (v : SMap Stream) : { x with streams := v } = put_streams x v := rfl

theorem put_streams_frame (x : State) (v : SMap Stream) : Frame 68719476736 x (put_streams x v) :=
  Frame.part .streams (fun p hp => by cases p <;> first | rfl | exact absurd rfl hp) (id) (Nat.le_refl _)

def put_stripes (x : State) (v : List Stripe) : State := { x with stripes := v }

theorem put_stripes_def (x : State) (v : List Stripe) : { x with stripes := v } = put_stripes x v := rfl

theorem put_stripes_frame (x : State) (v : List Stripe) : Frame 137438953472 x (put_stripes x v) :=
  Frame.part .stripes (fun p hp => by cases p <;> first | rfl | exact absurd rfl hp) (id) (Nat.le_refl _)

def put_engines (x : State) (v : SMap BEngine) : State := { x with engines := v }

theorem put_engines_def (x : State) (v : SMap BEngine) : { x with engines := v } = put_engines x v := rfl

theorem put_engines_frame (x : State) (v : SMap BEngine) : Frame 274877906944 x (put_engines x v) :=
  Frame.part .engines (fun p hp => by cases p <;> first | rfl | exact absurd rfl hp) (id) (Nat.le_refl _)

def put_encs (x : State) (v : SMap Encoder) : State := { x with encs := v }

theorem put_encs_def (x : State) (v : SMap Encoder) : { x with encs := v } = put_encs x v := rfl

theorem put_encs_frame (x : State) (v : SMap Encoder) : Frame 549755813888 x (put_encs x v) :=
  Frame.part .encs (fun p hp => by cases p <;> first | rfl | exact absurd rfl hp) (id) (Nat.le_refl _)

def put_trigs (x : State) (v : SMap Trig) : State := { x with trigs := v }

theorem put_trigs_def (x : State) (v : SMap Trig) : { x with trigs := v } = put_trigs x v := rfl

theorem put_trigs_frame (x : State) (v : SMap Trig) : Frame 1099511627776 x (put_trigs x v) :=
  Frame.part .trigs (fun p hp => by cases p <;> first | rfl | exact absurd rfl hp) (id) (Nat.le_refl _)

def put_links (x : State) (v : SMap Link) : State := { x with links := v }

theorem put_links_def (x : State) (v : SMap Link) : { x with links := v } = put_links x v := rfl

theorem put_links_frame (x : State) (v : SMap Link) : Frame 2199023255552 x (put_links x v) :=
  Frame.part .links (fun p hp => by cases p <;> first | rfl | exact absurd rfl hp) (id) (Nat.le_refl _)

def put_giLevel (x : State) (v : BitVec 16) : State := { x with giLevel := v }

theorem put_giLevel_def (x : State) (v : BitVec 16) : { x with giLevel := v } = put_giLevel x v := rfl

theorem put_giLevel_frame (x : State) (v : BitVec 16) : Frame 4398046511104 x (put_giLevel x v) :=
  Frame.part .giLevel (fun p hp => by cases p <;> first | rfl | exact absurd rfl hp) (id) (Nat.le_refl _)

def put_giFrom (x : State) (v : SMap Nat) : State := { x with giFrom := v }

theorem put_giFrom_def (x : State) (v : SMap Nat) : { x with giFrom := v } = put_giFrom x v := rfl

theorem put_giFrom_frame (x : State) (v : SMap Nat) : Frame 8796093022208 x (put_giFrom x v) :=
  Frame.part .giFrom (fun p hp => by cases p <;> first | rfl | exact absurd rfl hp) (id) (Nat.le_refl _)

def put_tiles (x : State) (v : SMap Tile) : State := { x with tiles := v }

theorem put_tiles_def (x : State) (v : SMap Tile) : { x with tiles := v } = put_tiles x v := rfl

theorem put_tiles_frame (x : State) (v : SMap Tile) : Frame 17592186044416 x (put_tiles x v) :=
  Frame.part .tiles (fun p hp => by cases p <;> first | rfl | exact absurd rfl hp) (id) (Nat.le_refl _)

def put_grid (x : State) (v : Grid) : State := { x with grid := v }

theorem put_grid_def (x : State) (v : Grid) : { x with grid := v } = put_grid x v := rfl

theorem put_grid_frame (x : State) (v : Grid) : Frame 35184372088832 x (put_grid x v) :=
  Frame.part .grid (fun p hp => by cases p <;> first | rfl | exact absurd rfl hp) (id) (Nat.le_refl _)

def put_sctx (x : State) (v : SMap SCtx) : State := { x with sctx := v }

theorem put_sctx_def (x : State) (v : SMap SCtx) : { x with sctx := v } = put_sctx x v := rfl

theorem put_sctx_frame (x : State) (v : SMap SCtx) : Frame 70368744177664 x (put_sctx x v) :=
  Frame.part .sctx (fun p hp => by cases p <;> first | rfl | exact absurd rfl hp) (id) (Nat.le_refl _)

def put_bwTokens (x : State) (v : SMap Nat) : State := { x with bwTokens := v }

theorem put_bwTokens_def (x : State) (v : SMap Nat) : { x with bwTokens := v } = put_bwTokens x v := rfl

theorem put_bwTokens_frame (x : State) (v : SMap Nat) : Frame 140737488355328 x (put_bwTokens x v) :=
  Frame.part .bwTokens (fun p hp => by cases p <;> first | rfl | exact absurd rfl hp) (id) (Nat.le_refl _)

def put_chans (x : State) (v : SMap Channel) : State := { x with chans := v }

theorem put_chans_def (x : State) (v : SMap Channel) : { x with chans := v } = put_chans x v := rfl

theorem put_chans_frame (x : State) (v : SMap Channel) : Frame 281474976710656 x (put_chans x v) :=
  Frame.part .chans (fun p hp => by cases p <;> first | rfl | exact absurd rfl hp) (id) (Nat.le_refl _)

def put_dram (x : State) (v : Dram) : State := { x with dram := v }

theorem put_dram_def (x : State) (v : Dram) : { x with dram := v } = put_dram x v := rfl

theorem put_dram_frame (x : State) (v : Dram) : Frame 562949953421312 x (put_dram x v) :=
  Frame.part .dram (fun p hp => by cases p <;> first | rfl | exact absurd rfl hp) (id) (Nat.le_refl _)

def put_pm (x : State) (v : Pm) : State := { x with pm := v }

theorem put_pm_def (x : State) (v : Pm) : { x with pm := v } = put_pm x v := rfl

theorem put_pm_frame (x : State) (v : Pm) : Frame 1125899906842624 x (put_pm x v) :=
  Frame.part .pm (fun p hp => by cases p <;> first | rfl | exact absurd rfl hp) (id) (Nat.le_refl _)

def put_drifts (x : State) (v : List Drift) : State := { x with drifts := v }

theorem put_drifts_def (x : State) (v : List Drift) : { x with drifts := v } = put_drifts x v := rfl

theorem put_drifts_frame (x : State) (v : List Drift) : Frame 2251799813685248 x (put_drifts x v) :=
  Frame.part .drifts (fun p hp => by cases p <;> first | rfl | exact absurd rfl hp) (id) (Nat.le_refl _)

end Sys2Proof.Machine
end

