-- ==== Sys2Proof/Laws/OpsFrames.lean ====
section
/-! SUPPORT. What each operation of Machine/Ops.lean can do to the state. -/

namespace Sys2Proof.Machine

set_option Elab.async false

/-! Updates of several fields at once. -/

def put_14_mem_bwTokens (x : State) (v0 : List Host.Cell) (v1 : SMap Bool) (v2 : SMap Byte) (v3 : SMap Byte) (v4 : SMap Byte) (v5 : SMap SrcState) (v6 : SMap Core) (v7 : SMap Plan) (v8 : SMap Queue) (v9 : List Job) (v10 : SMap BEngine) (v11 : SMap Tile) (v12 : SMap SCtx) (v13 : SMap Nat) : State :=
  { x with mem := v0, spPoison := v1, iram := v2, tcm := v3, bitVars := v4, sources := v5, cores := v6, plans := v7, queues := v8, jobs := v9, engines := v10, tiles := v11, sctx := v12, bwTokens := v13 }

theorem put_14_mem_bwTokens_def (x : State) (v0 : List Host.Cell) (v1 : SMap Bool) (v2 : SMap Byte) (v3 : SMap Byte) (v4 : SMap Byte) (v5 : SMap SrcState) (v6 : SMap Core) (v7 : SMap Plan) (v8 : SMap Queue) (v9 : List Job) (v10 : SMap BEngine) (v11 : SMap Tile) (v12 : SMap SCtx) (v13 : SMap Nat) :
    { x with mem := v0, spPoison := v1, iram := v2, tcm := v3, bitVars := v4, sources := v5, cores := v6, plans := v7, queues := v8, jobs := v9, engines := v10, tiles := v11, sctx := v12, bwTokens := v13 } = put_14_mem_bwTokens x v0 v1 v2 v3 v4 v5 v6 v7 v8 v9 v10 v11 v12 v13 := rfl

theorem put_14_mem_bwTokens_frame (x : State) (v0 : List Host.Cell) (v1 : SMap Bool) (v2 : SMap Byte) (v3 : SMap Byte) (v4 : SMap Byte) (v5 : SMap SrcState) (v6 : SMap Core) (v7 : SMap Plan) (v8 : SMap Queue) (v9 : List Job) (v10 : SMap BEngine) (v11 : SMap Tile) (v12 : SMap SCtx) (v13 : SMap Nat) (h0 : mwf 0 x.mem = true → mwf 0 v0 = true) (h2 : mwf 0 x.iram = true → mwf 0 v2 = true) (h3 : mwf 0 x.tcm = true → mwf 0 v3 = true) (h4 : mwf 0 x.bitVars = true → mwf 0 v4 = true) :
    Frame 228987265644800 x (put_14_mem_bwTokens x v0 v1 v2 v3 v4 v5 v6 v7 v8 v9 v10 v11 v12 v13) := by
  have e := Frame.refl (m := 228987265644800) x
  have e := Frame.step (m := 228987265644800) (put_mem_frame x v0 h0) rfl e
  have e := Frame.step (m := 228987265644800) (put_spPoison_frame ({ x with mem := v0 }) v1) rfl e
  have e := Frame.step (m := 228987265644800) (put_iram_frame ({ x with mem := v0, spPoison := v1 }) v2 h2) rfl e
  have e := Frame.step (m := 228987265644800) (put_tcm_frame ({ x with mem := v0, spPoison := v1, iram := v2 }) v3 h3) rfl e
  have e := Frame.step (m := 228987265644800) (put_bitVars_frame ({ x with mem := v0, spPoison := v1, iram := v2, tcm := v3 }) v4 h4) rfl e
  have e := Frame.step (m := 228987265644800) (put_sources_frame ({ x with mem := v0, spPoison := v1, iram := v2, tcm := v3, bitVars := v4 }) v5) rfl e
  have e := Frame.step (m := 228987265644800) (put_cores_frame ({ x with mem := v0, spPoison := v1, iram := v2, tcm := v3, bitVars := v4, sources := v5 }) v6) rfl e
  have e := Frame.step (m := 228987265644800) (put_plans_frame ({ x with mem := v0, spPoison := v1, iram := v2, tcm := v3, bitVars := v4, sources := v5, cores := v6 }) v7) rfl e
  have e := Frame.step (m := 228987265644800) (put_queues_frame ({ x with mem := v0, spPoison := v1, iram := v2, tcm := v3, bitVars := v4, sources := v5, cores := v6, plans := v7 }) v8) rfl e
  have e := Frame.step (m := 228987265644800) (put_jobs_frame ({ x with mem := v0, spPoison := v1, iram := v2, tcm := v3, bitVars := v4, sources := v5, cores := v6, plans := v7, queues := v8 }) v9) rfl e
  have e := Frame.step (m := 228987265644800) (put_engines_frame ({ x with mem := v0, spPoison := v1, iram := v2, tcm := v3, bitVars := v4, sources := v5, cores := v6, plans := v7, queues := v8, jobs := v9 }) v10) rfl e
  have e := Frame.step (m := 228987265644800) (put_tiles_frame ({ x with mem := v0, spPoison := v1, iram := v2, tcm := v3, bitVars := v4, sources := v5, cores := v6, plans := v7, queues := v8, jobs := v9, engines := v10 }) v11) rfl e
  have e := Frame.step (m := 228987265644800) (put_sctx_frame ({ x with mem := v0, spPoison := v1, iram := v2, tcm := v3, bitVars := v4, sources := v5, cores := v6, plans := v7, queues := v8, jobs := v9, engines := v10, tiles := v11 }) v12) rfl e
  have e := Frame.step (m := 228987265644800) (put_bwTokens_frame ({ x with mem := v0, spPoison := v1, iram := v2, tcm := v3, bitVars := v4, sources := v5, cores := v6, plans := v7, queues := v8, jobs := v9, engines := v10, tiles := v11, sctx := v12 }) v13) rfl e
  exact e

def put_readData_readError (x : State) (v0 : List Byte) (v1 : Bool) : State :=
  { x with readData := v0, readError := v1 }

theorem put_readData_readError_def (x : State) (v0 : List Byte) (v1 : Bool) :
    { x with readData := v0, readError := v1 } = put_readData_readError x v0 v1 := rfl

theorem put_readData_readError_frame (x : State) (v0 : List Byte) (v1 : Bool) :
    Frame 96 x (put_readData_readError x v0 v1) := by
  have e := Frame.refl (m := 96) x
  have e := Frame.step (m := 96) (put_readData_frame x v0) rfl e
  have e := Frame.step (m := 96) (put_readError_frame ({ x with readData := v0 }) v1) rfl e
  exact e

def put_regs_rings_dram (x : State) (v0 : SMap Nat) (v1 : SMap Ring) (v2 : Dram) : State :=
  { x with regs := v0, rings := v1, dram := v2 }

theorem put_regs_rings_dram_def (x : State) (v0 : SMap Nat) (v1 : SMap Ring) (v2 : Dram) :
    { x with regs := v0, rings := v1, dram := v2 } = put_regs_rings_dram x v0 v1 v2 := rfl

theorem put_regs_rings_dram_frame (x : State) (v0 : SMap Nat) (v1 : SMap Ring) (v2 : Dram) :
    Frame 562949986975746 x (put_regs_rings_dram x v0 v1 v2) := by
  have e := Frame.refl (m := 562949986975746) x
  have e := Frame.step (m := 562949986975746) (put_regs_frame x v0) rfl e
  have e := Frame.step (m := 562949986975746) (put_rings_frame ({ x with regs := v0 }) v1) rfl e
  have e := Frame.step (m := 562949986975746) (put_dram_frame ({ x with regs := v0, rings := v1 }) v2) rfl e
  exact e

def put_6_regs_sctx (x : State) (v0 : SMap Nat) (v1 : SMap Ring) (v2 : List Burst) (v3 : List Desc) (v4 : List StageRec) (v5 : SMap SCtx) : State :=
  { x with regs := v0, rings := v1, bursts := v2, descs := v3, stage := v4, sctx := v5 }

theorem put_6_regs_sctx_def (x : State) (v0 : SMap Nat) (v1 : SMap Ring) (v2 : List Burst) (v3 : List Desc) (v4 : List StageRec) (v5 : SMap SCtx) :
    { x with regs := v0, rings := v1, bursts := v2, descs := v3, stage := v4, sctx := v5 } = put_6_regs_sctx x v0 v1 v2 v3 v4 v5 := rfl

theorem put_6_regs_sctx_frame (x : State) (v0 : SMap Nat) (v1 : SMap Ring) (v2 : List Burst) (v3 : List Desc) (v4 : List StageRec) (v5 : SMap SCtx) :
    Frame 70369247494146 x (put_6_regs_sctx x v0 v1 v2 v3 v4 v5) := by
  have e := Frame.refl (m := 70369247494146) x
  have e := Frame.step (m := 70369247494146) (put_regs_frame x v0) rfl e
  have e := Frame.step (m := 70369247494146) (put_rings_frame ({ x with regs := v0 }) v1) rfl e
  have e := Frame.step (m := 70369247494146) (put_bursts_frame ({ x with regs := v0, rings := v1 }) v2) rfl e
  have e := Frame.step (m := 70369247494146) (put_descs_frame ({ x with regs := v0, rings := v1, bursts := v2 }) v3) rfl e
  have e := Frame.step (m := 70369247494146) (put_stage_frame ({ x with regs := v0, rings := v1, bursts := v2, descs := v3 }) v4) rfl e
  have e := Frame.step (m := 70369247494146) (put_sctx_frame ({ x with regs := v0, rings := v1, bursts := v2, descs := v3, stage := v4 }) v5) rfl e
  exact e

def put_4_jobs_drifts (x : State) (v0 : List Job) (v1 : SMap PortStream) (v2 : List Stripe) (v3 : List Drift) : State :=
  { x with jobs := v0, pstreams := v1, stripes := v2, drifts := v3 }

theorem put_4_jobs_drifts_def (x : State) (v0 : List Job) (v1 : SMap PortStream) (v2 : List Stripe) (v3 : List Drift) :
    { x with jobs := v0, pstreams := v1, stripes := v2, drifts := v3 } = put_4_jobs_drifts x v0 v1 v2 v3 := rfl

theorem put_4_jobs_drifts_frame (x : State) (v0 : List Job) (v1 : SMap PortStream) (v2 : List Stripe) (v3 : List Drift) :
    Frame 2251980202311680 x (put_4_jobs_drifts x v0 v1 v2 v3) := by
  have e := Frame.refl (m := 2251980202311680) x
  have e := Frame.step (m := 2251980202311680) (put_jobs_frame x v0) rfl e
  have e := Frame.step (m := 2251980202311680) (put_pstreams_frame ({ x with jobs := v0 }) v1) rfl e
  have e := Frame.step (m := 2251980202311680) (put_stripes_frame ({ x with jobs := v0, pstreams := v1 }) v2) rfl e
  have e := Frame.step (m := 2251980202311680) (put_drifts_frame ({ x with jobs := v0, pstreams := v1, stripes := v2 }) v3) rfl e
  exact e

def put_4_objs_tiles (x : State) (v0 : SMap SyncObj) (v1 : SMap Queue) (v2 : List Job) (v3 : SMap Tile) : State :=
  { x with objs := v0, queues := v1, jobs := v2, tiles := v3 }

theorem put_4_objs_tiles_def (x : State) (v0 : SMap SyncObj) (v1 : SMap Queue) (v2 : List Job) (v3 : SMap Tile) :
    { x with objs := v0, queues := v1, jobs := v2, tiles := v3 } = put_4_objs_tiles x v0 v1 v2 v3 := rfl

theorem put_4_objs_tiles_frame (x : State) (v0 : SMap SyncObj) (v1 : SMap Queue) (v2 : List Job) (v3 : SMap Tile) :
    Frame 17607218429952 x (put_4_objs_tiles x v0 v1 v2 v3) := by
  have e := Frame.refl (m := 17607218429952) x
  have e := Frame.step (m := 17607218429952) (put_objs_frame x v0) rfl e
  have e := Frame.step (m := 17607218429952) (put_queues_frame ({ x with objs := v0 }) v1) rfl e
  have e := Frame.step (m := 17607218429952) (put_jobs_frame ({ x with objs := v0, queues := v1 }) v2) rfl e
  have e := Frame.step (m := 17607218429952) (put_tiles_frame ({ x with objs := v0, queues := v1, jobs := v2 }) v3) rfl e
  exact e

def put_mem_blocks (x : State) (v0 : List Host.Cell) (v1 : SMap BlockMeta) : State :=
  { x with mem := v0, blocks := v1 }

theorem put_mem_blocks_def (x : State) (v0 : List Host.Cell) (v1 : SMap BlockMeta) :
    { x with mem := v0, blocks := v1 } = put_mem_blocks x v0 v1 := rfl

theorem put_mem_blocks_frame (x : State) (v0 : List Host.Cell) (v1 : SMap BlockMeta) (h0 : mwf 0 x.mem = true → mwf 0 v0 = true) :
    Frame 1280 x (put_mem_blocks x v0 v1) := by
  have e := Frame.refl (m := 1280) x
  have e := Frame.step (m := 1280) (put_mem_frame x v0 h0) rfl e
  have e := Frame.step (m := 1280) (put_blocks_frame ({ x with mem := v0 }) v1) rfl e
  exact e

def put_mem_spPoison (x : State) (v0 : List Host.Cell) (v1 : SMap Bool) : State :=
  { x with mem := v0, spPoison := v1 }

theorem put_mem_spPoison_def (x : State) (v0 : List Host.Cell) (v1 : SMap Bool) :
    { x with mem := v0, spPoison := v1 } = put_mem_spPoison x v0 v1 := rfl

theorem put_mem_spPoison_frame (x : State) (v0 : List Host.Cell) (v1 : SMap Bool) (h0 : mwf 0 x.mem = true → mwf 0 v0 = true) :
    Frame 2304 x (put_mem_spPoison x v0 v1) := by
  have e := Frame.refl (m := 2304) x
  have e := Frame.step (m := 2304) (put_mem_frame x v0 h0) rfl e
  have e := Frame.step (m := 2304) (put_spPoison_frame ({ x with mem := v0 }) v1) rfl e
  exact e

def put_6_mem_grid (x : State) (v0 : List Host.Cell) (v1 : SMap Bool) (v2 : SMap Byte) (v3 : SMap Byte) (v4 : SMap Tile) (v5 : Grid) : State :=
  { x with mem := v0, spPoison := v1, iram := v2, bitVars := v3, tiles := v4, grid := v5 }

theorem put_6_mem_grid_def (x : State) (v0 : List Host.Cell) (v1 : SMap Bool) (v2 : SMap Byte) (v3 : SMap Byte) (v4 : SMap Tile) (v5 : Grid) :
    { x with mem := v0, spPoison := v1, iram := v2, bitVars := v3, tiles := v4, grid := v5 } = put_6_mem_grid x v0 v1 v2 v3 v4 v5 := rfl

theorem put_6_mem_grid_frame (x : State) (v0 : List Host.Cell) (v1 : SMap Bool) (v2 : SMap Byte) (v3 : SMap Byte) (v4 : SMap Tile) (v5 : Grid) (h0 : mwf 0 x.mem = true → mwf 0 v0 = true) (h2 : mwf 0 x.iram = true → mwf 0 v2 = true) (h3 : mwf 0 x.bitVars = true → mwf 0 v3 = true) :
    Frame 52776558156032 x (put_6_mem_grid x v0 v1 v2 v3 v4 v5) := by
  have e := Frame.refl (m := 52776558156032) x
  have e := Frame.step (m := 52776558156032) (put_mem_frame x v0 h0) rfl e
  have e := Frame.step (m := 52776558156032) (put_spPoison_frame ({ x with mem := v0 }) v1) rfl e
  have e := Frame.step (m := 52776558156032) (put_iram_frame ({ x with mem := v0, spPoison := v1 }) v2 h2) rfl e
  have e := Frame.step (m := 52776558156032) (put_bitVars_frame ({ x with mem := v0, spPoison := v1, iram := v2 }) v3 h3) rfl e
  have e := Frame.step (m := 52776558156032) (put_tiles_frame ({ x with mem := v0, spPoison := v1, iram := v2, bitVars := v3 }) v4) rfl e
  have e := Frame.step (m := 52776558156032) (put_grid_frame ({ x with mem := v0, spPoison := v1, iram := v2, bitVars := v3, tiles := v4 }) v5) rfl e
  exact e


theorem setF_frame (s : State) (f : Fld) (ch i v : Nat) : Frame 2 s (setF s f ch i v) := by
  unfold setF
  try dsimp only
  try simp only [put_regs_def]
  repeat' first
    | with_reducible assumption
    | with_reducible apply Frame.refl
    | ((with_reducible apply sub_of); exact Eq.refl true)
    | (with_reducible apply Frame.step; with_reducible apply put_regs_frame)
    | with_reducible apply Frame.ite
    | split

theorem addF_frame (s : State) (f : Fld) (ch i n : Nat) : Frame 2 s (addF s f ch i n) := by
  unfold addF
  try dsimp only
  repeat' first
    | with_reducible assumption
    | with_reducible apply Frame.refl
    | ((with_reducible apply sub_of); exact Eq.refl true)
    | (with_reducible apply Frame.step; with_reducible apply setF_frame)
    | with_reducible apply Frame.ite
    | split

theorem cnt_frame (s : State) (f : Fld) : Frame 2 s (cnt s f) := by
  unfold cnt
  try dsimp only
  repeat' first
    | with_reducible assumption
    | with_reducible apply Frame.refl
    | ((with_reducible apply sub_of); exact Eq.refl true)
    | (with_reducible apply Frame.step; with_reducible apply addF_frame)
    | with_reducible apply Frame.ite
    | split

theorem maxF_frame (s : State) (f : Fld) (ch i v : Nat) : Frame 2 s (maxF s f ch i v) := by
  unfold maxF
  try dsimp only
  repeat' first
    | with_reducible assumption
    | with_reducible apply Frame.refl
    | ((with_reducible apply sub_of); exact Eq.refl true)
    | (with_reducible apply Frame.step; with_reducible apply setF_frame)
    | with_reducible apply Frame.ite
    | split

theorem drawn_frame (s : State) : Frame 128 s (drawn s) := by
  unfold drawn
  try dsimp only
  try simp only [put_free_def]
  repeat' first
    | with_reducible assumption
    | with_reducible apply Frame.refl
    | ((with_reducible apply sub_of); exact Eq.refl true)
    | with_reducible apply Nat.le_succ
    | (with_reducible apply Frame.step; with_reducible apply put_free_frame)
    | with_reducible apply Frame.ite
    | split

theorem updTile_frame (s : State) (t : Nat) (f : Tile → Tile) : Frame 17592186044416 s (updTile s t f) := by
  unfold updTile
  try dsimp only
  try simp only [put_tiles_def]
  repeat' first
    | with_reducible assumption
    | with_reducible apply Frame.refl
    | ((with_reducible apply sub_of); exact Eq.refl true)
    | (with_reducible apply Frame.step; with_reducible apply put_tiles_frame)
    | with_reducible apply Frame.ite
    | split

theorem updCtx_frame (s : State) (t c : Nat) (f : Ctx → Ctx) : Frame 17592186044416 s (updCtx s t c f) := by
  unfold updCtx
  try dsimp only
  repeat' first
    | with_reducible assumption
    | with_reducible apply Frame.refl
    | ((with_reducible apply sub_of); exact Eq.refl true)
    | (with_reducible apply Frame.step; with_reducible apply updTile_frame)
    | with_reducible apply Frame.ite
    | split

theorem updHandle_frame (s : State) (t e : Nat) (f : Handle → Handle) : Frame 17592186044416 s (updHandle s t e f) := by
  unfold updHandle
  try dsimp only
  repeat' first
    | with_reducible assumption
    | with_reducible apply Frame.refl
    | ((with_reducible apply sub_of); exact Eq.refl true)
    | (with_reducible apply Frame.step; with_reducible apply updTile_frame)
    | with_reducible apply Frame.ite
    | split

theorem updPort_frame (s : State) (p : Nat) (f : Port → Port) : Frame 17179869184 s (updPort s p f) := by
  unfold updPort
  try dsimp only
  try simp only [put_ports_def]
  repeat' first
    | with_reducible assumption
    | with_reducible apply Frame.refl
    | ((with_reducible apply sub_of); exact Eq.refl true)
    | (with_reducible apply Frame.step; with_reducible apply put_ports_frame)
    | with_reducible apply Frame.ite
    | split

theorem updPstream_frame (s : State) (x : Nat) (f : PortStream → PortStream) : Frame 34359738368 s (updPstream s x f) := by
  unfold updPstream
  try dsimp only
  try simp only [put_pstreams_def]
  repeat' first
    | with_reducible assumption
    | with_reducible apply Frame.refl
    | ((with_reducible apply sub_of); exact Eq.refl true)
    | (with_reducible apply Frame.step; with_reducible apply put_pstreams_frame)
    | with_reducible apply Frame.ite
    | split

theorem updStream_frame (s : State) (x : Nat) (f : Stream → Stream) : Frame 68719476736 s (updStream s x f) := by
  unfold updStream
  try dsimp only
  try simp only [put_streams_def]
  repeat' first
    | with_reducible assumption
    | with_reducible apply Frame.refl
    | ((with_reducible apply sub_of); exact Eq.refl true)
    | (with_reducible apply Frame.step; with_reducible apply put_streams_frame)
    | with_reducible apply Frame.ite
    | split

theorem updEngine_frame (s : State) (b : Nat) (f : BEngine → BEngine) : Frame 274877906944 s (updEngine s b f) := by
  unfold updEngine
  try dsimp only
  try simp only [put_engines_def]
  repeat' first
    | with_reducible assumption
    | with_reducible apply Frame.refl
    | ((with_reducible apply sub_of); exact Eq.refl true)
    | (with_reducible apply Frame.step; with_reducible apply put_engines_frame)
    | with_reducible apply Frame.ite
    | split

theorem updEnc_frame (s : State) (e : Nat) (f : Encoder → Encoder) : Frame 549755813888 s (updEnc s e f) := by
  unfold updEnc
  try dsimp only
  try simp only [put_encs_def]
  repeat' first
    | with_reducible assumption
    | with_reducible apply Frame.refl
    | ((with_reducible apply sub_of); exact Eq.refl true)
    | (with_reducible apply Frame.step; with_reducible apply put_encs_frame)
    | with_reducible apply Frame.ite
    | split

theorem updTrig_frame (s : State) (t : Nat) (f : Trig → Trig) : Frame 1099511627776 s (updTrig s t f) := by
  unfold updTrig
  try dsimp only
  try simp only [put_trigs_def]
  repeat' first
    | with_reducible assumption
    | with_reducible apply Frame.refl
    | ((with_reducible apply sub_of); exact Eq.refl true)
    | (with_reducible apply Frame.step; with_reducible apply put_trigs_frame)
    | with_reducible apply Frame.ite
    | split

theorem updLink_frame (s : State) (x : Nat) (f : Link → Link) : Frame 2199023255552 s (updLink s x f) := by
  unfold updLink
  try dsimp only
  try simp only [put_links_def]
  repeat' first
    | with_reducible assumption
    | with_reducible apply Frame.refl
    | ((with_reducible apply sub_of); exact Eq.refl true)
    | (with_reducible apply Frame.step; with_reducible apply put_links_frame)
    | with_reducible apply Frame.ite
    | split

theorem updCore_frame (s : State) (n : Nat) (f : Core → Core) : Frame 8388608 s (updCore s n f) := by
  unfold updCore
  try dsimp only
  try simp only [put_cores_def]
  repeat' first
    | with_reducible assumption
    | with_reducible apply Frame.refl
    | ((with_reducible apply sub_of); exact Eq.refl true)
    | (with_reducible apply Frame.step; with_reducible apply put_cores_frame)
    | with_reducible apply Frame.ite
    | split

theorem setSource_frame (s : State) (n : Nat) (v : SrcState) : Frame 2097152 s (setSource s n v) := by
  unfold setSource
  try dsimp only
  try simp only [put_sources_def]
  repeat' first
    | with_reducible assumption
    | with_reducible apply Frame.refl
    | ((with_reducible apply sub_of); exact Eq.refl true)
    | (with_reducible apply Frame.step; with_reducible apply put_sources_frame)
    | with_reducible apply Frame.ite
    | split

theorem updRing_frame (s : State) (r : Nat) (f : Ring → Ring) : Frame 33554432 s (updRing s r f) := by
  unfold updRing
  try dsimp only
  try simp only [put_rings_def]
  repeat' first
    | with_reducible assumption
    | with_reducible apply Frame.refl
    | ((with_reducible apply sub_of); exact Eq.refl true)
    | (with_reducible apply Frame.step; with_reducible apply put_rings_frame)
    | with_reducible apply Frame.ite
    | split

theorem updPlan_frame (s : State) (p : Nat) (f : Plan → Plan) : Frame 1073741824 s (updPlan s p f) := by
  unfold updPlan
  try dsimp only
  try simp only [put_plans_def]
  repeat' first
    | with_reducible assumption
    | with_reducible apply Frame.refl
    | ((with_reducible apply sub_of); exact Eq.refl true)
    | (with_reducible apply Frame.step; with_reducible apply put_plans_frame)
    | with_reducible apply Frame.ite
    | split

theorem updObj_frame (s : State) (n : Nat) (f : SyncObj → SyncObj) : Frame 2147483648 s (updObj s n f) := by
  unfold updObj
  try dsimp only
  try simp only [put_objs_def]
  repeat' first
    | with_reducible assumption
    | with_reducible apply Frame.refl
    | ((with_reducible apply sub_of); exact Eq.refl true)
    | (with_reducible apply Frame.step; with_reducible apply put_objs_frame)
    | with_reducible apply Frame.ite
    | split

theorem updQueue_frame (s : State) (q : Nat) (f : Queue → Queue) : Frame 4294967296 s (updQueue s q f) := by
  unfold updQueue
  try dsimp only
  try simp only [put_queues_def]
  repeat' first
    | with_reducible assumption
    | with_reducible apply Frame.refl
    | ((with_reducible apply sub_of); exact Eq.refl true)
    | (with_reducible apply Frame.step; with_reducible apply put_queues_frame)
    | with_reducible apply Frame.ite
    | split

theorem updSctx_frame (s : State) (e c : Nat) (f : SCtx → SCtx) : Frame 70368744177664 s (updSctx s e c f) := by
  unfold updSctx
  try dsimp only
  try simp only [put_sctx_def]
  repeat' first
    | with_reducible assumption
    | with_reducible apply Frame.refl
    | ((with_reducible apply sub_of); exact Eq.refl true)
    | (with_reducible apply Frame.step; with_reducible apply put_sctx_frame)
    | with_reducible apply Frame.ite
    | split

theorem updChannel_frame (s : State) (c : Nat) (f : Channel → Channel) : Frame 281474976710656 s (updChannel s c f) := by
  unfold updChannel
  try dsimp only
  try simp only [put_chans_def]
  repeat' first
    | with_reducible assumption
    | with_reducible apply Frame.refl
    | ((with_reducible apply sub_of); exact Eq.refl true)
    | (with_reducible apply Frame.step; with_reducible apply put_chans_frame)
    | with_reducible apply Frame.ite
    | split

theorem updPm_frame (s : State) (f : Pm → Pm) : Frame 1125899906842624 s (updPm s f) := by
  unfold updPm
  try dsimp only
  try simp only [put_pm_def]
  repeat' first
    | with_reducible assumption
    | with_reducible apply Frame.refl
    | ((with_reducible apply sub_of); exact Eq.refl true)
    | (with_reducible apply Frame.step; with_reducible apply put_pm_frame)
    | with_reducible apply Frame.ite
    | split

theorem updWin_frame (s : State) (w : Nat) (f : Win → Win) : Frame 1125899906842624 s (updWin s w f) := by
  unfold updWin
  try dsimp only
  repeat' first
    | with_reducible assumption
    | with_reducible apply Frame.refl
    | ((with_reducible apply sub_of); exact Eq.refl true)
    | (with_reducible apply Frame.step; with_reducible apply updPm_frame)
    | with_reducible apply Frame.ite
    | split

theorem updChan_frame (s : State) (k : Nat) (f : SendCh → SendCh) : Frame 1125899906842624 s (updChan s k f) := by
  unfold updChan
  try dsimp only
  try simp only [put_chans_def]
  repeat' first
    | with_reducible assumption
    | with_reducible apply Frame.refl
    | ((with_reducible apply sub_of); exact Eq.refl true)
    | (with_reducible apply Frame.step; with_reducible apply updPm_frame)
    | (with_reducible apply Frame.step; with_reducible apply put_chans_frame)
    | with_reducible apply Frame.ite
    | split

theorem updFm_frame (s : State) (f : Fm → Fm) : Frame 1048576 s (updFm s f) := by
  unfold updFm
  try dsimp only
  try simp only [put_fm_def]
  repeat' first
    | with_reducible assumption
    | with_reducible apply Frame.refl
    | ((with_reducible apply sub_of); exact Eq.refl true)
    | (with_reducible apply Frame.step; with_reducible apply put_fm_frame)
    | with_reducible apply Frame.ite
    | split

theorem updHl_frame (s : State) (f : HostLink → HostLink) : Frame 16777216 s (updHl s f) := by
  unfold updHl
  try dsimp only
  try simp only [put_hl_def]
  repeat' first
    | with_reducible assumption
    | with_reducible apply Frame.refl
    | ((with_reducible apply sub_of); exact Eq.refl true)
    | (with_reducible apply Frame.step; with_reducible apply put_hl_frame)
    | with_reducible apply Frame.ite
    | split

theorem updSec_frame (s : State) (f : Sec → Sec) : Frame 262144 s (updSec s f) := by
  unfold updSec
  try dsimp only
  try simp only [put_sec_def]
  repeat' first
    | with_reducible assumption
    | with_reducible apply Frame.refl
    | ((with_reducible apply sub_of); exact Eq.refl true)
    | (with_reducible apply Frame.step; with_reducible apply put_sec_frame)
    | with_reducible apply Frame.ite
    | split

theorem updHv_frame (s : State) (f : Hv → Hv) : Frame 524288 s (updHv s f) := by
  unfold updHv
  try dsimp only
  try simp only [put_hv_def]
  repeat' first
    | with_reducible assumption
    | with_reducible apply Frame.refl
    | ((with_reducible apply sub_of); exact Eq.refl true)
    | (with_reducible apply Frame.step; with_reducible apply put_hv_frame)
    | with_reducible apply Frame.ite
    | split

theorem updClk_frame (s : State) (f : Clocks → Clocks) : Frame 32768 s (updClk s f) := by
  unfold updClk
  try dsimp only
  try simp only [put_clk_def]
  repeat' first
    | with_reducible assumption
    | with_reducible apply Frame.refl
    | ((with_reducible apply sub_of); exact Eq.refl true)
    | (with_reducible apply Frame.step; with_reducible apply put_clk_frame)
    | with_reducible apply Frame.ite
    | split

theorem updPins_frame (s : State) (f : Pins → Pins) : Frame 65536 s (updPins s f) := by
  unfold updPins
  try dsimp only
  try simp only [put_pins_def]
  repeat' first
    | with_reducible assumption
    | with_reducible apply Frame.refl
    | ((with_reducible apply sub_of); exact Eq.refl true)
    | (with_reducible apply Frame.step; with_reducible apply put_pins_frame)
    | with_reducible apply Frame.ite
    | split

theorem updBoot_frame (s : State) (f : Boot → Boot) : Frame 131072 s (updBoot s f) := by
  unfold updBoot
  try dsimp only
  try simp only [put_boot_def]
  repeat' first
    | with_reducible assumption
    | with_reducible apply Frame.refl
    | ((with_reducible apply sub_of); exact Eq.refl true)
    | (with_reducible apply Frame.step; with_reducible apply put_boot_frame)
    | with_reducible apply Frame.ite
    | split

theorem updDram_frame (s : State) (f : Dram → Dram) : Frame 562949953421312 s (updDram s f) := by
  unfold updDram
  try dsimp only
  try simp only [put_dram_def]
  repeat' first
    | with_reducible assumption
    | with_reducible apply Frame.refl
    | ((with_reducible apply sub_of); exact Eq.refl true)
    | (with_reducible apply Frame.step; with_reducible apply put_dram_frame)
    | with_reducible apply Frame.ite
    | split

theorem updJob_frame (s : State) (id : JobId) (f : Job → Job) : Frame 8589934592 s (updJob s id f) := by
  unfold updJob
  try dsimp only
  try simp only [put_jobs_def]
  repeat' first
    | with_reducible assumption
    | with_reducible apply Frame.refl
    | ((with_reducible apply sub_of); exact Eq.refl true)
    | (with_reducible apply Frame.step; with_reducible apply put_jobs_frame)
    | with_reducible apply Frame.ite
    | split

theorem evSet_frame (s : State) (n : Nat) : Frame 2097154 s (evSet s n) := by
  unfold evSet
  try dsimp only
  repeat' first
    | with_reducible assumption
    | with_reducible apply Frame.refl
    | ((with_reducible apply sub_of); exact Eq.refl true)
    | (with_reducible apply Frame.step; with_reducible apply setSource_frame)
    | (with_reducible apply Frame.step; with_reducible apply addF_frame)
    | (with_reducible apply Frame.step; with_reducible apply cnt_frame)
    | with_reducible apply Frame.ite
    | split

theorem evClear_frame (s : State) (n : Nat) : Frame 2097152 s (evClear s n) := by
  unfold evClear
  try dsimp only
  repeat' first
    | with_reducible assumption
    | with_reducible apply Frame.refl
    | ((with_reducible apply sub_of); exact Eq.refl true)
    | (with_reducible apply Frame.step; with_reducible apply setSource_frame)
    | with_reducible apply Frame.ite
    | split

theorem pushReport_frame (s : State) (r : Report) (esc : Bool) : Frame 1048576 s (pushReport s r esc) := by
  unfold pushReport
  try dsimp only
  repeat' first
    | with_reducible assumption
    | with_reducible apply Frame.refl
    | ((with_reducible apply sub_of); exact Eq.refl true)
    | (with_reducible apply Frame.step; with_reducible apply updFm_frame)
    | with_reducible apply Frame.ite
    | split

theorem report_frame (s : State) (r : Report) : Frame 1048576 s (report s r) := by
  unfold report
  try dsimp only
  repeat' first
    | with_reducible assumption
    | with_reducible apply Frame.refl
    | ((with_reducible apply sub_of); exact Eq.refl true)
    | (with_reducible apply Frame.step; with_reducible apply pushReport_frame)
    | with_reducible apply Frame.ite
    | split

theorem readBlock_frame (s : State) (b : Nat) (tries : ReadTry) (job : JobId) (scrub : Bool) : Frame 281474979856514 s (readBlock s b tries job scrub).2.2 := by
  unfold readBlock
  try dsimp only
  repeat' first
    | with_reducible assumption
    | with_reducible apply Frame.refl
    | ((with_reducible apply sub_of); exact Eq.refl true)
    | with_reducible apply Nat.le_succ
    | (with_reducible apply Frame.step; with_reducible apply updChannel_frame)
    | (with_reducible apply Frame.step; with_reducible apply report_frame)
    | (with_reducible apply Frame.step; with_reducible apply evSet_frame)
    | (with_reducible apply Frame.step; with_reducible apply drawn_frame)
    | (with_reducible apply Frame.step; with_reducible apply addF_frame)
    | with_reducible apply Frame.ite
    | split

theorem putBlock_frame (s : State) (b : Nat) (bytes : List Byte) (poison : Bool) : Frame 281474976711938 s (putBlock s b bytes poison) := by
  unfold putBlock
  try dsimp only
  try simp only [put_mem_blocks_def]
  repeat' first
    | with_reducible assumption
    | with_reducible apply Frame.refl
    | ((with_reducible apply sub_of); exact Eq.refl true)
    | with_reducible apply mwf_wrBytes_imp
    | with_reducible apply mwf_filter_imp
    | with_reducible apply mwf_nil
    | with_reducible apply mwf_mupd_imp
    | with_reducible apply mwf_wrParts_imp
    | (with_reducible apply Frame.step; with_reducible apply updChannel_frame)
    | (with_reducible apply Frame.step; with_reducible apply addF_frame)
    | (with_reducible apply Frame.step; with_reducible apply put_mem_blocks_frame)
    | with_reducible apply Frame.ite
    | split

theorem writeBlock_frame (s : State) (b off : Nat) (bytes : List Byte) (poison : Bool) (tries : ReadTry) (job : JobId) : Frame 281474979857794 s (writeBlock s b off bytes poison tries job) := by
  unfold writeBlock
  try dsimp only
  repeat' first
    | with_reducible assumption
    | with_reducible apply Frame.refl
    | ((with_reducible apply sub_of); exact Eq.refl true)
    | with_reducible apply Nat.le_succ
    | with_reducible apply mwf_wrBytes_imp
    | with_reducible apply mwf_filter_imp
    | with_reducible apply mwf_nil
    | with_reducible apply mwf_mupd_imp
    | with_reducible apply mwf_wrParts_imp
    | (with_reducible apply Frame.step; with_reducible apply readBlock_frame)
    | (with_reducible apply Frame.step; with_reducible apply Frame.trd; with_reducible assumption; with_reducible apply readBlock_frame)
    | (with_reducible apply Frame.step; with_reducible apply putBlock_frame)
    | (with_reducible apply Frame.step; with_reducible apply addF_frame)
    | with_reducible apply Frame.ite
    | split

theorem spWrite_frame (s : State) (a : Nat) (bs : List (Byte × Bool)) : Frame 2304 s (spWrite s a bs) := by
  unfold spWrite
  try dsimp only
  try simp only [put_mem_spPoison_def]
  repeat' first
    | with_reducible assumption
    | with_reducible apply Frame.refl
    | ((with_reducible apply sub_of); exact Eq.refl true)
    | with_reducible apply mwf_wrBytes_imp
    | with_reducible apply mwf_filter_imp
    | with_reducible apply mwf_nil
    | with_reducible apply mwf_mupd_imp
    | with_reducible apply mwf_wrParts_imp
    | (with_reducible apply Frame.step; with_reducible apply put_mem_spPoison_frame)
    | (with_reducible apply Frame.thread; (intro y e hy))
    | (with_reducible apply Frame.thread_fst; (intro y e hy))
    | (with_reducible apply Frame.thread_snd; (intro y e hy))
    | (with_reducible apply Frame.thread_trd; (intro y e hy))
    | with_reducible apply Frame.ite
    | split

theorem spStore_frame (s : State) (ps : List (Nat × List (Byte × Bool))) : Frame 2304 s (spStore s ps) := by
  unfold spStore
  try dsimp only
  try simp only [put_mem_spPoison_def]
  repeat' first
    | with_reducible assumption
    | with_reducible apply Frame.refl
    | ((with_reducible apply sub_of); exact Eq.refl true)
    | with_reducible apply mwf_wrBytes_imp
    | with_reducible apply mwf_filter_imp
    | with_reducible apply mwf_nil
    | with_reducible apply mwf_mupd_imp
    | with_reducible apply mwf_wrParts_imp
    | (with_reducible apply Frame.step; with_reducible apply put_mem_spPoison_frame)
    | (with_reducible apply Frame.thread; (intro y e hy))
    | (with_reducible apply Frame.thread_fst; (intro y e hy))
    | (with_reducible apply Frame.thread_snd; (intro y e hy))
    | (with_reducible apply Frame.thread_trd; (intro y e hy))
    | with_reducible apply Frame.ite
    | split

theorem post_frame (s : State) (p : Posted) : Frame 16777728 s (post s p) := by
  unfold post
  try dsimp only
  try simp only [put_hostMem_def]
  repeat' first
    | with_reducible assumption
    | with_reducible apply Frame.refl
    | ((with_reducible apply sub_of); exact Eq.refl true)
    | with_reducible apply mwf_wrBytes_imp
    | with_reducible apply mwf_filter_imp
    | with_reducible apply mwf_nil
    | with_reducible apply mwf_mupd_imp
    | with_reducible apply mwf_wrParts_imp
    | (with_reducible apply Frame.step; with_reducible apply updHl_frame)
    | (with_reducible apply Frame.step; with_reducible apply put_hostMem_frame)
    | with_reducible apply Frame.ite
    | split

theorem devRead_frame (s : State) (a n : Nat) (tries : ReadTry) (job : JobId) : Frame 281474979856514 s (devRead s a n tries job).2 := by
  unfold devRead
  try dsimp only
  repeat' first
    | with_reducible assumption
    | with_reducible apply Frame.refl
    | ((with_reducible apply sub_of); exact Eq.refl true)
    | with_reducible apply Nat.le_succ
    | (with_reducible apply Frame.step; with_reducible apply readBlock_frame)
    | (with_reducible apply Frame.step; with_reducible apply Frame.trd; with_reducible assumption; with_reducible apply readBlock_frame)
    | (with_reducible apply Frame.thread; (intro y e hy))
    | (with_reducible apply Frame.thread_fst; (intro y e hy))
    | (with_reducible apply Frame.thread_snd; (intro y e hy))
    | (with_reducible apply Frame.thread_trd; (intro y e hy))
    | with_reducible apply Frame.ite
    | split

theorem devWrite_frame (s : State) (a : Nat) (bs : List (Byte × Bool)) (tries : ReadTry) (job : JobId) : Frame 281474996637570 s (devWrite s a bs tries job) := by
  unfold devWrite
  try dsimp only
  repeat' first
    | with_reducible assumption
    | with_reducible apply Frame.refl
    | ((with_reducible apply sub_of); exact Eq.refl true)
    | with_reducible apply Nat.le_succ
    | with_reducible apply mwf_wrBytes_imp
    | with_reducible apply mwf_filter_imp
    | with_reducible apply mwf_nil
    | with_reducible apply mwf_mupd_imp
    | with_reducible apply mwf_wrParts_imp
    | (with_reducible apply Frame.step; with_reducible apply writeBlock_frame)
    | (with_reducible apply Frame.step; with_reducible apply spWrite_frame)
    | (with_reducible apply Frame.step; with_reducible apply post_frame)
    | (with_reducible apply Frame.thread; (intro y e hy))
    | (with_reducible apply Frame.thread_fst; (intro y e hy))
    | (with_reducible apply Frame.thread_snd; (intro y e hy))
    | (with_reducible apply Frame.thread_trd; (intro y e hy))
    | with_reducible apply Frame.ite
    | split

theorem devPut_frame (s : State) (a : Nat) (bs : List Byte) : Frame 281474996637570 s (devPut s a bs) := by
  unfold devPut
  try dsimp only
  repeat' first
    | with_reducible assumption
    | with_reducible apply Frame.refl
    | ((with_reducible apply sub_of); exact Eq.refl true)
    | with_reducible apply Nat.le_succ
    | with_reducible apply mwf_wrBytes_imp
    | with_reducible apply mwf_filter_imp
    | with_reducible apply mwf_nil
    | with_reducible apply mwf_mupd_imp
    | with_reducible apply mwf_wrParts_imp
    | (with_reducible apply Frame.step; with_reducible apply devWrite_frame)
    | with_reducible apply Frame.ite
    | split

theorem msix_frame (s : State) (v : Nat) : Frame 16777728 s (msix s v) := by
  unfold msix
  try dsimp only
  try simp only [put_pending_def]
  repeat' first
    | with_reducible assumption
    | with_reducible apply Frame.refl
    | ((with_reducible apply sub_of); exact Eq.refl true)
    | with_reducible apply mwf_wrBytes_imp
    | with_reducible apply mwf_filter_imp
    | with_reducible apply mwf_nil
    | with_reducible apply mwf_mupd_imp
    | with_reducible apply mwf_wrParts_imp
    | (with_reducible apply Frame.step; with_reducible apply updHl_frame)
    | (with_reducible apply Frame.step; with_reducible apply post_frame)
    | (with_reducible apply Frame.step; with_reducible apply put_pending_frame)
    | with_reducible apply Frame.ite
    | split

theorem fmNotify_frame (s : State) : Frame 16777728 s (fmNotify s) := by
  unfold fmNotify
  try dsimp only
  repeat' first
    | with_reducible assumption
    | with_reducible apply Frame.refl
    | ((with_reducible apply sub_of); exact Eq.refl true)
    | with_reducible apply mwf_wrBytes_imp
    | with_reducible apply mwf_filter_imp
    | with_reducible apply mwf_nil
    | with_reducible apply mwf_mupd_imp
    | with_reducible apply mwf_wrParts_imp
    | (with_reducible apply Frame.step; with_reducible apply msix_frame)
    | with_reducible apply Frame.ite
    | split

theorem logNotify_frame (s : State) : Frame 17826304 s (logNotify s) := by
  unfold logNotify
  try dsimp only
  repeat' first
    | with_reducible assumption
    | with_reducible apply Frame.refl
    | ((with_reducible apply sub_of); exact Eq.refl true)
    | with_reducible apply mwf_wrBytes_imp
    | with_reducible apply mwf_filter_imp
    | with_reducible apply mwf_nil
    | with_reducible apply mwf_mupd_imp
    | with_reducible apply mwf_wrParts_imp
    | (with_reducible apply Frame.step; with_reducible apply updFm_frame)
    | (with_reducible apply Frame.step; with_reducible apply msix_frame)
    | with_reducible apply Frame.ite
    | split

theorem useRing_frame (s : State) (r : Nat) : Frame 33554434 s (useRing s r) := by
  unfold useRing
  try dsimp only
  repeat' first
    | with_reducible assumption
    | with_reducible apply Frame.refl
    | ((with_reducible apply sub_of); exact Eq.refl true)
    | (with_reducible apply Frame.step; with_reducible apply updRing_frame)
    | (with_reducible apply Frame.step; with_reducible apply cnt_frame)
    | with_reducible apply Frame.ite
    | split

theorem sendRing_frame (s : State) (r : Nat) : Frame 50332162 s (sendRing s r) := by
  unfold sendRing
  try dsimp only
  repeat' first
    | with_reducible assumption
    | with_reducible apply Frame.refl
    | ((with_reducible apply sub_of); exact Eq.refl true)
    | with_reducible apply mwf_wrBytes_imp
    | with_reducible apply mwf_filter_imp
    | with_reducible apply mwf_nil
    | with_reducible apply mwf_mupd_imp
    | with_reducible apply mwf_wrParts_imp
    | (with_reducible apply Frame.step; with_reducible apply updRing_frame)
    | (with_reducible apply Frame.step; with_reducible apply msix_frame)
    | (with_reducible apply Frame.step; with_reducible apply cnt_frame)
    | with_reducible apply Frame.ite
    | split

theorem ringDue_frame (s : State) (r : Nat) : Frame 50332162 s (ringDue s r) := by
  unfold ringDue
  try dsimp only
  repeat' first
    | with_reducible assumption
    | with_reducible apply Frame.refl
    | ((with_reducible apply sub_of); exact Eq.refl true)
    | with_reducible apply mwf_wrBytes_imp
    | with_reducible apply mwf_filter_imp
    | with_reducible apply mwf_nil
    | with_reducible apply mwf_mupd_imp
    | with_reducible apply mwf_wrParts_imp
    | (with_reducible apply Frame.step; with_reducible apply sendRing_frame)
    | with_reducible apply Frame.ite
    | split

theorem ringNotify_frame (s : State) (r n : Nat) : Frame 50332162 s (ringNotify s r n) := by
  unfold ringNotify
  try dsimp only
  repeat' first
    | with_reducible assumption
    | with_reducible apply Frame.refl
    | ((with_reducible apply sub_of); exact Eq.refl true)
    | with_reducible apply mwf_wrBytes_imp
    | with_reducible apply mwf_filter_imp
    | with_reducible apply mwf_nil
    | with_reducible apply mwf_mupd_imp
    | with_reducible apply mwf_wrParts_imp
    | (with_reducible apply Frame.step; with_reducible apply ringDue_frame)
    | (with_reducible apply Frame.step; with_reducible apply updRing_frame)
    | with_reducible apply Frame.ite
    | split

theorem ringWrite_frame (s : State) (r : Nat) (entries : List (List Byte)) : Frame 281475030192002 s (ringWrite s r entries) := by
  unfold ringWrite
  try dsimp only
  repeat' first
    | with_reducible assumption
    | with_reducible apply Frame.refl
    | ((with_reducible apply sub_of); exact Eq.refl true)
    | with_reducible apply Nat.le_succ
    | with_reducible apply mwf_wrBytes_imp
    | with_reducible apply mwf_filter_imp
    | with_reducible apply mwf_nil
    | with_reducible apply mwf_mupd_imp
    | with_reducible apply mwf_wrParts_imp
    | (with_reducible apply Frame.step; with_reducible apply ringNotify_frame)
    | (with_reducible apply Frame.step; with_reducible apply useRing_frame)
    | (with_reducible apply Frame.step; with_reducible apply updRing_frame)
    | (with_reducible apply Frame.step; with_reducible apply devPut_frame)
    | (with_reducible apply Frame.thread; (intro y e hy))
    | (with_reducible apply Frame.thread_fst; (intro y e hy))
    | (with_reducible apply Frame.thread_snd; (intro y e hy))
    | (with_reducible apply Frame.thread_trd; (intro y e hy))
    | with_reducible apply Frame.ite
    | split

theorem ringWait_frame (s : State) (r : Nat) (entries : List (List Byte)) : Frame 33554432 s (ringWait s r entries) := by
  unfold ringWait
  try dsimp only
  repeat' first
    | with_reducible assumption
    | with_reducible apply Frame.refl
    | ((with_reducible apply sub_of); exact Eq.refl true)
    | (with_reducible apply Frame.step; with_reducible apply updRing_frame)
    | with_reducible apply Frame.ite
    | split

theorem deliver_frame (s : State) (r kind format : Nat) (entries : List (List Byte)) : Frame 281475030192002 s (deliver s r kind format entries).1 := by
  unfold deliver
  try dsimp only
  repeat' first
    | with_reducible assumption
    | with_reducible apply Frame.refl
    | ((with_reducible apply sub_of); exact Eq.refl true)
    | with_reducible apply Nat.le_succ
    | with_reducible apply mwf_wrBytes_imp
    | with_reducible apply mwf_filter_imp
    | with_reducible apply mwf_nil
    | with_reducible apply mwf_mupd_imp
    | with_reducible apply mwf_wrParts_imp
    | (with_reducible apply Frame.step; with_reducible apply ringWrite_frame)
    | (with_reducible apply Frame.step; with_reducible apply ringWait_frame)
    | (with_reducible apply Frame.step; with_reducible apply useRing_frame)
    | (with_reducible apply Frame.step; with_reducible apply updRing_frame)
    | (with_reducible apply Frame.step; with_reducible apply addF_frame)
    | (with_reducible apply Frame.step; with_reducible apply cnt_frame)
    | with_reducible apply Frame.ite
    | split

theorem ringPut_frame (s : State) (r : Nat) (held : Bool) (bs : List Byte) : Frame 281475030192002 s (ringPut s r held bs) := by
  unfold ringPut
  try dsimp only
  repeat' first
    | with_reducible assumption
    | with_reducible apply Frame.refl
    | ((with_reducible apply sub_of); exact Eq.refl true)
    | with_reducible apply Nat.le_succ
    | with_reducible apply mwf_wrBytes_imp
    | with_reducible apply mwf_filter_imp
    | with_reducible apply mwf_nil
    | with_reducible apply mwf_mupd_imp
    | with_reducible apply mwf_wrParts_imp
    | (with_reducible apply Frame.step; with_reducible apply ringWrite_frame)
    | (with_reducible apply Frame.step; with_reducible apply ringWait_frame)
    | with_reducible apply Frame.ite
    | split

theorem flushOne_frame (s : State) (r : Nat) : Frame 281475030192002 s (flushOne s r) := by
  unfold flushOne
  try dsimp only
  repeat' first
    | with_reducible assumption
    | with_reducible apply Frame.refl
    | ((with_reducible apply sub_of); exact Eq.refl true)
    | with_reducible apply Nat.le_succ
    | with_reducible apply mwf_wrBytes_imp
    | with_reducible apply mwf_filter_imp
    | with_reducible apply mwf_nil
    | with_reducible apply mwf_mupd_imp
    | with_reducible apply mwf_wrParts_imp
    | (with_reducible apply Frame.step; with_reducible apply ringWrite_frame)
    | (with_reducible apply Frame.step; with_reducible apply updRing_frame)
    | (with_reducible apply Frame.step; with_reducible apply deliver_frame)
    | (with_reducible apply Frame.step; with_reducible apply Frame.fst; with_reducible assumption; with_reducible apply deliver_frame)
    | (with_reducible apply Frame.step; with_reducible apply cnt_frame)
    | with_reducible apply Frame.ite
    | split

theorem flushRing_frame (s : State) (r : Nat) : Frame 281475030192002 s (flushRing s r) := by
  unfold flushRing
  try dsimp only
  repeat' first
    | with_reducible assumption
    | with_reducible apply Frame.refl
    | ((with_reducible apply sub_of); exact Eq.refl true)
    | with_reducible apply Nat.le_succ
    | with_reducible apply mwf_wrBytes_imp
    | with_reducible apply mwf_filter_imp
    | with_reducible apply mwf_nil
    | with_reducible apply mwf_mupd_imp
    | with_reducible apply mwf_wrParts_imp
    | (with_reducible apply Frame.step; with_reducible apply flushOne_frame)
    | (with_reducible apply Frame.thread; (intro y e hy))
    | (with_reducible apply Frame.thread_fst; (intro y e hy))
    | (with_reducible apply Frame.thread_snd; (intro y e hy))
    | (with_reducible apply Frame.thread_trd; (intro y e hy))
    | with_reducible apply Frame.ite
    | split

theorem postEvent_frame (s : State) (r code str src : Nat) (args : List Nat) : Frame 281475030192002 s (postEvent s r code str src args) := by
  unfold postEvent
  try dsimp only
  repeat' first
    | with_reducible assumption
    | with_reducible apply Frame.refl
    | ((with_reducible apply sub_of); exact Eq.refl true)
    | with_reducible apply Nat.le_succ
    | with_reducible apply mwf_wrBytes_imp
    | with_reducible apply mwf_filter_imp
    | with_reducible apply mwf_nil
    | with_reducible apply mwf_mupd_imp
    | with_reducible apply mwf_wrParts_imp
    | (with_reducible apply Frame.step; with_reducible apply deliver_frame)
    | (with_reducible apply Frame.step; with_reducible apply Frame.fst; with_reducible assumption; with_reducible apply deliver_frame)
    | with_reducible apply Frame.ite
    | split

theorem streamEvent_frame (s : State) (x code src : Nat) (args : List Nat) : Frame 281475030192002 s (streamEvent s x code src args) := by
  unfold streamEvent
  try dsimp only
  repeat' first
    | with_reducible assumption
    | with_reducible apply Frame.refl
    | ((with_reducible apply sub_of); exact Eq.refl true)
    | with_reducible apply Nat.le_succ
    | with_reducible apply mwf_wrBytes_imp
    | with_reducible apply mwf_filter_imp
    | with_reducible apply mwf_nil
    | with_reducible apply mwf_mupd_imp
    | with_reducible apply mwf_wrParts_imp
    | (with_reducible apply Frame.step; with_reducible apply postEvent_frame)
    | (with_reducible apply Frame.step; with_reducible apply cnt_frame)
    | with_reducible apply Frame.ite
    | split

end Sys2Proof.Machine
end

