-- ==== Sys2Proof/Laws/RegistersFrames.lean ====
section
/-! SUPPORT. What each operation of Machine/Registers.lean can do to the state. -/

namespace Sys2Proof.Machine

set_option Elab.async false

theorem writeField_frame (was s : State) (f : Fld) (ch i v : Nat) : Frame 6 s (writeField was s f ch i v).1 := by
  unfold writeField
  try dsimp only
  try simp only [put_shadow_def]
  repeat' first
    | with_reducible assumption
    | with_reducible apply Frame.refl
    | ((with_reducible apply sub_of); exact Eq.refl true)
    | (with_reducible apply Frame.step; with_reducible apply setF_frame)
    | (with_reducible apply Frame.step; with_reducible apply put_shadow_frame)
    | with_reducible apply Frame.ite
    | split

theorem cfgLocked_frame (s : State) (q off : Nat) : Frame 2 s (cfgLocked s q off) := by
  unfold cfgLocked
  try dsimp only
  repeat' first
    | with_reducible assumption
    | with_reducible apply Frame.refl
    | ((with_reducible apply sub_of); exact Eq.refl true)
    | (with_reducible apply Frame.step; with_reducible apply setF_frame)
    | (with_reducible apply Frame.step; with_reducible apply cnt_frame)
    | with_reducible apply Frame.ite
    | split

theorem badAccess_frame (s : State) : Frame 2 s (badAccess s) := by
  unfold badAccess
  try dsimp only
  repeat' first
    | with_reducible assumption
    | with_reducible apply Frame.refl
    | ((with_reducible apply sub_of); exact Eq.refl true)
    | (with_reducible apply Frame.step; with_reducible apply setF_frame)
    | (with_reducible apply Frame.step; with_reducible apply cnt_frame)
    | with_reducible apply Frame.ite
    | split

theorem unmask_frame (s : State) (v : Nat) : Frame 16777730 s (unmask s v) := by
  unfold unmask
  try dsimp only
  try simp only [put_pending_def]
  repeat' first
    | with_reducible assumption
    | with_reducible apply Frame.refl
    | ((with_reducible apply sub_of); exact Eq.refl true)
    | with_reducible apply mwf_wrBytes_imp
    | with_reducible apply mwf_filter_imp
    | with_reducible apply mwf_nil
    | with_reducible apply mwf_mupd_imp
    | with_reducible apply mwf_wrParts_imp
    | (with_reducible apply Frame.step; with_reducible apply updHl_frame)
    | (with_reducible apply Frame.step; with_reducible apply setF_frame)
    | (with_reducible apply Frame.step; with_reducible apply post_frame)
    | (with_reducible apply Frame.step; with_reducible apply put_pending_frame)
    | with_reducible apply Frame.ite
    | split

theorem commitBits_frame (s : State) (q off lo n v : Nat) : Frame 51380742 s (commitBits s q off lo n v) := by
  unfold commitBits
  try dsimp only
  repeat' first
    | with_reducible assumption
    | with_reducible apply Frame.refl
    | ((with_reducible apply sub_of); exact Eq.refl true)
    | with_reducible apply mwf_wrBytes_imp
    | with_reducible apply mwf_filter_imp
    | with_reducible apply mwf_nil
    | with_reducible apply mwf_mupd_imp
    | with_reducible apply mwf_wrParts_imp
    | (with_reducible apply Frame.step; with_reducible apply writeField_frame)
    | (with_reducible apply Frame.step; with_reducible apply Frame.fst; with_reducible assumption; with_reducible apply writeField_frame)
    | (with_reducible apply Frame.step; with_reducible apply cfgLocked_frame)
    | (with_reducible apply Frame.step; with_reducible apply logNotify_frame)
    | (with_reducible apply Frame.step; with_reducible apply ringDue_frame)
    | (with_reducible apply Frame.step; with_reducible apply unmask_frame)
    | (with_reducible apply Frame.foldl; (intro y e hy))
    | (with_reducible apply Frame.foldl_fst; (intro y e hy))
    | (with_reducible apply Frame.foldl_snd; (intro y e hy))
    | with_reducible apply Frame.ite
    | split

theorem bootWinWrite_frame (s : State) (off size data : Nat) : Frame 262144 s (bootWinWrite s off size data) := by
  unfold bootWinWrite
  try dsimp only
  repeat' first
    | with_reducible assumption
    | with_reducible apply Frame.refl
    | ((with_reducible apply sub_of); exact Eq.refl true)
    | (with_reducible apply Frame.step; with_reducible apply updSec_frame)
    | with_reducible apply Frame.ite
    | split

theorem secUnlisted_frame (s : State) (op : Nat) : Frame 2 s (secUnlisted s op) := by
  unfold secUnlisted
  try dsimp only
  repeat' first
    | with_reducible assumption
    | with_reducible apply Frame.refl
    | ((with_reducible apply sub_of); exact Eq.refl true)
    | (with_reducible apply Frame.step; with_reducible apply setF_frame)
    | with_reducible apply Frame.ite
    | split

theorem clearRc_frame (s : State) (q off lo n : Nat) : Frame 2 s (clearRc s q off lo n) := by
  unfold clearRc
  try dsimp only
  repeat' first
    | with_reducible assumption
    | with_reducible apply Frame.refl
    | ((with_reducible apply sub_of); exact Eq.refl true)
    | (with_reducible apply Frame.step; with_reducible apply setF_frame)
    | (with_reducible apply Frame.thread; (intro y e hy))
    | (with_reducible apply Frame.thread_fst; (intro y e hy))
    | (with_reducible apply Frame.thread_snd; (intro y e hy))
    | (with_reducible apply Frame.thread_trd; (intro y e hy))
    | with_reducible apply Frame.ite
    | split

theorem regRead_frame (s : State) (q off size : Nat) : Frame 18 s (regRead s q off size).2 := by
  unfold regRead
  try dsimp only
  try simp only [put_latched_def]
  repeat' first
    | with_reducible assumption
    | with_reducible apply Frame.refl
    | ((with_reducible apply sub_of); exact Eq.refl true)
    | (with_reducible apply Frame.step; with_reducible apply badAccess_frame)
    | (with_reducible apply Frame.step; with_reducible apply clearRc_frame)
    | (with_reducible apply Frame.step; with_reducible apply put_latched_frame)
    | with_reducible apply Frame.ite
    | split

theorem waitWindow_frame (s : State) (r : Nat) : Frame 16777216 s (waitWindow s r) := by
  unfold waitWindow
  try dsimp only
  repeat' first
    | with_reducible assumption
    | with_reducible apply Frame.refl
    | ((with_reducible apply sub_of); exact Eq.refl true)
    | (with_reducible apply Frame.step; with_reducible apply updHl_frame)
    | with_reducible apply Frame.ite
    | split

theorem touchWindow_frame (s : State) (q off size : Nat) : Frame 33554434 s (touchWindow s q off size) := by
  unfold touchWindow
  try dsimp only
  repeat' first
    | with_reducible assumption
    | with_reducible apply Frame.refl
    | ((with_reducible apply sub_of); exact Eq.refl true)
    | (with_reducible apply Frame.step; with_reducible apply useRing_frame)
    | with_reducible apply Frame.ite
    | split

theorem readTo_frame (s : State) (req : Req) (off size : Nat) : Frame 50331762 s (readTo s req off size) := by
  unfold readTo
  try dsimp only
  try simp only [put_readData_readError_def]
  repeat' first
    | with_reducible assumption
    | with_reducible apply Frame.refl
    | ((with_reducible apply sub_of); exact Eq.refl true)
    | (with_reducible apply Frame.step; with_reducible apply touchWindow_frame)
    | (with_reducible apply Frame.step; with_reducible apply waitWindow_frame)
    | (with_reducible apply Frame.step; with_reducible apply regRead_frame)
    | (with_reducible apply Frame.step; with_reducible apply Frame.snd; with_reducible assumption; with_reducible apply regRead_frame)
    | (with_reducible apply Frame.step; with_reducible apply put_readData_readError_frame)
    | with_reducible apply Frame.ite
    | split

theorem aclkDemand_frame (s : State) : Frame 32768 s (aclkDemand s) := by
  unfold aclkDemand
  try dsimp only
  repeat' first
    | with_reducible assumption
    | with_reducible apply Frame.refl
    | ((with_reducible apply sub_of); exact Eq.refl true)
    | (with_reducible apply Frame.step; with_reducible apply updClk_frame)
    | with_reducible apply Frame.ite
    | split

end Sys2Proof.Machine
end

