-- ==== Sys2Proof/Laws/SyncFrames.lean ====
section
/-! SUPPORT. What each operation of Machine/Sync.lean can do to the state. -/

namespace Sys2Proof.Machine

set_option Elab.async false

theorem completeAs_frame (s : State) (d : Desc) (opcode : Nat) (quiet : Bool) (status detail r0 r1 : Nat) : Frame 281475164409730 s (completeAs s d opcode quiet status detail r0 r1) := by
  unfold completeAs
  try dsimp only
  try simp only [put_descs_def]
  repeat' first
    | with_reducible assumption
    | with_reducible apply Frame.refl
    | ((with_reducible apply sub_of); exact Eq.refl true)
    | with_reducible apply Nat.le_succ
    | with_reducible apply mwf_wrBytes_imp
    | with_reducible apply mwf_filter_imp
    | with_reducible apply mwf_nil
    | with_reducible apply mwf_mupd_imp
    | with_reducible apply mwf_wrParts_imp
    | (with_reducible apply Frame.step; with_reducible apply ringPut_frame)
    | (with_reducible apply Frame.step; with_reducible apply updRing_frame)
    | (with_reducible apply Frame.step; with_reducible apply cnt_frame)
    | (with_reducible apply Frame.step; with_reducible apply put_descs_frame)
    | with_reducible apply Frame.ite
    | split

theorem complete_frame (s : State) (d : Desc) (status detail r0 r1 : Nat) : Frame 281475164409730 s (complete s d status detail r0 r1) := by
  unfold complete
  try dsimp only
  repeat' first
    | with_reducible assumption
    | with_reducible apply Frame.refl
    | ((with_reducible apply sub_of); exact Eq.refl true)
    | with_reducible apply Nat.le_succ
    | with_reducible apply mwf_wrBytes_imp
    | with_reducible apply mwf_filter_imp
    | with_reducible apply mwf_nil
    | with_reducible apply mwf_mupd_imp
    | with_reducible apply mwf_wrParts_imp
    | (with_reducible apply Frame.step; with_reducible apply completeAs_frame)
    | with_reducible apply Frame.ite
    | split

theorem wakeTasks_frame (s : State) (f : Nat → WaitFor → Bool) : Frame 17592186044416 s (wakeTasks s f) := by
  unfold wakeTasks
  try dsimp only
  try simp only [put_tiles_def]
  repeat' first
    | with_reducible assumption
    | with_reducible apply Frame.refl
    | ((with_reducible apply sub_of); exact Eq.refl true)
    | (with_reducible apply Frame.step; with_reducible apply put_tiles_frame)
    | with_reducible apply Frame.ite
    | split

theorem wakeJobs_frame (s : State) (p : Nat → Bool) : Frame 8589934592 s (wakeJobs s p) := by
  unfold wakeJobs
  try dsimp only
  try simp only [put_jobs_def]
  repeat' first
    | with_reducible assumption
    | with_reducible apply Frame.refl
    | ((with_reducible apply sub_of); exact Eq.refl true)
    | (with_reducible apply Frame.step; with_reducible apply put_jobs_frame)
    | with_reducible apply Frame.ite
    | split

theorem setCount_frame (s : State) (o n : Nat) : Frame 369446832050050 s (setCount s o n) := by
  unfold setCount
  try dsimp only
  try simp only [put_sctx_def]
  repeat' first
    | with_reducible assumption
    | with_reducible apply Frame.refl
    | ((with_reducible apply sub_of); exact Eq.refl true)
    | with_reducible apply Nat.le_succ
    | with_reducible apply mwf_wrBytes_imp
    | with_reducible apply mwf_filter_imp
    | with_reducible apply mwf_nil
    | with_reducible apply mwf_mupd_imp
    | with_reducible apply mwf_wrParts_imp
    | (with_reducible apply Frame.step; with_reducible apply wakeTasks_frame)
    | (with_reducible apply Frame.step; with_reducible apply complete_frame)
    | (with_reducible apply Frame.step; with_reducible apply wakeJobs_frame)
    | (with_reducible apply Frame.step; with_reducible apply updObj_frame)
    | (with_reducible apply Frame.step; with_reducible apply addF_frame)
    | (with_reducible apply Frame.step; with_reducible apply put_sctx_frame)
    | (with_reducible apply Frame.thread; (intro y e hy))
    | (with_reducible apply Frame.thread_fst; (intro y e hy))
    | (with_reducible apply Frame.thread_snd; (intro y e hy))
    | (with_reducible apply Frame.thread_trd; (intro y e hy))
    | with_reducible apply Frame.ite
    | split

theorem addObj_frame (s : State) (o v : Nat) (job : JobId) : Frame 369446832050050 s (addObj s o v job) := by
  unfold addObj
  try dsimp only
  repeat' first
    | with_reducible assumption
    | with_reducible apply Frame.refl
    | ((with_reducible apply sub_of); exact Eq.refl true)
    | with_reducible apply Nat.le_succ
    | with_reducible apply mwf_wrBytes_imp
    | with_reducible apply mwf_filter_imp
    | with_reducible apply mwf_nil
    | with_reducible apply mwf_mupd_imp
    | with_reducible apply mwf_wrParts_imp
    | (with_reducible apply Frame.step; with_reducible apply setCount_frame)
    | (with_reducible apply Frame.step; with_reducible apply report_frame)
    | (with_reducible apply Frame.step; with_reducible apply evSet_frame)
    | (with_reducible apply Frame.step; with_reducible apply setF_frame)
    | (with_reducible apply Frame.step; with_reducible apply cnt_frame)
    | with_reducible apply Frame.ite
    | split

theorem noteWaiters_frame (s : State) : Frame 2 s (noteWaiters s) := by
  unfold noteWaiters
  try dsimp only
  repeat' first
    | with_reducible assumption
    | with_reducible apply Frame.refl
    | ((with_reducible apply sub_of); exact Eq.refl true)
    | (with_reducible apply Frame.step; with_reducible apply maxF_frame)
    | with_reducible apply Frame.ite
    | split

theorem putQueue_frame (s : State) (q : Nat) (u : Queue) : Frame 17605070946304 s (putQueue s q u) := by
  unfold putQueue
  try dsimp only
  repeat' first
    | with_reducible assumption
    | with_reducible apply Frame.refl
    | ((with_reducible apply sub_of); exact Eq.refl true)
    | (with_reducible apply Frame.step; with_reducible apply wakeTasks_frame)
    | (with_reducible apply Frame.step; with_reducible apply updQueue_frame)
    | (with_reducible apply Frame.step; with_reducible apply wakeJobs_frame)
    | with_reducible apply Frame.ite
    | split

theorem publishHalo_frame (s : State) (qn n : Nat) (poison : Bool) (refs : List JobId) : Frame 369451127017346 s (publishHalo s qn n poison refs) := by
  unfold publishHalo
  try dsimp only
  repeat' first
    | with_reducible assumption
    | with_reducible apply Frame.refl
    | ((with_reducible apply sub_of); exact Eq.refl true)
    | with_reducible apply Nat.le_succ
    | with_reducible apply mwf_wrBytes_imp
    | with_reducible apply mwf_filter_imp
    | with_reducible apply mwf_nil
    | with_reducible apply mwf_mupd_imp
    | with_reducible apply mwf_wrParts_imp
    | (with_reducible apply Frame.step; with_reducible apply putQueue_frame)
    | (with_reducible apply Frame.step; with_reducible apply setCount_frame)
    | with_reducible apply Frame.ite
    | split

theorem overQueues_frame (s : State) (f : Queue → Queue) : Frame 17605070946304 s (overQueues s f) := by
  unfold overQueues
  try dsimp only
  repeat' first
    | with_reducible assumption
    | with_reducible apply Frame.refl
    | ((with_reducible apply sub_of); exact Eq.refl true)
    | (with_reducible apply Frame.step; with_reducible apply putQueue_frame)
    | (with_reducible apply Frame.thread; (intro y e hy))
    | (with_reducible apply Frame.thread_fst; (intro y e hy))
    | (with_reducible apply Frame.thread_snd; (intro y e hy))
    | (with_reducible apply Frame.thread_trd; (intro y e hy))
    | with_reducible apply Frame.ite
    | split

theorem queuesRetire_frame (s : State) (id : JobId) : Frame 17605070946304 s (queuesRetire s id) := by
  unfold queuesRetire
  try dsimp only
  repeat' first
    | with_reducible assumption
    | with_reducible apply Frame.refl
    | ((with_reducible apply sub_of); exact Eq.refl true)
    | (with_reducible apply Frame.step; with_reducible apply overQueues_frame)
    | with_reducible apply Frame.ite
    | split

theorem queuesAbort_frame (s : State) (id : JobId) : Frame 17605070946304 s (queuesAbort s id) := by
  unfold queuesAbort
  try dsimp only
  repeat' first
    | with_reducible assumption
    | with_reducible apply Frame.refl
    | ((with_reducible apply sub_of); exact Eq.refl true)
    | (with_reducible apply Frame.step; with_reducible apply overQueues_frame)
    | with_reducible apply Frame.ite
    | split

theorem queuesCancel_frame (s : State) (id : JobId) : Frame 17605070946304 s (queuesCancel s id) := by
  unfold queuesCancel
  try dsimp only
  repeat' first
    | with_reducible assumption
    | with_reducible apply Frame.refl
    | ((with_reducible apply sub_of); exact Eq.refl true)
    | (with_reducible apply Frame.step; with_reducible apply overQueues_frame)
    | with_reducible apply Frame.ite
    | split

end Sys2Proof.Machine
end

