-- ==== Sys2Proof/Laws/StreamsFrames.lean ====
section
/-! SUPPORT. What each operation of Machine/Streams.lean can do to the state. -/

namespace Sys2Proof.Machine

set_option Elab.async false

theorem latchSource_frame (s : State) (n : Nat) : Frame 4194304 s (latchSource s n) := by
  unfold latchSource
  try dsimp only
  try simp only [put_latches_def]
  repeat' first
    | with_reducible assumption
    | with_reducible apply Frame.refl
    | ((with_reducible apply sub_of); exact Eq.refl true)
    | (with_reducible apply Frame.step; with_reducible apply put_latches_frame)
    | with_reducible apply Frame.ite
    | split

theorem writeSnapshot_frame (s : State) (x e : Nat) (b : Bank) (incomplete part : Bool) : Frame 281543753863042 s (writeSnapshot s x e b incomplete part) := by
  unfold writeSnapshot
  try dsimp only
  repeat' first
    | with_reducible assumption
    | with_reducible apply Frame.refl
    | ((with_reducible apply sub_of); exact Eq.refl true)
    | with_reducible apply Nat.le_succ
    | with_reducible apply mwf_wrBytes_imp
    | with_reducible apply mwf_filter_imp
    | with_reducible apply mwf_nil
    | with_reducible apply mwf_mupd_imp
    | with_reducible apply mwf_wrParts_imp
    | (with_reducible apply Frame.step; with_reducible apply latchSource_frame)
    | (with_reducible apply Frame.step; with_reducible apply updStream_frame)
    | (with_reducible apply Frame.step; with_reducible apply deliver_frame)
    | (with_reducible apply Frame.step; with_reducible apply Frame.fst; with_reducible assumption; with_reducible apply deliver_frame)
    | (with_reducible apply Frame.step; with_reducible apply setF_frame)
    | (with_reducible apply Frame.thread; (intro y e hy))
    | (with_reducible apply Frame.thread_fst; (intro y e hy))
    | (with_reducible apply Frame.thread_snd; (intro y e hy))
    | (with_reducible apply Frame.thread_trd; (intro y e hy))
    | with_reducible apply Frame.ite
    | split

theorem countAt_frame (s : State) (x line n : Nat) (f : Bank → Nat → Bank) : Frame 68719476736 s (countAt s x line n f) := by
  unfold countAt
  try dsimp only
  repeat' first
    | with_reducible assumption
    | with_reducible apply Frame.refl
    | ((with_reducible apply sub_of); exact Eq.refl true)
    | (with_reducible apply Frame.step; with_reducible apply updStream_frame)
    | with_reducible apply Frame.ite
    | split

theorem epochBoundary_frame (s : State) (x : Nat) : Frame 281543753863042 s (epochBoundary s x) := by
  unfold epochBoundary
  try dsimp only
  repeat' first
    | with_reducible assumption
    | with_reducible apply Frame.refl
    | ((with_reducible apply sub_of); exact Eq.refl true)
    | with_reducible apply Nat.le_succ
    | with_reducible apply mwf_wrBytes_imp
    | with_reducible apply mwf_filter_imp
    | with_reducible apply mwf_nil
    | with_reducible apply mwf_mupd_imp
    | with_reducible apply mwf_wrParts_imp
    | (with_reducible apply Frame.step; with_reducible apply writeSnapshot_frame)
    | (with_reducible apply Frame.step; with_reducible apply updStream_frame)
    | with_reducible apply Frame.ite
    | split

theorem alignLink_frame (s : State) (x n rx : Nat) : Frame 2199023255552 s (alignLink s x n rx) := by
  unfold alignLink
  try dsimp only
  repeat' first
    | with_reducible assumption
    | with_reducible apply Frame.refl
    | ((with_reducible apply sub_of); exact Eq.refl true)
    | (with_reducible apply Frame.step; with_reducible apply updLink_frame)
    | with_reducible apply Frame.ite
    | split

theorem putLine_frame (s : State) (x n : Nat) (l : Line) : Frame 68719476736 s (putLine s x n l) := by
  unfold putLine
  try dsimp only
  repeat' first
    | with_reducible assumption
    | with_reducible apply Frame.refl
    | ((with_reducible apply sub_of); exact Eq.refl true)
    | (with_reducible apply Frame.step; with_reducible apply updStream_frame)
    | with_reducible apply Frame.ite
    | split

theorem stampSlot_frame (s : State) (x n rx : Nat) : Frame 2267742732290 s (stampSlot s x n rx) := by
  unfold stampSlot
  try dsimp only
  repeat' first
    | with_reducible assumption
    | with_reducible apply Frame.refl
    | ((with_reducible apply sub_of); exact Eq.refl true)
    | (with_reducible apply Frame.step; with_reducible apply alignLink_frame)
    | (with_reducible apply Frame.step; with_reducible apply putLine_frame)
    | (with_reducible apply Frame.step; with_reducible apply updLink_frame)
    | (with_reducible apply Frame.step; with_reducible apply addF_frame)
    | with_reducible apply Frame.ite
    | split

theorem openSlots_frame (s : State) (x n rx : Nat) : Frame 283742777118594 s (openSlots s x n rx) := by
  unfold openSlots
  try dsimp only
  repeat' first
    | with_reducible assumption
    | with_reducible apply Frame.refl
    | ((with_reducible apply sub_of); exact Eq.refl true)
    | with_reducible apply Nat.le_succ
    | with_reducible apply mwf_wrBytes_imp
    | with_reducible apply mwf_filter_imp
    | with_reducible apply mwf_nil
    | with_reducible apply mwf_mupd_imp
    | with_reducible apply mwf_wrParts_imp
    | (with_reducible apply Frame.step; with_reducible apply epochBoundary_frame)
    | (with_reducible apply Frame.step; with_reducible apply updStream_frame)
    | (with_reducible apply Frame.step; with_reducible apply stampSlot_frame)
    | (with_reducible apply Frame.thread; (intro y e hy))
    | (with_reducible apply Frame.thread_fst; (intro y e hy))
    | (with_reducible apply Frame.thread_snd; (intro y e hy))
    | (with_reducible apply Frame.thread_trd; (intro y e hy))
    | with_reducible apply Frame.ite
    | split

theorem updStripe_frame (s : State) (x r g : Nat) (f : Stripe → Stripe) : Frame 137438953472 s (updStripe s x r g f) := by
  unfold updStripe
  try dsimp only
  try simp only [put_stripes_def]
  repeat' first
    | with_reducible assumption
    | with_reducible apply Frame.refl
    | ((with_reducible apply sub_of); exact Eq.refl true)
    | (with_reducible apply Frame.step; with_reducible apply put_stripes_frame)
    | with_reducible apply Frame.ite
    | split

theorem putCopies_frame (s : State) (u : Nat) (k : Stripe) : Frame 281474996637570 s (putCopies s u k) := by
  unfold putCopies
  try dsimp only
  repeat' first
    | with_reducible assumption
    | with_reducible apply Frame.refl
    | ((with_reducible apply sub_of); exact Eq.refl true)
    | with_reducible apply Nat.le_succ
    | with_reducible apply mwf_wrBytes_imp
    | with_reducible apply mwf_filter_imp
    | with_reducible apply mwf_nil
    | with_reducible apply mwf_mupd_imp
    | with_reducible apply mwf_wrParts_imp
    | (with_reducible apply Frame.step; with_reducible apply devWrite_frame)
    | (with_reducible apply Frame.step; with_reducible apply drawn_frame)
    | with_reducible apply Frame.ite
    | split

theorem writeWaiting_frame (s : State) : Frame 281612435591042 s (writeWaiting s) := by
  unfold writeWaiting
  try dsimp only
  repeat' first
    | with_reducible assumption
    | with_reducible apply Frame.refl
    | ((with_reducible apply sub_of); exact Eq.refl true)
    | with_reducible apply Nat.le_succ
    | with_reducible apply mwf_wrBytes_imp
    | with_reducible apply mwf_filter_imp
    | with_reducible apply mwf_nil
    | with_reducible apply mwf_mupd_imp
    | with_reducible apply mwf_wrParts_imp
    | (with_reducible apply Frame.step; with_reducible apply putCopies_frame)
    | (with_reducible apply Frame.step; with_reducible apply updStripe_frame)
    | (with_reducible apply Frame.thread; (intro y e hy))
    | (with_reducible apply Frame.thread_fst; (intro y e hy))
    | (with_reducible apply Frame.thread_snd; (intro y e hy))
    | (with_reducible apply Frame.thread_trd; (intro y e hy))
    | with_reducible apply Frame.ite
    | split

theorem gapRecord_frame (s : State) (x cause count first time segMask : Nat) : Frame 281543749668738 s (gapRecord s x cause count first time segMask) := by
  unfold gapRecord
  try dsimp only
  repeat' first
    | with_reducible assumption
    | with_reducible apply Frame.refl
    | ((with_reducible apply sub_of); exact Eq.refl true)
    | with_reducible apply Nat.le_succ
    | with_reducible apply mwf_wrBytes_imp
    | with_reducible apply mwf_filter_imp
    | with_reducible apply mwf_nil
    | with_reducible apply mwf_mupd_imp
    | with_reducible apply mwf_wrParts_imp
    | (with_reducible apply Frame.step; with_reducible apply countAt_frame)
    | (with_reducible apply Frame.step; with_reducible apply deliver_frame)
    | (with_reducible apply Frame.step; with_reducible apply Frame.fst; with_reducible assumption; with_reducible apply deliver_frame)
    | with_reducible apply Frame.ite
    | split

theorem closeRow_frame (s : State) (x : Nat) : Frame 281681188622210 s (closeRow s x) := by
  unfold closeRow
  try dsimp only
  try simp only [put_stripes_def]
  repeat' first
    | with_reducible assumption
    | with_reducible apply Frame.refl
    | ((with_reducible apply sub_of); exact Eq.refl true)
    | with_reducible apply Nat.le_succ
    | with_reducible apply mwf_wrBytes_imp
    | with_reducible apply mwf_filter_imp
    | with_reducible apply mwf_nil
    | with_reducible apply mwf_mupd_imp
    | with_reducible apply mwf_wrParts_imp
    | (with_reducible apply Frame.step; with_reducible apply writeWaiting_frame)
    | (with_reducible apply Frame.step; with_reducible apply updStream_frame)
    | (with_reducible apply Frame.step; with_reducible apply gapRecord_frame)
    | (with_reducible apply Frame.step; with_reducible apply addF_frame)
    | (with_reducible apply Frame.step; with_reducible apply put_stripes_frame)
    | (with_reducible apply Frame.thread; (intro y e hy))
    | (with_reducible apply Frame.thread_fst; (intro y e hy))
    | (with_reducible apply Frame.thread_snd; (intro y e hy))
    | (with_reducible apply Frame.thread_trd; (intro y e hy))
    | with_reducible apply Frame.ite
    | split

theorem closeRows_frame (s : State) (x : Nat) : Frame 283880216072066 s (closeRows s x) := by
  unfold closeRows
  try dsimp only
  repeat' first
    | with_reducible assumption
    | with_reducible apply Frame.refl
    | ((with_reducible apply sub_of); exact Eq.refl true)
    | with_reducible apply Nat.le_succ
    | with_reducible apply mwf_wrBytes_imp
    | with_reducible apply mwf_filter_imp
    | with_reducible apply mwf_nil
    | with_reducible apply mwf_mupd_imp
    | with_reducible apply mwf_wrParts_imp
    | (with_reducible apply Frame.step; with_reducible apply openSlots_frame)
    | (with_reducible apply Frame.step; with_reducible apply closeRow_frame)
    | (with_reducible apply Frame.thread; (intro y e hy))
    | (with_reducible apply Frame.thread_fst; (intro y e hy))
    | (with_reducible apply Frame.thread_snd; (intro y e hy))
    | (with_reducible apply Frame.thread_trd; (intro y e hy))
    | with_reducible apply Frame.ite
    | split

theorem fillLine_frame (s : State) (x n : Nat) (g : LineGap) : Frame 283880216072066 s (fillLine s x n g) := by
  unfold fillLine
  try dsimp only
  repeat' first
    | with_reducible assumption
    | with_reducible apply Frame.refl
    | ((with_reducible apply sub_of); exact Eq.refl true)
    | with_reducible apply Nat.le_succ
    | with_reducible apply mwf_wrBytes_imp
    | with_reducible apply mwf_filter_imp
    | with_reducible apply mwf_nil
    | with_reducible apply mwf_mupd_imp
    | with_reducible apply mwf_wrParts_imp
    | (with_reducible apply Frame.step; with_reducible apply closeRows_frame)
    | (with_reducible apply Frame.step; with_reducible apply putLine_frame)
    | (with_reducible apply Frame.step; with_reducible apply countAt_frame)
    | with_reducible apply Frame.ite
    | split

theorem completeLine_frame (s : State) (x n : Nat) (stamp : Option (Nat × Word)) : Frame 283880216072066 s (completeLine s x n stamp) := by
  unfold completeLine
  try dsimp only
  repeat' first
    | with_reducible assumption
    | with_reducible apply Frame.refl
    | ((with_reducible apply sub_of); exact Eq.refl true)
    | with_reducible apply Nat.le_succ
    | with_reducible apply mwf_wrBytes_imp
    | with_reducible apply mwf_filter_imp
    | with_reducible apply mwf_nil
    | with_reducible apply mwf_mupd_imp
    | with_reducible apply mwf_wrParts_imp
    | (with_reducible apply Frame.step; with_reducible apply closeRows_frame)
    | (with_reducible apply Frame.step; with_reducible apply putLine_frame)
    | (with_reducible apply Frame.step; with_reducible apply countAt_frame)
    | with_reducible apply Frame.ite
    | split

theorem placeBytes_frame (s : State) (x n off : Nat) (bytes : List Byte) (rx : Nat) : Frame 283880216072066 s (placeBytes s x n off bytes rx) := by
  unfold placeBytes
  try dsimp only
  repeat' first
    | with_reducible assumption
    | with_reducible apply Frame.refl
    | ((with_reducible apply sub_of); exact Eq.refl true)
    | with_reducible apply Nat.le_succ
    | with_reducible apply mwf_wrBytes_imp
    | with_reducible apply mwf_filter_imp
    | with_reducible apply mwf_nil
    | with_reducible apply mwf_mupd_imp
    | with_reducible apply mwf_wrParts_imp
    | (with_reducible apply Frame.step; with_reducible apply completeLine_frame)
    | (with_reducible apply Frame.step; with_reducible apply openSlots_frame)
    | (with_reducible apply Frame.step; with_reducible apply fillLine_frame)
    | (with_reducible apply Frame.step; with_reducible apply putLine_frame)
    | (with_reducible apply Frame.step; with_reducible apply maxF_frame)
    | (with_reducible apply Frame.foldl; (intro y e hy))
    | (with_reducible apply Frame.foldl_fst; (intro y e hy))
    | (with_reducible apply Frame.foldl_snd; (intro y e hy))
    | with_reducible apply Frame.ite
    | split

theorem endRow_frame (s : State) (x n : Nat) : Frame 283914575810434 s (endRow s x n) := by
  unfold endRow
  try dsimp only
  try simp only [put_pstreams_def]
  repeat' first
    | with_reducible assumption
    | with_reducible apply Frame.refl
    | ((with_reducible apply sub_of); exact Eq.refl true)
    | with_reducible apply Nat.le_succ
    | with_reducible apply mwf_wrBytes_imp
    | with_reducible apply mwf_filter_imp
    | with_reducible apply mwf_nil
    | with_reducible apply mwf_mupd_imp
    | with_reducible apply mwf_wrParts_imp
    | (with_reducible apply Frame.step; with_reducible apply updStream_frame)
    | (with_reducible apply Frame.step; with_reducible apply fillLine_frame)
    | (with_reducible apply Frame.step; with_reducible apply updLink_frame)
    | (with_reducible apply Frame.step; with_reducible apply putLine_frame)
    | (with_reducible apply Frame.step; with_reducible apply put_pstreams_frame)
    | (with_reducible apply Frame.thread; (intro y e hy))
    | (with_reducible apply Frame.thread_fst; (intro y e hy))
    | (with_reducible apply Frame.thread_snd; (intro y e hy))
    | (with_reducible apply Frame.thread_trd; (intro y e hy))
    | with_reducible apply Frame.ite
    | split

theorem flushBefore_frame (s : State) (x n : Nat) : Frame 283914575810434 s (flushBefore s x n) := by
  unfold flushBefore
  try dsimp only
  repeat' first
    | with_reducible assumption
    | with_reducible apply Frame.refl
    | ((with_reducible apply sub_of); exact Eq.refl true)
    | with_reducible apply Nat.le_succ
    | with_reducible apply mwf_wrBytes_imp
    | with_reducible apply mwf_filter_imp
    | with_reducible apply mwf_nil
    | with_reducible apply mwf_mupd_imp
    | with_reducible apply mwf_wrParts_imp
    | (with_reducible apply Frame.step; with_reducible apply endRow_frame)
    | with_reducible apply Frame.ite
    | split

theorem flushStream_frame (s : State) (x : Nat) : Frame 283914575810434 s (flushStream s x) := by
  unfold flushStream
  try dsimp only
  repeat' first
    | with_reducible assumption
    | with_reducible apply Frame.refl
    | ((with_reducible apply sub_of); exact Eq.refl true)
    | with_reducible apply Nat.le_succ
    | with_reducible apply mwf_wrBytes_imp
    | with_reducible apply mwf_filter_imp
    | with_reducible apply mwf_nil
    | with_reducible apply mwf_mupd_imp
    | with_reducible apply mwf_wrParts_imp
    | (with_reducible apply Frame.step; with_reducible apply flushBefore_frame)
    | with_reducible apply Frame.ite
    | split

theorem missLine_frame (s : State) (x n rx : Nat) : Frame 283880216072066 s (missLine s x n rx) := by
  unfold missLine
  try dsimp only
  repeat' first
    | with_reducible assumption
    | with_reducible apply Frame.refl
    | ((with_reducible apply sub_of); exact Eq.refl true)
    | with_reducible apply Nat.le_succ
    | with_reducible apply mwf_wrBytes_imp
    | with_reducible apply mwf_filter_imp
    | with_reducible apply mwf_nil
    | with_reducible apply mwf_mupd_imp
    | with_reducible apply mwf_wrParts_imp
    | (with_reducible apply Frame.step; with_reducible apply updStream_frame)
    | (with_reducible apply Frame.step; with_reducible apply openSlots_frame)
    | (with_reducible apply Frame.step; with_reducible apply fillLine_frame)
    | with_reducible apply Frame.ite
    | split

theorem reachLine_frame (s : State) (x n : Nat) : Frame 68719476736 s (reachLine s x n) := by
  unfold reachLine
  try dsimp only
  repeat' first
    | with_reducible assumption
    | with_reducible apply Frame.refl
    | ((with_reducible apply sub_of); exact Eq.refl true)
    | (with_reducible apply Frame.step; with_reducible apply updStream_frame)
    | with_reducible apply Frame.ite
    | split

end Sys2Proof.Machine
end

