-- ==== Sys2Proof/Laws/PortsFrames.lean ====
section
/-! SUPPORT. What each operation of Machine/Ports.lean can do to the state. -/

namespace Sys2Proof.Machine

set_option Elab.async false

theorem storeOthers_frame (s : State) (off ch i data : Nat) : Frame 6 s (storeOthers s off ch i data) := by
  unfold storeOthers
  try dsimp only
  repeat' first
    | with_reducible assumption
    | with_reducible apply Frame.refl
    | ((with_reducible apply sub_of); exact Eq.refl true)
    | (with_reducible apply Frame.step; with_reducible apply writeField_frame)
    | (with_reducible apply Frame.step; with_reducible apply Frame.fst; with_reducible assumption; with_reducible apply writeField_frame)
    | (with_reducible apply Frame.step; with_reducible apply cfgLocked_frame)
    | (with_reducible apply Frame.foldl; (intro y e hy))
    | (with_reducible apply Frame.foldl_fst; (intro y e hy))
    | (with_reducible apply Frame.foldl_snd; (intro y e hy))
    | with_reducible apply Frame.ite
    | split

theorem cntP_frame (s : State) (f : Fld) (l : Nat) : Frame 2 s (cntP s f l) := by
  unfold cntP
  try dsimp only
  repeat' first
    | with_reducible assumption
    | with_reducible apply Frame.refl
    | ((with_reducible apply sub_of); exact Eq.refl true)
    | (with_reducible apply Frame.step; with_reducible apply addF_frame)
    | with_reducible apply Frame.ite
    | split

theorem portEvent_frame (s : State) (l x code : Nat) (args : List Nat) : Frame 281475030192002 s (portEvent s l x code args) := by
  unfold portEvent
  try dsimp only
  repeat' first
    | with_reducible assumption
    | with_reducible apply Frame.refl
    | ((with_reducible apply sub_of); exact Eq.refl true)
    | with_reducible apply Nat.le_succ
    | with_reducible apply mwf_wrBytes_imp
    | with_reducible apply mwf_filter_imp
    | with_reducible apply mwf_nil
    | with_reducible apply mwf_mupd_imp
    | with_reducible apply mwf_wrParts_imp
    | (with_reducible apply Frame.step; with_reducible apply streamEvent_frame)
    | (with_reducible apply Frame.step; with_reducible apply evSet_frame)
    | with_reducible apply Frame.ite
    | split

theorem forward_frame (s : State) (l kind vlan rx : Nat) (content : List Byte) : Frame 281492210061186 s (forward s l kind vlan rx content) := by
  unfold forward
  try dsimp only
  repeat' first
    | with_reducible assumption
    | with_reducible apply Frame.refl
    | ((with_reducible apply sub_of); exact Eq.refl true)
    | with_reducible apply Nat.le_succ
    | with_reducible apply mwf_wrBytes_imp
    | with_reducible apply mwf_filter_imp
    | with_reducible apply mwf_nil
    | with_reducible apply mwf_mupd_imp
    | with_reducible apply mwf_wrParts_imp
    | (with_reducible apply Frame.step; with_reducible apply updPort_frame)
    | (with_reducible apply Frame.step; with_reducible apply deliver_frame)
    | (with_reducible apply Frame.step; with_reducible apply Frame.fst; with_reducible assumption; with_reducible apply deliver_frame)
    | (with_reducible apply Frame.step; with_reducible apply cntP_frame)
    | with_reducible apply Frame.ite
    | split

theorem enqueue_frame (s : State) (l x : Nat) (ps : List (Nat × Nat × List Byte)) (rx : Nat) : Frame 283897395941250 s (enqueue s l x ps rx) := by
  unfold enqueue
  try dsimp only
  repeat' first
    | with_reducible assumption
    | with_reducible apply Frame.refl
    | ((with_reducible apply sub_of); exact Eq.refl true)
    | with_reducible apply Nat.le_succ
    | with_reducible apply mwf_wrBytes_imp
    | with_reducible apply mwf_filter_imp
    | with_reducible apply mwf_nil
    | with_reducible apply mwf_mupd_imp
    | with_reducible apply mwf_wrParts_imp
    | (with_reducible apply Frame.step; with_reducible apply reachLine_frame)
    | (with_reducible apply Frame.step; with_reducible apply missLine_frame)
    | (with_reducible apply Frame.step; with_reducible apply updPort_frame)
    | (with_reducible apply Frame.step; with_reducible apply cntP_frame)
    | (with_reducible apply Frame.step; with_reducible apply addF_frame)
    | (with_reducible apply Frame.thread; (intro y e hy))
    | (with_reducible apply Frame.thread_fst; (intro y e hy))
    | (with_reducible apply Frame.thread_snd; (intro y e hy))
    | (with_reducible apply Frame.thread_trd; (intro y e hy))
    | with_reducible apply Frame.ite
    | split

theorem weldLine_frame (s : State) (x m rx : Nat) : Frame 283914575810434 s (weldLine s x m rx) := by
  unfold weldLine
  try dsimp only
  repeat' first
    | with_reducible assumption
    | with_reducible apply Frame.refl
    | ((with_reducible apply sub_of); exact Eq.refl true)
    | with_reducible apply Nat.le_succ
    | with_reducible apply mwf_wrBytes_imp
    | with_reducible apply mwf_filter_imp
    | with_reducible apply mwf_nil
    | with_reducible apply mwf_mupd_imp
    | with_reducible apply mwf_wrParts_imp
    | (with_reducible apply Frame.step; with_reducible apply flushBefore_frame)
    | (with_reducible apply Frame.step; with_reducible apply streamEvent_frame)
    | (with_reducible apply Frame.step; with_reducible apply updStream_frame)
    | (with_reducible apply Frame.thread; (intro y e hy))
    | (with_reducible apply Frame.thread_fst; (intro y e hy))
    | (with_reducible apply Frame.thread_snd; (intro y e hy))
    | (with_reducible apply Frame.thread_trd; (intro y e hy))
    | with_reducible apply Frame.ite
    | split

theorem weldDue_frame (s : State) (x n rx : Nat) : Frame 283914575810434 s (weldDue s x n rx) := by
  unfold weldDue
  try dsimp only
  repeat' first
    | with_reducible assumption
    | with_reducible apply Frame.refl
    | ((with_reducible apply sub_of); exact Eq.refl true)
    | with_reducible apply Nat.le_succ
    | with_reducible apply mwf_wrBytes_imp
    | with_reducible apply mwf_filter_imp
    | with_reducible apply mwf_nil
    | with_reducible apply mwf_mupd_imp
    | with_reducible apply mwf_wrParts_imp
    | (with_reducible apply Frame.step; with_reducible apply weldLine_frame)
    | (with_reducible apply Frame.thread; (intro y e hy))
    | (with_reducible apply Frame.thread_fst; (intro y e hy))
    | (with_reducible apply Frame.thread_snd; (intro y e hy))
    | (with_reducible apply Frame.thread_trd; (intro y e hy))
    | with_reducible apply Frame.ite
    | split

theorem missLines_frame (s : State) (x : Nat) (b : Block) (ls : List Nat) : Frame 283914575810434 s (missLines s x b ls) := by
  unfold missLines
  try dsimp only
  repeat' first
    | with_reducible assumption
    | with_reducible apply Frame.refl
    | ((with_reducible apply sub_of); exact Eq.refl true)
    | with_reducible apply Nat.le_succ
    | with_reducible apply mwf_wrBytes_imp
    | with_reducible apply mwf_filter_imp
    | with_reducible apply mwf_nil
    | with_reducible apply mwf_mupd_imp
    | with_reducible apply mwf_wrParts_imp
    | (with_reducible apply Frame.step; with_reducible apply missLine_frame)
    | (with_reducible apply Frame.step; with_reducible apply weldDue_frame)
    | (with_reducible apply Frame.thread; (intro y e hy))
    | (with_reducible apply Frame.thread_fst; (intro y e hy))
    | (with_reducible apply Frame.thread_snd; (intro y e hy))
    | (with_reducible apply Frame.thread_trd; (intro y e hy))
    | with_reducible apply Frame.ite
    | split

theorem closeOldest_frame (s : State) (x : Nat) : Frame 283914575810434 s (closeOldest s x) := by
  unfold closeOldest
  try dsimp only
  repeat' first
    | with_reducible assumption
    | with_reducible apply Frame.refl
    | ((with_reducible apply sub_of); exact Eq.refl true)
    | with_reducible apply Nat.le_succ
    | with_reducible apply mwf_wrBytes_imp
    | with_reducible apply mwf_filter_imp
    | with_reducible apply mwf_nil
    | with_reducible apply mwf_mupd_imp
    | with_reducible apply mwf_wrParts_imp
    | (with_reducible apply Frame.step; with_reducible apply updPstream_frame)
    | (with_reducible apply Frame.step; with_reducible apply missLines_frame)
    | with_reducible apply Frame.ite
    | split

theorem openNext_frame (s : State) (x id : Nat) : Frame 283914575810434 s (openNext s x id) := by
  unfold openNext
  try dsimp only
  try simp only [put_blocks_def]
  repeat' first
    | with_reducible assumption
    | with_reducible apply Frame.refl
    | ((with_reducible apply sub_of); exact Eq.refl true)
    | with_reducible apply Nat.le_succ
    | with_reducible apply mwf_wrBytes_imp
    | with_reducible apply mwf_filter_imp
    | with_reducible apply mwf_nil
    | with_reducible apply mwf_mupd_imp
    | with_reducible apply mwf_wrParts_imp
    | (with_reducible apply Frame.step; with_reducible apply closeOldest_frame)
    | (with_reducible apply Frame.step; with_reducible apply updPstream_frame)
    | (with_reducible apply Frame.step; with_reducible apply put_blocks_frame)
    | with_reducible apply Frame.ite
    | split

theorem openUpTo_frame (s : State) (x d : Nat) : Frame 283914575810434 s (openUpTo s x d) := by
  unfold openUpTo
  try dsimp only
  repeat' first
    | with_reducible assumption
    | with_reducible apply Frame.refl
    | ((with_reducible apply sub_of); exact Eq.refl true)
    | with_reducible apply Nat.le_succ
    | with_reducible apply mwf_wrBytes_imp
    | with_reducible apply mwf_filter_imp
    | with_reducible apply mwf_nil
    | with_reducible apply mwf_mupd_imp
    | with_reducible apply mwf_wrParts_imp
    | (with_reducible apply Frame.step; with_reducible apply openNext_frame)
    | (with_reducible apply Frame.thread; (intro y e hy))
    | (with_reducible apply Frame.thread_fst; (intro y e hy))
    | (with_reducible apply Frame.thread_snd; (intro y e hy))
    | (with_reducible apply Frame.thread_trd; (intro y e hy))
    | with_reducible apply Frame.ite
    | split

theorem cxpPartial_frame (s : State) (x : Nat) : Frame 283914575810434 s (cxpPartial s x) := by
  unfold cxpPartial
  try dsimp only
  repeat' first
    | with_reducible assumption
    | with_reducible apply Frame.refl
    | ((with_reducible apply sub_of); exact Eq.refl true)
    | with_reducible apply Nat.le_succ
    | with_reducible apply mwf_wrBytes_imp
    | with_reducible apply mwf_filter_imp
    | with_reducible apply mwf_nil
    | with_reducible apply mwf_mupd_imp
    | with_reducible apply mwf_wrParts_imp
    | (with_reducible apply Frame.step; with_reducible apply updPstream_frame)
    | (with_reducible apply Frame.step; with_reducible apply missLine_frame)
    | with_reducible apply Frame.ite
    | split

theorem discont_frame (s : State) (l x old new : Nat) : Frame 283914575810434 s (discont s l x old new) := by
  unfold discont
  try dsimp only
  repeat' first
    | with_reducible assumption
    | with_reducible apply Frame.refl
    | ((with_reducible apply sub_of); exact Eq.refl true)
    | with_reducible apply Nat.le_succ
    | with_reducible apply mwf_wrBytes_imp
    | with_reducible apply mwf_filter_imp
    | with_reducible apply mwf_nil
    | with_reducible apply mwf_mupd_imp
    | with_reducible apply mwf_wrParts_imp
    | (with_reducible apply Frame.step; with_reducible apply closeOldest_frame)
    | (with_reducible apply Frame.step; with_reducible apply updPstream_frame)
    | (with_reducible apply Frame.step; with_reducible apply cxpPartial_frame)
    | (with_reducible apply Frame.step; with_reducible apply portEvent_frame)
    | (with_reducible apply Frame.step; with_reducible apply updLink_frame)
    | (with_reducible apply Frame.step; with_reducible apply endRow_frame)
    | (with_reducible apply Frame.thread; (intro y e hy))
    | (with_reducible apply Frame.thread_fst; (intro y e hy))
    | (with_reducible apply Frame.thread_snd; (intro y e hy))
    | (with_reducible apply Frame.thread_trd; (intro y e hy))
    | with_reducible apply Frame.ite
    | split

theorem gvspDiscont_frame (s : State) (l x id : Nat) : Frame 283914575810434 s (gvspDiscont s l x id) := by
  unfold gvspDiscont
  try dsimp only
  repeat' first
    | with_reducible assumption
    | with_reducible apply Frame.refl
    | ((with_reducible apply sub_of); exact Eq.refl true)
    | with_reducible apply Nat.le_succ
    | with_reducible apply mwf_wrBytes_imp
    | with_reducible apply mwf_filter_imp
    | with_reducible apply mwf_nil
    | with_reducible apply mwf_mupd_imp
    | with_reducible apply mwf_wrParts_imp
    | (with_reducible apply Frame.step; with_reducible apply updPstream_frame)
    | (with_reducible apply Frame.step; with_reducible apply openNext_frame)
    | (with_reducible apply Frame.step; with_reducible apply discont_frame)
    | with_reducible apply Frame.ite
    | split

theorem updBlock_frame (s : State) (x id : Nat) (f : Block → Block) : Frame 34359738368 s (updBlock s x id f) := by
  unfold updBlock
  try dsimp only
  try simp only [put_blocks_def]
  repeat' first
    | with_reducible assumption
    | with_reducible apply Frame.refl
    | ((with_reducible apply sub_of); exact Eq.refl true)
    | (with_reducible apply Frame.step; with_reducible apply updPstream_frame)
    | (with_reducible apply Frame.step; with_reducible apply put_blocks_frame)
    | with_reducible apply Frame.ite
    | split

theorem placePacket_frame (s : State) (l x id k : Nat) (bytes : List Byte) (rx : Nat) : Frame 283931755679618 s (placePacket s l x id k bytes rx) := by
  unfold placePacket
  try dsimp only
  repeat' first
    | with_reducible assumption
    | with_reducible apply Frame.refl
    | ((with_reducible apply sub_of); exact Eq.refl true)
    | with_reducible apply Nat.le_succ
    | with_reducible apply mwf_wrBytes_imp
    | with_reducible apply mwf_filter_imp
    | with_reducible apply mwf_nil
    | with_reducible apply mwf_mupd_imp
    | with_reducible apply mwf_wrParts_imp
    | (with_reducible apply Frame.step; with_reducible apply updBlock_frame)
    | (with_reducible apply Frame.step; with_reducible apply enqueue_frame)
    | (with_reducible apply Frame.step; with_reducible apply weldDue_frame)
    | with_reducible apply Frame.ite
    | split

theorem closeFull_frame (s : State) (x : Nat) : Frame 283914575810434 s (closeFull s x) := by
  unfold closeFull
  try dsimp only
  repeat' first
    | with_reducible assumption
    | with_reducible apply Frame.refl
    | ((with_reducible apply sub_of); exact Eq.refl true)
    | with_reducible apply Nat.le_succ
    | with_reducible apply mwf_wrBytes_imp
    | with_reducible apply mwf_filter_imp
    | with_reducible apply mwf_nil
    | with_reducible apply mwf_mupd_imp
    | with_reducible apply mwf_wrParts_imp
    | (with_reducible apply Frame.step; with_reducible apply closeOldest_frame)
    | (with_reducible apply Frame.thread; (intro y e hy))
    | (with_reducible apply Frame.thread_fst; (intro y e hy))
    | (with_reducible apply Frame.thread_snd; (intro y e hy))
    | (with_reducible apply Frame.thread_trd; (intro y e hy))
    | with_reducible apply Frame.ite
    | split

theorem learnBlock_frame (s : State) (x id : Nat) (more : List (Nat × Nat)) : Frame 283914575810434 s (learnBlock s x id more) := by
  unfold learnBlock
  try dsimp only
  repeat' first
    | with_reducible assumption
    | with_reducible apply Frame.refl
    | ((with_reducible apply sub_of); exact Eq.refl true)
    | with_reducible apply Nat.le_succ
    | with_reducible apply mwf_wrBytes_imp
    | with_reducible apply mwf_filter_imp
    | with_reducible apply mwf_nil
    | with_reducible apply mwf_mupd_imp
    | with_reducible apply mwf_wrParts_imp
    | (with_reducible apply Frame.step; with_reducible apply missLines_frame)
    | (with_reducible apply Frame.step; with_reducible apply updBlock_frame)
    | with_reducible apply Frame.ite
    | split

theorem settleBlock_frame (s : State) (l x id : Nat) (more : List (Nat × Nat)) : Frame 283931755679618 s (settleBlock s l x id more) := by
  unfold settleBlock
  try dsimp only
  repeat' first
    | with_reducible assumption
    | with_reducible apply Frame.refl
    | ((with_reducible apply sub_of); exact Eq.refl true)
    | with_reducible apply Nat.le_succ
    | with_reducible apply mwf_wrBytes_imp
    | with_reducible apply mwf_filter_imp
    | with_reducible apply mwf_nil
    | with_reducible apply mwf_mupd_imp
    | with_reducible apply mwf_wrParts_imp
    | (with_reducible apply Frame.step; with_reducible apply placePacket_frame)
    | (with_reducible apply Frame.step; with_reducible apply learnBlock_frame)
    | (with_reducible apply Frame.step; with_reducible apply updBlock_frame)
    | (with_reducible apply Frame.step; with_reducible apply cntP_frame)
    | (with_reducible apply Frame.thread; (intro y e hy))
    | (with_reducible apply Frame.thread_fst; (intro y e hy))
    | (with_reducible apply Frame.thread_snd; (intro y e hy))
    | (with_reducible apply Frame.thread_trd; (intro y e hy))
    | with_reducible apply Frame.ite
    | split

theorem gvspLeader_frame (s : State) (l x : Nat) (b : Block) (fmt : PixFmt) (w h : Nat) : Frame 283931755679618 s (gvspLeader s l x b fmt w h) := by
  unfold gvspLeader
  try dsimp only
  repeat' first
    | with_reducible assumption
    | with_reducible apply Frame.refl
    | ((with_reducible apply sub_of); exact Eq.refl true)
    | with_reducible apply Nat.le_succ
    | with_reducible apply mwf_wrBytes_imp
    | with_reducible apply mwf_filter_imp
    | with_reducible apply mwf_nil
    | with_reducible apply mwf_mupd_imp
    | with_reducible apply mwf_wrParts_imp
    | (with_reducible apply Frame.step; with_reducible apply settleBlock_frame)
    | (with_reducible apply Frame.step; with_reducible apply missLines_frame)
    | (with_reducible apply Frame.step; with_reducible apply updBlock_frame)
    | (with_reducible apply Frame.step; with_reducible apply cntP_frame)
    | with_reducible apply Frame.ite
    | split

theorem gvspPayload_frame (s : State) (l x : Nat) (b : Block) (k : Nat) (bytes : List Byte) (rx : Nat) : Frame 283931755679618 s (gvspPayload s l x b k bytes rx) := by
  unfold gvspPayload
  try dsimp only
  repeat' first
    | with_reducible assumption
    | with_reducible apply Frame.refl
    | ((with_reducible apply sub_of); exact Eq.refl true)
    | with_reducible apply Nat.le_succ
    | with_reducible apply mwf_wrBytes_imp
    | with_reducible apply mwf_filter_imp
    | with_reducible apply mwf_nil
    | with_reducible apply mwf_mupd_imp
    | with_reducible apply mwf_wrParts_imp
    | (with_reducible apply Frame.step; with_reducible apply settleBlock_frame)
    | (with_reducible apply Frame.step; with_reducible apply updBlock_frame)
    | (with_reducible apply Frame.step; with_reducible apply cntP_frame)
    | with_reducible apply Frame.ite
    | split

theorem gvspTrailer_frame (s : State) (l x : Nat) (b : Block) (k n : Nat) : Frame 283931755679618 s (gvspTrailer s l x b k n) := by
  unfold gvspTrailer
  try dsimp only
  repeat' first
    | with_reducible assumption
    | with_reducible apply Frame.refl
    | ((with_reducible apply sub_of); exact Eq.refl true)
    | with_reducible apply Nat.le_succ
    | with_reducible apply mwf_wrBytes_imp
    | with_reducible apply mwf_filter_imp
    | with_reducible apply mwf_nil
    | with_reducible apply mwf_mupd_imp
    | with_reducible apply mwf_wrParts_imp
    | (with_reducible apply Frame.step; with_reducible apply settleBlock_frame)
    | (with_reducible apply Frame.step; with_reducible apply missLines_frame)
    | (with_reducible apply Frame.step; with_reducible apply updBlock_frame)
    | (with_reducible apply Frame.step; with_reducible apply cntP_frame)
    | with_reducible apply Frame.ite
    | split

theorem gvspInBlock_frame (s : State) (l x : Nat) (g : Gvsp) (rx : Nat) : Frame 283931755679618 s (gvspInBlock s l x g rx) := by
  unfold gvspInBlock
  try dsimp only
  repeat' first
    | with_reducible assumption
    | with_reducible apply Frame.refl
    | ((with_reducible apply sub_of); exact Eq.refl true)
    | with_reducible apply Nat.le_succ
    | with_reducible apply mwf_wrBytes_imp
    | with_reducible apply mwf_filter_imp
    | with_reducible apply mwf_nil
    | with_reducible apply mwf_mupd_imp
    | with_reducible apply mwf_wrParts_imp
    | (with_reducible apply Frame.step; with_reducible apply gvspTrailer_frame)
    | (with_reducible apply Frame.step; with_reducible apply gvspPayload_frame)
    | (with_reducible apply Frame.step; with_reducible apply gvspLeader_frame)
    | (with_reducible apply Frame.step; with_reducible apply closeFull_frame)
    | with_reducible apply Frame.ite
    | split

theorem gvspPacket_frame (s : State) (l x : Nat) (g : Gvsp) (rx : Nat) : Frame 283931755679618 s (gvspPacket s l x g rx) := by
  unfold gvspPacket
  try dsimp only
  repeat' first
    | with_reducible assumption
    | with_reducible apply Frame.refl
    | ((with_reducible apply sub_of); exact Eq.refl true)
    | with_reducible apply Nat.le_succ
    | with_reducible apply mwf_wrBytes_imp
    | with_reducible apply mwf_filter_imp
    | with_reducible apply mwf_nil
    | with_reducible apply mwf_mupd_imp
    | with_reducible apply mwf_wrParts_imp
    | (with_reducible apply Frame.step; with_reducible apply gvspInBlock_frame)
    | (with_reducible apply Frame.step; with_reducible apply gvspDiscont_frame)
    | (with_reducible apply Frame.step; with_reducible apply openUpTo_frame)
    | (with_reducible apply Frame.step; with_reducible apply cntP_frame)
    | with_reducible apply Frame.ite
    | split

theorem heard_frame (s : State) (x : Nat) : Frame 34359738368 s (heard s x) := by
  unfold heard
  try dsimp only
  repeat' first
    | with_reducible assumption
    | with_reducible apply Frame.refl
    | ((with_reducible apply sub_of); exact Eq.refl true)
    | (with_reducible apply Frame.step; with_reducible apply updPstream_frame)
    | with_reducible apply Frame.ite
    | split

theorem forwardOther_frame (s : State) (l : Nat) (f : EthFrame) (rx : Nat) : Frame 281492210061186 s (forwardOther s l f rx) := by
  unfold forwardOther
  try dsimp only
  repeat' first
    | with_reducible assumption
    | with_reducible apply Frame.refl
    | ((with_reducible apply sub_of); exact Eq.refl true)
    | with_reducible apply Nat.le_succ
    | with_reducible apply mwf_wrBytes_imp
    | with_reducible apply mwf_filter_imp
    | with_reducible apply mwf_nil
    | with_reducible apply mwf_mupd_imp
    | with_reducible apply mwf_wrParts_imp
    | (with_reducible apply Frame.step; with_reducible apply forward_frame)
    | (with_reducible apply Frame.step; with_reducible apply cntP_frame)
    | with_reducible apply Frame.ite
    | split

theorem ethFrame_frame (s : State) (l : Nat) (f : EthFrame) : Frame 283931755679618 s (ethFrame s l f) := by
  unfold ethFrame
  try dsimp only
  repeat' first
    | with_reducible assumption
    | with_reducible apply Frame.refl
    | ((with_reducible apply sub_of); exact Eq.refl true)
    | with_reducible apply Nat.le_succ
    | with_reducible apply mwf_wrBytes_imp
    | with_reducible apply mwf_filter_imp
    | with_reducible apply mwf_nil
    | with_reducible apply mwf_mupd_imp
    | with_reducible apply mwf_wrParts_imp
    | (with_reducible apply Frame.step; with_reducible apply forwardOther_frame)
    | (with_reducible apply Frame.step; with_reducible apply gvspPacket_frame)
    | (with_reducible apply Frame.step; with_reducible apply forward_frame)
    | (with_reducible apply Frame.step; with_reducible apply heard_frame)
    | (with_reducible apply Frame.step; with_reducible apply cntP_frame)
    | with_reducible apply Frame.ite
    | split

theorem sendItem_frame (s : State) (l : Nat) (i : TxItem) : Frame 17179869184 s (sendItem s l i) := by
  unfold sendItem
  try dsimp only
  repeat' first
    | with_reducible assumption
    | with_reducible apply Frame.refl
    | ((with_reducible apply sub_of); exact Eq.refl true)
    | (with_reducible apply Frame.step; with_reducible apply updPort_frame)
    | with_reducible apply Frame.ite
    | split

theorem resendWait_frame (s : State) (x : Nat) : Frame 51539607554 s (resendWait s x) := by
  unfold resendWait
  try dsimp only
  repeat' first
    | with_reducible assumption
    | with_reducible apply Frame.refl
    | ((with_reducible apply sub_of); exact Eq.refl true)
    | (with_reducible apply Frame.step; with_reducible apply updPstream_frame)
    | (with_reducible apply Frame.step; with_reducible apply updBlock_frame)
    | (with_reducible apply Frame.step; with_reducible apply sendItem_frame)
    | (with_reducible apply Frame.step; with_reducible apply cntP_frame)
    | with_reducible apply Frame.ite
    | split

theorem cxpTake_frame (s : State) (l x : Nat) (c : CxpPacket) (gap : Bool) (rx : Nat) : Frame 283931755679618 s (cxpTake s l x c gap rx) := by
  unfold cxpTake
  try dsimp only
  repeat' first
    | with_reducible assumption
    | with_reducible apply Frame.refl
    | ((with_reducible apply sub_of); exact Eq.refl true)
    | with_reducible apply Nat.le_succ
    | with_reducible apply mwf_wrBytes_imp
    | with_reducible apply mwf_filter_imp
    | with_reducible apply mwf_nil
    | with_reducible apply mwf_mupd_imp
    | with_reducible apply mwf_wrParts_imp
    | (with_reducible apply Frame.step; with_reducible apply updPstream_frame)
    | (with_reducible apply Frame.step; with_reducible apply cxpPartial_frame)
    | (with_reducible apply Frame.step; with_reducible apply missLine_frame)
    | (with_reducible apply Frame.step; with_reducible apply weldDue_frame)
    | (with_reducible apply Frame.step; with_reducible apply enqueue_frame)
    | (with_reducible apply Frame.step; with_reducible apply discont_frame)
    | (with_reducible apply Frame.step; with_reducible apply cntP_frame)
    | (with_reducible apply Frame.thread; (intro y e hy))
    | (with_reducible apply Frame.thread_fst; (intro y e hy))
    | (with_reducible apply Frame.thread_snd; (intro y e hy))
    | (with_reducible apply Frame.thread_trd; (intro y e hy))
    | with_reducible apply Frame.ite
    | split

theorem cxpDrain_frame (s : State) (l x : Nat) : Frame 283931755679618 s (cxpDrain s l x) := by
  unfold cxpDrain
  try dsimp only
  repeat' first
    | with_reducible assumption
    | with_reducible apply Frame.refl
    | ((with_reducible apply sub_of); exact Eq.refl true)
    | with_reducible apply Nat.le_succ
    | with_reducible apply mwf_wrBytes_imp
    | with_reducible apply mwf_filter_imp
    | with_reducible apply mwf_nil
    | with_reducible apply mwf_mupd_imp
    | with_reducible apply mwf_wrParts_imp
    | (with_reducible apply Frame.step; with_reducible apply updPstream_frame)
    | (with_reducible apply Frame.step; with_reducible apply cxpTake_frame)
    | (with_reducible apply Frame.thread; (intro y e hy))
    | (with_reducible apply Frame.thread_fst; (intro y e hy))
    | (with_reducible apply Frame.thread_snd; (intro y e hy))
    | (with_reducible apply Frame.thread_trd; (intro y e hy))
    | with_reducible apply Frame.ite
    | split

theorem cxpStream_frame (s : State) (l x : Nat) (c : CxpPacket) (rx : Nat) : Frame 283931755679618 s (cxpStream s l x c rx) := by
  unfold cxpStream
  try dsimp only
  repeat' first
    | with_reducible assumption
    | with_reducible apply Frame.refl
    | ((with_reducible apply sub_of); exact Eq.refl true)
    | with_reducible apply Nat.le_succ
    | with_reducible apply mwf_wrBytes_imp
    | with_reducible apply mwf_filter_imp
    | with_reducible apply mwf_nil
    | with_reducible apply mwf_mupd_imp
    | with_reducible apply mwf_wrParts_imp
    | (with_reducible apply Frame.step; with_reducible apply updPstream_frame)
    | (with_reducible apply Frame.step; with_reducible apply cxpDrain_frame)
    | (with_reducible apply Frame.step; with_reducible apply cxpTake_frame)
    | with_reducible apply Frame.ite
    | split

theorem skewStream_frame (l : Nat) (s : State) (x : Nat) : Frame 283931755679618 s (skewStream l s x) := by
  unfold skewStream
  try dsimp only
  repeat' first
    | with_reducible assumption
    | with_reducible apply Frame.refl
    | ((with_reducible apply sub_of); exact Eq.refl true)
    | with_reducible apply Nat.le_succ
    | with_reducible apply mwf_wrBytes_imp
    | with_reducible apply mwf_filter_imp
    | with_reducible apply mwf_nil
    | with_reducible apply mwf_mupd_imp
    | with_reducible apply mwf_wrParts_imp
    | (with_reducible apply Frame.step; with_reducible apply updPstream_frame)
    | (with_reducible apply Frame.step; with_reducible apply cxpDrain_frame)
    | (with_reducible apply Frame.step; with_reducible apply cxpTake_frame)
    | (with_reducible apply Frame.step; with_reducible apply addF_frame)
    | with_reducible apply Frame.ite
    | split

theorem linkEvent_frame (s : State) (l code : Nat) : Frame 281475030192002 s (linkEvent s l code) := by
  unfold linkEvent
  try dsimp only
  repeat' first
    | with_reducible assumption
    | with_reducible apply Frame.refl
    | ((with_reducible apply sub_of); exact Eq.refl true)
    | with_reducible apply Nat.le_succ
    | with_reducible apply mwf_wrBytes_imp
    | with_reducible apply mwf_filter_imp
    | with_reducible apply mwf_nil
    | with_reducible apply mwf_mupd_imp
    | with_reducible apply mwf_wrParts_imp
    | (with_reducible apply Frame.step; with_reducible apply portEvent_frame)
    | (with_reducible apply Frame.step; with_reducible apply evSet_frame)
    | (with_reducible apply Frame.step; with_reducible apply cnt_frame)
    | (with_reducible apply Frame.thread; (intro y e hy))
    | (with_reducible apply Frame.thread_fst; (intro y e hy))
    | (with_reducible apply Frame.thread_snd; (intro y e hy))
    | (with_reducible apply Frame.thread_trd; (intro y e hy))
    | with_reducible apply Frame.ite
    | split

theorem dropLink_frame (s : State) (p : Nat) : Frame 283931755679618 s (dropLink s p) := by
  unfold dropLink
  try dsimp only
  repeat' first
    | with_reducible assumption
    | with_reducible apply Frame.refl
    | ((with_reducible apply sub_of); exact Eq.refl true)
    | with_reducible apply Nat.le_succ
    | with_reducible apply mwf_wrBytes_imp
    | with_reducible apply mwf_filter_imp
    | with_reducible apply mwf_nil
    | with_reducible apply mwf_mupd_imp
    | with_reducible apply mwf_wrParts_imp
    | (with_reducible apply Frame.step; with_reducible apply closeOldest_frame)
    | (with_reducible apply Frame.step; with_reducible apply updPstream_frame)
    | (with_reducible apply Frame.step; with_reducible apply cxpPartial_frame)
    | (with_reducible apply Frame.step; with_reducible apply linkEvent_frame)
    | (with_reducible apply Frame.step; with_reducible apply updPort_frame)
    | (with_reducible apply Frame.step; with_reducible apply addF_frame)
    | (with_reducible apply Frame.thread; (intro y e hy))
    | (with_reducible apply Frame.thread_fst; (intro y e hy))
    | (with_reducible apply Frame.thread_snd; (intro y e hy))
    | (with_reducible apply Frame.thread_trd; (intro y e hy))
    | with_reducible apply Frame.ite
    | split

end Sys2Proof.Machine
end

