-- ==== Sys2Proof/Laws/LineTimingFrames.lean ====
section
/-! SUPPORT. What each operation of Machine/LineTiming.lean can do to the state. -/

namespace Sys2Proof.Machine

set_option Elab.async false

theorem ltEvent_frame (s : State) (code src : Nat) (args : List Nat) : Frame 281475030192002 s (ltEvent s code src args) := by
  unfold ltEvent
  try dsimp only
  repeat' first
    | with_reducible assumption
    | with_reducible apply Frame.refl
    | ((with_reducible apply sub_of); exact Eq.refl true)
    | with_reducible apply Nat.le_succ
    | with_reducible apply mwf_wrBytes_imp
    | with_reducible apply mwf_filter_imp
    | with_reducible apply mwf_nil
    | with_reducible apply mwf_mupd_imp
    | with_reducible apply mwf_wrParts_imp
    | (with_reducible apply Frame.step; with_reducible apply postEvent_frame)
    | (with_reducible apply Frame.step; with_reducible apply evSet_frame)
    | with_reducible apply Frame.ite
    | split

theorem pulseRequest_frame (s : State) (t : Nat) : Frame 1099511627778 s (pulseRequest s t) := by
  unfold pulseRequest
  try dsimp only
  repeat' first
    | with_reducible assumption
    | with_reducible apply Frame.refl
    | ((with_reducible apply sub_of); exact Eq.refl true)
    | (with_reducible apply Frame.step; with_reducible apply updTrig_frame)
    | (with_reducible apply Frame.step; with_reducible apply addF_frame)
    | with_reducible apply Frame.ite
    | split

theorem requestAll_frame (s : State) (ts : List Nat) : Frame 1099511627778 s (requestAll s ts) := by
  unfold requestAll
  try dsimp only
  repeat' first
    | with_reducible assumption
    | with_reducible apply Frame.refl
    | ((with_reducible apply sub_of); exact Eq.refl true)
    | (with_reducible apply Frame.step; with_reducible apply pulseRequest_frame)
    | (with_reducible apply Frame.thread; (intro y e hy))
    | (with_reducible apply Frame.thread_fst; (intro y e hy))
    | (with_reducible apply Frame.thread_snd; (intro y e hy))
    | (with_reducible apply Frame.thread_trd; (intro y e hy))
    | with_reducible apply Frame.ite
    | split

theorem uplinkEdge_frame (s : State) (t : Nat) (level : Bool) : Frame 17179869186 s (uplinkEdge s t level) := by
  unfold uplinkEdge
  try dsimp only
  repeat' first
    | with_reducible assumption
    | with_reducible apply Frame.refl
    | ((with_reducible apply sub_of); exact Eq.refl true)
    | (with_reducible apply Frame.step; with_reducible apply updPort_frame)
    | (with_reducible apply Frame.step; with_reducible apply cntP_frame)
    | (with_reducible apply Frame.thread; (intro y e hy))
    | (with_reducible apply Frame.thread_fst; (intro y e hy))
    | (with_reducible apply Frame.thread_snd; (intro y e hy))
    | (with_reducible apply Frame.thread_trd; (intro y e hy))
    | with_reducible apply Frame.ite
    | split

theorem drive_frame (s : State) (t : Nat) (on : Bool) : Frame 65536 s (drive s t on) := by
  unfold drive
  try dsimp only
  repeat' first
    | with_reducible assumption
    | with_reducible apply Frame.refl
    | ((with_reducible apply sub_of); exact Eq.refl true)
    | (with_reducible apply Frame.step; with_reducible apply updPins_frame)
    | with_reducible apply Frame.ite
    | split

theorem stampLinks_frame (s : State) (t : Nat) : Frame 2199023255552 s (stampLinks s t) := by
  unfold stampLinks
  try dsimp only
  repeat' first
    | with_reducible assumption
    | with_reducible apply Frame.refl
    | ((with_reducible apply sub_of); exact Eq.refl true)
    | (with_reducible apply Frame.step; with_reducible apply updLink_frame)
    | (with_reducible apply Frame.thread; (intro y e hy))
    | (with_reducible apply Frame.thread_fst; (intro y e hy))
    | (with_reducible apply Frame.thread_snd; (intro y e hy))
    | (with_reducible apply Frame.thread_trd; (intro y e hy))
    | with_reducible apply Frame.ite
    | split

theorem motionTo_frame (s : State) (e : Nat) (m : Motion) (code : Nat) (args : List Nat) : Frame 282024786005890 s (motionTo s e m code args) := by
  unfold motionTo
  try dsimp only
  repeat' first
    | with_reducible assumption
    | with_reducible apply Frame.refl
    | ((with_reducible apply sub_of); exact Eq.refl true)
    | with_reducible apply Nat.le_succ
    | with_reducible apply mwf_wrBytes_imp
    | with_reducible apply mwf_filter_imp
    | with_reducible apply mwf_nil
    | with_reducible apply mwf_mupd_imp
    | with_reducible apply mwf_wrParts_imp
    | (with_reducible apply Frame.step; with_reducible apply ltEvent_frame)
    | (with_reducible apply Frame.step; with_reducible apply updEnc_frame)
    | with_reducible apply Frame.ite
    | split

theorem illegalEdge_frame (s : State) (e : Nat) (a b : Bool) : Frame 282024786005890 s (illegalEdge s e a b) := by
  unfold illegalEdge
  try dsimp only
  repeat' first
    | with_reducible assumption
    | with_reducible apply Frame.refl
    | ((with_reducible apply sub_of); exact Eq.refl true)
    | with_reducible apply Nat.le_succ
    | with_reducible apply mwf_wrBytes_imp
    | with_reducible apply mwf_filter_imp
    | with_reducible apply mwf_nil
    | with_reducible apply mwf_mupd_imp
    | with_reducible apply mwf_wrParts_imp
    | (with_reducible apply Frame.step; with_reducible apply ltEvent_frame)
    | (with_reducible apply Frame.step; with_reducible apply updEnc_frame)
    | (with_reducible apply Frame.step; with_reducible apply addF_frame)
    | (with_reducible apply Frame.step; with_reducible apply setF_frame)
    | with_reducible apply Frame.ite
    | split

theorem motionOf_frame (s : State) (e : Nat) (hwm : Int) : Frame 282024786005890 s (motionOf s e hwm) := by
  unfold motionOf
  try dsimp only
  repeat' first
    | with_reducible assumption
    | with_reducible apply Frame.refl
    | ((with_reducible apply sub_of); exact Eq.refl true)
    | with_reducible apply Nat.le_succ
    | with_reducible apply mwf_wrBytes_imp
    | with_reducible apply mwf_filter_imp
    | with_reducible apply mwf_nil
    | with_reducible apply mwf_mupd_imp
    | with_reducible apply mwf_wrParts_imp
    | (with_reducible apply Frame.step; with_reducible apply motionTo_frame)
    | with_reducible apply Frame.ite
    | split

theorem encAccept_frame (s : State) (e : Nat) (a b : Bool) : Frame 283124297633666 s (encAccept s e a b) := by
  unfold encAccept
  try dsimp only
  repeat' first
    | with_reducible assumption
    | with_reducible apply Frame.refl
    | ((with_reducible apply sub_of); exact Eq.refl true)
    | with_reducible apply Nat.le_succ
    | with_reducible apply mwf_wrBytes_imp
    | with_reducible apply mwf_filter_imp
    | with_reducible apply mwf_nil
    | with_reducible apply mwf_mupd_imp
    | with_reducible apply mwf_wrParts_imp
    | (with_reducible apply Frame.step; with_reducible apply illegalEdge_frame)
    | (with_reducible apply Frame.step; with_reducible apply requestAll_frame)
    | (with_reducible apply Frame.step; with_reducible apply motionOf_frame)
    | (with_reducible apply Frame.step; with_reducible apply updEnc_frame)
    | with_reducible apply Frame.ite
    | split

theorem encFilter_frame (s : State) (e : Nat) : Frame 283124297633666 s (encFilter s e) := by
  unfold encFilter
  try dsimp only
  repeat' first
    | with_reducible assumption
    | with_reducible apply Frame.refl
    | ((with_reducible apply sub_of); exact Eq.refl true)
    | with_reducible apply Nat.le_succ
    | with_reducible apply mwf_wrBytes_imp
    | with_reducible apply mwf_filter_imp
    | with_reducible apply mwf_nil
    | with_reducible apply mwf_mupd_imp
    | with_reducible apply mwf_wrParts_imp
    | (with_reducible apply Frame.step; with_reducible apply encAccept_frame)
    | with_reducible apply Frame.ite
    | split

theorem encSample_frame (s : State) (e : Nat) (a b : Bool) : Frame 549755879424 s (encSample s e a b) := by
  unfold encSample
  try dsimp only
  repeat' first
    | with_reducible assumption
    | with_reducible apply Frame.refl
    | ((with_reducible apply sub_of); exact Eq.refl true)
    | (with_reducible apply Frame.step; with_reducible apply updPins_frame)
    | (with_reducible apply Frame.step; with_reducible apply updEnc_frame)
    | with_reducible apply Frame.ite
    | split

theorem endOfStrip_frame (s : State) (e cause : Nat) : Frame 284464331624322 s (endOfStrip s e cause) := by
  unfold endOfStrip
  try dsimp only
  repeat' first
    | with_reducible assumption
    | with_reducible apply Frame.refl
    | ((with_reducible apply sub_of); exact Eq.refl true)
    | with_reducible apply Nat.le_succ
    | with_reducible apply mwf_wrBytes_imp
    | with_reducible apply mwf_filter_imp
    | with_reducible apply mwf_nil
    | with_reducible apply mwf_mupd_imp
    | with_reducible apply mwf_wrParts_imp
    | (with_reducible apply Frame.step; with_reducible apply flushStream_frame)
    | (with_reducible apply Frame.step; with_reducible apply motionTo_frame)
    | (with_reducible apply Frame.thread; (intro y e hy))
    | (with_reducible apply Frame.thread_fst; (intro y e hy))
    | (with_reducible apply Frame.thread_snd; (intro y e hy))
    | (with_reducible apply Frame.thread_trd; (intro y e hy))
    | with_reducible apply Frame.ite
    | split

theorem weldSeam_frame (s : State) (g x : Nat) : Frame 68719476736 s (weldSeam s g x) := by
  unfold weldSeam
  try dsimp only
  repeat' first
    | with_reducible assumption
    | with_reducible apply Frame.refl
    | ((with_reducible apply sub_of); exact Eq.refl true)
    | (with_reducible apply Frame.step; with_reducible apply updStream_frame)
    | with_reducible apply Frame.ite
    | split

theorem giEdge_frame (s : State) (g : Nat) (on : Bool) : Frame 285563843252098 s (giEdge s g on) := by
  unfold giEdge
  try dsimp only
  repeat' first
    | with_reducible assumption
    | with_reducible apply Frame.refl
    | ((with_reducible apply sub_of); exact Eq.refl true)
    | with_reducible apply Nat.le_succ
    | with_reducible apply mwf_wrBytes_imp
    | with_reducible apply mwf_filter_imp
    | with_reducible apply mwf_nil
    | with_reducible apply mwf_mupd_imp
    | with_reducible apply mwf_wrParts_imp
    | (with_reducible apply Frame.step; with_reducible apply requestAll_frame)
    | (with_reducible apply Frame.step; with_reducible apply endOfStrip_frame)
    | (with_reducible apply Frame.step; with_reducible apply weldSeam_frame)
    | (with_reducible apply Frame.step; with_reducible apply ltEvent_frame)
    | (with_reducible apply Frame.step; with_reducible apply setF_frame)
    | (with_reducible apply Frame.thread; (intro y e hy))
    | (with_reducible apply Frame.thread_fst; (intro y e hy))
    | (with_reducible apply Frame.thread_snd; (intro y e hy))
    | (with_reducible apply Frame.thread_trd; (intro y e hy))
    | with_reducible apply Frame.ite
    | split

theorem giFilter_frame (s : State) (g : Nat) : Frame 289961889763202 s (giFilter s g) := by
  unfold giFilter
  try dsimp only
  try simp only [put_giLevel_def]
  repeat' first
    | with_reducible assumption
    | with_reducible apply Frame.refl
    | ((with_reducible apply sub_of); exact Eq.refl true)
    | with_reducible apply Nat.le_succ
    | with_reducible apply mwf_wrBytes_imp
    | with_reducible apply mwf_filter_imp
    | with_reducible apply mwf_nil
    | with_reducible apply mwf_mupd_imp
    | with_reducible apply mwf_wrParts_imp
    | (with_reducible apply Frame.step; with_reducible apply giEdge_frame)
    | (with_reducible apply Frame.step; with_reducible apply put_giLevel_frame)
    | with_reducible apply Frame.ite
    | split

theorem giSample_frame (s : State) (g : Nat) (pin : Bool) : Frame 8796093087744 s (giSample s g pin) := by
  unfold giSample
  try dsimp only
  try simp only [put_giFrom_def]
  repeat' first
    | with_reducible assumption
    | with_reducible apply Frame.refl
    | ((with_reducible apply sub_of); exact Eq.refl true)
    | (with_reducible apply Frame.step; with_reducible apply updPins_frame)
    | (with_reducible apply Frame.step; with_reducible apply put_giFrom_frame)
    | with_reducible apply Frame.ite
    | split

theorem filterCycle_frame (s : State) : Frame 289961889763202 s (filterCycle s) := by
  unfold filterCycle
  try dsimp only
  repeat' first
    | with_reducible assumption
    | with_reducible apply Frame.refl
    | ((with_reducible apply sub_of); exact Eq.refl true)
    | with_reducible apply Nat.le_succ
    | with_reducible apply mwf_wrBytes_imp
    | with_reducible apply mwf_filter_imp
    | with_reducible apply mwf_nil
    | with_reducible apply mwf_mupd_imp
    | with_reducible apply mwf_wrParts_imp
    | (with_reducible apply Frame.step; with_reducible apply encFilter_frame)
    | (with_reducible apply Frame.step; with_reducible apply giFilter_frame)
    | (with_reducible apply Frame.thread; (intro y e hy))
    | (with_reducible apply Frame.thread_fst; (intro y e hy))
    | (with_reducible apply Frame.thread_snd; (intro y e hy))
    | (with_reducible apply Frame.thread_trd; (intro y e hy))
    | with_reducible apply Frame.ite
    | split

end Sys2Proof.Machine
end

