-- ==== Sys2Proof/Laws/JobOpsFrames.lean ====
section
/-! SUPPORT. What each operation of Machine/JobOps.lean can do to the state. -/

namespace Sys2Proof.Machine

set_option Elab.async false

theorem eligPass_frame (s : State) : Frame 8589934592 s (eligPass s) := by
  unfold eligPass
  try dsimp only
  repeat' first
    | with_reducible assumption
    | with_reducible apply Frame.refl
    | ((with_reducible apply sub_of); exact Eq.refl true)
    | (with_reducible apply Frame.step; with_reducible apply updJob_frame)
    | (with_reducible apply Frame.thread; (intro y e hy))
    | (with_reducible apply Frame.thread_fst; (intro y e hy))
    | (with_reducible apply Frame.thread_snd; (intro y e hy))
    | (with_reducible apply Frame.thread_trd; (intro y e hy))
    | with_reducible apply Frame.ite
    | split

theorem regenerate_frame (s : State) (id : JobId) : Frame 77309411328 s (regenerate s id) := by
  unfold regenerate
  try dsimp only
  repeat' first
    | with_reducible assumption
    | with_reducible apply Frame.refl
    | ((with_reducible apply sub_of); exact Eq.refl true)
    | (with_reducible apply Frame.step; with_reducible apply countAt_frame)
    | (with_reducible apply Frame.step; with_reducible apply updJob_frame)
    | with_reducible apply Frame.ite
    | split

theorem regenPass_frame (s : State) : Frame 77309411328 s (regenPass s) := by
  unfold regenPass
  try dsimp only
  repeat' first
    | with_reducible assumption
    | with_reducible apply Frame.refl
    | ((with_reducible apply sub_of); exact Eq.refl true)
    | (with_reducible apply Frame.step; with_reducible apply regenerate_frame)
    | (with_reducible apply Frame.thread; (intro y e hy))
    | (with_reducible apply Frame.thread_fst; (intro y e hy))
    | (with_reducible apply Frame.thread_snd; (intro y e hy))
    | (with_reducible apply Frame.thread_trd; (intro y e hy))
    | with_reducible apply Frame.ite
    | split

theorem bankPass_frame (s : State) : Frame 274877906944 s (bankPass s) := by
  unfold bankPass
  try dsimp only
  repeat' first
    | with_reducible assumption
    | with_reducible apply Frame.refl
    | ((with_reducible apply sub_of); exact Eq.refl true)
    | (with_reducible apply Frame.step; with_reducible apply updEngine_frame)
    | (with_reducible apply Frame.thread; (intro y e hy))
    | (with_reducible apply Frame.thread_fst; (intro y e hy))
    | (with_reducible apply Frame.thread_snd; (intro y e hy))
    | (with_reducible apply Frame.thread_trd; (intro y e hy))
    | with_reducible apply Frame.ite
    | split

theorem freePass_frame (s : State) : Frame 420906795008 s (freePass s) := by
  unfold freePass
  try dsimp only
  try simp only [put_jobs_def, put_stripes_def]
  repeat' first
    | with_reducible assumption
    | with_reducible apply Frame.refl
    | ((with_reducible apply sub_of); exact Eq.refl true)
    | (with_reducible apply Frame.step; with_reducible apply bankPass_frame)
    | (with_reducible apply Frame.step; with_reducible apply put_jobs_frame)
    | (with_reducible apply Frame.step; with_reducible apply put_stripes_frame)
    | (with_reducible apply Frame.thread; (intro y e hy))
    | (with_reducible apply Frame.thread_fst; (intro y e hy))
    | (with_reducible apply Frame.thread_snd; (intro y e hy))
    | (with_reducible apply Frame.thread_trd; (intro y e hy))
    | with_reducible apply Frame.ite
    | split

theorem creditPass_frame (s : State) : Frame 17592186044416 s (creditPass s) := by
  unfold creditPass
  try dsimp only
  repeat' first
    | with_reducible assumption
    | with_reducible apply Frame.refl
    | ((with_reducible apply sub_of); exact Eq.refl true)
    | (with_reducible apply Frame.step; with_reducible apply wakeTasks_frame)
    | with_reducible apply Frame.ite
    | split

theorem settle_frame (s : State) : Frame 299556808953730 s (settle s) := by
  unfold settle
  try dsimp only
  repeat' first
    | with_reducible assumption
    | with_reducible apply Frame.refl
    | ((with_reducible apply sub_of); exact Eq.refl true)
    | with_reducible apply Nat.le_succ
    | with_reducible apply mwf_wrBytes_imp
    | with_reducible apply mwf_filter_imp
    | with_reducible apply mwf_nil
    | with_reducible apply mwf_mupd_imp
    | with_reducible apply mwf_wrParts_imp
    | (with_reducible apply Frame.step; with_reducible apply writeWaiting_frame)
    | (with_reducible apply Frame.step; with_reducible apply creditPass_frame)
    | (with_reducible apply Frame.step; with_reducible apply regenPass_frame)
    | (with_reducible apply Frame.step; with_reducible apply freePass_frame)
    | (with_reducible apply Frame.step; with_reducible apply eligPass_frame)
    | (with_reducible apply Frame.thread; (intro y e hy))
    | (with_reducible apply Frame.thread_fst; (intro y e hy))
    | (with_reducible apply Frame.thread_snd; (intro y e hy))
    | (with_reducible apply Frame.thread_trd; (intro y e hy))
    | with_reducible apply Frame.ite
    | split

theorem dropJob_frame (s : State) (id : JobId) : Frame 8589934592 s (dropJob s id) := by
  unfold dropJob
  try dsimp only
  try simp only [put_jobs_def]
  repeat' first
    | with_reducible assumption
    | with_reducible apply Frame.refl
    | ((with_reducible apply sub_of); exact Eq.refl true)
    | (with_reducible apply Frame.step; with_reducible apply put_jobs_frame)
    | with_reducible apply Frame.ite
    | split

theorem addJob_frame (s : State) (j : Job) : Frame 8589934592 s (addJob s j) := by
  unfold addJob
  try dsimp only
  try simp only [put_jobs_def]
  repeat' first
    | with_reducible assumption
    | with_reducible apply Frame.refl
    | ((with_reducible apply sub_of); exact Eq.refl true)
    | (with_reducible apply Frame.step; with_reducible apply put_jobs_frame)
    | with_reducible apply Frame.ite
    | split

theorem createStripeJobs_frame (s : State) (x r g valid : Nat) : Frame 8589934592 s (createStripeJobs s x r g valid) := by
  unfold createStripeJobs
  try dsimp only
  repeat' first
    | with_reducible assumption
    | with_reducible apply Frame.refl
    | ((with_reducible apply sub_of); exact Eq.refl true)
    | (with_reducible apply Frame.step; with_reducible apply addJob_frame)
    | (with_reducible apply Frame.thread; (intro y e hy))
    | (with_reducible apply Frame.thread_fst; (intro y e hy))
    | (with_reducible apply Frame.thread_snd; (intro y e hy))
    | (with_reducible apply Frame.thread_trd; (intro y e hy))
    | with_reducible apply Frame.ite
    | split

theorem orderAbort_frame (s : State) (id : JobId) (cause : Nat) : Frame 8589934592 s (orderAbort s id cause) := by
  unfold orderAbort
  try dsimp only
  repeat' first
    | with_reducible assumption
    | with_reducible apply Frame.refl
    | ((with_reducible apply sub_of); exact Eq.refl true)
    | (with_reducible apply Frame.step; with_reducible apply updJob_frame)
    | with_reducible apply Frame.ite
    | split

theorem badInput_frame (s : State) (id : JobId) (addr : Nat) : Frame 281689778556802 s (badInput s id addr) := by
  unfold badInput
  try dsimp only
  repeat' first
    | with_reducible assumption
    | with_reducible apply Frame.refl
    | ((with_reducible apply sub_of); exact Eq.refl true)
    | with_reducible apply Nat.le_succ
    | with_reducible apply mwf_wrBytes_imp
    | with_reducible apply mwf_filter_imp
    | with_reducible apply mwf_nil
    | with_reducible apply mwf_mupd_imp
    | with_reducible apply mwf_wrParts_imp
    | (with_reducible apply Frame.step; with_reducible apply updStripe_frame)
    | (with_reducible apply Frame.step; with_reducible apply gapRecord_frame)
    | (with_reducible apply Frame.step; with_reducible apply updJob_frame)
    | with_reducible apply Frame.ite
    | split

theorem attemptFails_frame (s : State) (id : JobId) (r : Report) : Frame 8590983168 s (attemptFails s id r) := by
  unfold attemptFails
  try dsimp only
  repeat' first
    | with_reducible assumption
    | with_reducible apply Frame.refl
    | ((with_reducible apply sub_of); exact Eq.refl true)
    | (with_reducible apply Frame.step; with_reducible apply orderAbort_frame)
    | (with_reducible apply Frame.step; with_reducible apply report_frame)
    | with_reducible apply Frame.ite
    | split

theorem cntT_frame (s : State) (f : Fld) (t n : Nat) : Frame 2 s (cntT s f t n) := by
  unfold cntT
  try dsimp only
  repeat' first
    | with_reducible assumption
    | with_reducible apply Frame.refl
    | ((with_reducible apply sub_of); exact Eq.refl true)
    | (with_reducible apply Frame.step; with_reducible apply addF_frame)
    | with_reducible apply Frame.ite
    | split

theorem suspendJob_frame (s : State) (id : JobId) : Frame 8589934592 s (suspendJob s id) := by
  unfold suspendJob
  try dsimp only
  repeat' first
    | with_reducible assumption
    | with_reducible apply Frame.refl
    | ((with_reducible apply sub_of); exact Eq.refl true)
    | (with_reducible apply Frame.step; with_reducible apply updJob_frame)
    | with_reducible apply Frame.ite
    | split

theorem noteOut_frame (s : State) (id : JobId) (a n : Nat) : Frame 8589934592 s (noteOut s id a n) := by
  unfold noteOut
  try dsimp only
  repeat' first
    | with_reducible assumption
    | with_reducible apply Frame.refl
    | ((with_reducible apply sub_of); exact Eq.refl true)
    | (with_reducible apply Frame.step; with_reducible apply updJob_frame)
    | with_reducible apply Frame.ite
    | split

theorem evictPass_frame (s : State) (t : Nat) : Frame 17592186044416 s (evictPass s t) := by
  unfold evictPass
  try dsimp only
  repeat' first
    | with_reducible assumption
    | with_reducible apply Frame.refl
    | ((with_reducible apply sub_of); exact Eq.refl true)
    | (with_reducible apply Frame.step; with_reducible apply updTile_frame)
    | with_reducible apply Frame.ite
    | split

theorem freePlace_frame (s : State) (id : JobId) : Frame 17875653885952 s (freePlace s id) := by
  unfold freePlace
  try dsimp only
  repeat' first
    | with_reducible assumption
    | with_reducible apply Frame.refl
    | ((with_reducible apply sub_of); exact Eq.refl true)
    | (with_reducible apply Frame.step; with_reducible apply updEngine_frame)
    | (with_reducible apply Frame.step; with_reducible apply evictPass_frame)
    | (with_reducible apply Frame.step; with_reducible apply updTile_frame)
    | (with_reducible apply Frame.step; with_reducible apply updJob_frame)
    | with_reducible apply Frame.ite
    | split

theorem jobAdds_frame (s : State) (id : JobId) (n v : Nat) : Frame 369446832050050 s (jobAdds s id n v) := by
  unfold jobAdds
  try dsimp only
  repeat' first
    | with_reducible assumption
    | with_reducible apply Frame.refl
    | ((with_reducible apply sub_of); exact Eq.refl true)
    | with_reducible apply Nat.le_succ
    | with_reducible apply mwf_wrBytes_imp
    | with_reducible apply mwf_filter_imp
    | with_reducible apply mwf_nil
    | with_reducible apply mwf_mupd_imp
    | with_reducible apply mwf_wrParts_imp
    | (with_reducible apply Frame.step; with_reducible apply updJob_frame)
    | (with_reducible apply Frame.step; with_reducible apply addObj_frame)
    | with_reducible apply Frame.ite
    | split

theorem slotJudgeBy_frame (s : State) (t : Nat) (ends : List QEnd) (id : JobId) (rep : Report) (acc : List (Nat × Nat × Bool)) : Frame 8590983170 s (slotJudgeBy s t ends id rep acc) := by
  unfold slotJudgeBy
  try dsimp only
  repeat' first
    | with_reducible assumption
    | with_reducible apply Frame.refl
    | ((with_reducible apply sub_of); exact Eq.refl true)
    | (with_reducible apply Frame.step; with_reducible apply attemptFails_frame)
    | (with_reducible apply Frame.step; with_reducible apply orderAbort_frame)
    | (with_reducible apply Frame.step; with_reducible apply cntT_frame)
    | (with_reducible apply Frame.thread; (intro y e hy))
    | (with_reducible apply Frame.thread_fst; (intro y e hy))
    | (with_reducible apply Frame.thread_snd; (intro y e hy))
    | (with_reducible apply Frame.thread_trd; (intro y e hy))
    | with_reducible apply Frame.ite
    | split

theorem slotJudge_frame (s : State) (t : Nat) (id : JobId) (rep : Report) (acc : List (Nat × Nat × Bool)) : Frame 8590983170 s (slotJudge s t id rep acc) := by
  unfold slotJudge
  try dsimp only
  repeat' first
    | with_reducible assumption
    | with_reducible apply Frame.refl
    | ((with_reducible apply sub_of); exact Eq.refl true)
    | (with_reducible apply Frame.step; with_reducible apply slotJudgeBy_frame)
    | with_reducible apply Frame.ite
    | split

theorem unitJudge_frame (s : State) (ends : List QEnd) (id : JobId) (acc : List (Nat × Nat × Bool)) : Frame 8590983170 s (unitJudge s ends id acc) := by
  unfold unitJudge
  try dsimp only
  repeat' first
    | with_reducible assumption
    | with_reducible apply Frame.refl
    | ((with_reducible apply sub_of); exact Eq.refl true)
    | (with_reducible apply Frame.step; with_reducible apply slotJudgeBy_frame)
    | (with_reducible apply Frame.thread; (intro y e hy))
    | (with_reducible apply Frame.thread_fst; (intro y e hy))
    | (with_reducible apply Frame.thread_snd; (intro y e hy))
    | (with_reducible apply Frame.thread_trd; (intro y e hy))
    | with_reducible apply Frame.ite
    | split

theorem streamJudge_frame (s : State) (e c : Nat) (acc : List (Nat × Nat × Bool)) : Frame 8590983170 s (streamJudge s e c acc) := by
  unfold streamJudge
  try dsimp only
  repeat' first
    | with_reducible assumption
    | with_reducible apply Frame.refl
    | ((with_reducible apply sub_of); exact Eq.refl true)
    | (with_reducible apply Frame.step; with_reducible apply unitJudge_frame)
    | with_reducible apply Frame.ite
    | split

end Sys2Proof.Machine
end

