-- ==== Sys2Proof/Laws/PeerOpsFrames.lean ====
section
/-! SUPPORT. What each operation of Machine/PeerOps.lean can do to the state. -/

namespace Sys2Proof.Machine

set_option Elab.async false

theorem stageRecord_frame (s : State) (k : StageRec) : Frame 281475265073026 s (stageRecord s k) := by
  unfold stageRecord
  try dsimp only
  try simp only [put_stage_def]
  repeat' first
    | with_reducible assumption
    | with_reducible apply Frame.refl
    | ((with_reducible apply sub_of); exact Eq.refl true)
    | with_reducible apply Nat.le_succ
    | with_reducible apply mwf_wrBytes_imp
    | with_reducible apply mwf_filter_imp
    | with_reducible apply mwf_nil
    | with_reducible apply mwf_mupd_imp
    | with_reducible apply mwf_wrParts_imp
    | (with_reducible apply Frame.step; with_reducible apply devPut_frame)
    | (with_reducible apply Frame.step; with_reducible apply cnt_frame)
    | (with_reducible apply Frame.step; with_reducible apply put_stage_frame)
    | with_reducible apply Frame.ite
    | split

theorem mergeToken_frame (s : State) (k : Token) : Frame 1424967357960066 s (mergeToken s k) := by
  unfold mergeToken
  try dsimp only
  repeat' first
    | with_reducible assumption
    | with_reducible apply Frame.refl
    | ((with_reducible apply sub_of); exact Eq.refl true)
    | with_reducible apply Nat.le_succ
    | with_reducible apply mwf_wrBytes_imp
    | with_reducible apply mwf_filter_imp
    | with_reducible apply mwf_nil
    | with_reducible apply mwf_mupd_imp
    | with_reducible apply mwf_wrParts_imp
    | (with_reducible apply Frame.step; with_reducible apply stageRecord_frame)
    | (with_reducible apply Frame.step; with_reducible apply creditPass_frame)
    | (with_reducible apply Frame.step; with_reducible apply updPm_frame)
    | (with_reducible apply Frame.step; with_reducible apply cnt_frame)
    | with_reducible apply Frame.ite
    | split

theorem takeResult_frame (s : State) (id : BitVec 128) (expert rank : Nat) (block : List Byte) : Frame 1424967357960066 s (takeResult s id expert rank block) := by
  unfold takeResult
  try dsimp only
  repeat' first
    | with_reducible assumption
    | with_reducible apply Frame.refl
    | ((with_reducible apply sub_of); exact Eq.refl true)
    | with_reducible apply Nat.le_succ
    | with_reducible apply mwf_wrBytes_imp
    | with_reducible apply mwf_filter_imp
    | with_reducible apply mwf_nil
    | with_reducible apply mwf_mupd_imp
    | with_reducible apply mwf_wrParts_imp
    | (with_reducible apply Frame.step; with_reducible apply mergeToken_frame)
    | (with_reducible apply Frame.step; with_reducible apply updPm_frame)
    | (with_reducible apply Frame.step; with_reducible apply cnt_frame)
    | with_reducible apply Frame.ite
    | split

theorem updBatch_frame (s : State) (e : Nat) (f : Batch → Batch) : Frame 1125899906842624 s (updBatch s e f) := by
  unfold updBatch
  try dsimp only
  repeat' first
    | with_reducible assumption
    | with_reducible apply Frame.refl
    | ((with_reducible apply sub_of); exact Eq.refl true)
    | (with_reducible apply Frame.step; with_reducible apply updPm_frame)
    | with_reducible apply Frame.ite
    | split

theorem closeBatch_frame (s : State) (e : Nat) : Frame 1407383493414786 s (closeBatch s e) := by
  unfold closeBatch
  try dsimp only
  repeat' first
    | with_reducible assumption
    | with_reducible apply Frame.refl
    | ((with_reducible apply sub_of); exact Eq.refl true)
    | with_reducible apply Nat.le_succ
    | with_reducible apply mwf_wrBytes_imp
    | with_reducible apply mwf_filter_imp
    | with_reducible apply mwf_nil
    | with_reducible apply mwf_mupd_imp
    | with_reducible apply mwf_wrParts_imp
    | (with_reducible apply Frame.step; with_reducible apply updBatch_frame)
    | (with_reducible apply Frame.step; with_reducible apply eligPass_frame)
    | (with_reducible apply Frame.step; with_reducible apply addJob_frame)
    | (with_reducible apply Frame.step; with_reducible apply devPut_frame)
    | (with_reducible apply Frame.step; with_reducible apply updPm_frame)
    | with_reducible apply Frame.ite
    | split

theorem joinBatch_frame (s : State) (k : RxToken) : Frame 1407383493414786 s (joinBatch s k) := by
  unfold joinBatch
  try dsimp only
  repeat' first
    | with_reducible assumption
    | with_reducible apply Frame.refl
    | ((with_reducible apply sub_of); exact Eq.refl true)
    | with_reducible apply Nat.le_succ
    | with_reducible apply mwf_wrBytes_imp
    | with_reducible apply mwf_filter_imp
    | with_reducible apply mwf_nil
    | with_reducible apply mwf_mupd_imp
    | with_reducible apply mwf_wrParts_imp
    | (with_reducible apply Frame.step; with_reducible apply closeBatch_frame)
    | (with_reducible apply Frame.step; with_reducible apply updBatch_frame)
    | (with_reducible apply Frame.step; with_reducible apply updPm_frame)
    | with_reducible apply Frame.ite
    | split

theorem sendRoute_frame (s : State) (id : BitVec 128) (rank : Nat) : Frame 1407383493414786 s (sendRoute s id rank) := by
  unfold sendRoute
  try dsimp only
  repeat' first
    | with_reducible assumption
    | with_reducible apply Frame.refl
    | ((with_reducible apply sub_of); exact Eq.refl true)
    | with_reducible apply Nat.le_succ
    | with_reducible apply mwf_wrBytes_imp
    | with_reducible apply mwf_filter_imp
    | with_reducible apply mwf_nil
    | with_reducible apply mwf_mupd_imp
    | with_reducible apply mwf_wrParts_imp
    | (with_reducible apply Frame.step; with_reducible apply joinBatch_frame)
    | (with_reducible apply Frame.step; with_reducible apply updPm_frame)
    | with_reducible apply Frame.ite
    | split

theorem passToken_frame (s : State) (p r : Nat) (bytes : List Byte) : Frame 1424975947894658 s (passToken s p r bytes) := by
  unfold passToken
  try dsimp only
  repeat' first
    | with_reducible assumption
    | with_reducible apply Frame.refl
    | ((with_reducible apply sub_of); exact Eq.refl true)
    | with_reducible apply Nat.le_succ
    | with_reducible apply mwf_wrBytes_imp
    | with_reducible apply mwf_filter_imp
    | with_reducible apply mwf_nil
    | with_reducible apply mwf_mupd_imp
    | with_reducible apply mwf_wrParts_imp
    | (with_reducible apply Frame.step; with_reducible apply mergeToken_frame)
    | (with_reducible apply Frame.step; with_reducible apply sendRoute_frame)
    | (with_reducible apply Frame.step; with_reducible apply devPut_frame)
    | (with_reducible apply Frame.step; with_reducible apply updPm_frame)
    | (with_reducible apply Frame.step; with_reducible apply addF_frame)
    | (with_reducible apply Frame.thread; (intro y e hy))
    | (with_reducible apply Frame.thread_fst; (intro y e hy))
    | (with_reducible apply Frame.thread_snd; (intro y e hy))
    | (with_reducible apply Frame.thread_trd; (intro y e hy))
    | with_reducible apply Frame.ite
    | split

theorem answerToken_frame (s : State) (job : JobId) (id : BitVec 128) (block : List Byte) : Frame 1424967357960066 s (answerToken s job id block) := by
  unfold answerToken
  try dsimp only
  repeat' first
    | with_reducible assumption
    | with_reducible apply Frame.refl
    | ((with_reducible apply sub_of); exact Eq.refl true)
    | with_reducible apply Nat.le_succ
    | with_reducible apply mwf_wrBytes_imp
    | with_reducible apply mwf_filter_imp
    | with_reducible apply mwf_nil
    | with_reducible apply mwf_mupd_imp
    | with_reducible apply mwf_wrParts_imp
    | (with_reducible apply Frame.step; with_reducible apply takeResult_frame)
    | (with_reducible apply Frame.step; with_reducible apply updPm_frame)
    | (with_reducible apply Frame.step; with_reducible apply cnt_frame)
    | with_reducible apply Frame.ite
    | split

theorem freeMsg_frame (s : State) (w pos : Nat) : Frame 1125899906842624 s (freeMsg s w pos) := by
  unfold freeMsg
  try dsimp only
  repeat' first
    | with_reducible assumption
    | with_reducible apply Frame.refl
    | ((with_reducible apply sub_of); exact Eq.refl true)
    | (with_reducible apply Frame.step; with_reducible apply updWin_frame)
    | with_reducible apply Frame.ite
    | split

theorem dropRx_frame (s : State) (k : RxToken) : Frame 1125899906842624 s (dropRx s k) := by
  unfold dropRx
  try dsimp only
  repeat' first
    | with_reducible assumption
    | with_reducible apply Frame.refl
    | ((with_reducible apply sub_of); exact Eq.refl true)
    | (with_reducible apply Frame.step; with_reducible apply freeMsg_frame)
    | (with_reducible apply Frame.step; with_reducible apply updPm_frame)
    | with_reducible apply Frame.ite
    | split

end Sys2Proof.Machine
end

