-- ==== Sys2Proof/Laws/FlashFrames.lean ====
section
/-! SUPPORT. What each operation of Machine/Flash.lean can do to the state. -/

namespace Sys2Proof.Machine

set_option Elab.async false

theorem flashPut_frame (s : State) (off : Nat) (bs : List Byte) : Frame 262144 s (flashPut s off bs) := by
  unfold flashPut
  try dsimp only
  repeat' first
    | with_reducible assumption
    | with_reducible apply Frame.refl
    | ((with_reducible apply sub_of); exact Eq.refl true)
    | (with_reducible apply Frame.step; with_reducible apply updSec_frame)
    | with_reducible apply Frame.ite
    | split

theorem flashErase_frame (s : State) (off n : Nat) : Frame 262144 s (flashErase s off n) := by
  unfold flashErase
  try dsimp only
  repeat' first
    | with_reducible assumption
    | with_reducible apply Frame.refl
    | ((with_reducible apply sub_of); exact Eq.refl true)
    | (with_reducible apply Frame.step; with_reducible apply updSec_frame)
    | with_reducible apply Frame.ite
    | split

theorem flashQueue_frame (s : State) (op off : Nat) (bs : List Byte) : Frame 262144 s (flashQueue s op off bs) := by
  unfold flashQueue
  try dsimp only
  repeat' first
    | with_reducible assumption
    | with_reducible apply Frame.refl
    | ((with_reducible apply sub_of); exact Eq.refl true)
    | (with_reducible apply Frame.step; with_reducible apply updSec_frame)
    | with_reducible apply Frame.ite
    | split

theorem logQueue_frame (s : State) (entry : Nat) (payload : List Byte) : Frame 262144 s (logQueue s entry payload) := by
  unfold logQueue
  try dsimp only
  repeat' first
    | with_reducible assumption
    | with_reducible apply Frame.refl
    | ((with_reducible apply sub_of); exact Eq.refl true)
    | (with_reducible apply Frame.step; with_reducible apply updSec_frame)
    | with_reducible apply Frame.ite
    | split

theorem putEntry_frame (s : State) (type : Nat) (payload : List Byte) : Frame 262144 s (putEntry s type payload) := by
  unfold putEntry
  try dsimp only
  repeat' first
    | with_reducible assumption
    | with_reducible apply Frame.refl
    | ((with_reducible apply sub_of); exact Eq.refl true)
    | (with_reducible apply Frame.step; with_reducible apply flashPut_frame)
    | (with_reducible apply Frame.step; with_reducible apply updSec_frame)
    | with_reducible apply Frame.ite
    | split

theorem openSector_frame (s : State) : Frame 262146 s (openSector s) := by
  unfold openSector
  try dsimp only
  repeat' first
    | with_reducible assumption
    | with_reducible apply Frame.refl
    | ((with_reducible apply sub_of); exact Eq.refl true)
    | (with_reducible apply Frame.step; with_reducible apply flashErase_frame)
    | (with_reducible apply Frame.step; with_reducible apply flashPut_frame)
    | (with_reducible apply Frame.step; with_reducible apply putEntry_frame)
    | (with_reducible apply Frame.step; with_reducible apply updSec_frame)
    | (with_reducible apply Frame.step; with_reducible apply setF_frame)
    | with_reducible apply Frame.ite
    | split

theorem appendLog_frame (s : State) (type : Nat) (payload : List Byte) : Frame 262146 s (appendLog s type payload) := by
  unfold appendLog
  try dsimp only
  repeat' first
    | with_reducible assumption
    | with_reducible apply Frame.refl
    | ((with_reducible apply sub_of); exact Eq.refl true)
    | (with_reducible apply Frame.step; with_reducible apply openSector_frame)
    | (with_reducible apply Frame.step; with_reducible apply putEntry_frame)
    | with_reducible apply Frame.ite
    | split

theorem resumeLog_frame (s : State) : Frame 262146 s (resumeLog s) := by
  unfold resumeLog
  try dsimp only
  repeat' first
    | with_reducible assumption
    | with_reducible apply Frame.refl
    | ((with_reducible apply sub_of); exact Eq.refl true)
    | (with_reducible apply Frame.step; with_reducible apply updSec_frame)
    | (with_reducible apply Frame.step; with_reducible apply setF_frame)
    | (with_reducible apply Frame.foldl; (intro y e hy))
    | (with_reducible apply Frame.foldl_fst; (intro y e hy))
    | (with_reducible apply Frame.foldl_snd; (intro y e hy))
    | with_reducible apply Frame.ite
    | split

theorem secDone_frame (s : State) (status : Nat) : Frame 262146 s (secDone s status) := by
  unfold secDone
  try dsimp only
  repeat' first
    | with_reducible assumption
    | with_reducible apply Frame.refl
    | ((with_reducible apply sub_of); exact Eq.refl true)
    | (with_reducible apply Frame.step; with_reducible apply updSec_frame)
    | (with_reducible apply Frame.step; with_reducible apply setF_frame)
    | with_reducible apply Frame.ite
    | split

theorem bootRecord_frame (s : State) (stage : Nat) (fail : Option Nat) (fromNs : Nat) (us : Nat) (d : List Nat) : Frame 262146 s (bootRecord s stage fail fromNs us d) := by
  unfold bootRecord
  try dsimp only
  repeat' first
    | with_reducible assumption
    | with_reducible apply Frame.refl
    | ((with_reducible apply sub_of); exact Eq.refl true)
    | (with_reducible apply Frame.step; with_reducible apply logQueue_frame)
    | (with_reducible apply Frame.step; with_reducible apply setF_frame)
    | (with_reducible apply Frame.thread; (intro y e hy))
    | (with_reducible apply Frame.thread_fst; (intro y e hy))
    | (with_reducible apply Frame.thread_snd; (intro y e hy))
    | (with_reducible apply Frame.thread_trd; (intro y e hy))
    | with_reducible apply Frame.ite
    | split

theorem deviceReset_frame (s : State) (cause faultCause : Nat) (hold : Hold) :
    Frame 4503599627370494 s (deviceReset s cause faultCause hold) :=
  ⟨fun p hp => by cases p <;> first | rfl | exact absurd hp (by decide), fun h => ⟨rfl, h.2.1, rfl, rfl, rfl⟩, Nat.le_refl _⟩

theorem writeRepair_frame (s : State) (es : List (Nat × Nat × Nat × Nat)) : Frame 262144 s (writeRepair s es) := by
  unfold writeRepair
  try dsimp only
  repeat' first
    | with_reducible assumption
    | with_reducible apply Frame.refl
    | ((with_reducible apply sub_of); exact Eq.refl true)
    | (with_reducible apply Frame.step; with_reducible apply flashQueue_frame)
    | with_reducible apply Frame.ite
    | split

end Sys2Proof.Machine
end

