-- ==== Sys2Proof/Laws/BoundaryFrames.lean ====
section
/-! SUPPORT. What each operation of Machine/Boundary.lean can do to the state. -/

namespace Sys2Proof.Machine

set_option Elab.async false

theorem cntB_frame (s : State) (f : Fld) (b n : Nat) : Frame 2 s (cntB s f b n) := by
  unfold cntB
  try dsimp only
  repeat' first
    | with_reducible assumption
    | with_reducible apply Frame.refl
    | ((with_reducible apply sub_of); exact Eq.refl true)
    | (with_reducible apply Frame.step; with_reducible apply addF_frame)
    | with_reducible apply Frame.ite
    | split

theorem readImage_frame (s : State) (a n : Nat) : Frame 281474979856514 s (readImage s a n).2.2 := by
  unfold readImage
  try dsimp only
  repeat' first
    | with_reducible assumption
    | with_reducible apply Frame.refl
    | ((with_reducible apply sub_of); exact Eq.refl true)
    | with_reducible apply Nat.le_succ
    | (with_reducible apply Frame.step; with_reducible apply devRead_frame)
    | (with_reducible apply Frame.step; with_reducible apply Frame.snd; with_reducible assumption; with_reducible apply devRead_frame)
    | with_reducible apply Frame.ite
    | split

theorem loadErr_frame (s : State) (b : Nat) : Frame 2097154 s (loadErr s b) := by
  unfold loadErr
  try dsimp only
  repeat' first
    | with_reducible assumption
    | with_reducible apply Frame.refl
    | ((with_reducible apply sub_of); exact Eq.refl true)
    | (with_reducible apply Frame.step; with_reducible apply evSet_frame)
    | (with_reducible apply Frame.step; with_reducible apply setF_frame)
    | with_reducible apply Frame.ite
    | split

theorem swapBanks_frame (s : State) (b row : Nat) : Frame 281749908098946 s (swapBanks s b row) := by
  unfold swapBanks
  try dsimp only
  repeat' first
    | with_reducible assumption
    | with_reducible apply Frame.refl
    | ((with_reducible apply sub_of); exact Eq.refl true)
    | with_reducible apply Nat.le_succ
    | with_reducible apply mwf_wrBytes_imp
    | with_reducible apply mwf_filter_imp
    | with_reducible apply mwf_nil
    | with_reducible apply mwf_mupd_imp
    | with_reducible apply mwf_wrParts_imp
    | (with_reducible apply Frame.step; with_reducible apply streamEvent_frame)
    | (with_reducible apply Frame.step; with_reducible apply updEngine_frame)
    | (with_reducible apply Frame.step; with_reducible apply bankPass_frame)
    | (with_reducible apply Frame.step; with_reducible apply loadErr_frame)
    | with_reducible apply Frame.ite
    | split

theorem appliedEvent_frame (s : State) (b line : Nat) : Frame 281475030192002 s (appliedEvent s b line) := by
  unfold appliedEvent
  try dsimp only
  repeat' first
    | with_reducible assumption
    | with_reducible apply Frame.refl
    | ((with_reducible apply sub_of); exact Eq.refl true)
    | with_reducible apply Nat.le_succ
    | with_reducible apply mwf_wrBytes_imp
    | with_reducible apply mwf_filter_imp
    | with_reducible apply mwf_nil
    | with_reducible apply mwf_mupd_imp
    | with_reducible apply mwf_wrParts_imp
    | (with_reducible apply Frame.step; with_reducible apply streamEvent_frame)
    | with_reducible apply Frame.ite
    | split

theorem reloadEntries_frame (s : State) (b : Nat) (old : Bool) (col : Nat) (t : State) (h : reloadEntries s b old col = some t) : Frame 281749857763458 s t := by
  unfold reloadEntries at h
  dsimp only at h
  split at h
  · cases h
  · cases h
    exact Frame.step (updEngine_frame ..) rfl (Frame.step (readImage_frame ..) rfl (Frame.refl _))

theorem readStripe_frame (s : State) (k : Stripe) (id : JobId) : Frame 281474979856514 s (readStripe s k id).2.2 := by
  unfold readStripe
  try dsimp only
  repeat' first
    | with_reducible assumption
    | with_reducible apply Frame.refl
    | ((with_reducible apply sub_of); exact Eq.refl true)
    | with_reducible apply Nat.le_succ
    | (with_reducible apply Frame.step; with_reducible apply devRead_frame)
    | (with_reducible apply Frame.step; with_reducible apply Frame.snd; with_reducible assumption; with_reducible apply devRead_frame)
    | with_reducible apply Frame.ite
    | split

theorem engineTake_frame (s : State) (j : Job) (t : Template) : Frame 17605070946306 s (engineTake s j t) := by
  unfold engineTake
  try dsimp only
  repeat' first
    | with_reducible assumption
    | with_reducible apply Frame.refl
    | ((with_reducible apply sub_of); exact Eq.refl true)
    | (with_reducible apply Frame.step; with_reducible apply putQueue_frame)
    | (with_reducible apply Frame.step; with_reducible apply cnt_frame)
    | (with_reducible apply Frame.thread; (intro y e hy))
    | (with_reducible apply Frame.thread_fst; (intro y e hy))
    | (with_reducible apply Frame.thread_snd; (intro y e hy))
    | (with_reducible apply Frame.thread_trd; (intro y e hy))
    | with_reducible apply Frame.ite
    | split

theorem engineGive_frame (s : State) (j : Job) (t : Template) : Frame 369451127017346 s (engineGive s j t) := by
  unfold engineGive
  try dsimp only
  repeat' first
    | with_reducible assumption
    | with_reducible apply Frame.refl
    | ((with_reducible apply sub_of); exact Eq.refl true)
    | with_reducible apply Nat.le_succ
    | with_reducible apply mwf_wrBytes_imp
    | with_reducible apply mwf_filter_imp
    | with_reducible apply mwf_nil
    | with_reducible apply mwf_mupd_imp
    | with_reducible apply mwf_wrParts_imp
    | (with_reducible apply Frame.step; with_reducible apply publishHalo_frame)
    | (with_reducible apply Frame.step; with_reducible apply putQueue_frame)
    | (with_reducible apply Frame.step; with_reducible apply cnt_frame)
    | (with_reducible apply Frame.thread; (intro y e hy))
    | (with_reducible apply Frame.thread_fst; (intro y e hy))
    | (with_reducible apply Frame.thread_snd; (intro y e hy))
    | (with_reducible apply Frame.thread_trd; (intro y e hy))
    | with_reducible apply Frame.ite
    | split

theorem runFirst_frame (s : State) (j : Job) (t : Template) (f : FirstLayer) (b : Nat) : Frame 281483586572162 s (runFirst s j t f b).1 := by
  unfold runFirst
  try dsimp only
  repeat' first
    | with_reducible assumption
    | with_reducible apply Frame.refl
    | ((with_reducible apply sub_of); exact Eq.refl true)
    | with_reducible apply Nat.le_succ
    | with_reducible apply mwf_wrBytes_imp
    | with_reducible apply mwf_filter_imp
    | with_reducible apply mwf_nil
    | with_reducible apply mwf_mupd_imp
    | with_reducible apply mwf_wrParts_imp
    | (with_reducible apply Frame.step; with_reducible apply readStripe_frame)
    | (with_reducible apply Frame.step; with_reducible apply Frame.trd; with_reducible assumption; with_reducible apply readStripe_frame)
    | (with_reducible apply Frame.step; with_reducible apply unitJudge_frame)
    | (with_reducible apply Frame.step; with_reducible apply noteOut_frame)
    | (with_reducible apply Frame.step; with_reducible apply devPut_frame)
    | (with_reducible apply Frame.step; with_reducible apply updJob_frame)
    | (with_reducible apply Frame.step; with_reducible apply cntB_frame)
    | (with_reducible apply Frame.thread; (intro y e hy))
    | (with_reducible apply Frame.thread_fst; (intro y e hy))
    | (with_reducible apply Frame.thread_snd; (intro y e hy))
    | (with_reducible apply Frame.thread_trd; (intro y e hy))
    | with_reducible apply Frame.ite
    | split

theorem runLast_frame (s : State) (j : Job) (t : Template) (l : LastLayer) : Frame 281483586572162 s (runLast s j t l).1 := by
  unfold runLast
  try dsimp only
  repeat' first
    | with_reducible assumption
    | with_reducible apply Frame.refl
    | ((with_reducible apply sub_of); exact Eq.refl true)
    | with_reducible apply Nat.le_succ
    | with_reducible apply mwf_wrBytes_imp
    | with_reducible apply mwf_filter_imp
    | with_reducible apply mwf_nil
    | with_reducible apply mwf_mupd_imp
    | with_reducible apply mwf_wrParts_imp
    | (with_reducible apply Frame.step; with_reducible apply unitJudge_frame)
    | (with_reducible apply Frame.step; with_reducible apply devRead_frame)
    | (with_reducible apply Frame.step; with_reducible apply Frame.snd; with_reducible assumption; with_reducible apply devRead_frame)
    | (with_reducible apply Frame.step; with_reducible apply noteOut_frame)
    | (with_reducible apply Frame.step; with_reducible apply devPut_frame)
    | (with_reducible apply Frame.step; with_reducible apply updJob_frame)
    | (with_reducible apply Frame.thread; (intro y e hy))
    | (with_reducible apply Frame.thread_fst; (intro y e hy))
    | (with_reducible apply Frame.thread_snd; (intro y e hy))
    | (with_reducible apply Frame.thread_trd; (intro y e hy))
    | (with_reducible apply Frame.foldl; (intro y e hy))
    | (with_reducible apply Frame.foldl_fst; (intro y e hy))
    | (with_reducible apply Frame.foldl_snd; (intro y e hy))
    | with_reducible apply Frame.ite
    | split

theorem engineRun_frame (s : State) (j : Job) (t : Template) (b : Nat) : Frame 369451127017346 s (engineRun s j t b).1 := by
  unfold engineRun
  try dsimp only
  repeat' first
    | with_reducible assumption
    | with_reducible apply Frame.refl
    | ((with_reducible apply sub_of); exact Eq.refl true)
    | with_reducible apply Nat.le_succ
    | with_reducible apply mwf_wrBytes_imp
    | with_reducible apply mwf_filter_imp
    | with_reducible apply mwf_nil
    | with_reducible apply mwf_mupd_imp
    | with_reducible apply mwf_wrParts_imp
    | (with_reducible apply Frame.step; with_reducible apply engineTake_frame)
    | (with_reducible apply Frame.step; with_reducible apply engineGive_frame)
    | (with_reducible apply Frame.step; with_reducible apply runFirst_frame)
    | (with_reducible apply Frame.step; with_reducible apply Frame.fst; with_reducible assumption; with_reducible apply runFirst_frame)
    | (with_reducible apply Frame.step; with_reducible apply runLast_frame)
    | (with_reducible apply Frame.step; with_reducible apply Frame.fst; with_reducible assumption; with_reducible apply runLast_frame)
    | with_reducible apply Frame.ite
    | split

end Sys2Proof.Machine
end

