-- ==== Sys2Proof/Laws/StreamEnginesFrames.lean ====
section
/-! SUPPORT. What each operation of Machine/StreamEngines.lean can do to the state. -/

namespace Sys2Proof.Machine

set_option Elab.async false

theorem cntE_frame (s : State) (f : Fld) (e n : Nat) : Frame 2 s (cntE s f e n) := by
  unfold cntE
  try dsimp only
  repeat' first
    | with_reducible assumption
    | with_reducible apply Frame.refl
    | ((with_reducible apply sub_of); exact Eq.refl true)
    | (with_reducible apply Frame.step; with_reducible apply addF_frame)
    | with_reducible apply Frame.ite
    | split

theorem endFill_frame (s : State) (t e : Nat) (ok : Bool) : Frame 17592186044416 s (endFill s t e ok) := by
  unfold endFill
  try dsimp only
  repeat' first
    | with_reducible assumption
    | with_reducible apply Frame.refl
    | ((with_reducible apply sub_of); exact Eq.refl true)
    | (with_reducible apply Frame.step; with_reducible apply wakeTasks_frame)
    | (with_reducible apply Frame.step; with_reducible apply updHandle_frame)
    | with_reducible apply Frame.ite
    | split

theorem beginFill_frame (s : State) (t e : Nat) (stream : Bool) (tag : Nat) : Frame 17592186044416 s (beginFill s t e stream tag) := by
  unfold beginFill
  try dsimp only
  repeat' first
    | with_reducible assumption
    | with_reducible apply Frame.refl
    | ((with_reducible apply sub_of); exact Eq.refl true)
    | (with_reducible apply Frame.step; with_reducible apply updHandle_frame)
    | with_reducible apply Frame.ite
    | split

theorem rotateOut_frame (s : State) (k : SCtx) (d : SDesc) : Frame 17592186044416 s (rotateOut s k d) := by
  unfold rotateOut
  try dsimp only
  repeat' first
    | with_reducible assumption
    | with_reducible apply Frame.refl
    | ((with_reducible apply sub_of); exact Eq.refl true)
    | (with_reducible apply Frame.step; with_reducible apply evictPass_frame)
    | (with_reducible apply Frame.step; with_reducible apply updTile_frame)
    | with_reducible apply Frame.ite
    | split

theorem seComplete_frame (s : State) (e c status : Nat) (r : SRun) (halted : Bool) : Frame 281475030192002 s (seComplete s e c status r halted) := by
  unfold seComplete
  try dsimp only
  repeat' first
    | with_reducible assumption
    | with_reducible apply Frame.refl
    | ((with_reducible apply sub_of); exact Eq.refl true)
    | with_reducible apply Nat.le_succ
    | with_reducible apply mwf_wrBytes_imp
    | with_reducible apply mwf_filter_imp
    | with_reducible apply mwf_nil
    | with_reducible apply mwf_mupd_imp
    | with_reducible apply mwf_wrParts_imp
    | (with_reducible apply Frame.step; with_reducible apply ringPut_frame)
    | (with_reducible apply Frame.step; with_reducible apply cnt_frame)
    | with_reducible apply Frame.ite
    | split

theorem detach_frame (s : State) (e c : Nat) : Frame 17605070946304 s (detach s e c) := by
  unfold detach
  try dsimp only
  repeat' first
    | with_reducible assumption
    | with_reducible apply Frame.refl
    | ((with_reducible apply sub_of); exact Eq.refl true)
    | (with_reducible apply Frame.step; with_reducible apply overQueues_frame)
    | with_reducible apply Frame.ite
    | split

theorem finishBatch_frame (s : State) (e c : Nat) : Frame 87973815123968 s (finishBatch s e c) := by
  unfold finishBatch
  try dsimp only
  repeat' first
    | with_reducible assumption
    | with_reducible apply Frame.refl
    | ((with_reducible apply sub_of); exact Eq.refl true)
    | (with_reducible apply Frame.step; with_reducible apply updSctx_frame)
    | (with_reducible apply Frame.step; with_reducible apply detach_frame)
    | with_reducible apply Frame.ite
    | split

theorem releaseSctx_frame (s : State) (h : Holder) : Frame 70368744177664 s (releaseSctx s h) := by
  unfold releaseSctx
  try dsimp only
  repeat' first
    | with_reducible assumption
    | with_reducible apply Frame.refl
    | ((with_reducible apply sub_of); exact Eq.refl true)
    | (with_reducible apply Frame.step; with_reducible apply updSctx_frame)
    | (with_reducible apply Frame.thread; (intro y e hy))
    | (with_reducible apply Frame.thread_fst; (intro y e hy))
    | (with_reducible apply Frame.thread_snd; (intro y e hy))
    | (with_reducible apply Frame.thread_trd; (intro y e hy))
    | with_reducible apply Frame.ite
    | split

theorem abandonEnds_frame (s : State) (e c : Nat) : Frame 17605070946304 s (abandonEnds s e c) := by
  unfold abandonEnds
  try dsimp only
  repeat' first
    | with_reducible assumption
    | with_reducible apply Frame.refl
    | ((with_reducible apply sub_of); exact Eq.refl true)
    | (with_reducible apply Frame.step; with_reducible apply overQueues_frame)
    | with_reducible apply Frame.ite
    | split

theorem endHent_frame (s : State) (d : SDesc) (ok : Bool) : Frame 17592186044416 s (endHent s d ok) := by
  unfold endHent
  try dsimp only
  repeat' first
    | with_reducible assumption
    | with_reducible apply Frame.refl
    | ((with_reducible apply sub_of); exact Eq.refl true)
    | (with_reducible apply Frame.step; with_reducible apply endFill_frame)
    | with_reducible apply Frame.ite
    | split

theorem seAdd_frame (s : State) (k : SCtx) (e c : Nat) (r : SRun) : Frame 369446832050050 s (seAdd s k e c r) := by
  unfold seAdd
  try dsimp only
  repeat' first
    | with_reducible assumption
    | with_reducible apply Frame.refl
    | ((with_reducible apply sub_of); exact Eq.refl true)
    | with_reducible apply Nat.le_succ
    | with_reducible apply mwf_wrBytes_imp
    | with_reducible apply mwf_filter_imp
    | with_reducible apply mwf_nil
    | with_reducible apply mwf_mupd_imp
    | with_reducible apply mwf_wrParts_imp
    | (with_reducible apply Frame.step; with_reducible apply attemptFails_frame)
    | (with_reducible apply Frame.step; with_reducible apply jobAdds_frame)
    | (with_reducible apply Frame.step; with_reducible apply addObj_frame)
    | with_reducible apply Frame.ite
    | split

theorem statusAborts_frame (s : State) (k : SCtx) (e c status addr : Nat) : Frame 8590983168 s (statusAborts s k e c status addr) := by
  unfold statusAborts
  try dsimp only
  repeat' first
    | with_reducible assumption
    | with_reducible apply Frame.refl
    | ((with_reducible apply sub_of); exact Eq.refl true)
    | (with_reducible apply Frame.step; with_reducible apply attemptFails_frame)
    | (with_reducible apply Frame.step; with_reducible apply orderAbort_frame)
    | with_reducible apply Frame.ite
    | split

theorem endDesc_frame (s : State) (e c status : Nat) (r : SRun) : Frame 369451127017346 s (endDesc s e c status r) := by
  unfold endDesc
  try dsimp only
  repeat' first
    | with_reducible assumption
    | with_reducible apply Frame.refl
    | ((with_reducible apply sub_of); exact Eq.refl true)
    | with_reducible apply Nat.le_succ
    | with_reducible apply mwf_wrBytes_imp
    | with_reducible apply mwf_filter_imp
    | with_reducible apply mwf_nil
    | with_reducible apply mwf_mupd_imp
    | with_reducible apply mwf_wrParts_imp
    | (with_reducible apply Frame.step; with_reducible apply statusAborts_frame)
    | (with_reducible apply Frame.step; with_reducible apply abandonEnds_frame)
    | (with_reducible apply Frame.step; with_reducible apply finishBatch_frame)
    | (with_reducible apply Frame.step; with_reducible apply seComplete_frame)
    | (with_reducible apply Frame.step; with_reducible apply rotateOut_frame)
    | (with_reducible apply Frame.step; with_reducible apply endHent_frame)
    | (with_reducible apply Frame.step; with_reducible apply updSctx_frame)
    | (with_reducible apply Frame.step; with_reducible apply seAdd_frame)
    | (with_reducible apply Frame.step; with_reducible apply evSet_frame)
    | (with_reducible apply Frame.step; with_reducible apply cntE_frame)
    | (with_reducible apply Frame.thread; (intro y e hy))
    | (with_reducible apply Frame.thread_fst; (intro y e hy))
    | (with_reducible apply Frame.thread_snd; (intro y e hy))
    | (with_reducible apply Frame.thread_trd; (intro y e hy))
    | with_reducible apply Frame.ite
    | split

theorem finishCancel_frame (s : State) (e c : Nat) : Frame 369448845315970 s (finishCancel s e c) := by
  unfold finishCancel
  try dsimp only
  repeat' first
    | with_reducible assumption
    | with_reducible apply Frame.refl
    | ((with_reducible apply sub_of); exact Eq.refl true)
    | with_reducible apply Nat.le_succ
    | with_reducible apply mwf_wrBytes_imp
    | with_reducible apply mwf_filter_imp
    | with_reducible apply mwf_nil
    | with_reducible apply mwf_mupd_imp
    | with_reducible apply mwf_wrParts_imp
    | (with_reducible apply Frame.step; with_reducible apply abandonEnds_frame)
    | (with_reducible apply Frame.step; with_reducible apply finishBatch_frame)
    | (with_reducible apply Frame.step; with_reducible apply seComplete_frame)
    | (with_reducible apply Frame.step; with_reducible apply endHent_frame)
    | (with_reducible apply Frame.step; with_reducible apply updSctx_frame)
    | (with_reducible apply Frame.step; with_reducible apply cntE_frame)
    | (with_reducible apply Frame.thread; (intro y e hy))
    | (with_reducible apply Frame.thread_fst; (intro y e hy))
    | (with_reducible apply Frame.thread_snd; (intro y e hy))
    | (with_reducible apply Frame.thread_trd; (intro y e hy))
    | with_reducible apply Frame.ite
    | split

theorem cancelSctx_frame (s : State) (e c : Nat) (silent : Bool) : Frame 369451127017346 s (cancelSctx s e c silent) := by
  unfold cancelSctx
  try dsimp only
  repeat' first
    | with_reducible assumption
    | with_reducible apply Frame.refl
    | ((with_reducible apply sub_of); exact Eq.refl true)
    | with_reducible apply Nat.le_succ
    | with_reducible apply mwf_wrBytes_imp
    | with_reducible apply mwf_filter_imp
    | with_reducible apply mwf_nil
    | with_reducible apply mwf_mupd_imp
    | with_reducible apply mwf_wrParts_imp
    | (with_reducible apply Frame.step; with_reducible apply finishCancel_frame)
    | (with_reducible apply Frame.step; with_reducible apply updSctx_frame)
    | (with_reducible apply Frame.step; with_reducible apply endDesc_frame)
    | (with_reducible apply Frame.thread; (intro y e hy))
    | (with_reducible apply Frame.thread_fst; (intro y e hy))
    | (with_reducible apply Frame.thread_snd; (intro y e hy))
    | (with_reducible apply Frame.thread_trd; (intro y e hy))
    | with_reducible apply Frame.ite
    | split

theorem cancelJobSctx_frame (s : State) (id : JobId) (silent : Bool) : Frame 369451127017346 s (cancelJobSctx s id silent) := by
  unfold cancelJobSctx
  try dsimp only
  repeat' first
    | with_reducible assumption
    | with_reducible apply Frame.refl
    | ((with_reducible apply sub_of); exact Eq.refl true)
    | with_reducible apply Nat.le_succ
    | with_reducible apply mwf_wrBytes_imp
    | with_reducible apply mwf_filter_imp
    | with_reducible apply mwf_nil
    | with_reducible apply mwf_mupd_imp
    | with_reducible apply mwf_wrParts_imp
    | (with_reducible apply Frame.step; with_reducible apply cancelSctx_frame)
    | (with_reducible apply Frame.thread; (intro y e hy))
    | (with_reducible apply Frame.thread_fst; (intro y e hy))
    | (with_reducible apply Frame.thread_snd; (intro y e hy))
    | (with_reducible apply Frame.thread_trd; (intro y e hy))
    | with_reducible apply Frame.ite
    | split

theorem armSctx_frame (s : State) (e c : Nat) (h : Holder) (attempt addr : Nat) : Frame 70368744177664 s (armSctx s e c h attempt addr) := by
  unfold armSctx
  try dsimp only
  repeat' first
    | with_reducible assumption
    | with_reducible apply Frame.refl
    | ((with_reducible apply sub_of); exact Eq.refl true)
    | (with_reducible apply Frame.step; with_reducible apply updSctx_frame)
    | with_reducible apply Frame.ite
    | split

theorem attachEnd_frame (s : State) (k : SCtx) (e c : Nat) (d : SDesc) (dst : Bool) : Frame 4294967296 s (attachEnd s k e c d dst) := by
  unfold attachEnd
  try dsimp only
  repeat' first
    | with_reducible assumption
    | with_reducible apply Frame.refl
    | ((with_reducible apply sub_of); exact Eq.refl true)
    | (with_reducible apply Frame.step; with_reducible apply updQueue_frame)
    | with_reducible apply Frame.ite
    | split

theorem bucketTake_frame (s : State) (e b n : Nat) : Frame 140737488355328 s (bucketTake s e b n) := by
  unfold bucketTake
  try dsimp only
  try simp only [put_bwTokens_def]
  repeat' first
    | with_reducible assumption
    | with_reducible apply Frame.refl
    | ((with_reducible apply sub_of); exact Eq.refl true)
    | (with_reducible apply Frame.step; with_reducible apply put_bwTokens_frame)
    | with_reducible apply Frame.ite
    | split

theorem clearFailed_frame (s : State) (r : HostReader) : Frame 16777216 s (clearFailed s r) := by
  unfold clearFailed
  try dsimp only
  repeat' first
    | with_reducible assumption
    | with_reducible apply Frame.refl
    | ((with_reducible apply sub_of); exact Eq.refl true)
    | (with_reducible apply Frame.step; with_reducible apply updHl_frame)
    | with_reducible apply Frame.ite
    | split

theorem npIssue_frame (s : State) (o : NpOwner) : Frame 16777216 s (npIssue s o).1 := by
  unfold npIssue
  try dsimp only
  repeat' first
    | with_reducible assumption
    | with_reducible apply Frame.refl
    | ((with_reducible apply sub_of); exact Eq.refl true)
    | (with_reducible apply Frame.step; with_reducible apply updHl_frame)
    | with_reducible apply Frame.ite
    | split

theorem npReturn_frame (s : State) (t : Nat) : Frame 16777216 s (npReturn s t) := by
  unfold npReturn
  try dsimp only
  repeat' first
    | with_reducible assumption
    | with_reducible apply Frame.refl
    | ((with_reducible apply sub_of); exact Eq.refl true)
    | (with_reducible apply Frame.step; with_reducible apply updHl_frame)
    | with_reducible apply Frame.ite
    | split

theorem updRun_frame (s : State) (e c addr : Nat) (f : SRun → SRun) : Frame 70368744177664 s (updRun s e c addr f) := by
  unfold updRun
  try dsimp only
  repeat' first
    | with_reducible assumption
    | with_reducible apply Frame.refl
    | ((with_reducible apply sub_of); exact Eq.refl true)
    | (with_reducible apply Frame.step; with_reducible apply updSctx_frame)
    | with_reducible apply Frame.ite
    | split

theorem spoilFor_frame (s : State) (k : SCtx) (u : Queue) (i : Nat) : Frame 8589934592 s (spoilFor s k u i) := by
  unfold spoilFor
  try dsimp only
  repeat' first
    | with_reducible assumption
    | with_reducible apply Frame.refl
    | ((with_reducible apply sub_of); exact Eq.refl true)
    | (with_reducible apply Frame.step; with_reducible apply orderAbort_frame)
    | (with_reducible apply Frame.step; with_reducible apply updJob_frame)
    | with_reducible apply Frame.ite
    | split

theorem pushFor_frame (s : State) (k : SCtx) (q i tag : Nat) : Frame 369451127017346 s (pushFor s k q i tag) := by
  unfold pushFor
  try dsimp only
  repeat' first
    | with_reducible assumption
    | with_reducible apply Frame.refl
    | ((with_reducible apply sub_of); exact Eq.refl true)
    | with_reducible apply Nat.le_succ
    | with_reducible apply mwf_wrBytes_imp
    | with_reducible apply mwf_filter_imp
    | with_reducible apply mwf_nil
    | with_reducible apply mwf_mupd_imp
    | with_reducible apply mwf_wrParts_imp
    | (with_reducible apply Frame.step; with_reducible apply publishHalo_frame)
    | (with_reducible apply Frame.step; with_reducible apply updQueue_frame)
    | (with_reducible apply Frame.step; with_reducible apply spoilFor_frame)
    | (with_reducible apply Frame.step; with_reducible apply putQueue_frame)
    | (with_reducible apply Frame.step; with_reducible apply cnt_frame)
    | with_reducible apply Frame.ite
    | split

theorem takeDst_frame (s : State) (k : SCtx) (e c : Nat) (r : SRun) (n : Nat) : Frame 87973815123968 s (takeDst s k e c r n) := by
  unfold takeDst
  try dsimp only
  repeat' first
    | with_reducible assumption
    | with_reducible apply Frame.refl
    | ((with_reducible apply sub_of); exact Eq.refl true)
    | (with_reducible apply Frame.step; with_reducible apply putQueue_frame)
    | (with_reducible apply Frame.step; with_reducible apply updRun_frame)
    | with_reducible apply Frame.ite
    | split

theorem issueRead_frame (s : State) (e : Fin 32) : Frame 228711320256514 s (issueRead s e) := by
  unfold issueRead
  try dsimp only
  repeat' first
    | with_reducible assumption
    | with_reducible apply Frame.refl
    | ((with_reducible apply sub_of); exact Eq.refl true)
    | (with_reducible apply Frame.step; with_reducible apply noteWaiters_frame)
    | (with_reducible apply Frame.step; with_reducible apply bucketTake_frame)
    | (with_reducible apply Frame.step; with_reducible apply putQueue_frame)
    | (with_reducible apply Frame.step; with_reducible apply takeDst_frame)
    | (with_reducible apply Frame.step; with_reducible apply updSctx_frame)
    | (with_reducible apply Frame.step; with_reducible apply npIssue_frame)
    | (with_reducible apply Frame.step; with_reducible apply Frame.fst; with_reducible assumption; with_reducible apply npIssue_frame)
    | (with_reducible apply Frame.step; with_reducible apply updRun_frame)
    | (with_reducible apply Frame.step; with_reducible apply cnt_frame)
    | with_reducible apply Frame.ite
    | split

theorem landPiece_frame (s : State) (e c : Nat) (r : SRun) (n w a : Nat) (bs : List (Byte × Bool)) : Frame 351852330749826 s (landPiece s e c r n w a bs) := by
  unfold landPiece
  try dsimp only
  repeat' first
    | with_reducible assumption
    | with_reducible apply Frame.refl
    | ((with_reducible apply sub_of); exact Eq.refl true)
    | with_reducible apply Nat.le_succ
    | with_reducible apply mwf_wrBytes_imp
    | with_reducible apply mwf_filter_imp
    | with_reducible apply mwf_nil
    | with_reducible apply mwf_mupd_imp
    | with_reducible apply mwf_wrParts_imp
    | (with_reducible apply Frame.step; with_reducible apply devWrite_frame)
    | (with_reducible apply Frame.step; with_reducible apply noteOut_frame)
    | (with_reducible apply Frame.step; with_reducible apply updRun_frame)
    | (with_reducible apply Frame.step; with_reducible apply cntE_frame)
    | with_reducible apply Frame.ite
    | split

theorem landWalk_frame (s : State) (e c : Nat) (r : SRun) (n : Nat) (bs : List (Byte × Bool)) : Frame 492589819105154 s (landWalk s e c r n bs) := by
  unfold landWalk
  try dsimp only
  repeat' first
    | with_reducible assumption
    | with_reducible apply Frame.refl
    | ((with_reducible apply sub_of); exact Eq.refl true)
    | with_reducible apply Nat.le_succ
    | with_reducible apply mwf_wrBytes_imp
    | with_reducible apply mwf_filter_imp
    | with_reducible apply mwf_nil
    | with_reducible apply mwf_mupd_imp
    | with_reducible apply mwf_wrParts_imp
    | (with_reducible apply Frame.step; with_reducible apply bucketTake_frame)
    | (with_reducible apply Frame.step; with_reducible apply landPiece_frame)
    | (with_reducible apply Frame.step; with_reducible apply updRun_frame)
    | (with_reducible apply Frame.thread; (intro y e hy))
    | (with_reducible apply Frame.thread_fst; (intro y e hy))
    | (with_reducible apply Frame.thread_snd; (intro y e hy))
    | (with_reducible apply Frame.thread_trd; (intro y e hy))
    | with_reducible apply Frame.ite
    | split

theorem passSource_frame (s : State) (k : SCtx) (r : SRun) (rd : SRead) : Frame 17605070946304 s (passSource s k r rd) := by
  unfold passSource
  try dsimp only
  repeat' first
    | with_reducible assumption
    | with_reducible apply Frame.refl
    | ((with_reducible apply sub_of); exact Eq.refl true)
    | (with_reducible apply Frame.step; with_reducible apply putQueue_frame)
    | with_reducible apply Frame.ite
    | split

theorem passSlots_frame (s : State) (k : SCtx) (r : SRun) (new : Nat) : Frame 369451127017346 s (passSlots s k r new) := by
  unfold passSlots
  try dsimp only
  repeat' first
    | with_reducible assumption
    | with_reducible apply Frame.refl
    | ((with_reducible apply sub_of); exact Eq.refl true)
    | with_reducible apply Nat.le_succ
    | with_reducible apply mwf_wrBytes_imp
    | with_reducible apply mwf_filter_imp
    | with_reducible apply mwf_nil
    | with_reducible apply mwf_mupd_imp
    | with_reducible apply mwf_wrParts_imp
    | (with_reducible apply Frame.step; with_reducible apply pushFor_frame)
    | (with_reducible apply Frame.thread; (intro y e hy))
    | (with_reducible apply Frame.thread_fst; (intro y e hy))
    | (with_reducible apply Frame.thread_snd; (intro y e hy))
    | (with_reducible apply Frame.thread_trd; (intro y e hy))
    | with_reducible apply Frame.ite
    | split

theorem raiseLanded_frame (s : State) (d : SDesc) (landed : Nat) : Frame 17592186044416 s (raiseLanded s d landed) := by
  unfold raiseLanded
  try dsimp only
  repeat' first
    | with_reducible assumption
    | with_reducible apply Frame.refl
    | ((with_reducible apply sub_of); exact Eq.refl true)
    | (with_reducible apply Frame.step; with_reducible apply wakeTasks_frame)
    | (with_reducible apply Frame.step; with_reducible apply updHandle_frame)
    | with_reducible apply Frame.ite
    | split

theorem readData_frame (s : State) (rd : SRead) (err mesh : Bool) (tries : ReadTry) (job : JobId) : Frame 281474979856514 s (readData s rd err mesh tries job).2 := by
  unfold readData
  try dsimp only
  repeat' first
    | with_reducible assumption
    | with_reducible apply Frame.refl
    | ((with_reducible apply sub_of); exact Eq.refl true)
    | with_reducible apply Nat.le_succ
    | (with_reducible apply Frame.step; with_reducible apply devRead_frame)
    | (with_reducible apply Frame.step; with_reducible apply Frame.snd; with_reducible assumption; with_reducible apply devRead_frame)
    | with_reducible apply Frame.ite
    | split

theorem landRead_frame (s : State) (e c : Nat) (r : SRun) (rd : SRead) (bs : List (Byte × Bool)) : Frame 492589819105154 s (landRead s e c r rd bs) := by
  unfold landRead
  try dsimp only
  repeat' first
    | with_reducible assumption
    | with_reducible apply Frame.refl
    | ((with_reducible apply sub_of); exact Eq.refl true)
    | with_reducible apply Nat.le_succ
    | with_reducible apply mwf_wrBytes_imp
    | with_reducible apply mwf_filter_imp
    | with_reducible apply mwf_nil
    | with_reducible apply mwf_mupd_imp
    | with_reducible apply mwf_wrParts_imp
    | (with_reducible apply Frame.step; with_reducible apply landWalk_frame)
    | (with_reducible apply Frame.step; with_reducible apply updRun_frame)
    | with_reducible apply Frame.ite
    | split

theorem afterLanding_frame (s : State) (e c : Nat) (k : SCtx) (r : SRun) : Frame 369451127017346 s (afterLanding s e c k r) := by
  unfold afterLanding
  try dsimp only
  repeat' first
    | with_reducible assumption
    | with_reducible apply Frame.refl
    | ((with_reducible apply sub_of); exact Eq.refl true)
    | with_reducible apply Nat.le_succ
    | with_reducible apply mwf_wrBytes_imp
    | with_reducible apply mwf_filter_imp
    | with_reducible apply mwf_nil
    | with_reducible apply mwf_mupd_imp
    | with_reducible apply mwf_wrParts_imp
    | (with_reducible apply Frame.step; with_reducible apply raiseLanded_frame)
    | (with_reducible apply Frame.step; with_reducible apply passSlots_frame)
    | (with_reducible apply Frame.step; with_reducible apply updSctx_frame)
    | with_reducible apply Frame.ite
    | split

theorem haltSctx_frame (s : State) (e c : Nat) (r : SRun) (rd : SRead) : Frame 492589852659586 s (haltSctx s e c r rd) := by
  unfold haltSctx
  try dsimp only
  repeat' first
    | with_reducible assumption
    | with_reducible apply Frame.refl
    | ((with_reducible apply sub_of); exact Eq.refl true)
    | with_reducible apply Nat.le_succ
    | with_reducible apply mwf_wrBytes_imp
    | with_reducible apply mwf_filter_imp
    | with_reducible apply mwf_nil
    | with_reducible apply mwf_mupd_imp
    | with_reducible apply mwf_wrParts_imp
    | (with_reducible apply Frame.step; with_reducible apply seComplete_frame)
    | (with_reducible apply Frame.step; with_reducible apply postEvent_frame)
    | (with_reducible apply Frame.step; with_reducible apply landWalk_frame)
    | (with_reducible apply Frame.step; with_reducible apply updSctx_frame)
    | (with_reducible apply Frame.step; with_reducible apply evSet_frame)
    | (with_reducible apply Frame.step; with_reducible apply cntE_frame)
    | with_reducible apply Frame.ite
    | split

theorem readGone_frame (s : State) (e c : Nat) : Frame 369448845315970 s (readGone s e c) := by
  unfold readGone
  try dsimp only
  repeat' first
    | with_reducible assumption
    | with_reducible apply Frame.refl
    | ((with_reducible apply sub_of); exact Eq.refl true)
    | with_reducible apply Nat.le_succ
    | with_reducible apply mwf_wrBytes_imp
    | with_reducible apply mwf_filter_imp
    | with_reducible apply mwf_nil
    | with_reducible apply mwf_mupd_imp
    | with_reducible apply mwf_wrParts_imp
    | (with_reducible apply Frame.step; with_reducible apply finishCancel_frame)
    | (with_reducible apply Frame.step; with_reducible apply cntE_frame)
    | with_reducible apply Frame.ite
    | split

theorem takeRead_frame (s : State) (e c : Nat) : Frame 510188615372674 s (takeRead s e c) := by
  unfold takeRead
  try dsimp only
  repeat' first
    | with_reducible assumption
    | with_reducible apply Frame.refl
    | ((with_reducible apply sub_of); exact Eq.refl true)
    | with_reducible apply Nat.le_succ
    | with_reducible apply mwf_wrBytes_imp
    | with_reducible apply mwf_filter_imp
    | with_reducible apply mwf_nil
    | with_reducible apply mwf_mupd_imp
    | with_reducible apply mwf_wrParts_imp
    | (with_reducible apply Frame.step; with_reducible apply afterLanding_frame)
    | (with_reducible apply Frame.step; with_reducible apply streamJudge_frame)
    | (with_reducible apply Frame.step; with_reducible apply passSource_frame)
    | (with_reducible apply Frame.step; with_reducible apply haltSctx_frame)
    | (with_reducible apply Frame.step; with_reducible apply landRead_frame)
    | (with_reducible apply Frame.step; with_reducible apply updSctx_frame)
    | with_reducible apply Frame.ite
    | split

theorem replayStep_frame (s : State) (e c addr : Nat) : Frame 510188615372674 s (replayStep s e c addr) := by
  unfold replayStep
  try dsimp only
  repeat' first
    | with_reducible assumption
    | with_reducible apply Frame.refl
    | ((with_reducible apply sub_of); exact Eq.refl true)
    | with_reducible apply Nat.le_succ
    | with_reducible apply mwf_wrBytes_imp
    | with_reducible apply mwf_filter_imp
    | with_reducible apply mwf_nil
    | with_reducible apply mwf_mupd_imp
    | with_reducible apply mwf_wrParts_imp
    | (with_reducible apply Frame.step; with_reducible apply afterLanding_frame)
    | (with_reducible apply Frame.step; with_reducible apply streamJudge_frame)
    | (with_reducible apply Frame.step; with_reducible apply landWalk_frame)
    | (with_reducible apply Frame.step; with_reducible apply takeDst_frame)
    | with_reducible apply Frame.ite
    | split

theorem landPass_frame (s : State) (e c : Nat) : Frame 510188615372674 s (landPass s e c) := by
  unfold landPass
  try dsimp only
  repeat' first
    | with_reducible assumption
    | with_reducible apply Frame.refl
    | ((with_reducible apply sub_of); exact Eq.refl true)
    | with_reducible apply Nat.le_succ
    | with_reducible apply mwf_wrBytes_imp
    | with_reducible apply mwf_filter_imp
    | with_reducible apply mwf_nil
    | with_reducible apply mwf_mupd_imp
    | with_reducible apply mwf_wrParts_imp
    | (with_reducible apply Frame.step; with_reducible apply replayStep_frame)
    | (with_reducible apply Frame.step; with_reducible apply takeRead_frame)
    | (with_reducible apply Frame.thread; (intro y e hy))
    | (with_reducible apply Frame.thread_fst; (intro y e hy))
    | (with_reducible apply Frame.thread_snd; (intro y e hy))
    | (with_reducible apply Frame.thread_trd; (intro y e hy))
    | with_reducible apply Frame.ite
    | split

theorem returnRead_frame (s : State) (e c n : Nat) (err mesh : Bool) (tries : ReadTry) : Frame 510394773802882 s (returnRead s e c n err mesh tries) := by
  unfold returnRead
  try dsimp only
  repeat' first
    | with_reducible assumption
    | with_reducible apply Frame.refl
    | ((with_reducible apply sub_of); exact Eq.refl true)
    | with_reducible apply Nat.le_succ
    | with_reducible apply mwf_wrBytes_imp
    | with_reducible apply mwf_filter_imp
    | with_reducible apply mwf_nil
    | with_reducible apply mwf_mupd_imp
    | with_reducible apply mwf_wrParts_imp
    | (with_reducible apply Frame.step; with_reducible apply badInput_frame)
    | (with_reducible apply Frame.step; with_reducible apply readGone_frame)
    | (with_reducible apply Frame.step; with_reducible apply readData_frame)
    | (with_reducible apply Frame.step; with_reducible apply Frame.snd; with_reducible assumption; with_reducible apply readData_frame)
    | (with_reducible apply Frame.step; with_reducible apply npReturn_frame)
    | (with_reducible apply Frame.step; with_reducible apply landPass_frame)
    | (with_reducible apply Frame.step; with_reducible apply updSctx_frame)
    | (with_reducible apply Frame.step; with_reducible apply cntE_frame)
    | with_reducible apply Frame.ite
    | split

theorem failRead_frame (s : State) (e c n : Nat) : Frame 510394773802882 s (failRead s e c n) := by
  unfold failRead
  try dsimp only
  repeat' first
    | with_reducible assumption
    | with_reducible apply Frame.refl
    | ((with_reducible apply sub_of); exact Eq.refl true)
    | with_reducible apply Nat.le_succ
    | with_reducible apply mwf_wrBytes_imp
    | with_reducible apply mwf_filter_imp
    | with_reducible apply mwf_nil
    | with_reducible apply mwf_mupd_imp
    | with_reducible apply mwf_wrParts_imp
    | (with_reducible apply Frame.step; with_reducible apply returnRead_frame)
    | with_reducible apply Frame.ite
    | split

theorem landEngine_frame (s : State) (e : Nat) : Frame 510188615372674 s (landEngine s e) := by
  unfold landEngine
  try dsimp only
  repeat' first
    | with_reducible assumption
    | with_reducible apply Frame.refl
    | ((with_reducible apply sub_of); exact Eq.refl true)
    | with_reducible apply Nat.le_succ
    | with_reducible apply mwf_wrBytes_imp
    | with_reducible apply mwf_filter_imp
    | with_reducible apply mwf_nil
    | with_reducible apply mwf_mupd_imp
    | with_reducible apply mwf_wrParts_imp
    | (with_reducible apply Frame.step; with_reducible apply landPass_frame)
    | (with_reducible apply Frame.thread; (intro y e hy))
    | (with_reducible apply Frame.thread_fst; (intro y e hy))
    | (with_reducible apply Frame.thread_snd; (intro y e hy))
    | (with_reducible apply Frame.thread_trd; (intro y e hy))
    | with_reducible apply Frame.ite
    | split

theorem resumeSctx_frame (s : State) (e c : Nat) : Frame 70368744177664 s (resumeSctx s e c) := by
  unfold resumeSctx
  try dsimp only
  repeat' first
    | with_reducible assumption
    | with_reducible apply Frame.refl
    | ((with_reducible apply sub_of); exact Eq.refl true)
    | (with_reducible apply Frame.step; with_reducible apply updSctx_frame)
    | with_reducible apply Frame.ite
    | split

end Sys2Proof.Machine
end

