-- ==== Sys2Proof/Laws/JobsFrames.lean ====
section
/-! SUPPORT. What each operation of Machine/Jobs.lean can do to the state. -/

namespace Sys2Proof.Machine

set_option Elab.async false

theorem freeFill_frame (s : State) (a n : Nat) : Frame 384 s (freeFill s a n) := by
  unfold freeFill
  try dsimp only
  try simp only [put_mem_def]
  repeat' first
    | with_reducible assumption
    | with_reducible apply Frame.refl
    | ((with_reducible apply sub_of); exact Eq.refl true)
    | with_reducible apply Nat.le_succ
    | with_reducible apply mwf_wrBytes_imp
    | with_reducible apply mwf_filter_imp
    | with_reducible apply mwf_nil
    | with_reducible apply mwf_mupd_imp
    | with_reducible apply mwf_wrParts_imp
    | (with_reducible apply Frame.step; with_reducible apply drawn_frame)
    | (with_reducible apply Frame.step; with_reducible apply put_mem_frame)
    | with_reducible apply Frame.ite
    | split

theorem sharedEntry_frame (s : State) (p t : Nat) (b : BufDecl) : Frame 17592186044800 s (sharedEntry s p t b) := by
  unfold sharedEntry
  try dsimp only
  repeat' first
    | with_reducible assumption
    | with_reducible apply Frame.refl
    | ((with_reducible apply sub_of); exact Eq.refl true)
    | with_reducible apply Nat.le_succ
    | with_reducible apply mwf_wrBytes_imp
    | with_reducible apply mwf_filter_imp
    | with_reducible apply mwf_nil
    | with_reducible apply mwf_mupd_imp
    | with_reducible apply mwf_wrParts_imp
    | (with_reducible apply Frame.step; with_reducible apply updHandle_frame)
    | (with_reducible apply Frame.step; with_reducible apply freeFill_frame)
    | with_reducible apply Frame.ite
    | split

theorem beginTile_frame (s : State) (p t : Nat) : Frame 17593259786624 s (beginTile s p t) := by
  unfold beginTile
  try dsimp only
  repeat' first
    | with_reducible assumption
    | with_reducible apply Frame.refl
    | ((with_reducible apply sub_of); exact Eq.refl true)
    | with_reducible apply Nat.le_succ
    | with_reducible apply mwf_wrBytes_imp
    | with_reducible apply mwf_filter_imp
    | with_reducible apply mwf_nil
    | with_reducible apply mwf_mupd_imp
    | with_reducible apply mwf_wrParts_imp
    | (with_reducible apply Frame.step; with_reducible apply sharedEntry_frame)
    | (with_reducible apply Frame.step; with_reducible apply updPlan_frame)
    | (with_reducible apply Frame.thread; (intro y e hy))
    | (with_reducible apply Frame.thread_fst; (intro y e hy))
    | (with_reducible apply Frame.thread_snd; (intro y e hy))
    | (with_reducible apply Frame.thread_trd; (intro y e hy))
    | with_reducible apply Frame.ite
    | split

theorem iramWrite_frame (s : State) (t off : Nat) (bs : List Byte) : Frame 17592186044416 s (iramWrite s t off bs) := by
  unfold iramWrite
  try dsimp only
  repeat' first
    | with_reducible assumption
    | with_reducible apply Frame.refl
    | ((with_reducible apply sub_of); exact Eq.refl true)
    | (with_reducible apply Frame.step; with_reducible apply updTile_frame)
    | with_reducible apply Frame.ite
    | split

theorem iramShow_frame (s : State) (t : Nat) : Frame 17592186048512 s (iramShow s t) := by
  unfold iramShow
  try dsimp only
  try simp only [put_iram_def]
  repeat' first
    | with_reducible assumption
    | with_reducible apply Frame.refl
    | ((with_reducible apply sub_of); exact Eq.refl true)
    | with_reducible apply mwf_wrBytes_imp
    | with_reducible apply mwf_filter_imp
    | with_reducible apply mwf_nil
    | with_reducible apply mwf_mupd_imp
    | with_reducible apply mwf_wrParts_imp
    | (with_reducible apply Frame.step; with_reducible apply updTile_frame)
    | (with_reducible apply Frame.step; with_reducible apply put_iram_frame)
    | with_reducible apply Frame.ite
    | split

theorem loadResident_frame (s : State) (p t : Nat) (tm : Template) : Frame 17593259786240 s (loadResident s p t tm) := by
  unfold loadResident
  try dsimp only
  repeat' first
    | with_reducible assumption
    | with_reducible apply Frame.refl
    | ((with_reducible apply sub_of); exact Eq.refl true)
    | (with_reducible apply Frame.step; with_reducible apply iramWrite_frame)
    | (with_reducible apply Frame.step; with_reducible apply updPlan_frame)
    | with_reducible apply Frame.ite
    | split

theorem privateEntry_frame (s : State) (p t c : Nat) (d : PrivDecl) : Frame 17592186044416 s (privateEntry s p t c d) := by
  unfold privateEntry
  try dsimp only
  repeat' first
    | with_reducible assumption
    | with_reducible apply Frame.refl
    | ((with_reducible apply sub_of); exact Eq.refl true)
    | (with_reducible apply Frame.step; with_reducible apply updHandle_frame)
    | with_reducible apply Frame.ite
    | split

theorem attachJob_frame (s : State) (j : Job) (t : Template) : Frame 4294967296 s (attachJob s j t) := by
  unfold attachJob
  try dsimp only
  repeat' first
    | with_reducible assumption
    | with_reducible apply Frame.refl
    | ((with_reducible apply sub_of); exact Eq.refl true)
    | (with_reducible apply Frame.step; with_reducible apply updQueue_frame)
    | (with_reducible apply Frame.thread; (intro y e hy))
    | (with_reducible apply Frame.thread_fst; (intro y e hy))
    | (with_reducible apply Frame.thread_snd; (intro y e hy))
    | (with_reducible apply Frame.thread_trd; (intro y e hy))
    | with_reducible apply Frame.ite
    | split

theorem takeBlock_frame (s : State) (id : JobId) (o n : Nat) : Frame 369446832050050 s (takeBlock s id o n) := by
  unfold takeBlock
  try dsimp only
  repeat' first
    | with_reducible assumption
    | with_reducible apply Frame.refl
    | ((with_reducible apply sub_of); exact Eq.refl true)
    | with_reducible apply Nat.le_succ
    | with_reducible apply mwf_wrBytes_imp
    | with_reducible apply mwf_filter_imp
    | with_reducible apply mwf_nil
    | with_reducible apply mwf_mupd_imp
    | with_reducible apply mwf_wrParts_imp
    | (with_reducible apply Frame.step; with_reducible apply setCount_frame)
    | (with_reducible apply Frame.step; with_reducible apply updObj_frame)
    | (with_reducible apply Frame.thread; (intro y e hy))
    | (with_reducible apply Frame.thread_fst; (intro y e hy))
    | (with_reducible apply Frame.thread_snd; (intro y e hy))
    | (with_reducible apply Frame.thread_trd; (intro y e hy))
    | with_reducible apply Frame.ite
    | split

theorem loadJob_frame (s : State) (p : Place) (cs : List (Fin 32 × Fin 64)) (j : Job) (t : Template) : Frame 369727078666114 s (loadJob s p cs j t) := by
  unfold loadJob
  try dsimp only
  repeat' first
    | with_reducible assumption
    | with_reducible apply Frame.refl
    | ((with_reducible apply sub_of); exact Eq.refl true)
    | with_reducible apply Nat.le_succ
    | with_reducible apply mwf_wrBytes_imp
    | with_reducible apply mwf_filter_imp
    | with_reducible apply mwf_nil
    | with_reducible apply mwf_mupd_imp
    | with_reducible apply mwf_wrParts_imp
    | (with_reducible apply Frame.step; with_reducible apply loadResident_frame)
    | (with_reducible apply Frame.step; with_reducible apply privateEntry_frame)
    | (with_reducible apply Frame.step; with_reducible apply updEngine_frame)
    | (with_reducible apply Frame.step; with_reducible apply attachJob_frame)
    | (with_reducible apply Frame.step; with_reducible apply takeBlock_frame)
    | (with_reducible apply Frame.step; with_reducible apply beginTile_frame)
    | (with_reducible apply Frame.step; with_reducible apply updTile_frame)
    | (with_reducible apply Frame.step; with_reducible apply armSctx_frame)
    | (with_reducible apply Frame.step; with_reducible apply updJob_frame)
    | (with_reducible apply Frame.thread; (intro y e hy))
    | (with_reducible apply Frame.thread_fst; (intro y e hy))
    | (with_reducible apply Frame.thread_snd; (intro y e hy))
    | (with_reducible apply Frame.thread_trd; (intro y e hy))
    | with_reducible apply Frame.ite
    | split

theorem closeSnapshots_frame (s : State) (x : Nat) : Frame 281543753863042 s (closeSnapshots s x) := by
  unfold closeSnapshots
  try dsimp only
  repeat' first
    | with_reducible assumption
    | with_reducible apply Frame.refl
    | ((with_reducible apply sub_of); exact Eq.refl true)
    | with_reducible apply Nat.le_succ
    | with_reducible apply mwf_wrBytes_imp
    | with_reducible apply mwf_filter_imp
    | with_reducible apply mwf_nil
    | with_reducible apply mwf_mupd_imp
    | with_reducible apply mwf_wrParts_imp
    | (with_reducible apply Frame.step; with_reducible apply writeSnapshot_frame)
    | (with_reducible apply Frame.foldl; (intro y e hy))
    | (with_reducible apply Frame.foldl_fst; (intro y e hy))
    | (with_reducible apply Frame.foldl_snd; (intro y e hy))
    | with_reducible apply Frame.ite
    | split

theorem forgetRows_frame (s : State) (x : Nat) : Frame 274877906944 s (forgetRows s x) := by
  unfold forgetRows
  try dsimp only
  repeat' first
    | with_reducible assumption
    | with_reducible apply Frame.refl
    | ((with_reducible apply sub_of); exact Eq.refl true)
    | (with_reducible apply Frame.step; with_reducible apply updEngine_frame)
    | (with_reducible apply Frame.thread; (intro y e hy))
    | (with_reducible apply Frame.thread_fst; (intro y e hy))
    | (with_reducible apply Frame.thread_snd; (intro y e hy))
    | (with_reducible apply Frame.thread_trd; (intro y e hy))
    | with_reducible apply Frame.ite
    | split

theorem finishUnbind_frame (s : State) (x : Nat) : Frame 3661897764179842 s (finishUnbind s x) := by
  unfold finishUnbind
  try dsimp only
  try simp only [put_4_jobs_drifts_def]
  repeat' first
    | with_reducible assumption
    | with_reducible apply Frame.refl
    | ((with_reducible apply sub_of); exact Eq.refl true)
    | with_reducible apply Nat.le_succ
    | with_reducible apply mwf_wrBytes_imp
    | with_reducible apply mwf_filter_imp
    | with_reducible apply mwf_nil
    | with_reducible apply mwf_mupd_imp
    | with_reducible apply mwf_wrParts_imp
    | (with_reducible apply Frame.step; with_reducible apply closeSnapshots_frame)
    | (with_reducible apply Frame.step; with_reducible apply forgetRows_frame)
    | (with_reducible apply Frame.step; with_reducible apply updStream_frame)
    | (with_reducible apply Frame.step; with_reducible apply updLink_frame)
    | (with_reducible apply Frame.step; with_reducible apply updPm_frame)
    | (with_reducible apply Frame.step; with_reducible apply put_4_jobs_drifts_frame)
    | with_reducible apply Frame.ite
    | split

theorem finishUnload_frame (s : State) (p : Nat) : Frame 1213876943454208 s (finishUnload s p) := by
  unfold finishUnload
  try dsimp only
  try simp only [put_4_objs_tiles_def]
  repeat' first
    | with_reducible assumption
    | with_reducible apply Frame.refl
    | ((with_reducible apply sub_of); exact Eq.refl true)
    | (with_reducible apply Frame.step; with_reducible apply releaseSctx_frame)
    | (with_reducible apply Frame.step; with_reducible apply updPlan_frame)
    | (with_reducible apply Frame.step; with_reducible apply dropRx_frame)
    | (with_reducible apply Frame.step; with_reducible apply updSec_frame)
    | (with_reducible apply Frame.step; with_reducible apply updPm_frame)
    | (with_reducible apply Frame.step; with_reducible apply put_4_objs_tiles_frame)
    | (with_reducible apply Frame.thread; (intro y e hy))
    | (with_reducible apply Frame.thread_fst; (intro y e hy))
    | (with_reducible apply Frame.thread_snd; (intro y e hy))
    | (with_reducible apply Frame.thread_trd; (intro y e hy))
    | with_reducible apply Frame.ite
    | split

theorem cancelUnstarted_frame (s : State) (d : Desc) (j : Job) : Frame 281483754344322 s (cancelUnstarted s d j) := by
  unfold cancelUnstarted
  try dsimp only
  try simp only [put_jobs_def]
  repeat' first
    | with_reducible assumption
    | with_reducible apply Frame.refl
    | ((with_reducible apply sub_of); exact Eq.refl true)
    | with_reducible apply Nat.le_succ
    | with_reducible apply mwf_wrBytes_imp
    | with_reducible apply mwf_filter_imp
    | with_reducible apply mwf_nil
    | with_reducible apply mwf_mupd_imp
    | with_reducible apply mwf_wrParts_imp
    | (with_reducible apply Frame.step; with_reducible apply complete_frame)
    | (with_reducible apply Frame.step; with_reducible apply put_jobs_frame)
    | with_reducible apply Frame.ite
    | split

theorem drainPass_frame (s : State) : Frame 3749866345074562 s (drainPass s) := by
  unfold drainPass
  try dsimp only
  repeat' first
    | with_reducible assumption
    | with_reducible apply Frame.refl
    | ((with_reducible apply sub_of); exact Eq.refl true)
    | with_reducible apply Nat.le_succ
    | with_reducible apply mwf_wrBytes_imp
    | with_reducible apply mwf_filter_imp
    | with_reducible apply mwf_nil
    | with_reducible apply mwf_mupd_imp
    | with_reducible apply mwf_wrParts_imp
    | (with_reducible apply Frame.step; with_reducible apply cancelUnstarted_frame)
    | (with_reducible apply Frame.step; with_reducible apply finishUnload_frame)
    | (with_reducible apply Frame.step; with_reducible apply finishUnbind_frame)
    | (with_reducible apply Frame.step; with_reducible apply complete_frame)
    | (with_reducible apply Frame.thread; (intro y e hy))
    | (with_reducible apply Frame.thread_fst; (intro y e hy))
    | (with_reducible apply Frame.thread_snd; (intro y e hy))
    | (with_reducible apply Frame.thread_trd; (intro y e hy))
    | with_reducible apply Frame.ite
    | split

theorem stopTask_frame (s : State) (id : JobId) : Frame 17592186044416 s (stopTask s id) := by
  unfold stopTask
  try dsimp only
  repeat' first
    | with_reducible assumption
    | with_reducible apply Frame.refl
    | ((with_reducible apply sub_of); exact Eq.refl true)
    | (with_reducible apply Frame.step; with_reducible apply updTile_frame)
    | (with_reducible apply Frame.step; with_reducible apply updCtx_frame)
    | with_reducible apply Frame.ite
    | split

theorem completeJob_frame (s : State) (j : Job) (status detail : Nat) : Frame 281475164409730 s (completeJob s j status detail) := by
  unfold completeJob
  try dsimp only
  repeat' first
    | with_reducible assumption
    | with_reducible apply Frame.refl
    | ((with_reducible apply sub_of); exact Eq.refl true)
    | with_reducible apply Nat.le_succ
    | with_reducible apply mwf_wrBytes_imp
    | with_reducible apply mwf_filter_imp
    | with_reducible apply mwf_nil
    | with_reducible apply mwf_mupd_imp
    | with_reducible apply mwf_wrParts_imp
    | (with_reducible apply Frame.step; with_reducible apply complete_frame)
    | with_reducible apply Frame.ite
    | split

theorem cancelOne_frame (s : State) (id : JobId) (detail : Nat) : Frame 369451127017346 s (cancelOne s id detail) := by
  unfold cancelOne
  try dsimp only
  repeat' first
    | with_reducible assumption
    | with_reducible apply Frame.refl
    | ((with_reducible apply sub_of); exact Eq.refl true)
    | with_reducible apply Nat.le_succ
    | with_reducible apply mwf_wrBytes_imp
    | with_reducible apply mwf_filter_imp
    | with_reducible apply mwf_nil
    | with_reducible apply mwf_mupd_imp
    | with_reducible apply mwf_wrParts_imp
    | (with_reducible apply Frame.step; with_reducible apply cancelJobSctx_frame)
    | (with_reducible apply Frame.step; with_reducible apply queuesCancel_frame)
    | (with_reducible apply Frame.step; with_reducible apply completeJob_frame)
    | (with_reducible apply Frame.step; with_reducible apply stopTask_frame)
    | (with_reducible apply Frame.step; with_reducible apply updJob_frame)
    | with_reducible apply Frame.ite
    | split

theorem cancelJob_frame (s : State) (id : JobId) (detail : Nat) : Frame 369451127017346 s (cancelJob s id detail) := by
  unfold cancelJob
  try dsimp only
  repeat' first
    | with_reducible assumption
    | with_reducible apply Frame.refl
    | ((with_reducible apply sub_of); exact Eq.refl true)
    | with_reducible apply Nat.le_succ
    | with_reducible apply mwf_wrBytes_imp
    | with_reducible apply mwf_filter_imp
    | with_reducible apply mwf_nil
    | with_reducible apply mwf_mupd_imp
    | with_reducible apply mwf_wrParts_imp
    | (with_reducible apply Frame.step; with_reducible apply cancelOne_frame)
    | (with_reducible apply Frame.thread; (intro y e hy))
    | (with_reducible apply Frame.thread_fst; (intro y e hy))
    | (with_reducible apply Frame.thread_snd; (intro y e hy))
    | (with_reducible apply Frame.thread_trd; (intro y e hy))
    | with_reducible apply Frame.ite
    | split

theorem dropBlock_frame (s : State) (id : JobId) : Frame 2147483648 s (dropBlock s id) := by
  unfold dropBlock
  try dsimp only
  try simp only [put_objs_def]
  repeat' first
    | with_reducible assumption
    | with_reducible apply Frame.refl
    | ((with_reducible apply sub_of); exact Eq.refl true)
    | (with_reducible apply Frame.step; with_reducible apply put_objs_frame)
    | with_reducible apply Frame.ite
    | split

theorem countEmit_frame (s : State) (j : Job) (token : Bool) : Frame 68719476736 s (countEmit s j token) := by
  unfold countEmit
  try dsimp only
  repeat' first
    | with_reducible assumption
    | with_reducible apply Frame.refl
    | ((with_reducible apply sub_of); exact Eq.refl true)
    | (with_reducible apply Frame.step; with_reducible apply countAt_frame)
    | with_reducible apply Frame.ite
    | split

theorem publish_frame (s : State) (j : Job) : Frame 1425044667371394 s (publish s j) := by
  unfold publish
  try dsimp only
  repeat' first
    | with_reducible assumption
    | with_reducible apply Frame.refl
    | ((with_reducible apply sub_of); exact Eq.refl true)
    | with_reducible apply Nat.le_succ
    | with_reducible apply mwf_wrBytes_imp
    | with_reducible apply mwf_filter_imp
    | with_reducible apply mwf_nil
    | with_reducible apply mwf_mupd_imp
    | with_reducible apply mwf_wrParts_imp
    | (with_reducible apply Frame.step; with_reducible apply answerToken_frame)
    | (with_reducible apply Frame.step; with_reducible apply stageRecord_frame)
    | (with_reducible apply Frame.step; with_reducible apply passToken_frame)
    | (with_reducible apply Frame.step; with_reducible apply countEmit_frame)
    | (with_reducible apply Frame.thread; (intro y e hy))
    | (with_reducible apply Frame.thread_fst; (intro y e hy))
    | (with_reducible apply Frame.thread_snd; (intro y e hy))
    | (with_reducible apply Frame.thread_trd; (intro y e hy))
    | with_reducible apply Frame.ite
    | split

theorem trailStats_frame (s : State) (j : Job) (t : Template) : Frame 2251799813685248 s (trailStats s j t) := by
  unfold trailStats
  try dsimp only
  try simp only [put_drifts_def]
  repeat' first
    | with_reducible assumption
    | with_reducible apply Frame.refl
    | ((with_reducible apply sub_of); exact Eq.refl true)
    | (with_reducible apply Frame.step; with_reducible apply put_drifts_frame)
    | (with_reducible apply Frame.thread; (intro y e hy))
    | (with_reducible apply Frame.thread_fst; (intro y e hy))
    | (with_reducible apply Frame.thread_snd; (intro y e hy))
    | (with_reducible apply Frame.thread_trd; (intro y e hy))
    | with_reducible apply Frame.ite
    | split

theorem countRetire_frame (s : State) (j : Job) : Frame 68719476738 s (countRetire s j) := by
  unfold countRetire
  try dsimp only
  repeat' first
    | with_reducible assumption
    | with_reducible apply Frame.refl
    | ((with_reducible apply sub_of); exact Eq.refl true)
    | (with_reducible apply Frame.step; with_reducible apply countAt_frame)
    | (with_reducible apply Frame.step; with_reducible apply cnt_frame)
    | with_reducible apply Frame.ite
    | split

theorem recovered_frame (s : State) (id : JobId) : Frame 1048576 s (recovered s id) := by
  unfold recovered
  try dsimp only
  try simp only [put_jobs_def]
  repeat' first
    | with_reducible assumption
    | with_reducible apply Frame.refl
    | ((with_reducible apply sub_of); exact Eq.refl true)
    | (with_reducible apply Frame.step; with_reducible apply updFm_frame)
    | (with_reducible apply Frame.step; with_reducible apply put_jobs_frame)
    | with_reducible apply Frame.ite
    | split

theorem retireJob_frame (s : State) (j : Job) (t : Template) : Frame 3747632152317826 s (retireJob s j t) := by
  unfold retireJob
  try dsimp only
  try simp only [put_jobs_def]
  repeat' first
    | with_reducible assumption
    | with_reducible apply Frame.refl
    | ((with_reducible apply sub_of); exact Eq.refl true)
    | with_reducible apply Nat.le_succ
    | with_reducible apply mwf_wrBytes_imp
    | with_reducible apply mwf_filter_imp
    | with_reducible apply mwf_nil
    | with_reducible apply mwf_mupd_imp
    | with_reducible apply mwf_wrParts_imp
    | (with_reducible apply Frame.step; with_reducible apply queuesRetire_frame)
    | (with_reducible apply Frame.step; with_reducible apply releaseSctx_frame)
    | (with_reducible apply Frame.step; with_reducible apply completeJob_frame)
    | (with_reducible apply Frame.step; with_reducible apply countRetire_frame)
    | (with_reducible apply Frame.step; with_reducible apply trailStats_frame)
    | (with_reducible apply Frame.step; with_reducible apply dropBlock_frame)
    | (with_reducible apply Frame.step; with_reducible apply recovered_frame)
    | (with_reducible apply Frame.step; with_reducible apply freePlace_frame)
    | (with_reducible apply Frame.step; with_reducible apply publish_frame)
    | (with_reducible apply Frame.step; with_reducible apply addObj_frame)
    | (with_reducible apply Frame.step; with_reducible apply updJob_frame)
    | (with_reducible apply Frame.step; with_reducible apply settle_frame)
    | (with_reducible apply Frame.step; with_reducible apply put_jobs_frame)
    | (with_reducible apply Frame.thread; (intro y e hy))
    | (with_reducible apply Frame.thread_fst; (intro y e hy))
    | (with_reducible apply Frame.thread_snd; (intro y e hy))
    | (with_reducible apply Frame.thread_trd; (intro y e hy))
    | with_reducible apply Frame.ite
    | split

theorem abortUnit_frame (s : State) (id : JobId) (cause : Nat) : Frame 70377334112256 s (abortUnit s id cause) := by
  unfold abortUnit
  try dsimp only
  repeat' first
    | with_reducible assumption
    | with_reducible apply Frame.refl
    | ((with_reducible apply sub_of); exact Eq.refl true)
    | (with_reducible apply Frame.step; with_reducible apply orderAbort_frame)
    | (with_reducible apply Frame.step; with_reducible apply updSctx_frame)
    | (with_reducible apply Frame.thread; (intro y e hy))
    | (with_reducible apply Frame.thread_fst; (intro y e hy))
    | (with_reducible apply Frame.thread_snd; (intro y e hy))
    | (with_reducible apply Frame.thread_trd; (intro y e hy))
    | with_reducible apply Frame.ite
    | split

theorem endAttempt_frame (s : State) (j : Job) (cause : Nat) : Frame 77312557058 s (endAttempt s j cause) := by
  unfold endAttempt
  try dsimp only
  repeat' first
    | with_reducible assumption
    | with_reducible apply Frame.refl
    | ((with_reducible apply sub_of); exact Eq.refl true)
    | (with_reducible apply Frame.step; with_reducible apply pushReport_frame)
    | (with_reducible apply Frame.step; with_reducible apply countAt_frame)
    | (with_reducible apply Frame.step; with_reducible apply updJob_frame)
    | (with_reducible apply Frame.step; with_reducible apply evSet_frame)
    | (with_reducible apply Frame.step; with_reducible apply cnt_frame)
    | with_reducible apply Frame.ite
    | split

theorem abortJob_frame (s : State) (j : Job) (cause : Nat) : Frame 369519846494082 s (abortJob s j cause) := by
  unfold abortJob
  try dsimp only
  repeat' first
    | with_reducible assumption
    | with_reducible apply Frame.refl
    | ((with_reducible apply sub_of); exact Eq.refl true)
    | with_reducible apply Nat.le_succ
    | with_reducible apply mwf_wrBytes_imp
    | with_reducible apply mwf_filter_imp
    | with_reducible apply mwf_nil
    | with_reducible apply mwf_mupd_imp
    | with_reducible apply mwf_wrParts_imp
    | (with_reducible apply Frame.step; with_reducible apply cancelJobSctx_frame)
    | (with_reducible apply Frame.step; with_reducible apply queuesAbort_frame)
    | (with_reducible apply Frame.step; with_reducible apply endAttempt_frame)
    | (with_reducible apply Frame.step; with_reducible apply abortUnit_frame)
    | (with_reducible apply Frame.step; with_reducible apply stopTask_frame)
    | with_reducible apply Frame.ite
    | split

theorem requeue_frame (s : State) (id : JobId) : Frame 299556808953730 s (requeue s id) := by
  unfold requeue
  try dsimp only
  repeat' first
    | with_reducible assumption
    | with_reducible apply Frame.refl
    | ((with_reducible apply sub_of); exact Eq.refl true)
    | with_reducible apply Nat.le_succ
    | with_reducible apply mwf_wrBytes_imp
    | with_reducible apply mwf_filter_imp
    | with_reducible apply mwf_nil
    | with_reducible apply mwf_mupd_imp
    | with_reducible apply mwf_wrParts_imp
    | (with_reducible apply Frame.step; with_reducible apply updJob_frame)
    | (with_reducible apply Frame.step; with_reducible apply settle_frame)
    | with_reducible apply Frame.ite
    | split

theorem sbCommit_frame (s : State) (t : Nat) : Frame 17592186046720 s (sbCommit s t) := by
  unfold sbCommit
  try dsimp only
  repeat' first
    | with_reducible assumption
    | with_reducible apply Frame.refl
    | ((with_reducible apply sub_of); exact Eq.refl true)
    | with_reducible apply mwf_wrBytes_imp
    | with_reducible apply mwf_filter_imp
    | with_reducible apply mwf_nil
    | with_reducible apply mwf_mupd_imp
    | with_reducible apply mwf_wrParts_imp
    | (with_reducible apply Frame.step; with_reducible apply spWrite_frame)
    | (with_reducible apply Frame.step; with_reducible apply updTile_frame)
    | with_reducible apply Frame.ite
    | split

end Sys2Proof.Machine
end

