-- ==== Sys2Proof/Laws/PeersFrames.lean ====
section
/-! SUPPORT. What each operation of Machine/Peers.lean can do to the state. -/

namespace Sys2Proof.Machine

set_option Elab.async false

theorem sendMsg_frame (s : State) (p c : Nat) (h : MsgHead) (body : List Byte) : Frame 1407374903480194 s (sendMsg s p c h body) := by
  unfold sendMsg
  try dsimp only
  repeat' first
    | with_reducible assumption
    | with_reducible apply Frame.refl
    | ((with_reducible apply sub_of); exact Eq.refl true)
    | with_reducible apply Nat.le_succ
    | with_reducible apply mwf_wrBytes_imp
    | with_reducible apply mwf_filter_imp
    | with_reducible apply mwf_nil
    | with_reducible apply mwf_mupd_imp
    | with_reducible apply mwf_wrParts_imp
    | (with_reducible apply Frame.step; with_reducible apply updChan_frame)
    | (with_reducible apply Frame.step; with_reducible apply devPut_frame)
    | with_reducible apply Frame.ite
    | split

theorem updRoute_frame (s : State) (id : BitVec 128) (rank : Nat) (f : Route → Route) : Frame 1125899906842624 s (updRoute s id rank f) := by
  unfold updRoute
  try dsimp only
  repeat' first
    | with_reducible assumption
    | with_reducible apply Frame.refl
    | ((with_reducible apply sub_of); exact Eq.refl true)
    | (with_reducible apply Frame.step; with_reducible apply updPm_frame)
    | with_reducible apply Frame.ite
    | split

theorem sendCredit_frame (s : State) (p : Nat) : Frame 1407374903480194 s (sendCredit s p) := by
  unfold sendCredit
  try dsimp only
  repeat' first
    | with_reducible assumption
    | with_reducible apply Frame.refl
    | ((with_reducible apply sub_of); exact Eq.refl true)
    | with_reducible apply Nat.le_succ
    | with_reducible apply mwf_wrBytes_imp
    | with_reducible apply mwf_filter_imp
    | with_reducible apply mwf_nil
    | with_reducible apply mwf_mupd_imp
    | with_reducible apply mwf_wrParts_imp
    | (with_reducible apply Frame.step; with_reducible apply devPut_frame)
    | (with_reducible apply Frame.step; with_reducible apply updWin_frame)
    | (with_reducible apply Frame.thread; (intro y e hy))
    | (with_reducible apply Frame.thread_fst; (intro y e hy))
    | (with_reducible apply Frame.thread_snd; (intro y e hy))
    | (with_reducible apply Frame.thread_trd; (intro y e hy))
    | with_reducible apply Frame.ite
    | split

theorem logDiscard_frame (s : State) (sender reqId reason w epoch : Nat) : Frame 2 s (logDiscard s sender reqId reason w epoch) := by
  unfold logDiscard
  try dsimp only
  repeat' first
    | with_reducible assumption
    | with_reducible apply Frame.refl
    | ((with_reducible apply sub_of); exact Eq.refl true)
    | (with_reducible apply Frame.step; with_reducible apply setF_frame)
    | (with_reducible apply Frame.thread; (intro y e hy))
    | (with_reducible apply Frame.thread_fst; (intro y e hy))
    | (with_reducible apply Frame.thread_snd; (intro y e hy))
    | (with_reducible apply Frame.thread_trd; (intro y e hy))
    | with_reducible apply Frame.ite
    | split

theorem nack_frame (s : State) (h : List Byte) (reason : Nat) : Frame 1125899906842624 s (nack s h reason) := by
  unfold nack
  try dsimp only
  repeat' first
    | with_reducible assumption
    | with_reducible apply Frame.refl
    | ((with_reducible apply sub_of); exact Eq.refl true)
    | (with_reducible apply Frame.step; with_reducible apply updPm_frame)
    | with_reducible apply Frame.ite
    | split

theorem refuseMsg_frame (s : State) (w reqId : Nat) (h : List Byte) (reason : Nat) : Frame 1125899906842626 s (refuseMsg s w reqId h reason) := by
  unfold refuseMsg
  try dsimp only
  repeat' first
    | with_reducible assumption
    | with_reducible apply Frame.refl
    | ((with_reducible apply sub_of); exact Eq.refl true)
    | (with_reducible apply Frame.step; with_reducible apply logDiscard_frame)
    | (with_reducible apply Frame.step; with_reducible apply nack_frame)
    | (with_reducible apply Frame.step; with_reducible apply cnt_frame)
    | with_reducible apply Frame.ite
    | split

theorem landClosed_frame (s : State) (w off reqId : Nat) (bs : List Byte) (poison : Bool) : Frame 1125899906842626 s (landClosed s w off reqId bs poison) := by
  unfold landClosed
  try dsimp only
  repeat' first
    | with_reducible assumption
    | with_reducible apply Frame.refl
    | ((with_reducible apply sub_of); exact Eq.refl true)
    | (with_reducible apply Frame.step; with_reducible apply logDiscard_frame)
    | (with_reducible apply Frame.step; with_reducible apply refuseMsg_frame)
    | (with_reducible apply Frame.step; with_reducible apply cnt_frame)
    | with_reducible apply Frame.ite
    | split

theorem windowFault_frame (s : State) (w : Nat) : Frame 1125899909988354 s (windowFault s w) := by
  unfold windowFault
  try dsimp only
  repeat' first
    | with_reducible assumption
    | with_reducible apply Frame.refl
    | ((with_reducible apply sub_of); exact Eq.refl true)
    | (with_reducible apply Frame.step; with_reducible apply updWin_frame)
    | (with_reducible apply Frame.step; with_reducible apply report_frame)
    | (with_reducible apply Frame.step; with_reducible apply evSet_frame)
    | (with_reducible apply Frame.step; with_reducible apply cnt_frame)
    | with_reducible apply Frame.ite
    | split

theorem landBlock_frame (s : State) (w pos reqId : Nat) (b : List Byte) (poison : Bool) : Frame 1407374903480194 s (landBlock s w pos reqId b poison) := by
  unfold landBlock
  try dsimp only
  repeat' first
    | with_reducible assumption
    | with_reducible apply Frame.refl
    | ((with_reducible apply sub_of); exact Eq.refl true)
    | with_reducible apply Nat.le_succ
    | with_reducible apply mwf_wrBytes_imp
    | with_reducible apply mwf_filter_imp
    | with_reducible apply mwf_nil
    | with_reducible apply mwf_mupd_imp
    | with_reducible apply mwf_wrParts_imp
    | (with_reducible apply Frame.step; with_reducible apply windowFault_frame)
    | (with_reducible apply Frame.step; with_reducible apply devWrite_frame)
    | (with_reducible apply Frame.step; with_reducible apply updWin_frame)
    | with_reducible apply Frame.ite
    | split

theorem popWin_frame (s : State) (w : Nat) : Frame 1125899906842624 s (popWin s w) := by
  unfold popWin
  try dsimp only
  repeat' first
    | with_reducible assumption
    | with_reducible apply Frame.refl
    | ((with_reducible apply sub_of); exact Eq.refl true)
    | (with_reducible apply Frame.step; with_reducible apply updWin_frame)
    | with_reducible apply Frame.ite
    | split

theorem landWrite_frame (s : State) (w off reqId : Nat) (bs : List Byte) (poison : Bool) : Frame 1407374903480194 s (landWrite s w off reqId bs poison) := by
  unfold landWrite
  try dsimp only
  repeat' first
    | with_reducible assumption
    | with_reducible apply Frame.refl
    | ((with_reducible apply sub_of); exact Eq.refl true)
    | with_reducible apply Nat.le_succ
    | with_reducible apply mwf_wrBytes_imp
    | with_reducible apply mwf_filter_imp
    | with_reducible apply mwf_nil
    | with_reducible apply mwf_mupd_imp
    | with_reducible apply mwf_wrParts_imp
    | (with_reducible apply Frame.step; with_reducible apply windowFault_frame)
    | (with_reducible apply Frame.step; with_reducible apply landClosed_frame)
    | (with_reducible apply Frame.step; with_reducible apply landBlock_frame)
    | (with_reducible apply Frame.step; with_reducible apply devWrite_frame)
    | (with_reducible apply Frame.step; with_reducible apply updWin_frame)
    | (with_reducible apply Frame.step; with_reducible apply popWin_frame)
    | (with_reducible apply Frame.thread; (intro y e hy))
    | (with_reducible apply Frame.thread_fst; (intro y e hy))
    | (with_reducible apply Frame.thread_snd; (intro y e hy))
    | (with_reducible apply Frame.thread_trd; (intro y e hy))
    | with_reducible apply Frame.ite
    | split

theorem judged_frame (s : State) (w : Nat) (m : HeldMsg) : Frame 1125899906842624 s (judged s w m) := by
  unfold judged
  try dsimp only
  repeat' first
    | with_reducible assumption
    | with_reducible apply Frame.refl
    | ((with_reducible apply sub_of); exact Eq.refl true)
    | (with_reducible apply Frame.step; with_reducible apply updWin_frame)
    | with_reducible apply Frame.ite
    | split

theorem refused_frame (s : State) (w : Nat) (m : HeldMsg) (bs : List Byte) (t : State) (h : refused s w m bs = some t) :
    Frame 1125899906842626 s t := by
  unfold refused at h
  split at h
  · cases h
    exact Frame.step (freeMsg_frame ..) rfl (Frame.step (nack_frame ..) rfl (Frame.step (cnt_frame ..) rfl (Frame.refl _)))
  · split at h
    · cases h
      exact Frame.step (freeMsg_frame ..) rfl (Frame.step (refuseMsg_frame ..) rfl (Frame.refl _))
    · cases h

theorem oddPass_frame (s : State) (w : Nat) : Frame 1125899906842626 s (oddPass s w) := by
  unfold oddPass
  try dsimp only
  repeat' first
    | with_reducible assumption
    | with_reducible apply Frame.refl
    | ((with_reducible apply sub_of); exact Eq.refl true)
    | (with_reducible apply Frame.step; with_reducible apply freeMsg_frame)
    | (with_reducible apply Frame.step; with_reducible apply judged_frame)
    | (with_reducible apply Frame.step; with_reducible apply nack_frame)
    | (with_reducible apply Frame.step; with_reducible apply cnt_frame)
    | (with_reducible apply Frame.thread; (intro y e hy))
    | (with_reducible apply Frame.thread_fst; (intro y e hy))
    | (with_reducible apply Frame.thread_snd; (intro y e hy))
    | (with_reducible apply Frame.thread_trd; (intro y e hy))
    | with_reducible apply Frame.ite
    | split

theorem resultRefused_frame (s : State) (bs : List Byte) : Frame 1425456715796354 s (resultRefused s bs) := by
  unfold resultRefused
  try dsimp only
  repeat' first
    | with_reducible assumption
    | with_reducible apply Frame.refl
    | ((with_reducible apply sub_of); exact Eq.refl true)
    | with_reducible apply Nat.le_succ
    | with_reducible apply mwf_wrBytes_imp
    | with_reducible apply mwf_filter_imp
    | with_reducible apply mwf_nil
    | with_reducible apply mwf_mupd_imp
    | with_reducible apply mwf_wrParts_imp
    | (with_reducible apply Frame.step; with_reducible apply regenerate_frame)
    | (with_reducible apply Frame.step; with_reducible apply settle_frame)
    | (with_reducible apply Frame.step; with_reducible apply updPm_frame)
    | with_reducible apply Frame.ite
    | split

theorem tokenRefused_frame (s : State) (bs : List Byte) : Frame 1125899906842624 s (tokenRefused s bs) := by
  unfold tokenRefused
  try dsimp only
  repeat' first
    | with_reducible assumption
    | with_reducible apply Frame.refl
    | ((with_reducible apply sub_of); exact Eq.refl true)
    | (with_reducible apply Frame.step; with_reducible apply updRoute_frame)
    | with_reducible apply Frame.ite
    | split

theorem dropAnswered_frame (s : State) (p : Nat) : Frame 1425456715796354 s (dropAnswered s p) := by
  unfold dropAnswered
  try dsimp only
  repeat' first
    | with_reducible assumption
    | with_reducible apply Frame.refl
    | ((with_reducible apply sub_of); exact Eq.refl true)
    | with_reducible apply Nat.le_succ
    | with_reducible apply mwf_wrBytes_imp
    | with_reducible apply mwf_filter_imp
    | with_reducible apply mwf_nil
    | with_reducible apply mwf_mupd_imp
    | with_reducible apply mwf_wrParts_imp
    | (with_reducible apply Frame.step; with_reducible apply updChan_frame)
    | (with_reducible apply Frame.step; with_reducible apply settle_frame)
    | (with_reducible apply Frame.step; with_reducible apply dropRx_frame)
    | (with_reducible apply Frame.thread; (intro y e hy))
    | (with_reducible apply Frame.thread_fst; (intro y e hy))
    | (with_reducible apply Frame.thread_snd; (intro y e hy))
    | (with_reducible apply Frame.thread_trd; (intro y e hy))
    | with_reducible apply Frame.ite
    | split

theorem takeCounts_frame (s : State) (w : Nat) (b : List Byte) : Frame 1425456715796354 s (takeCounts s w b) := by
  unfold takeCounts
  try dsimp only
  repeat' first
    | with_reducible assumption
    | with_reducible apply Frame.refl
    | ((with_reducible apply sub_of); exact Eq.refl true)
    | with_reducible apply Nat.le_succ
    | with_reducible apply mwf_wrBytes_imp
    | with_reducible apply mwf_filter_imp
    | with_reducible apply mwf_nil
    | with_reducible apply mwf_mupd_imp
    | with_reducible apply mwf_wrParts_imp
    | (with_reducible apply Frame.step; with_reducible apply dropAnswered_frame)
    | (with_reducible apply Frame.step; with_reducible apply updChan_frame)
    | with_reducible apply Frame.ite
    | split

theorem landShut_frame (s : State) (w off reqId : Nat) (bs : List Byte) (poison : Bool) : Frame 1425456715796354 s (landShut s w off reqId bs poison) := by
  unfold landShut
  try dsimp only
  repeat' first
    | with_reducible assumption
    | with_reducible apply Frame.refl
    | ((with_reducible apply sub_of); exact Eq.refl true)
    | with_reducible apply Nat.le_succ
    | with_reducible apply mwf_wrBytes_imp
    | with_reducible apply mwf_filter_imp
    | with_reducible apply mwf_nil
    | with_reducible apply mwf_mupd_imp
    | with_reducible apply mwf_wrParts_imp
    | (with_reducible apply Frame.step; with_reducible apply takeCounts_frame)
    | (with_reducible apply Frame.step; with_reducible apply landClosed_frame)
    | with_reducible apply Frame.ite
    | split

theorem applyShadow_frame (s : State) (f : Fld) (i : Nat) : Frame 6 s (applyShadow s f i) := by
  unfold applyShadow
  try dsimp only
  try simp only [put_shadow_def]
  repeat' first
    | with_reducible assumption
    | with_reducible apply Frame.refl
    | ((with_reducible apply sub_of); exact Eq.refl true)
    | (with_reducible apply Frame.step; with_reducible apply setF_frame)
    | (with_reducible apply Frame.step; with_reducible apply put_shadow_frame)
    | with_reducible apply Frame.ite
    | split

theorem leaveBatch_frame (s : State) (k : RxToken) : Frame 1407383493414786 s (leaveBatch s k) := by
  unfold leaveBatch
  try dsimp only
  try simp only [put_jobs_def]
  repeat' first
    | with_reducible assumption
    | with_reducible apply Frame.refl
    | ((with_reducible apply sub_of); exact Eq.refl true)
    | with_reducible apply Nat.le_succ
    | with_reducible apply mwf_wrBytes_imp
    | with_reducible apply mwf_filter_imp
    | with_reducible apply mwf_nil
    | with_reducible apply mwf_mupd_imp
    | with_reducible apply mwf_wrParts_imp
    | (with_reducible apply Frame.step; with_reducible apply updBatch_frame)
    | (with_reducible apply Frame.step; with_reducible apply updJob_frame)
    | (with_reducible apply Frame.step; with_reducible apply devPut_frame)
    | (with_reducible apply Frame.step; with_reducible apply put_jobs_frame)
    | with_reducible apply Frame.ite
    | split

theorem closeWindow_frame (s : State) (w : Nat) : Frame 1407383493414786 s (closeWindow s w) := by
  unfold closeWindow
  try dsimp only
  repeat' first
    | with_reducible assumption
    | with_reducible apply Frame.refl
    | ((with_reducible apply sub_of); exact Eq.refl true)
    | with_reducible apply Nat.le_succ
    | with_reducible apply mwf_wrBytes_imp
    | with_reducible apply mwf_filter_imp
    | with_reducible apply mwf_nil
    | with_reducible apply mwf_mupd_imp
    | with_reducible apply mwf_wrParts_imp
    | (with_reducible apply Frame.step; with_reducible apply leaveBatch_frame)
    | (with_reducible apply Frame.step; with_reducible apply refuseMsg_frame)
    | (with_reducible apply Frame.step; with_reducible apply freeMsg_frame)
    | (with_reducible apply Frame.step; with_reducible apply dropRx_frame)
    | (with_reducible apply Frame.step; with_reducible apply updWin_frame)
    | (with_reducible apply Frame.thread; (intro y e hy))
    | (with_reducible apply Frame.thread_fst; (intro y e hy))
    | (with_reducible apply Frame.thread_snd; (intro y e hy))
    | (with_reducible apply Frame.thread_trd; (intro y e hy))
    | with_reducible apply Frame.ite
    | split

theorem closeChannel_frame (s : State) (k : Nat) : Frame 1407383493414786 s (closeChannel s k) := by
  unfold closeChannel
  try dsimp only
  try simp only [put_chans_def]
  repeat' first
    | with_reducible assumption
    | with_reducible apply Frame.refl
    | ((with_reducible apply sub_of); exact Eq.refl true)
    | with_reducible apply Nat.le_succ
    | with_reducible apply mwf_wrBytes_imp
    | with_reducible apply mwf_filter_imp
    | with_reducible apply mwf_nil
    | with_reducible apply mwf_mupd_imp
    | with_reducible apply mwf_wrParts_imp
    | (with_reducible apply Frame.step; with_reducible apply leaveBatch_frame)
    | (with_reducible apply Frame.step; with_reducible apply dropRx_frame)
    | (with_reducible apply Frame.step; with_reducible apply updPm_frame)
    | (with_reducible apply Frame.step; with_reducible apply put_chans_frame)
    | (with_reducible apply Frame.thread; (intro y e hy))
    | (with_reducible apply Frame.thread_fst; (intro y e hy))
    | (with_reducible apply Frame.thread_snd; (intro y e hy))
    | (with_reducible apply Frame.thread_trd; (intro y e hy))
    | with_reducible apply Frame.ite
    | split

theorem shutWindow_frame (s : State) (w : Nat) : Frame 1407383493414790 s (shutWindow s w) := by
  unfold shutWindow
  try dsimp only
  repeat' first
    | with_reducible assumption
    | with_reducible apply Frame.refl
    | ((with_reducible apply sub_of); exact Eq.refl true)
    | with_reducible apply Nat.le_succ
    | with_reducible apply mwf_wrBytes_imp
    | with_reducible apply mwf_filter_imp
    | with_reducible apply mwf_nil
    | with_reducible apply mwf_mupd_imp
    | with_reducible apply mwf_wrParts_imp
    | (with_reducible apply Frame.step; with_reducible apply closeWindow_frame)
    | (with_reducible apply Frame.step; with_reducible apply applyShadow_frame)
    | with_reducible apply Frame.ite
    | split

theorem shutChannel_frame (s : State) (k : Nat) : Frame 1407383493414790 s (shutChannel s k) := by
  unfold shutChannel
  try dsimp only
  repeat' first
    | with_reducible assumption
    | with_reducible apply Frame.refl
    | ((with_reducible apply sub_of); exact Eq.refl true)
    | with_reducible apply Nat.le_succ
    | with_reducible apply mwf_wrBytes_imp
    | with_reducible apply mwf_filter_imp
    | with_reducible apply mwf_nil
    | with_reducible apply mwf_mupd_imp
    | with_reducible apply mwf_wrParts_imp
    | (with_reducible apply Frame.step; with_reducible apply closeChannel_frame)
    | (with_reducible apply Frame.step; with_reducible apply applyShadow_frame)
    | with_reducible apply Frame.ite
    | split

theorem openWindow_frame (s : State) (w : Nat) : Frame 1125899906842626 s (openWindow s w) := by
  unfold openWindow
  try dsimp only
  repeat' first
    | with_reducible assumption
    | with_reducible apply Frame.refl
    | ((with_reducible apply sub_of); exact Eq.refl true)
    | (with_reducible apply Frame.step; with_reducible apply updWin_frame)
    | (with_reducible apply Frame.step; with_reducible apply setF_frame)
    | with_reducible apply Frame.ite
    | split

theorem openChannel_frame (s : State) (k : Nat) : Frame 1125899906842624 s (openChannel s k) := by
  unfold openChannel
  try dsimp only
  repeat' first
    | with_reducible assumption
    | with_reducible apply Frame.refl
    | ((with_reducible apply sub_of); exact Eq.refl true)
    | (with_reducible apply Frame.step; with_reducible apply updChan_frame)
    | with_reducible apply Frame.ite
    | split

theorem resendRoutes_frame (old s : State) : Frame 1407383493414786 s (resendRoutes old s) := by
  unfold resendRoutes
  try dsimp only
  repeat' first
    | with_reducible assumption
    | with_reducible apply Frame.refl
    | ((with_reducible apply sub_of); exact Eq.refl true)
    | with_reducible apply Nat.le_succ
    | with_reducible apply mwf_wrBytes_imp
    | with_reducible apply mwf_filter_imp
    | with_reducible apply mwf_nil
    | with_reducible apply mwf_mupd_imp
    | with_reducible apply mwf_wrParts_imp
    | (with_reducible apply Frame.step; with_reducible apply sendRoute_frame)
    | (with_reducible apply Frame.thread; (intro y e hy))
    | (with_reducible apply Frame.thread_fst; (intro y e hy))
    | (with_reducible apply Frame.thread_snd; (intro y e hy))
    | (with_reducible apply Frame.thread_trd; (intro y e hy))
    | with_reducible apply Frame.ite
    | split

end Sys2Proof.Machine
end

