-- ==== Sys2Proof/Laws/EventHubFrames.lean ====
section
/-! SUPPORT. What each operation of Machine/EventHub.lean can do to the state. -/

namespace Sys2Proof.Machine

set_option Elab.async false

theorem wakeCore_frame (s : State) (n : Nat) : Frame 8388610 s (wakeCore s n) := by
  unfold wakeCore
  try dsimp only
  repeat' first
    | with_reducible assumption
    | with_reducible apply Frame.refl
    | ((with_reducible apply sub_of); exact Eq.refl true)
    | (with_reducible apply Frame.step; with_reducible apply updCore_frame)
    | (with_reducible apply Frame.step; with_reducible apply addF_frame)
    | with_reducible apply Frame.ite
    | split

theorem setG_frame (s : State) (n r v : Nat) : Frame 8388608 s (setG s n r v) := by
  unfold setG
  try dsimp only
  repeat' first
    | with_reducible assumption
    | with_reducible apply Frame.refl
    | ((with_reducible apply sub_of); exact Eq.refl true)
    | (with_reducible apply Frame.step; with_reducible apply updCore_frame)
    | with_reducible apply Frame.ite
    | split

theorem coreDone_frame (s : State) (n : Nat) (next : BitVec 32) (loop : Core → Core) : Frame 8388610 s (coreDone s n next loop) := by
  unfold coreDone
  try dsimp only
  repeat' first
    | with_reducible assumption
    | with_reducible apply Frame.refl
    | ((with_reducible apply sub_of); exact Eq.refl true)
    | (with_reducible apply Frame.step; with_reducible apply updCore_frame)
    | (with_reducible apply Frame.step; with_reducible apply addF_frame)
    | with_reducible apply Frame.ite
    | split

theorem coreNext_frame (s : State) (n : Nat) : Frame 8388610 s (coreNext s n) := by
  unfold coreNext
  try dsimp only
  repeat' first
    | with_reducible assumption
    | with_reducible apply Frame.refl
    | ((with_reducible apply sub_of); exact Eq.refl true)
    | (with_reducible apply Frame.step; with_reducible apply coreDone_frame)
    | with_reducible apply Frame.ite
    | split

theorem doubleFault_frame (quiet : Bool) (s : State) (n cause tval : Nat) : Frame 11534338 s (doubleFault quiet s n cause tval) := by
  unfold doubleFault
  try dsimp only
  repeat' first
    | with_reducible assumption
    | with_reducible apply Frame.refl
    | ((with_reducible apply sub_of); exact Eq.refl true)
    | (with_reducible apply Frame.step; with_reducible apply setSource_frame)
    | (with_reducible apply Frame.step; with_reducible apply updCore_frame)
    | (with_reducible apply Frame.step; with_reducible apply report_frame)
    | (with_reducible apply Frame.step; with_reducible apply addF_frame)
    | with_reducible apply Frame.ite
    | split

theorem trapWith_frame (quiet : Bool) (s : State) (n cause tval : Nat) : Frame 11534338 s (trapWith quiet s n cause tval) := by
  unfold trapWith
  try dsimp only
  repeat' first
    | with_reducible assumption
    | with_reducible apply Frame.refl
    | ((with_reducible apply sub_of); exact Eq.refl true)
    | (with_reducible apply Frame.step; with_reducible apply doubleFault_frame)
    | (with_reducible apply Frame.step; with_reducible apply updCore_frame)
    | (with_reducible apply Frame.step; with_reducible apply report_frame)
    | (with_reducible apply Frame.step; with_reducible apply addF_frame)
    | with_reducible apply Frame.ite
    | split

theorem takeTrap_frame (s : State) (n cause tval : Nat) : Frame 11534338 s (takeTrap s n cause tval) := by
  unfold takeTrap
  try dsimp only
  repeat' first
    | with_reducible assumption
    | with_reducible apply Frame.refl
    | ((with_reducible apply sub_of); exact Eq.refl true)
    | (with_reducible apply Frame.step; with_reducible apply trapWith_frame)
    | with_reducible apply Frame.ite
    | split

theorem trapIllegal_frame (s : State) (n : Nat) : Frame 11534338 s (trapIllegal s n) := by
  unfold trapIllegal
  try dsimp only
  repeat' first
    | with_reducible assumption
    | with_reducible apply Frame.refl
    | ((with_reducible apply sub_of); exact Eq.refl true)
    | (with_reducible apply Frame.step; with_reducible apply takeTrap_frame)
    | with_reducible apply Frame.ite
    | split

theorem onCore_frame {m : Nat} (s : State) (n : Nat) (f : State → State) (hm : sub 11534338 m = true) (hf : Frame m s (f s)) :
    Frame m s (onCore s n f) := by
  unfold onCore
  split
  · exact Frame.refl _
  · split
    · exact Frame.step (takeTrap_frame ..) hm (Frame.refl _)
    · exact hf

theorem markHost_frame (s : State) (n : Nat) (ps : List (Nat × Nat)) : Frame 8388608 s (markHost s n ps) := by
  unfold markHost
  try dsimp only
  repeat' first
    | with_reducible assumption
    | with_reducible apply Frame.refl
    | ((with_reducible apply sub_of); exact Eq.refl true)
    | (with_reducible apply Frame.step; with_reducible apply updCore_frame)
    | with_reducible apply Frame.ite
    | split

theorem coreReadPart_frame (s : State) (n : Nat) (p : Nat × Nat) : Frame 281475013410962 s (coreReadPart s n p).2 := by
  unfold coreReadPart
  try dsimp only
  repeat' first
    | with_reducible assumption
    | with_reducible apply Frame.refl
    | ((with_reducible apply sub_of); exact Eq.refl true)
    | with_reducible apply Nat.le_succ
    | (with_reducible apply Frame.step; with_reducible apply touchWindow_frame)
    | (with_reducible apply Frame.step; with_reducible apply devRead_frame)
    | (with_reducible apply Frame.step; with_reducible apply Frame.snd; with_reducible assumption; with_reducible apply devRead_frame)
    | (with_reducible apply Frame.step; with_reducible apply regRead_frame)
    | (with_reducible apply Frame.step; with_reducible apply Frame.snd; with_reducible assumption; with_reducible apply regRead_frame)
    | (with_reducible apply Frame.step; with_reducible apply addF_frame)
    | with_reducible apply Frame.ite
    | split

theorem coreLoadTo_frame {m : Nat} (s : State) (n size : Nat) (signed : Bool) (rd a : Nat) (parityFails busError : Bool)
    (after : State → State) (hm : sub 281475038576786 m = true) (hf : ∀ y, Frame m s y → Frame m s (after y)) :
    Frame m s (coreLoadTo s n size signed rd a parityFails busError after) := by
  unfold coreLoadTo
  dsimp only
  have hr : Frame m s ((coreParts a size).foldl (fun (acc : List (Byte × Bool) × State) p =>
      (acc.1 ++ (coreReadPart acc.2 n p).1, (coreReadPart acc.2 n p).2)) ([], s)).2 :=
    Frame.foldl_snd (fun y e hy => Frame.step (coreReadPart_frame ..) (sub_trans rfl hm) hy) (Frame.refl _)
  repeat' first
    | exact hr
    | exact Frame.step (markHost_frame ..) (sub_trans rfl hm) (Frame.refl _)
    | exact Frame.step (takeTrap_frame ..) (sub_trans rfl hm) (Frame.step (clearFailed_frame ..) (sub_trans rfl hm) (Frame.refl _))
    | exact Frame.step (takeTrap_frame ..) (sub_trans rfl hm) hr
    | exact Frame.step (takeTrap_frame ..) (sub_trans rfl hm) (Frame.refl _)
    | exact Frame.step (addF_frame ..) (sub_trans rfl hm) (Frame.refl _)
    | exact Frame.step (addF_frame ..) (sub_trans rfl hm) (Frame.step (updCore_frame ..) (sub_trans rfl hm) (Frame.refl _))
    | exact Frame.refl _
    | exact Frame.step (coreNext_frame ..) (sub_trans rfl hm) (Frame.step (setG_frame ..) (sub_trans rfl hm) (hf _ hr))
    | apply Frame.ite

theorem coreStoreFrom_frame {m : Nat} (s : State) (n a : Nat) (bs : List Byte) (after : State → State)
    (hm : sub 11534338 m = true) (hf : ∀ y, Frame m s y → Frame m s (after y)) : Frame m s (coreStoreFrom s n a bs after) := by
  unfold coreStoreFrom
  dsimp only
  split
  · exact Frame.step (takeTrap_frame ..) (sub_trans rfl hm) (Frame.refl _)
  · split
    · exact Frame.refl _
    · exact Frame.step (coreNext_frame ..) (sub_trans rfl hm)
        (hf _ (Frame.step (updCore_frame ..) (sub_trans rfl hm) (Frame.refl _)))

theorem completeSource_frame (s : State) (n : Nat) : Frame 2097152 s (completeSource s n) := by
  unfold completeSource
  try dsimp only
  repeat' first
    | with_reducible assumption
    | with_reducible apply Frame.refl
    | ((with_reducible apply sub_of); exact Eq.refl true)
    | (with_reducible apply Frame.step; with_reducible apply setSource_frame)
    | with_reducible apply Frame.ite
    | split

theorem claim_frame (s : State) (n : Nat) : Frame 10485890 s (claim s n).2 := by
  unfold claim
  try dsimp only
  repeat' first
    | with_reducible assumption
    | with_reducible apply Frame.refl
    | ((with_reducible apply sub_of); exact Eq.refl true)
    | with_reducible apply Nat.le_succ
    | (with_reducible apply Frame.step; with_reducible apply setSource_frame)
    | (with_reducible apply Frame.step; with_reducible apply updCore_frame)
    | (with_reducible apply Frame.step; with_reducible apply drawn_frame)
    | (with_reducible apply Frame.step; with_reducible apply cnt_frame)
    | with_reducible apply Frame.ite
    | split

end Sys2Proof.Machine
end

