-- ==== Sys2Proof/Laws/CoresFrames.lean ====
section
/-! SUPPORT. What each operation of Machine/Cores.lean can do to the state. -/

namespace Sys2Proof.Machine

set_option Elab.async false

theorem dropActive_frame (s : State) (n : Nat) : Frame 10485760 s (dropActive s n) := by
  unfold dropActive
  try dsimp only
  repeat' first
    | with_reducible assumption
    | with_reducible apply Frame.refl
    | ((with_reducible apply sub_of); exact Eq.refl true)
    | (with_reducible apply Frame.step; with_reducible apply completeSource_frame)
    | (with_reducible apply Frame.step; with_reducible apply updCore_frame)
    | with_reducible apply Frame.ite
    | split

theorem coreJump_frame (s : State) (n : Nat) (taken : Option (BitVec 32)) : Frame 8388610 s (coreJump s n taken) := by
  unfold coreJump
  try dsimp only
  repeat' first
    | with_reducible assumption
    | with_reducible apply Frame.refl
    | ((with_reducible apply sub_of); exact Eq.refl true)
    | (with_reducible apply Frame.step; with_reducible apply coreDone_frame)
    | with_reducible apply Frame.ite
    | split

theorem setBitVar_frame (s : State) (b : Nat) (v : Bool) : Frame 16384 s (setBitVar s b v) := by
  unfold setBitVar
  try dsimp only
  try simp only [put_bitVars_def]
  repeat' first
    | with_reducible assumption
    | with_reducible apply Frame.refl
    | ((with_reducible apply sub_of); exact Eq.refl true)
    | with_reducible apply mwf_wrBytes_imp
    | with_reducible apply mwf_filter_imp
    | with_reducible apply mwf_nil
    | with_reducible apply mwf_mupd_imp
    | with_reducible apply mwf_wrParts_imp
    | (with_reducible apply Frame.step; with_reducible apply put_bitVars_frame)
    | with_reducible apply Frame.ite
    | split

end Sys2Proof.Machine
end

