-- ==== Sys2Proof/Laws/OperandsFrames.lean ====
section
/-! SUPPORT. What each operation of Machine/Operands.lean can do to the state. -/

namespace Sys2Proof.Machine

set_option Elab.async false

theorem Lane.put_frame (l : Lane) (s : State) (f : Regs → Regs) : Frame 17592186044416 s (Lane.put l s f) := by
  unfold Lane.put
  try dsimp only
  try simp only [put_regs_def]
  repeat' first
    | with_reducible assumption
    | with_reducible apply Frame.refl
    | ((with_reducible apply sub_of); exact Eq.refl true)
    | (with_reducible apply Frame.step; with_reducible apply updCtx_frame)
    | (with_reducible apply Frame.step; with_reducible apply put_regs_frame)
    | with_reducible apply Frame.ite
    | split

theorem sbDrain_frame (s : State) (t : Nat) : Frame 17592186046720 s (sbDrain s t) := by
  unfold sbDrain
  try dsimp only
  repeat' first
    | with_reducible assumption
    | with_reducible apply Frame.refl
    | ((with_reducible apply sub_of); exact Eq.refl true)
    | with_reducible apply mwf_wrBytes_imp
    | with_reducible apply mwf_filter_imp
    | with_reducible apply mwf_nil
    | with_reducible apply mwf_mupd_imp
    | with_reducible apply mwf_wrParts_imp
    | (with_reducible apply Frame.step; with_reducible apply sbCommit_frame)
    | (with_reducible apply Frame.thread; (intro y e hy))
    | (with_reducible apply Frame.thread_fst; (intro y e hy))
    | (with_reducible apply Frame.thread_snd; (intro y e hy))
    | (with_reducible apply Frame.thread_trd; (intro y e hy))
    | with_reducible apply Frame.ite
    | split

theorem noteUpset_frame (s : State) (l : Lane) (a n : Nat) (upset : List Nat) : Frame 3145730 s (noteUpset s l a n upset) := by
  unfold noteUpset
  try dsimp only
  repeat' first
    | with_reducible assumption
    | with_reducible apply Frame.refl
    | ((with_reducible apply sub_of); exact Eq.refl true)
    | (with_reducible apply Frame.step; with_reducible apply report_frame)
    | (with_reducible apply Frame.step; with_reducible apply evSet_frame)
    | (with_reducible apply Frame.step; with_reducible apply cntT_frame)
    | with_reducible apply Frame.ite
    | split

end Sys2Proof.Machine
end

