-- ==== Sys2Proof/Laws/LaneFrames.lean ====
section
/-! SUPPORT. What each operation of Machine/Lane.lean can do to the state. -/

namespace Sys2Proof.Machine

set_option Elab.async false

theorem sEffect_frame (l : Lane) (o : SlotOp) (s : State) : Frame 17592186044544 s (sEffect l o s) := by
  unfold sEffect
  try dsimp only
  repeat' first
    | with_reducible assumption
    | with_reducible apply Frame.refl
    | ((with_reducible apply sub_of); exact Eq.refl true)
    | with_reducible apply Nat.le_succ
    | (with_reducible apply Frame.step; with_reducible apply Lane.put_frame)
    | (with_reducible apply Frame.step; with_reducible apply drawn_frame)
    | with_reducible apply Frame.ite
    | split

theorem aEffect_frame (l : Lane) (o : SlotOp) (s : State) : Frame 17592186044416 s (aEffect l o s) := by
  unfold aEffect
  try dsimp only
  repeat' first
    | with_reducible assumption
    | with_reducible apply Frame.refl
    | ((with_reducible apply sub_of); exact Eq.refl true)
    | (with_reducible apply Frame.step; with_reducible apply Lane.put_frame)
    | with_reducible apply Frame.ite
    | split

theorem lEffect_frame (l : Lane) (o : SlotOp) (s : State) : Frame 17592186044416 s (lEffect l o s) := by
  unfold lEffect
  try dsimp only
  repeat' first
    | with_reducible assumption
    | with_reducible apply Frame.refl
    | ((with_reducible apply sub_of); exact Eq.refl true)
    | (with_reducible apply Frame.step; with_reducible apply Lane.put_frame)
    | with_reducible apply Frame.ite
    | split

theorem vEffect_frame (l : Lane) (o : SlotOp) (s : State) : Frame 17592186044416 s (vEffect l o s) := by
  unfold vEffect
  try dsimp only
  repeat' first
    | with_reducible assumption
    | with_reducible apply Frame.refl
    | ((with_reducible apply sub_of); exact Eq.refl true)
    | (with_reducible apply Frame.step; with_reducible apply Lane.put_frame)
    | (with_reducible apply Frame.foldl; (intro y e hy))
    | (with_reducible apply Frame.foldl_fst; (intro y e hy))
    | (with_reducible apply Frame.foldl_snd; (intro y e hy))
    | with_reducible apply Frame.ite
    | split

theorem mPost_frame (l : Lane) (o : SlotOp) (s : State) : Frame 17592186044416 s (mPost l o s) := by
  unfold mPost
  try dsimp only
  repeat' first
    | with_reducible assumption
    | with_reducible apply Frame.refl
    | ((with_reducible apply sub_of); exact Eq.refl true)
    | (with_reducible apply Frame.step; with_reducible apply Lane.put_frame)
    | with_reducible apply Frame.ite
    | split

theorem mEffect_frame (l : Lane) (s0 : State) (o : SlotOp) (upset : List Nat) (s : State) : Frame 17600779127042 s (mEffect l s0 o upset s) := by
  unfold mEffect
  try dsimp only
  repeat' first
    | with_reducible assumption
    | with_reducible apply Frame.refl
    | ((with_reducible apply sub_of); exact Eq.refl true)
    | with_reducible apply mwf_wrBytes_imp
    | with_reducible apply mwf_filter_imp
    | with_reducible apply mwf_nil
    | with_reducible apply mwf_mupd_imp
    | with_reducible apply mwf_wrParts_imp
    | (with_reducible apply Frame.step; with_reducible apply iramWrite_frame)
    | (with_reducible apply Frame.step; with_reducible apply noteUpset_frame)
    | (with_reducible apply Frame.step; with_reducible apply Lane.put_frame)
    | (with_reducible apply Frame.step; with_reducible apply noteOut_frame)
    | (with_reducible apply Frame.step; with_reducible apply sbDrain_frame)
    | (with_reducible apply Frame.step; with_reducible apply updTile_frame)
    | (with_reducible apply Frame.step; with_reducible apply spStore_frame)
    | (with_reducible apply Frame.step; with_reducible apply mPost_frame)
    | (with_reducible apply Frame.step; with_reducible apply cntT_frame)
    | (with_reducible apply Frame.thread; (intro y e hy))
    | (with_reducible apply Frame.thread_fst; (intro y e hy))
    | (with_reducible apply Frame.thread_snd; (intro y e hy))
    | (with_reducible apply Frame.thread_trd; (intro y e hy))
    | with_reducible apply Frame.ite
    | split

end Sys2Proof.Machine
end

