-- ==== Sys2Proof/Laws/LaneControlFrames.lean ====
section
/-! SUPPORT. What each operation of Machine/LaneControl.lean can do to the state. -/

namespace Sys2Proof.Machine

set_option Elab.async false

theorem doPush_frame (s : State) (l : Lane) (qn ad a : Nat) : Frame 369451127017346 s (doPush s l qn ad a) := by
  unfold doPush
  try dsimp only
  repeat' first
    | with_reducible assumption
    | with_reducible apply Frame.refl
    | ((with_reducible apply sub_of); exact Eq.refl true)
    | with_reducible apply Nat.le_succ
    | with_reducible apply mwf_wrBytes_imp
    | with_reducible apply mwf_filter_imp
    | with_reducible apply mwf_nil
    | with_reducible apply mwf_mupd_imp
    | with_reducible apply mwf_wrParts_imp
    | (with_reducible apply Frame.step; with_reducible apply publishHalo_frame)
    | (with_reducible apply Frame.step; with_reducible apply orderAbort_frame)
    | (with_reducible apply Frame.step; with_reducible apply putQueue_frame)
    | (with_reducible apply Frame.step; with_reducible apply Lane.put_frame)
    | (with_reducible apply Frame.step; with_reducible apply updJob_frame)
    | (with_reducible apply Frame.step; with_reducible apply cnt_frame)
    | with_reducible apply Frame.ite
    | split

theorem doPop_frame (s : State) (l : Lane) (qn ad : Nat) : Frame 17605070946306 s (doPop s l qn ad) := by
  unfold doPop
  try dsimp only
  repeat' first
    | with_reducible assumption
    | with_reducible apply Frame.refl
    | ((with_reducible apply sub_of); exact Eq.refl true)
    | (with_reducible apply Frame.step; with_reducible apply putQueue_frame)
    | (with_reducible apply Frame.step; with_reducible apply Lane.put_frame)
    | (with_reducible apply Frame.step; with_reducible apply cnt_frame)
    | with_reducible apply Frame.ite
    | split

theorem doRel_frame (s : State) (qn : Nat) : Frame 17605070946304 s (doRel s qn) := by
  unfold doRel
  try dsimp only
  repeat' first
    | with_reducible assumption
    | with_reducible apply Frame.refl
    | ((with_reducible apply sub_of); exact Eq.refl true)
    | (with_reducible apply Frame.step; with_reducible apply putQueue_frame)
    | with_reducible apply Frame.ite
    | split

theorem doEmit_frame (s : State) (l : Lane) (o : SlotOp) : Frame 8589934592 s (doEmit s l o) := by
  unfold doEmit
  try dsimp only
  repeat' first
    | with_reducible assumption
    | with_reducible apply Frame.refl
    | ((with_reducible apply sub_of); exact Eq.refl true)
    | (with_reducible apply Frame.step; with_reducible apply orderAbort_frame)
    | (with_reducible apply Frame.step; with_reducible apply updJob_frame)
    | with_reducible apply Frame.ite
    | split

theorem doMx_frame (s : State) (l : Lane) (o : SlotOp) : Frame 17592186044416 s (doMx s l o) := by
  unfold doMx
  try dsimp only
  repeat' first
    | with_reducible assumption
    | with_reducible apply Frame.refl
    | ((with_reducible apply sub_of); exact Eq.refl true)
    | (with_reducible apply Frame.step; with_reducible apply updTile_frame)
    | with_reducible apply Frame.ite
    | split

theorem cEffect_frame (l : Lane) (o : SlotOp) (s : State) : Frame 369451127021442 s (cEffect l o s) := by
  unfold cEffect
  try dsimp only
  repeat' first
    | with_reducible assumption
    | with_reducible apply Frame.refl
    | ((with_reducible apply sub_of); exact Eq.refl true)
    | with_reducible apply Nat.le_succ
    | with_reducible apply mwf_wrBytes_imp
    | with_reducible apply mwf_filter_imp
    | with_reducible apply mwf_nil
    | with_reducible apply mwf_mupd_imp
    | with_reducible apply mwf_wrParts_imp
    | (with_reducible apply Frame.step; with_reducible apply iramShow_frame)
    | (with_reducible apply Frame.step; with_reducible apply Lane.put_frame)
    | (with_reducible apply Frame.step; with_reducible apply updTile_frame)
    | (with_reducible apply Frame.step; with_reducible apply jobAdds_frame)
    | (with_reducible apply Frame.step; with_reducible apply doPush_frame)
    | (with_reducible apply Frame.step; with_reducible apply doEmit_frame)
    | (with_reducible apply Frame.step; with_reducible apply updJob_frame)
    | (with_reducible apply Frame.step; with_reducible apply doPop_frame)
    | (with_reducible apply Frame.step; with_reducible apply doRel_frame)
    | (with_reducible apply Frame.step; with_reducible apply doMx_frame)
    | with_reducible apply Frame.ite
    | split

theorem predict_frame (s : State) (l : Lane) (o : SlotOp) : Frame 17592186044418 s (predict s l o) := by
  unfold predict
  try dsimp only
  repeat' first
    | with_reducible assumption
    | with_reducible apply Frame.refl
    | ((with_reducible apply sub_of); exact Eq.refl true)
    | (with_reducible apply Frame.step; with_reducible apply updTile_frame)
    | (with_reducible apply Frame.step; with_reducible apply cntT_frame)
    | with_reducible apply Frame.ite
    | split

theorem dropLoop_frame (s : State) (t : Nat) : Frame 17592186044416 s (dropLoop s t) := by
  unfold dropLoop
  try dsimp only
  repeat' first
    | with_reducible assumption
    | with_reducible apply Frame.refl
    | ((with_reducible apply sub_of); exact Eq.refl true)
    | (with_reducible apply Frame.step; with_reducible apply updTile_frame)
    | with_reducible apply Frame.ite
    | split

theorem leaveTile_frame (s : State) (l : Lane) (f : Ctx → Ctx) : Frame 17592186044416 s (leaveTile s l f) := by
  unfold leaveTile
  try dsimp only
  repeat' first
    | with_reducible assumption
    | with_reducible apply Frame.refl
    | ((with_reducible apply sub_of); exact Eq.refl true)
    | (with_reducible apply Frame.step; with_reducible apply updTile_frame)
    | (with_reducible apply Frame.step; with_reducible apply updCtx_frame)
    | with_reducible apply Frame.ite
    | split

theorem laneWait_frame (s : State) (l : Lane) (code : Nat) (w : WaitFor) : Frame 17600775979010 s (laneWait s l code w) := by
  unfold laneWait
  try dsimp only
  repeat' first
    | with_reducible assumption
    | with_reducible apply Frame.refl
    | ((with_reducible apply sub_of); exact Eq.refl true)
    | (with_reducible apply Frame.step; with_reducible apply noteWaiters_frame)
    | (with_reducible apply Frame.step; with_reducible apply suspendJob_frame)
    | (with_reducible apply Frame.step; with_reducible apply leaveTile_frame)
    | (with_reducible apply Frame.step; with_reducible apply dropLoop_frame)
    | (with_reducible apply Frame.step; with_reducible apply updTile_frame)
    | (with_reducible apply Frame.step; with_reducible apply cntE_frame)
    | (with_reducible apply Frame.thread; (intro y e hy))
    | (with_reducible apply Frame.thread_fst; (intro y e hy))
    | (with_reducible apply Frame.thread_snd; (intro y e hy))
    | (with_reducible apply Frame.thread_trd; (intro y e hy))
    | with_reducible apply Frame.ite
    | split

theorem laneRaise_frame (s : State) (l : Lane) (cause : Nat) (at_ : Option (Nat × Nat × Nat)) : Frame 17600779124738 s (laneRaise s l cause at_) := by
  unfold laneRaise
  try dsimp only
  repeat' first
    | with_reducible assumption
    | with_reducible apply Frame.refl
    | ((with_reducible apply sub_of); exact Eq.refl true)
    | (with_reducible apply Frame.step; with_reducible apply attemptFails_frame)
    | (with_reducible apply Frame.step; with_reducible apply suspendJob_frame)
    | (with_reducible apply Frame.step; with_reducible apply leaveTile_frame)
    | (with_reducible apply Frame.step; with_reducible apply dropLoop_frame)
    | (with_reducible apply Frame.step; with_reducible apply evSet_frame)
    | (with_reducible apply Frame.step; with_reducible apply cntT_frame)
    | with_reducible apply Frame.ite
    | split

theorem slotEffect_frame (s0 : State) (l : Lane) (upset : List Nat) (s : State) (o : SlotOp) : Frame 369451127021442 s (slotEffect s0 l upset s o) := by
  unfold slotEffect
  try dsimp only
  repeat' first
    | with_reducible assumption
    | with_reducible apply Frame.refl
    | ((with_reducible apply sub_of); exact Eq.refl true)
    | with_reducible apply Nat.le_succ
    | with_reducible apply mwf_wrBytes_imp
    | with_reducible apply mwf_filter_imp
    | with_reducible apply mwf_nil
    | with_reducible apply mwf_mupd_imp
    | with_reducible apply mwf_wrParts_imp
    | (with_reducible apply Frame.step; with_reducible apply lEffect_frame)
    | (with_reducible apply Frame.step; with_reducible apply vEffect_frame)
    | (with_reducible apply Frame.step; with_reducible apply aEffect_frame)
    | (with_reducible apply Frame.step; with_reducible apply cEffect_frame)
    | (with_reducible apply Frame.step; with_reducible apply sEffect_frame)
    | (with_reducible apply Frame.step; with_reducible apply mEffect_frame)
    | with_reducible apply Frame.ite
    | split

theorem debugStop_frame (s : State) (t c : Nat) : Frame 17592186044416 s (debugStop s t c) := by
  unfold debugStop
  try dsimp only
  repeat' first
    | with_reducible assumption
    | with_reducible apply Frame.refl
    | ((with_reducible apply sub_of); exact Eq.refl true)
    | (with_reducible apply Frame.step; with_reducible apply updTile_frame)
    | (with_reducible apply Frame.step; with_reducible apply updCtx_frame)
    | with_reducible apply Frame.ite
    | split

theorem laneCommit_frame (s : State) (l : Lane) (f : Flow) (b : BitVec 128) (upset : List Nat) : Frame 369451127021442 s (laneCommit s l f b upset) := by
  unfold laneCommit
  try dsimp only
  repeat' first
    | with_reducible assumption
    | with_reducible apply Frame.refl
    | ((with_reducible apply sub_of); exact Eq.refl true)
    | with_reducible apply Nat.le_succ
    | with_reducible apply mwf_wrBytes_imp
    | with_reducible apply mwf_filter_imp
    | with_reducible apply mwf_nil
    | with_reducible apply mwf_mupd_imp
    | with_reducible apply mwf_wrParts_imp
    | (with_reducible apply Frame.step; with_reducible apply slotEffect_frame)
    | (with_reducible apply Frame.step; with_reducible apply debugStop_frame)
    | (with_reducible apply Frame.step; with_reducible apply slotJudge_frame)
    | (with_reducible apply Frame.step; with_reducible apply leaveTile_frame)
    | (with_reducible apply Frame.step; with_reducible apply dropLoop_frame)
    | (with_reducible apply Frame.step; with_reducible apply predict_frame)
    | (with_reducible apply Frame.step; with_reducible apply updCtx_frame)
    | (with_reducible apply Frame.step; with_reducible apply cntT_frame)
    | (with_reducible apply Frame.foldl; (intro y e hy))
    | (with_reducible apply Frame.foldl_fst; (intro y e hy))
    | (with_reducible apply Frame.foldl_snd; (intro y e hy))
    | with_reducible apply Frame.ite
    | split

theorem laneIssue_frame (row : LaneRow) (t : Nat) (b next : BitVec 128) (upset : List Nat) (s : State) : Frame 369451127021442 s (laneIssue row t b next upset s) := by
  unfold laneIssue
  try dsimp only
  repeat' first
    | with_reducible assumption
    | with_reducible apply Frame.refl
    | ((with_reducible apply sub_of); exact Eq.refl true)
    | with_reducible apply Nat.le_succ
    | with_reducible apply mwf_wrBytes_imp
    | with_reducible apply mwf_filter_imp
    | with_reducible apply mwf_nil
    | with_reducible apply mwf_mupd_imp
    | with_reducible apply mwf_wrParts_imp
    | (with_reducible apply Frame.step; with_reducible apply laneCommit_frame)
    | (with_reducible apply Frame.step; with_reducible apply laneRaise_frame)
    | (with_reducible apply Frame.step; with_reducible apply laneWait_frame)
    | (with_reducible apply Frame.step; with_reducible apply updCtx_frame)
    | (with_reducible apply Frame.step; with_reducible apply cntT_frame)
    | with_reducible apply Frame.ite
    | split

end Sys2Proof.Machine
end

