-- ==== Sys2Proof/Laws/LaneRowsFrames.lean ====
section
/-! SUPPORT. What each operation of Machine/LaneRows.lean can do to the state. -/

namespace Sys2Proof.Machine

set_option Elab.async false

theorem resumeFaulted_frame (s : State) (t c : Nat) : Frame 17592186044416 s (resumeFaulted s t c) := by
  unfold resumeFaulted
  try dsimp only
  repeat' first
    | with_reducible assumption
    | with_reducible apply Frame.refl
    | ((with_reducible apply sub_of); exact Eq.refl true)
    | (with_reducible apply Frame.step; with_reducible apply updCtx_frame)
    | with_reducible apply Frame.ite
    | split

end Sys2Proof.Machine
end

