-- ==== Sys2Proof/Laws/MxArrayFrames.lean ====
section
/-! SUPPORT. What each operation of Machine/MxArray.lean can do to the state. -/

namespace Sys2Proof.Machine

set_option Elab.async false

theorem putWord_frame (s : State) (a : Nat) (l : List (Option (Byte × Bool))) : Frame 2304 s (putWord s a l) := by
  unfold putWord
  try dsimp only
  repeat' first
    | with_reducible assumption
    | with_reducible apply Frame.refl
    | ((with_reducible apply sub_of); exact Eq.refl true)
    | with_reducible apply mwf_wrBytes_imp
    | with_reducible apply mwf_filter_imp
    | with_reducible apply mwf_nil
    | with_reducible apply mwf_mupd_imp
    | with_reducible apply mwf_wrParts_imp
    | (with_reducible apply Frame.step; with_reducible apply spWrite_frame)
    | (with_reducible apply Frame.thread; (intro y e hy))
    | (with_reducible apply Frame.thread_fst; (intro y e hy))
    | (with_reducible apply Frame.thread_snd; (intro y e hy))
    | (with_reducible apply Frame.thread_trd; (intro y e hy))
    | with_reducible apply Frame.ite
    | split

theorem putRows_frame (s : State) (r : RunAt) (b : Nat) (code : Nat → Nat → Nat) (poison : Nat → Nat → Bool) (rows : List Nat) : Frame 2304 s (putRows s r b code poison rows) := by
  unfold putRows
  try dsimp only
  repeat' first
    | with_reducible assumption
    | with_reducible apply Frame.refl
    | ((with_reducible apply sub_of); exact Eq.refl true)
    | with_reducible apply mwf_wrBytes_imp
    | with_reducible apply mwf_filter_imp
    | with_reducible apply mwf_nil
    | with_reducible apply mwf_mupd_imp
    | with_reducible apply mwf_wrParts_imp
    | (with_reducible apply Frame.step; with_reducible apply putWord_frame)
    | (with_reducible apply Frame.thread; (intro y e hy))
    | (with_reducible apply Frame.thread_fst; (intro y e hy))
    | (with_reducible apply Frame.thread_snd; (intro y e hy))
    | (with_reducible apply Frame.thread_trd; (intro y e hy))
    | with_reducible apply Frame.ite
    | split

theorem mxFail_frame (s : State) (t ix : Nat) (e : MxEntry) (cause : Nat) : Frame 17600779124738 s (mxFail s t ix e cause) := by
  unfold mxFail
  try dsimp only
  repeat' first
    | with_reducible assumption
    | with_reducible apply Frame.refl
    | ((with_reducible apply sub_of); exact Eq.refl true)
    | (with_reducible apply Frame.step; with_reducible apply attemptFails_frame)
    | (with_reducible apply Frame.step; with_reducible apply updTile_frame)
    | (with_reducible apply Frame.step; with_reducible apply evSet_frame)
    | (with_reducible apply Frame.step; with_reducible apply cntT_frame)
    | with_reducible apply Frame.ite
    | split

theorem setEntry_frame (s : State) (t ix : Nat) (e : MxEntry) : Frame 17592186044416 s (setEntry s t ix e) := by
  unfold setEntry
  try dsimp only
  repeat' first
    | with_reducible assumption
    | with_reducible apply Frame.refl
    | ((with_reducible apply sub_of); exact Eq.refl true)
    | (with_reducible apply Frame.step; with_reducible apply updTile_frame)
    | with_reducible apply Frame.ite
    | split

theorem mxDone_frame (s : State) (t ix : Nat) : Frame 17592186044418 s (mxDone s t ix) := by
  unfold mxDone
  try dsimp only
  repeat' first
    | with_reducible assumption
    | with_reducible apply Frame.refl
    | ((with_reducible apply sub_of); exact Eq.refl true)
    | (with_reducible apply Frame.step; with_reducible apply updTile_frame)
    | (with_reducible apply Frame.step; with_reducible apply cntT_frame)
    | with_reducible apply Frame.ite
    | split

theorem enterSteps_frame (s : State) (t : Nat) (r : RunAt) (b n : Nat) : Frame 2 s (enterSteps s t r b n) := by
  unfold enterSteps
  try dsimp only
  repeat' first
    | with_reducible assumption
    | with_reducible apply Frame.refl
    | ((with_reducible apply sub_of); exact Eq.refl true)
    | (with_reducible apply Frame.step; with_reducible apply cntT_frame)
    | with_reducible apply Frame.ite
    | split

theorem bankWait_frame (s : State) (t : Nat) (e : MxEntry) (r : RunAt) : Frame 17592186044418 s (bankWait s t e r) := by
  unfold bankWait
  try dsimp only
  repeat' first
    | with_reducible assumption
    | with_reducible apply Frame.refl
    | ((with_reducible apply sub_of); exact Eq.refl true)
    | (with_reducible apply Frame.step; with_reducible apply updTile_frame)
    | (with_reducible apply Frame.step; with_reducible apply cntT_frame)
    | with_reducible apply Frame.ite
    | split

theorem convertRows_frame (s : State) (id : JobId) (r : RunAt) (b : Nat) (f : Option MxFault) (rows : List Nat) : Frame 8589936896 s (convertRows s id r b f rows) := by
  unfold convertRows
  try dsimp only
  repeat' first
    | with_reducible assumption
    | with_reducible apply Frame.refl
    | ((with_reducible apply sub_of); exact Eq.refl true)
    | with_reducible apply mwf_wrBytes_imp
    | with_reducible apply mwf_filter_imp
    | with_reducible apply mwf_nil
    | with_reducible apply mwf_mupd_imp
    | with_reducible apply mwf_wrParts_imp
    | (with_reducible apply Frame.step; with_reducible apply noteOut_frame)
    | (with_reducible apply Frame.step; with_reducible apply putRows_frame)
    | (with_reducible apply Frame.thread; (intro y e hy))
    | (with_reducible apply Frame.thread_fst; (intro y e hy))
    | (with_reducible apply Frame.thread_snd; (intro y e hy))
    | (with_reducible apply Frame.thread_trd; (intro y e hy))
    | with_reducible apply Frame.ite
    | split

theorem finishBlock_frame (s : State) (t ix : Nat) (e : MxEntry) (j : Job) (r : RunAt) (f : Option MxFault) : Frame 17600777029890 s (finishBlock s t ix e j r f) := by
  unfold finishBlock
  try dsimp only
  repeat' first
    | with_reducible assumption
    | with_reducible apply Frame.refl
    | ((with_reducible apply sub_of); exact Eq.refl true)
    | with_reducible apply mwf_wrBytes_imp
    | with_reducible apply mwf_filter_imp
    | with_reducible apply mwf_nil
    | with_reducible apply mwf_mupd_imp
    | with_reducible apply mwf_wrParts_imp
    | (with_reducible apply Frame.step; with_reducible apply convertRows_frame)
    | (with_reducible apply Frame.step; with_reducible apply slotJudge_frame)
    | (with_reducible apply Frame.step; with_reducible apply setEntry_frame)
    | (with_reducible apply Frame.step; with_reducible apply mxDone_frame)
    | (with_reducible apply Frame.step; with_reducible apply updJob_frame)
    | (with_reducible apply Frame.step; with_reducible apply cntT_frame)
    | with_reducible apply Frame.ite
    | split

theorem badBlock_frame (s : State) (t ix : Nat) (e : MxEntry) (r : RunAt) (row : Nat) : Frame 17600779127042 s (badBlock s t ix e r row) := by
  unfold badBlock
  try dsimp only
  repeat' first
    | with_reducible assumption
    | with_reducible apply Frame.refl
    | ((with_reducible apply sub_of); exact Eq.refl true)
    | with_reducible apply mwf_wrBytes_imp
    | with_reducible apply mwf_filter_imp
    | with_reducible apply mwf_nil
    | with_reducible apply mwf_mupd_imp
    | with_reducible apply mwf_wrParts_imp
    | (with_reducible apply Frame.step; with_reducible apply convertRows_frame)
    | (with_reducible apply Frame.step; with_reducible apply slotJudge_frame)
    | (with_reducible apply Frame.step; with_reducible apply mxFail_frame)
    | (with_reducible apply Frame.step; with_reducible apply cntT_frame)
    | with_reducible apply Frame.ite
    | split

end Sys2Proof.Machine
end

