-- ==== Sys2Proof/Laws/DramFrames.lean ====
section
/-! SUPPORT. What each operation of Machine/Dram.lean can do to the state. -/

namespace Sys2Proof.Machine

set_option Elab.async false

theorem commitMap_frame (s : State) (hash : Bool) (rb rs : Nat) : Frame 1688849894342658 s (commitMap s hash rb rs) := by
  unfold commitMap
  try dsimp only
  try simp only [put_regs_rings_dram_def]
  repeat' first
    | with_reducible assumption
    | with_reducible apply Frame.refl
    | ((with_reducible apply sub_of); exact Eq.refl true)
    | (with_reducible apply Frame.step; with_reducible apply updHv_frame)
    | (with_reducible apply Frame.step; with_reducible apply updPm_frame)
    | (with_reducible apply Frame.step; with_reducible apply put_regs_rings_dram_frame)
    | with_reducible apply Frame.ite
    | split

theorem scrubNext_frame (s : State) (c : Nat) : Frame 524290 s (scrubNext s c) := by
  unfold scrubNext
  try dsimp only
  repeat' first
    | with_reducible assumption
    | with_reducible apply Frame.refl
    | ((with_reducible apply sub_of); exact Eq.refl true)
    | (with_reducible apply Frame.step; with_reducible apply updHv_frame)
    | (with_reducible apply Frame.step; with_reducible apply cnt_frame)
    | with_reducible apply Frame.ite
    | split

end Sys2Proof.Machine
end

