-- ==== Sys2Proof/Laws/RingsFrames.lean ====
section
/-! SUPPORT. What each operation of Machine/Rings.lean can do to the state. -/

namespace Sys2Proof.Machine

set_option Elab.async false

theorem writeBack_frame (s : State) (r v : Nat) : Frame 281474996637570 s (writeBack s r v) := by
  unfold writeBack
  try dsimp only
  repeat' first
    | with_reducible assumption
    | with_reducible apply Frame.refl
    | ((with_reducible apply sub_of); exact Eq.refl true)
    | with_reducible apply Nat.le_succ
    | with_reducible apply mwf_wrBytes_imp
    | with_reducible apply mwf_filter_imp
    | with_reducible apply mwf_nil
    | with_reducible apply mwf_mupd_imp
    | with_reducible apply mwf_wrParts_imp
    | (with_reducible apply Frame.step; with_reducible apply devPut_frame)
    | with_reducible apply Frame.ite
    | split

theorem updDesc_frame (s : State) (d : Desc) (f : Desc → Desc) : Frame 134217728 s (updDesc s d f) := by
  unfold updDesc
  try dsimp only
  try simp only [put_descs_def]
  repeat' first
    | with_reducible assumption
    | with_reducible apply Frame.refl
    | ((with_reducible apply sub_of); exact Eq.refl true)
    | (with_reducible apply Frame.step; with_reducible apply put_descs_frame)
    | with_reducible apply Frame.ite
    | split

theorem startDesc_frame (s : State) (d : Desc) : Frame 167772160 s (startDesc s d).1 := by
  unfold startDesc
  try dsimp only
  repeat' first
    | with_reducible assumption
    | with_reducible apply Frame.refl
    | ((with_reducible apply sub_of); exact Eq.refl true)
    | (with_reducible apply Frame.step; with_reducible apply updRing_frame)
    | (with_reducible apply Frame.step; with_reducible apply updDesc_frame)
    | with_reducible apply Frame.ite
    | split

theorem refuseDesc_frame (s : State) (d : Desc) (f : Nat × Nat) : Frame 3749866345074562 s (refuseDesc s d f) := by
  unfold refuseDesc
  try dsimp only
  repeat' first
    | with_reducible assumption
    | with_reducible apply Frame.refl
    | ((with_reducible apply sub_of); exact Eq.refl true)
    | with_reducible apply Nat.le_succ
    | with_reducible apply mwf_wrBytes_imp
    | with_reducible apply mwf_filter_imp
    | with_reducible apply mwf_nil
    | with_reducible apply mwf_mupd_imp
    | with_reducible apply mwf_wrParts_imp
    | (with_reducible apply Frame.step; with_reducible apply startDesc_frame)
    | (with_reducible apply Frame.step; with_reducible apply Frame.fst; with_reducible assumption; with_reducible apply startDesc_frame)
    | (with_reducible apply Frame.step; with_reducible apply drainPass_frame)
    | (with_reducible apply Frame.step; with_reducible apply complete_frame)
    | (with_reducible apply Frame.step; with_reducible apply dropJob_frame)
    | with_reducible apply Frame.ite
    | split

theorem faultPass_frame (s : State) (r : Nat) : Frame 3749866345074562 s (faultPass s r) := by
  unfold faultPass
  try dsimp only
  repeat' first
    | with_reducible assumption
    | with_reducible apply Frame.refl
    | ((with_reducible apply sub_of); exact Eq.refl true)
    | with_reducible apply Nat.le_succ
    | with_reducible apply mwf_wrBytes_imp
    | with_reducible apply mwf_filter_imp
    | with_reducible apply mwf_nil
    | with_reducible apply mwf_mupd_imp
    | with_reducible apply mwf_wrParts_imp
    | (with_reducible apply Frame.step; with_reducible apply refuseDesc_frame)
    | (with_reducible apply Frame.thread; (intro y e hy))
    | (with_reducible apply Frame.thread_fst; (intro y e hy))
    | (with_reducible apply Frame.thread_snd; (intro y e hy))
    | (with_reducible apply Frame.thread_trd; (intro y e hy))
    | with_reducible apply Frame.ite
    | split

theorem takeDesc_frame (s : State) (r op : Nat) : Frame 3749866345074562 s (takeDesc s r op).1 := by
  unfold takeDesc
  try dsimp only
  repeat' first
    | with_reducible assumption
    | with_reducible apply Frame.refl
    | ((with_reducible apply sub_of); exact Eq.refl true)
    | with_reducible apply Nat.le_succ
    | with_reducible apply mwf_wrBytes_imp
    | with_reducible apply mwf_filter_imp
    | with_reducible apply mwf_nil
    | with_reducible apply mwf_mupd_imp
    | with_reducible apply mwf_wrParts_imp
    | (with_reducible apply Frame.step; with_reducible apply faultPass_frame)
    | (with_reducible apply Frame.step; with_reducible apply startDesc_frame)
    | (with_reducible apply Frame.step; with_reducible apply Frame.fst; with_reducible assumption; with_reducible apply startDesc_frame)
    | with_reducible apply Frame.ite
    | split

theorem onDesc_frame {m : Nat} (s : State) (r op : Nat) (f : State → Desc → State) (hm : sub 3749866345074562 m = true)
    (hf : ∀ y d, Frame m s y → Frame m s (f y d)) : Frame m s (onDesc s r op f) := by
  unfold onDesc
  split
  · next e =>
    exact Frame.step (faultPass_frame ..) (sub_trans rfl hm)
      (hf _ _ (Frame.step (Frame.fst e (takeDesc_frame ..)) (sub_trans rfl hm) (Frame.refl _)))
  · next e =>
    exact Frame.step (Frame.fst e (takeDesc_frame ..)) (sub_trans rfl hm) (Frame.refl _)

theorem armRing_frame (s : State) (r : Nat) : Frame 50332162 s (armRing s r) := by
  unfold armRing
  try dsimp only
  repeat' first
    | with_reducible assumption
    | with_reducible apply Frame.refl
    | ((with_reducible apply sub_of); exact Eq.refl true)
    | with_reducible apply mwf_wrBytes_imp
    | with_reducible apply mwf_filter_imp
    | with_reducible apply mwf_nil
    | with_reducible apply mwf_mupd_imp
    | with_reducible apply mwf_wrParts_imp
    | (with_reducible apply Frame.step; with_reducible apply ringDue_frame)
    | (with_reducible apply Frame.step; with_reducible apply updRing_frame)
    | with_reducible apply Frame.ite
    | split

theorem ringDoorbell_frame (s0 : State) (r v : Nat) : Frame 3749866345074562 s0 (ringDoorbell s0 r v) := by
  unfold ringDoorbell
  try dsimp only
  repeat' first
    | with_reducible assumption
    | with_reducible apply Frame.refl
    | ((with_reducible apply sub_of); exact Eq.refl true)
    | with_reducible apply Nat.le_succ
    | with_reducible apply mwf_wrBytes_imp
    | with_reducible apply mwf_filter_imp
    | with_reducible apply mwf_nil
    | with_reducible apply mwf_mupd_imp
    | with_reducible apply mwf_wrParts_imp
    | (with_reducible apply Frame.step; with_reducible apply faultPass_frame)
    | (with_reducible apply Frame.step; with_reducible apply drainPass_frame)
    | (with_reducible apply Frame.step; with_reducible apply flushRing_frame)
    | (with_reducible apply Frame.step; with_reducible apply postEvent_frame)
    | (with_reducible apply Frame.step; with_reducible apply useRing_frame)
    | (with_reducible apply Frame.step; with_reducible apply updRing_frame)
    | (with_reducible apply Frame.step; with_reducible apply armRing_frame)
    | (with_reducible apply Frame.step; with_reducible apply evSet_frame)
    | (with_reducible apply Frame.step; with_reducible apply setF_frame)
    | (with_reducible apply Frame.step; with_reducible apply cnt_frame)
    | (with_reducible apply Frame.thread; (intro y e hy))
    | (with_reducible apply Frame.thread_fst; (intro y e hy))
    | (with_reducible apply Frame.thread_snd; (intro y e hy))
    | (with_reducible apply Frame.thread_trd; (intro y e hy))
    | with_reducible apply Frame.ite
    | split

theorem cachePass_frame (s : State) : Frame 3749866345074562 s (cachePass s) := by
  unfold cachePass
  try dsimp only
  repeat' first
    | with_reducible assumption
    | with_reducible apply Frame.refl
    | ((with_reducible apply sub_of); exact Eq.refl true)
    | with_reducible apply Nat.le_succ
    | with_reducible apply mwf_wrBytes_imp
    | with_reducible apply mwf_filter_imp
    | with_reducible apply mwf_nil
    | with_reducible apply mwf_mupd_imp
    | with_reducible apply mwf_wrParts_imp
    | (with_reducible apply Frame.step; with_reducible apply ringDoorbell_frame)
    | (with_reducible apply Frame.step; with_reducible apply flushRing_frame)
    | (with_reducible apply Frame.step; with_reducible apply useRing_frame)
    | (with_reducible apply Frame.step; with_reducible apply updHl_frame)
    | (with_reducible apply Frame.thread; (intro y e hy))
    | (with_reducible apply Frame.thread_fst; (intro y e hy))
    | (with_reducible apply Frame.thread_snd; (intro y e hy))
    | (with_reducible apply Frame.thread_trd; (intro y e hy))
    | with_reducible apply Frame.ite
    | split

theorem issueBurst_frame (s : State) (ps : List (Nat × Nat)) : Frame 16777216 s (issueBurst s ps).1 := by
  unfold issueBurst
  try dsimp only
  repeat' first
    | with_reducible assumption
    | with_reducible apply Frame.refl
    | ((with_reducible apply sub_of); exact Eq.refl true)
    | (with_reducible apply Frame.step; with_reducible apply npIssue_frame)
    | (with_reducible apply Frame.step; with_reducible apply Frame.fst; with_reducible assumption; with_reducible apply npIssue_frame)
    | (with_reducible apply Frame.thread; (intro y e hy))
    | (with_reducible apply Frame.thread_fst; (intro y e hy))
    | (with_reducible apply Frame.thread_snd; (intro y e hy))
    | (with_reducible apply Frame.thread_trd; (intro y e hy))
    | with_reducible apply Frame.ite
    | split

theorem unspill_frame (s : State) (k : StageRec) : Frame 281474979856514 s (unspill s k) := by
  unfold unspill
  try dsimp only
  repeat' first
    | with_reducible assumption
    | with_reducible apply Frame.refl
    | ((with_reducible apply sub_of); exact Eq.refl true)
    | with_reducible apply Nat.le_succ
    | (with_reducible apply Frame.step; with_reducible apply devRead_frame)
    | (with_reducible apply Frame.step; with_reducible apply Frame.snd; with_reducible assumption; with_reducible apply devRead_frame)
    | with_reducible apply Frame.ite
    | split

theorem unstage_frame (s : State) (k : StageRec) : Frame 299067434336386 s (unstage s k) := by
  unfold unstage
  try dsimp only
  try simp only [put_stage_def]
  repeat' first
    | with_reducible assumption
    | with_reducible apply Frame.refl
    | ((with_reducible apply sub_of); exact Eq.refl true)
    | with_reducible apply Nat.le_succ
    | (with_reducible apply Frame.step; with_reducible apply creditPass_frame)
    | (with_reducible apply Frame.step; with_reducible apply unspill_frame)
    | (with_reducible apply Frame.step; with_reducible apply put_stage_frame)
    | with_reducible apply Frame.ite
    | split

theorem txSend_frame (s : State) (l : Nat) (d : Desc) : Frame 281492344278914 s (txSend s l d) := by
  unfold txSend
  try dsimp only
  repeat' first
    | with_reducible assumption
    | with_reducible apply Frame.refl
    | ((with_reducible apply sub_of); exact Eq.refl true)
    | with_reducible apply Nat.le_succ
    | with_reducible apply mwf_wrBytes_imp
    | with_reducible apply mwf_filter_imp
    | with_reducible apply mwf_nil
    | with_reducible apply mwf_mupd_imp
    | with_reducible apply mwf_wrParts_imp
    | (with_reducible apply Frame.step; with_reducible apply completeAs_frame)
    | (with_reducible apply Frame.step; with_reducible apply startDesc_frame)
    | (with_reducible apply Frame.step; with_reducible apply Frame.fst; with_reducible assumption; with_reducible apply startDesc_frame)
    | (with_reducible apply Frame.step; with_reducible apply updPort_frame)
    | with_reducible apply Frame.ite
    | split

theorem txComplete_frame (s : State) (b : TxBusy) : Frame 281475164409730 s (txComplete s b) := by
  unfold txComplete
  try dsimp only
  repeat' first
    | with_reducible assumption
    | with_reducible apply Frame.refl
    | ((with_reducible apply sub_of); exact Eq.refl true)
    | with_reducible apply Nat.le_succ
    | with_reducible apply mwf_wrBytes_imp
    | with_reducible apply mwf_filter_imp
    | with_reducible apply mwf_nil
    | with_reducible apply mwf_mupd_imp
    | with_reducible apply mwf_wrParts_imp
    | (with_reducible apply Frame.step; with_reducible apply completeAs_frame)
    | with_reducible apply Frame.ite
    | split

end Sys2Proof.Machine
end

