-- ==== Sys2Proof/Laws/CommandsFrames.lean ====
section
/-! SUPPORT. What each operation of Machine/Commands.lean can do to the state. -/

namespace Sys2Proof.Machine

set_option Elab.async false

theorem allocObjs_frame (s : State) (p : Nat) (os : List Nat) (l : List (Nat × Nat)) : Frame 2147483648 s (allocObjs s p os l) := by
  unfold allocObjs
  try dsimp only
  repeat' first
    | with_reducible assumption
    | with_reducible apply Frame.refl
    | ((with_reducible apply sub_of); exact Eq.refl true)
    | (with_reducible apply Frame.step; with_reducible apply updObj_frame)
    | (with_reducible apply Frame.thread; (intro y e hy))
    | (with_reducible apply Frame.thread_fst; (intro y e hy))
    | (with_reducible apply Frame.thread_snd; (intro y e hy))
    | (with_reducible apply Frame.thread_trd; (intro y e hy))
    | with_reducible apply Frame.ite
    | split

theorem allocQueues_frame (s : State) (p : Nat) (os : List Nat) (l : List QueueDecl) : Frame 4294967296 s (allocQueues s p os l) := by
  unfold allocQueues
  try dsimp only
  repeat' first
    | with_reducible assumption
    | with_reducible apply Frame.refl
    | ((with_reducible apply sub_of); exact Eq.refl true)
    | (with_reducible apply Frame.step; with_reducible apply updQueue_frame)
    | (with_reducible apply Frame.thread; (intro y e hy))
    | (with_reducible apply Frame.thread_fst; (intro y e hy))
    | (with_reducible apply Frame.thread_snd; (intro y e hy))
    | (with_reducible apply Frame.thread_trd; (intro y e hy))
    | with_reducible apply Frame.ite
    | split

theorem armStanding_frame (s : State) (p addr : Nat) : Frame 70368744177664 s (armStanding s p addr) := by
  unfold armStanding
  try dsimp only
  repeat' first
    | with_reducible assumption
    | with_reducible apply Frame.refl
    | ((with_reducible apply sub_of); exact Eq.refl true)
    | (with_reducible apply Frame.step; with_reducible apply armSctx_frame)
    | with_reducible apply Frame.ite
    | split

theorem loadPlan_frame (s : State) (d : Desc) (im : PlanImage) : Frame 351851425042306 s (loadPlan s d im) := by
  unfold loadPlan
  try dsimp only
  repeat' first
    | with_reducible assumption
    | with_reducible apply Frame.refl
    | ((with_reducible apply sub_of); exact Eq.refl true)
    | with_reducible apply Nat.le_succ
    | with_reducible apply mwf_wrBytes_imp
    | with_reducible apply mwf_filter_imp
    | with_reducible apply mwf_nil
    | with_reducible apply mwf_mupd_imp
    | with_reducible apply mwf_wrParts_imp
    | (with_reducible apply Frame.step; with_reducible apply allocQueues_frame)
    | (with_reducible apply Frame.step; with_reducible apply armStanding_frame)
    | (with_reducible apply Frame.step; with_reducible apply allocObjs_frame)
    | (with_reducible apply Frame.step; with_reducible apply complete_frame)
    | (with_reducible apply Frame.step; with_reducible apply devWrite_frame)
    | (with_reducible apply Frame.step; with_reducible apply updPlan_frame)
    | (with_reducible apply Frame.step; with_reducible apply devRead_frame)
    | (with_reducible apply Frame.step; with_reducible apply Frame.snd; with_reducible assumption; with_reducible apply devRead_frame)
    | (with_reducible apply Frame.step; with_reducible apply updSec_frame)
    | (with_reducible apply Frame.thread; (intro y e hy))
    | (with_reducible apply Frame.thread_fst; (intro y e hy))
    | (with_reducible apply Frame.thread_snd; (intro y e hy))
    | (with_reducible apply Frame.thread_trd; (intro y e hy))
    | with_reducible apply Frame.ite
    | split

theorem unbind_frame (s : State) (x : Nat) : Frame 371890672635778 s (unbind s x) := by
  unfold unbind
  try dsimp only
  repeat' first
    | with_reducible assumption
    | with_reducible apply Frame.refl
    | ((with_reducible apply sub_of); exact Eq.refl true)
    | with_reducible apply Nat.le_succ
    | with_reducible apply mwf_wrBytes_imp
    | with_reducible apply mwf_filter_imp
    | with_reducible apply mwf_nil
    | with_reducible apply mwf_mupd_imp
    | with_reducible apply mwf_wrParts_imp
    | (with_reducible apply Frame.step; with_reducible apply flushStream_frame)
    | (with_reducible apply Frame.step; with_reducible apply cancelJob_frame)
    | (with_reducible apply Frame.step; with_reducible apply updStream_frame)
    | (with_reducible apply Frame.step; with_reducible apply complete_frame)
    | (with_reducible apply Frame.thread; (intro y e hy))
    | (with_reducible apply Frame.thread_fst; (intro y e hy))
    | (with_reducible apply Frame.thread_snd; (intro y e hy))
    | (with_reducible apply Frame.thread_trd; (intro y e hy))
    | with_reducible apply Frame.ite
    | split

theorem cancelPlanSctx_frame (s : State) (p : Nat) : Frame 369451127017346 s (cancelPlanSctx s p) := by
  unfold cancelPlanSctx
  try dsimp only
  repeat' first
    | with_reducible assumption
    | with_reducible apply Frame.refl
    | ((with_reducible apply sub_of); exact Eq.refl true)
    | with_reducible apply Nat.le_succ
    | with_reducible apply mwf_wrBytes_imp
    | with_reducible apply mwf_filter_imp
    | with_reducible apply mwf_nil
    | with_reducible apply mwf_mupd_imp
    | with_reducible apply mwf_wrParts_imp
    | (with_reducible apply Frame.step; with_reducible apply cancelSctx_frame)
    | (with_reducible apply Frame.thread; (intro y e hy))
    | (with_reducible apply Frame.thread_fst; (intro y e hy))
    | (with_reducible apply Frame.thread_snd; (intro y e hy))
    | (with_reducible apply Frame.thread_trd; (intro y e hy))
    | with_reducible apply Frame.ite
    | split

theorem unload_frame (s : State) (p : Nat) : Frame 371891746377602 s (unload s p) := by
  unfold unload
  try dsimp only
  repeat' first
    | with_reducible assumption
    | with_reducible apply Frame.refl
    | ((with_reducible apply sub_of); exact Eq.refl true)
    | with_reducible apply Nat.le_succ
    | with_reducible apply mwf_wrBytes_imp
    | with_reducible apply mwf_filter_imp
    | with_reducible apply mwf_nil
    | with_reducible apply mwf_mupd_imp
    | with_reducible apply mwf_wrParts_imp
    | (with_reducible apply Frame.step; with_reducible apply cancelPlanSctx_frame)
    | (with_reducible apply Frame.step; with_reducible apply cancelJob_frame)
    | (with_reducible apply Frame.step; with_reducible apply updPlan_frame)
    | (with_reducible apply Frame.step; with_reducible apply unbind_frame)
    | (with_reducible apply Frame.thread; (intro y e hy))
    | (with_reducible apply Frame.thread_fst; (intro y e hy))
    | (with_reducible apply Frame.thread_snd; (intro y e hy))
    | (with_reducible apply Frame.thread_trd; (intro y e hy))
    | with_reducible apply Frame.ite
    | split

theorem bindStream_frame (s : State) (d : Desc) : Frame 2535577080565634 s (bindStream s d) := by
  unfold bindStream
  try dsimp only
  try simp only [put_drifts_def]
  repeat' first
    | with_reducible assumption
    | with_reducible apply Frame.refl
    | ((with_reducible apply sub_of); exact Eq.refl true)
    | with_reducible apply Nat.le_succ
    | with_reducible apply mwf_wrBytes_imp
    | with_reducible apply mwf_filter_imp
    | with_reducible apply mwf_nil
    | with_reducible apply mwf_mupd_imp
    | with_reducible apply mwf_wrParts_imp
    | (with_reducible apply Frame.step; with_reducible apply updPstream_frame)
    | (with_reducible apply Frame.step; with_reducible apply updStream_frame)
    | (with_reducible apply Frame.step; with_reducible apply complete_frame)
    | (with_reducible apply Frame.step; with_reducible apply updLink_frame)
    | (with_reducible apply Frame.step; with_reducible apply put_drifts_frame)
    | with_reducible apply Frame.ite
    | split

theorem feedLine_frame (s : State) (x : Nat) (d : Desc) (i : Nat) : Frame 283880216072066 s (feedLine s x d i) := by
  unfold feedLine
  try dsimp only
  repeat' first
    | with_reducible assumption
    | with_reducible apply Frame.refl
    | ((with_reducible apply sub_of); exact Eq.refl true)
    | with_reducible apply Nat.le_succ
    | with_reducible apply mwf_wrBytes_imp
    | with_reducible apply mwf_filter_imp
    | with_reducible apply mwf_nil
    | with_reducible apply mwf_mupd_imp
    | with_reducible apply mwf_wrParts_imp
    | (with_reducible apply Frame.step; with_reducible apply completeLine_frame)
    | (with_reducible apply Frame.step; with_reducible apply reachLine_frame)
    | (with_reducible apply Frame.step; with_reducible apply openSlots_frame)
    | (with_reducible apply Frame.step; with_reducible apply putLine_frame)
    | (with_reducible apply Frame.step; with_reducible apply devRead_frame)
    | (with_reducible apply Frame.step; with_reducible apply Frame.snd; with_reducible assumption; with_reducible apply devRead_frame)
    | (with_reducible apply Frame.step; with_reducible apply maxF_frame)
    | with_reducible apply Frame.ite
    | split

theorem feedStep_frame (s : State) (x : Nat) : Frame 283914710028162 s (feedStep s x) := by
  unfold feedStep
  try dsimp only
  repeat' first
    | with_reducible assumption
    | with_reducible apply Frame.refl
    | ((with_reducible apply sub_of); exact Eq.refl true)
    | with_reducible apply Nat.le_succ
    | with_reducible apply mwf_wrBytes_imp
    | with_reducible apply mwf_filter_imp
    | with_reducible apply mwf_nil
    | with_reducible apply mwf_mupd_imp
    | with_reducible apply mwf_wrParts_imp
    | (with_reducible apply Frame.step; with_reducible apply updStream_frame)
    | (with_reducible apply Frame.step; with_reducible apply complete_frame)
    | (with_reducible apply Frame.step; with_reducible apply feedLine_frame)
    | (with_reducible apply Frame.step; with_reducible apply weldDue_frame)
    | with_reducible apply Frame.ite
    | split

theorem feedAll_frame (s : State) (x : Nat) : Frame 301790363914114 s (feedAll s x) := by
  unfold feedAll
  try dsimp only
  repeat' first
    | with_reducible assumption
    | with_reducible apply Frame.refl
    | ((with_reducible apply sub_of); exact Eq.refl true)
    | with_reducible apply Nat.le_succ
    | with_reducible apply mwf_wrBytes_imp
    | with_reducible apply mwf_filter_imp
    | with_reducible apply mwf_nil
    | with_reducible apply mwf_mupd_imp
    | with_reducible apply mwf_wrParts_imp
    | (with_reducible apply Frame.step; with_reducible apply feedStep_frame)
    | (with_reducible apply Frame.step; with_reducible apply settle_frame)
    | (with_reducible apply Frame.thread; (intro y e hy))
    | (with_reducible apply Frame.thread_fst; (intro y e hy))
    | (with_reducible apply Frame.thread_snd; (intro y e hy))
    | (with_reducible apply Frame.thread_trd; (intro y e hy))
    | with_reducible apply Frame.ite
    | split

theorem waitPass_frame (s : State) (r : Nat) : Frame 281475164409730 s (waitPass s r) := by
  unfold waitPass
  try dsimp only
  repeat' first
    | with_reducible assumption
    | with_reducible apply Frame.refl
    | ((with_reducible apply sub_of); exact Eq.refl true)
    | with_reducible apply Nat.le_succ
    | with_reducible apply mwf_wrBytes_imp
    | with_reducible apply mwf_filter_imp
    | with_reducible apply mwf_nil
    | with_reducible apply mwf_mupd_imp
    | with_reducible apply mwf_wrParts_imp
    | (with_reducible apply Frame.step; with_reducible apply complete_frame)
    | (with_reducible apply Frame.thread; (intro y e hy))
    | (with_reducible apply Frame.thread_fst; (intro y e hy))
    | (with_reducible apply Frame.thread_snd; (intro y e hy))
    | (with_reducible apply Frame.thread_trd; (intro y e hy))
    | with_reducible apply Frame.ite
    | split

end Sys2Proof.Machine
end

