-- ==== Sys2Proof/Laws/FaultsFrames.lean ====
section
/-! SUPPORT. What each operation of Machine/Faults.lean can do to the state. -/

namespace Sys2Proof.Machine

set_option Elab.async false

theorem writeLog_frame (s : State) (r : Report) (ns aux : Nat) (m : LogMark) : Frame 19923458 s (writeLog s r ns aux m) := by
  unfold writeLog
  try dsimp only
  repeat' first
    | with_reducible assumption
    | with_reducible apply Frame.refl
    | ((with_reducible apply sub_of); exact Eq.refl true)
    | with_reducible apply mwf_wrBytes_imp
    | with_reducible apply mwf_filter_imp
    | with_reducible apply mwf_nil
    | with_reducible apply mwf_mupd_imp
    | with_reducible apply mwf_wrParts_imp
    | (with_reducible apply Frame.step; with_reducible apply logNotify_frame)
    | (with_reducible apply Frame.step; with_reducible apply evSet_frame)
    | (with_reducible apply Frame.step; with_reducible apply setF_frame)
    | (with_reducible apply Frame.step; with_reducible apply cnt_frame)
    | (with_reducible apply Frame.thread; (intro y e hy))
    | (with_reducible apply Frame.thread_fst; (intro y e hy))
    | (with_reducible apply Frame.thread_snd; (intro y e hy))
    | (with_reducible apply Frame.thread_trd; (intro y e hy))
    | with_reducible apply Frame.ite
    | split

theorem addRecovery_frame (s : State) (d : Domain) (c : Nat) (r : Report) (ids : List JobId) (holds : Bool) : Frame 1048576 s (addRecovery s d c r ids holds) := by
  unfold addRecovery
  try dsimp only
  repeat' first
    | with_reducible assumption
    | with_reducible apply Frame.refl
    | ((with_reducible apply sub_of); exact Eq.refl true)
    | (with_reducible apply Frame.step; with_reducible apply updFm_frame)
    | with_reducible apply Frame.ite
    | split

theorem askReset_frame (s : State) : Frame 20185602 s (askReset s) := by
  unfold askReset
  try dsimp only
  repeat' first
    | with_reducible assumption
    | with_reducible apply Frame.refl
    | ((with_reducible apply sub_of); exact Eq.refl true)
    | with_reducible apply mwf_wrBytes_imp
    | with_reducible apply mwf_filter_imp
    | with_reducible apply mwf_nil
    | with_reducible apply mwf_mupd_imp
    | with_reducible apply mwf_wrParts_imp
    | (with_reducible apply Frame.step; with_reducible apply writeRepair_frame)
    | (with_reducible apply Frame.step; with_reducible apply fmNotify_frame)
    | (with_reducible apply Frame.step; with_reducible apply evSet_frame)
    | (with_reducible apply Frame.step; with_reducible apply updFm_frame)
    | with_reducible apply Frame.ite
    | split

theorem finishReset_frame (s : State) : Frame 4503599627370494 s (finishReset s) := by
  unfold finishReset
  try dsimp only
  repeat' first
    | with_reducible assumption
    | with_reducible apply Frame.refl
    | ((with_reducible apply sub_of); exact Eq.refl true)
    | with_reducible apply Nat.le_succ
    | with_reducible apply mwf_wrBytes_imp
    | with_reducible apply mwf_filter_imp
    | with_reducible apply mwf_nil
    | with_reducible apply mwf_mupd_imp
    | with_reducible apply mwf_wrParts_imp
    | (with_reducible apply Frame.step; with_reducible apply deviceReset_frame)
    | (with_reducible apply Frame.step; with_reducible apply logQueue_frame)
    | with_reducible apply Frame.ite
    | split

theorem performReset_frame (s : State) (resetCause cause : Nat) : Frame 4503599627370494 s (performReset s resetCause cause) := by
  unfold performReset
  try dsimp only
  repeat' first
    | with_reducible assumption
    | with_reducible apply Frame.refl
    | ((with_reducible apply sub_of); exact Eq.refl true)
    | with_reducible apply Nat.le_succ
    | with_reducible apply mwf_wrBytes_imp
    | with_reducible apply mwf_filter_imp
    | with_reducible apply mwf_nil
    | with_reducible apply mwf_mupd_imp
    | with_reducible apply mwf_wrParts_imp
    | (with_reducible apply Frame.step; with_reducible apply writeRepair_frame)
    | (with_reducible apply Frame.step; with_reducible apply finishReset_frame)
    | (with_reducible apply Frame.step; with_reducible apply askReset_frame)
    | (with_reducible apply Frame.step; with_reducible apply updFm_frame)
    | with_reducible apply Frame.ite
    | split

theorem frostJob_frame (s : State) (j : Job) : Frame 299425980223362 s (frostJob s j) := by
  unfold frostJob
  try dsimp only
  repeat' first
    | with_reducible assumption
    | with_reducible apply Frame.refl
    | ((with_reducible apply sub_of); exact Eq.refl true)
    | with_reducible apply Nat.le_succ
    | with_reducible apply mwf_wrBytes_imp
    | with_reducible apply mwf_filter_imp
    | with_reducible apply mwf_nil
    | with_reducible apply mwf_mupd_imp
    | with_reducible apply mwf_wrParts_imp
    | (with_reducible apply Frame.step; with_reducible apply queuesCancel_frame)
    | (with_reducible apply Frame.step; with_reducible apply queuesAbort_frame)
    | (with_reducible apply Frame.step; with_reducible apply completeJob_frame)
    | (with_reducible apply Frame.step; with_reducible apply endAttempt_frame)
    | (with_reducible apply Frame.step; with_reducible apply freePlace_frame)
    | (with_reducible apply Frame.step; with_reducible apply dropBlock_frame)
    | (with_reducible apply Frame.step; with_reducible apply updJob_frame)
    | with_reducible apply Frame.ite
    | split

theorem enterFrost_frame (s : State) (cause : Nat) : Frame 510533294915458 s (enterFrost s cause) := by
  unfold enterFrost
  try dsimp only
  try simp only [put_14_mem_bwTokens_def]
  repeat' first
    | with_reducible assumption
    | with_reducible apply Frame.refl
    | ((with_reducible apply sub_of); exact Eq.refl true)
    | with_reducible apply Nat.le_succ
    | with_reducible apply mwf_wrBytes_imp
    | with_reducible apply mwf_filter_imp
    | with_reducible apply mwf_nil
    | with_reducible apply mwf_mupd_imp
    | with_reducible apply mwf_wrParts_imp
    | (with_reducible apply Frame.step; with_reducible apply frostJob_frame)
    | (with_reducible apply Frame.step; with_reducible apply updFm_frame)
    | (with_reducible apply Frame.step; with_reducible apply cnt_frame)
    | (with_reducible apply Frame.step; with_reducible apply put_14_mem_bwTokens_frame)
    | (with_reducible apply Frame.thread; (intro y e hy))
    | (with_reducible apply Frame.thread_fst; (intro y e hy))
    | (with_reducible apply Frame.thread_snd; (intro y e hy))
    | (with_reducible apply Frame.thread_trd; (intro y e hy))
    | with_reducible apply Frame.ite
    | split

theorem applyFrost_frame (s : State) (d : Domain) (r : Report) : Frame 510533294915458 s (applyFrost s d r) := by
  unfold applyFrost
  try dsimp only
  repeat' first
    | with_reducible assumption
    | with_reducible apply Frame.refl
    | ((with_reducible apply sub_of); exact Eq.refl true)
    | with_reducible apply Nat.le_succ
    | with_reducible apply mwf_wrBytes_imp
    | with_reducible apply mwf_filter_imp
    | with_reducible apply mwf_nil
    | with_reducible apply mwf_mupd_imp
    | with_reducible apply mwf_wrParts_imp
    | (with_reducible apply Frame.step; with_reducible apply addRecovery_frame)
    | (with_reducible apply Frame.step; with_reducible apply enterFrost_frame)
    | with_reducible apply Frame.ite
    | split

theorem hostFrost_frame (s : State) (aux : Nat) : Frame 510533294915458 s (hostFrost s aux) := by
  unfold hostFrost
  try dsimp only
  repeat' first
    | with_reducible assumption
    | with_reducible apply Frame.refl
    | ((with_reducible apply sub_of); exact Eq.refl true)
    | with_reducible apply Nat.le_succ
    | with_reducible apply mwf_wrBytes_imp
    | with_reducible apply mwf_filter_imp
    | with_reducible apply mwf_nil
    | with_reducible apply mwf_mupd_imp
    | with_reducible apply mwf_wrParts_imp
    | (with_reducible apply Frame.step; with_reducible apply applyFrost_frame)
    | (with_reducible apply Frame.step; with_reducible apply writeLog_frame)
    | (with_reducible apply Frame.step; with_reducible apply cnt_frame)
    | with_reducible apply Frame.ite
    | split

theorem haltPlan_frame (s : State) (p : Nat) : Frame 1075838978 s (haltPlan s p) := by
  unfold haltPlan
  try dsimp only
  repeat' first
    | with_reducible assumption
    | with_reducible apply Frame.refl
    | ((with_reducible apply sub_of); exact Eq.refl true)
    | (with_reducible apply Frame.step; with_reducible apply updPlan_frame)
    | (with_reducible apply Frame.step; with_reducible apply evSet_frame)
    | (with_reducible apply Frame.step; with_reducible apply setF_frame)
    | (with_reducible apply Frame.step; with_reducible apply cnt_frame)
    | with_reducible apply Frame.ite
    | split

theorem haltOrCancel_frame (s : State) (w : Waiting) (j : Job) (nested : Bool) : Frame 3749866345074562 s (haltOrCancel s w j nested) := by
  unfold haltOrCancel
  try dsimp only
  repeat' first
    | with_reducible assumption
    | with_reducible apply Frame.refl
    | ((with_reducible apply sub_of); exact Eq.refl true)
    | with_reducible apply Nat.le_succ
    | with_reducible apply mwf_wrBytes_imp
    | with_reducible apply mwf_filter_imp
    | with_reducible apply mwf_nil
    | with_reducible apply mwf_mupd_imp
    | with_reducible apply mwf_wrParts_imp
    | (with_reducible apply Frame.step; with_reducible apply cancelJob_frame)
    | (with_reducible apply Frame.step; with_reducible apply drainPass_frame)
    | (with_reducible apply Frame.step; with_reducible apply writeLog_frame)
    | (with_reducible apply Frame.step; with_reducible apply haltPlan_frame)
    | (with_reducible apply Frame.step; with_reducible apply settle_frame)
    | with_reducible apply Frame.ite
    | split

theorem touchJob_frame (s : State) (r : Report) : Frame 281690852298626 s (touchJob s r) := by
  unfold touchJob
  try dsimp only
  try simp only [put_plans_def]
  repeat' first
    | with_reducible assumption
    | with_reducible apply Frame.refl
    | ((with_reducible apply sub_of); exact Eq.refl true)
    | with_reducible apply Nat.le_succ
    | with_reducible apply mwf_wrBytes_imp
    | with_reducible apply mwf_filter_imp
    | with_reducible apply mwf_nil
    | with_reducible apply mwf_mupd_imp
    | with_reducible apply mwf_wrParts_imp
    | (with_reducible apply Frame.step; with_reducible apply orderAbort_frame)
    | (with_reducible apply Frame.step; with_reducible apply badInput_frame)
    | (with_reducible apply Frame.step; with_reducible apply put_plans_frame)
    | with_reducible apply Frame.ite
    | split

theorem judgeProgram_frame (s : State) (w : Waiting) : Frame 3749866345074562 s (judgeProgram s w) := by
  unfold judgeProgram
  try dsimp only
  repeat' first
    | with_reducible assumption
    | with_reducible apply Frame.refl
    | ((with_reducible apply sub_of); exact Eq.refl true)
    | with_reducible apply Nat.le_succ
    | with_reducible apply mwf_wrBytes_imp
    | with_reducible apply mwf_filter_imp
    | with_reducible apply mwf_nil
    | with_reducible apply mwf_mupd_imp
    | with_reducible apply mwf_wrParts_imp
    | (with_reducible apply Frame.step; with_reducible apply haltOrCancel_frame)
    | (with_reducible apply Frame.step; with_reducible apply addRecovery_frame)
    | (with_reducible apply Frame.step; with_reducible apply writeLog_frame)
    | (with_reducible apply Frame.step; with_reducible apply touchJob_frame)
    | (with_reducible apply Frame.step; with_reducible apply updJob_frame)
    | with_reducible apply Frame.ite
    | split

theorem quarantine_frame (s : State) (t : Nat) : Frame 8590983170 s (quarantine s t) := by
  unfold quarantine
  try dsimp only
  repeat' first
    | with_reducible assumption
    | with_reducible apply Frame.refl
    | ((with_reducible apply sub_of); exact Eq.refl true)
    | (with_reducible apply Frame.step; with_reducible apply orderAbort_frame)
    | (with_reducible apply Frame.step; with_reducible apply updFm_frame)
    | (with_reducible apply Frame.step; with_reducible apply cnt_frame)
    | (with_reducible apply Frame.thread; (intro y e hy))
    | (with_reducible apply Frame.thread_fst; (intro y e hy))
    | (with_reducible apply Frame.thread_snd; (intro y e hy))
    | (with_reducible apply Frame.thread_trd; (intro y e hy))
    | with_reducible apply Frame.ite
    | split

theorem dropLine_frame (s : State) (r : Report) : Frame 17592186044416 s (dropLine s r) := by
  unfold dropLine
  try dsimp only
  repeat' first
    | with_reducible assumption
    | with_reducible apply Frame.refl
    | ((with_reducible apply sub_of); exact Eq.refl true)
    | (with_reducible apply Frame.step; with_reducible apply updTile_frame)
    | with_reducible apply Frame.ite
    | split

theorem contain_frame (s : State) (w : Waiting) (d : Domain) (cls : Nat) (nested : Bool) : Frame 4503599627370494 s (contain s w d cls nested) := by
  unfold contain
  try dsimp only
  repeat' first
    | with_reducible assumption
    | with_reducible apply Frame.refl
    | ((with_reducible apply sub_of); exact Eq.refl true)
    | with_reducible apply Nat.le_succ
    | with_reducible apply mwf_wrBytes_imp
    | with_reducible apply mwf_filter_imp
    | with_reducible apply mwf_nil
    | with_reducible apply mwf_mupd_imp
    | with_reducible apply mwf_wrParts_imp
    | (with_reducible apply Frame.step; with_reducible apply performReset_frame)
    | (with_reducible apply Frame.step; with_reducible apply addRecovery_frame)
    | (with_reducible apply Frame.step; with_reducible apply quarantine_frame)
    | (with_reducible apply Frame.step; with_reducible apply applyFrost_frame)
    | (with_reducible apply Frame.step; with_reducible apply writeLog_frame)
    | (with_reducible apply Frame.step; with_reducible apply touchJob_frame)
    | (with_reducible apply Frame.step; with_reducible apply dropLine_frame)
    | (with_reducible apply Frame.step; with_reducible apply askReset_frame)
    | with_reducible apply Frame.ite
    | split

theorem containFrozen_frame (s : State) (w : Waiting) (d : Domain) (cls : Nat) (nested : Bool) : Frame 4503599627370494 s (containFrozen s w d cls nested) := by
  unfold containFrozen
  try dsimp only
  repeat' first
    | with_reducible assumption
    | with_reducible apply Frame.refl
    | ((with_reducible apply sub_of); exact Eq.refl true)
    | with_reducible apply Nat.le_succ
    | with_reducible apply mwf_wrBytes_imp
    | with_reducible apply mwf_filter_imp
    | with_reducible apply mwf_nil
    | with_reducible apply mwf_mupd_imp
    | with_reducible apply mwf_wrParts_imp
    | (with_reducible apply Frame.step; with_reducible apply performReset_frame)
    | (with_reducible apply Frame.step; with_reducible apply dropLine_frame)
    | (with_reducible apply Frame.step; with_reducible apply writeLog_frame)
    | (with_reducible apply Frame.step; with_reducible apply updFm_frame)
    | with_reducible apply Frame.ite
    | split

theorem sramLost_frame (s : State) (r : Report) : Frame 281689778556802 s (sramLost s r) := by
  unfold sramLost
  try dsimp only
  repeat' first
    | with_reducible assumption
    | with_reducible apply Frame.refl
    | ((with_reducible apply sub_of); exact Eq.refl true)
    | with_reducible apply Nat.le_succ
    | with_reducible apply mwf_wrBytes_imp
    | with_reducible apply mwf_filter_imp
    | with_reducible apply mwf_nil
    | with_reducible apply mwf_mupd_imp
    | with_reducible apply mwf_wrParts_imp
    | (with_reducible apply Frame.step; with_reducible apply orderAbort_frame)
    | (with_reducible apply Frame.step; with_reducible apply putCopies_frame)
    | (with_reducible apply Frame.step; with_reducible apply updStripe_frame)
    | (with_reducible apply Frame.step; with_reducible apply gapRecord_frame)
    | (with_reducible apply Frame.step; with_reducible apply updStream_frame)
    | (with_reducible apply Frame.step; with_reducible apply updJob_frame)
    | with_reducible apply Frame.ite
    | split

theorem noteDomain_frame (s : State) (id : JobId) (d : Domain) : Frame 1048576 s (noteDomain s id d) := by
  unfold noteDomain
  try dsimp only
  repeat' first
    | with_reducible assumption
    | with_reducible apply Frame.refl
    | ((with_reducible apply sub_of); exact Eq.refl true)
    | (with_reducible apply Frame.step; with_reducible apply updFm_frame)
    | with_reducible apply Frame.ite
    | split

theorem takeUnit_frame (s : State) (w : Waiting) : Frame 4503599627370494 s (takeUnit s w) := by
  unfold takeUnit
  try dsimp only
  repeat' first
    | with_reducible assumption
    | with_reducible apply Frame.refl
    | ((with_reducible apply sub_of); exact Eq.refl true)
    | with_reducible apply Nat.le_succ
    | with_reducible apply mwf_wrBytes_imp
    | with_reducible apply mwf_filter_imp
    | with_reducible apply mwf_nil
    | with_reducible apply mwf_mupd_imp
    | with_reducible apply mwf_wrParts_imp
    | (with_reducible apply Frame.step; with_reducible apply containFrozen_frame)
    | (with_reducible apply Frame.step; with_reducible apply judgeProgram_frame)
    | (with_reducible apply Frame.step; with_reducible apply noteDomain_frame)
    | (with_reducible apply Frame.step; with_reducible apply sramLost_frame)
    | (with_reducible apply Frame.step; with_reducible apply contain_frame)
    | (with_reducible apply Frame.step; with_reducible apply cnt_frame)
    | with_reducible apply Frame.ite
    | split

theorem takeLimit_frame (s : State) (w : Waiting) : Frame 4503599627370494 s (takeLimit s w) := by
  unfold takeLimit
  try dsimp only
  repeat' first
    | with_reducible assumption
    | with_reducible apply Frame.refl
    | ((with_reducible apply sub_of); exact Eq.refl true)
    | with_reducible apply Nat.le_succ
    | with_reducible apply mwf_wrBytes_imp
    | with_reducible apply mwf_filter_imp
    | with_reducible apply mwf_nil
    | with_reducible apply mwf_mupd_imp
    | with_reducible apply mwf_wrParts_imp
    | (with_reducible apply Frame.step; with_reducible apply containFrozen_frame)
    | (with_reducible apply Frame.step; with_reducible apply haltOrCancel_frame)
    | (with_reducible apply Frame.step; with_reducible apply requeue_frame)
    | (with_reducible apply Frame.step; with_reducible apply contain_frame)
    | (with_reducible apply Frame.step; with_reducible apply updJob_frame)
    | (with_reducible apply Frame.step; with_reducible apply evSet_frame)
    | (with_reducible apply Frame.step; with_reducible apply cnt_frame)
    | with_reducible apply Frame.ite
    | split

theorem takeReport_frame (s : State) : Frame 4503599627370494 s (takeReport s) := by
  unfold takeReport
  try dsimp only
  repeat' first
    | with_reducible assumption
    | with_reducible apply Frame.refl
    | ((with_reducible apply sub_of); exact Eq.refl true)
    | with_reducible apply Nat.le_succ
    | with_reducible apply mwf_wrBytes_imp
    | with_reducible apply mwf_filter_imp
    | with_reducible apply mwf_nil
    | with_reducible apply mwf_mupd_imp
    | with_reducible apply mwf_wrParts_imp
    | (with_reducible apply Frame.step; with_reducible apply takeLimit_frame)
    | (with_reducible apply Frame.step; with_reducible apply takeUnit_frame)
    | (with_reducible apply Frame.step; with_reducible apply updFm_frame)
    | with_reducible apply Frame.ite
    | split

theorem parityMark_frame (s : State) (r : Report) : Frame 2099202 s (parityMark s r) := by
  unfold parityMark
  try dsimp only
  try simp only [put_spPoison_def]
  repeat' first
    | with_reducible assumption
    | with_reducible apply Frame.refl
    | ((with_reducible apply sub_of); exact Eq.refl true)
    | (with_reducible apply Frame.step; with_reducible apply evSet_frame)
    | (with_reducible apply Frame.step; with_reducible apply addF_frame)
    | (with_reducible apply Frame.step; with_reducible apply put_spPoison_frame)
    | with_reducible apply Frame.ite
    | split

theorem formGrid_frame (s : State) (failed : List Nat) : Frame 35184372088832 s (formGrid s failed) := by
  unfold formGrid
  try dsimp only
  try simp only [put_grid_def]
  repeat' first
    | with_reducible assumption
    | with_reducible apply Frame.refl
    | ((with_reducible apply sub_of); exact Eq.refl true)
    | (with_reducible apply Frame.step; with_reducible apply put_grid_frame)
    | with_reducible apply Frame.ite
    | split

theorem startCores_frame (s : State) : Frame 8396800 s (startCores s) := by
  unfold startCores
  try dsimp only
  try simp only [put_tcm_def]
  repeat' first
    | with_reducible assumption
    | with_reducible apply Frame.refl
    | ((with_reducible apply sub_of); exact Eq.refl true)
    | with_reducible apply mwf_wrBytes_imp
    | with_reducible apply mwf_filter_imp
    | with_reducible apply mwf_nil
    | with_reducible apply mwf_mupd_imp
    | with_reducible apply mwf_wrParts_imp
    | (with_reducible apply Frame.step; with_reducible apply updCore_frame)
    | (with_reducible apply Frame.step; with_reducible apply put_tcm_frame)
    | (with_reducible apply Frame.thread; (intro y e hy))
    | (with_reducible apply Frame.thread_fst; (intro y e hy))
    | (with_reducible apply Frame.thread_snd; (intro y e hy))
    | (with_reducible apply Frame.thread_trd; (intro y e hy))
    | with_reducible apply Frame.ite
    | split

theorem reloadOne_frame (b : Nat) (old : Bool) (s : State) : Frame 281749857763458 s (reloadOne b old s) := by
  unfold reloadOne
  try dsimp only
  repeat' first
    | with_reducible assumption
    | with_reducible apply Frame.refl
    | ((with_reducible apply sub_of); exact Eq.refl true)
    | with_reducible apply Nat.le_succ
    | (with_reducible apply Frame.step; with_reducible apply updEngine_frame)
    | (with_reducible apply Frame.step; with_reducible apply readImage_frame)
    | (with_reducible apply Frame.step; with_reducible apply Frame.trd; with_reducible assumption; with_reducible apply readImage_frame)
    | (with_reducible apply Frame.step; with_reducible apply report_frame)
    | (with_reducible apply Frame.step; with_reducible apply evSet_frame)
    | with_reducible apply Frame.ite
    | split

theorem reloadBank_frame (s : State) (b : Nat) : Frame 281749857763458 s (reloadBank s b) := by
  unfold reloadBank
  try dsimp only
  repeat' first
    | with_reducible assumption
    | with_reducible apply Frame.refl
    | ((with_reducible apply sub_of); exact Eq.refl true)
    | with_reducible apply Nat.le_succ
    | (with_reducible apply Frame.step; with_reducible apply updEngine_frame)
    | (with_reducible apply Frame.step; with_reducible apply reloadOne_frame)
    | with_reducible apply Frame.ite
    | split

theorem planFits_frame (s : State) (p : Nat) : Frame 1093665282 s (planFits s p) := by
  unfold planFits
  try dsimp only
  repeat' first
    | with_reducible assumption
    | with_reducible apply Frame.refl
    | ((with_reducible apply sub_of); exact Eq.refl true)
    | with_reducible apply mwf_wrBytes_imp
    | with_reducible apply mwf_filter_imp
    | with_reducible apply mwf_nil
    | with_reducible apply mwf_mupd_imp
    | with_reducible apply mwf_wrParts_imp
    | (with_reducible apply Frame.step; with_reducible apply haltPlan_frame)
    | (with_reducible apply Frame.step; with_reducible apply writeLog_frame)
    | with_reducible apply Frame.ite
    | split

theorem actLater_frame (s : State) (l : Waiting × Domain × Nat) : Frame 510670733868930 s (actLater s l) := by
  unfold actLater
  try dsimp only
  repeat' first
    | with_reducible assumption
    | with_reducible apply Frame.refl
    | ((with_reducible apply sub_of); exact Eq.refl true)
    | with_reducible apply Nat.le_succ
    | with_reducible apply mwf_wrBytes_imp
    | with_reducible apply mwf_filter_imp
    | with_reducible apply mwf_nil
    | with_reducible apply mwf_mupd_imp
    | with_reducible apply mwf_wrParts_imp
    | (with_reducible apply Frame.step; with_reducible apply addRecovery_frame)
    | (with_reducible apply Frame.step; with_reducible apply applyFrost_frame)
    | (with_reducible apply Frame.step; with_reducible apply quarantine_frame)
    | (with_reducible apply Frame.step; with_reducible apply touchJob_frame)
    | with_reducible apply Frame.ite
    | split

end Sys2Proof.Machine
end

