-- ==== Sys2Proof/Laws/HostLinkFrames.lean ====
section
/-! SUPPORT. What each operation of Machine/HostLink.lean can do to the state. -/

namespace Sys2Proof.Machine

set_option Elab.async false

theorem aerLog_frame (s : State) (k : Aer) (aux : Nat) : Frame 19922946 s (aerLog s k aux) := by
  unfold aerLog
  try dsimp only
  repeat' first
    | with_reducible assumption
    | with_reducible apply Frame.refl
    | ((with_reducible apply sub_of); exact Eq.refl true)
    | (with_reducible apply Frame.step; with_reducible apply report_frame)
    | (with_reducible apply Frame.step; with_reducible apply evSet_frame)
    | (with_reducible apply Frame.step; with_reducible apply updHl_frame)
    | with_reducible apply Frame.ite
    | split

theorem timeoutStream_frame (s : State) (e c tag : Nat) : Frame 510394773802882 s (timeoutStream s e c tag) := by
  unfold timeoutStream
  try dsimp only
  repeat' first
    | with_reducible assumption
    | with_reducible apply Frame.refl
    | ((with_reducible apply sub_of); exact Eq.refl true)
    | with_reducible apply Nat.le_succ
    | with_reducible apply mwf_wrBytes_imp
    | with_reducible apply mwf_filter_imp
    | with_reducible apply mwf_nil
    | with_reducible apply mwf_mupd_imp
    | with_reducible apply mwf_wrParts_imp
    | (with_reducible apply Frame.step; with_reducible apply failRead_frame)
    | with_reducible apply Frame.ite
    | split

theorem timeoutReader_frame (s : State) (tag : Nat) (r : HostReader) : Frame 19922946 s (timeoutReader s tag r) := by
  unfold timeoutReader
  try dsimp only
  repeat' first
    | with_reducible assumption
    | with_reducible apply Frame.refl
    | ((with_reducible apply sub_of); exact Eq.refl true)
    | (with_reducible apply Frame.step; with_reducible apply aerLog_frame)
    | (with_reducible apply Frame.step; with_reducible apply updHl_frame)
    | (with_reducible apply Frame.step; with_reducible apply cnt_frame)
    | with_reducible apply Frame.ite
    | split

theorem unsupported_frame (s : State) : Frame 96 s (unsupported s) := by
  unfold unsupported
  try dsimp only
  try simp only [put_readData_readError_def]
  repeat' first
    | with_reducible assumption
    | with_reducible apply Frame.refl
    | ((with_reducible apply sub_of); exact Eq.refl true)
    | (with_reducible apply Frame.step; with_reducible apply put_readData_readError_frame)
    | with_reducible apply Frame.ite
    | split

theorem bar4Drop_frame (s : State) : Frame 19922946 s (bar4Drop s) := by
  unfold bar4Drop
  try dsimp only
  repeat' first
    | with_reducible assumption
    | with_reducible apply Frame.refl
    | ((with_reducible apply sub_of); exact Eq.refl true)
    | (with_reducible apply Frame.step; with_reducible apply aerLog_frame)
    | (with_reducible apply Frame.step; with_reducible apply cnt_frame)
    | with_reducible apply Frame.ite
    | split

theorem flushStalled_frame (s : State) : Frame 16777728 s (flushStalled s) := by
  unfold flushStalled
  try dsimp only
  repeat' first
    | with_reducible assumption
    | with_reducible apply Frame.refl
    | ((with_reducible apply sub_of); exact Eq.refl true)
    | with_reducible apply mwf_wrBytes_imp
    | with_reducible apply mwf_filter_imp
    | with_reducible apply mwf_nil
    | with_reducible apply mwf_mupd_imp
    | with_reducible apply mwf_wrParts_imp
    | (with_reducible apply Frame.step; with_reducible apply updHl_frame)
    | (with_reducible apply Frame.step; with_reducible apply post_frame)
    | (with_reducible apply Frame.thread; (intro y e hy))
    | (with_reducible apply Frame.thread_fst; (intro y e hy))
    | (with_reducible apply Frame.thread_snd; (intro y e hy))
    | (with_reducible apply Frame.thread_trd; (intro y e hy))
    | with_reducible apply Frame.ite
    | split

theorem sendPending_frame (s : State) : Frame 16777728 s (sendPending s) := by
  unfold sendPending
  try dsimp only
  try simp only [put_pending_def]
  repeat' first
    | with_reducible assumption
    | with_reducible apply Frame.refl
    | ((with_reducible apply sub_of); exact Eq.refl true)
    | with_reducible apply mwf_wrBytes_imp
    | with_reducible apply mwf_filter_imp
    | with_reducible apply mwf_nil
    | with_reducible apply mwf_mupd_imp
    | with_reducible apply mwf_wrParts_imp
    | (with_reducible apply Frame.step; with_reducible apply updHl_frame)
    | (with_reducible apply Frame.step; with_reducible apply post_frame)
    | (with_reducible apply Frame.step; with_reducible apply put_pending_frame)
    | (with_reducible apply Frame.thread; (intro y e hy))
    | (with_reducible apply Frame.thread_fst; (intro y e hy))
    | (with_reducible apply Frame.thread_snd; (intro y e hy))
    | (with_reducible apply Frame.thread_trd; (intro y e hy))
    | with_reducible apply Frame.ite
    | split

theorem resetConfig_frame (s : State) : Frame 16777218 s (resetConfig s) := by
  unfold resetConfig
  try dsimp only
  try simp only [put_regs_def]
  repeat' first
    | with_reducible assumption
    | with_reducible apply Frame.refl
    | ((with_reducible apply sub_of); exact Eq.refl true)
    | (with_reducible apply Frame.step; with_reducible apply updHl_frame)
    | (with_reducible apply Frame.step; with_reducible apply put_regs_frame)
    | with_reducible apply Frame.ite
    | split

theorem resetGates_frame (s : State) : Frame 2 s (resetGates s) := by
  unfold resetGates
  try dsimp only
  try simp only [put_regs_def]
  repeat' first
    | with_reducible assumption
    | with_reducible apply Frame.refl
    | ((with_reducible apply sub_of); exact Eq.refl true)
    | (with_reducible apply Frame.step; with_reducible apply put_regs_frame)
    | with_reducible apply Frame.ite
    | split

theorem dropRings_frame (s : State) : Frame 70369264271362 s (dropRings s) := by
  unfold dropRings
  try dsimp only
  try simp only [put_6_regs_sctx_def]
  repeat' first
    | with_reducible assumption
    | with_reducible apply Frame.refl
    | ((with_reducible apply sub_of); exact Eq.refl true)
    | (with_reducible apply Frame.step; with_reducible apply updHl_frame)
    | (with_reducible apply Frame.step; with_reducible apply put_6_regs_sctx_frame)
    | with_reducible apply Frame.ite
    | split

theorem functionReset_frame (s : State) (source : Nat) : Frame 3890604177391490 s (functionReset s source) := by
  unfold functionReset
  try dsimp only
  repeat' first
    | with_reducible assumption
    | with_reducible apply Frame.refl
    | ((with_reducible apply sub_of); exact Eq.refl true)
    | with_reducible apply Nat.le_succ
    | with_reducible apply mwf_wrBytes_imp
    | with_reducible apply mwf_filter_imp
    | with_reducible apply mwf_nil
    | with_reducible apply mwf_mupd_imp
    | with_reducible apply mwf_wrParts_imp
    | (with_reducible apply Frame.step; with_reducible apply resetConfig_frame)
    | (with_reducible apply Frame.step; with_reducible apply resetGates_frame)
    | (with_reducible apply Frame.step; with_reducible apply dropRings_frame)
    | (with_reducible apply Frame.step; with_reducible apply drainPass_frame)
    | (with_reducible apply Frame.step; with_reducible apply hostFrost_frame)
    | (with_reducible apply Frame.step; with_reducible apply unbind_frame)
    | (with_reducible apply Frame.step; with_reducible apply unload_frame)
    | (with_reducible apply Frame.step; with_reducible apply updHl_frame)
    | (with_reducible apply Frame.step; with_reducible apply evSet_frame)
    | (with_reducible apply Frame.thread; (intro y e hy))
    | (with_reducible apply Frame.thread_fst; (intro y e hy))
    | (with_reducible apply Frame.thread_snd; (intro y e hy))
    | (with_reducible apply Frame.thread_trd; (intro y e hy))
    | with_reducible apply Frame.ite
    | split

theorem hotResetOf_frame (s : State) : Frame 3890604177391490 s (hotResetOf s) := by
  unfold hotResetOf
  try dsimp only
  repeat' first
    | with_reducible assumption
    | with_reducible apply Frame.refl
    | ((with_reducible apply sub_of); exact Eq.refl true)
    | with_reducible apply Nat.le_succ
    | with_reducible apply mwf_wrBytes_imp
    | with_reducible apply mwf_filter_imp
    | with_reducible apply mwf_nil
    | with_reducible apply mwf_mupd_imp
    | with_reducible apply mwf_wrParts_imp
    | (with_reducible apply Frame.step; with_reducible apply functionReset_frame)
    | (with_reducible apply Frame.step; with_reducible apply updHl_frame)
    | with_reducible apply Frame.ite
    | split

theorem linkTrained_frame (s : State) (speed width : Fin 16) (flit : Bool) (tags : Fin 4) : Frame 16842752 s (linkTrained s speed width flit tags) := by
  unfold linkTrained
  try dsimp only
  repeat' first
    | with_reducible assumption
    | with_reducible apply Frame.refl
    | ((with_reducible apply sub_of); exact Eq.refl true)
    | (with_reducible apply Frame.step; with_reducible apply updPins_frame)
    | (with_reducible apply Frame.step; with_reducible apply updHl_frame)
    | with_reducible apply Frame.ite
    | split

end Sys2Proof.Machine
end

