-- ==== Sys2Proof/Laws/BootFrames.lean ====
section
/-! SUPPORT. What each operation of Machine/Boot.lean can do to the state. -/

namespace Sys2Proof.Machine

set_option Elab.async false

theorem failStage_frame (s : State) (stage code : Nat) (us : Nat) (d : List Nat) : Frame 393218 s (failStage s stage code us d) := by
  unfold failStage
  try dsimp only
  repeat' first
    | with_reducible assumption
    | with_reducible apply Frame.refl
    | ((with_reducible apply sub_of); exact Eq.refl true)
    | (with_reducible apply Frame.step; with_reducible apply bootRecord_frame)
    | (with_reducible apply Frame.step; with_reducible apply updBoot_frame)
    | with_reducible apply Frame.ite
    | split

theorem passStage_frame (s : State) (stage next : Nat) (us : Nat) (d : List Nat) : Frame 393218 s (passStage s stage next us d) := by
  unfold passStage
  try dsimp only
  repeat' first
    | with_reducible assumption
    | with_reducible apply Frame.refl
    | ((with_reducible apply sub_of); exact Eq.refl true)
    | (with_reducible apply Frame.step; with_reducible apply bootRecord_frame)
    | (with_reducible apply Frame.step; with_reducible apply updBoot_frame)
    | with_reducible apply Frame.ite
    | split

theorem newChallenge_frame (s : State) : Frame 262144 s (newChallenge s) := by
  unfold newChallenge
  try dsimp only
  repeat' first
    | with_reducible assumption
    | with_reducible apply Frame.refl
    | ((with_reducible apply sub_of); exact Eq.refl true)
    | (with_reducible apply Frame.step; with_reducible apply updSec_frame)
    | with_reducible apply Frame.ite
    | split

theorem bootBundle_frame (s : State) (src : Nat) (bs : List Byte) (detail : Nat) : Frame 8790018 s (bootBundle s src bs detail) := by
  unfold bootBundle
  try dsimp only
  repeat' first
    | with_reducible assumption
    | with_reducible apply Frame.refl
    | ((with_reducible apply sub_of); exact Eq.refl true)
    | with_reducible apply mwf_wrBytes_imp
    | with_reducible apply mwf_filter_imp
    | with_reducible apply mwf_nil
    | with_reducible apply mwf_mupd_imp
    | with_reducible apply mwf_wrParts_imp
    | (with_reducible apply Frame.step; with_reducible apply startCores_frame)
    | (with_reducible apply Frame.step; with_reducible apply passStage_frame)
    | (with_reducible apply Frame.step; with_reducible apply updBoot_frame)
    | (with_reducible apply Frame.step; with_reducible apply updSec_frame)
    | with_reducible apply Frame.ite
    | split

theorem repairRow_frame (bads : List (Nat × Nat × Nat)) (march : Bool) (s : State) (r : Nat × Nat × Nat) : Frame 844424930131968 s (repairRow bads march s r) := by
  unfold repairRow
  try dsimp only
  repeat' first
    | with_reducible assumption
    | with_reducible apply Frame.refl
    | ((with_reducible apply sub_of); exact Eq.refl true)
    | (with_reducible apply Frame.step; with_reducible apply updChannel_frame)
    | (with_reducible apply Frame.step; with_reducible apply updDram_frame)
    | with_reducible apply Frame.ite
    | split

theorem dropSpares_frame (bads : List (Nat × Nat × Nat)) (s : State) : Frame 281474976710656 s (dropSpares bads s).1 := by
  unfold dropSpares
  try dsimp only
  try simp only [put_chans_def]
  repeat' first
    | with_reducible assumption
    | with_reducible apply Frame.refl
    | ((with_reducible apply sub_of); exact Eq.refl true)
    | (with_reducible apply Frame.step; with_reducible apply put_chans_frame)
    | with_reducible apply Frame.ite
    | split

theorem applyLicence_frame (s : State) (bs : List Byte) : Frame 35184372350976 s (applyLicence s bs) := by
  unfold applyLicence
  try dsimp only
  repeat' first
    | with_reducible assumption
    | with_reducible apply Frame.refl
    | ((with_reducible apply sub_of); exact Eq.refl true)
    | (with_reducible apply Frame.step; with_reducible apply formGrid_frame)
    | (with_reducible apply Frame.step; with_reducible apply updSec_frame)
    | with_reducible apply Frame.ite
    | split

end Sys2Proof.Machine
end

