-- ==== Sys2Proof/Laws/SecurityFrames.lean ====
section
/-! SUPPORT. What each operation of Machine/Security.lean can do to the state. -/

namespace Sys2Proof.Machine

set_option Elab.async false

theorem secCmd_frame {m : Nat} (s : State) (op : Nat) (allowed : Bool) (body : State → State) (hm : sub 262146 m = true)
    (hf : ∀ y, Frame m s y → Frame m s (body y)) : Frame m s (secCmd s op allowed body) := by
  unfold secCmd
  dsimp only
  split
  · exact Frame.refl _
  · split
    · exact Frame.step (setF_frame ..) (sub_trans rfl hm) (Frame.refl _)
    · split
      · exact hf _ (Frame.step (setF_frame ..) (sub_trans rfl hm) (Frame.refl _))
      · exact Frame.step (secDone_frame ..) (sub_trans rfl hm) (Frame.step (setF_frame ..) (sub_trans rfl hm) (Frame.refl _))

theorem putStage_frame (s : State) (bs : List Byte) : Frame 2 s (putStage s bs) := by
  unfold putStage
  try dsimp only
  repeat' first
    | with_reducible assumption
    | with_reducible apply Frame.refl
    | ((with_reducible apply sub_of); exact Eq.refl true)
    | (with_reducible apply Frame.step; with_reducible apply setF_frame)
    | (with_reducible apply Frame.thread; (intro y e hy))
    | (with_reducible apply Frame.thread_fst; (intro y e hy))
    | (with_reducible apply Frame.thread_snd; (intro y e hy))
    | (with_reducible apply Frame.thread_trd; (intro y e hy))
    | with_reducible apply Frame.ite
    | split

theorem secWrites_frame (s : State) (op : Nat) (ws : List (Nat × List Byte)) : Frame 262146 s (secWrites s op ws) := by
  unfold secWrites
  try dsimp only
  repeat' first
    | with_reducible assumption
    | with_reducible apply Frame.refl
    | ((with_reducible apply sub_of); exact Eq.refl true)
    | (with_reducible apply Frame.step; with_reducible apply flashQueue_frame)
    | (with_reducible apply Frame.step; with_reducible apply secDone_frame)
    | (with_reducible apply Frame.step; with_reducible apply updSec_frame)
    | (with_reducible apply Frame.thread; (intro y e hy))
    | (with_reducible apply Frame.thread_fst; (intro y e hy))
    | (with_reducible apply Frame.thread_snd; (intro y e hy))
    | (with_reducible apply Frame.thread_trd; (intro y e hy))
    | with_reducible apply Frame.ite
    | split

theorem resumeTile_frame (s : State) (t : Nat) (step : Bool) : Frame 17592186044416 s (resumeTile s t step) := by
  unfold resumeTile
  try dsimp only
  repeat' first
    | with_reducible assumption
    | with_reducible apply Frame.refl
    | ((with_reducible apply sub_of); exact Eq.refl true)
    | (with_reducible apply Frame.step; with_reducible apply updTile_frame)
    | (with_reducible apply Frame.step; with_reducible apply updCtx_frame)
    | with_reducible apply Frame.ite
    | split

theorem resumeCore_frame (s : State) (n : Nat) (step : Bool) : Frame 8388608 s (resumeCore s n step) := by
  unfold resumeCore
  try dsimp only
  repeat' first
    | with_reducible assumption
    | with_reducible apply Frame.refl
    | ((with_reducible apply sub_of); exact Eq.refl true)
    | (with_reducible apply Frame.step; with_reducible apply updCore_frame)
    | with_reducible apply Frame.ite
    | split

end Sys2Proof.Machine
end

