-- ==== Sys2Proof/Laws/PowerFrames.lean ====
section
/-! SUPPORT. What each operation of Machine/Power.lean can do to the state. -/

namespace Sys2Proof.Machine

set_option Elab.async false

theorem thermJudge_frame (s : State) (logic stack : Int) : Frame 524288 s (thermJudge s logic stack) := by
  unfold thermJudge
  try dsimp only
  repeat' first
    | with_reducible assumption
    | with_reducible apply Frame.refl
    | ((with_reducible apply sub_of); exact Eq.refl true)
    | (with_reducible apply Frame.step; with_reducible apply updHv_frame)
    | with_reducible apply Frame.ite
    | split

theorem refreshJudge_frame (s : State) (i : Nat) : Frame 562949953421312 s (refreshJudge s i) := by
  unfold refreshJudge
  try dsimp only
  repeat' first
    | with_reducible assumption
    | with_reducible apply Frame.refl
    | ((with_reducible apply sub_of); exact Eq.refl true)
    | (with_reducible apply Frame.step; with_reducible apply updDram_frame)
    | with_reducible apply Frame.ite
    | split

theorem hotJudge_frame (old s : State) (i : Nat) : Frame 3145730 s (hotJudge old s i) := by
  unfold hotJudge
  try dsimp only
  repeat' first
    | with_reducible assumption
    | with_reducible apply Frame.refl
    | ((with_reducible apply sub_of); exact Eq.refl true)
    | (with_reducible apply Frame.step; with_reducible apply report_frame)
    | (with_reducible apply Frame.step; with_reducible apply evSet_frame)
    | (with_reducible apply Frame.step; with_reducible apply setF_frame)
    | (with_reducible apply Frame.thread; (intro y e hy))
    | (with_reducible apply Frame.thread_fst; (intro y e hy))
    | (with_reducible apply Frame.thread_snd; (intro y e hy))
    | (with_reducible apply Frame.thread_trd; (intro y e hy))
    | with_reducible apply Frame.ite
    | split

theorem thermalTrip_frame (s : State) : Frame 4503599627370494 s (thermalTrip s) := by
  unfold thermalTrip
  try dsimp only
  repeat' first
    | with_reducible assumption
    | with_reducible apply Frame.refl
    | ((with_reducible apply sub_of); exact Eq.refl true)
    | with_reducible apply Nat.le_succ
    | with_reducible apply mwf_wrBytes_imp
    | with_reducible apply mwf_filter_imp
    | with_reducible apply mwf_nil
    | with_reducible apply mwf_mupd_imp
    | with_reducible apply mwf_wrParts_imp
    | (with_reducible apply Frame.step; with_reducible apply deviceReset_frame)
    | (with_reducible apply Frame.step; with_reducible apply updPins_frame)
    | (with_reducible apply Frame.step; with_reducible apply updHv_frame)
    | with_reducible apply Frame.ite
    | split

theorem takeReadings_frame (s : State) (logic stackReads : List Int) : Frame 524288 s (takeReadings s logic stackReads) := by
  unfold takeReadings
  try dsimp only
  repeat' first
    | with_reducible assumption
    | with_reducible apply Frame.refl
    | ((with_reducible apply sub_of); exact Eq.refl true)
    | (with_reducible apply Frame.step; with_reducible apply updHv_frame)
    | with_reducible apply Frame.ite
    | split

theorem endHold_frame (s : State) : Frame 65536 s (endHold s) := by
  unfold endHold
  try dsimp only
  repeat' first
    | with_reducible assumption
    | with_reducible apply Frame.refl
    | ((with_reducible apply sub_of); exact Eq.refl true)
    | (with_reducible apply Frame.step; with_reducible apply updPins_frame)
    | with_reducible apply Frame.ite
    | split

theorem powerOver_frame (s : State) : Frame 4718594 s (powerOver s) := by
  unfold powerOver
  try dsimp only
  try simp only [put_latches_def]
  repeat' first
    | with_reducible assumption
    | with_reducible apply Frame.refl
    | ((with_reducible apply sub_of); exact Eq.refl true)
    | (with_reducible apply Frame.step; with_reducible apply updHv_frame)
    | (with_reducible apply Frame.step; with_reducible apply setF_frame)
    | (with_reducible apply Frame.step; with_reducible apply put_latches_frame)
    | with_reducible apply Frame.ite
    | split

theorem powerJudge_frame (s : State) (p : Nat) : Frame 4751362 s (powerJudge s p) := by
  unfold powerJudge
  try dsimp only
  repeat' first
    | with_reducible assumption
    | with_reducible apply Frame.refl
    | ((with_reducible apply sub_of); exact Eq.refl true)
    | (with_reducible apply Frame.step; with_reducible apply powerOver_frame)
    | (with_reducible apply Frame.step; with_reducible apply updClk_frame)
    | (with_reducible apply Frame.step; with_reducible apply updHv_frame)
    | with_reducible apply Frame.ite
    | split

theorem telRecord_frame (s : State) (code source : Nat) (args : List Nat) : Frame 281475030192002 s (telRecord s code source args) := by
  unfold telRecord
  try dsimp only
  repeat' first
    | with_reducible assumption
    | with_reducible apply Frame.refl
    | ((with_reducible apply sub_of); exact Eq.refl true)
    | with_reducible apply Nat.le_succ
    | with_reducible apply mwf_wrBytes_imp
    | with_reducible apply mwf_filter_imp
    | with_reducible apply mwf_nil
    | with_reducible apply mwf_mupd_imp
    | with_reducible apply mwf_wrParts_imp
    | (with_reducible apply Frame.step; with_reducible apply postEvent_frame)
    | with_reducible apply Frame.ite
    | split

theorem pllLost_frame (s : State) : Frame 19956226 s (pllLost s) := by
  unfold pllLost
  try dsimp only
  repeat' first
    | with_reducible assumption
    | with_reducible apply Frame.refl
    | ((with_reducible apply sub_of); exact Eq.refl true)
    | with_reducible apply mwf_wrBytes_imp
    | with_reducible apply mwf_filter_imp
    | with_reducible apply mwf_nil
    | with_reducible apply mwf_mupd_imp
    | with_reducible apply mwf_wrParts_imp
    | (with_reducible apply Frame.step; with_reducible apply writeLog_frame)
    | (with_reducible apply Frame.step; with_reducible apply updClk_frame)
    | (with_reducible apply Frame.step; with_reducible apply report_frame)
    | (with_reducible apply Frame.step; with_reducible apply cnt_frame)
    | with_reducible apply Frame.ite
    | split

theorem loadBaseline_frame (s : State) (counts : List Nat) : Frame 262146 s (loadBaseline s counts) := by
  unfold loadBaseline
  try dsimp only
  repeat' first
    | with_reducible assumption
    | with_reducible apply Frame.refl
    | ((with_reducible apply sub_of); exact Eq.refl true)
    | (with_reducible apply Frame.step; with_reducible apply logQueue_frame)
    | (with_reducible apply Frame.step; with_reducible apply setF_frame)
    | (with_reducible apply Frame.thread; (intro y e hy))
    | (with_reducible apply Frame.thread_fst; (intro y e hy))
    | (with_reducible apply Frame.thread_snd; (intro y e hy))
    | (with_reducible apply Frame.thread_trd; (intro y e hy))
    | with_reducible apply Frame.ite
    | split

end Sys2Proof.Machine
end

