-- ==== Sys2Proof/Laws/TickFrames.lean ====
section
/-! SUPPORT. What each operation of Machine/Tick.lean can do to the state. -/

namespace Sys2Proof.Machine

set_option Elab.async false

theorem tbCycle_frame (s : State) : Frame 32768 s (tbCycle s) := by
  unfold tbCycle
  try dsimp only
  repeat' first
    | with_reducible assumption
    | with_reducible apply Frame.refl
    | ((with_reducible apply sub_of); exact Eq.refl true)
    | (with_reducible apply Frame.step; with_reducible apply updClk_frame)
    | with_reducible apply Frame.ite
    | split

theorem tickTile_frame (n : Nat) (s : State) (t : Nat) : Frame 8589934594 s (tickTile n s t) := by
  unfold tickTile
  try dsimp only
  repeat' first
    | with_reducible assumption
    | with_reducible apply Frame.refl
    | ((with_reducible apply sub_of); exact Eq.refl true)
    | (with_reducible apply Frame.step; with_reducible apply updJob_frame)
    | (with_reducible apply Frame.step; with_reducible apply cntT_frame)
    | with_reducible apply Frame.ite
    | split

theorem tickEngine_frame (n : Nat) (s : State) (b : Nat) : Frame 8589934594 s (tickEngine n s b) := by
  unfold tickEngine
  try dsimp only
  repeat' first
    | with_reducible assumption
    | with_reducible apply Frame.refl
    | ((with_reducible apply sub_of); exact Eq.refl true)
    | (with_reducible apply Frame.step; with_reducible apply updJob_frame)
    | (with_reducible apply Frame.step; with_reducible apply addF_frame)
    | with_reducible apply Frame.ite
    | split

theorem tickCore_frame (s : State) (c : Nat) : Frame 2 s (tickCore s c) := by
  unfold tickCore
  try dsimp only
  repeat' first
    | with_reducible assumption
    | with_reducible apply Frame.refl
    | ((with_reducible apply sub_of); exact Eq.refl true)
    | (with_reducible apply Frame.step; with_reducible apply addF_frame)
    | with_reducible apply Frame.ite
    | split

theorem tickIf_frame (p : State → Bool) (f : Fld) (s : State) : Frame 2 s (tickIf p f s) := by
  unfold tickIf
  try dsimp only
  repeat' first
    | with_reducible assumption
    | with_reducible apply Frame.refl
    | ((with_reducible apply sub_of); exact Eq.refl true)
    | (with_reducible apply Frame.step; with_reducible apply cnt_frame)
    | with_reducible apply Frame.ite
    | split

theorem tickStream_frame (s : State) (e : Nat) : Frame 2 s (tickStream s e) := by
  unfold tickStream
  try dsimp only
  repeat' first
    | with_reducible assumption
    | with_reducible apply Frame.refl
    | ((with_reducible apply sub_of); exact Eq.refl true)
    | (with_reducible apply Frame.step; with_reducible apply addF_frame)
    | with_reducible apply Frame.ite
    | split

theorem refill_frame (s : State) : Frame 140737488355328 s (refill s) := by
  unfold refill
  try dsimp only
  try simp only [put_bwTokens_def]
  repeat' first
    | with_reducible assumption
    | with_reducible apply Frame.refl
    | ((with_reducible apply sub_of); exact Eq.refl true)
    | (with_reducible apply Frame.step; with_reducible apply put_bwTokens_frame)
    | (with_reducible apply Frame.foldl; (intro y e hy))
    | (with_reducible apply Frame.foldl_fst; (intro y e hy))
    | (with_reducible apply Frame.foldl_snd; (intro y e hy))
    | with_reducible apply Frame.ite
    | split

theorem tickFeed_frame (s : State) (x : Nat) : Frame 2 s (tickFeed s x) := by
  unfold tickFeed
  try dsimp only
  repeat' first
    | with_reducible assumption
    | with_reducible apply Frame.refl
    | ((with_reducible apply sub_of); exact Eq.refl true)
    | (with_reducible apply Frame.step; with_reducible apply addF_frame)
    | with_reducible apply Frame.ite
    | split

theorem tickCompute_frame (s : State) (n : Nat) : Frame 140746078289922 s (tickCompute s n) := by
  unfold tickCompute
  try dsimp only
  repeat' first
    | with_reducible assumption
    | with_reducible apply Frame.refl
    | ((with_reducible apply sub_of); exact Eq.refl true)
    | (with_reducible apply Frame.step; with_reducible apply tickEngine_frame)
    | (with_reducible apply Frame.step; with_reducible apply tickStream_frame)
    | (with_reducible apply Frame.step; with_reducible apply tickCore_frame)
    | (with_reducible apply Frame.step; with_reducible apply tickTile_frame)
    | (with_reducible apply Frame.step; with_reducible apply refill_frame)
    | (with_reducible apply Frame.step; with_reducible apply tickIf_frame)
    | (with_reducible apply Frame.thread; (intro y e hy))
    | (with_reducible apply Frame.thread_fst; (intro y e hy))
    | (with_reducible apply Frame.thread_snd; (intro y e hy))
    | (with_reducible apply Frame.thread_trd; (intro y e hy))
    | with_reducible apply Frame.ite
    | split

theorem tickOuter_frame (s : State) : Frame 3749866345074562 s (tickOuter s) := by
  unfold tickOuter
  try dsimp only
  repeat' first
    | with_reducible assumption
    | with_reducible apply Frame.refl
    | ((with_reducible apply sub_of); exact Eq.refl true)
    | with_reducible apply Nat.le_succ
    | with_reducible apply mwf_wrBytes_imp
    | with_reducible apply mwf_filter_imp
    | with_reducible apply mwf_nil
    | with_reducible apply mwf_mupd_imp
    | with_reducible apply mwf_wrParts_imp
    | (with_reducible apply Frame.step; with_reducible apply cachePass_frame)
    | (with_reducible apply Frame.step; with_reducible apply tickFeed_frame)
    | (with_reducible apply Frame.step; with_reducible apply tickIf_frame)
    | (with_reducible apply Frame.thread; (intro y e hy))
    | (with_reducible apply Frame.thread_fst; (intro y e hy))
    | (with_reducible apply Frame.thread_snd; (intro y e hy))
    | (with_reducible apply Frame.thread_trd; (intro y e hy))
    | with_reducible apply Frame.ite
    | split

theorem tick_frame (s : State) : Frame 3896651147415426 s (tick s) := by
  unfold tick
  try dsimp only
  repeat' first
    | with_reducible assumption
    | with_reducible apply Frame.refl
    | ((with_reducible apply sub_of); exact Eq.refl true)
    | with_reducible apply Nat.le_succ
    | with_reducible apply mwf_wrBytes_imp
    | with_reducible apply mwf_filter_imp
    | with_reducible apply mwf_nil
    | with_reducible apply mwf_mupd_imp
    | with_reducible apply mwf_wrParts_imp
    | (with_reducible apply Frame.step; with_reducible apply tickCompute_frame)
    | (with_reducible apply Frame.step; with_reducible apply filterCycle_frame)
    | (with_reducible apply Frame.step; with_reducible apply tickOuter_frame)
    | (with_reducible apply Frame.step; with_reducible apply tickCore_frame)
    | (with_reducible apply Frame.step; with_reducible apply tbCycle_frame)
    | (with_reducible apply Frame.step; with_reducible apply updClk_frame)
    | (with_reducible apply Frame.thread; (intro y e hy))
    | (with_reducible apply Frame.thread_fst; (intro y e hy))
    | (with_reducible apply Frame.thread_snd; (intro y e hy))
    | (with_reducible apply Frame.thread_trd; (intro y e hy))
    | with_reducible apply Frame.ite
    | split

end Sys2Proof.Machine
end

