-- ==== Sys2Proof/WellFormed.lean ====
section
/-! DEFINITION. Which commands are well formed: operands whose types are wider than what they stand for lie in the range that the
manual gives. The machine gives every command a meaning, the ill-formed too; a sender sends well-formed ones. -/

namespace Sys2Proof

/-- No value occurs twice. -/
def distinct {α : Type} [DecidableEq α] : List α → Bool
  | [] => true
  | x :: xs => !xs.contains x && distinct xs

/-- Values of a list lie between two bounds. -/
def intsIn (lo hi : Int) (l : List Int) : Bool := l.all fun v => lo ≤ v && v ≤ hi

/-! ### Packets (R62, R66, R70) -/

/-- A pixel format: 8, 10, 12, 14 or 16 bits, and a Bayer code of three bits (R99). -/
def PixFmt.wf (f : PixFmt) : Bool := [8, 10, 12, 14, 16].contains f.bits && decide (f.bayer < 8)

/-- The packet id has at most 32 bits, and packet 0 is the leader's (R66). -/
def GvspBody.wf : GvspBody → Bool
  | .leader fmt width height => fmt.wf && decide (width < 2 ^ 32) && decide (height < 2 ^ 32)
  | .payload k _ => decide (1 ≤ k) && decide (k < 2 ^ 32)
  | .trailer packetId lines => decide (packetId < 2 ^ 32) && decide (lines < 2 ^ 32)
  | .unknown => true

/-- The block id has at most 64 bits (R66). -/
def Gvsp.wf (g : Gvsp) : Bool := decide (g.blockId < 2 ^ 64) && g.body.wf

def EthBody.wf : EthBody → Bool
  | .udp _ _ _ _ _ g => g.wf
  | _ => true

/-- The length counts the content and the four bytes of the FCS. -/
def EthFrame.wf (f : EthFrame) : Bool := decide (f.len = f.content.length + 4) && f.body.wf

/-- A packet tag has 8 bits. -/
def CxpPacket.wf (c : CxpPacket) : Bool :=
  decide (c.tag < 256) && match c.body with
    | .imageStart fmt => fmt.wf
    | _ => true

/-! ### Plan images (R34, R35, R235, R248, R273, R277, R281) -/

/-- An index below 512, a kind of R34, a duration of 1 µs to 10 ms or more as its field allows, units that exist, and batch limits of
R34. -/
def Template.wf (t : Template) : Bool :=
  decide (t.index < 512) && decide (1 ≤ t.kind) && decide (t.kind ≤ 4) && decide (t.d < 2 ^ 32) && distinct t.units &&
  (t.units.all fun u => decide (u < 256)) && (t.deps.all fun d => decide (d.template < 512)) &&
  (t.halo.all fun d => decide (d.template < 512)) && (t.stats.all fun d => decide (d.template < 512)) &&
  (t.priv.all fun p => decide (128 ≤ p.handle) && decide (p.handle < 144) && decide (p.bank < 32)) &&
  (t.queues.all fun q => decide (q.1 < 4096)) && (t.kind ≠ 3 || (decide (1 ≤ t.batchSize) && decide (t.batchSize ≤ 256)))

def PlanImage.wf (p : PlanImage) : Bool :=
  distinct (p.templates.map (·.index)) && (p.templates.all Template.wf) && decide (p.experts ≤ 256) &&
  decide (p.tilesNeeded ≤ 256) && decide (p.objects.length ≤ 16384) &&
  (p.objects.all fun o => decide (o.1 < 4) && decide (o.2 < 2 ^ 64)) &&
  (p.buffers.all fun b => decide (b.tile < 256) && decide (b.handle < 128) && decide (b.bank < 4)) &&
  (p.areas.all fun a => decide (a.tile < 256) && decide (a.ctx < 8) && decide (a.bank < 4)) &&
  (p.queues.all fun q => decide (q.length = 32)) && (p.shapes.all fun r => decide (r.length = 32)) &&
  (p.ops.all fun o => decide (o.1.length = 16) && decide (o.2 ≤ 64))

/-! ### Reports (R450) -/

/-- The fields of a report have the widths of the error log. -/
def Report.wf (r : Report) : Bool :=
  decide (r.cause < 256) && decide (r.unit < 2 ^ 16) && decide (r.loc < 2 ^ 64) && decide (r.aux < 2 ^ 16)

/-- The core, ring, stream or port of a reader exists. -/
def HostReader.wf : HostReader → Bool
  | .core n => decide (n < 8)
  | .planLoad r => decide (r < 2097152)
  | .hostFeed x => decide (x < 256)
  | .transmit p => decide (p < 32)

/-- A device address in the scratchpad of a tile (R268). -/
def inScratchpad (t a : Nat) : Bool := decide (0x1000000000 + t * 0x200000 ≤ a) && decide (a < 0x1000000000 + (t + 1) * 0x200000)

/-! ### Commands -/

/-- A command is well formed. -/
def Instr.wf : Instr → Bool
  | .registerWrite _ off size _ | .registerReadClear _ off size =>
    decide (1 ≤ size) && decide (size ≤ 4096) && decide (off + size ≤ 2 ^ 26)
  | .lowHalfRead _ off => decide (off % 8 = 0) && decide (off < 2 ^ 26)
  | .doorbell off size _ => decide (1 ≤ size) && decide (size ≤ 4096) && decide (off + size ≤ 2 ^ 24)
  | .bar4Read off len bar2 => decide (1 ≤ len) && decide (len ≤ 4096) && decide (off + len ≤ 2 ^ (if bar2 then 24 else 36))
  | .bar4Write off bytes _ _ => decide (1 ≤ bytes.length) && decide (bytes.length ≤ 4096) && decide (off + bytes.length ≤ 2 ^ 36)
  | .ethernetFrameRx _ f => f.wf
  | .resendDeadline _ id k => decide (id < 2 ^ 64) && decide (k < 2 ^ 32)
  | .cxpPacketRx _ c => c.wf
  | .tableParityError _ column => decide (column < 65536)
  | .jobDispatch _ contexts => distinct contexts
  | .mxBlockComplete _ fault => fault.all fun f => decide (f.chan < 64) && decide (f.pos < 32)
  | .icacheFill _ line _ => decide (line < 2 ^ 41)
  | .scalarLoad t _ upset | .vld t _ upset | .vgather t _ upset => distinct upset && upset.all (inScratchpad t.val)
  | .driftCompute _ op => decide (1 ≤ op) && decide (op < 4096)
  | .dramWrite addr bytes _ _ => decide (1 ≤ bytes.length) && decide (addr.toNat % 64 + bytes.length ≤ 64)
  | .cplTimeout tag reader => decide (tag < 2 ^ 14) && reader.all (·.wf)
  | .descriptorBurstCheck errs => distinct errs && errs.all fun i => decide (i < 32)
  | .planLoad _ _ image => image.wf
  | .faultReport r => r.all (·.wf)
  | .thaw failing => distinct failing
  | .stageS0 _ _ _ lockUs => decide (lockUs ≤ 10000)
  | .stageS3 n => decide (n ≤ 256)
  | .stageS4 rows spares => (rows.all fun r => decide (r.2.2 < 12288)) && distinct rows && distinct spares
  | .stageS5 failed _ | .stageS6 failed _ => distinct failed
  | .stageS7 checks => (checks.all fun c => decide (c.1 < 256)) && distinct (checks.map (·.1))
  | .thermalSample logic stackReads =>
    decide (logic.length = 64) && decide (stackReads.length = 32) && intsIn (-128) 127 logic && intsIn (-128) 127 stackReads
  | .powerSample w => decide (w < 65536)
  | .railSample _ mv => decide (mv < 65536)
  | .wearSample counts => decide (counts.length = 288) && counts.all fun v => decide (v < 2 ^ 32)
  | .aclkStepChange _ | .gcEnableWrite _ | .aclkForceStep _ | .pllLockLoss | .portEnable _ _ | .resendWaitExpiry _
  | .cxpSkewTimeout _ | .cxpTriggerPacket _ | .portTransmit _ | .portTransmitComplete _ | .linkDown _ | .linkUp _
  | .streamIdle _ | .ingestTakePacket _ | .stripeAnnounce _ | .hostFeedResume _ | .ingestEnable _ | .bApplied _
  | .harvestSnapshot _ | .beEnable _ _ | .tableLoad _ _ | .tableLoadComplete _ | .tableSwapRequest _ | .tableSwap _
  | .encoderEnable _ _ | .encoderCount _ _ _ | .speedWindow _ | .stripStop _ | .eosStopTimeout _ | .generalInputEdge _ _
  | .triggerEnable _ _ | .triggerFire _ | .triggerTimer _ | .triggerPulseStart _ | .triggerPulseEnd _ | .timeStep _
  | .timeAdjust _ | .jobFirstIssue _ | .taskSelect _ | .jobRetire _ | .jobAbort _ _ | .jobDiscardComplete _
  | .jobCancelDrained _ | .jobOverrun _ | .waitTimeout _ | .storeBufferCommit _ | .scalarAlu _ _ | .vtake _ _ | .vform _ _
  | .predicateLogic _ _ | .addressOp _ _ | .li _ _ | .vectorInteger _ _ | .vectorCompare _ _ | .vperm _ _ | .vcvt _ _
  | .vectorFloat _ _ | .vectorReduction _ _ | .vfredsum _ _ | .vbexp _ _ | .scalarStore _ _ | .vst _ _ | .vscatter _ _
  | .ist _ _ | .br _ _ | .call _ _ | .jr _ _ | .rpt _ _ _ | .sywait _ _ | .syadd _ _ | .hqpush _ _ | .hqpop _ _
  | .hqrel _ _ | .emit _ _ | .mxRun _ _ | .mxCbload _ _ | .mxSignal _ _ | .mxfence _ _ | .isync _ _ | .done _ _
  | .taskFaultHandler _ _ | .debugHalt _ | .mxBlockStart _ | .mxCbloadComplete _ | .mxSignalAdd _
  | .residueInject _ | .fillComplete _ _ _ | .seCtxArm _ _ _ | .seBatchFetch _ _ | .seDescStart _ _ | .seReadIssue _
  | .seReadReturn _ _ _ _ _ | .seDescComplete _ _ | .pacingUpdate _ _ | .seCancel _ _ | .seResume _ _ | .dramRead _ _
  | .scrubRead _ _ _ | .refresh _ | .mapCommit | .crcInject _ | .unexpectedCompletion | .msixUnmask _
  | .conventionalReset _ | .functionLevelReset | .hotReset | .busMasterDisable | .d3hot | .ringEnable _ _ | .ringDisable _
  | .qmEnable _ | .descriptorFetch | .nop _ | .planUnload _ | .streamBind _ | .streamUnbind _ | .streamFlush _ | .hostFeed _
  | .jobSubmit _ | .jobCancel _ | .syncWait _ | .syncAdd _ | .query _ | .streamResume _ | .resultRecordWrite _
  | .coalesceTimer _ | .tokenSend _ | .resultSend _ | .tokenReceive _ | .resultReceive _ | .nackReceive _
  | .creditBlockReceive _ | .creditBlockSend _ | .batchTimeout _ | .tokenRetry _ _ | .tokenTimeout _ _ | .epochAdvance _
  | .eventSet _ | .eventClear _ | .eventRoute | .handlerEntry _ | .eclClaim _ _ | .evdone _ _ | .rti _ | .wfe _
  | .asyncEdgeLatch _ | .latchApply | .coreArithmetic _ _ _ _ _ | .coreBranch _ _ | .push _ _ | .pop _ _ _
  | .coreLoad _ _ _ _ _ _ _ | .coreStore _ _ _ _ | .coreStoreCommit _ _ | .bitVariable _ _ _ _ | .btas _ _ _
  | .mfsrMtsr _ _ _ _ | .trapBrk _ _ _ | .fence _ | .fenceI _ | .frost | .settleExpiry | .devReset | .devDelayExpiry
  | .retryTbl _ | .fmLogAck _ | .stageS1 _ _ _ _ _ _ | .stageS2 _ _ _ _ | .stageS8 | .licApply _ | .licStore _ | .licClear
  | .attest | .certRead | .debugUnlock _ | .bootGo _ | .slotWrite _ | .flashWrite _ | .thermalHysteresisExpiry
  | .thermalTripRelease | .brownOut _ | .brownOutRelease | .refclkLoss _ | .telemetry | .serdesCalibration _
  | .sensorTrim _ | .debugReset | .debugCoreHalt _ | .debugResume _ _ _ | .busMasterEnable _ | .returnToD0
  | .pcieLinkUp _ _ _ _ | .linkError _ _ => true

end Sys2Proof
end

