-- ==== Sys2Proof/Tests/Slice0.lean ====
section
/-! SUPPORT. Tests. For each statement about the machine a theorem shows, clause by clause, states and operands that meet its
hypotheses, and what the command does there. Values come from the manual or are computed from it by hand. -/

namespace Sys2Proof.Tests

set_option Elab.async false

open Sys2Proof Sys2Proof.Machine

/-- The state a command answers. -/
def after : Out → State
  | .next t => t
  | _ => State.reset

/-- The command was refused its address. -/
def outside : Out → Bool
  | .fault .noSuchAddress => true
  | _ => false

/-- A command runs. -/
def ran (c : Instr) (s : State) : State := after (exec c s)

/-- The device at S8, its link trained and the function enabled. -/
def up : State :=
  { State.reset with
    boot := { Boot.start with stage := 8, linkDone := true, s7Done := true }
    pins := { Pins.reset with fclkRuns := true, resetOutLow := false }
    hl := { HostLink.zero with bme := true, mse := true, msixEn := true, up := true }
    clk := { Clocks.zero with pllLocked := true } }

/-- A field that has neither channel nor index is set. -/
def put (s : State) (f : Fld) (v : Nat) : State := setF s f 0 0 v

/-- The time base stands at `n` ns. -/
def atNs (s : State) (n : Nat) : State := { s with clk := { s.clk with tb := n * 2 ^ 28 } }

/-- Fields that have one selection are set. -/
def sets (s : State) (l : List (Fld × Nat × Nat × Nat)) : State := l.foldl (fun t e => setF t e.1 e.2.1 e.2.2.1 e.2.2.2) s

/-- A command of ring 1, with its plan, its template and its arguments. -/
def dsc (op p tm : Nat) (args : List Nat) : Desc :=
  { ring := 1, seq := 7, words := (([op + p * 2 ^ 32 + tm * 2 ^ 40, 0x99] ++ args ++ List.replicate 6 0).take 8).map (BitVec.ofNat 64), poison := false, started := false,
    reserved := false, cplRing := 2 }

/-- Submit ring 1, completion ring 2, result ring 3 and event ring 4, all in the host window; the queue manager is enabled. -/
def rg : State :=
  sets up
    [(Reg.QM_CTL_EN, 0, 0, 1), (Reg.HL_HOST_WIN_SIZE, 0, 0, 0x100000),
     (Reg.QM_RING_CFG_EN, 1, 0, 1), (Reg.QM_RING_BASE, 1, 0, 0x3000000000), (Reg.QM_RING_WB, 1, 0, 0x30000F0000),
     (Reg.QM_RING_PAIR_CPL_RING, 1, 0, 2),
     (Reg.QM_RING_CFG_EN, 2, 0, 1), (Reg.QM_RING_CFG_KIND, 2, 0, 1), (Reg.QM_RING_BASE, 2, 0, 0x3000010000),
     (Reg.QM_RING_WB, 2, 0, 0x30000F0040),
     (Reg.QM_RING_CFG_EN, 3, 0, 1), (Reg.QM_RING_CFG_KIND, 3, 0, 2), (Reg.QM_RING_BASE, 3, 0, 0x3000020000),
     (Reg.QM_RING_WB, 3, 0, 0x30000F0080),
     (Reg.QM_RING_CFG_EN, 4, 0, 1), (Reg.QM_RING_CFG_KIND, 4, 0, 3), (Reg.QM_RING_BASE, 4, 0, 0x3000030000),
     (Reg.QM_RING_WB, 4, 0, 0x30000F00C0)]

/-- With one command in the buffer. -/
def withDesc (d : Desc) (s : State) : State := { s with descs := [d] }

/-- A template of nothing but its index and kind. -/
def tmpl (index kind : Nat) : Template :=
  { index := index, kind := kind, units := [0], engine := .tiles, d := 1000, solstice := false, entry := 0, resident := none,
    residentImage := [], deps := [], halo := [], stats := [], raw := [], priv := [], transfers := [], attemptObjs := 0, objArg := 0,
    queues := [], bandRows := 1, bandSegs := 1, emits := false, batchSize := 2, batchUs := 10,
    shapes := [], sizeArgs := none, handles := [] }

/-- A loaded plan of some templates. -/
def planOf (ts : List Template) : Plan :=
  { Plan.none with loaded := true, base := 0x100000, image := { Plan.none.image with templates := ts } }

/-! ### The machine as a whole, registers, clocks -/

theorem test_queue_is_fifo :
    (let s := { up with pending := [.eventSet 5, .eventClear 5] }
     (after (step s)).pending = [.eventClear 5] ∧ source (after (step s)) 5 = .pending ∧
       source (after (step (after (step s)))) 5 = .idle) ∧
    (let s := { up with pending := [] }
     (after (step s)).clk.fclk = 1 ∧ (after (step s)).pending = []) := by decide +kernel

theorem test_dram_bounds :
    (outside (exec (.dramRead 0xC00000000 .clean) up) = true) ∧
    (outside (exec (.dramRead 0xBFFFFFFC0 .clean) up) = false) := by decide +kernel

theorem test_memories_canonical :
    (MemOk up) ∧
    (MemOk (ran (.dramWrite 0x40 [1, 0, 2] false .clean) up)) := by
  unfold MemOk; decide +kernel

theorem witness_register_accesses :
    (let s := up
     reached s .host = true ∧ answers s 0x20 = true ∧
       getF (ran (.registerWrite .host 0x20 8 0xFFFFFFFFFFFFFFFF) s) Reg.GC_SCRATCH 0 0 = 0xFFFFFFFFFFFFFFFF) ∧
    (let s := up
     answers s 0x20 = true ∧ 0x20 / 0x80000 ≠ 5 ∧ secLocked s 0x20 = false ∧ ((fieldsAt 0x20).all fun p => !p.1.own) = true ∧
       (Reg.GC_SCRATCH, 0) ∈ fieldsAt 0x20 ∧ Reg.GC_SCRATCH.acc = .rw ∧ Reg.GC_SCRATCH.fix = .id ∧ chanIx s 0 Reg.GC_SCRATCH = some 0) ∧
    (let s := up
     reached s .host = true ∧ answers s 0x500010 = true ∧ source (ran (.registerWrite .host 0x500010 8 77) s) 77 = .pending) ∧
    (let s := up
     is64 0x20 = true ∧ mget 0 (ran (.registerWrite .host 0x20 4 9) s).heldLow (halfKey 0 0x20) = 10 ∧
       getF (ran (.registerWrite .host 0x20 4 9) s) Reg.GC_SCRATCH 0 0 = 0) ∧
    (let s := put up Reg.HL_CNT_CFG_LOCKED 7
     reached s (.core 3) = true ∧ answers s 0x1100200 = true ∧
       (ran (.registerReadClear (.core 3) 0x1100200 8) s).readData = [7, 0, 0, 0, 0, 0, 0, 0] ∧
       getF (ran (.registerReadClear (.core 3) 0x1100200 8) s) Reg.HL_CNT_CFG_LOCKED 0 0 = 0) ∧
    (let s := atNs up (5 * 2 ^ 32 + 9)
     reached s .host = true ∧ answers s 0xB00A00 = true ∧ (ran (.lowHalfRead .host 0xB00A00) s).readData = [9, 0, 0, 0] ∧
       (ran (.registerReadClear .host 0xB00A04 4) (ran (.lowHalfRead .host 0xB00A00) s)).readData = [5, 0, 0, 0]) ∧
    (let s := up
     reached s .host = true ∧ okAccess 0x21 4 = false ∧ getF (ran (.registerWrite .host 0x21 4 1) s) Reg.HL_REG_ERR_BAD_ACCESS 0 0 = 1 ∧
       Counted Reg.HL_CNT_BAD_ACCESS 0 0 1 s (ran (.registerWrite .host 0x21 4 1) s)) ∧
    (let s := put up Reg.QM_SEL_RING 1
     reached s .host = true ∧ answers s 0x601008 = true ∧ windowShut s 0 0x601008 8 = false ∧
       (ring (ran (.registerReadClear .host 0x601008 8) s) 1).cached = 1) ∧
    (let s := put up Reg.QM_SEL_RING 1
     windowShut s 0 0x601008 4 = false ∧ is64 0x601008 = true ∧ secLocked s 0x601008 = false ∧
       (ring (ran (.registerWrite .host 0x601008 3 0) s) 1).cached = 0 ∧ (ring (ran (.registerWrite .host 0x601008 4 0) s) 1).cached = 1) ∧
    (let s := up
     reached s .host = true ∧ answers s 0x1100010 = true ∧ busMaster s = true ∧
       (0x5000 : Word).toNat / 4096 * 4096 ≠ getF s Reg.HL_HOST_WIN_BASE 0 0 ∧
       getF (ran (.registerWrite .host 0x1100010 8 0x5000) s) Reg.HL_REG_ERR_CFG_LOCKED 0 0 = 1 ∧
       getF (ran (.registerWrite .host 0x1100010 8 0x5000) s) Reg.HL_HOST_WIN_BASE 0 0 = 0) := by
  unfold Counted; decide +kernel

/-- Contexts of 65,536 rings are cached and each is pinned by a record that waits. -/
def pinnedRings : SMap Ring := (List.range 65536).map fun i => (i, { Ring.zero with cached := 1, waiting := [[]] })

def allPinned : State :=
  { setF (put up Reg.QM_SEL_RING 70000) Reg.QM_SEL_RING 5 0 70000 with
    cores := [(4, { Core.zero with run := .running, sb := [{ addr := 0x8001000000601008, bytes := [1, 0, 0, 0, 0, 0, 0, 0] }] })]
    rings := pinnedRings }

theorem allPinned_rings : allPinned.rings = pinnedRings := by
  delta allPinned
  with_reducible rfl

theorem mget_past {β : Type} (d : β) (f : Nat → β) (k : Nat) :
    ∀ l : List Nat, (∀ i ∈ l, i ≠ k) → mget d (l.map fun i => (i, f i)) k = d := by
  intro l
  induction l with
  | nil => intro _; rfl
  | cons a t ih =>
    intro h
    have ha : a ≠ k := h a (List.mem_cons_self ..)
    have ht := ih fun i hi => h i (List.mem_cons_of_mem _ hi)
    simp only [List.map_cons, mget]
    split
    · contradiction
    · exact ht

theorem mem_pinnedRings {e : Nat × Ring} (h : e ∈ pinnedRings) : e.2 = { Ring.zero with cached := 1, waiting := [[]] } := by
  obtain ⟨i, -, rfl⟩ := List.mem_map.1 h
  rfl

theorem full_cache_waits (s : State) (h : s.rings = pinnedRings) : ringAble s 70000 = false := by
  have h0 : (ring s 70000).cached = 0 := by
    unfold ring
    rw [h]
    unfold pinnedRings
    rw [mget_past Ring.zero (fun _ => { Ring.zero with cached := 1, waiting := [[]] })]
    · rfl
    · intro i hi
      have := List.mem_range.1 hi
      omega
  have h1 : ringVictim s = none := by
    unfold ringVictim
    rw [h, List.filter_eq_nil_iff.2]
    · rfl
    · intro e he
      rw [mem_pinnedRings he]
      simp [ringPinned]
  have h2 : (s.rings.filter fun e => e.2.cached ≠ 0) = s.rings := by
    rw [h]
    refine List.filter_eq_self.2 fun e he => ?_
    rw [mem_pinnedRings he]
    rfl
  have h3 : pinnedRings.length = 65536 := by
    unfold pinnedRings
    rw [List.length_map, List.length_range]
  unfold ringAble
  rw [h0, h1, h2, h, h3]
  rfl

/-- The window of a ring waits where the ring's context does. -/
theorem full_window_waits (s : State) (q : Nat) (h : s.rings = pinnedRings) (hq : getF s Reg.QM_SEL_RING q 0 = 70000)
    (hw : inQmWindow s 0x601008 8 = true) : windowShut s q 0x601008 8 = true := by
  unfold windowShut
  rw [hq, full_cache_waits s h, hw]
  rfl

/-- A ring whose context cannot be loaded. -/
theorem witness_context_waits :
    ringAble allPinned 70000 = false ∧ windowShut allPinned 0 0x601008 8 = true ∧ windowShut allPinned 5 0x601008 8 = true ∧
      reached allPinned .host = true ∧ answers allPinned 0x601000 = true ∧ ready allPinned = true ∧ hostThere allPinned = true ∧
      allPinned.hl.d3 = false ∧ 560000 < 2 ^ 24 ∧ 560000 % 8 = 0 ∧ 560000 / 8 = 70000 ∧
      coreMem allPinned 0x8001000000601008 = .reg 0x601008 :=
  ⟨full_cache_waits allPinned allPinned_rings, full_window_waits allPinned 0 allPinned_rings (by decide +kernel) (by decide +kernel),
    full_window_waits allPinned 5 allPinned_rings (by decide +kernel) (by decide +kernel), by decide +kernel, by decide +kernel, by decide +kernel,
    by decide +kernel, by decide +kernel, by decide, by decide, by decide, by decide +kernel⟩

theorem witness_debug_scopes :
    (let s := { up with sec := { up.sec with scopes := 1 } }
     (ran (.conventionalReset false) s).sec.scopes ≠ s.sec.scopes ∧ (ran (.conventionalReset false) s).sec.scopes = 0) := by decide +kernel

theorem witness_unit_enables :
    (let s := up
     answers s 0x18 = true ∧ getF (ran (.gcEnableWrite 0x7FE) s) Reg.GC_ENABLE_SP 0 0 = 0 ∧
       getF (ran (.gcEnableWrite 0x7FE) s) Reg.GC_ENABLE_HV 0 0 = 1) ∧
    (let s := setF up Reg.SP_PORT_CTL_EN 3 0 1
     answers s 0xA01000 = true ∧ (0 : BitVec 32).getLsbD 0 = false ∧ getF (ran (.portEnable 3 0) s) Reg.SP_PORT_CTL_EN 3 0 = 0) ∧
    (let s := up
     answers s 0xA01000 = true ∧ (3 : BitVec 32).getLsbD 0 = true ∧ getF s Reg.SP_PORT_CTL_EN 31 0 = 0 ∧
       groupOk (storeOthers s 0xA01000 31 0 3) 31 = true ∧ getF (ran (.portEnable 31 3) s) Reg.SP_PORT_CTL_EN 31 0 = 1) ∧
    (let s := up
     (5 : BitVec 32).getLsbD 0 = true ∧ getF s Reg.SP_PORT_CTL_EN 4 0 = 0 ∧ leadOf (storeOthers s 0xA01000 4 0 5) 4 = 4 ∧
       groupOk (storeOthers s 0xA01000 4 0 5) 4 = false ∧
       getF (ran (.portEnable 4 5) s) Reg.SP_LINK_STAT_CFG_ERR 4 0 = 1 ∧ getF (ran (.portEnable 4 5) s) Reg.SP_PORT_CTL_EN 4 0 = 0) ∧
    (let s := up
     (5 : BitVec 32).getLsbD 0 = true ∧ leadOf (storeOthers s 0xA01000 1 0 5) 1 = 0 ∧
       getF (ran (.portEnable 1 5) s) Reg.SP_LINK_STAT_CFG_ERR 1 0 = 0 ∧ getF (ran (.portEnable 1 5) s) Reg.SP_PORT_CTL_EN 1 0 = 0) ∧
    (let s := up
     answers s 0xD01000 = true ∧ getF (ran (.beEnable 4 0) s) Reg.BE_CTL_EN 4 0 = 0) ∧
    (let s := up
     (1 : BitVec 32).getLsbD 0 = true ∧ getF s Reg.BE_CTL_EN 4 0 = 0 ∧ (∀ c : Fin 32, c ≠ 4 → getF s Reg.BE_CTL_EN c.val 0 = 0) ∧
       getF (ran (.beEnable 4 1) s) Reg.BE_CTL_EN 4 0 = 1) ∧
    (let s := setF up Reg.BE_CTL_EN 5 0 1
     getF s Reg.BE_CTL_EN 4 0 = 0 ∧ (∃ c : Fin 32, c ≠ 4 ∧ getF s Reg.BE_CTL_EN c.val 0 = 1 ∧
        getF s Reg.BE_CTL_STREAM c.val 0 = getF (storeOthers s 0xD01000 4 0 1) Reg.BE_CTL_STREAM 4 0) ∧
       getF (ran (.beEnable 4 1) s) Reg.BE_CTL_CFG_ERR 4 0 = 1 ∧ getF (ran (.beEnable 4 1) s) Reg.BE_CTL_EN 4 0 = 0) := by decide +kernel

theorem witness_clock_commands :
    (let s := up
     answers s 0x100040 = true ∧ s.clk.stepTo = none ∧ getF (ran (.aclkForceStep 3) s) Reg.CK_ACLK_CTL_FORCE_STEP 0 0 = 2 ∧
       (ran (.aclkForceStep 3) s).clk.stepTo = some 2) ∧
    (let s := { up with clk := { up.clk with stepTo := some 2 } }
     s.clk.stepTo = some 2 ∧ (ran (.aclkStepChange 300) s).clk.step = 2 ∧
       getF (ran (.aclkStepChange 300) s) Reg.CK_ACLK_CTL_SWITCH_LAT 0 0 = 255 ∧ (ran (.aclkStepChange 300) s).latches = 0x8000) ∧
    (let s := up
     ready s = true ∧ (ran .pllLockLoss s).clk.pllLocked = false ∧ ((ran .pllLockLoss s).fm.intake.map fun w => w.rep.cause) = [0x4D]) ∧
    (let s := State.reset
     ready s = false ∧ s.boot.stage = 0 ∧ (ran .pllLockLoss s).clk.pllLocked = false ∧ unread (ran .pllLockLoss s) = 0) ∧
    (let s := { up with boot := { Boot.start with stage := 4 } }
     ready s = false ∧ s.pins.hold = .none ∧ unread s < 64 ∧ unread (ran .pllLockLoss s) = 1 ∧
       getF (ran .pllLockLoss s) Reg.FM_LOG 0 0 % 256 = 0x4D) ∧
    (let s := { up with clk := { up.clk with stepTo := some 1 } }
     s.clk.stepTo ≠ none ∧ (ran (.aclkForceStep 2) s).clk = s.clk ∧
       getF (ran (.aclkForceStep 2) s) Reg.CK_ACLK_CTL_FORCE_STEP 0 0 = 2) :=
  by decide +kernel

/-! ### Sensor ports -/

/-- A stream of 64 columns of 8 bits. -/
def st : Stream := { Stream.unbound with bound := true, w := 64, seg := 64, fmt := { bits := 8, packed := false, bayer := 0 } }

/-- Port 2 receives GigE Vision for stream 2 from UDP port 100. -/
def gige : State :=
  { setF (setF (setF up Reg.SP_PORT_CTL_MODE 2 0 1) Reg.SP_PORT_CTL_EN 2 0 1) Reg.SP_STREAM_FILT_UDP_DST 2 0 100 with
    ports := [(2, { Port.zero with linkUp := true })], streams := [(2, st)] }

/-- A frame of 104 bytes. -/
def frame (good : Bool) (grp : Bool) (b : EthBody) : EthFrame :=
  { len := 104, fcsOk := good, dstMac := 7, groupAddr := grp, vlan := 0, body := b, content := List.replicate 100 0 }

/-- An open block of which nothing has arrived. -/
def blk : Block :=
  { id := 1, firsts := [(0, 0)], leader := false, bad := false, payload := none, placed := [], held := [], abandoned := [], gaps := [],
    trailer := none, packets := none, highest := 0 }

/-- The frames that port 2 forwards go to ring 5 of control frames. -/
def fwdS : State :=
  sets gige [(Reg.QM_CTL_EN, 0, 0, 1), (Reg.HL_HOST_WIN_SIZE, 0, 0, 0x100000), (Reg.QM_RING_CFG_EN, 5, 0, 1),
    (Reg.QM_RING_CFG_KIND, 5, 0, 3), (Reg.QM_RING_CFG_FORMAT, 5, 0, 2), (Reg.QM_RING_BASE, 5, 0, 0x3000040000),
    (Reg.QM_RING_WB, 5, 0, 0x30000F0100), (Reg.SP_CTRL_RING_RING, 2, 0, 5)]

/-- The kind of the first frame forwarded. -/
def fwdKind (s : State) : Nat := (mget 0 s.hostMem 0x40002).toNat / 32

def wfG : Gvsp := { blockId := 1, body := .leader { bits := 8, packed := false, bayer := 0 } 64 1024 }

/-- A datagram for stream 2. -/
def gvsp (g : Gvsp) : EthFrame := frame true true (.udp 1 9 100 false none g)

theorem witness_ethernet_frames :
    (receives gige 2 [1, 2] = true ∧ (frame false true .other).fcsOk = false ∧
       Counted Reg.SP_CNT_MAC_ERR 2 0 1 gige (ran (.ethernetFrameRx 2 (frame false true .other)) gige)) ∧
    (receives gige 2 [1, 2] = true ∧ (frame true false .other).dstMac.toNat ≠ getF gige Reg.SP_MAC_ADDR_MAC (leadOf gige 2) 0 ∧
       Counted Reg.SP_CNT_MAC_FILT 2 0 1 gige (ran (.ethernetFrameRx 2 (frame true false .other)) gige)) ∧
    (Counted Reg.SP_CNT_CSUM 2 0 1 gige (ran (.ethernetFrameRx 2 (frame true true .badChecksum)) gige)) ∧
    (Counted Reg.SP_CNT_OTHER_DROP 2 0 1 gige (ran (.ethernetFrameRx 2 (frame true true .pause)) gige)) ∧
    (bit gige Reg.SP_CTRL_RING_FWD_OTHER 2 0 = false ∧
       Counted Reg.SP_CNT_OTHER_DROP 2 0 1 gige (ran (.ethernetFrameRx 2 (frame true true .other)) gige)) :=
  by
  unfold Counted; decide +kernel

theorem witness_more_ethernet_frames :
    (let s := fwdS
     receives s 2 [1, 2] = true ∧ (port (ran (.ethernetFrameRx 2 (frame true true .ptpEvent)) s) 2).fwdSeq = 1 ∧
       fwdKind (ran (.ethernetFrameRx 2 (frame true true .ptpEvent)) s) = 1 ∧
       fwdKind (ran (.ethernetFrameRx 2 (frame true true .ptpGeneral)) s) = 2) ∧
    (let s := setF fwdS Reg.SP_CTRL_RING_FWD_OTHER 2 0 1
     bit s Reg.SP_CTRL_RING_FWD_OTHER 2 0 = true ∧ fwdKind (ran (.ethernetFrameRx 2 (frame true true .other)) s) = 3) ∧
    (Counted Reg.SP_CNT_RESEND_ACK 2 0 1 fwdS (ran (.ethernetFrameRx 2 (frame true true (.udp 1 3956 7 false (some 0x8000) wfG))) fwdS) ∧
       fwdKind (ran (.ethernetFrameRx 2 (frame true true (.udp 1 3956 7 false (some 0x7FFF) wfG))) fwdS) = 0 ∧
       (port (ran (.ethernetFrameRx 2 (frame true true (.udp 1 3956 7 false none wfG))) fwdS) 2).fwdSeq = 1) ∧
    (Counted Reg.SP_CNT_RESEND_ACK 2 0 1 fwdS (ran (.ethernetFrameRx 2 (frame true true (.udp 1 77 7 true (some 0xFFFF) wfG))) fwdS)) ∧
    ((2 ∈ streamsOf gige (leadOf gige 2) ∧ getF gige Reg.SP_STREAM_FILT_UDP_DST 2 0 = (100 : BitVec 16).toNat) ∧
       Counted Reg.SP_CNT_MALFORMED 2 0 1 gige (ran (.ethernetFrameRx 2 (frame true true (.udp 1 9 100 true none wfG))) gige)) ∧
    (matchStream gige 2 1 9 100 = some 2 ∧
       Counted Reg.SP_CNT_MALFORMED 2 0 1 gige (ran (.ethernetFrameRx 2 (frame true true (.udp 1 9 100 true none wfG))) gige)) ∧
    (let s := gige
     (stream s 2).bound = true ∧
       ((pstream (ran (.ethernetFrameRx 2 (gvsp wfG)) s) 2).blocks.map fun b => (b.id, b.leader, b.bad)) = [(1, true, false)]) ∧
    (let s : State := { gige with pstreams := [(2, { PortStream.zero with blocks := [blk] })] }
     let f := gvsp { blockId := 1, body := .payload 3 [4, 5] }
     receives s 2 [1, 2] = true ∧ matchStream s (leadOf s 2) 1 9 100 = some 2 ∧ (stream s 2).bound = true ∧
       (pstream s 2).blocks = [blk] ∧
       learnSize (gvspBytes (heard s 2) 2 blk) none [(3, 2)] = none ∧
       payloadFits (heard s 2) 2 { blk with payload := learnSize (gvspBytes (heard s 2) 2 blk) none [(3, 2)] } 3 2 ≠ some false ∧
       ((pstream (ran (.ethernetFrameRx 2 f) s) 2).blocks.map fun b => (b.id, b.highest)) = [(1, 3)] ∧
       ((pstream (ran (.ethernetFrameRx 2 f) s) 2).blocks.map fun b => b.held) = [[(3, [4, 5], rxStamp s (leadOf s 2))]] ∧
       Counted Reg.SP_CNT_OOO 2 0 1 s (ran (.ethernetFrameRx 2 f) s)) :=
  by
  unfold Counted; decide +kernel

/-- Stream 2 with one gap at packet 4 of its block. -/
def gapped : State :=
  atNs { setF (setF gige Reg.SP_RESEND_CTL_EN 2 0 1) Reg.SP_RESEND_CTL_RESEND_MAX 2 0 1 with
    pstreams := [(2, { PortStream.zero with
      blocks := [{ blk with gaps := [{ packet := 4, atNs := 0, requests := 0, lastNs := 0 }] }] })] } 100000000

/-- Port 0 receives CoaXPress for stream 0. -/
def cxp : State :=
  atNs { setF (setF up Reg.SP_PORT_CTL_MODE 0 0 3) Reg.SP_PORT_CTL_EN 0 0 1 with
    ports := [(0, { Port.zero with linkUp := true })], streams := [(0, st)],
    pstreams := [(0, { PortStream.zero with fresh := false, nextTag := some 255 })] } 9000

def cxpPixels (good : Bool) (tag : Nat) : CxpPacket :=
  { crcOk := good, streamId := 0, tag := tag, lineGap := none, body := .pixels 1 0 [1, 2, 3] }

theorem witness_resends_and_coaxpress :
    (let s := gapped
     ((leastBy longerDue (dueGaps s 2)).map fun x => (x.1.id, x.2.packet)) = some (1, 4) ∧ bit s Reg.SP_RESEND_CTL_EN 2 0 = true ∧
       txWaits s (leadOf s 2) = false ∧
       (port (ran (.resendWaitExpiry 2) s) 2).sent = [.item (.resend 2 1 4 4 0x8000 (3956 * 2 ^ 48))]) ∧
    (let s := { gapped with ports := [(2, { Port.zero with linkUp := true, txBusy := some { ring := 1, seq := 0, stampNs := 4 } })] }
     txWaits s (leadOf s 2) = true ∧ (port (ran (.resendWaitExpiry 2) s) 2).sent = [] ∧
       (port (ran (.resendWaitExpiry 2) s) 2).txq = [.resend 2 1 4 4 0x8000 (3956 * 2 ^ 48)]) ∧
    (let s := gapped
     1000 * getF s Reg.SP_RESEND_CTL_DEADLINE 2 0 ≤ nowNs s ∧
       ((pstream (ran (.resendDeadline 2 1 4) s) 2).blocks.map fun b => (b.gaps, b.abandoned)) = [([], [4])]) ∧
    (receives cxp 0 [3] = true ∧ Counted Reg.SP_CNT_MALFORMED 0 0 1 cxp (ran (.cxpPacketRx 0 (cxpPixels false 255)) cxp)) ∧
    (Counted Reg.SP_CNT_MALFORMED 0 0 1 cxp (ran (.cxpPacketRx 0 { cxpPixels true 255 with body := .unknown }) cxp)) ∧
    (let s := sets cxp [(Reg.QM_CTL_EN, 0, 0, 1), (Reg.HL_HOST_WIN_SIZE, 0, 0, 0x100000), (Reg.QM_RING_CFG_EN, 5, 0, 1),
       (Reg.QM_RING_CFG_KIND, 5, 0, 3), (Reg.QM_RING_CFG_FORMAT, 5, 0, 2), (Reg.QM_RING_BASE, 5, 0, 0x3000040000),
       (Reg.QM_RING_WB, 5, 0, 0x30000F0100), (Reg.SP_CTRL_RING_RING, 0, 0, 5)]
     fwdKind (ran (.cxpPacketRx 0 { cxpPixels true 255 with body := .control [1] }) s) = 4 ∧
       fwdKind (ran (.cxpPacketRx 0 { cxpPixels true 255 with body := .event [1] }) s) = 5 ∧
       fwdKind (ran (.cxpPacketRx 0 { cxpPixels true 255 with body := .heartbeat [1] }) s) = 6) ∧
    (let s := cxp
     (streamsOf s (leadOf s 0)).find? (fun x => getF s Reg.SP_STREAM_FILT_CXP_ID x 0 = 0) = some 0 ∧ (stream s 0).bound = true ∧
       (stream s 0).welds = [] ∧ (pstream s 0).fresh = false ∧ (pstream s 0).cxpBad = false ∧ (pstream s 0).nextTag = some (cxpPixels true 255).tag ∧
       (pstream s 0).cxpHeld = [] ∧
       (port s 0).rxBytes + ((linePieces (lineBytes (stream s 0)) (1 * lineBytes (stream s 0) + 0) [1, 2, 3]).map fun q => q.2.2.length).sum ≤ 65536 ∧
       (pstream (ran (.cxpPacketRx 0 (cxpPixels true 255)) s) 0).nextTag = some 0 ∧
       ((port (ran (.cxpPacketRx 0 (cxpPixels true 255)) s) 0).rxq.map fun q => (q.line, q.off, q.bytes)) = [(1, 0, [1, 2, 3])]) ∧
    (let s := cxp
     (pstream (ran (.cxpPacketRx 0 { cxpPixels true 255 with body := .imageStart st.fmt }) s) 0).nextTag = some 0 ∧
       (pstream (ran (.cxpPacketRx 0 { cxpPixels true 255 with body := .imageStart st.fmt }) s) 0).cxpBad = false ∧
       (pstream (ran (.cxpPacketRx 0 { cxpPixels true 255 with body := .imageStart { st.fmt with bits := 10 } }) s) 0).cxpBad = true) ∧
    (let s := { setF cxp Reg.SP_PORT_CTL_CXP_LANES 0 0 1 with pstreams := [(0, PortStream.zero)] }
     receives s 0 [3] = true ∧ (streamsOf s (leadOf s 0)).find? (fun x => getF s Reg.SP_STREAM_FILT_CXP_ID x 0 = 0) = some 0 ∧
       (pstream s 0).nextTag = none ∧ groupSize s (leadOf s 0) ≠ 1 ∧
       (pstream (ran (.cxpPacketRx 0 (cxpPixels true 9)) s) 0).cxpHeld = [(cxpPixels true 9, rxStamp s 0, nowNs s)]) ∧
    (let s := { cxp with pstreams := [(0, { PortStream.zero with nextTag := some 254, cxpHeld := [(cxpPixels true 1, 5000, 5000)] })] }
     0 ∈ streamsOf s (leadOf s 0) ∧ 5000 + 4000 ≤ nowNs s ∧ (pstream (ran (.cxpSkewTimeout 0) s) 0).cxpHeld = [] ∧
       (pstream (ran (.cxpSkewTimeout 0) s) 0).nextTag = some 2 ∧ Counted Reg.SP_CNT_SKEW 0 0 3 s (ran (.cxpSkewTimeout 0) s)) := by
  unfold Counted; decide +kernel

/-- A descriptor of transmit ring 1 of port 2: `n` bytes at 0x40, and its flags. -/
def txD (n flags : Nat) : Desc :=
  { ring := 1, seq := 7, words := [BitVec.ofNat 64 (n + flags * 2 ^ 16), 0, 0x40, 0], poison := false, started := false,
    reserved := false, cplRing := 2 }

/-- Port 2 sends from ring 1. -/
def txS (ds : List Desc) (p : Port) : State :=
  { sets rg [(Reg.QM_RING_CFG_FORMAT, 1, 0, 1), (Reg.SP_PORT_CTL_MODE, 2, 0, 1), (Reg.SP_PORT_CTL_EN, 2, 0, 1), (Reg.SP_TX_RING_RING, 2, 0, 1)] with
    ports := [(2, p)], descs := ds }

theorem witness_port_transmissions :
    (let s := { cxp with ports := [(0, { Port.zero with txq := [.trigger 3 true, .resend 0 1 2 2 5 0] })] }
     (port s 0).txq = .trigger 3 true :: [.resend 0 1 2 2 5 0] ∧ (port (ran (.cxpTriggerPacket 0) s) 0).sent = [.item (.trigger 3 true)] ∧
       (port (ran (.cxpTriggerPacket 0) s) 0).txq = [.resend 0 1 2 2 5 0]) ∧
    (let s := txS [txD 60 0, txD 64 2] { Port.zero with linkUp := true, txq := [.resend 2 1 4 4 9 0] }
     portOn s (leadOf s 2) = true ∧ (port s 2).txBusy = none ∧ portMode s 2 ≠ 3 ∧
       (txReady s 2).find? (fun e => txStamped e && !e.poison) = some (txD 64 2) ∧ txBadField (portMode s 2 = 3) (txD 64 2) = none ∧
       ((port (ran (.portTransmit 2) s) 2).txBusy.map fun b => b.seq) = some 7 ∧ (port (ran (.portTransmit 2) s) 2).sent.length = 1 ∧
       (port (ran (.portTransmit 2) s) 2).txq.length = 1) ∧
    (let s := txS [txD 60 0] { Port.zero with linkUp := true, txq := [] }
     (txReady s 2).find? (fun e => txStamped e && !e.poison) = none ∧ (txReady s 2).head? = some (txD 60 0) ∧ hostOpen s = true ∧
       (port (ran (.portTransmit 2) s) 2).sent.length = 1) ∧
    (let s0 := txS [txD 60 0] { Port.zero with linkUp := true, txq := [] }
     let s := { s0 with hl := { s0.hl with bme := false } }
     portOn s (leadOf s 2) = true ∧ (txReady s 2).head? = some (txD 60 0) ∧ hostOpen s = false ∧ ran (.portTransmit 2) s = s) ∧
    (let s := txS [txD 59 0] { Port.zero with linkUp := true }
     (txReady s 2).head? = some (txD 59 0) ∧ txBadField (portMode s 2 = 3) (txD 59 0) = some 0 ∧
       (ran (.portTransmit 2) s).descs = [] ∧ (port (ran (.portTransmit 2) s) 2).sent = [] ∧ mget 0 (ran (.portTransmit 2) s).hostMem 0x10000 = 2) ∧
    (let s := txS [{ txD 60 0 with poison := true }] { Port.zero with linkUp := true }
     (txReady s 2).length = 1 ∧ (ran (.portTransmit 2) s).descs = [] ∧ mget 0 (ran (.portTransmit 2) s).hostMem 0x10000 = 0x10) ∧
    (let s := { gige with ports := [(2, { Port.zero with txq := [.resend 2 1 4 4 9 0] })] }
     portOn s (leadOf s 2) = true ∧ (port s 2).txBusy = none ∧ txReady s (leadOf s 2) = [] ∧
       (port (ran (.portTransmit 2) s) 2).sent = [.item (.resend 2 1 4 4 9 0)]) ∧
    (let s := { gige with ports := [(2, { Port.zero with txBusy := some { ring := 1, seq := 0, stampNs := 4 }, txq := [.resend 2 1 4 4 9 0] })] }
     (port s (leadOf s 2)).txBusy.isSome = true ∧ (txReady s 2).any txStamped = false ∧ (port (ran (.portTransmitComplete 2) s) 2).txBusy = none ∧
       (port (ran (.portTransmitComplete 2) s) 2).sent = [.item (.resend 2 1 4 4 9 0)]) ∧
    (let p : Port := { Port.zero with txBusy := some { ring := 1, seq := 6, stampNs := 4 }, txq := [.resend 2 1 4 4 9 0] }
     let s := txS [{ txD 60 0 with seq := 6, started := true }, txD 64 2] p
     (txReady s 2).any txStamped = true ∧ (port (ran (.portTransmitComplete 2) s) 2).txBusy = none ∧
       (port (ran (.portTransmitComplete 2) s) 2).sent = []) := by decide +kernel

theorem witness_links_and_idle_streams :
    ((port gige (leadOf gige 2)).linkUp = true ∧ (port (ran (.linkDown 2) gige) 2).linkUp = false) ∧
    (let s := { gige with ports := [] }
     (port s (leadOf s 2)).linkUp = false ∧ portOn s (leadOf s 2) = true ∧ (port (ran (.linkUp 2) s) 2).linkUp = true) ∧
    (let s := atNs (setF gige Reg.SP_TIMEOUT_IDLE_MS 2 0 1) 1000000
     (stream s 2).bound = true ∧ getF s Reg.SP_TIMEOUT_IDLE_MS 2 0 ≠ 0 ∧ (pstream s 2).idlePosted = false ∧
       0 + 1000000 * getF s Reg.SP_TIMEOUT_IDLE_MS 2 0 ≤ nowNs s ∧ (pstream (ran (.streamIdle 2) s) 2).idlePosted = true) ∧
    (portOn up 2 = false ∧ ran (.serdesCalibration 2) up = up) ∧
    (let s := atNs gige 700
     fld s Reg.HV_CAL_CTL_SERDES_S ≠ 0 ∧ portOn s 2 = true ∧ (port (ran (.serdesCalibration 2) s) 2).calNs = 700) := by decide +kernel

/-! ### Ingest, boundary engines, line timing -/

/-- A stripe of stream 2 that has its place in retention. -/
def stripe0 : Stripe :=
  { stream := 2, row := 0, seg := 0, image := [], valid := 0, flushed := false, gapFlag := false, blocks := 1, bytes := 192,
    units := some (0, 1), announced := false, lostA := false, lostB := false }

theorem witness_ingest :
    (let s := { setF gige Reg.IG_CTL_EN 0 0 1 with
       ports := [(2, { Port.zero with rxq := [{ stream := 2, line := 0, off := 0, bytes := [1, 2], stampNs := 3 }], rxBytes := 2 })] }
     igEn s = true ∧ (port s 2).rxq.length = 1 ∧ (port (ran (.ingestTakePacket 2) s) 2).rxq = [] ∧
       (port (ran (.ingestTakePacket 2) s) 2).rxBytes = 0) ∧
    (let s := { up with dram := { Dram.zero with committed := true, rb := fld up Reg.IG_RET_BASE, rs := fld up Reg.IG_RET_SIZE } }
     answers s 0xC00000 = true ∧ fld s Reg.IG_RET_BASE = s.dram.rb ∧ fld s Reg.IG_RET_SIZE = s.dram.rs ∧
       getF (ran (.ingestEnable 1) s) Reg.IG_CTL_EN 0 0 = 1) ∧
    (let s := { up with dram := { Dram.zero with committed := true, rb := fld up Reg.IG_RET_BASE + 0x10000, rs := fld up Reg.IG_RET_SIZE } }
     s.dram.committed = true ∧ fld s Reg.IG_RET_BASE ≠ s.dram.rb ∧ getF (ran (.ingestEnable 1) s) Reg.IG_CTL_EN 0 0 = 0 ∧
       getF (ran (.ingestEnable 1) s) Reg.MEM_MAP_STAT_RET_MISMATCH 0 0 = 1) ∧
    (let s := setF up Reg.IG_CTL_EN 0 0 1
     answers s 0xC00000 = true ∧ getF (ran (.ingestEnable 0) s) Reg.IG_CTL_EN 0 0 = 0) := by decide +kernel

theorem witness_epoch_events :
    (let s := { gige with stripes := [stripe0], plans := [(0, planOf [tmpl 5 1])] }
     (stream s 2).bound = true ∧
       s.stripes.find? (fun e => e.stream = 2 && !e.announced && e.row * nSegs (stream s 2) + e.seg = (stream s 2).announcedTo) = some stripe0 ∧
       announceRoom s (stream s 2).plan = true ∧ jobOf s (instAt 2 (tmpl 5 1) 0 0) = none ∧ (stream (ran (.stripeAnnounce 2) s) 2).announcedTo = 1 ∧
       (jobOf (ran (.stripeAnnounce 2) s) (instAt 2 (tmpl 5 1) 0 0)).isSome = true) ∧
    (let s := { up with streams := [(2, { st with epoch := 1, epochLen := 16, prev := some Bank.zero, announcedTo := 1 })] }
     (stream s 2).prev = some Bank.zero ∧ (stream s 2).bound = true ∧ epochDone s 2 ((stream s 2).epoch - 1) = true ∧
       (stream (ran (.harvestSnapshot 2) s) 2).prev = none ∧ (stream (ran (.harvestSnapshot 2) s) 2).snaps = 1 ∧
       (ran (.harvestSnapshot 2) s).latches = 0x4000) ∧
    (let s := { up with engines := [(3, { BEngine.zero with applyDue := some 2048 })] }
     (engine s 3).applyDue = some 2048 ∧ (engine (ran (.bApplied 3) s) 3).applyDue = none) ∧
    (let s := { up with streams := [(0, { st with epoch := 2 })], engines := [(3, { BEngine.zero with swapStaged := true, swapEpoch := 1 })] }
     (engine s 3).applyDue = none ∧ swapDue s 3 = true ∧ (engine s 3).applied = false ∧ (engine (ran (.bApplied 3) s) 3).applied = true ∧
       (engine (ran (.bApplied 3) s) 3).swapStaged = true) := by decide +kernel

/-- R433: a line is lost in the SRAM before its row is complete; the stripe made of it counts as lost. -/
theorem test_open_row_loses_sram_bytes :
    (let k : Stream := { Stream.unbound with bound := true, w := 64, seg := 64, h := 1, lines := [(0, { Line.none with complete := true })] }
     let s := { put up Reg.IG_RET_SIZE 0 with streams := [(1, k)] }
     let t := sramLost s (mkReport 0x46 .ingest 0 0 (BitVec.ofNat 64 (2 ^ 54 + 5 * 2 ^ 40)) 0)
     (stream t 1).sramBad = [(0, 0)] ∧ ((closeRow t 1).stripes.map fun e => (e.lostA, e.lostB, e.gapFlag)) = [(true, true, true)] ∧
       (stream (closeRow t 1) 1).sramBad = []) ∧
    ((sramLost up (mkReport 0x46 .ingest 0 0 (BitVec.ofNat 64 (2 ^ 54 + 5 * 2 ^ 40)) 0)).streams = []) := by decide +kernel

/-- A bound stream 0 of one column, and its correction image at 0x1000: columns 1, and one entry. -/
def imaged (e : BEngine) : State :=
  { up with streams := [(0, { st with w := 1 })], engines := [(3, e)],
            mem := [(0x1008, 1), (0x1040, 7)], blocks := [] }

theorem witness_correction_tables :
    (let s := imaged BEngine.zero
     answers s 0xD01008 = true ∧ (engine s 3).oldBusy = false ∧ (engine s 3).loading = none ∧
       (readImage s 0x1000 64).2.1 = false ∧ headerOk s 3 (readImage s 0x1000 64).1 = true ∧
       (engine (ran (.tableLoad 3 0x1000) s) 3).loading = some 0x1000) ∧
    (let s := imaged { BEngine.zero with loading := some 0x1000 }
     (engine s 3).loading = some 0x1000 ∧ (readImage s 0x1000 (tblBytes (boundW s 3))).2.1 = false ∧
       headerOk s 3 ((readImage s 0x1000 (tblBytes (boundW s 3))).1.take 64) = true ∧
       (bankOfImage 0x1000 (readImage s 0x1000 (tblBytes (boundW s 3))).1).entries.any (fun e => decide (2 ^ 33 ≤ e.2.toNat)) = false ∧
       (engine (ran (.tableLoadComplete 3) s) 3).ready = true ∧ (engine (ran (.tableLoadComplete 3) s) 3).inactive.entries = [(0, 7)]) ∧
    (let s := setF (imaged { BEngine.zero with ready := true }) Reg.BE_CTL_EN 3 0 1
     answers s 0xD01010 = true ∧ (engine s 3).ready = true ∧ beEn s 3 = true ∧
       (engine (ran (.tableSwapRequest 3) s) 3).swapStaged = true) ∧
    (let s := imaged { BEngine.zero with ready := true, inactive := { TblBank.empty with valid := true, version := 9 } }
     beEn s 3 = false ∧ (engine (ran (.tableSwapRequest 3) s) 3).active.version = 9 ∧
       (engine (ran (.tableSwapRequest 3) s) 3).ready = false) ∧
    (let s := setF (setF (imaged { BEngine.zero with ready := true }) Reg.BE_CTL_EN 3 0 1) Reg.GC_ENABLE_BE 0 0 0
     answers s 0xD01010 = true ∧ bit s Reg.BE_CTL_EN 3 0 = true ∧ beEn s 3 = false ∧
       (engine (ran (.tableSwapRequest 3) s) 3).swapStaged = false ∧ (engine (ran (.tableSwapRequest 3) s) 3).ready = false) ∧
    (let s := { imaged { BEngine.zero with ready := true, swapStaged := true, inactive := { TblBank.empty with valid := true, version := 9 } } with
       streams := [(0, { st with epoch := 1 })] }
     swapDue s 3 = true ∧ (engine (ran (.tableSwap 3) s) 3).active.version = 9 ∧ (engine (ran (.tableSwap 3) s) 3).swapStaged = false) ∧
    (let s := imaged { BEngine.zero with active := { TblBank.empty with valid := true, addr := 0x1000, cols := 1 } }
     (engine s 3).active.valid = true ∧ 0 < (engine s 3).active.cols ∧
       (reloadEntries (cntB s Reg.BE_CNT_PARITY 3 1) 3 (jobOld s 3) 0).isSome = true ∧ (engine (ran (.tableParityError 3 0) s) 3).lost = none ∧
       ((ran (.tableParityError 3 0) s).fm.intake.map fun w => w.rep.cause) = [0x44]) ∧
    (let s := { imaged { BEngine.zero with active := { TblBank.empty with valid := true, addr := 0x1000, cols := 1 } } with
       blocks := [(0x41, { BlockMeta.fresh with syndrome := 1 })] }
     (engine s 3).active.valid = true ∧ (reloadEntries (cntB s Reg.BE_CNT_PARITY 3 1) 3 (jobOld s 3) 0).isSome = false ∧
       (engine (ran (.tableParityError 3 0) s) 3).lost = some 0 ∧
       ((ran (.tableParityError 3 0) s).fm.intake.getLast?.map fun w => w.rep.cause) = some 0x45) ∧
    (let j : Job := { newJob (2 ^ 40) .stripe 0 5 0 with state := .running, place := some (.engine 3 1) }
     let s := { imaged { BEngine.zero with oldBusy := true, since := 1, slots := [(1, j.id)],
                                           inactive := { TblBank.empty with valid := true, addr := 0x1000, cols := 1 } } with jobs := [j] }
     (engine s 3).active.valid = false ∧ jobOld s 3 = true ∧ (tblOf (engine s 3) (jobOld s 3)).valid = true ∧
       (engine (ran (.tableParityError 3 0) s) 3).inactive.entries = [(0, 7)]) := by decide +kernel

/-- Encoder 1 on. -/
def encoding (e : Encoder) : State :=
  { setF (setF up Reg.LT_CTL_EN 0 0 1) Reg.LT_ENC_CTL_EN 0 1 1 with
    encs := [(1, e)], clk := { up.clk with fclk := 100000000 } }

/-- Its phases have stood at these levels for a long time. -/
def phases (e : Encoder) (a b : Bool) : State :=
  { encoding e with pins := { up.pins with encA := if a then 2 else 0, encB := if b then 2 else 0 } }

theorem witness_encoders :
    (let s := up
     answers s 0xB00100 = true ∧ getF s Reg.LT_ENC_CTL_EN 0 7 = 0 ∧ getF (ran (.encoderEnable 7 1) s) Reg.LT_ENC_CTL_EN 0 7 = 1) ∧
    (let s := encoding Encoder.zero
     answers s 0xB00100 = true ∧ getF (ran (.encoderEnable 1 0) s) Reg.LT_ENC_CTL_EN 0 1 = 0) ∧
    (let s := setF (encoding Encoder.zero) Reg.LT_ENC_CTL_FILT 0 1 0
     encOn s 1 = true ∧ getF s Reg.LT_ENC_CTL_FILT 0 1 = 0 ∧ s.pins.encA.getLsbD 1 = (enc s 1).a ∧
       s.pins.encB.getLsbD 1 = (enc s 1).b ∧ (enc s 1).a ≠ true ∧ (enc s 1).b = false ∧ (enc (ran (.encoderCount 1 true false) s) 1).pos = 1 ∧
       (enc (ran (.encoderCount 1 true false) s) 1).hwm = 1) ∧
    (let s := phases { Encoder.zero with aFrom := 99999936, bFrom := 0 } true false
     encOn s 1 = true ∧ s.pins.encA.getLsbD 1 = true ∧ s.pins.encB.getLsbD 1 = false ∧
       (enc s 1).aFrom + 4 * getF s Reg.LT_ENC_CTL_FILT 0 1 = s.clk.fclk ∧ (enc s 1).bFrom + 4 * getF s Reg.LT_ENC_CTL_FILT 0 1 ≤ s.clk.fclk ∧
       (enc s 1).a ≠ true ∧ (enc s 1).b = false ∧ (enc (ran (.encoderCount 1 true false) s) 1).pos = 1) ∧
    (let s := phases Encoder.zero false true
     encOn s 1 = true ∧ (enc s 1).a = false ∧ (enc s 1).b ≠ true ∧ s.pins.encB.getLsbD 1 = true ∧
       (enc (ran (.encoderCount 1 false true) s) 1).pos = -1 ∧
       (enc (ran (.encoderCount 1 false true) s) 1).hwm = 0) ∧
    (let s := phases Encoder.zero true true
     encOn s 1 = true ∧ s.pins.encA.getLsbD 1 = true ∧ s.pins.encB.getLsbD 1 = true ∧ (enc s 1).aFrom / 4 = (enc s 1).bFrom / 4 ∧
       (enc s 1).aFrom + 4 * getF s Reg.LT_ENC_CTL_FILT 0 1 ≤ s.clk.fclk ∧ (enc s 1).a ≠ true ∧ (enc s 1).b ≠ true ∧
       (enc s 1).winErrs + 1 ≤ getF s Reg.LT_ENC_CTL_ERR_LIMIT 0 1 ∧
       (enc (ran (.encoderCount 1 true true) s) 1).pos = 0 ∧ getF (ran (.encoderCount 1 true true) s) Reg.LT_ENC_ERRS 0 1 = 1) ∧
    (let s := encoding Encoder.zero
     0 < getF s Reg.LT_ENC_CTL_FILT 0 1 ∧ s.pins.encA.getLsbD 1 = (enc s 1).a ∧ s.pins.encB.getLsbD 1 = (enc s 1).b ∧
       (enc (ran (.encoderCount 1 true false) s) 1).pos = 0 ∧ (enc (ran (.encoderCount 1 true false) s) 1).aFrom = 100000000 ∧
       (ran (.encoderCount 1 true false) s).pins.encA = 2) ∧
    (let s := phases { Encoder.zero with winErrs := 65535 } true true
     getF s Reg.LT_ENC_CTL_ERR_LIMIT 0 1 < (enc s 1).winErrs + 1 ∧ (enc s 1).winFault = false ∧
       (enc (ran (.encoderCount 1 true true) s) 1).winFault = true ∧
       getF (ran (.encoderCount 1 true true) s) Reg.LT_ENC_STAT_FAULT 0 1 = 1) ∧
    (let s := setF (encoding { Encoder.zero with pos := 30, winPos := 10 }) Reg.LT_ENC_CTL_SPD_WIN 0 1 1000
     encOn s 1 = true ∧ (enc s 1).winAt + 1000 * getF s Reg.LT_ENC_CTL_SPD_WIN 0 1 ≤ s.clk.fclk ∧ (enc (ran (.speedWindow 1) s) 1).speed = 20000 ∧ (enc (ran (.speedWindow 1) s) 1).winPos = 30) ∧
    (let s := encoding Encoder.zero
     encOn s 1 = true ∧ (enc s 1).motion = .moving ∧ (enc s 1).countAt + 1000 * getF s Reg.LT_ENC_LIMITS_STALL_US 0 1 ≤ s.clk.fclk ∧
       (enc (ran (.stripStop 1) s) 1).motion = .stopped) ∧
    (let s := setF (encoding { Encoder.zero with motion := .stopped }) Reg.LT_ENC_LIMITS_EOS_MS 0 1 1
     (enc s 1).motion = .stopped ∧ getF s Reg.LT_ENC_LIMITS_EOS_MS 0 1 ≠ 0 ∧
       (enc s 1).stopAt + 1000000 * getF s Reg.LT_ENC_LIMITS_EOS_MS 0 1 ≤ s.clk.fclk ∧ (enc (ran (.eosStopTimeout 1) s) 1).motion = .ended) :=
  by decide +kernel

/-- Trigger output 4 on, from the timer. -/
def trigging (k : Trig) : State :=
  { setF (setF (setF up Reg.LT_CTL_EN 0 0 1) Reg.LT_TRIG_CTL_EN 0 4 1) Reg.LT_TRIG_CTL_SRC 0 4 2 with
    trigs := [(4, k)], clk := { up.clk with fclk := 1000 } }

theorem witness_triggers_inputs_and_time_base :
    (let s := up
     answers s 0xB00400 = true ∧ getF s Reg.LT_TRIG_CTL_EN 0 4 = 0 ∧
       trigCfgOk (storeOthers s (0xB00400 + 0x20 * 4) 0 4 0x73) 4 = true ∧ getF (ran (.triggerEnable 4 0x73) s) Reg.LT_TRIG_CTL_EN 0 4 = 1) ∧
    (let s := trigging Trig.zero
     getF (ran (.triggerEnable 4 0) s) Reg.LT_TRIG_CTL_EN 0 4 = 0) ∧
    (let s := up
     trigCfgOk (storeOthers s (0xB00400 + 0x20 * 4) 0 4 0x47) 4 = false ∧ getF (ran (.triggerEnable 4 0x47) s) Reg.LT_TRIG_CTL_EN 0 4 = 0 ∧
       getF (ran (.triggerEnable 4 0x47) s) Reg.LT_TRIG_CTL_CFG_ERR 0 4 = 1) ∧
    (let s := setF (trigging Trig.zero) Reg.LT_TRIG_CTL_GATE_EN 0 4 1
     bit s Reg.LT_TRIG_CTL_GATE_EN 0 4 = true ∧ giOn s (getF s Reg.LT_TRIG_CTL_GATE_GI 0 4) = false ∧ ran (.triggerFire 4) s = s) ∧
    (let s := setF (trigging Trig.zero) Reg.LT_TRIG_SHAPE_WIDTH 0 4 103
     ltEn s = true ∧ bit s Reg.LT_TRIG_CTL_EN 0 4 = true ∧ bit s Reg.LT_TRIG_CTL_GATE_EN 0 4 = false ∧ (trig s 4).busy = false ∧
       (trig (ran (.triggerFire 4) s) 4).busy = true ∧ (trig (ran (.triggerFire 4) s) 4).width = 100) ∧
    (let s := trigging { Trig.zero with busy := true }
     ltEn s = true ∧ bit s Reg.LT_TRIG_CTL_GATE_EN 0 4 = false ∧ (trig s 4).busy = true ∧
       Counted Reg.LT_TRIG_CNT_MERGED 0 4 1 s (ran (.triggerFire 4) s)) ∧
    (let s := trigging Trig.zero
     ltEn s = true ∧ bit s Reg.LT_TRIG_CTL_EN 0 4 = true ∧ getF s Reg.LT_TRIG_CTL_SRC 0 4 = 2 ∧ (trig s 4).busy = false ∧
       timerDue s 4 = true ∧ (trig (ran (.triggerTimer 4) s) 4).busy = true) ∧
    (let s := { trigging { Trig.zero with timerAt := 4000 } with clk := { up.clk with tb := 4500 * 2 ^ 28 } }
     let s1 := setF (setF s Reg.LT_TRIG_CTL_ALIGN 0 4 1) Reg.LT_TRIG_PERIOD 0 4 1000
     timerDue s1 4 = true ∧ timerNext s1 4 = 5000 ∧ timerDue (ran (.triggerTimer 4) s1) 4 = false ∧
       ran (.triggerTimer 4) (ran (.triggerTimer 4) s1) = ran (.triggerTimer 4) s1) ∧
    (let s := trigging { Trig.zero with busy := true, since := 990, delay := 10 }
     (trig s 4).busy = true ∧ (trig s 4).since + (trig s 4).delay ≤ s.clk.fclk ∧ (trig s 4).active = false ∧ (ran (.triggerPulseStart 4) s).pins.trigOut = 0x10) ∧
    (let s := trigging { Trig.zero with busy := true, active := true }
     (trig s 4).active = true ∧ (trig s 4).since + (trig s 4).delay + (trig s 4).width ≤ s.clk.fclk ∧ (trig (ran (.triggerPulseEnd 4) s) 4).busy = false ∧ (ran (.triggerPulseEnd 4) s).pins.trigOut = 0) ∧
    (let s := setF (setF (setF (setF up Reg.LT_CTL_EN 0 0 1) Reg.LT_GI_CTL_EN 0 9 1) Reg.LT_GI_CTL_POL 0 9 1) Reg.LT_GI_CTL_FILT 0 9 0
     ltEn s = true ∧ bit s Reg.LT_GI_CTL_EN 0 9 = true ∧ getF s Reg.LT_GI_CTL_FILT 0 9 = 0 ∧ s.pins.giPins.getLsbD 9 ≠ true ∧
       (ran (.generalInputEdge 9 true) s).giLevel = 0x200 ∧ getF (ran (.generalInputEdge 9 true) (atNs s 77)) Reg.LT_GI_TIME 0 9 = 77) ∧
    (let s := setF { up with clk := { up.clk with fclk := 8000 } } Reg.LT_GI_CTL_FILT 0 9 7
     s.pins.giPins.getLsbD 9 = s.giLevel.getLsbD 9 ∧ s.pins.giPins.getLsbD 9 ≠ true ∧ 0 < getF s Reg.LT_GI_CTL_FILT 0 9 ∧
       (ran (.generalInputEdge 9 true) s).giLevel = 0 ∧ mget 0 (ran (.generalInputEdge 9 true) s).giFrom 9 = 8000 ∧
       (ran (.generalInputEdge 9 true) s).pins.giPins = 0x200) ∧
    (let s0 := setF { up with clk := { up.clk with fclk := 8000 }, giFrom := [(9, 1000)] } Reg.LT_GI_CTL_FILT 0 9 7
     let s := { s0 with pins := { s0.pins with giPins := 0x200 } }
     s.pins.giPins.getLsbD 9 = true ∧ mget 0 s.giFrom 9 + 1000 * getF s Reg.LT_GI_CTL_FILT 0 9 ≤ s.clk.fclk ∧
       (ran (.generalInputEdge 9 true) s).giLevel = 0x200) ∧
    (let s := atNs up 5
     answers s 0xB00A08 = true ∧ nowNs (ran (.timeStep 0xFFFFFFFFFFFFFFFF) s) = 2 ^ 64 - 1) ∧
    (let s := atNs up 5
     answers s 0xB00A18 = true ∧ (ran (.timeAdjust 0xFFFFFFFF) s).clk.slew = -(2 ^ 28) ∧ nowNs (ran (.timeAdjust 0xFFFFFFFF) s) = 5) := by
  unfold Counted; decide +kernel

/-! ### Jobs and tasks -/

/-- A host job of template 5. -/
def jb : Job :=
  { newJob 0x4000000000000001 .host 0 5 0 with submitted := true, state := .running, place := some (.tile 3 2), attempt := 1 }

/-- The whole grid serves; tile 3 runs job `jb` in its context 2, with registers and flow. -/
def lane (r : Regs) (f : Flow) : State :=
  { up with
    grid := { failed := [], cold := [], rows := 16, enabled := 256 }
    plans := [(0, planOf [tmpl 5 4])], jobs := [jb]
    tiles := [(3, { Tile.zero with
      running := some 2
      ctxs := [(2, { Ctx.empty with job := some jb.id, attempt := 1, state := .running, regs := r, flow := f })] })] }

def noFlow : Flow := { slot := none, inSlot := false, rpt := 0 }

/-- Tile 3 with its context 2 changed. -/
def withCtx (s : State) (k : Ctx) : State := { s with tiles := [(3, { tile s 3 with ctxs := [(2, k)] })] }

/-- A last-layer template on engine 4 of no layer, which computes nothing. -/
def lastT : Template :=
  { tmpl 5 4 with engine := .last ⟨[], 0, 0, 1, true, 0, [], 0, 0, 1⟩, units := [4] }

/-- Engine 4 with its slots, and a job for it. -/
def engineS (j : Job) (slots : List (Nat × JobId)) : State :=
  { sets up [(Reg.SC_JOB_CTL_EN, 0, 0, 1), (Reg.BE_CTL_EN, 4, 0, 1)] with
    plans := [(0, planOf [lastT])], jobs := [j], engines := [(4, { BEngine.zero with slots := slots })] }

theorem witness_job_dispatch_and_start :
    (let s := { setF up Reg.SC_JOB_CTL_EN 0 0 1 with
       grid := { failed := [], cold := [], rows := 16, enabled := 256 }, plans := [(0, planOf [{ tmpl 5 4 with units := [3] }])],
       jobs := [{ jb with state := .eligible, place := none }] }
     scEn s = true ∧ s.fm.phase = .normal ∧
       (nextJob s).map (·.id) = some jb.id ∧ (tmplOf s jb).isSome = true ∧
       mayDispatch s (.tile 3 2) [] { jb with state := .eligible, place := none } = true ∧
       mayDispatch s (.tile 4 2) [] { jb with state := .eligible, place := none } = false ∧
       (jobOf (ran (.jobDispatch (.tile 4 2) []) s) jb.id).map (·.state) = some .eligible ∧
       (ctxOf (ran (.jobDispatch (.tile 3 2) []) s) 3 2).job = some jb.id ∧
       (ctxOf (ran (.jobDispatch (.tile 3 2) []) s) 3 2).state = .dispatched) ∧
    (let k := { Ctx.empty with job := some jb.id, state := .dispatched }
     let s := withCtx { lane Regs.zero noFlow with jobs := [{ jb with state := .dispatched }] } k
     (ctxJob s 3 2).isSome = true ∧ (tile s 3).running = some 2 ∧ (ctxOf s 3 2).state = .dispatched ∧
       tagBusy s jb.id jb.attempt = false ∧ (ctxOf (ran (.jobFirstIssue (.tile 3 2)) s) 3 2).state = .running) ∧
    (let s := engineS { jb with state := .eligible, place := none } []
     (nextJob s).map (·.id) = some jb.id ∧ mayDispatch s (.engine 4 1) [] { jb with state := .eligible, place := none } = true ∧
       (engine (ran (.jobDispatch (.engine 4 1) []) s) 4).slots = [(1, jb.id)]) ∧
    (let s := engineS { jb with state := .dispatched, place := some (.engine 4 1) } [(1, jb.id)]
     (engine s 4).slots = [(1, jb.id)] ∧
       (jobOf (ran (.jobFirstIssue (.engine 4 1)) s) jb.id).map (·.state) = some .running) ∧
    (let s := { lane Regs.zero noFlow with
       tiles := [(3, { Tile.zero with ctxs := [(2, { Ctx.empty with job := some jb.id, state := .ready })] })] }
     (tile s 3).running = none ∧ leastBy (selectBefore s 3) ((upto 8).filter fun c => isReady (ctxOf s 3 c)) = some 2 ∧
       mayEnter s 3 2 = true ∧ (tile (ran (.taskSelect 3) s) 3).running = some 2 ∧
       (ctxOf (ran (.taskSelect 3) s) 3 2).state = .running) := by decide +kernel

/-- A first-layer job of stream 2 on engine 4, whose stripe is poisoned at address 0. -/
def poisonedJob : Job :=
  { newJob (instAt 2 (tmpl 5 1) 0 0) .stripe 0 5 0 with state := .running, place := some (.engine 4 1), attempt := 1 }
def poisonedT : Template := { tmpl 5 1 with engine := .first ⟨false, [1], [0x8000], [0], 0, 0, -128, 127, 0, 0, 0, 0, 1⟩ }
def poisonedS : State :=
  { engineS poisonedJob [(1, poisonedJob.id)] with
    plans := [(0, planOf [poisonedT])], streams := [(2, st)]
    stripes := [{ stream := 2, row := 0, seg := 0, image := List.replicate 64 0, valid := 0, flushed := false, gapFlag := false, blocks := 1,
                  bytes := 64, units := some (0, 1), announced := true, lostA := false, lostB := false }]
    blocks := [(0, { BlockMeta.fresh with syndrome := 1 })] }

theorem witness_job_ends :
    (let j := { jb with ended := true, staged := [] }
     let s := { lane Regs.zero noFlow with jobs := [j], tiles := [(3, { Tile.zero with
       ctxs := [(2, { Ctx.empty with job := some jb.id, attempt := 1, state := .waiting })] })] }
     (jobOf s j.id).isSome = true ∧ (tmplOf s j).isSome = true ∧ j.cancelling = false ∧ j.abortOrder = none ∧
       workDone s j 3 2 = true ∧ expertShort j = false ∧ outputPoison s j = false ∧
       (ctxOf (ran (.jobRetire j.id) s) 3 2).state = .free) ∧
    (let j := { jb with kind := .expert, ended := true, tokens := [(1 : BitVec 128)] }
     let s := { lane Regs.zero noFlow with jobs := [j], tiles := [(3, { Tile.zero with
       ctxs := [(2, { Ctx.empty with job := some jb.id, attempt := 1, state := .waiting })] })] }
     workDone s j 3 2 = true ∧ expertShort j = true ∧ holdsPlace j = true ∧
       (jobOf (ran (.jobRetire j.id) s) j.id).map (·.abortOrder) = some (some 0x1A)) ∧
    (let j := { jb with place := some (.engine 4 1) }
     let s := { engineS j [(1, jb.id)] with plans := [(0, planOf [{ lastT with engine := .tiles }])] }
     (engine s 4).slots.head? = some (1, j.id) ∧ engineStuck s { lastT with engine := .tiles } = none ∧
       (engineRun s j { lastT with engine := .tiles } 4).2 = none ∧ (engine (ran (.jobRetire j.id) s) 4).slots = []) ∧
    (let j := { jb with place := some (.engine 4 1) }
     let t := { lastT with queues := [(7, false, 0)] }
     let s := { engineS j [(1, jb.id)] with plans := [(0, planOf [t])] }
     (engineStuck s t).isSome = true ∧ (jobOf (ran (.jobRetire j.id) s) j.id).map (·.state) = some .suspended) ∧
    (let s := poisonedS
     let j := poisonedJob
     (engine s 4).slots.head? = some (1, j.id) ∧ engineStuck s poisonedT = none ∧ (engineRun s j poisonedT 4).2 = some 0 ∧
       (jobOf (ran (.jobRetire j.id) s) j.id).map (·.abortOrder) = some (some 0x40)) ∧
    (let j := { jb with ended := true, poisonOut := true }
     let s := { lane Regs.zero noFlow with jobs := [j], tiles := [(3, { Tile.zero with
       ctxs := [(2, { Ctx.empty with job := some jb.id, attempt := 1, state := .waiting })] })] }
     workDone s j 3 2 = true ∧ expertShort j = false ∧ outputPoison s j = true ∧ holdsPlace j = true ∧
       (jobOf (ran (.jobRetire j.id) s) j.id).map (·.abortOrder) = some (some 0)) :=
  by decide +kernel

theorem witness_aborts_and_time_outs :
    (let j := { jb with abortOrder := some 0x15 }
     let s := { lane Regs.zero noFlow with jobs := [j] }
     j.abortOrder = some (0x15 : BitVec 8).toNat ∧ holdsPlace j = true ∧ inDelaySlot s j = false ∧
       (jobOf (ran (.jobAbort j.id 0x15) s) j.id).map (fun k => (k.state, k.attempt)) = some (.aborted, 2)) ∧
    (let j := { jb with state := .aborted }
     let s := { lane Regs.zero noFlow with jobs := [j] }
     (jobOf s j.id).isSome = true ∧ j.place.isSome = true ∧ j.awaitEsc = false ∧
       (jobOf (ran (.jobDiscardComplete j.id) s) j.id).map (fun k => (k.place, k.restarted)) = some (none, true)) ∧
    (let j := { jb with state := .aborted, awaitEsc := true }
     let s := { lane Regs.zero noFlow with jobs := [j] }
     (jobOf (ran (.jobDiscardComplete j.id) s) j.id).map (fun k => (k.place, k.state)) = some (none, .aborted)) ∧
    (let j := { jb with state := .aborted }
     let s0 := { lane Regs.zero noFlow with jobs := [j] }
     let s := { s0 with fm := { s0.fm with phase := .frost } }
     s.fm.phase = .frost ∧ j.awaitEsc = false ∧
       (jobOf (ran (.jobDiscardComplete j.id) s) j.id).map (fun k => (k.place, k.state)) = some (none, .aborted)) ∧
    (let j := { jb with cancelling := true, state := .aborted }
     let s := { lane Regs.zero noFlow with jobs := [j] }
     j.cancelling = true ∧ s.sctx.any (fun e => decide (e.2.holder = .job j.id)) = false ∧
       (jobOf (ran (.jobCancelDrained j.id) s) j.id).elim true (fun k => decide (k.state = .cancelled)) = true) ∧
    (let j := { jb with activeCyc := 10000000000 }
     let s := { lane Regs.zero noFlow with jobs := [j] }
     j.state = .running ∧ fld s Reg.SC_JOB_CTL_WATCHDOG_MULT * ((tmplOf s j).elim 0 (·.d)) * 200 ≤ j.activeCyc ∧
       (jobOf (ran (.jobOverrun j.id) s) j.id).map (·.abortOrder) = some (some 0x1B)) ∧
    (let j := { jb with state := .suspended, waitNs := 7 }
     let s := atNs { lane Regs.zero noFlow with jobs := [j] } (10 ^ 15)
     j.state = .suspended ∧ j.waitNs + 1000 * fld s Reg.SC_JOB_CTL_WAIT_LIMIT < nowNs s ∧
       (jobOf (ran (.waitTimeout j.id) s) j.id).map (·.abortOrder) = some (some 0x1C)) ∧
    (let s := atNs { lane Regs.zero noFlow with
       sctx := [(0, { SCtx.free with holder := .job jb.id, state := .halted, haltNs := 7 })] } (10 ^ 15)
     s.sctx.any (fun e => decide (e.2.holder = .job jb.id ∧ e.2.state = .halted ∧
         e.2.haltNs + 1000 * fld s Reg.SC_JOB_CTL_WAIT_LIMIT < nowNs s)) = true ∧
       (jobOf (ran (.waitTimeout jb.id) s) jb.id).map (·.abortOrder) = some (some 0x1C)) :=
  by decide +kernel

/-- An operator entry, DRIFT (R235): `BASE_S` 0x8000, `D0` 2, `DMIN` −8, `DMAX` 8, `SAT_LIM` and `MSE_LIM` 100. -/
def op1 : List Byte := [3, 0, 0, 0x80, 0, 2, 0xF8, 8, 0, 0, 0, 0, 100, 0, 100, 0]

/-- Task 2 of tile 3 waits for the cache line 0x2400, whose fill is under way. -/
def filling (bs : List (Nat × BlockMeta)) : State :=
  let k := { Ctx.empty with job := some jb.id, state := .waiting, wait := 5, waitFor := .icache 0x2400 }
  { lane Regs.zero noFlow with tiles := [(3, { tile (lane Regs.zero noFlow) 3 with ctxs := [(2, k)], fills := [0x2400] })], blocks := bs }

theorem witness_tile_memory_and_drift :
    (let s := filling []
     ((tile s 3).fills.take 2).contains 0x2400 = true ∧ icacheWaiters s 3 0x2400 = [jb.id] ∧ (devRead s (128 * 0x2400) 128 .clean jb.id).1.any (·.2) = false ∧
       (mget [] (tile (ran (.icacheFill 3 0x2400 .clean) s) 3).icache 0x2400).length = 128) ∧
    (let s := filling [(0x2400 * 2, { BlockMeta.fresh with syndrome := 1 })]
     (devRead s (128 * 0x2400) 128 .clean jb.id).1.any (·.2) = true ∧ (tile (ran (.icacheFill 3 0x2400 .clean) s) 3).icache = [] ∧
       (tile (ran (.icacheFill 3 0x2400 .clean) s) 3).fills = [] ∧
       (jobOf (ran (.icacheFill 3 0x2400 .clean) s) jb.id).map (·.abortOrder) = some (some 0x40)) ∧
    (let s := { up with tiles := [(3, { Tile.zero with sb := [{ addr := 0x1000600000, bytes := [1, 0, 3], poison := false }] })], mem := [(0x1000600001, 9), (0x1000600003, 8)] }
     (tile s 3).sb.length = 1 ∧ (ran (.storeBufferCommit 3) s).mem = [(0x1000600000, 1), (0x1000600002, 3), (0x1000600003, 8)]) ∧
    (let s := { up with tiles := [(3, { Tile.zero with handles := [(5, { Handle.empty with
        valid := true, filling := true, len := 1, copy := some 0x1000 })] })] }
     (handleOf s 3 5).filling = true ∧ (handleOf s 3 5).byStream = false ∧ (handleOf s 3 5).copy = some 0x1000 ∧
       (handleOf (ran (.fillComplete 3 5 true) s) 3 5).present = true ∧ (handleOf (ran (.fillComplete 3 5 false) s) 3 5).present = false ∧
       (handleOf (ran (.fillComplete 3 5 false) s) 3 5).filling = false) ∧
    (let d : Drift := { stream := 2, op := 1, deltas := [], stats := [] }
     let s := { setF up Reg.IG_STREAM_DRIFT_LAG 0 2 4 with streams := [(2, st)], drifts := [d], plans := [(0, { planOf [] with image := { (planOf []).image with ops := [(op1, 1)] } })] }
     driftOf s 2 1 = some d ∧ opOf s (stream s 2).plan 1 = some (decodeOp 1 1 op1) ∧ nextIndex s 2 d < 64 ∧
       statsComplete s 2 (stream s 2).plan (decodeOp 1 1 op1) (nextIndex s 2 d - getF s Reg.IG_STREAM_DRIFT_LAG 0 2) = true ∧
       ((driftOf (ran (.driftCompute 2 1) s) 2 1).map fun e => e.deltas.length) = some 1) := by decide +kernel

/-! ### The lane engine. Slots and bundles are laid out here by R158, R159 and R162. -/

def sSl (op rd rs1 rs2 : Nat) : Nat := op * 2 ^ 32 + rd * 2 ^ 27 + rs1 * 2 ^ 22 + rs2 * 2 ^ 16
def sImm (op rd rs1 imm : Nat) : Nat := op * 2 ^ 32 + rd * 2 ^ 27 + rs1 * 2 ^ 22 + 2 ^ 21 + imm
def aImm (op ad asrc imm : Nat) : Nat := op * 2 ^ 32 + ad * 2 ^ 28 + asrc * 2 ^ 24 + 2 ^ 20 + imm
/-- `FORM` 0. -/
def vSl (op vd vs1 vs2 : Nat) : Nat := op * 2 ^ 32 + vd * 2 ^ 27 + vs1 * 2 ^ 22 + vs2 * 2 ^ 17
/-- `FORM` 2, or function bits. -/
def vImm (op vd vs1 form imm : Nat) : Nat := op * 2 ^ 32 + vd * 2 ^ 27 + vs1 * 2 ^ 22 + form * 2 ^ 7 + imm
def mSl (op rt ab ofs : Nat) : Nat := op * 2 ^ 32 + rt * 2 ^ 27 + ab * 2 ^ 23 + ofs
def cSl (op rest : Nat) : Nat := op * 2 ^ 32 + rest
def bundle (fmt x y z : Nat) : BitVec 128 := BitVec.ofNat 128 (fmt * 2 ^ 124 + x * 2 ^ 80 + y * 2 ^ 40 + z)

/-- Vector `v1`: the 16-bit elements 1, 2, 3, −4. -/
def vOne : BitVec 1024 := 0xFFFC000300020001

/-- Registers of the tests: s1 = 5, s2 = 7, a1 in the tile's own scratchpad, four 16-bit elements. -/
def regs : Regs :=
  { Regs.zero with s := [(1, 5), (2, 7)], a := [(1, 0x1000601000)], v := [(1, vOne)], vn := 4, vfmt := 1, pc := 0x40 }

/-- Tile 3 with the registers, an object of each kind, a queue between the job and itself, and bytes at a1. -/
def laneS : State :=
  { lane regs noFlow with
    objs := [(0, { SyncObj.free with alloc := true, kind := 1, count := 5 }), (1, { SyncObj.free with alloc := true, kind := 0 })]
    queues := [(7, { Queue.free with alloc := true, decl := { Queue.free.decl with queue := 7, depth := 4, slotRows := 1, handle := 9 },
                                     prod := .job jb.id, cons := .job jb.id, slots := [(0, { Slot.zero with state := .full })], tail := 1 })]
    mem := [(0x1000601000, 0x80), (0x1000601002, 2)] }

/-- The running task of tile 3 issues a bundle that holds the one operation of a row. -/
def issues (r : LaneRow) (b next : BitVec 128) (s : State) : Bool :=
  match laneAt s 3, (decodeBundle b).map (List.filter fun x => x.op ≠ 0) with
  | some (l, f), some [o] => decide (rowOfOp o = some r ∧ fetchBad l = false ∧ fetchMiss s l f = none ∧ bundleCheck s l f b next = .ok)
  | _, _ => false

/-- The registers of the task after a command. -/
def regsOf (s : State) : Regs := (ctxOf s 3 2).regs
def sReg (s : State) (i : Nat) : Nat := (mget 0 (regsOf s).s i).toNat
def aReg (s : State) (i : Nat) : Nat := (mget 0 (regsOf s).a i).toNat
def vReg (s : State) (i : Nat) : Nat := (mget 0 (regsOf s).v i).toNat

/-- One bundle of a row. -/
def lane1 (r : LaneRow) (b : BitVec 128) : State := ran (laneCommand 3 b 0 [] r) laneS

theorem witness_lane_bundles :
    (let b := bundle 0 (sSl 1 3 1 2) 0 0
     rowTakes .scalar b = true ∧ (laneAt laneS 3).isSome = true ∧ (regsOf (lane1 .scalar b)).pc = 0x50) ∧
    (let b := bundle 0 (sSl 1 3 1 2) 0 0
     let s := lane regs { noFlow with rpt := 2 }
     (regsOf (ran (.scalarAlu 3 b) s)).pc = 0x40 ∧ (ctxOf (ran (.scalarAlu 3 b) s) 3 2).flow.rpt = 1) ∧
    (let b := bundle 0 (sSl 1 3 1 2) 0 0
     let s := lane regs { noFlow with rpt := 1 }
     (regsOf (ran (.scalarAlu 3 b) s)).pc = 0x50 ∧ (ctxOf (ran (.scalarAlu 3 b) s) 3 2).flow.rpt = 0) ∧
    (let b := bundle 0 (sSl 1 3 1 2) 0 0
     let s := lane regs { noFlow with inSlot := true, slot := some 0x200 }
     (regsOf (ran (.scalarAlu 3 b) s)).pc = 0x200) ∧
    (let b := bundle 0 (sSl 0x15 3 1 2) 0 0
     let l := (laneAt laneS 3).map (·.1)
     l.elim false (fun l => decide (bundleCheck laneS l noFlow b 0 = .exc 0x01 none)) = true ∧
       (regsOf (lane1 .scalar b)).tstat = 0x100 ∧ (ctxOf (lane1 .scalar b) 3 2).state = .waiting) ∧
    (let s := lane { regs with pc := 0x01000000 } noFlow
     (laneAt s 3).elim false (fun l => fetchBad l.1) = true ∧ (regsOf (ran (.isync 3 (bundle 0 0 0 (cSl 14 0))) s)).tstat = 0x300) ∧
    (let s := lane { regs with pc := 0x10000 } noFlow
     (laneAt s 3).elim none (fun l => fetchMiss s l.1 l.2) = some 0x200 ∧
       (ctxOf (ran (.isync 3 (bundle 0 0 0 (cSl 14 0))) s) 3 2).waitFor = .icache 0x200) ∧
    (let b := bundle 0 0 0 (cSl 5 (2 * 2 ^ 27))
     (laneAt laneS 3).elim false (fun l => decide (bundleCheck laneS l.1 l.2 b 0 = .wait 1 (.sync 0 7))) = true ∧
       (ctxOf (lane1 .sywait b) 3 2).state = .waiting ∧ (jobOf (lane1 .sywait b) jb.id).map (·.state) = some .suspended) ∧
    (let b := bundle 0 0 0 (cSl 15 0)
     let s := { laneS with tiles := [(3, { tile laneS 3 with sb := [{ addr := 0x1000601000, bytes := [1], poison := false }] })] }
     (laneAt s 3).elim false (fun l => decide (bundleCheck s l.1 l.2 b 0 = .stall false false)) = true ∧
       (ran (.done 3 b) s).tiles = s.tiles) := by decide +kernel

theorem witness_scalar_operations :
    (issues .scalar (bundle 0 (sSl 2 3 1 2) 0 0) 0 laneS = true ∧ sReg (lane1 .scalar (bundle 0 (sSl 2 3 1 2) 0 0)) 3 = 2 ^ 64 - 2) ∧
    (issues .pred (bundle 0 (sSl 0x25 3 0 0) 0 0) 0 laneS = true ∧
       mget 0 (regsOf (lane1 .pred (bundle 0 (sSl 0x25 3 0 0) 0 0))).p 3 = 0xFF) ∧
    (issues .vtake (bundle 0 (sImm 0x18 3 0 100) 0 0) 0 laneS = true ∧ sReg (lane1 .vtake (bundle 0 (sImm 0x18 3 0 100) 0 0)) 3 = 36 ∧
       (regsOf (lane1 .vtake (bundle 0 (sImm 0x18 3 0 100) 0 0))).vn = 64) ∧
    (issues .vform (bundle 0 (sImm 0x19 3 0 6) 0 0) 0 laneS = true ∧ (regsOf (lane1 .vform (bundle 0 (sImm 0x19 3 0 6) 0 0))).vn = 256 ∧
       (regsOf (lane1 .vform (bundle 0 (sImm 0x19 3 0 6) 0 0))).vfmt = 6) ∧
    (issues .addr (bundle 0 0 (aImm 1 2 1 0xFFFFF) 0) 0 laneS = true ∧
       aReg (lane1 .addr (bundle 0 0 (aImm 1 2 1 0xFFFFF) 0)) 2 = 0x1000600FFF) ∧
    (issues .addr (bundle 0 0 (aImm 5 2 0 3) 0) 0 laneS = true ∧ aReg (lane1 .addr (bundle 0 0 (aImm 5 2 0 3) 0)) 2 = 0x818000000000) ∧
    (let b := BitVec.ofNat 128 (8 * 2 ^ 124 + 1 * 2 ^ 112 + 4 * 2 ^ 107 + 1 * 2 ^ 105 + 0xFFFF123456789ABC * 2 ^ 40)
     issues .li b 0 laneS = true ∧ aReg (lane1 .li b) 4 = 0x123456789ABC) := by decide +kernel

theorem witness_vector_operations :
    (issues .vint (bundle 6 (vSl 1 2 1 1) 0 0) 0 laneS = true ∧ vReg (lane1 .vint (bundle 6 (vSl 1 2 1 1) 0 0)) 2 = 0xFFF8000600040002) ∧
    (issues .vint (bundle 6 (vImm 0x18 2 1 2 9) 0 0) 0 laneS = true ∧
       vReg (lane1 .vint (bundle 6 (vImm 0x18 2 1 2 9) 0 0)) 2 = 0xFFFC000300020001) ∧
    (issues .vcmp (bundle 6 (vImm 0x14 3 1 2 3) 0 0) 0 laneS = true ∧
       mget 0 (regsOf (lane1 .vcmp (bundle 6 (vImm 0x14 3 1 2 3) 0 0))).p 3 = 0xCF) ∧
    (issues .vperm (bundle 6 (vImm 0x1A 2 1 2 3) 0 0) 0 laneS = true ∧
       vReg (lane1 .vperm (bundle 6 (vImm 0x1A 2 1 2 3) 0 0)) 2 = 0xFFFCFFFCFFFCFFFC) ∧
    (issues .vcvt (bundle 6 (vImm 0x1B 2 1 0 2) 0 0) 0 laneS = true ∧ cvtWidth 0 = some 8 ∧ cvtWidth 1 = some 16 ∧
       vReg (lane1 .vcvt (bundle 6 (vImm 0x1B 2 1 0 2) 0 0)) 2 = 0xFC030201) ∧
    (let s := lane { regs with v := [(1, 0x40403F80)], vn := 2 } noFlow
     issues .vfloat (bundle 6 (vSl 0x1C 2 1 1) 0 0) 0 s = true ∧
       vReg (ran (.vectorFloat 3 (bundle 6 (vSl 0x1C 2 1 1) 0 0)) s) 2 = 0x40C04000) ∧
    (issues .vred (bundle 6 (vSl 0x22 2 1 0) 0 0) 0 laneS = true ∧ vReg (lane1 .vred (bundle 6 (vSl 0x22 2 1 0) 0 0)) 2 = 2) ∧
    (let s := lane { regs with v := [(1, 0x40403F80)], vn := 2 } noFlow
     issues .vfredsum (bundle 6 (vSl 0x25 2 1 0) 0 0) 0 s = true ∧
       vReg (ran (.vfredsum 3 (bundle 6 (vSl 0x25 2 1 0) 0 0)) s) 2 = 0x40800000) ∧
    (issues .vbexp (bundle 6 (vSl 0x26 4 1 0) 0 0) 0 laneS = true ∧ sReg (lane1 .vbexp (bundle 6 (vSl 0x26 4 1 0) 0 0)) 4 = 13) ∧
    (let s := lane { regs with vn := 0 } noFlow
     issues .vbexp (bundle 6 (vSl 0x26 4 1 0) 0 0) 0 s = true ∧
       sReg (ran (.vbexp 3 (bundle 6 (vSl 0x26 4 1 0) 0 0)) s) 4 = 0) := by decide +kernel

theorem witness_loads_and_stores :
    (issues .sload (bundle 9 (mSl 1 3 1 0) 0 0) 0 laneS = true ∧ sReg (lane1 .sload (bundle 9 (mSl 1 3 1 0) 0 0)) 3 = 2 ^ 64 - 128) ∧
    (issues .sstore (bundle 9 (mSl 9 1 1 2) 0 0) 0 laneS = true ∧
       ((tile (lane1 .sstore (bundle 9 (mSl 9 1 1 2) 0 0)) 3).sb.map fun e => (e.addr, e.bytes)) = [(0x1000601004, [5, 0])]) ∧
    (issues .vld (bundle 7 (mSl 0xC 2 1 0) 0 0) 0 laneS = true ∧ vReg (lane1 .vld (bundle 7 (mSl 0xC 2 1 0) 0 0)) 2 = 0x00020080) ∧
    (issues .vgather (bundle 7 (mSl 0xE 2 1 0) 0 0) 0 laneS = true ∧
       vReg (lane1 .vgather (bundle 7 (mSl 0xE 2 1 0) 0 0)) 2 = 0x0080008000800080) ∧
    (issues .vst (bundle 7 (mSl 0xD 1 1 0) 0 0) 0 laneS = true ∧
       rdBytes 0 (lane1 .vst (bundle 7 (mSl 0xD 1 1 0) 0 0)).mem 0x1000601000 9 = [1, 0, 2, 0, 3, 0, 0xFC, 0xFF, 0]) ∧
    (let c := Instr.vst 3 (bundle 7 (mSl 0xD 1 1 0) 0 0)
     let w := 0x1000601000 / 8
     let at_ := fun (r : Regs) => mget false (ran c { laneS with tiles := (lane r noFlow).tiles, spPoison := [(w, true)] }).spPoison w
     at_ regs = false ∧ at_ { regs with vn := 3 } = true ∧ at_ { regs with vPoison := [(1, 4)] } = true) ∧
    (issues .vscatter (bundle 7 (mSl 0xF 1 1 0) 0 0) 0 laneS = true ∧
       rdBytes 0 (lane1 .vscatter (bundle 7 (mSl 0xF 1 1 0) 0 0)).mem 0x1000601000 3 = [0xFC, 0xFF, 2]) ∧
    (let s := lane { regs with a := [(1, 0x80)], pc := 0x8000 } noFlow
     issues .ist (bundle 7 (mSl 0x10 1 1 0) 0 0) 0 s = true ∧
       (ran (.ist 3 (bundle 7 (mSl 0x10 1 1 0) 0 0)) s).iram = [] ∧
       (tile (ran (.ist 3 (bundle 7 (mSl 0x10 1 1 0) 0 0)) s) 3).istq = [(0x80, natLE 128 vOne.toNat)]) := by decide +kernel

/-- HALO queue 7 of the job, which fills entry 0; a4 is its slot. -/
def haloQ : Queue :=
  { Queue.free with
    alloc := true, decl := { Queue.free.decl with queue := 7, kind := 2, depth := 4, slotRows := 1, handle := 9, refs := 1, sync := 2 }
    prod := .job jb.id, cons := .job jb.id, slots := [(0, { Slot.zero with state := .filling, refs := [jb.id] })], tail := 1 }
def haloS (ps : List (Nat × Bool)) : State :=
  { lane { regs with a := [(4, BitVec.ofNat 48 (slotRef haloQ 0))] } noFlow with
    objs := [(2, { SyncObj.free with alloc := true, kind := 3 })], queues := [(7, haloQ)], spPoison := ps }

theorem witness_branches_sync_and_queues :
    (issues .br (bundle 0 0 0 (cSl 1 (2 * 2 ^ 24 + 2 ^ 27 + 0xFFFFFE))) 0 laneS = true ∧
       (ctxOf (lane1 .br (bundle 0 0 0 (cSl 1 (2 * 2 ^ 24 + 2 ^ 27 + 0xFFFFFE)))) 3 2).flow = { noFlow with slot := some 0x20, inSlot := true }) ∧
    (issues .call (bundle 0 0 0 (cSl 2 4)) 0 laneS = true ∧ sReg (lane1 .call (bundle 0 0 0 (cSl 2 4))) 31 = 0x60) ∧
    (issues .jr (bundle 0 0 0 (cSl 3 (2 ^ 27 + 3 * 2 ^ 22))) 0 laneS = true ∧
       sReg (lane1 .jr (bundle 0 0 0 (cSl 3 (2 ^ 27 + 3 * 2 ^ 22)))) 3 = 0x60 ∧
       (ctxOf (lane1 .jr (bundle 0 0 0 (cSl 3 (2 ^ 27 + 3 * 2 ^ 22)))) 3 2).flow.slot = some 5) ∧
    (issues .rpt (bundle 0 0 0 (cSl 4 (2 ^ 26 + 2))) (bundle 6 (vSl 7 2 1 1) 0 0) laneS = true ∧
       (ctxOf (ran (.rpt 3 (bundle 0 0 0 (cSl 4 (2 ^ 26 + 2))) (bundle 6 (vSl 7 2 1 1) 0 0)) laneS) 3 2).flow.rpt = 3) ∧
    (let s := lane { regs with s := [] } noFlow
     let b := bundle 0 0 0 (cSl 4 (1 * 2 ^ 27))
     issues .rpt b 0 s = true ∧ (regsOf (ran (.rpt 3 b 0) s)).pc = 0x60) ∧
    (issues .sywait (bundle 0 0 0 (cSl 5 (1 * 2 ^ 27))) 0 laneS = true ∧ (regsOf (lane1 .sywait (bundle 0 0 0 (cSl 5 (1 * 2 ^ 27))))).pc = 0x50) ∧
    (issues .syadd (bundle 0 0 0 (cSl 6 (2 * 2 ^ 27))) 0 laneS = true ∧ (obj (lane1 .syadd (bundle 0 0 0 (cSl 6 (2 * 2 ^ 27)))) 0).count = 12) ∧
    (issues .syadd (bundle 0 0 0 (cSl 6 (2 * 2 ^ 27 + 2 ^ 13))) 0 laneS = true ∧
       (obj (lane1 .syadd (bundle 0 0 0 (cSl 6 (2 * 2 ^ 27 + 2 ^ 13)))) 1).count = 0 ∧
       (jobOf (lane1 .syadd (bundle 0 0 0 (cSl 6 (2 * 2 ^ 27 + 2 ^ 13)))) jb.id).map (·.adds) = some [(1, 7)]) ∧
    (issues .hqpush (bundle 0 0 0 (cSl 8 (4 * 2 ^ 28 + 7 * 2 ^ 16))) 0 laneS = true ∧
       aReg (lane1 .hqpush (bundle 0 0 0 (cSl 8 (4 * 2 ^ 28 + 7 * 2 ^ 16)))) 4 = 0x848000000080 ∧
       (queue (lane1 .hqpush (bundle 0 0 0 (cSl 8 (4 * 2 ^ 28 + 7 * 2 ^ 16)))) 7).tail = 2) ∧
    (let s := haloS []
     let b := bundle 0 0 0 (cSl 8 (4 * 2 ^ 28 + 7 * 2 ^ 16))
     issues .hqpush b 0 s = true ∧ (queue (ran (.hqpush 3 b) s) 7).tail = 2 ∧ (slot (queue (ran (.hqpush 3 b) s) 7) 0).state = .full ∧
       (obj (ran (.hqpush 3 b) s) 2).count = 1) ∧
    (let s := haloS [(slotAddr (haloS []) haloQ 0 / 8, true)]
     let b := bundle 0 0 0 (cSl 8 (4 * 2 ^ 28 + 7 * 2 ^ 16))
     issues .hqpush b 0 s = true ∧ slotPoisoned s haloQ 0 = true ∧
       (jobOf (ran (.hqpush 3 b) s) jb.id).map (fun j => (j.poisonOut, j.abortOrder)) = some (true, some 0)) ∧
    (let s := { haloS [] with objs := [(2, { SyncObj.free with alloc := true, kind := 3, count := 1 })] }
     let b := bundle 0 0 0 (cSl 9 (4 * 2 ^ 28 + 7 * 2 ^ 16))
     issues .hqpop b 0 s = true ∧ mget 0 (queue (ran (.hqpop 3 b) s) 7).hpos 5 = 1 ∧ (queue (ran (.hqpop 3 b) s) 7).head = 1) ∧
    (issues .hqpop (bundle 0 0 0 (cSl 9 (4 * 2 ^ 28 + 7 * 2 ^ 16))) 0 laneS = true ∧
       aReg (lane1 .hqpop (bundle 0 0 0 (cSl 9 (4 * 2 ^ 28 + 7 * 2 ^ 16)))) 4 = 0x848000000000 ∧
       (slot (queue (lane1 .hqpop (bundle 0 0 0 (cSl 9 (4 * 2 ^ 28 + 7 * 2 ^ 16)))) 7) 0).state = .draining) ∧
    (let s := lane1 .hqpop (bundle 0 0 0 (cSl 9 (4 * 2 ^ 28 + 7 * 2 ^ 16)))
     issues .hqrel (bundle 0 0 0 (cSl 10 (4 * 2 ^ 28 + 7 * 2 ^ 16))) 0 s = true ∧
       (slot (queue (ran (.hqrel 3 (bundle 0 0 0 (cSl 10 (4 * 2 ^ 28 + 7 * 2 ^ 16)))) s) 7) 0).state = .released) := by decide +kernel

theorem witness_emit_array_and_end :
    (let s := { laneS with spPoison := [(0x1000601008 / 8, true)] }
     let b := bundle 0 0 0 (cSl 11 (2 ^ 28 + 2 ^ 22))
     issues .emit b 0 s = true ∧ (jobOf (ran (.emit 3 b) s) jb.id).map (fun k => (k.staged, k.poisonOut, k.abortOrder)) =
       some ([], true, some 0)) ∧
    (let s := { laneS with tiles := [(3, { tile laneS 3 with istq := [(0x80, [1, 2]), (0x81, [3])], icache := [(5, [])] })] }
     (ran (.isync 3 (bundle 0 0 0 (cSl 14 1))) s).iram = [(iramKey 3 0x80, 1), (iramKey 3 0x81, 3)] ∧
       (tile (ran (.isync 3 (bundle 0 0 0 (cSl 14 1))) s) 3).icache = []) ∧
    (issues .emit (bundle 0 0 0 (cSl 11 (2 ^ 28 + 2 ^ 22))) 0 laneS = true ∧
       ((jobOf (lane1 .emit (bundle 0 0 0 (cSl 11 (2 ^ 28 + 2 ^ 22)))) jb.id).map fun k => (k.staged.length, k.emits)) = some (1, 1)) ∧
    (issues .mxRun (bundle 0 0 0 (cSl 12 (2 ^ 28 + 2 ^ 24 + 2 ^ 20 + 3))) 0 laneS = true ∧
       ((tile (lane1 .mxRun (bundle 0 0 0 (cSl 12 (2 ^ 28 + 2 ^ 24 + 2 ^ 20 + 3)))) 3).mxq.map fun e => (runBlocks e.cmd, e.attempt)) = [(4, 1)]) ∧
    (issues .mxCbload (bundle 0 0 0 (cSl 12 (2 * 2 ^ 28 + 2 ^ 24 + 1))) 0 laneS = true ∧
       ((tile (lane1 .mxCbload (bundle 0 0 0 (cSl 12 (2 * 2 ^ 28 + 2 ^ 24 + 1)))) 3).mxq.map (·.cmd)) = [.cbload 2 true false 0x1000601000 0x40]) ∧
    (let s := lane { regs with s := [(1, 9), (2, 0)] } noFlow
     let s := { s with objs := laneS.objs }
     issues .mxSignal (bundle 0 0 0 (cSl 12 (3 * 2 ^ 28 + 1 * 2 ^ 15 + 2 * 2 ^ 10))) 0 s = true ∧
       ((tile (ran (.mxSignal 3 (bundle 0 0 0 (cSl 12 (3 * 2 ^ 28 + 1 * 2 ^ 15 + 2 * 2 ^ 10)))) s) 3).mxq.map (·.cmd)) = [.signal 2 0 9 0x40]) ∧
    (issues .mxfence (bundle 0 0 0 (cSl 13 0)) 0 laneS = true ∧ (tile laneS 3).mxq.any (fun e => e.job = jb.id) = false ∧
       (regsOf (lane1 .mxfence (bundle 0 0 0 (cSl 13 0)))).pc = 0x50) ∧
    (issues .isync (bundle 0 0 0 (cSl 14 1)) 0 laneS = true ∧ (regsOf (lane1 .isync (bundle 0 0 0 (cSl 14 1)))).pc = 0x50) ∧
    (issues .done (bundle 0 0 0 (cSl 15 0)) 0 laneS = true ∧ (jobOf (lane1 .done (bundle 0 0 0 (cSl 15 0))) jb.id).map (·.ended) = some true ∧
       (tile (lane1 .done (bundle 0 0 0 (cSl 15 0))) 3).running = none) := by decide +kernel

/-! ### Faults of a task, debug, and the multiply array -/

/-- A faulted context whose last exception is `cause` at handle `h`. -/
def faulty (cause h o n : Nat) : Ctx :=
  { Ctx.empty with
    job := some jb.id, attempt := 1, state := .faulted, faultAt := some (h, o, n),
    regs := { Regs.zero with tstat := BitVec.ofNat 32 (cause * 256) } }

/-- Tile 3 with a context and one handle entry. -/
def withHandle (e : Nat) (x : Handle) (k : Ctx) : State :=
  { lane Regs.zero noFlow with tiles := [(3, { Tile.zero with ctxs := [(2, k)], handles := [(e, x)] })] }

theorem witness_task_faults_and_debug :
    (let x := { Handle.empty with valid := true, len := 1, maxlen := 4, bank := 2 }
     let s := withHandle 160 x (faulty 4 128 100 64)
     ctxJob s 3 2 = some jb ∧ handleOf s 3 (entryOf 2 128) = x ∧ 128 * x.len < 100 + 64 ∧ 100 + 64 ≤ 128 * x.maxlen ∧
       (ctxOf (ran (.taskFaultHandler 3 2) s) 3 2).state = .ready ∧
       (handleOf (ran (.taskFaultHandler 3 2) s) 3 160).len = 2) ∧
    (let x := { Handle.empty with valid := true, len := 1, maxlen := 4, copy := some 0x4000 }
     let s := withHandle 7 x (faulty 6 7 0 4)
     (handleOf s 3 (entryOf 2 7)).copy.isSome = true ∧ (ctxOf (ran (.taskFaultHandler 3 2) s) 3 2).state = .ready ∧
       (handleOf (ran (.taskFaultHandler 3 2) s) 3 7).filling = true) ∧
    (let x := { Handle.empty with valid := true, len := 1, maxlen := 1 }
     let s := withHandle 160 x (faulty 4 128 100 64)
     holdsPlace jb = true ∧ jb.abortOrder = none ∧ (ctxOf (ran (.taskFaultHandler 3 2) s) 3 2).state = .waiting ∧
       (jobOf (ran (.taskFaultHandler 3 2) s) jb.id).map (·.abortOrder) = some (some 4)) ∧
    (let s := { lane Regs.zero noFlow with tiles := [(3, { Tile.zero with ctxs := [(2, { faulty 4 0 0 0 with faultAt := none })] })] }
     (ctxOf s 3 2).faultAt = none ∧ (ctxOf (ran (.taskFaultHandler 3 2) s) 3 2).state = .waiting ∧
       (jobOf (ran (.taskFaultHandler 3 2) s) jb.id).map (·.abortOrder) = some (some 4)) ∧
    (let s := lane regs noFlow
     let s := { s with sec := { s.sec with scopes := 2 } }
     s.sec.scopes.getLsbD 1 = true ∧ (tile s 3).running = some 2 ∧ (ctxOf s 3 2).state = .running ∧
       (ctxOf (ran (.debugHalt 3) s) 3 2).state = .halted ∧ (ctxOf (ran (.debugHalt 3) s) 3 2).regs = (ctxOf s 3 2).regs) ∧
    (let s := lane regs { noFlow with inSlot := true }
     let s := { s with sec := { s.sec with scopes := 2 } }
     (ctxOf s 3 2).flow.inSlot = true ∧ (ctxOf (ran (.debugHalt 3) s) 3 2).state = .running ∧
       (tile (ran (.debugHalt 3) s) 3).haltReq = some 2) ∧
    (let s := lane regs noFlow
     let s := withCtx { s with sec := { s.sec with scopes := 2 } } { ctxOf s 3 2 with state := .halted }
     (tile s 3).running = some 2 ∧ (ctxOf s 3 2).state = .halted ∧
       (ctxOf (ran (.debugResume (some 3) none true) s) 3 2).state = .running ∧
       (tile (ran (.debugResume (some 3) none true) s) 3).haltReq = some 2) ∧
    (let s := { up with sec := { up.sec with scopes := 1 }, cores := [(4, { Core.zero with run := .halted })] }
     s.sec.scopes.getLsbD 0 = true ∧ (coreNo s 4).run = .halted ∧
       coreNo (ran (.debugResume none (some 4) true) s) 4 = { Core.zero with run := .running, step := true }) := by decide +kernel

/-- A run of one block: INT8 by INT8 to INT8, one position, one channel, K = 4; activations 1, 2, 3, 4, weights 1, 1, 1, -1,
output scale 3. -/
def run1 (desc : Nat) : MxEntry :=
  { cmd := .run 2 1 desc 0x1000600000 0x1000680000 0x1000640000 0x40, job := jb.id, attempt := 1, started := 0, doneBlocks := 0,
    run := none, banks := [], issue := 0 }

/-- The run's operands in the scratchpad of tile 3. -/
def runMem : List Host.Cell :=
  [(0x1000600000, 1), (0x1000600001, 2), (0x1000600002, 3), (0x1000600003, 4), (0x100060008E, 0x41), (0x1000600090, 1),
   (0x1000600092, 1), (0x1000600094, 1), (0x10006000B9, 2), (0x10006000BA, 0x68), (0x10006000BC, 0x10), (0x1000680000, 1),
   (0x1000680001, 1), (0x1000680080, 1), (0x1000680081, 0xFF), (0x1000680200, 3)]

/-- Tile 3 with array commands. -/
def mxS (l : List MxEntry) : State :=
  { lane Regs.zero noFlow with mem := runMem, tiles := [(3, { tile (lane Regs.zero noFlow) 3 with mxq := l })] }

/-- The operands of the run at the head of tile 3's queue. -/
def mxRun (s : State) : Option RunAt :=
  match (tile s 3).mxq with
  | e :: _ => match checkEntry s 3 jb (tmpl 5 4) e with
    | .ok r => some r
    | .error _ => none
  | [] => none

def runAt : RunAt :=
  (mxRun (mxS [run1 0x1000600080])).getD ⟨readRunDesc 0, 0, 0, 0, 0, 0, 0, 0, 0, 0, CodeBook.none, none, 0, [], [], []⟩

/-- The same with a scale group, whose block at 0x1000680300 holds another tag. -/
def runSk : RunAt := { runAt with d := { runAt.d with group := 1, n0 := 32 }, sc := 0x1000680300, tag := 1 }

theorem witness_multiply_array :
    (let s := mxS [run1 0x1000600080]
     nextRun (tile s 3).mxq = some (run1 0x1000600080, 0) ∧ jobOf s jb.id = some jb ∧ (tmplOf s jb).isSome = true ∧
       ((tile s 3).mxq.map fun x => x.started - x.doneBlocks).sum < 2 ∧
       measurePending s 3 jb 0 (entryOp s 3 0 (run1 0x1000600080)) = false ∧
       (mxRun s).elim false (fun r => decide (tableCheck r = none ∧ scaleCheck s r = none)) = true ∧
       (tile (ran (.mxBlockStart 3) s) 3).mxq = [{ run1 0x1000600080 with started := 1, run := mxRun s, banks := [0] }] ∧
       (tile (ran (.mxBlockStart 3) s) 3).mxBank = 0) ∧
    (let s := mxS [run1 0x1000600084]
     nextRun (tile s 3).mxq = some (run1 0x1000600084, 0) ∧
       (match checkEntry s 3 jb (tmpl 5 4) (run1 0x1000600084) with
        | .ok _ => 0
        | .error c => c) = 0x12 ∧ holdsPlace jb = true ∧
       (jobOf (ran (.mxBlockStart 3) s) jb.id).map (·.abortOrder) = some (some 0x12) ∧ (tile (ran (.mxBlockStart 3) s) 3).mxq = []) ∧
    (let s := { mxS [run1 0x1000600080] with mem := runMem ++ [(0x1000680203, 1)] }
     (mxRun s).elim none (fun r => tableCheck r) = some 0x10 ∧
       (jobOf (ran (.mxBlockStart 3) s) jb.id).map (·.abortOrder) = some (some 0x10)) ∧
    (let s := mxS [{ run1 0x1000600080 with run := some runSk }]
     tableCheck runSk = none ∧ scaleCheck s runSk = some 0x14 ∧
       (jobOf (ran (.mxBlockStart 3) s) jb.id).map (·.abortOrder) = some (some 0x14)) ∧
    (let e := { run1 0x1000600080 with started := 1, run := some runAt, banks := [0] }
     let s := mxS [e]
     ((tile s 3).mxq.zipIdx.find? fun x => x.1.doneBlocks < x.1.started) = some (e, 0) ∧ scaleCheck s runAt = none ∧
       (tile s 3).inject = false ∧ (tile (ran (.mxBlockComplete 3 none) s) 3).mxq = [] ∧
       mget 0 (ran (.mxBlockComplete 3 none) s).mem 0x1000640000 = 6) ∧
    (let e := { run1 0x1000600080 with started := 1, run := some runAt, banks := [0], cmd := .run 2 2 0x1000600080 0x1000600000 0x1000680000 0x1000640000 0x40 }
     ((tile (ran (.mxBlockComplete 3 none) (mxS [e])) 3).mxq.map fun x => (x.doneBlocks, x.banks)) = [(1, [])]) ∧
    (let s := { mxS [run1 0x1000600080] with mem := runMem ++ [(0x1000680203, 1)] }
     (match checkEntry s 3 jb (tmpl 5 4) (run1 0x1000600080) with
      | .ok r => tableCheck r
      | .error _ => none) = some 0x10) ∧
    (let e := { run1 0x1000600080 with started := 1, run := some runAt, banks := [0] }
     let s := mxS [e]
     let f : MxFault := { chan := 0, pos := 0, stage := .scaled, delta := 1 }
     scaleCheck s runAt = none ∧ faultFound s runAt 0 f = true ∧ (tile (ran (.mxBlockComplete 3 (some f)) s) 3).mxq = [] ∧
       mget 0 (ran (.mxBlockComplete 3 (some f)) s).mem 0x1000640000 = 0 ∧ source (ran (.mxBlockComplete 3 (some f)) s) 259 = .pending ∧
       (jobOf (ran (.mxBlockComplete 3 (some f)) s) jb.id).map (·.abortOrder) = some (some 0x15)) ∧
    (let e := { run1 0x1000600080 with started := 1, run := some runAt, banks := [0] }
     let s := mxS [e]
     let f : MxFault := { chan := 0, pos := 0, stage := .scaled, delta := 7 * 2 ^ 10 }
     faultFound s runAt 0 f = false ∧ (tile (ran (.mxBlockComplete 3 (some f)) s) 3).mxq = []) ∧
    (let e := { run1 0x1000600080 with started := 1, run := some runAt, banks := [0] }
     let s0 := mxS [e]
     let s := { s0 with tiles := [(3, { tile s0 3 with inject := true })] }
     scaleCheck s runAt = none ∧ (tile s 3).inject = true) :=
  by decide +kernel

theorem witness_codebooks_and_blocks :
    (let s := mxS [{ run1 0x1000600080 with started := 1, run := some runSk, banks := [0] }]
     scaleCheck s runSk = some 0x14 ∧ (jobOf (ran (.mxBlockComplete 3 none) s) jb.id).map (·.abortOrder) = some (some 0x14)) ∧
    (let e : MxEntry := { run1 0 with cmd := .cbload 2 false true 0x1000680000 0x40 }
     let s := { mxS [e] with mem := [(0x1000680000, 0x80), (0x1000680001, 0x7F)] }
     convertBook true false ((upto 16).map fun i => (spNat s (0x1000680000 + 2 * i) 2).1) = none ∧
       (jobOf (ran (.mxCbloadComplete 3) s) jb.id).map (·.abortOrder) = some (some 0x13)) ∧
    (let s := mxS [{ run1 0 with cmd := .cbload 2 false false 0x1000680001 0x40 }]
     (jobOf (ran (.mxCbloadComplete 3) s) jb.id).map (·.abortOrder) = some (some 0x12)) ∧
    (let e : MxEntry := { run1 0 with cmd := .cbload 2 false false 0x1000680000 0x40 }
     let s := mxS [e]
     ((tile s 3).mxq.zipIdx.find? fun x => match x.1.cmd with | .cbload .. => true | _ => false) = some (e, 0) ∧
       mxExtent s 3 2 0 0x1000680000 0 (2 * 16 : Nat) false = some (0x1000680000, 2) ∧
       (mget CodeBook.none (tile (ran (.mxCbloadComplete 3) s) 3).cbs 2).valid = true ∧
       (mget CodeBook.none (tile (ran (.mxCbloadComplete 3) s) 3).cbs 2).entries.take 2 = [257, 0]) ∧
    (let e : MxEntry := { run1 0 with cmd := .signal 2 4 9 0x40 }
     let s := { mxS [e] with objs := [(4, { SyncObj.free with alloc := true, kind := 2, count := 5 })] }
     (obj s 4).kind ≠ 0 ∧ (obj (ran (.mxSignalAdd 3) s) 4).count = 14 ∧ (tile (ran (.mxSignalAdd 3) s) 3).mxq = []) ∧
    (let e : MxEntry := { run1 0 with cmd := .signal 2 4 9 0x40 }
     let s := { mxS [e] with objs := [(4, { SyncObj.free with alloc := true, kind := 0, count := 5 })] }
     (obj s 4).kind = 0 ∧ (obj (ran (.mxSignalAdd 3) s) 4).count = 5 ∧ (tile (ran (.mxSignalAdd 3) s) 3).mxq = []) ∧
    (let s := mxS []
     answers s 0xF01308 = true ∧ (3 : Fin 256).val < s.grid.enabled ∧ (tile (ran (.residueInject 3) s) 3).inject = true) :=
  by decide +kernel

/-! ### Stream engines -/

/-- A copy of 16 bytes from bank 0 to bank 1 of tile 3. -/
def sd : SDesc :=
  { srcMode := 0, dstMode := 0, dims := 0, frc := 0, frcEl := 0, bar := false, last := true, m5c := false, urg := 0, cmpl := 0, urgv := 0,
    len0 := 16, src := 0x1000600000, dst := 0x1000640000, cnt1 := 1, cnt2 := 1, cnt3 := 1, sstr := [0, 0, 0], dstr := [0, 0, 0],
    tag := 0, tagStep := 0, hent := 0, hentEn := false, so := 0, soAdd := 0, waitSo := 0, waitEn := false, waitVal := 0, ring := 0,
    hiWm := 0, loWm := 0, user := 0, reservedOk := true }

def sf (d : SDesc) : SFetched := { addr := 0x2000, d := d, poison := false }

/-- Context 5 of engine 1, on a grid that serves. -/
def se (k : SCtx) : State :=
  { setF up Reg.SE_ENG_CTL_EN 1 0 1 with grid := { failed := [], cold := [], rows := 16, enabled := 256 }, sctx := [(69, k)] }

/-- A host's context. -/
def hk : SCtx := { SCtx.free with holder := .host, state := .running }

def rd0 : SRead :=
  { desc := 0x2000, at_ := 0, len := 16, addr := 0x1000600000, tag := none, discard := false, dev := 16, back := none,
    job := 0, attempt := 0 }

theorem witness_stream_context_commands :
    (let s := se SCtx.free
     answers s 0xE02000 = true ∧ (sctx s 1 5).holder = .none ∧
       sctx (ran (.seCtxArm 1 5 0x2050) s) 1 5 = { SCtx.free with holder := .host, state := .running, armed := some 0x2000 }) ∧
    (let s := se hk
     (sctx s 1 5).holder = .host ∧ (sctx s 1 5).shadow = none ∧ (sctx (ran (.seCtxArm 1 5 0x2050) s) 1 5).shadow = some 0x2000) ∧
    (let s := se { hk with holder := .job 9 }
     (sctx s 1 5).holder = .job 9 ∧ getF (ran (.seCtxArm 1 5 0x2050) s) Reg.SE_CNT_HOST_REFUSED 1 0 = 1) ∧
    (let s := se { hk with shadow := some 0x4000 }
     (sctx s 1 5).shadow = some 0x4000 ∧ (ran (.seCtxArm 1 5 0x2050) s).sctx = s.sctx ∧
       getF (ran (.seCtxArm 1 5 0x2050) s) Reg.SE_CTX_STAT_REARM_REJ 1 5 = 1 ∧ getF (ran (.seCtxArm 1 5 0x2050) s) Reg.SE_CNT_REARM_REJ 1 0 = 1) ∧
    (let s := se { hk with holder := .plan 2 }
     (sctx s 1 5).holder = .plan 2 ∧ getF (ran (.seCtxArm 1 5 0x2050) s) Reg.SE_CNT_HOST_REFUSED 1 0 = 1 ∧
       getF (ran (.seCancel 1 5) s) Reg.SE_CNT_HOST_REFUSED 1 0 = 1) ∧
    (let s := se { hk with armed := some 0x2000 }
     (sctx s 1 5).reads = [] ∧ (sctx s 1 5).run = [] ∧ sctx (ran (.seCancel 1 5) s) 1 5 = SCtx.free) ∧
    (let s := se { hk with run := [{ runOf (sf sd) with issued := 16 }], reads := [rd0] }
     answers s 0xE02030 = true ∧ (sctx s 1 5).reads ≠ [] ∧ (∀ r, (sctx s 1 5).run.head? = some r → r.landed ≠ walkBytes r.f.d) ∧
       (sctx (ran (.seCancel 1 5) s) 1 5).state = .draining ∧ (sctx (ran (.seCancel 1 5) s) 1 5).reads = [{ rd0 with discard := true }]) ∧
    (let s := se { hk with state := .halted }
     (sctx s 1 5).state = .halted ∧ (sctx (ran (.seResume 1 5) s) 1 5).state = .running) ∧
    (let d := { sd with dstMode := 2, dst := 7, hiWm := 2, loWm := 1 }
     let full : Slot := { Slot.zero with state := .full }
     let s := { se { hk with run := [runOf (sf d)] } with queues := [(7, { Queue.free with alloc := true, slots := [(0, full), (1, full)] })] }
     issuing (sctx s 1 5) = some (runOf (sf d)) ∧ sideQueue d true = some 7 ∧ d.hiWm ≠ 0 ∧ d.hiWm ≤ fullSlots (queue s 7) ∧
       (sctx (ran (.pacingUpdate 1 5) s) 1 5).paced = true) ∧
    (let d := { sd with dstMode := 2, dst := 7, hiWm := 2, loWm := 1 }
     let s := { se { hk with run := [runOf (sf d)], paced := true } with
       queues := [(7, { Queue.free with alloc := true, slots := [(0, { Slot.zero with state := .full })] })] }
     fullSlots (queue s 7) < d.hiWm ∧ fullSlots (queue s 7) ≤ d.loWm ∧ (sctx (ran (.pacingUpdate 1 5) s) 1 5).paced = false) ∧
    (let d := { sd with dstMode := 2, dst := 7, hiWm := 3, loWm := 1 }
     let full : Slot := { Slot.zero with state := .full }
     let s := { se { hk with run := [runOf (sf d)], paced := true } with
       queues := [(7, { Queue.free with alloc := true, slots := [(0, full), (1, full)] })] }
     fullSlots (queue s 7) < d.hiWm ∧ d.loWm < fullSlots (queue s 7) ∧ (sctx (ran (.pacingUpdate 1 5) s) 1 5).paced = true) := by
  decide +kernel

theorem witness_stream_descriptors :
    (let s := { se { hk with armed := some 0x2000 } with mem := [(0x2001, 4), (0x2004, 15)] }
     (sctx s 1 5).armed = some 0x2000 ∧ seEn s 1 = true ∧ region s 0x2000 = .dram ∧
       ((sctx (ran (.seBatchFetch 1 5) s) 1 5).batch.map fun f => (f.addr, f.d.len0, f.d.last)) = [(0x2000, 16, true)] ∧
       (sctx (ran (.seBatchFetch 1 5) s) 1 5).armed = none) ∧
    (let s := se { hk with armed := some 0x3000000000 }
     region s 0x3000000000 ≠ .dram ∧ (sctx (ran (.seBatchFetch 1 5) s) 1 5).armed = none ∧ (sctx (ran (.seBatchFetch 1 5) s) 1 5).last = 3) ∧
    (let s := se { hk with armed := some 0x2000 }
     region s 0x2000 = .dram ∧ (sctx (ran (.seBatchFetch 1 5) s) 1 5).batch = [] ∧ (sctx (ran (.seBatchFetch 1 5) s) 1 5).last = 2) ∧
    (let s := se { hk with batch := [{ sf sd with poison := true }] }
     (sctx s 1 5).run = [] ∧ (sctx (ran (.seDescStart 1 5) s) 1 5).last = 6 ∧ (sctx (ran (.seDescStart 1 5) s) 1 5).batch = []) ∧
    (let d := { sd with waitEn := true, waitSo := 1, waitVal := 2 }
     let s := { se { hk with batch := [sf d] } with
       plans := [(0, planOf [])], objs := [(1, { SyncObj.free with alloc := true, kind := 1, count := 1 })] }
     badDesc s (sctx s 1 5) d = false ∧ syncMet s 1 2 = false ∧ (sctx (ran (.seDescStart 1 5) s) 1 5).state = .waiting ∧
       fld (ran (.seDescStart 1 5) s) Reg.SY_WAITERS_HWM = 1) ∧
    (let d := { sd with dstMode := 2, dst := 7, len0 := 128 }
     let s := { se { hk with batch := [sf d] } with
       plans := [(0, planOf [])]
       queues := [(7, { Queue.free with alloc := true, decl := { Queue.free.decl with queue := 7, depth := 4, slotRows := 1, prod := 1 },
                                        prod := .stream 0 0 })] }
     badDesc s (sctx s 1 5) d = false ∧ badAddress s d = false ∧ endFree s (sctx s 1 5) 1 5 d true = false ∧
       (sctx (ran (.seDescStart 1 5) s) 1 5).state = .waiting) ∧
    (let s := se { hk with batch := [sf sd] }
     (sctx s 1 5).batch = [sf sd] ∧ allIssued (sctx s 1 5) = true ∧ badDesc s (sctx s 1 5) sd = false ∧ badAddress s sd = false ∧
       endFree s (sctx s 1 5) 1 5 sd false = true ∧ endFree s (sctx s 1 5) 1 5 sd true = true ∧
       sctx (ran (.seDescStart 1 5) s) 1 5 = { hk with run := [runOf (sf sd)] }) ∧
    (let d := { sd with bar := true }
     let s := se { hk with batch := [sf d], run := [{ runOf (sf sd) with issued := 16 }] }
     allIssued (sctx s 1 5) = true ∧ (sctx s 1 5).run ≠ [] ∧ (sctx (ran (.seDescStart 1 5) s) 1 5).state = .waiting) ∧
    (let d := { sd with reservedOk := false }
     let s := se { hk with batch := [sf d] }
     badDesc s (sctx s 1 5) d = true ∧ (sctx (ran (.seDescStart 1 5) s) 1 5).last = 2 ∧
       (sctx (ran (.seDescStart 1 5) s) 1 5).batch = []) ∧
    (let d := { sd with dst := 0xF00000000 }
     let s := se { hk with batch := [sf d] }
     badDesc s (sctx s 1 5) d = false ∧ badAddress s d = true ∧ (sctx (ran (.seDescStart 1 5) s) 1 5).last = 3) ∧
    (let r := { runOf (sf sd) with issued := 16, landed := 16 }
     let s := se { hk with run := [r] }
     (sctx s 1 5).run = [r] ∧ r.landed = walkBytes r.f.d ∧ (sctx (ran (.seDescComplete 1 5) s) 1 5).last = 0 ∧
       (sctx (ran (.seDescComplete 1 5) s) 1 5).run = []) ∧
    (let r := { runOf (sf sd) with issued := 16, stopped := some 5 }
     let s := se { hk with run := [r] }
     (sctx s 1 5).reads = [] ∧ (sctx (ran (.seDescComplete 1 5) s) 1 5).last = 5) ∧
    (let r := { runOf (sf sd) with issued := 16, stopped := some 5 }
     let s := se { hk with run := [r], reads := [rd0] }
     r.stopped ≠ none ∧ (sctx (ran (.seDescComplete 1 5) s) 1 5).reads = [{ rd0 with discard := true }]) := by decide +kernel

/-- Queue 7 with a slot in a state, both ends the stream context's. -/
def queued7 (k : SlotState) (e : QEnd) : Queue :=
  { Queue.free with
    alloc := true, decl := { Queue.free.decl with queue := 7, depth := 4, slotRows := 1 }, prod := e, cons := e
    slots := [(0, { Slot.zero with state := k })] }

theorem witness_stream_reads :
    (let s := se { hk with run := [runOf (sf sd)] }
     pickCtx s 1 = some 5 ∧ issuing (sctx s 1 5) = some (runOf (sf sd)) ∧ sideQueue sd false = none ∧ sideQueue sd true = none ∧
       (sctx (ran (.seReadIssue 1) s) 1 5).reads = [rd0]) ∧
    (let d := { sd with src := 0x3000000040 }
     let s := setF (se { hk with run := [runOf (sf d)] }) Reg.HL_HOST_WIN_SIZE 0 0 4096
     pickCtx s 1 = some 5 ∧ isHostAddr s 0x3000000040 = true ∧
       (sctx (ran (.seReadIssue 1) s) 1 5).reads = [{ rd0 with addr := 0x3000000040, tag := some 0 }]) ∧
    (let d := { sd with srcMode := 2, src := 7, len0 := 128 }
     let s := { se { hk with run := [runOf (sf d)] } with queues := [(7, queued7 .full (.stream 1 5))] }
     pickCtx s 1 = some 5 ∧ sideQueue d false = some 7 ∧ (slot (queue (ran (.seReadIssue 1) s) 7) 0).state = .draining ∧
       (sctx (ran (.seReadIssue 1) s) 1 5).reads.length = 1) ∧
    (let d := { sd with dstMode := 2, dst := 7, len0 := 128 }
     let s := { se { hk with run := [runOf (sf d)] } with queues := [(7, queued7 .empty (.stream 1 5))] }
     pickCtx s 1 = some 5 ∧ sideQueue d true = some 7 ∧ (slot (queue (ran (.seReadIssue 1) s) 7) 0).state = .filling) ∧
    (let s := se { hk with state := .draining, run := [{ runOf (sf sd) with issued := 16 }], reads := [{ rd0 with discard := true }] }
     (sctx (ran (.seReadReturn 1 5 .data .clean 0) s) 1 5).run = [] ∧ (sctx (ran (.seReadReturn 1 5 .data .clean 0) s) 1 5).last = 1 ∧
       (sctx (ran (.seReadReturn 1 5 .data .clean 0) s) 1 5).state = .free) ∧
    (let d := { sd with src := 0x3000000040, m5c := true }
     let s := atNs (setF (se { hk with run := [{ runOf (sf d) with issued := 16 }], reads := [{ rd0 with addr := 0x3000000040, tag := some 0 }] })
       Reg.HL_HOST_WIN_SIZE 0 0 4096) 7
     (sctx (ran (.seReadReturn 1 5 .hostError .clean 0) s) 1 5).state = .halted ∧ (sctx (ran (.seReadReturn 1 5 .hostError .clean 0) s) 1 5).last = 4 ∧
       (sctx (ran (.seReadReturn 1 5 .hostError .clean 0) s) 1 5).haltNs = 7) ∧
    (pickCtx (landEngine (se SCtx.free) 1) 1 = none ∧ (ran (.seReadIssue 1) (se SCtx.free)).sctx = (se SCtx.free).sctx) ∧
    (let s := se { hk with run := [{ runOf (sf sd) with issued := 32 }], reads := [rd0, { rd0 with at_ := 16, addr := 0x1000600010 }] }
     (sctx s 1 5).reads[1]? = some { rd0 with at_ := 16, addr := 0x1000600010 } ∧
       (sctx (ran (.seReadReturn 1 5 .data .clean 1) s) 1 5).reads.length = 2 ∧
       (((sctx (ran (.seReadReturn 1 5 .data .clean 1) s) 1 5).reads.getD 1 rd0).back.map (·.2)) = some false ∧
       (ran (.seReadReturn 1 5 .data .clean 1) s).mem = s.mem ∧
       (sctx (ran (.seReadReturn 1 5 .data .clean 0) (ran (.seReadReturn 1 5 .data .clean 1) s)) 1 5).reads = []) ∧
    (let s := se { hk with run := [{ runOf (sf sd) with issued := 32 }], reads := [{ rd0 with discard := true }, { rd0 with at_ := 16, addr := 0x1000600010 }] }
     (sctx s 1 5).reads.eraseIdx 0 ≠ [] ∧ (sctx (ran (.seReadReturn 1 5 .data .clean 0) s) 1 5).reads.length = 1) ∧
    (let s := se { hk with reads := [{ rd0 with discard := true }] }
     (sctx s 1 5).state ≠ .draining ∧ (sctx (ran (.seReadReturn 1 5 .data .clean 0) s) 1 5).reads = [] ∧
       getF (ran (.seReadReturn 1 5 .data .clean 0) s) Reg.SE_CNT_DISCARD 1 0 = 1) ∧
    (let r := { runOf (sf sd) with issued := 16 }
     let s := { se { hk with run := [r], reads := [rd0] } with mem := [(0x1000600000, 1), (0x100060000F, 2), (0x1000640001, 3)] }
     (sctx s 1 5).run.find? (fun x => x.f.addr = rd0.desc) = some r ∧ replayed r.f.d = false ∧ beatRest s r rd0.at_ rd0.len = 0 ∧
       writeWaits s 1 (sideAddr s r.f.d true r.dstSlot rd0.at_) rd0.len = false ∧
       dstPieces s r 0 16 = [(0, 0x1000640000, 16)] ∧ region s 0x1000640000 = .sp 3 0x40000 ∧ region s rd0.addr = .sp 3 0 ∧
       (ran (.seReadReturn 1 5 .data .clean 0) s).mem =
         [(0x1000600000, 1), (0x100060000F, 2), (0x1000640000, 1), (0x100064000F, 2)] ∧
       ((sctx (ran (.seReadReturn 1 5 .data .clean 0) s) 1 5).run.map (·.landed)) = [16]) := by decide +kernel

/-! ### Stacked memory -/

/-- Some bytes of DRAM, one block written under an older map. -/
def dr : State :=
  { up with
    dram := { Dram.zero with committed := true, gen := 1, withheld := [(0x100010000, false)] }
    mem := [(0x1000, 7), (0x103F, 8)]
    blocks := [(0x40, { poison := false, syndrome := 0, gen := 1 }), (0x41, { poison := true, syndrome := 0, gen := 1 })] }

theorem witness_dram_blocks :
    (isWithheld dr 0x100010000 = true ∧ (ran (.dramRead 0x100010000 .clean) dr).readError = true ∧
       getF (ran (.dramRead 0x100010000 .clean) dr) Reg.MEM_CNT_WITHHELD (dramMap dr 0x100010000).1 0 = 1) ∧
    (isWithheld dr 0x1000 = false ∧ blockBad dr 0x40 = false ∧ (ran (.dramRead 0x1020 .clean) dr).readError = false ∧
       (ran (.dramRead 0x1020 .clean) dr).readData = [7] ++ zeros 62 ++ [8]) ∧
    (blockBad dr 0x41 = false ∧ (ran (.dramRead 0x1040 .clean) dr).readError = true) ∧
    (blockBad dr 0x40 = false ∧ (ran (.dramRead 0x1000 .fails) dr).readError = true ∧
       ((ran (.dramRead 0x1000 .fails) dr).fm.intake.map fun w => (w.rep.cause, w.rep.unit)) = [(0x40, (dramMap dr 0x1000).1)]) ∧
    (blockBad dr 0x42 = true ∧ (ran (.dramRead 0x1080 .clean) dr).readError = true) ∧
    (isWithheld dr 0x100010000 = true ∧ (ran (.dramWrite 0x100010000 [1] false .clean) dr).mem = dr.mem) ∧
    (blockBad dr 0x40 = false ∧ (ran (.dramWrite 0x103E [1, 2] false .clean) dr).mem = [(0x1000, 7), (0x103E, 1), (0x103F, 2)] ∧
       blockMeta (ran (.dramWrite 0x103E [1, 2] true .clean) dr) 0x40 = { poison := true, syndrome := 0, gen := 1 }) ∧
    (blockBad dr 0x42 = true ∧ (ran (.dramWrite 0x1080 (List.replicate 64 5) false .clean) dr).blocks.length = 3 ∧
       blockBad (ran (.dramWrite 0x1080 (List.replicate 64 5) false .clean) dr) 0x42 = false) ∧
    (isWithheld dr 0x1000 = false ∧ (blockMeta (ran (.dramWrite 0x1001 [1, 2] false .fails) dr) 0x40).poison = true ∧
       (ran (.dramWrite 0x1001 [1, 2] false .fails) dr).mem = [(0x1000, 7), (0x1001, 1), (0x1002, 2), (0x103F, 8)]) := by decide +kernel

theorem witness_memory_maintenance :
    (let s := setF { dr with hv := { dr.hv with scrubAt := [(0, 4)] } } Reg.HV_SCRUB_CTL_EN 0 0 1
     s.dram.committed = true ∧ bit s Reg.HV_SCRUB_CTL_EN 0 0 = true ∧ blockBad s (blockAt s 0 4) = true ∧
       isWithheld s (64 * blockAt s 0 4) = true ∧ mget 0 (ran (.scrubRead 0 .clean false) s).hv.scrubAt 0 = 5 ∧
       (ran (.scrubRead 0 .clean false) s).blocks = s.blocks) ∧
    (let s := setF { dr with hv := { dr.hv with scrubAt := [(0, 8)] } } Reg.HV_SCRUB_CTL_EN 0 0 1
     isWithheld s (64 * blockAt s 0 8) = false ∧ blockBad s (blockAt s 0 8) = true ∧
       (blockMeta (ran (.scrubRead 0 .clean false) s) (blockAt s 0 8)).poison = true ∧
       (ran (.scrubRead 0 .clean true) s).blocks = s.blocks) ∧
    (let s := setF { dr with hv := { dr.hv with scrubAt := [(7, chanBlocks - 1)], scrubDone := (List.range 255).map (· + 1) |>.erase 7 |>.cons 0 } } Reg.HV_SCRUB_CTL_EN 0 0 1
     chanBlocks ≤ mget 0 s.hv.scrubAt 7 + 1 ∧ s.hv.scrubDone.contains 7 = false ∧ s.hv.scrubDone.length = 255 ∧
       (ran (.scrubRead 7 .clean false) s).hv.scrubDone = [] ∧ (ran (.scrubRead 7 .clean false) s).hv.passes = s.hv.passes + 1 ∧
       mget 0 (ran (.scrubRead 7 .clean false) s).hv.scrubAt 7 = 0) ∧
    (dr.dram.committed = true ∧ getF (ran (.refresh 9) dr) Reg.MEM_CNT_REFRESH 9 0 = 1) ∧
    (let s := setF (setF dr Reg.MEM_MAP_RET_BASE 0 0 0x20000) Reg.MEM_MAP_RET_SIZE 0 0 0x40000000
     answers s 0x1000008 = true ∧ memOn s = false ∧ (ran .mapCommit s).dram.committed = true ∧ (ran .mapCommit s).dram.rb = 0x20000 ∧
       (ran .mapCommit s).dram.gen = 2) ∧
    (let s := setF (setF dr Reg.MEM_MAP_RET_BASE 0 0 0xBFFFF0000) Reg.MEM_MAP_RET_SIZE 0 0 0x40000000
     memOn s = false ∧ dramTop < fld s Reg.MEM_MAP_RET_BASE / 65536 * 65536 + fld s Reg.MEM_MAP_RET_SIZE ∧
       fld (ran .mapCommit s) Reg.MEM_MAP_STAT_RET_RANGE = 1 ∧ (ran .mapCommit s).dram = dr.dram) ∧
    (let s := put dr Reg.QM_CTL_EN 1
     memOn s = true ∧ fld (ran .mapCommit s) Reg.HL_CNT_CFG_LOCKED = 1) ∧
    (answers dr 0x1001008 = true ∧ (channel (ran (.crcInject 9) dr) 9).inject = true) := by decide +kernel

/-! ### The host link -/

/-- A host's settings: 256 bytes of payload, read requests of 512 bytes, BAR4 of 64 GiB, MSI-X enabled. -/
def hostCfg : HostCfg := { mps := 1, mrrs := 2, bar4 := 6, msixEn := true, fnMask := false, ecrcGen := false, ecrcCheck := true }

/-- A receive window of 8 blocks at 0x200000000, in state `st`. -/
def withWin (w : WinState) (s : State) : State :=
  { setF (setF s Reg.PM_WIN_BASE 0 3 0x200000000) Reg.PM_WIN_SIZE 0 3 8 with
    pm := { Pm.zero with wins := [(3, { Win.closed with state := w })] } }

theorem witness_bar_window :
    (let s := { up with hl := { up.hl with d3 := true } }
     inBar4 s 0x1000 4 = true ∧ (ran (.bar4Read 0x1000 4 false) s).readError = true) ∧
    (let s := { up with boot := { up.boot with stage := 4 } }
     inBar4 s 0x1000 4 = true ∧ ready s = false ∧ (ran (.bar4Read 0x1000 4 false) s).readData = [0, 0, 0, 0]) ∧
    (inBar4 up 0xC00000000 4 = true ∧ dramTop < bar4Base up + 0xC00000000 + 4 ∧ (ran (.bar4Read 0xC00000000 4 false) up).readError = true) ∧
    (ready dr = true ∧ (pieces 0x103E 2) = [(0x40, 0x3E, 2)] ∧ (ran (.bar4Read 0x103E 2 false) dr).readData = [0, 8] ∧
       (ran (.bar4Read 0x103E 2 false) dr).readError = false) ∧
    (inBar4 up 0x1000000 2 = true ∧ bar4Window up 0x1000000 2 = none ∧
       fld (ran (.bar4Write 0x1000 [1, 2] false 0) up) Reg.HL_CNT_BAR4_DROP = 1 ∧
       (ran (.bar4Write 0x1000 [1, 2] false 0) up).hl.aer = [.unsupportedRequest]) ∧
    (ready dr = true ∧ bar4Base dr + 0x1040 + 4 ≤ dramTop ∧ (ran (.bar4Read 0x1040 4 false) dr).readError = true) ∧
    (let s := withWin .opened up
     bar4Window s 0x200000008 4 = some 3 ∧ (winOf s 3).state ≠ .closed ∧
       (ran (.bar4Write 0x200000008 [1, 2, 3, 4] false 0) s).mem = [(0x200000008, 1), (0x200000009, 2), (0x20000000A, 3), (0x20000000B, 4)] ∧
       (winOf (ran (.bar4Write 0x200000008 [1, 2, 3, 4] false 0) s) 3).credit = true) ∧
    (let s := withWin .closed up
     bar4Window s 0x200000008 4 = some 3 ∧ (winOf s 3).state = .closed ∧
       fld (ran (.bar4Write 0x200000008 [1, 2, 3, 4] false 0) s) Reg.HL_CNT_BAR4_DROP = 1 ∧
       (ran (.bar4Write 0x200000008 [1, 2, 3, 4] false 0) s).mem = [] ∧
       fld (ran (.bar4Write 0x200000008 [1, 2, 3, 4] false 0) s) Reg.PM_CNT_DISCARD = 0 ∧
       64 < bar4Base s + 0x200000040 - winBase s 3 + 4 ∧
       fld (ran (.bar4Write 0x200000040 [1, 2, 3, 4] false 0) s) Reg.PM_CNT_DISCARD = 1) ∧
    (hostThere up = true ∧ (ran (.bar4Read 0x1000 8 true) up).readData = zeros 8 ∧ (ran (.bar4Read 0x1000 8 true) up).readError = false) := by
  decide +kernel

theorem witness_link_and_its_errors :
    (up.pins.hold = .none ∧ ready up = true ∧ fld (ran .unexpectedCompletion up) Reg.HL_CNT_UNEXP_CPL = 1 ∧
       ((ran .unexpectedCompletion up).fm.intake.map (·.rep)) = [mkReport 0x4B .hostLink 0 0 0 0]) ∧
    (fld (ran (.linkError .poisoned 2) up) Reg.HL_CNT_POISON_IN = 1 ∧ (ran (.linkError .poisoned 2) up).hl.aer = [.poisonedTlp] ∧
       (ran (.linkError .other 4) up).hl.aer = [.other]) ∧
    (let r : NpReq := { tag := 6, owner := .queueManager, dueNs := 5, limitNs := 4000 }
     let s := atNs { up with hl := { up.hl with np := [r] } } 5
     s.hl.np.find? (fun x => x.tag = 6 && decide (x.dueNs ≤ nowNs s)) = some r ∧ (ran (.cplTimeout 6 none) s).hl.np = [] ∧
       (ran (.cplTimeout 6 none) s).hl.quarantined = [(6, 8005)] ∧ fld (ran (.cplTimeout 6 none) s) Reg.HL_CNT_CPL_TIMEOUT = 1) ∧
    (up.hl.ecrcCheck = false ∧ ran (.linkError .ecrc 2) up = up) ∧
    (let s := { up with hl := { up.hl with ecrcCheck := true } }
     fld (ran (.linkError .ecrc 2) s) Reg.HL_CNT_POISON_IN = 1 ∧ (ran (.linkError .ecrc 2) s).hl.aer = [.ecrc]) ∧
    (let s := { up with cores := [(4, { Core.zero with run := .running, hostWait := true })] }
     hostOpen s = true ∧ readerWants s (.core 4) = true ∧ (tagSpace s).1 ≤ 9 ∧ 9 < (tagSpace s).1 + (tagSpace s).2 ∧
       fld (ran (.cplTimeout 9 (some (.core 4))) s) Reg.HL_CNT_CPL_TIMEOUT = 1 ∧
       (ran (.cplTimeout 9 (some (.core 4))) s).hl.failed = [.core 4]) ∧
    (readerWants up (.core 4) = false ∧ ran (.cplTimeout 9 (some (.core 4))) up = up) ∧
    (let s := { up with hl := { up.hl with retry := true } }
     s.hl.retry = true ∧ ran (.busMasterEnable hostCfg) s = s ∧ ran .d3hot s = s) ∧
    ((ran (.busMasterEnable hostCfg) up).hl.mps = 256 ∧ (ran (.busMasterEnable { hostCfg with bar4 := 1 }) up).hl.bar4Log2 = 31 ∧
       up.hl.retry = false) :=
  by decide +kernel

theorem witness_function_commands :
    (hostThere up = true ∧ up.hl.bme = true ∧ busMaster (ran .busMasterDisable up) = false ∧
       source (ran .busMasterDisable up) 35 = .pending) ∧
    (let s := { up with hl := { up.hl with bme := false, stalled := [.host 0x40 [9]] } }
     s.hl.bme = false ∧ ran .busMasterDisable s = s ∧ (ran (.busMasterEnable hostCfg) s).hostMem = [(0x40, 9)] ∧
       (ran (.busMasterEnable hostCfg) s).hl.stalled = []) ∧
    (let s := { setF up Reg.HL_MSIX_MASK 0 3 0 with hl := { up.hl with bme := false, pending := [3] } }
     s.hl.d3 = false ∧ s.hl.fnMask = false ∧ bit s Reg.HL_MSIX_MASK 0 3 = false ∧ (ran (.busMasterEnable hostCfg) s).hl.sent = s.hl.sent ++ [3] ∧
       (ran (.busMasterEnable hostCfg) s).hl.pending = []) ∧
    (let s := { setF up Reg.HL_MSIX_MASK 0 3 0 with hl := { up.hl with d3 := true, pending := [3] } }
     (ran (.busMasterEnable hostCfg) s).hl.stalled = [.msix 3]) ∧
    (let s := { up with hl := { up.hl with d3 := true, stalled := [.host 0x40 [9]] } }
     (ran (.busMasterEnable hostCfg) s).hl.stalled = [.host 0x40 [9]] ∧ (ran .returnToD0 s).hostMem = [(0x40, 9)]) ∧
    (let s := { up with boot := { up.boot with stage := 4 } }
     ready s = false ∧ (ran .unexpectedCompletion s).fm.intake = [] ∧ (ran .unexpectedCompletion s).hl.aer = [.unexpectedCompletion]) ∧
    (let s := { up with hl := { up.hl with d3 := true, bme := false } }
     (ran .returnToD0 s).hl = { s.hl with d3 := false }) ∧
    (busMaster (ran .d3hot up) = false) ∧
    (up.boot.linkDone = true ∧ (ran (.pcieLinkUp 5 8 true 2) up).hl.speed = 5 ∧ (ran (.pcieLinkUp 5 8 true 2) up).hl.width = 8 ∧
       fld (ran (.pcieLinkUp 5 8 true 2) up) Reg.HL_LINK_STAT_RETRAINS = 1) :=
  by decide +kernel

/-! ### Rings and commands -/

theorem witness_doorbells_and_fetch :
    (ready rg = true ∧ hostThere rg = true ∧ fld (ran (.doorbell 8 4 0) rg) Reg.HL_CNT_DB_BAD = 1) ∧
    (doorbellFault rg 1 (2 ^ 40 + 3) = none ∧ getF rg Reg.QM_RING_CFG_KIND 1 0 = 0 ∧
       ringAble rg 1 = true ∧ rg.hl.dbWait = [] ∧ (ring (ran (.doorbell 8 8 (2 ^ 40 + 3)) rg) 1).tail = 3 ∧ fld (ran (.doorbell 8 8 (2 ^ 40 + 3)) rg) Reg.QM_CNT_DB = 1) ∧
    (let s := { rg with rings := [(2, { Ring.zero with tail := 5, head := 2 })] }
     doorbellFault s 2 (2 ^ 41 + 4) = none ∧ getF s Reg.QM_RING_CFG_KIND 2 0 ≠ 0 ∧
       (ring (ran (.doorbell 16 8 (2 ^ 41 + 4)) s) 2).head = 4) ∧
    (let s := { rg with rings := [(2, { Ring.zero with tail := 5, head := 2, armed := false })] }
     bit s Reg.QM_RING_CFG_IRQ_EN 2 0 = false ∧ (ring (ran (.doorbell 16 8 (2 ^ 41 + 2 ^ 32 + 4)) s) 2).armed = true ∧
       (ring (ran (.doorbell 16 8 (2 ^ 41 + 2 ^ 32 + 4)) s) 2).pend = 1) ∧
    (let s := { rg with hl := { rg.hl with dbWait := [(1, some 5)] } }
     (∃ w ∈ s.hl.dbWait, w.1 = 8 / 8) ∧ (ran (.doorbell 8 8 (2 ^ 40 + 3)) s).hl.dbWait = [(1, some 5), (1, some (2 ^ 40 + 3))] ∧
       (ring (ran (.doorbell 8 8 (2 ^ 40 + 3)) s) 1).tail = 0) ∧
    (doorbellFault rg 1 (2 ^ 40 + 2000) = some 3 ∧
       { ring (ran (.doorbell 8 8 (2 ^ 40 + 2000)) rg) 1 with cached := 0 } = ring rg 1 ∧
       (ring (ran (.doorbell 8 8 (2 ^ 40 + 2000)) rg) 1).cached = 1 ∧
       fld (ran (.doorbell 8 8 (2 ^ 40 + 2000)) rg) Reg.QM_CNT_DB_REJ = 1) ∧
    (let s := { rg with rings := [(1, { Ring.zero with tail := 3, head := 1 })], hostMem := [(0x40, 11), (0x80, 1)] }
     qmEn s = true ∧ fetchPick s = some 1 ∧ burstLen s 1 = 2 ∧
       ((ran .descriptorFetch s).bursts.map fun b => (b.ring, b.descs.map fun d => (d.1.head?, d.2))) =
         [(1, [(some 11, false), (some 1, false)])]) ∧
    (let s := { rg with
       rings := [(1, { Ring.zero with tail := 3, head := 1, seq := 1 })]
       bursts := [{ ring := 1, descs := [(natLE 64 11, false), (natLE 64 1, false)], tags := [(0, 0, 128)] }] }
     s.bursts ≠ [] ∧ ((ran (.descriptorBurstCheck [1]) s).descs.map fun d => (d.seq, d.poison, d.cplRing)) = [(1, false, 2), (2, true, 2)] ∧
       (ring (ran (.descriptorBurstCheck [1]) s) 1).head = 3 ∧ (ran (.descriptorBurstCheck [1]) s).bursts = []) := by decide +kernel

theorem witness_ring_and_queue_enables :
    (answers rg 0x601000 = true ∧ ringEn (storeOthers (useRing rg 1) 0x601000 1 0 0x2A1) 1 = true ∧
       ring (ran (.ringEnable 1 0x2A1) rg) 1 = ring (useRing rg 1) 1) ∧
    (let s := rg
     let s1 := storeOthers (useRing s 5) 0x601000 5 0 0x2A1
     ringEn s1 5 = false ∧ ringRefusal s1 5 = 10 ∧ getF (ran (.ringEnable 5 0x2A1) s) Reg.QM_RING_STAT_ERR 5 0 = 10 ∧
       ringEn (ran (.ringEnable 5 0x2A1) s) 5 = false) ∧
    (let s := sets rg [(Reg.QM_RING_BASE, 5, 0, 0x3000040000), (Reg.QM_RING_WB, 5, 0, 0x30000F0100), (Reg.QM_RING_PAIR_CPL_RING, 5, 0, 2)]
     let s1 := storeOthers (useRing s 5) 0x601000 5 0 0x2A1
     ringEn s1 5 = false ∧ ringRefusal s1 5 = 0 ∧ region s1 (getF s1 Reg.QM_RING_WB 5 0) = .host 0xF0100 ∧
       ringEn (ran (.ringEnable 5 0x2A1) s) 5 = true) ∧
    (ringEn (ran (.ringDisable 2) rg) 2 = false) ∧
    (answers up 0x600008 = true ∧ fld (ran (.qmEnable 0) rg) Reg.QM_CTL_EN = 0) ∧
    (let s := put up Reg.QM_RCTX_BASE 0x200000000
     inGeneral (storeOthers s 0x600008 0 0 1) (fld (storeOthers s 0x600008 0 0 1) Reg.QM_RCTX_BASE / 65536 * 65536) (128 * 2097152) = true ∧
       fld (ran (.qmEnable 1) s) Reg.QM_CTL_EN = 1) ∧
    (let s := put up Reg.QM_RCTX_BASE 0
     inGeneral (storeOthers s 0x600008 0 0 1) (fld (storeOthers s 0x600008 0 0 1) Reg.QM_RCTX_BASE / 65536 * 65536) (128 * 2097152) = false ∧
       fld (ran (.qmEnable 1) s) Reg.QM_CTL_EN = 0 ∧ fld (ran (.qmEnable 1) s) Reg.QM_CTL_CFG_ERR = 1) := by decide +kernel

theorem witness_records_and_messages :
    (let k : StageRec := { ring := 3, key := 9, order := 4, bytes := 7 :: List.replicate 63 0, spilled := false, plan := 0, slot := 0 }
     let s := { rg with stage := [k] }
     (s.stage.find? fun e => e.ring = 3 && !lowerPending s e) = some k ∧ ringIs s 3 2 0 = true ∧ ringEn s 3 = true ∧
       1 ≤ ringRoom s 3 ∧ HostRing s 3 0x20000 0xF0080 ∧ k.bytes.length = 64 ∧
       (ran (.resultRecordWrite 3) s).hostMem = [(0x20000, 7), (0xF0080, 1)] ∧ (ran (.resultRecordWrite 3) s).stage = []) ∧
    (let k : StageRec := { ring := 4, key := 9, order := 4, bytes := 7 :: List.replicate 63 0, spilled := false, plan := 0, slot := 0 }
     let s := { rg with stage := [k] }
     ringIs s 4 2 0 = false ∧ qmEn s = true ∧ (∀ e ∈ s.stage, e.spilled = false) ∧ fld (ran (.resultRecordWrite 4) s) Reg.QM_CNT_MISROUTE = 1 ∧ (ran (.resultRecordWrite 4) s).stage = []) ∧
    (let k : StageRec := { ring := 3, key := 9, order := 4, bytes := 7 :: List.replicate 63 0, spilled := false, plan := 0, slot := 0 }
     let s := setF { rg with stage := [k] } Reg.QM_RING_CFG_EN 3 0 0
     (s.stage.find? fun e => e.ring = 3 && !lowerPending s e) = some k ∧ ringIs s 3 2 0 = true ∧ ringEn s 3 = false ∧
       ran (.resultRecordWrite 3) s = s) ∧
    (let s := { rg with rings := [(2, { Ring.zero with pend := 2, timer := some 0, armed := true })] }
     getF s Reg.QM_RING_COAL_US 2 0 = 0 ∧ ran (.coalesceTimer 2) s = s) ∧
    (let s := atNs { sets rg [(Reg.QM_RING_CFG_IRQ_EN, 2, 0, 1), (Reg.QM_RING_CFG_VECTOR, 2, 0, 6), (Reg.QM_RING_COAL_US, 2, 0, 3),
       (Reg.HL_MSIX_MASK, 0, 6, 0)] with rings := [(2, { Ring.zero with pend := 2, timer := some 0, armed := true })] } 3000
     bit s Reg.HL_MSIX_MASK 0 6 = false ∧ 0 + 1000 * getF s Reg.QM_RING_COAL_US 2 0 ≤ nowNs s ∧
       ring (ran (.coalesceTimer 2) s) 2 = { Ring.zero with pend := 0, timer := none, armed := false } ∧
       (ran (.coalesceTimer 2) s).hl.sent = [6]) ∧
    (let s := { rg with hl := { rg.hl with pending := [6] } }
     answers s 0x1180000 = true ∧ s.hl.pending.contains 6 = true ∧ (ran (.msixUnmask 6) s).hl.sent = [6] ∧
       (ran (.msixUnmask 6) s).hl.pending = []) := by decide +kernel

/-- A command is the only one of its ring, and its next one. -/
abbrev Alone (r op : Nat) (d : Desc) (s : State) : Prop := OnlyCommand r op d s ∧ NextCommand r op d s

theorem witness_simple_commands :
    (let bad : Desc := { dsc 13 0 0 [] with seq := 6 }
     let d := dsc 0 0 0 []
     let s := { rg with descs := [bad, d] }
     (descFault s bad).isSome = true ∧ NextCommand 1 0 d s ∧ (ran (.nop 1) s).descs = [] ∧ (ring (ran (.nop 1) s) 2).tail = 2 ∧
       mget 0 (ran (.nop 1) s).hostMem 0x10000 ≠ 0 ∧ mget 0 (ran (.nop 1) s).hostMem 0x10040 = 0) ∧
    (let s := withDesc (dsc 0 0 0 []) rg
     Alone 1 0 (dsc 0 0 0 []) s ∧ HostRing s 2 0x10000 0xF0040 ∧ wordBits (dsc 0 0 0 []).words 0 8 1 = 0 ∧
       (ring (ran (.nop 1) s) 2).tail = 1 ∧ rdBytes 0 (ran (.nop 1) s).hostMem 0x10008 9 = [0x99, 0, 0, 0, 0, 0, 0, 0, 7]) ∧
    (let d := dsc 0x100 0 0 []
     let s := withDesc d rg
     Alone 1 0 d s ∧ wordBits d.words 0 8 1 = 1 ∧ (ran (.nop 1) s).descs = [] ∧ (ran (.nop 1) s).hostMem = []) :=
  by
  decide +kernel

theorem witness_syncs_and_queries :
    (let d := dsc 10 6 0 [4, 9]
     let s := withDesc d { rg with objs := [(4, { SyncObj.free with alloc := true, plan := 6, count := 2 })] }
     Alone 1 10 d s ∧ (obj (ran (.syncAdd 1) s) 4).count = 11) ∧
    (let d := dsc 9 6 0 [4, 2]
     let s := withDesc d { rg with objs := [(4, { SyncObj.free with alloc := true, plan := 6, count := 2 })] }
     Alone 1 9 d s ∧ syncMet s 4 2 = true ∧ (ran (.syncWait 1) s).descs = []) ∧
    (let d := dsc 9 6 0 [4, 3]
     let s := withDesc d { rg with objs := [(4, { SyncObj.free with alloc := true, plan := 6, count := 2 })] }
     Alone 1 9 d s ∧ syncMet s 4 3 = false ∧ (ran (.syncWait 1) s).descs = [{ d with started := true, reserved := true }]) :=
  by
  decide +kernel

theorem witness_queries_and_resumption :
    (let s := withDesc (dsc 11 0 0 [0, 0]) { rg with sec := { rg.sec with fwVersion := 5 } }
     Alone 1 11 (dsc 11 0 0 [0, 0]) s ∧ mget 0 (ran (.query 1) s).hostMem 0x10020 = 5) ∧
    (let s := withDesc (dsc 11 0 0 [1, 2]) { rg with streams := [(2, { st with nextLine := 9 })] }
     Alone 1 11 (dsc 11 0 0 [1, 2]) s ∧ mget 0 (ran (.query 1) s).hostMem 0x10018 = 9) ∧
    (let s := withDesc (dsc 11 0 0 [2, 0x4000000000000001]) { rg with jobs := [jb] }
     Alone 1 11 (dsc 11 0 0 [2, 0x4000000000000001]) s ∧ jobOf s (BitVec.ofNat 64 0x4000000000000001) = some jb ∧
       mget 0 (ran (.query 1) s).hostMem 0x10020 = 1) ∧
    (let s := withDesc (dsc 11 0 0 [2, 5]) rg
     Alone 1 11 (dsc 11 0 0 [2, 5]) s ∧ jobOf s 5 = none ∧ mget 0 (ran (.query 1) s).hostMem 0x10000 = 0xB) :=
  by decide +kernel

theorem witness_resumption :
    (let s := withDesc (dsc 11 0 0 [3, 6]) { rg with plans := [(6, planOf [tmpl 5 4])] }
     Alone 1 11 (dsc 11 0 0 [3, 6]) s ∧ (plan s 6).loaded = true ∧ mget 0 (ran (.query 1) s).hostMem 0x10018 = 1) ∧
    (let s := withDesc (dsc 11 0 0 [3, 6]) rg
     Alone 1 11 (dsc 11 0 0 [3, 6]) s ∧ (plan s 6).loaded = false ∧ mget 0 (ran (.query 1) s).hostMem 0x10000 = 0xB) ∧
    (let s := withDesc (dsc 12 0 0 [1 + 5 * 32]) { rg with sctx := [(69, { hk with state := .halted })] }
     Alone 1 12 (dsc 12 0 0 [1 + 5 * 32]) s ∧ (sctx (ran (.streamResume 1) s) 1 5).state = .running) :=
  by decide +kernel

/-- An envelope of 256 bytes at 0x1000, and a body of one host template. -/
def img : PlanImage := (planOf [tmpl 5 4]).image

def envelope (s : State) : State :=
  { s with mem := [(0x1000, 0x50), (0x1001, 0x58), (0x1002, 0x50), (0x1003, 0x31), (0x1009, 1)] }

def goodSig : Crypto := { keyOk := true, sigOk := true, digestOk := true }

/-- Plan 6 is loaded; the registers of stream 2 hold a geometry. -/
def bindable : State :=
  { sets rg [(Reg.IG_STREAM_FMT_WIDTH, 0, 2, 512), (Reg.IG_STREAM_GEOM_SEG, 0, 2, 512), (Reg.IG_STREAM_GEOM_HCODE, 0, 2, 0)] with
    plans := [(6, planOf [tmpl 5 4])] }

/-- Host-fed stream 33 of 64 bytes a line, fed by ring 1. -/
def fed : State :=
  { sets rg [(Reg.IG_CTL_EN, 0, 0, 1)] with
    streams := [(33, { st with feedRing := 1, reserve := 64 })], mem := [(0x1000, 3)] }

theorem witness_plan_commands :
    (let d := dsc 1 0 0 [0x1000, 256, 0x200000000, 4096]
     let s := withDesc d (envelope rg)
     Alone 1 1 d s ∧ loadFault (startDesc s d).1 (startDesc s d).2 goodSig img = none ∧ freePlan s = 1 ∧
       (plan (ran (.planLoad 1 goodSig img) s) 1).loaded = true) ∧
    (let d := dsc 1 0 0 [0x1000, 256, 0x200000000, 4096]
     let s := withDesc d (envelope rg)
     loadFault (startDesc s d).1 (startDesc s d).2 { goodSig with sigOk := false } img = some (9, 3) ∧
       mget 0 (ran (.planLoad 1 { goodSig with sigOk := false } img) s).hostMem 0x10000 = 9) ∧
    (let d := dsc 1 0 0 [0x3000000000, 256, 0x200000000, 4096]
     let s0 := withDesc d rg
     let s := { s0 with hl := { s0.hl with bme := false } }
     planReads (faultPass s 1) 1 = true ∧ hostOpen (faultPass s 1) = false ∧ (ran (.planLoad 1 goodSig img) s).descs = [d] ∧
       planReads (faultPass s0 1) 1 = true ∧ hostOpen (faultPass s0 1) = true ∧ Alone 1 1 d s0) ∧
    (let d := dsc 2 6 0 []
     let s := withDesc d { rg with plans := [(6, planOf [tmpl 5 4])] }
     Alone 1 2 d s ∧ planHere s 6 = true ∧ (plan (ran (.planUnload 1) s) 6).loaded = false ∧ (ran (.planUnload 1) s).descs = []) ∧
    (let s := withDesc (dsc 2 6 0 []) rg
     Alone 1 2 (dsc 2 6 0 []) s ∧ planHere s 6 = false ∧ mget 0 (ran (.planUnload 1) s).hostMem 0x10000 = 0xB) := by decide +kernel

theorem witness_stream_commands :
    (let d := dsc 3 6 0 [2 + 64, 3, 4, 0]
     let s := withDesc d bindable
     Alone 1 3 d s ∧ bindFault (startDesc s d).1 (startDesc s d).2 = none ∧ (stream (ran (.streamBind 1) s) 2).bound = true ∧
       (stream (ran (.streamBind 1) s) 2).w = 512 ∧ (stream (ran (.streamBind 1) s) 2).prio = 1) ∧
    (let d := dsc 3 6 0 [2, 4, 4, 0]
     let s := withDesc d bindable
     bindFault (startDesc s d).1 (startDesc s d).2 = some (0xE, 1) ∧ mget 0 (ran (.streamBind 1) s).hostMem 0x10000 = 0xE) ∧
    (let d := dsc 4 0 0 [2]
     let s := withDesc d { rg with streams := [(2, st)] }
     Alone 1 4 d s ∧ isBound s 2 = true ∧ (stream (ran (.streamUnbind 1) s) 2).bound = false) ∧
    (let d := dsc 4 0 0 [2]
     let s := withDesc d rg
     Alone 1 4 d s ∧ isBound s 2 = false ∧ mget 0 (ran (.streamUnbind 1) s).hostMem 0x10000 = 0xB) := by decide +kernel

theorem witness_flushes_and_feeds :
    (let d := dsc 5 0 0 [2]
     let s := withDesc d { rg with streams := [(2, { st with nextLine := 16 })] }
     Alone 1 5 d s ∧ isBound s 2 = true ∧ mget 0 (ran (.streamFlush 1) s).hostMem 0x10018 = 16) ∧
    (let d := dsc 5 0 0 [2]
     let s := withDesc d rg
     Alone 1 5 d s ∧ isBound s 2 = false ∧ mget 0 (ran (.streamFlush 1) s).hostMem 0x10000 = 0xB) ∧
    (let d := dsc 6 0 0 [33, 0x1000, 1, 64, 0]
     let s := withDesc d fed
     Alone 1 6 d s ∧ isBound s 33 = true ∧ (stream s 33).feedRing = 1 ∧ (stream (ran (.hostFeed 1) s) 33).nextLine = 1 ∧
       (ran (.hostFeed 1) s).descs = []) ∧
    (let d := dsc 6 0 0 [34, 0x1000, 1, 64, 0]
     let s := withDesc d fed
     Alone 1 6 d s ∧ isBound s 34 = false ∧ mget 0 (ran (.hostFeed 1) s).hostMem 0x10000 = 0xD) ∧
    (let d := { dsc 6 0 0 [33, 0x1000, 1, 64, 0] with started := true, reserved := true }
     let s := withDesc d { fed with streams := [(33, { stream fed 33 with feed := some (0, 0) })] }
     feedsOf s 33 = [d] ∧ igEn s = true ∧ sramRoom s 33 (lineBlocks (stream s 33)) = true ∧ (stream s 33).welds = [] ∧ descArg d 2 = 1 ∧
       (ran (.hostFeedResume 33) s).descs = [] ∧ (stream (ran (.hostFeedResume 33) s) 33).feed = none) :=
  by decide +kernel

theorem witness_feeds :
    (let d := { dsc 6 0 0 [33, 0x1000, 1, 64, 0] with started := true, reserved := true }
     let s := withDesc d { fed with streams := [(33, { stream fed 33 with feed := some (0, 0) })] }
     let s := put s Reg.IG_CTL_EN 0
     igEn s = false ∧ (ran (.hostFeedResume 33) s).descs = [d]) ∧
    (let d := { dsc 6 0 0 [33, 0x3000001000, 1, 64, 0] with started := true, reserved := true }
     let s0 := withDesc d { fed with streams := [(33, { stream fed 33 with feed := some (0, 0) })] }
     let s := { s0 with hl := { s0.hl with bme := false } }
     feedReads s d 0 = true ∧ hostOpen s = false ∧ (ran (.hostFeedResume 33) s).descs = [d] ∧
       (stream (ran (.hostFeedResume 33) s) 33).feed = some (0, 0)) :=
  by decide +kernel

theorem witness_host_job_commands :
    (let d := dsc 7 6 5 [1, 2, 3, 4, 5, 6]
     let s := withDesc d { rg with plans := [(6, planOf [tmpl 5 4])] }
     Alone 1 7 d s ∧ tmplAt s 6 5 = some (tmpl 5 4) ∧ planHere s 6 = true ∧ jobOf s (hostId 1 7) = none ∧
       ((jobOf (ran (.jobSubmit 1) s) (hostId 1 7)).map fun j => (j.plan, j.args)) = some (6, [1, 2, 3, 4, 5, 6])) ∧
    (let d := dsc 7 6 5 []
     let s := withDesc d { rg with plans := [(6, planOf [{ tmpl 5 4 with emits := true }])] }
     Alone 1 7 d s ∧ bit s Reg.QM_RING_PAIR_RES_EN 1 0 = false ∧ mget 0 (ran (.jobSubmit 1) s).hostMem 0x10000 = 0xD) ∧
    (let d := dsc 7 6 5 []
     let s := withDesc d { rg with plans := [(6, planOf [tmpl 5 1])] }
     Alone 1 7 d s ∧ (∀ m, tmplAt s 6 5 = some m → m.kind ≠ 4) ∧ mget 0 (ran (.jobSubmit 1) s).hostMem 0x10000 = 0xB) ∧
    (let m := { tmpl 5 4 with shapes := [0], sizeArgs := some (0, 1) }
     let d := dsc 7 6 5 [1, 2]
     let s := withDesc d { rg with plans := [(6, { planOf [m] with image := { (planOf [m]).image with shapes := [List.replicate 32 0] } })] }
     Alone 1 7 d s ∧ badShapeFor (plan s 6).image m (descArg d) = some 0 ∧ mget 0 (ran (.jobSubmit 1) s).hostMem 0x10000 = 5 ∧
       jobOf (ran (.jobSubmit 1) s) (hostId 1 7) = none) :=
  by
  decide +kernel

theorem witness_job_cancel :
    (let d := dsc 7 6 5 [1, 2]
     let j : Job := { newJob (hostId 1 7) .host 6 5 0 with args := [9] }
     let s := withDesc d { rg with plans := [(6, planOf [tmpl 5 4])], jobs := [j] }
     Alone 1 7 d s ∧ badShapeFor (plan s 6).image (tmpl 5 4) (descArg d) = none ∧
       ((jobOf (ran (.jobSubmit 1) s) (hostId 1 7)).map fun k => (k.submitted, k.args)) = some (true, [9])) ∧
    (let d := dsc 8 0 0 [0x4000000000000001]
     let s := withDesc d { rg with plans := [(0, planOf [tmpl 5 4])], jobs := [{ jb with submitted := false, state := .waiting, place := none }] }
     Alone 1 8 d s ∧ ((ran (.jobCancel 1) s).jobs.map (·.state)) = [.cancelled]) :=
  by
  decide +kernel

theorem witness_job_cancel_ends :
    (let d := dsc 8 0 0 [0x4000000000000001]
     let s := withDesc d { rg with plans := [(0, planOf [tmpl 5 4])], jobs := [{ jb with state := .eligible, place := none }] }
     Alone 1 8 d s ∧ (jobOf s 0x4000000000000001).isSome = true ∧ (ran (.jobCancel 1) s).descs = [] ∧
       (jobOf (ran (.jobCancel 1) s) 0x4000000000000001).elim true (fun j => decide (j.state = .cancelled)) = true) ∧
    (let d := dsc 8 0 0 [5]
     let s := withDesc d rg
     Alone 1 8 d s ∧ jobOf s 5 = none ∧ mget 0 (ran (.jobCancel 1) s).hostMem 0x10000 = 0xB) ∧
    (let d := dsc 8 0 0 [0x4000000000000001]
     let s := withDesc d { rg with jobs := [{ jb with state := .retired }] }
     Alone 1 8 d s ∧ jobOver { jb with state := .retired } = true ∧ mget 0 (ran (.jobCancel 1) s).hostMem 0x10000 = 0xB) :=
  by
  decide +kernel

/-! ### Expert groups -/

/-- Part 1 of a group under plan 6, in epoch 9: expert 0 is here, expert 2 at part 3. Window 3 takes class 0 of part 3, window 4
its class 1; the channels to part 3 are open. -/
def pmS : State :=
  { sets up
      [(Reg.PM_CTL_EN, 0, 0, 1), (Reg.PM_CTL_SELF, 0, 0, 1), (Reg.PM_CTL_PLAN, 0, 0, 6), (Reg.PM_EXPERT_VALID, 0, 0, 1),
       (Reg.PM_EXPERT_PART, 0, 0, 1), (Reg.PM_EXPERT_VALID, 0, 2, 1), (Reg.PM_EXPERT_PART, 0, 2, 3), (Reg.PM_SEND_CTL_SIZE, 0, 6, 32),
       (Reg.PM_SEND_CTL_SIZE, 0, 7, 32), (Reg.PM_WIN_BASE, 0, 3, 0x200000000), (Reg.PM_WIN_SIZE, 0, 3, 32), (Reg.PM_WIN_CFG_PEER, 0, 3, 3),
       (Reg.PM_WIN_BASE, 0, 4, 0x200010000), (Reg.PM_WIN_SIZE, 0, 4, 32), (Reg.PM_WIN_CFG_PEER, 0, 4, 3), (Reg.PM_WIN_CFG_CLASS, 0, 4, 1),
       (Reg.HL_PEER_CTL_EN, 0, 3, 1), (Reg.HL_PEER_CTL_SIZE_LOG2, 0, 3, 36)] with
    plans := [(6, { planOf [tmpl 1 3, tmpl 2 3, tmpl 3 3] with
      image := { (planOf [tmpl 1 3, tmpl 2 3, tmpl 3 3]).image with experts := 3 } })]
    pm := { Pm.zero with
      epoch := 9
      chans := [(6, { SendCh.closed with opened := true }), (7, { SendCh.closed with opened := true })]
      wins := [(3, { Win.closed with state := .opened }), (4, { Win.closed with state := .opened })] } }

/-- A route to expert 2. -/
def route (due : Bool) : Route :=
  { expert := 2, score := 0, due := due, retryAt := none, part := 0, resends := 0, sentNs := 0, told := false, result := none }

def tok (rs : List Route) : Token :=
  { id := 5, plan := 6, addr := 0x200100000, bytes := List.replicate 64 1, ring := 3, key := 2, gap := false, routes := rs }

def withToks (l : List Token) : State := { pmS with pm := { pmS.pm with tokens := l } }

/-- Window 3 holds one message of `n` blocks at position 1. -/
def heldIn (n : Nat) (m : List Host.Cell) (l : List Token) : State :=
  { pmS with
    mem := m
    pm := { pmS.pm with
      tokens := l
      wins := [(3, { Win.closed with
        state := .opened, expect := 1 + n
        held := [{ pos := 1, blocks := n, freed := false, judged := false, poison := false, reqId := 0 }] })] } }

theorem witness_peer_sending :
    (let s := withToks [tok [route true]]
     firstDue s 3 = some (tok [route true], 0, route true) ∧ maySend s 6 2 = true ∧
       routeOf (ran (.tokenSend 3) s) 5 0 = some { route false with part := 3 } ∧
       ((chanOf (ran (.tokenSend 3) s) 6).pos, (chanOf (ran (.tokenSend 3) s) 6).sent, (chanOf (ran (.tokenSend 3) s) 6).msgSeq) = (3, 2, 1)) ∧
    (let s := { withToks [tok [route true]] with pm := { (withToks [tok [route true]]).pm with chans := [] } }
     firstDue s 3 = some (tok [route true], 0, route true) ∧ maySend s 6 2 = false ∧ ran (.tokenSend 3) s = s) ∧
    (let m : OutMsg := ⟨3, false, 5, 0, 0, 6, 0, 0, List.replicate 64 1⟩
     let s := { pmS with pm := { pmS.pm with out := [m] } }
     (s.pm.out.find? fun e => e.peer = 3) = some m ∧ maySend s 7 2 = true ∧ (ran (.resultSend 3) s).pm.out = [] ∧
       (chanOf (ran (.resultSend 3) s) 7).results = [(5, 0, 2)]) ∧
    (let m : OutMsg := { peer := 3, nack := true, token := 5, expert := 0, rank := 0, plan := 6, reason := 1, nackKind := 1, block := [] }
     let s := { pmS with pm := { pmS.pm with out := [m], chans := [] } }
     maySend s 7 1 = false ∧ ran (.resultSend 3) s = s) ∧
    (let m : OutMsg := { peer := 3, nack := true, token := 5, expert := 0, rank := 0, plan := 6, reason := 1, nackKind := 1, block := [] }
     let s := { pmS with pm := { pmS.pm with out := [m] } }
     maySend s 7 1 = true ∧ (ran (.resultSend 3) s).pm.out = [] ∧ (chanOf (ran (.resultSend 3) s) 7).results = [] ∧
       (chanOf (ran (.resultSend 3) s) 7).msgSeq = 1) ∧
    (let s := { pmS with pm := { pmS.pm with wins := [(3, { Win.closed with state := .opened, freed := 4, reported := 1 })] } }
     pmEn s = true ∧ unreported s 3 = 3 ∧ (chanOf s 7).opened = true ∧ unreported (ran (.creditBlockSend 3) s) 3 = 0) := by decide +kernel

/-- A TOKEN for expert 0, with rank 1, of part 3: its header alone, CRC included. -/
def tokenMsg : List Host.Cell :=
  [(0x200000040, 1), (0x200000041, 3), (0x200000044, 9), (0x200000050, 7), (0x200000061, 6), (0x200000062, 1), (0x20000006C, 219),
   (0x20000006D, 99), (0x20000006E, 200), (0x20000006F, 66)]

/-- A RESULT for token 5, rank 0, of expert 2, its header alone. -/
def resultMsg : List Host.Cell :=
  [(0x200000040, 2), (0x200000041, 3), (0x200000044, 9), (0x200000050, 5), (0x200000060, 2), (0x200000061, 6), (0x20000006C, 198),
   (0x20000006D, 188), (0x20000006E, 73), (0x20000006F, 10)]

/-- A NACK of that token, for the epoch. -/
def nackMsg : List Host.Cell :=
  [(0x200000040, 3), (0x200000041, 3), (0x200000044, 9), (0x200000050, 5), (0x200000060, 2), (0x200000061, 6), (0x200000064, 17),
   (0x200000068, 9), (0x20000006C, 52), (0x20000006D, 37), (0x20000006E, 83), (0x20000006F, 140)]

theorem test_crc32c : crc32c [0x31, 0x32, 0x33, 0x34, 0x35, 0x36, 0x37, 0x38, 0x39] = 0xE3069283 := by decide +kernel

/-- The message that is next to be judged in window 3. -/
def nextMsg (s : State) : Option (Bool × Nat × Nat) := (unjudged s 3).map fun m => (damaged m.1 m.2, hKind m.2, hEpoch m.2)

theorem witness_tokens_received :
    (let s := heldIn 1 (tokenMsg.set 3 (0x200000050, 8)) []
     nextMsg s = some (true, 1, 9) ∧ (ran (.tokenReceive 3) s).pm.rx = [] ∧
       ((ran (.tokenReceive 3) s).pm.out.map fun o => (o.reason, o.token)) = [(3, 8)]) ∧
    (let s := { heldIn 1 tokenMsg [] with pm := { (heldIn 1 tokenMsg []).pm with epoch := 8 } }
     nextMsg s = some (false, 1, 9) ∧ s.pm.epoch ≠ 9 ∧ ((ran (.tokenReceive 3) s).pm.out.map fun o => (o.reason, o.token)) = [(1, 7)]) ∧
    (let s := setF (heldIn 1 tokenMsg []) Reg.PM_EXPERT_VALID 0 0 0
     nextMsg s = some (false, 1, 9) ∧ hostsExpert s 0 = false ∧
       ((ran (.tokenReceive 3) s).pm.out.map fun o => (o.reason, o.token)) = [(2, 7)]) ∧
    (let s := heldIn 1 tokenMsg []
     nextMsg s = some (false, 1, 9) ∧ groupPlan s = 6 ∧ hostsExpert s 0 = true ∧ expertTmpl s 0 = some (tmpl 1 3) ∧
       (batchOf (ran (.tokenReceive 3) s) 0).opened = [(7, 0x200000080)] ∧
       ((ran (.tokenReceive 3) s).pm.rx.map fun k => (k.id, k.rank, k.window, k.pos)) = [(7, 1, some 3, 1)]) :=
  by decide +kernel

/-- Jobs that hold every place for a batch table of expert 0. -/
def occupied : List Job := (List.range 64).map fun i => { newJob (expertId 0 1 (100 + i)) .expert 6 1 0 with args := [BitVec.ofNat 64 (batchAddr pmS 6 0 i)] }

/-- A message of kind 4, its header alone. -/
def otherMsg : List Host.Cell :=
  [(0x200000040, 4), (0x200000041, 3), (0x200000044, 9), (0x200000050, 7), (0x200000061, 6), (0x200000062, 1), (0x20000006C, 233), (0x20000006D, 161), (0x20000006E, 49), (0x20000006F, 166)]

theorem witness_batch_closes :
    (let s0 := heldIn 1 tokenMsg []
     let s := { s0 with pm := { s0.pm with batches := [(0, { opened := [(9, 0x200000500)], openedNs := 0, next := 4 })] } }
     (tmpl 1 3).batchSize ≤ (batchOf s 0).opened.length + 1 ∧ (tablePlace s (groupPlan s) 0 4).isSome = true ∧ jobOf s (expertId 0 1 4) = none ∧
       (batchOf (ran (.tokenReceive 3) s) 0).opened = [] ∧ (batchOf (ran (.tokenReceive 3) s) 0).next = 5 ∧
       (jobOf (ran (.tokenReceive 3) s) (expertId 0 1 4)).map (fun j => j.tokens) = some [7, 9]) ∧
    (let s0 := heldIn 1 tokenMsg []
     let s := { s0 with jobs := occupied, pm := { s0.pm with batches := [(0, { opened := [(9, 0x200000500)], openedNs := 0, next := 4 })] } }
     tablePlace s (groupPlan s) 0 4 = none ∧ (batchOf (ran (.tokenReceive 3) s) 0).opened.length = 2 ∧
       (batchOf (ran (.tokenReceive 3) s) 0).next = 4 ∧
       (batchOf (ran (.batchTimeout 0) (atNs s 100000)) 0).opened.length = 1) ∧
    (let s := heldIn 1 otherMsg []
     nextMsg s = some (false, 4, 9) ∧ (winOf s 3).held.length = 1 ∧ (winOf (ran (.tokenReceive 3) s) 3).held = [] ∧
       (winOf (ran (.tokenReceive 3) s) 3).freed = 1 ∧ (ran (.tokenReceive 3) s).pm.rx = []) :=
  by decide +kernel

/-- A NACK of the result of token 7, of expert 0, rank 1. -/
def resultNack : List Host.Cell :=
  [(0x200000040, 3), (0x200000041, 3), (0x200000044, 9), (0x200000050, 7), (0x200000061, 6), (0x200000062, 1), (0x200000064, 33),
   (0x200000068, 9), (0x20000006C, 69), (0x20000006D, 250), (0x20000006E, 87), (0x20000006F, 237)]

/-- Token 7 of part 3 was answered by expert-job 4 of expert 0, which has retired. -/
def answered : State :=
  let s := heldIn 1 resultNack []
  { s with
    jobs := [{ newJob (expertId 0 1 4) .expert 6 1 0 with state := .retired, tokens := [7] }]
    pm := { s.pm with rx := [{ id := 7, expert := 0, rank := 1, sender := 3, window := some 3, pos := 9, addr := 0x200000280,
                               job := some (expertId 0 1 4), answered := true }] } }

theorem witness_refused_answers :
    (let s := heldIn 1 (resultMsg.set 3 (0x200000050, 8)) [tok [route false]]
     nextMsg s = some (true, 2, 9) ∧ (ran (.resultReceive 3) s).pm.tokens = s.pm.tokens ∧
       getF (ran (.resultReceive 3) s) Reg.PM_CNT_DISCARD 0 0 = 1) ∧
    (let s0 := heldIn 1 resultMsg [tok [route false]]
     let s := { s0 with pm := { s0.pm with epoch := 8 } }
     nextMsg s = some (false, 2, 9) ∧ s.pm.epoch ≠ 9 ∧ getF (ran (.resultReceive 3) s) Reg.PM_CNT_DISCARD 0 0 = 1) ∧
    (let s := heldIn 1 resultMsg []
     nextMsg s = some (false, 2, 9) ∧ s.pm.tokens = [] ∧ getF (ran (.resultReceive 3) s) Reg.PM_CNT_STRAY 0 0 = 1) ∧
    (let r := { route false with result := some [1] }
     let s := heldIn 1 resultMsg [tok [r, route false]]
     nextMsg s = some (false, 2, 9) ∧ r.result.isSome = true ∧ (ran (.resultReceive 3) s).pm.tokens = s.pm.tokens ∧
       getF (ran (.resultReceive 3) s) Reg.PM_CNT_DUP 0 0 = 1) ∧
    (let s := heldIn 1 (nackMsg.set 3 (0x200000050, 8)) [tok [route false]]
     nextMsg s = some (true, 3, 9) ∧ (ran (.nackReceive 3) s).pm.tokens = s.pm.tokens ∧
       getF (ran (.nackReceive 3) s) Reg.PM_CNT_DISCARD 0 0 = 1) ∧
    (nextMsg answered = some (false, 3, 9) ∧ (chanOf answered 7).opened = true ∧
       (jobOf answered (expertId 0 1 4)).map (·.state) = some .retired ∧
       (jobOf (ran (.nackReceive 3) answered) (expertId 0 1 4)).map (fun j => (j.regen, j.attempt)) = some (true, 1) ∧
       (unjudged answered 3).map (fun m => bytesNat m.2 36 1 / 16) = some 2) := by decide +kernel

theorem witness_answers_received :
    (let s := heldIn 1 resultMsg [tok [route false, route false]]
     nextMsg s = some (false, 2, 9) ∧
       ((routeOf (ran (.resultReceive 3) s) 5 0).bind (·.result)) = some [] ∧
       (ran (.resultReceive 3) s).stage = []) ∧
    (let s := heldIn 1 resultMsg [tok [route false]]
     (ran (.resultReceive 3) s).pm.tokens = [] ∧ (ran (.resultReceive 3) s).stage.length = 1 ∧
       getF (ran (.resultReceive 3) s) Reg.PM_CNT_MERGED 0 0 = 1) ∧
    (let s := heldIn 1 nackMsg [tok [route false]]
     nextMsg s = some (false, 3, 9) ∧ routeOf s 5 0 = some (route false) ∧
       routeOf (ran (.nackReceive 3) s) 5 0 = some { route false with retryAt := some 20000 }) ∧
    (let s := { pmS with
       pm := { pmS.pm with wins := [(4, { Win.closed with state := .opened, credit := true })] }
       mem := [(0x200010000, 5), (0x200010008, 6)] }
     (winOf s 4).credit = true ∧ getF s Reg.PM_WIN_CFG_CLASS 0 4 = 1 ∧ (chanOf (ran (.creditBlockReceive 4) s) 6).freed = 5 ∧
       (chanOf (ran (.creditBlockReceive 4) s) 7).freed = 6) ∧
    (let s := { pmS with pm := { pmS.pm with wins := [(3, { Win.closed with state := .opened, credit := true })] } }
     (winOf s 3).credit = true ∧ getF s Reg.PM_WIN_CFG_CLASS 0 3 = 0 ∧ (winOf (ran (.creditBlockReceive 3) s) 3).credit = false) := by
  decide +kernel

theorem witness_peer_timers_and_epochs :
    (let k : RxToken := { id := 7, expert := 0, rank := 1, sender := 3, window := some 3, pos := 1, addr := 0x200000080, job := none, answered := false }
     let s := atNs { pmS with pm := { pmS.pm with
       rx := [k], batches := [(0, { opened := [(7, 0x200000080)], openedNs := 0, next := 4 })] } } 10000
     expertTmpl s 0 = some (tmpl 1 3) ∧ (batchOf s 0).openedNs + 1000 * (tmpl 1 3).batchUs ≤ nowNs s ∧
       jobOf s (expertId 0 1 4) = none ∧ (batchOf (ran (.batchTimeout 0) s) 0).opened = [] ∧
       (jobOf (ran (.batchTimeout 0) s) (expertId 0 1 4)).map (fun j => (j.plan, j.tokens)) = some (6, [7])) ∧
    (let r := { route false with retryAt := some 0 }
     let s := withToks [tok [r]]
     routeOf s 5 0 = some r ∧ hostsExpert s 2 = false ∧ routeOf (ran (.tokenRetry 5 0) s) 5 0 = some (route true)) ∧
    (let r := { route false with resends := 3 }
     let s := atNs (withToks [tok [r]]) 10000000
     routeOf s 5 0 = some r ∧ r.sentNs + 1000 * fld s Reg.PM_TIMEOUT_TOKEN_TO ≤ nowNs s ∧ r.resends = fld s Reg.PM_TIMEOUT_MAX_RESEND ∧
       routeOf (ran (.tokenTimeout 5 0) s) 5 0 = some { route true with resends := 4, sentNs := 10000000, told := true } ∧
       ((ran (.tokenTimeout 5 0) s).fm.intake.map fun w => w.rep.cause) = [0x4A]) ∧
    (let s := atNs (withToks [tok [route false]]) 10000000
     (route false).resends < fld s Reg.PM_TIMEOUT_MAX_RESEND ∧ (ran (.tokenTimeout 5 0) s).fm = s.fm ∧
       (routeOf (ran (.tokenTimeout 5 0) s) 5 0).map (·.resends) = some 1) ∧
    (let r := { route false with resends := 3, told := true }
     let s := atNs (withToks [tok [r]]) 10000000
     r.told = true ∧ (ran (.tokenTimeout 5 0) s).fm = s.fm ∧ (routeOf (ran (.tokenTimeout 5 0) s) 5 0).map (·.resends) = some 4) ∧
    (let r := { route false with expert := 0, retryAt := some 0 }
     let s := withToks [tok [r]]
     routeOf s 5 0 = some r ∧ hostsExpert s 0 = true ∧
       routeOf (ran (.tokenRetry 5 0) s) 5 0 = some { r with retryAt := none, part := 1 } ∧
       ((ran (.tokenRetry 5 0) s).pm.rx.map fun q => (q.id, q.expert, q.window)) = [(5, 0, none)]) ∧
    (let r := { route false with expert := 0 }
     let s := atNs (withToks [tok [r]]) 10000000
     routeOf s 5 0 = some r ∧ hostsExpert s 0 = true ∧ (routeOf (ran (.tokenTimeout 5 0) s) 5 0).map (·.resends) = some 1 ∧
       ((ran (.tokenTimeout 5 0) s).pm.rx.map fun q => (q.id, q.expert, q.window)) = [(5, 0, none)]) ∧
    (answers pmS 0x900018 = true ∧ pmS.pm.epoch = 9 ∧ ran (.epochAdvance 9) pmS = pmS) := by decide +kernel

/-- Window 3 is to close and window 5 to open; the epoch is already the next one. -/
def nextEpoch : State := { pmS with shadow := [(fldKey Reg.PM_WIN_CFG_EN 0 5, 2)], pm := { pmS.pm with epoch := 10 } }

theorem witness_epoch_advance :
    (answers pmS 0x900018 = true ∧ (10 : BitVec 32).toNat ≠ pmS.pm.epoch) ∧
    (mget 0 nextEpoch.shadow (fldKey Reg.PM_WIN_CFG_EN 0 5) = 2 ∧ (winOf nextEpoch 5).state = .closed ∧
       (winOf (openWindow (shutWindow nextEpoch 5) 5) 5).state = .opened ∧ (winOf (openWindow (shutWindow nextEpoch 5) 5) 5).epoch = 10) ∧
    (getF nextEpoch Reg.PM_WIN_CFG_EN 0 3 = 0 ∧ (winOf (shutWindow nextEpoch 3) 3).state = .closed) ∧
    (getF nextEpoch Reg.PM_SEND_CTL_EN 0 6 = 0 ∧ (chanOf (shutChannel nextEpoch 6) 6).opened = false) := by decide +kernel
/-! ### The event hub and the control cores -/

/-- Core 4 runs at 0x100. -/
def ck : Core := { Core.zero with run := .running, pc := 0x100, tvec := 0x40, g := [(1, 5), (2, 2 ^ 64 - 3)], dsp := 0x1000, dhi := 0x2000 }

def cs (k : Core) : State := { up with cores := [(4, k)] }

/-- What core 4 is after a command. -/
def coreOf (c : Instr) (s : State) : Core := coreNo (ran c s) 4

theorem witness_event_hub :
    (source up 200 = .idle ∧ source (ran (.eventSet 200) up) 200 = .pending ∧ source (ran (.eventClear 200) up) 200 = .idle) ∧
    (let s := { up with sources := [(200, .pending)] }
     source (ran (.eventSet 200) s) 200 = .pending ∧ getF (ran (.eventSet 200) s) Reg.EV_CNT_COALESCED 0 0 = 1 ∧
       getF (ran (.eventSet 200) s) Reg.EV_SRC_COALESCED 0 200 = 1 ∧ source (ran (.eventClear 200) s) 200 = .idle) ∧
    (let s := { up with sources := [(200, .active)] }
     source (ran (.eventSet 200) s) 200 = .activePending ∧ source (ran (.eventClear 200) s) 200 = .active) ∧
    (let s := { up with sources := [(200, .activePending)] }
     source (ran (.eventSet 200) s) 200 = .activePending ∧ source (ran (.eventClear 200) s) 200 = .active) ∧
    ((ran (.asyncEdgeLatch 3) up).latches = 8) ∧
    (let s := { up with latches := 8 }
     s.pins.fclkRuns = true ∧ source s 19 = .idle ∧ source (ran .latchApply s) 19 = .pending ∧ (ran .latchApply s).latches = 0) ∧
    (let s0 : State := cs { ck with run := .sleeping }
     let s1 : State := { s0 with sources := [(200, .pending)] }
     let s := sets s1 [(Reg.EV_CTL_EN, 0, 0, 1), (Reg.EV_SRC_EN, 0, 200, 1), (Reg.EV_SRC_ROUTE, 0, 200, 16)]
     evEn s = true ∧ isReserved s 200 = false ∧ pickCore s 200 = some 4 ∧ (coreNo (ran .eventRoute s) 4).reserved = some 200 ∧
       (coreNo (ran .eventRoute s) 4).run = .running ∧ (coreNo (ran .eventRoute s) 4).pc = 0x104) := by decide +kernel

/-- Core 4 holds source 200, and source 100 is pending for it. -/
def holding : State :=
  let s : State := cs { ck with active := some 200, hm := true }
  let s1 : State := { s with sources := [(100, .pending), (200, .active)] }
  sets s1 [(Reg.EV_CTL_EN, 0, 0, 1), (Reg.EV_SRC_EN, 0, 100, 1), (Reg.EV_SRC_ROUTE, 0, 100, 16)]

theorem witness_handlers_never_nest :
    (HoldsOne holding ∧ (coreNo holding 4).active = some 200 ∧ (coreNo (ran .eventRoute holding) 4).reserved = none ∧
       source (ran .eventRoute holding) 100 = .pending) ∧
    ((coreNo holding 4).hm = true ∧ ran (.handlerEntry 4) holding = holding) ∧
    (let s : State := cs { ck with reserved := some 100, ee := true }
     HoldsOne s ∧ (coreNo (ran (.handlerEntry 4) s) 4).reserved = some 100 ∧ (coreNo (ran (.handlerEntry 4) s) 4).hm = true) := by decide +kernel

theorem witness_traps_are_precise :
    (let c := Instr.push 4 2
     let s := cs { ck with dsp := 0, dlo := 0 }
     (coreNo s 4).tm = false ∧ outside (exec c s) = false ∧ (coreOf c s).tm = true ∧ (coreOf c s).tpc = 0x100 ∧
       (coreOf c s).pc = 0x40 ∧ (coreOf c s).g = ck.g) ∧
    (let s := cs { ck with tm := true, tpc := 0x80 }
     CoreRuns 4 s ∧ (coreOf (.rti 4) s).pc = 0x80 ∧ (coreOf (.rti 4) s).tm = false) ∧
    (CoreRuns 4 (cs ck) ∧ ck.tm = false ∧ (coreOf (.trapBrk 4 7 .brk) (cs ck)).tcause = 9 ∧ (coreOf (.trapBrk 4 7 .brk) (cs ck)).tval = 7) := by decide +kernel

theorem witness_core_arithmetic_and_branches :
    (CoreRuns 4 (cs ck) ∧ coreLegal .add (.imm 1) (op2Val ck (.imm 1)) = true ∧
       (let t := coreOf (.coreArithmetic 4 .add 3 2 (.imm 1)) (cs ck)
        gReg t 3 = 2 ^ 64 - 2 ∧ t.pc = 0x104 ∧ t.g.length = 3)) ∧
    (gReg (coreOf (.coreArithmetic 4 .div 3 2 (.imm 2)) (cs ck)) 3 = 2 ^ 64 - 1 ∧
       gReg (coreOf (.coreArithmetic 4 .rem 3 2 (.imm 2)) (cs ck)) 3 = 2 ^ 64 - 1 ∧
       gReg (coreOf (.coreArithmetic 4 .div 3 2 (.imm 0)) (cs ck)) 3 = 2 ^ 64 - 1) ∧
    (gReg (coreOf (.coreArithmetic 4 .add 0 2 (.imm 1)) (cs ck)) 0 = 0) ∧
    (coreLegal .bfx (.reg 1) (op2Val ck (.reg 1)) = false ∧ (coreOf (.coreArithmetic 4 .bfx 3 2 (.reg 1)) (cs ck)).tcause = 1 ∧
       (coreOf (.coreArithmetic 4 .bfx 3 2 (.reg 1)) (cs ck)).pc = 0x40 ∧ (coreOf (.coreArithmetic 4 .bfx 3 2 (.reg 1)) (cs ck)).tpc = 0x100) ∧
    (brHolds 3 (gReg ck 2) = true ∧ (coreOf (.coreBranch 4 (.br 3 2 0x80)) (cs ck)).pc = 0x80 ∧
       (coreOf (.coreBranch 4 (.br 1 2 0x80)) (cs ck)).pc = 0x104) ∧
    ((coreOf (.coreBranch 4 (.call 0x80)) (cs ck)).rstack = [0x104] ∧ (coreOf (.coreBranch 4 (.call 0x80)) (cs ck)).pc = 0x80) ∧
    (let k := { ck with rstack := List.replicate 64 0 }
     64 ≤ k.rstack.length ∧ (coreOf (.coreBranch 4 (.call 0x80)) (cs k)).tcause = 5) ∧
    (let k := { ck with rstack := [0x300] }
     k.rstack = [0x300] ∧ (coreOf (.coreBranch 4 .ret) (cs k)).pc = 0x300 ∧ (coreOf (.coreBranch 4 .ret) (cs k)).rstack = []) ∧
    (ck.rstack = [] ∧ (coreOf (.coreBranch 4 .ret) (cs ck)).tcause = 5) ∧
    (let k := { ck with tm := true }
     (coreOf (.coreBranch 4 .ret) (cs k)).run = .faulted ∧ ((ran (.coreBranch 4 .ret) (cs k)).fm.intake.map fun w => w.rep.cause) = [0x47]) := by
  decide +kernel

/-- An address in the core's TCM, and one in DRAM. -/
def inTcm (o : Nat) : BitVec 64 := BitVec.ofNat 64 (0x8000000000000000 + o)

theorem witness_core_stack_and_loads :
    (let k := { ck with dsp := 4 }
     k.dsp.toNat < k.dlo.toNat + 8 ∧ (coreOf (.push 4 1) (cs k)).tcause = 4) ∧
    (ck.dlo.toNat + 8 ≤ ck.dsp.toNat ∧ ck.dsp.toNat % 8 = 0 ∧ (coreOf (.push 4 1) (cs ck)).dsp = 0xFF8 ∧
       ((coreOf (.push 4 1) (cs ck)).sb.map fun e => (e.addr, e.bytes)) = [(0x8000000000000FF8, [5, 0, 0, 0, 0, 0, 0, 0])]) ∧
    (let k := { ck with dsp := 0x2000 }
     k.dhi.toNat ≤ k.dsp.toNat ∧ (coreOf (.pop 4 3 false) (cs k)).tcause = 4) ∧
    (let s := { cs ck with tcm := [(0x101000, 9)] }
     ck.dsp.toNat < ck.dhi.toNat ∧ coreBlocked ck (tcmAddr 0x1000, 8) = false ∧ gReg (coreOf (.pop 4 3 false) s) 3 = 9 ∧
       (coreOf (.pop 4 3 false) s).dsp = 0x1008) ∧
    (coreAccess (cs ck) (inTcm 0x60000).toNat 4 = 2 ∧ (coreOf (.coreLoad 4 2 false 3 (inTcm 0x60000) false false) (cs ck)).tcause = 2) ∧
    (let s := { cs ck with tcm := [(0x100201, 0xFF)] }
     coreMem s (inTcm 0x201).toNat = .tcm 0x201 ∧ gReg (coreOf (.coreLoad 4 0 true 3 (inTcm 0x201) false false) s) 3 = 2 ^ 64 - 1 ∧
       gReg (coreOf (.coreLoad 4 0 false 3 (inTcm 0x201) false false) s) 3 = 255) ∧
    (youngest ck ((inTcm 0x200).toNat, 4) = none ∧ (coreOf (.coreLoad 4 2 false 3 (inTcm 0x200) true false) (cs ck)).tcause = 7) ∧
    (let s := { dr with cores := [(4, ck)] }
     coreMem s 0x103C = .dev 0x103C ∧ (devRead s 0x103C 4 .clean 0).1.any (·.2) = false ∧
       gReg (coreOf (.coreLoad 4 2 false 3 0x103C false false) s) 3 = 0x8000000) := by decide +kernel

/-- Accesses that a naturally aligned pair makes up, and what a poisoned byte, a parity failure and a bus error do. -/
theorem witness_core_pieces :
    (let k := { ck with dsp := 0x1004 }
     coreAccess (cs k) (tcmAddr 0xFFC) 8 = 0 ∧
       ((coreOf (.push 4 1) (cs k)).sb.map fun e => (e.addr % 65536, e.bytes)) = [(0xFFC, [5, 0, 0, 0]), (0x1000, [0, 0, 0, 0])]) ∧
    (let k := { ck with dsp := 0x50000, dhi := 0x60000 }
     coreAccess (cs k) (tcmAddr 0x4FFF8) 8 = 0 ∧ coreAccess (cs k) (tcmAddr 0x50000) 8 = 2 ∧ (coreOf (.pop 4 3 false) (cs k)).tcause = 2) ∧
    (let k := { ck with dsp := 0x60000, dhi := 0x70000 }
     coreAccess (cs k) (tcmAddr 0x5FFF8) 8 = 2 ∧ (coreOf (.push 4 3) (cs k)).tcause = 2) ∧
    (let k := { ck with dsp := 0x1004 }
     let s := { cs k with tcm := [(0x101004, 1), (0x10100B, 2)] }
     LoadFree s 4 k (tcmAddr 0x1004) 8 ∧ coreKind s (tcmAddr 0x1004) < 3 ∧
       ((coreParts (tcmAddr 0x1004) 8).all fun p => (coreFwd k p).isSome) = false ∧ (coreOf (.pop 4 3 true) s).tcause = 7 ∧ (coreGot s 4 (tcmAddr 0x1004) 8).1.any (·.2) = false ∧
       gReg (coreOf (.pop 4 3 false) s) 3 = 0x200000000000001) ∧
    (let s := { cs ck with tcm := [(0x100203, 1), (0x100204, 2)] }
     LoadFree s 4 ck (inTcm 0x203).toNat 2 ∧ gReg (coreOf (.coreLoad 4 1 false 3 (inTcm 0x203) false false) s) 3 = 0x201 ∧
       (coreOf (.coreLoad 4 1 false 3 (inTcm 0x203) true false) s).tcause = 7) ∧
    (let s := { dr with cores := [(4, ck)] }
     LoadFree s 4 ck 0x1040 4 ∧ ck.tm = false ∧ (coreGot s 4 0x1040 4).1.any (·.2) = true ∧
       (coreOf (.coreLoad 4 2 false 3 0x1040 false false) s).tcause = 6) ∧
    (let s := { dr with cores := [(4, ck)] }
     LoadFree s 4 ck 0x1002 4 ∧ (coreGot s 4 0x1002 4).1.any (·.2) = false ∧ (coreOf (.coreLoad 4 2 false 3 0x1002 false true) s).tcause = 8) :=
  by decide +kernel

theorem witness_core_loads_of_the_host :
    (let k := { ck with sb := [{ addr := (inTcm 0x200).toNat, bytes := [7, 8] }] }
     let w := { k with loadHeld := true }
     coreAccess (cs k) (inTcm 0x200).toNat 4 = 0 ∧ (coreParts (inTcm 0x200).toNat 4).any (coreBlocked k) = true ∧ k.loadHeld = false ∧
       w.loadHeld = true ∧ coreOf (.coreLoad 4 2 false 3 (inTcm 0x200) false false) (cs k) = w ∧
       getF (ran (.coreLoad 4 2 false 3 (inTcm 0x200) false false) (cs k)) Reg.SC_CORE_CNT_SB_PARTIAL 0 4 = 1 ∧
       ran (.coreLoad 4 2 false 3 (inTcm 0x200) false false) (cs w) = cs w) ∧
    (let s := { rg with cores := [(4, ck)], hl := { rg.hl with bme := false } }
     coreAccess s 0x3000000040 4 = 0 ∧ (coreParts 0x3000000040 4).any (coreBlocked ck) = false ∧
       (coreParts 0x3000000040 4).any (coreHeld s 4 ck) = true ∧ (coreParts 0x3000000040 4).any (coreHost s ck) = true ∧
       hostOpen s = false ∧ coreOf (.coreLoad 4 2 false 3 0x3000000040 false false) s = { ck with hostWait := true }) ∧
    (let s := { rg with cores := [(4, ck)], hl := { rg.hl with failed := [.core 4] } }
     coreAccess s 0x3000000040 4 = 0 ∧ (coreParts 0x3000000040 4).any (coreBlocked ck) = false ∧
       (coreParts 0x3000000040 4).any (coreHeld s 4 ck) = false ∧ (coreParts 0x3000000040 4).any (coreHost s ck) = true ∧
       (coreOf (.coreLoad 4 2 false 3 0x3000000040 false false) s).tcause = 8 ∧
       (ran (.coreLoad 4 2 false 3 0x3000000040 false false) s).hl.failed = []) ∧
    (let s := { rg with cores := [(4, ck)], hostMem := [(0x41, 1)] }
     coreKind s 0x3000000040 = 5 ∧ hostOpen s = true ∧ s.hl.failed.contains (.core 4) = false ∧
       gReg (coreOf (.coreLoad 4 2 false 3 0x3000000040 false false) s) 3 = 0x100) ∧
    (coreAccess (cs ck) (inTcm 0x20E).toNat 4 = 0 ∧
       ((coreOf (.coreStore 4 2 2 (inTcm 0x20E)) (cs ck)).sb.map fun e => (e.addr % 65536, e.bytes)) =
         [(0x20E, [0xFD, 0xFF]), (0x210, [0xFF, 0xFF])]) ∧
    (let k := { ck with sb := [{ addr := 0x8001000000300008, bytes := [5, 0, 0, 0] }] }
     coreMem (cs k) 0x8001000000300008 = .reg 0x300008 ∧ windowShut (cs k) 5 0x300008 4 = false ∧
       (coreOf (.coreStoreCommit 4 false) (cs k)).sb = [] ∧ (cs k).cores.length = 1 ∧
       (coreOf (.coreStoreCommit 4 true) (cs k)).tcause = 8) :=
  by decide +kernel

theorem witness_core_stores_and_bits :
    (coreAccess (cs ck) (inTcm 0x60000).toNat 4 ≠ 0 ∧ (coreOf (.coreStore 4 2 1 (inTcm 0x60000)) (cs ck)).tcause = 2) ∧
    (coreAccess (cs ck) (inTcm 0x200).toNat 4 = 0 ∧
       ((coreOf (.coreStore 4 2 2 (inTcm 0x200)) (cs ck)).sb.map (·.bytes)) = [[0xFD, 0xFF, 0xFF, 0xFF]]) ∧
    (let k := { ck with sb := List.replicate 4 { addr := 0x1000, bytes := [1] } }
     4 ≤ k.sb.length ∧ ran (.coreStore 4 2 2 (inTcm 0x200)) (cs k) = cs k) ∧
    (let k := { ck with g := [(1, 524288)] }
     524288 ≤ gReg k 1 ∧ (coreOf (.bitVariable 4 .bset 3 1) (cs k)).tcause = 2 ∧ (coreOf (.btas 4 3 1) (cs k)).tcause = 2) ∧
    (gReg ck 1 < 524288 ∧ (ran (.bitVariable 4 .bset 3 1) (cs ck)).bitVars = [(0, 32)] ∧
       gReg (coreOf (.bitVariable 4 .btst 3 1) { cs ck with bitVars := [(0, 32)] }) 3 = 1 ∧
       (ran (.bitVariable 4 .bclr 3 1) { cs ck with bitVars := [(0, 33)] }).bitVars = [(0, 1)]) ∧
    (gReg (coreOf (.btas 4 3 1) (cs ck)) 3 = 0 ∧ (ran (.btas 4 3 1) (cs ck)).bitVars = [(0, 32)]) ∧
    (let k := { ck with sb := [{ addr := (inTcm 0x200).toNat, bytes := [7, 8] }] }
     coreMem (cs k) (inTcm 0x200).toNat = .tcm 0x200 ∧ (ran (.coreStoreCommit 4 false) (cs k)).tcm = [(0x100200, 7), (0x100201, 8)] ∧
       (coreOf (.coreStoreCommit 4 false) (cs k)).sb = []) ∧
    (let k := { ck with sb := [{ addr := (inTcm 0x40002).toNat, bytes := [7] }] }
     coreMem (cs k) (inTcm 0x40002).toNat = .bits 2 ∧ (ran (.coreStoreCommit 4 false) (cs k)).bitVars = [(2, 7)]) ∧
    (let k := { ck with sb := [{ addr := 0x1000, bytes := [7] }] }
     let s := { dr with cores := [(4, k)] }
     coreMem s 0x1000 = .dev 0x1000 ∧ (coreOf (.coreStoreCommit 4 true) s).tcause = 8 ∧
       (ran (.coreStoreCommit 4 false) s).mem = [(0x1000, 7), (0x103F, 8)]) := by decide +kernel

theorem witness_core_control :
    (let k := { ck with reserved := some 200, ee := true, evec := 0x80 }
     (coreOf (.handlerEntry 4) (cs k)) = { k with epc := 0x100, hm := true, ee := false, loadHeld := false, hostWait := false, pc := 0x80 }) ∧
    (let s := { cs ck with sec := { up.sec with scopes := 1 } }
     s.sec.scopes.getLsbD 0 = true ∧ (coreOf (.debugCoreHalt 4) s).run = .halted) ∧
    (let s := { cs { ck with reserved := some 200 } with sources := [(200, .pending)] }
     source s 200 = .pending ∧ gReg (coreOf (.eclClaim 4 3) s) 3 = 200 ∧ source (ran (.eclClaim 4 3) s) 200 = .active ∧
       (coreOf (.eclClaim 4 3) s).active = some 200) ∧
    (let s := cs { ck with reserved := some 200 }
     source s 200 ≠ .pending ∧ gReg (coreOf (.eclClaim 4 3) s) 3 = 1024 ∧ fld (ran (.eclClaim 4 3) s) Reg.EV_CNT_SPURIOUS = 1) ∧
    (ck.reserved = none ∧ (coreOf (.eclClaim 4 3) (cs ck)).reserved = none ∧ (coreOf (.mfsrMtsr 4 .mfsr .ecl 3) (cs ck)).pc = 0x104 ∧
       (coreOf (.eclClaim 4 3) (cs ck)).pc = 0x104) ∧
    (let s := { cs { ck with active := some 200 } with sources := [(200, .activePending)] }
     source (ran (.evdone 4 200) s) 200 = .pending ∧ (coreOf (.evdone 4 200) s).active = none ∧
       fld (ran (.evdone 4 201) s) Reg.EV_CNT_BAD_DONE = 1) ∧
    (let k := { ck with tm := true, tpc := 0x500 }
     (coreOf (.rti 4) (cs k)).pc = 0x500 ∧ (coreOf (.rti 4) (cs k)).tm = false) ∧
    (let k := { ck with hm := true, epc := 0x600 }
     (coreOf (.rti 4) (cs k)).pc = 0x600 ∧ (coreOf (.rti 4) (cs k)).ee = true) :=
  by decide +kernel

theorem witness_core_special_registers :
    (let k := { ck with hm := true, evec := 0x700, reserved := some 9 }
     (coreOf (.rti 4) (cs k)).pc = 0x700 ∧ (coreOf (.rti 4) (cs k)).hm = true ∧ fld (ran (.rti 4) (cs k)) Reg.EV_CNT_CHAINED = 1) ∧
    (ck.tm = false ∧ ck.hm = false ∧ (coreOf (.rti 4) (cs ck)).tcause = 1) ∧
    ((coreOf (.wfe 4) (cs ck)).run = .sleeping ∧ (coreOf (.wfe 4) (cs { ck with reserved := some 9 })).pc = 0x104) ∧
    (gReg (coreOf (.mfsrMtsr 4 .mfsr .dsp 3) (cs ck)) 3 = 0x1000 ∧ (coreOf (.mfsrMtsr 4 .mtsr .evec 1) (cs ck)).evec = 5 ∧
       (coreOf (.mfsrMtsr 4 .mtsr .tpri 2) (cs ck)).tpri = 1024) ∧
    ((coreOf (.trapBrk 4 77 .brk) (cs ck)).tcause = 9 ∧ (coreOf (.trapBrk 4 77 .brk) (cs ck)).tval = 77 ∧
       (ran (.trapBrk 4 77 .brk) (cs ck)).fm = up.fm ∧ (ran (.trapBrk 4 77 .trap) (cs ck)).fm.intake.length = 1) ∧
    (let s := { cs ck with tcm := [(0x100100, 0xFF), (0x100103, 0x7F)] }
     CoreRuns 4 s ∧ (coreOf (.trapBrk 4 0 .illegal) s).tcause = 1 ∧ (coreOf (.trapBrk 4 0 .illegal) s).tval = 0x7F0000FF ∧
       (coreOf (.trapBrk 4 0 .fetchParity) s).tcause = 7 ∧ (coreOf (.trapBrk 4 0 .fetchParity) s).pc = 0x40) ∧
    ((coreOf (.fence 4) (cs ck)).pc = 0x104 ∧ (coreOf (.fenceI 4) (cs ck)).pc = 0x104) ∧
    (let k := { ck with sb := [{ addr := 0x1000, bytes := [7] }] }
     ran (.fence 4) (cs k) = cs k ∧ ran (.fenceI 4) (cs k) = cs k) :=
  by decide +kernel

/-! ### Resets and faults -/

def held (h : Hold) : State := { up with pins := { up.pins with hold := h } }

/-- The fault manager in a phase. -/
def inPhase (p : FmPhase) : State := { up with fm := { Fm.zero with phase := p, cause := 0x40, resetCause := 3 } }

theorem witness_device_resets :
    (up.pins.hold = .none ∧ up.fm.phase ≠ .devPending ∧ (ran (.conventionalReset false) up).boot = { Boot.start with cause := 2 } ∧
       (ran (.conventionalReset false) up).pins.hold = .perst ∧
       (ran (.conventionalReset false) { up with pins := { up.pins with giPins := 5 } }).giLevel = 5) ∧
    (up.fm.phase ≠ .devPending ∧ ran .devDelayExpiry up = up) ∧
    (let s := { held .brownOut with pins := { (held .brownOut).pins with perstLow := true } }
     s.pins.hold = .brownOut ∧ (ran .brownOutRelease s).pins.hold = .perst) ∧
    ((inPhase .devPending).fm.phase = .devPending ∧ (ran (.conventionalReset false) (inPhase .devPending)).boot.cause = 3 ∧
       (ran (.conventionalReset false) (inPhase .devPending)).boot.faultCause = 0x40) ∧
    ((ran (.conventionalReset false) (held .thermal)).pins.perstLow = true ∧ (ran (.conventionalReset true) (held .perst)).pins.hold = .none) ∧
    ((ran (.brownOut 2) up).pins.hold = .brownOut ∧ ran (.brownOut 2) (held .brownOut) = held .brownOut ∧
       (ran .brownOutRelease (held .brownOut)).pins.hold = .none) ∧
    (let s := { held .thermal with hv := { Hv.zero with cool := 20000 } }
     s.pins.hold = .thermal ∧ 20000 ≤ s.hv.cool ∧ (ran .thermalTripRelease s).pins.hold = .none) ∧
    ((held .thermal).hv.cool < 20000 ∧ ran .thermalTripRelease (held .thermal) = held .thermal) ∧
    (let s := { up with sec := { up.sec with scopes := 4 } }
     s.sec.scopes ≠ 0 ∧ (ran .debugReset s).boot.cause = 6 ∧ ran .debugReset up = up) ∧
    (let s := atNs (inPhase .devPending) (10 ^ 12)
     s.fm.since + 1000000 * fld s Reg.FM_CTL_DEV_DELAY ≤ nowNs s ∧ (ran .devDelayExpiry s).boot.cause = 3 ∧
       (ran .devDelayExpiry s).sec.queue.length = 1) ∧
    (let s := inPhase .devPending
     nowNs s < s.fm.since + 1000000 * fld s Reg.FM_CTL_DEV_DELAY ∧ ran .devDelayExpiry s = s) := by decide +kernel

theorem witness_function_resets :
    (let s := { up with boot := { up.boot with stage := 4 } }
     s.boot.stage ≠ 8 ∧ hostThere s = true ∧ (ran .functionLevelReset s).hl.bme = false ∧ (ran .hotReset s).hl.up = false) ∧
    (let s := { rg with rings := [(1, { Ring.zero with tail := 8 })], descs := [dsc 0 0 0 []] }
     s.boot.stage = 8 ∧ hostThere s = true ∧ (ran .functionLevelReset s).rings = [] ∧ (ran .functionLevelReset s).descs = [] ∧
       source (ran .functionLevelReset s) 32 = .pending ∧ source (ran .hotReset s) 33 = .pending) := by decide +kernel

/-- A peer's loss of credit, class 0. -/
def rep0 : Report := mkReport 0x49 .peer 0 7 0 3

theorem witness_fault_reports :
    (ready State.reset = false ∧ ran (.faultReport rep0) State.reset = State.reset) ∧
    (ready up = true ∧ up.fm.intake = [] ∧ up.fm.recoveries = [] ∧ unread up < 64 ∧ logTail (ran (.faultReport rep0) up) = 1 ∧
       getF (ran (.faultReport rep0) up) Reg.FM_LOG 0 0 % 256 = 0x49 ∧ getF (ran (.faultReport rep0) up) Reg.FM_LOG 0 3 = 7) ∧
    (let s := sets up [(Reg.FM_LOG_IDX_TAIL, 0, 0, 31), (Reg.FM_CTL_LOG_THRESH, 0, 0, 32), (Reg.FM_CTL_IRQ_EN, 0, 0, 1)]
     (ran (.faultReport rep0) s).fm = { s.fm with notified := true } ∧ (ran (.faultReport rep0) s).hl.pending = [0]) ∧
    (let s := put up Reg.FM_LOG_IDX_TAIL 64
     64 ≤ unread s ∧ logTail (ran (.faultReport rep0) s) = 64 ∧ getF (ran (.faultReport rep0) s) Reg.FM_CNT_LOST 0 0 = 1) ∧
    (let r := mkReport 0x40 .dram 9 64 0 0
     let k : Recovery := { dom := .channel 9, cls := 1, rep := r, jobs := [5], holds := false }
     let s := { up with fm := { Fm.zero with recoveries := [k] } }
     isProgram r.cause = false ∧ (k ∈ s.fm.recoveries ∧ k.rep.loc = r.loc) ∧ fld (ran (.faultReport r) s) Reg.FM_CNT_MERGED = 1 ∧
       (ran (.faultReport r) s).fm.recoveries = [k]) ∧
    (let k : Recovery := { dom := .channel 9, cls := 1, rep := mkReport 0x40 .dram 9 64 0 0, jobs := [5], holds := false }
     let w : Waiting := { rep := k.rep, esc := false, ns := 0, attempt := 0 }
     let s := { up with fm := { Fm.zero with intake := [w], recoveries := [k] } }
     s.fm.intake.map (·.rep) = [w.rep] ∧ ran (.faultReport none) s = takeReport s ∧ (ran (.faultReport none) s).fm.intake = [] ∧
       (ran (.faultReport w.rep) s).fm.intake.map (·.rep) = [w.rep] ∧
       (ran (.faultReport rep0) s).fm.intake.map (·.rep) = [rep0] ∧
       (k ∈ s.fm.recoveries ∧ k.rep.loc = w.rep.loc ∧ isProgram w.rep.cause = false) ∧ (ran (.faultReport rep0) s).fm.recoveries = [k] ∧
       fld (ran (.faultReport rep0) s) Reg.FM_CNT_MERGED = 1) ∧
    (let s := { up with grid := { failed := [], cold := [], rows := 16, enabled := 256 } }
     let r := mkReport 0x42 .tile 3 0x48 0 0
     let q := mkReport 0x43 .tile 3 0x48 0 0
     logicalOf s 3 = some 3 ∧ mget false (parityMark s r).spPoison ((0x1000600048) / 8) = true ∧
       getF (parityMark s r) Reg.TA_CNT_SP_PARITY 3 0 = 1 ∧ getF (parityMark s q) Reg.TA_CNT_IPARITY 3 0 = 1 ∧
       (parityMark s q).spPoison = [] ∧ parityMark s rep0 = s ∧ getF (ran (.faultReport r) s) Reg.TA_CNT_SP_PARITY 3 0 = 1) ∧
    (let r := mkReport 0x4D .clock 0 0 0 0
     up.fm.phase ≠ .devPending ∧ (ran (.faultReport r) up).boot = { Boot.start with cause := 3, faultCause := 0x4D }) := by decide +kernel

theorem witness_frost_and_thaw :
    (let s := { up with tiles := [(3, Tile.zero)], mem := [(5, 1), (0x1000600000, 2)], cores := [(4, { ck with entry := 0x20 })] }
     answers s 0x300020 = true ∧ s.fm.phase = .normal ∧ (ran .frost s).fm.phase = .frost ∧ (ran .frost s).tiles = [] ∧
       (ran .frost s).mem = [(5, 1)] ∧ coreNo (ran .frost s) 4 = { Core.zero with entry := 0x20 }) ∧
    ((inPhase .frost).fm.phase = .frost ∧ answers (inPhase .frost) 0x300020 = true ∧
       fld (ran .frost (inPhase .frost)) Reg.FM_CNT_MERGED = 1) ∧
    (up.fm.phase ≠ .devPending ∧ (ran .devReset up).fm.phase = .devPending ∧ (ran .devReset up).fm.resetCause = 4) ∧
    (let s := { inPhase .devPending with chans := [(9, { Channel.zero with suspects := [⟨3, 40, 0⟩] })] }
     repairRows s true = [(9, 3, 40, 1)] ∧ (ran .devReset s).sec.queue.length = 1 ∧ (ran .devReset s).fm = s.fm) ∧
    (let s := { inPhase .frost with grid := { failed := [5, 9, 77], cold := [5], rows := 16, enabled := 256 }, sec := { up.sec with licence := some { serial := 1, tiles := 256 } } }
     (ran (.thaw [7, 21]) s).grid = { failed := [5, 7, 21], cold := [5], rows := 15, enabled := 240 }) ∧
    (ran (.thaw [7]) up = up) ∧
    ((inPhase .devPending).fm.phase = .devPending ∧ answers (inPhase .devPending) 0x300020 = true ∧
       fld (ran .frost (inPhase .devPending)) Reg.FM_CNT_ERRORS = 1 ∧ fld (ran .frost (inPhase .devPending)) Reg.FM_CNT_MERGED = 0) ∧
    ((inPhase .frost).fm.phase ≠ .normal ∧ ran .settleExpiry (inPhase .frost) = inPhase .frost) ∧
    (let s := { up with
               engines := [(3, { BEngine.zero with lost := some 2, lostOld := true })]
               blocks := [(1, { BlockMeta.fresh with poison := true })] }
     (engine s 3).lost = some 2 ∧ reloadEntries s 3 true 2 = none ∧
       (ran (.retryTbl 3) s).fm.intake.map (·.rep.cause) = [0x45]) ∧
    (let s := put up Reg.FM_LOG_IDX_TAIL 3
     unread s < (4 + 2 ^ 16 - logHead s) % 2 ^ 16) ∧
    (let k : Recovery := { dom := .none, cls := 3, rep := rep0, jobs := [], holds := true }
     let s := atNs { up with fm := { Fm.zero with recoveries := [k] } } (10 ^ 15)
     s.fm.thawNs + 1000000 * fld s Reg.FM_CTL_SETTLE_MS ≤ nowNs s ∧ (ran .settleExpiry s).fm.recoveries = []) ∧
    ((engine up 3).lost = none ∧ ran (.retryTbl 3) up = up) ∧
    (let s := { up with engines := [(3, { BEngine.zero with lost := some 2 })] }
     (engine s 3).lost = some 2 ∧ ((reloadEntries s 3 false 2).isNone = true ∨ (reloadEntries s 3 false 2).isSome = true)) ∧
    (let s := put up Reg.FM_LOG_IDX_TAIL 3
     answers s 0x300018 = true ∧ logHead (ran (.fmLogAck 2) s) = 2 ∧ ran (.fmLogAck 4) s = s) ∧
    (let s := sets up [(Reg.FM_LOG_IDX_TAIL, 0, 0, 40), (Reg.FM_CTL_LOG_THRESH, 0, 0, 32), (Reg.FM_CTL_IRQ_EN, 0, 0, 1)]
     unread s = 40 ∧ (ran (.fmLogAck 2) s).fm.notified = true ∧ (ran (.fmLogAck 2) s).hl.pending = [0] ∧
       (ran (.fmLogAck 9) (ran (.fmLogAck 2) s)).fm.notified = false) ∧
    (let s := se { hk with reads := [{ rd0 with tag := some 4 }, rd0] }
     sctx (ran .frost s) 1 5 = { SCtx.free with reads := [{ rd0 with tag := some 4, discard := true }] }) := by decide +kernel

/-! ### Bring-up -/

/-- A stage is in progress. -/
def at_ (n : Nat) : State := { State.reset with boot := { Boot.start with stage := n } }

/-- A bundle of 512 bytes: version 6, lowest licence firmware 1, one empty firmware component of entry 0x40. -/
def bundle6 (base : Nat) : List Host.Cell :=
  [(base + 0, 80), (base + 1, 88), (base + 2, 77), (base + 3, 49), (base + 4, 1), (base + 5, 0), (base + 6, 1),
   (base + 7, 0), (base + 8, 6), (base + 9, 0), (base + 10, 0), (base + 11, 0), (base + 12, 1), (base + 13, 0),
   (base + 14, 0), (base + 15, 0), (base + 16, 0), (base + 17, 2), (base + 18, 0), (base + 19, 0), (base + 20, 0),
   (base + 21, 0), (base + 22, 0), (base + 23, 0), (base + 120, 1), (base + 124, 0), (base + 125, 2), (base + 126, 0),
   (base + 127, 0), (base + 128, 0), (base + 129, 0), (base + 130, 0), (base + 131, 0), (base + 132, 64), (base + 133, 0),
   (base + 134, 0), (base + 135, 0), (base + 376, 0), (base + 377, 0), (base + 378, 0), (base + 379, 0), (base + 380, 0),
   (base + 381, 0), (base + 382, 0), (base + 383, 0), (base + 384, 0), (base + 385, 0), (base + 386, 0), (base + 387, 0),
   (base + 388, 0), (base + 389, 0), (base + 390, 0), (base + 391, 0), (base + 392, 0), (base + 393, 0), (base + 394, 0),
   (base + 395, 0), (base + 396, 0), (base + 397, 0), (base + 398, 0), (base + 399, 0), (base + 400, 0), (base + 401, 0),
   (base + 402, 0), (base + 403, 0), (base + 404, 0), (base + 405, 0), (base + 406, 0), (base + 407, 0), (base + 408, 0),
   (base + 409, 0), (base + 410, 0), (base + 411, 0), (base + 412, 0), (base + 413, 0), (base + 414, 0), (base + 415, 0)]

/-- Slot A holds the bundle; slot B says it has no bytes. -/
def flashA : List Host.Cell := bundle6 0x10000 ++ [(0x110010, 0), (0x110011, 0), (0x110012, 0), (0x110013, 0)]

def s1With (f : List Host.Cell) (mode : Nat) : State :=
  { State.reset with boot := { Boot.start with stage := 1, mode := mode }, sec := { Sec.zero with flash := f } }

theorem witness_bring_up_to_s1 :
    (inStage State.reset 0 = true ∧ (ran (.stageS0 true true 2 90) State.reset).boot.stage = 1 ∧
       (ran (.stageS0 true true 2 90) State.reset).boot.mode = 2) ∧
    ((ran (.stageS0 false true 2 90) State.reset).boot.failCode = 2 ∧ (ran (.stageS0 true false 2 90) State.reset).boot.failCode = 1) ∧
    (inStage (s1With [] 0) 1 = true ∧ (ran (.stageS1 false goodSig goodSig 1 true true) (s1With [] 0)).boot.failCode = 0x11) ∧
    (let s := s1With flashA 0
     bundleStatus (slotBytesIn s 0) goodSig = 0 ∧ bundleStatus (slotBytesIn s 1) goodSig ≠ 0 ∧
       (ran (.stageS1 true goodSig goodSig 77 true true) s).boot.stage = 3) ∧
    (let f := [(0x10010, 0), (0x10011, 0), (0x10012, 0), (0x10013, 0)] ++ bundle6 0x110000
     let s := s1With f 0
     bundleStatus (slotBytesIn s 1) goodSig = 0 ∧ bundleStatus (slotBytesIn s 0) goodSig ≠ 0 ∧
       (ran (.stageS1 true goodSig goodSig 77 true false) s).boot.stage = 3) ∧
    (let s := s1With flashA 0
     bundleStatus (slotBytesIn s 0) { goodSig with sigOk := false } ≠ 0 ∧
       (ran (.stageS1 true { goodSig with sigOk := false } goodSig 77 true true) s).boot.failCode = 0x10) ∧
    (let s := s1With flashA 2
     bundleStatus (slotBytesIn s 0) { goodSig with sigOk := false } ≠ 0 ∧
       (ran (.stageS1 true { goodSig with sigOk := false } goodSig 77 true true) s).boot.waitHost = true) ∧
    ((ran (.stageS1 true goodSig goodSig 77 true true) (s1With flashA 1)).boot.waitHost = true) := by decide +kernel

/-- A licence of 128 tiles, serial 7, for device 77, in the staging area; slots of the licence store are as `f` says. -/
def licS (f : List Host.Cell) : State :=
  { sets up [(Reg.SEC_STAGE, 0, 0, 0x1314C5850), (Reg.SEC_STAGE, 0, 1, 7), (Reg.SEC_STAGE, 0, 2, 77), (Reg.SEC_STAGE, 0, 4, 128)] with
    sec := { Sec.zero with idValid := true, devId := 77, flash := f }
    grid := { failed := [], cold := [], rows := 16, enabled := 0 } }

/-- In S7, that licence stands in slot 1 of the licence store. -/
def s7S : State :=
  { at_ 7 with
    sec := { Sec.zero with idValid := true, devId := 77,
                           flash := ((List.range 512).zip (stageBytes (licS []))).map fun e => (0x210200 + e.1, e.2) }
    grid := { failed := [], cold := [], rows := 16, enabled := 0 } }

theorem witness_bring_up_from_s2 :
    ((at_ 3).boot.linkDone = false ∧ (ran (.stageS2 5 8 true 1) (at_ 3)).boot.linkDone = true ∧
       (ran (.stageS2 5 8 true 1) (at_ 3)).hl.width = 8) ∧
    (let s := { at_ 3 with boot := { (at_ 3).boot with linkDone := true } }
     s.boot.linkDone = true ∧ ran (.stageS2 5 8 true 1) s = s) ∧
    (inStage (at_ 3) 3 = true ∧ (ran (.stageS3 255) (at_ 3)).boot.failCode = 0x30 ∧ (ran (.stageS3 256) (at_ 3)).boot.stage = 4) ∧
    (inStage (at_ 4) 4 = true ∧
       ((channel (ran (.stageS4 [(9, 3, 40)] [(9, 3, 0)]) (at_ 4)) 9).repairs.map fun r => (r.bank, r.row, r.spare)) = [(3, 40, 1)] ∧
       (ran (.stageS4 [(9, 3, 40)] []) (at_ 4)).boot.stage = 5) ∧
    (inStage (at_ 5) 5 = true ∧ (ran (.stageS5 [16] none) (at_ 5)).boot.stage = 6 ∧ (ran (.stageS5 [16] none) (at_ 5)).grid.rows = 16 ∧
       (ran (.stageS5 [16] none) (at_ 5)).grid.cold = [16] ∧
       (ran (.stageS5 [16, 32] none) (at_ 5)).grid.rows = 15) ∧
    ((ran (.stageS5 [] (some (.dram, 3))) (at_ 5)).boot.failCode = 0x50) ∧
    (gridRows (List.range 17 |>.map fun i => 16 * i) = 0 ∧
       (ran (.stageS5 ((List.finRange 17).map fun i => ⟨16 * i.val, by omega⟩) none) (at_ 5)).boot.failCode = 0x51) ∧
    (inStage (at_ 6) 6 = true ∧ (ran (.stageS6 [20] none) (at_ 6)).boot.stage = 7 ∧ (ran (.stageS6 [20] none) (at_ 6)).grid.failed = [20] ∧
       (ran (.stageS6 [20] none) (at_ 6)).grid.cold = [] ∧
       (ran (.stageS6 [] (some (.core, 1))) (at_ 6)).boot.failCode = 0x60) ∧
    (inStage (at_ 7) 7 = true ∧ (ran (.stageS7 []) (at_ 7)).boot.s7Done = true) ∧
    (licenceStatus s7S (licEntry s7S 1) goodSig = 0 ∧ numAt (licEntry s7S 1) 0 4 = 0x314C5850 ∧
       (ran (.stageS7 [(1, goodSig)]) s7S).sec.licence = some { serial := 7, tiles := 128 } ∧
       (ran (.stageS7 [(1, goodSig)]) s7S).grid.enabled = 128) ∧
    (licenceStatus s7S (licEntry s7S 1) { goodSig with sigOk := false } ≠ 0 ∧
       (ran (.stageS7 [(1, { goodSig with sigOk := false })]) s7S).sec.licence = none ∧
       (ran (.stageS7 [(1, { goodSig with sigOk := false })]) s7S).boot.s7Done = true) ∧
    (let s := { at_ 7 with boot := { (at_ 7).boot with s7Done := true, linkDone := true } }
     inStage s 7 = true ∧ (ran .stageS8 s).boot.stage = 8 ∧ ran .stageS8 (at_ 7) = at_ 7) := by decide +kernel

/-! ### The security block -/

/-- An unlock token of scope 1 for device 77. -/
def tokS : State :=
  { sets up [(Reg.SEC_STAGE, 0, 0, 0x231445850), (Reg.SEC_STAGE, 0, 2, 77)] with
    sec := { Sec.zero with idValid := true, devId := 77, keyHeld := true } }

theorem witness_security_commands :
    (let s := { up with sec := { up.sec with busy := some 2 } }
     answers s 0x200030 = true ∧ s.sec.busy.isSome = true ∧ bit (ran .attest s) Reg.SEC_CMD_STAT_REJ 0 0 = true) ∧
    (let s := at_ 1
     answers s 0x200030 = true ∧ s.sec.busy = none ∧ ready s = false ∧ fld (ran (.licApply goodSig) s) Reg.SEC_CMD_STAT_STATUS = 12 ∧
       fld (ran .certRead s) Reg.SEC_CMD_STAT_STATUS = 12 ∧ fld (ran (.bootGo goodSig) s) Reg.SEC_CMD_STAT_STATUS = 12) ∧
    (let s := licS []
     ready s = true ∧ licenceStatus s (stageBytes s) goodSig = 0 ∧ (ran (.licApply goodSig) s).grid.enabled = 128 ∧
       (ran (.licApply goodSig) s).sec.licence = some { serial := 7, tiles := 128 }) ∧
    (let s := licS []
     licSlot s (stageBytes s) = some 0 ∧ ((ran (.licStore goodSig) s).sec.queue.map fun q => (q.op, q.off)) = [(2, 0x210000)]) ∧
    (let s := licS []
     licenceStatus s (stageBytes s) { goodSig with sigOk := false } = 3 ∧
       fld (ran (.licStore { goodSig with sigOk := false }) s) Reg.SEC_CMD_STAT_STATUS = 3) ∧
    (let s := licS [(0x210200, 0)]
     ready s = true ∧ s.sec.busy = none) ∧
    (up.sec.idValid = false ∧ fld (ran .attest up) Reg.SEC_CMD_STAT_STATUS = 9) ∧
    (let s := { tokS with sec := { tokS.sec with scopes := 1, keyHeld := false } }
     s.sec.idValid = true ∧ s.sec.keyHeld = false ∧ fld (ran .attest s) Reg.SEC_CMD_STAT_STATUS = 10) ∧
    (tokS.sec.idValid = true ∧ tokS.sec.keyHeld = true ∧ (ran .attest tokS).sec.scopes = 0) ∧
    (getF (ran .certRead { up with sec := { up.sec with flash := [(8, 3)] } }) Reg.SEC_STAGE 0 1 = 0xFFFFFFFFFFFFFF03) ∧
    (tokenStatus tokS (stageBytes tokS) goodSig = 0 ∧ (ran (.debugUnlock goodSig) tokS).sec.scopes = 2 ∧
       (ran (.debugUnlock goodSig) tokS).sec.keyHeld = false ∧ (ran (.debugUnlock goodSig) tokS).latches = 0x2000) ∧
    (tokenStatus up (stageBytes up) goodSig = 1 ∧ (ran (.debugUnlock goodSig) up).sec.scopes = 0) := by decide +kernel

theorem mget_of_first {α : Type} (d v : α) (f : Nat → Nat) (l : List Nat) (i : Nat) (hi : i ∈ l) :
    mget d (l.map fun j => (f j, v)) (f i) = v := by
  induction l with
  | nil => cases hi
  | cons a l ih =>
    simp only [List.map_cons, mget]
    split
    · rfl
    · rcases List.mem_cons.1 hi with rfl | h
      · exact absurd rfl ‹_›
      · exact ih h

/-- The licence store is full of other data. -/
def fullS : State := licS ((List.range 256).map fun i => (0x210000 + 512 * i, 0))

theorem rdBytes_first (d : Byte) (m : SMap Byte) (a n : Nat) : rdBytes d m a (n + 1) = mget d m a :: rdBytes d m (a + 1) n := rfl

theorem licEntry_first (s : State) (i : Nat) (v : Byte) (h : mget erased s.sec.flash (0x210000 + 512 * i) = v) :
    ∃ l, licEntry s i = v :: l := by
  unfold licEntry flashRead
  exact ⟨_, (rdBytes_first erased s.sec.flash _ 511).trans (by rw [h])⟩

theorem fullS_entry (i : Nat) (hi : i ∈ List.range 256) : ∃ l, licEntry fullS i = (0 : Byte) :: l := by
  refine licEntry_first fullS i 0 ?_
  have e : fullS.sec.flash = (List.range 256).map fun i => (0x210000 + 512 * i, (0 : Byte)) := rfl
  rw [e]
  exact mget_of_first erased 0 (fun j => 0x210000 + 512 * j) _ i hi

theorem licSlot_none (s : State) (bs : List Byte) (h : ∀ i ∈ List.range 256, ∃ l, licEntry s i = (0 : Byte) :: l) :
    licSlot s bs = none := by
  have h1 : ∀ i ∈ upto 256, numAt (licEntry s i) 0 4 ≠ 0x314C5850 := by
    intro i hi
    obtain ⟨l, hl⟩ := h i hi
    rw [hl]
    simp only [numAt, List.drop_zero, List.take_succ_cons, leNat]
    simp; omega
  have h2 : ∀ i ∈ upto 256, ((licEntry s i).all fun b => b = erased) = false := by
    intro i hi
    obtain ⟨l, hl⟩ := h i hi
    simp [hl, erased]
  unfold licSlot
  rw [List.find?_eq_none.2 (by intro i hi; simp [h1 i hi])]
  exact List.find?_eq_none.2 (by intro i hi; simp [h2 i hi])

theorem witness_full_licence_store : ready fullS = true ∧ fullS.sec.busy = none ∧ licenceStatus fullS (stageBytes fullS) goodSig = 0 ∧
    licSlot fullS (stageBytes fullS) = none :=
  ⟨by decide +kernel, by decide +kernel, by decide +kernel, licSlot_none fullS _ fullS_entry⟩

/-- A firmware bundle pushed into the store, and the same bytes in DRAM at 0. -/
def pushed : State :=
  { s1With [] 1 with
    boot := { Boot.start with stage := 1, mode := 1, waitHost := true }
    sec := { Sec.zero with store := (bundle6 0).filter fun e => e.2 ≠ 0 } }

def slotSource : State := { up with mem := (bundle6 0x1000).filter fun e => e.2 ≠ 0 }

theorem witness_firmware_and_flash :
    (answers pushed 0x200030 = true ∧ pushed.boot.waitHost = true ∧ (ran (.bootGo goodSig) pushed).boot.stage = 3 ∧
       (ran (.bootGo goodSig) pushed).sec.fwVersion = 6) ∧
    (fld (ran (.bootGo { goodSig with keyOk := false }) pushed) Reg.SEC_CMD_STAT_STATUS = 2 ∧
       (ran (.bootGo { goodSig with keyOk := false }) pushed).boot.stage = 1) ∧
    (let s := put up Reg.SEC_ARG_ADDR 0xF00000000
     dramTop < fld s Reg.SEC_ARG_ADDR + 0x14 ∧ fld (ran (.slotWrite goodSig) s) Reg.SEC_CMD_STAT_STATUS = 1) ∧
    (let s := sets slotSource [(Reg.SEC_ARG_ADDR, 0, 0, 0x1000), (Reg.SEC_ARG_SLOT, 0, 0, 1)]
     fld s Reg.SEC_ARG_ADDR + 0x100000 ≤ dramTop ∧ ((ran (.slotWrite goodSig) s).sec.queue.map fun q => (q.op, q.off, q.bytes.length)) =
       [(6, 0x110000, 512)]) ∧
    (let s := sets slotSource [(Reg.SEC_ARG_ADDR, 0, 0, 0x1000), (Reg.SEC_ARG_SLOT, 0, 0, 1)]
     fld (ran (.slotWrite { goodSig with digestOk := false }) s) Reg.SEC_CMD_STAT_STATUS = 3 ∧
       (ran (.slotWrite { goodSig with digestOk := false }) s).sec.queue = []) ∧
    (let s := sets { slotSource with
                    mem := [(0x1000, 0x50), (0x1010, 0x20)]
                    blocks := [(0x40, { BlockMeta.fresh with poison := true })] } [(Reg.SEC_ARG_ADDR, 0, 0, 0x1000)]
     (devRead s 0x1000 0x20 .clean 0).1.any (·.2) = true ∧ fld (ran (.slotWrite goodSig) s) Reg.SEC_CMD_STAT_STATUS = 1 ∧
       (ran (.slotWrite goodSig) s).sec = s.sec) ∧
    (inHostWin (sets slotSource [(Reg.SEC_ARG_ADDR, 0, 0, 0x3000000100), (Reg.HL_HOST_WIN_SIZE, 0, 0, 0x100000)]) 0x3000000100 0x14 = true) ∧
    (let e : FlashOp := { op := 6, entry := 0, off := 0x10000, bytes := [1, 2] }
     let s := { up with sec := { up.sec with queue := [e], busy := some 6, flash := [(0x10000, 9), (0x10005, 7), (0x110000, 4)] } }
     e.op = 6 ∧ e.bytes.length ≤ 0x100000 ∧ (ran (.flashWrite false) s).sec.flash = [(0x10000, 1), (0x10001, 2), (0x110000, 4)]) ∧
    (up.sec.queue = [] ∧ ran (.flashWrite false) up = up) ∧
    (let e : FlashOp := { op := 2, entry := 0, off := 0x210000, bytes := [1, 2] }
     let s := { up with sec := { up.sec with queue := [e], busy := some 2 } }
     (ran (.flashWrite false) s).sec.flash = [(0x210000, 1), (0x210001, 2)] ∧ (ran (.flashWrite false) s).sec.busy = none ∧
       fld (ran (.flashWrite true) s) Reg.SEC_CMD_STAT_STATUS = 11 ∧ (ran (.flashWrite true) s).sec.flash = []) := by decide +kernel

/-! ### Heat and power -/

/-- Logic at `a` °C, stack 1 at `b` °C and the others at 40. -/
def logicAt (a : Int) : List Int := a :: List.replicate 63 40
def stacksAt (b : Int) : List Int := List.replicate 8 40 ++ b :: List.replicate 23 40

theorem witness_heat :
    (let u := takeReadings up (logicAt 109) (stacksAt 86)
     hottest u.hv.logic < 110 ∧ hottest u.hv.stackReads < 100 ∧
       (let t := ran (.thermalSample (logicAt 109) (stacksAt 86)) up
        t.dram.doubled = [1] ∧ fld t Reg.HV_THERM_STAT_LOGIC_MAX = 109 ∧ t.hv.demand = 2 ∧ t.hv.tripOnce = false)) ∧
    (let s := { up with hv := { Hv.zero with tripOnce := true } }
     s.hv.tripOnce = true ∧ (ran (.thermalSample (logicAt 110) (stacksAt 40)) s).pins.hold = .thermal ∧
       (ran (.thermalSample (logicAt 110) (stacksAt 40)) s).boot.cause = 5) ∧
    (bit (ran (.thermalSample (logicAt 40) (stacksAt 96)) up) Reg.MEM_STACK_STAT_HOT 0 1 = true ∧
       (let s := { up with hv := { Hv.zero with stackReads := stacksAt 97 } }
        bit (ran (.thermalSample (logicAt 40) (stacksAt 96)) s) Reg.MEM_STACK_STAT_HOT 0 1 = true ∧
          (ran (.thermalSample (logicAt 40) (stacksAt 96)) s).fm.intake = [])) ∧
    ((ran (.thermalSample (logicAt 95) (stacksAt 85)) (held .thermal)).hv.cool = 1 ∧
       (ran (.thermalSample (logicAt 96) (stacksAt 85)) (held .thermal)).hv.cool = 0) ∧
    ((held .perst).pins.hold = .perst ∧ ran (.thermalSample (logicAt 120) (stacksAt 40)) (held .perst) = held .perst) ∧
    ((held .perst).pins.hold ≠ .none ∧ ran .thermalHysteresisExpiry (held .perst) = held .perst) ∧
    (let s := { up with dram := { up.dram with doubled := [1] } }
     hottest (stackTemps (takeReadings s (logicAt 40) (stacksAt 84)).hv.stackReads 1) = 84 ∧
       (ran (.thermalSample (logicAt 40) (stacksAt 84)) s).dram.doubled = [1] ∧
       (ran (.thermalSample (logicAt 40) (stacksAt 84)) up).dram.doubled = []) ∧
    (let s := { up with hv := { Hv.zero with demand := 2, low := 200, hotStack := true, stackLow := 199 } }
     (ran .thermalHysteresisExpiry s).hv.demand = 1 ∧ (ran .thermalHysteresisExpiry s).hv.hotStack = true) ∧
    ((ran (.sensorTrim 70) up).hv.trim = some 70) := by decide +kernel

/-- 19 readings of 400 W, and a limit of 350 W. -/
def power19 : State :=
  { sets up [(Reg.CK_PWR_LIMIT_EN, 0, 0, 1), (Reg.CK_PWR_LIMIT_LIMIT_W, 0, 0, 350)] with
    hv := { Hv.zero with power := List.replicate 19 4000 } }

theorem witness_power_supplies_and_wear :
    (let s := put up Reg.CK_PWR_LIMIT_EN 0
     bit s Reg.CK_PWR_LIMIT_EN 0 0 = false ∧ (ran (.powerSample 4000) s).clk.pwrStep = 0 ∧
       fld (ran (.powerSample 4000) s) Reg.CK_PWR_STAT_POWER = 4000) ∧
    (let s := { power19 with hv := Hv.zero }
     bit s Reg.CK_PWR_LIMIT_EN 0 0 = true ∧ (ran (.powerSample 4000) s).clk = s.clk) ∧
    (bit power19 Reg.CK_PWR_LIMIT_EN 0 0 = true ∧ fld power19 Reg.CK_PWR_LIMIT_LIMIT_W * 10 < (4000 * 20) / 20 ∧ power19.clk.step < 2 ∧
       (ran (.powerSample 4000) power19).clk.pwrStep = 1 ∧ (ran (.powerSample 4000) power19).hv.pwrWait = 20) ∧
    (let s := { power19 with clk := { power19.clk with step := 2, pwrStep := 2 } }
     2 ≤ s.clk.step ∧ bit (ran (.powerSample 4000) s) Reg.CK_PWR_STAT_OVER 0 0 = true) ∧
    (let s := sets up [(Reg.HV_RAIL_ALARM_MV, 0, 2, 700)]
     getF (ran (.railSample 2 690) s) Reg.HV_RAIL_MIN_MV 0 2 = 690 ∧ (ran (.railSample 2 690) s).hv.excursion = [2] ∧
       (ran (.railSample 2 700) s).hv.excursion = []) ∧
    ((ran (.refclkLoss 0) up).clk.pllLocked = false ∧ ((ran (.refclkLoss 0) up).fm.intake.map fun w => w.rep.cause) = [0x4D] ∧
       running up = true) ∧
    (State.reset.boot.stage = 0 ∧ (ran (.refclkLoss 0) State.reset).pins.refSys = false ∧ logTail (ran (.refclkLoss 0) State.reset) = 0) ∧
    (let s := { at_ 5 with clk := { Clocks.zero with pllLocked := true } }
     ready s = false ∧ s.pins.hold = .none ∧ unread s < 64 ∧ unread (ran (.refclkLoss 0) s) = 1 ∧
       getF (ran (.refclkLoss 0) s) Reg.FM_LOG 0 0 % 256 = 0x4D) ∧
    (running (held .perst) = false ∧ (ran (.refclkLoss 1) (held .perst)).pins.refPcie = false) ∧
    (ready State.reset = false ∧ ran (.wearSample [9]) State.reset = State.reset) ∧
    (ready up = true ∧ getF up Reg.HV_WEAR_BASELINE 0 5 = 0 ∧ flashBaseline up = none ∧
       getF (setF up Reg.HV_WEAR_BASELINE 0 5 9) Reg.HV_WEAR_BASELINE 0 5 ≠ 0) ∧
    (let b := 65536 * 64
     let h : List Byte := [4, 0, 0, 0, 0x9E, 0x21, 0x1F, 0xD6] ++ List.replicate 56 0
     let s := { up with sec := { up.sec with flash := wrBytes erased [] b (List.replicate 64 0 ++ h), baseAt := some 64 } }
     getF s Reg.HV_WEAR_BASELINE 0 5 = 0 ∧ ((flashBaseline s).elim 0 List.length) = 288) ∧
    (let s := put up Reg.HV_TEL_CTL_PERIOD_MS 0
     fld s Reg.HV_TEL_CTL_PERIOD_MS = 0 ∧ ran .telemetry s = s) ∧
    (let s := sets up [(Reg.HV_TEL_CTL_PERIOD_MS, 0, 0, 5), (Reg.HV_CTL_EN, 0, 0, 1)]
     fld s Reg.HV_TEL_CTL_PERIOD_MS ≠ 0 ∧ hvEn s = true) := by decide +kernel

/-! ### The statements about every command -/

/-- The general statements: the queue, the parts that a command may change, the memories, the debug scopes. -/
theorem witness_general_statements :
    (let s := { up with pending := [Instr.eventSet 200, .latchApply] }
     (after (step s)).pending = [Instr.latchApply] ∧ source (after (step s)) 200 = .pending) ∧
    (up.pending = [] ∧ up.pins.fclkRuns = true ∧ (after (step up)).clk.fclk = up.clk.fclk + 1) ∧
    (outside (exec (.dramWrite 0 [5] false .clean) up) = false ∧ rdBytes 0 (ran (.dramWrite 0 [5] false .clean) up).mem 0 1 = [5]) ∧
    (outside (exec (.dramRead (BitVec.ofNat _ dramTop) .clean) up) = true) ∧
    (let c := Instr.debugUnlock goodSig
     outside (exec c tokS) = false ∧ (ran c tokS).sec.scopes ≠ tokS.sec.scopes ∧
       (ran c tokS).sec.scopes = tokS.sec.scopes ||| 2) ∧
    (let s := { up with sec := { up.sec with scopes := 4 } }
     (ran .debugReset s).sec.scopes ≠ s.sec.scopes ∧ (ran .debugReset s).sec.scopes = 0) := by decide +kernel

/-! ### Well-formed commands -/

/-- A GVSP leader in a UDP datagram. -/
def wfGvsp : Gvsp := { blockId := 1, body := .leader { bits := 8, packed := false, bayer := 0 } 64 2 }
def wfFrame (g : Gvsp) : EthFrame := frame true false (.udp 0 0 0 false none g)
def wfCxp : CxpPacket := { crcOk := true, streamId := 0, tag := 7, lineGap := none, body := .imageStart { bits := 8, packed := false, bayer := 0 } }

/-- Each of these is well formed. -/
theorem test_wf_accepts :
    ([.registerWrite .host 0x20 8 1, .registerReadClear .host 0x1100200 8, .lowHalfRead .host 0xB00A00, .doorbell 0 4 1, .bar4Read 0 4096 false, .bar4Read 0xFFF000 4096 true,
      .bar4Write 0 [1] false 0, .ethernetFrameRx 0 (wfFrame wfGvsp), .resendDeadline 0 1 1, .cxpPacketRx 0 wfCxp,
      .tableParityError 0 65535, .jobDispatch (.tile 0 0) [(0, 1), (0, 2)], .icacheFill 0 0 .clean,
      .scalarLoad 1 0 [0x1000200000], .driftCompute 0 4095, .dramWrite 60 [1, 2, 3, 4] false .clean, .cplTimeout 16383 none, .cplTimeout 0 (some (.core 7)), .mxBlockComplete 0 (some { chan := 63, pos := 31, stage := .sum, delta := 1 }),
      .descriptorBurstCheck [0, 31], .planLoad 0 goodSig img, .faultReport rep0, .faultReport none, .thaw [1, 2], .stageS0 true true 0 10000, .stageS3 256,
      .stageS4 [(0, 0, 12287)] [(0, 0, 1)], .stageS5 [1] none, .stageS6 [1] none, .stageS7 [(255, goodSig)],
      .thermalSample (logicAt (-128)) (stacksAt 127), .powerSample 65535, .railSample 0 65535,
      .wearSample (List.replicate 288 1)] : List Instr).all Instr.wf = true := by decide +kernel

/-- One ill-formed command for each check on registers, windows and packets: all refused. -/
theorem test_wf_refuses_accesses_and_packets :
    ([.registerWrite .host 0x20 0 1, .registerWrite .host 0x20 4097 1, .registerWrite .host 0x3FFFFFC 8 1, .registerReadClear .host 0x20 0,
      .lowHalfRead .host 4, .lowHalfRead .host (2 ^ 26), .doorbell 0 0 1, .doorbell 0xFFFFFE 4 1, .bar4Read 0 0 false, .bar4Read 0 4097 false,
      .bar4Read (2 ^ 36) 1 false, .bar4Read (2 ^ 24) 1 true, .bar4Write 0 [] false 0, .bar4Write (2 ^ 36) [1] false 0,
      .ethernetFrameRx 0 { wfFrame wfGvsp with len := 1 }, .ethernetFrameRx 0 (wfFrame { wfGvsp with blockId := 2 ^ 64 }),
      .ethernetFrameRx 0 (wfFrame { wfGvsp with body := .leader { bits := 9, packed := false, bayer := 0 } 64 2 }),
      .ethernetFrameRx 0 (wfFrame { wfGvsp with body := .leader { bits := 8, packed := false, bayer := 8 } 64 2 }),
      .ethernetFrameRx 0 (wfFrame { wfGvsp with body := .leader { bits := 8, packed := false, bayer := 0 } (2 ^ 32) 2 }),
      .ethernetFrameRx 0 (wfFrame { wfGvsp with body := .payload 0 [] }),
      .ethernetFrameRx 0 (wfFrame { wfGvsp with body := .trailer (2 ^ 32) 2 }), .ethernetFrameRx 0 (wfFrame { wfGvsp with body := .trailer 3 (2 ^ 32) }),
      .resendDeadline 0 (2 ^ 64) 1, .resendDeadline 0 1 (2 ^ 32), .cxpPacketRx 0 { wfCxp with tag := 256 },
      .cxpPacketRx 0 { wfCxp with body := .imageStart { bits := 9, packed := false, bayer := 0 } }] : List Instr).any Instr.wf =
    false := by decide +kernel

/-- One ill-formed command for each other check on a command's own operands: all refused. -/
theorem test_wf_refuses_operands :
    ([.tableParityError 0 65536, .jobDispatch (.tile 0 0) [(0, 1), (0, 1)], .icacheFill 0 (2 ^ 41) .clean, .scalarLoad 1 0 [0x1000000000],
      .vld 1 0 [0x1000400000], .vgather 1 0 [0x1000200000, 0x1000200000], .driftCompute 0 0, .driftCompute 0 4096,
      .dramWrite 60 [1, 2, 3, 4, 5] false .clean, .dramWrite 60 [] false .clean, .cplTimeout 16384 none, .cplTimeout 0 (some (.core 8)),
      .cplTimeout 0 (some (.planLoad 2097152)), .cplTimeout 0 (some (.hostFeed 256)), .cplTimeout 0 (some (.transmit 32)),
      .mxBlockComplete 0 (some { chan := 64, pos := 0, stage := .sum, delta := 1 }), .mxBlockComplete 0 (some { chan := 0, pos := 32, stage := .sum, delta := 1 }),
       .descriptorBurstCheck [32],
      .descriptorBurstCheck [1, 1], .faultReport (some { rep0 with cause := 256 }), .faultReport (some { rep0 with unit := 65536 }),
      .faultReport (some { rep0 with loc := 2 ^ 64 }), .faultReport (some { rep0 with aux := 65536 }), .thaw [1, 1], .stageS0 true true 0 10001,
      .stageS3 257, .stageS4 [(0, 0, 12288)] [], .stageS4 [(0, 0, 1), (0, 0, 1)] [], .stageS4 [] [(0, 0, 1), (0, 0, 1)],
      .stageS5 [1, 1] none, .stageS6 [1, 1] none, .stageS7 [(256, goodSig)], .stageS7 [(1, goodSig), (1, goodSig)],
      .thermalSample [] (stacksAt 40), .thermalSample (logicAt 40) [], .thermalSample (logicAt (-129)) (stacksAt 40),
      .thermalSample (logicAt 40) (stacksAt 128), .powerSample 65536, .railSample 0 65536, .wearSample [],
      .wearSample (List.replicate 288 (2 ^ 32))] : List Instr).any Instr.wf = false := by decide +kernel

/-- A plan image of one template. -/
def wfPlan (t : Template) : PlanImage := { img with templates := [t] }

/-- Queue record (R281): queue 1, NORMAL, 4 slots of one row, scratchpad of tile 0, handle 1, stream engine to stream engine. -/
def wfQueue : List Byte := [1, 0, 4, 0, 1, 0, 0, 1, 0, 0, 0, 0, 0, 0, 0x11, 1] ++ List.replicate 16 0

/-- Shape record (R248): grouped convolution 3 × 5, mirror padding, strides 2 and 4, dilations 3 and 1, `OP_ID` 0x123. -/
def shape1 : List Byte :=
  [0x61, 0, 7, 0, 3, 5, 0x31, 0x02, 1, 0, 2, 3, 4, 0, 0x23, 1, 8, 0, 12, 0, 0, 4, 0, 0, 0x21] ++ List.replicate 7 0

def op1Read : OpEntry :=
  { opId := 9, mode := 3, oFmt := 0, baseS := 0x8000, baseE := 0, d0 := 2, dmin := -8, dmax := 8, inputOp := 0, measOp := 0,
    satLim := 100, mseLim := 100, period := 4, reserved := false }

def shape1Read : ShapeRec :=
  { family := 1, padMode := 2, frc := 1, padConst := 7, kh := 3, kw := 5, sy := 2, sx := 4, dy := 3, dx := 1, padT := 1, padB := 0,
    padL := 2, padR := 3, groups := 4, opId := 0x123, cIn := 8, cOut := 12, inW := 0x400, inH := 0, uy := 1, ux := 2,
    reserved := false }

def wfQueueRead : QueueDecl :=
  { queue := 1, kind := 0, depth := 4, slotRows := 1, inDram := false, slotchk := false, tile := 0, handle := 1, dramAddr := 0,
    prod := 1, cons := 1, refs := 1, sync := 0, reserved := false }

/-- The records that R235, R248 and R281 lay out, read from bytes written out from the tables; a reserved bit is seen in each. -/
theorem test_plan_records_decode :
    (decodeOp 9 4 op1 = op1Read) ∧
    (decodeShape shape1 = shape1Read) ∧
    (decodeQueue wfQueue = wfQueueRead) ∧
    ((decodeOp 9 4 (op1.set 0 0x43)).reserved = true ∧ (decodeOp 9 4 (op1.set 9 0x10)).reserved = true) ∧
    ((decodeShape (shape1.set 1 1)).reserved = true ∧ (decodeShape (shape1.set 31 1)).reserved = true) ∧
    ((decodeQueue (wfQueue.set 1 0x40)).reserved = true ∧ (decodeQueue (wfQueue.set 18 1)).reserved = true) := by decide +kernel

/-- One ill-formed plan image for each check on its body, beside a well-formed one. -/
theorem test_wf_plans :
    (let t := tmpl 5 4
     (wfPlan t).wf = true ∧ { img with queues := [wfQueue], objects := [(3, 1)], ops := [(op1, 1)], shapes := [shape1] }.wf = true ∧
     ([wfPlan { t with index := 512 }, wfPlan { t with kind := 0 }, wfPlan { t with kind := 5 }, wfPlan { t with d := 2 ^ 32 },
       wfPlan { t with units := [1, 1] }, wfPlan { t with units := [256] }, wfPlan { t with deps := [⟨512, 0, 0⟩] },
       wfPlan { t with halo := [⟨512, 0, 0⟩] }, wfPlan { t with stats := [⟨512, 0, 0⟩] }, wfPlan { t with priv := [⟨127, 0, 1, 1, true, 0⟩] },
       wfPlan { t with priv := [⟨144, 0, 1, 1, true, 0⟩] }, wfPlan { t with priv := [⟨128, 32, 1, 1, true, 0⟩] },
       wfPlan { t with queues := [(4096, true, 1)] }, wfPlan { t with kind := 3, batchSize := 257 }, { img with templates := [t, t] },
       { img with experts := 257 }, { img with tilesNeeded := 257 }, { img with objects := [(4, 0)] }, { img with objects := [(0, 2 ^ 64)] },
       { img with queues := [wfQueue ++ [0]] }, { img with shapes := [shape1.drop 1] }, { img with ops := [(op1 ++ [0], 1)] },
       { img with ops := [(op1, 65)] }] : List PlanImage).any PlanImage.wf = false) ∧
    (Instr.wf (.planLoad 0 goodSig { img with experts := 257 }) = false) := by decide +kernel

end Sys2Proof.Tests
end

section
/-! PROOFS. Where the fields of the register table lie, and what one pass through the fields of a register can do. -/

namespace Sys2Proof.Machine

set_option Elab.async false

/-! ### The register table: where fields lie (R497) -/

/-- No register holds both fields at one low bit: the bits differ, or no index brings their offsets together. -/
def apart (f g : Fld) : Bool :=
  f.lo != g.lo || f.off + f.stride * (f.cnt - 1) < g.off || g.off + g.stride * (g.cnt - 1) < f.off ||
    (f.stride == g.stride && f.off % f.stride != g.off % g.stride)

/-- A field lies within the 64 bits at its offset, and in its own block. -/
def placed (b : Nat) (f : Fld) : Bool := f.lo + f.w ≤ 64 && 0 < f.w && f.off / 2 ^ 20 = b

theorem block_beyond {b : Nat} (hb : 18 ≤ b) : Reg.block b = [] := by
  unfold Reg.block
  split <;> first | rfl | omega

theorem block_apart (b : Nat) : (Reg.block b).Pairwise fun f g => apart f g = true := by
  by_cases hb : b < 18
  · exact (by decide +kernel : ∀ b < 18, (Reg.block b).Pairwise fun f g => apart f g = true) b hb
  · rw [block_beyond (by omega)]; exact .nil

theorem block_placed {b : Nat} {f : Fld} (hf : f ∈ Reg.block b) : placed b f = true := by
  by_cases hb : b < 18
  · exact (by decide +kernel : ∀ b < 18, ∀ f ∈ Reg.block b, placed b f = true) b hb f hf
  · rw [block_beyond (by omega)] at hf; cases hf

theorem indexAt_eq_some {f : Fld} {off i : Nat} (h : indexAt f off = some i) : f.off + f.stride * i = off ∧ i ≤ f.cnt - 1 := by
  unfold indexAt at h
  split at h
  · cases h
  split at h
  · split at h
    · cases h; rename_i h0 h1; simp [h0, h1]
    · cases h
  · split at h
    · next hlt h0 hi =>
      cases h
      obtain ⟨hm, hc⟩ := hi
      have := Nat.div_add_mod (off - f.off) f.stride
      omega
    · cases h

theorem mem_fieldsAt {off i : Nat} {f : Fld} (h : (f, i) ∈ fieldsAt off) : f ∈ Reg.block (off / 2 ^ 20) ∧ indexAt f off = some i := by
  obtain ⟨g, hg, he⟩ := List.mem_filterMap.1 h
  obtain ⟨j, hj, he⟩ := Option.map_eq_some_iff.1 he
  cases he
  exact ⟨hg, hj⟩

theorem apart_lo {f g : Fld} {off i j : Nat} (h : apart f g = true) (hf : indexAt f off = some i) (hg : indexAt g off = some j) :
    f.lo ≠ g.lo := by
  intro hlo
  obtain ⟨hi, hi'⟩ := indexAt_eq_some hf
  obtain ⟨hj, hj'⟩ := indexAt_eq_some hg
  have hif := Nat.mul_le_mul_left f.stride hi'
  have hjg := Nat.mul_le_mul_left g.stride hj'
  simp only [apart, hlo, bne_self_eq_false, Bool.false_or, Bool.or_eq_true, decide_eq_true_eq, Bool.and_eq_true, beq_iff_eq,
    bne_iff_ne] at h
  rcases h with (h | h) | ⟨hs, hm⟩
  · omega
  · omega
  · apply hm
    rw [← hs] at hj ⊢
    have := congrArg (· % f.stride) (hi.trans hj.symm)
    simpa [Nat.add_mul_mod_self_left] using this

theorem fieldsAt_lo_ne (off : Nat) : (fieldsAt off).Pairwise fun p q => p.1.lo ≠ q.1.lo := by
  unfold fieldsAt
  rw [List.pairwise_filterMap]
  refine (block_apart _).imp fun {f g} h p hp q hq => ?_
  obtain ⟨i, hi, rfl⟩ := Option.map_eq_some_iff.1 hp
  obtain ⟨j, hj, rfl⟩ := Option.map_eq_some_iff.1 hq
  exact apart_lo h hi hj

/-- What the table says of a field at an offset. -/
theorem fieldsAt_placed {off i : Nat} {f : Fld} (h : (f, i) ∈ fieldsAt off) :
    f.off + f.stride * i = off ∧ f.lo + f.w ≤ 64 ∧ 0 < f.w ∧ off < 2 ^ 26 ∧ f.off / 2 ^ 20 = off / 2 ^ 20 := by
  obtain ⟨hb, hi⟩ := mem_fieldsAt h
  have hp := block_placed hb
  simp only [placed, Bool.and_eq_true, decide_eq_true_eq] at hp
  obtain ⟨⟨hw, hw0⟩, hf⟩ := hp
  refine ⟨(indexAt_eq_some hi).1, hw, hw0, ?_, hf⟩
  refine Nat.lt_of_not_le fun hn => ?_
  rw [block_beyond (by omega)] at hb
  cases hb

/-- A field stands once in its register, and no other field there has its low bit. -/
theorem fieldsAt_split {off i : Nat} {f : Fld} (h : (f, i) ∈ fieldsAt off) :
    ∃ l r, fieldsAt off = l ++ (f, i) :: r ∧ (∀ p ∈ l, p.1.lo ≠ f.lo) ∧ ∀ p ∈ r, p.1.lo ≠ f.lo := by
  obtain ⟨l, r, hl⟩ := List.append_of_mem h
  have hp := fieldsAt_lo_ne off
  rw [hl] at hp
  obtain ⟨-, hr, hlr⟩ := List.pairwise_append.1 hp
  exact ⟨l, r, hl, fun p hp => hlr p hp _ (List.mem_cons_self ..), fun p hp => (List.rel_of_pairwise_cons hr hp).symm⟩

/-- A key names one field of one register of one channel. -/
theorem fldKey_inj {off off' i j ch ch' : Nat} {f g : Fld} (hf : (f, i) ∈ fieldsAt off) (hg : (g, j) ∈ fieldsAt off')
    (h : fldKey f ch i = fldKey g ch' j) : (f, i) = (g, j) ∧ off = off' ∧ ch = ch' := by
  obtain ⟨hfo, hfw, hf0, hoff, -⟩ := fieldsAt_placed hf
  obtain ⟨hgo, hgw, hg0, hoff', -⟩ := fieldsAt_placed hg
  unfold fldKey at h
  rw [hfo, hgo] at h
  have hlo : g.lo = f.lo := by omega
  have ho : off = off' := by omega
  subst ho
  refine ⟨?_, rfl, by omega⟩
  obtain ⟨l, r, hl, hl', hr'⟩ := fieldsAt_split hf
  rw [hl] at hg
  rcases List.mem_append.1 hg with hg | hg
  · exact absurd hlo (hl' _ hg)
  · rcases List.mem_cons.1 hg with hg | hg
    · exact hg.symm
    · exact absurd hlo (hr' _ hg)

/-- What a command writes to one field is no write of another. -/
theorem fldKey_ne {off off' i j : Nat} {f g : Fld} (hf : (f, i) ∈ fieldsAt off) (hg : (g, j) ∈ fieldsAt off') (h : f ≠ g)
    (ch ch' : Nat) : fldKey f ch i ≠ fldKey g ch' j := fun hk =>
  h (congrArg Prod.fst (fldKey_inj hf hg hk).1)

/-! ### The registers that a register access touches beside its own -/

theorem mem_cfgLockedCount : (Reg.HL_CNT_CFG_LOCKED, 0) ∈ fieldsAt 0x1100200 := by decide +kernel
theorem mem_errCfgLocked : (Reg.HL_REG_ERR_CFG_LOCKED, 0) ∈ fieldsAt 0x1100028 := by decide +kernel
theorem mem_errSel : (Reg.HL_REG_ERR_SEL, 0) ∈ fieldsAt 0x1100028 := by decide +kernel
theorem mem_errOffset : (Reg.HL_REG_ERR_OFFSET, 0) ∈ fieldsAt 0x1100028 := by decide +kernel
theorem mem_msixCount : (Reg.QM_CNT_MSIX, 0) ∈ fieldsAt 0x600158 := by decide +kernel
theorem mem_cacheMiss : (Reg.QM_CNT_CACHE_MISS, 0) ∈ fieldsAt 0x600148 := by decide +kernel

/-- The fields whose values a requester's selection rests on (R342). -/
def selFields : List Fld :=
  [Reg.SP_SEL_PORT, Reg.BE_SEL_ENGINE, Reg.SE_SEL_ENGINE, Reg.MEM_SEL_CHANNEL, Reg.QM_SEL_RING, Reg.TA_SEL_INDEX, Reg.TA_SEL_PHYS]

theorem selFields_mem : ∀ g ∈ selFields, (g, 0) ∈ fieldsAt g.off ∧ g.acc = .rw ∧ ∀ p ∈ fieldsAt g.off, p.1.ch = .req := by
  decide +kernel

/-- Where the selections and what a tile's state rests on are the same, so is the channel that an access reaches. -/
theorem chanIx_congr {s t : State} {q : Nat} (hs : ∀ g ∈ selFields, getF t g q 0 = getF s g q 0) (hg : t.grid = s.grid)
    (hq : t.fm.quarantined = s.fm.quarantined) (f : Fld) : chanIx t q f = chanIx s q f := by
  have hlog : ∀ p, logicalOf t p = logicalOf s p := fun p => by unfold logicalOf passRows; rw [hg]
  have hstate : ∀ p, tileState t p = tileState s p := fun p => by unfold tileState; rw [hg, hq, hlog]
  have hphys : ∀ n, physOf t n = physOf s n := fun n => by unfold physOf passRows; rw [hg]
  have hsel : tileSel t q = tileSel s q := by
    unfold tileSel bit
    rw [hs Reg.TA_SEL_INDEX (by decide), hs Reg.TA_SEL_PHYS (by decide)]
    simp only [hphys]
  unfold chanIx
  split
  · rfl
  · rfl
  · rw [hs Reg.SP_SEL_PORT (by decide)]
  · rw [hs Reg.BE_SEL_ENGINE (by decide)]
  · rw [hs Reg.SE_SEL_ENGINE (by decide)]
  · rw [hs Reg.MEM_SEL_CHANNEL (by decide)]
  · rw [hs Reg.QM_SEL_RING (by decide)]
  · unfold tileLive
    simp only [hsel, hstate]

/-! ### One pass through the fields of a register -/

/-- Among the stored fields of `s`, at most the copies of one field of one register differ in `t`. -/
structure OnlyField (p : Fld × Nat) (s t : State) : Prop where
  same : ∀ d k, (∀ ch, k ≠ fldKey p.1 ch p.2) → mget d t.regs k = mget d s.regs k

theorem OnlyField.of_regs {p : Fld × Nat} {s t : State} (h : t.regs = s.regs) : OnlyField p s t := ⟨fun _ _ _ => by rw [h]⟩

theorem OnlyField.setF (s : State) (f : Fld) (ch i v : Nat) : OnlyField (f, i) s (Machine.setF s f ch i v) := ⟨fun d k hk => by
  unfold Machine.setF
  exact mget_mset_other _ _ _ _ (hk ch)⟩

theorem OnlyField.trans {p : Fld × Nat} {s t u : State} (h : OnlyField p s t) (h' : OnlyField p t u) : OnlyField p s u :=
  ⟨fun d k hk => (h'.same d k hk).trans (h.same d k hk)⟩

theorem OnlyField.getF {p : Fld × Nat} {s t : State} {off i off' : Nat} {g : Fld} (h : OnlyField p s t) (hp : p ∈ fieldsAt off)
    (hg : (g, i) ∈ fieldsAt off') (hne : (g, i) ≠ p) (ch : Nat) : getF t g ch i = getF s g ch i :=
  h.same _ _ fun _ hk => hne (fldKey_inj hg hp hk).1

/-- A change of one register leaves the channel that its fields are reached on. -/
theorem OnlyField.chanIx {p : Fld × Nat} {s t : State} {off i q : Nat} {f : Fld} (h : OnlyField p s t) (hp : p ∈ fieldsAt off)
    (hf : (f, i) ∈ fieldsAt off) (hg : t.grid = s.grid) (hq : t.fm.quarantined = s.fm.quarantined) :
    chanIx t q f = chanIx s q f := by
  by_cases hr : f.ch = .req
  · unfold Machine.chanIx; rw [hr]
  · refine chanIx_congr (fun g hgs => ?_) hg hq f
    obtain ⟨hgm, -, hreq⟩ := selFields_mem g hgs
    refine h.getF hp hgm (fun he => hr ?_) q
    rw [← he] at hp
    have hoff : g.off = off := by
      have h1 := (fieldsAt_placed hp).1; have h2 := (fieldsAt_placed hgm).1; omega
    rw [hoff] at hreq
    exact hreq _ hf

/-- A pass through a register's fields, each of which changes its own copies alone: what it leaves in a field is what its step there
leaves. `P` is what the step rests on, and holds all along. -/
theorem foldl_fields {σ : Type} (R : σ → State) (step : σ → Fld × Nat → σ) (P : σ → Prop) {off i ch v : Nat} {f : Fld} {x : σ}
    (hf : (f, i) ∈ fieldsAt off) (hx : P x) (honly : ∀ y p, p ∈ fieldsAt off → OnlyField p (R y) (R (step y p)))
    (hkeep : ∀ y p, p ∈ fieldsAt off → P y → P (step y p)) (hself : ∀ y, P y → getF (R (step y (f, i))) f ch i = v) :
    getF (R ((fieldsAt off).foldl step x)) f ch i = v := by
  obtain ⟨l, r, hl, -, hr⟩ := fieldsAt_split hf
  have inv : ∀ (l' : List (Fld × Nat)) (y : σ), (∀ p ∈ l', p ∈ fieldsAt off) → P y → P (l'.foldl step y) := by
    intro l'
    induction l' with
    | nil => intro y _ hy; exact hy
    | cons p l' ih => intro y hm hy; exact ih _ (fun a ha => hm a (List.mem_cons_of_mem _ ha)) (hkeep y p (hm p (List.mem_cons_self ..)) hy)
  have rest : ∀ (l' : List (Fld × Nat)) (y : σ), (∀ p ∈ l', p ∈ fieldsAt off ∧ p.1.lo ≠ f.lo) → getF (R y) f ch i = v →
      getF (R (l'.foldl step y)) f ch i = v := by
    intro l'
    induction l' with
    | nil => intro y _ hy; exact hy
    | cons p l' ih =>
      intro y hm hy
      obtain ⟨hp, hlo⟩ := hm p (List.mem_cons_self ..)
      refine ih _ (fun a ha => hm a (List.mem_cons_of_mem _ ha)) (Eq.trans ?_ hy)
      exact (honly y p hp).getF hp hf (fun he => hlo (by rw [← he])) ch
  have hmem : ∀ p ∈ l ++ (f, i) :: r, p ∈ fieldsAt off := fun p hp => hl ▸ hp
  rw [hl, List.foldl_append, List.foldl_cons]
  refine rest r _ (fun p hp => ⟨hmem p (by simp [hp]), hr p hp⟩) (hself _ (inv l x (fun p hp => hmem p (by simp [hp])) hx))

end Sys2Proof.Machine
end

section
/-! PROOFS. What a write of BAR0 does to the fields it reaches, and what it leaves. -/

namespace Sys2Proof.Machine

set_option Elab.async false

/-! ### Frames by the names of the parts -/

/-- A set of parts as a frame writes it. -/
def partMask (ps : List Part) : Nat := ps.foldr (fun p n => 2 ^ p.ctorIdx ||| n) 0

theorem partMask_testBit {ps : List Part} {p : Part} (h : p ∉ ps) : (partMask ps).testBit p.ctorIdx = false := by
  induction ps with
  | nil => exact Nat.zero_testBit _
  | cons q ps ih =>
    obtain ⟨hq, hps⟩ := List.ne_and_not_mem_of_not_mem_cons h
    have hix : q.ctorIdx ≠ p.ctorIdx := fun he => hq ((Part.ofNat_ctorIdx p).symm.trans (he ▸ Part.ofNat_ctorIdx q))
    change (2 ^ q.ctorIdx ||| partMask ps).testBit p.ctorIdx = false
    rw [Nat.testBit_or, ih hps, Nat.testBit_two_pow_of_ne hix, Bool.or_false]

/-- A frame in terms of the parts by name. -/
theorem Frame.named {m : Nat} {s t : State} {ps : List Part} (h : Frame m s t) (hm : sub m (partMask ps) = true := by decide) :
    KeepsBut ps s t := fun p hp => h.keeps p (sub_testBit hm (partMask_testBit hp))

theorem Frame.regs_eq {m : Nat} {s t : State} (h : Frame m s t) (hm : m.testBit Part.regs.ctorIdx = false := by decide) :
    t.regs = s.regs := h.keeps .regs hm

theorem Frame.fm_eq {m : Nat} {s t : State} (h : Frame m s t) (hm : m.testBit Part.fm.ctorIdx = false := by decide) :
    t.fm = s.fm := h.keeps .fm hm

theorem Frame.grid_eq {m : Nat} {s t : State} (h : Frame m s t) (hm : m.testBit Part.grid.ctorIdx = false := by decide) :
    t.grid = s.grid := h.keeps .grid hm

/-! ### Messages leave the host's memory as it is (R351) -/

theorem post_msix_frame (s : State) (v : Nat) : Frame (partMask [.hl]) s (post s (.msix v)) := by
  unfold post
  exact Frame.ite (updHl_frame ..) (updHl_frame ..)

theorem msix_link_frame (s : State) (v : Nat) : Frame (partMask [.hl]) s (msix s v) := by
  unfold msix
  exact Frame.ite (Frame.refl _) (Frame.ite (updHl_frame ..) (post_msix_frame ..))

theorem unmask_link_frame (s : State) (v : Nat) : Frame (partMask [.regs, .hl]) s (unmask s v) := by
  unfold unmask
  dsimp only
  refine Frame.ite ?_ (Frame.step (setF_frame ..) rfl (Frame.refl _))
  exact Frame.step (post_msix_frame ..) rfl (Frame.step (updHl_frame ..) rfl (Frame.step (setF_frame ..) rfl (Frame.refl _)))

theorem logNotify_link_frame (s : State) : Frame (partMask [.fm, .hl]) s (logNotify s) := by
  unfold logNotify
  refine Frame.ite (Frame.step (updFm_frame ..) rfl (Frame.refl _)) (Frame.ite (Frame.refl _) ?_)
  exact Frame.step (msix_link_frame ..) rfl (Frame.step (updFm_frame ..) rfl (Frame.refl _))

theorem ringDue_link_frame (s : State) (r : Nat) : Frame (partMask [.regs, .hl, .rings]) s (ringDue s r) := by
  unfold ringDue sendRing
  refine Frame.ite ?_ (Frame.refl _)
  exact Frame.step (msix_link_frame ..) rfl (Frame.step (cnt_frame ..) rfl (Frame.step (updRing_frame ..) rfl (Frame.refl _)))

theorem ringDue_getF {s : State} {r off i : Nat} {f : Fld} (hf : (f, i) ∈ fieldsAt off) (hne : f ≠ Reg.QM_CNT_MSIX) (ch : Nat) :
    getF (ringDue s r) f ch i = getF s f ch i := by
  unfold ringDue sendRing
  split
  · rw [getF_congr (msix_link_frame ..).regs_eq]
    exact getF_addF_other _ _ _ _ _ _ _ _ (fldKey_ne hf mem_msixCount hne _ _)
  · rfl

theorem cfgLocked_getF {s : State} {q o off i : Nat} {f : Fld} (hf : (f, i) ∈ fieldsAt off) (h1 : f ≠ Reg.HL_CNT_CFG_LOCKED)
    (h2 : f ≠ Reg.HL_REG_ERR_CFG_LOCKED) (h3 : f ≠ Reg.HL_REG_ERR_OFFSET) (h4 : f ≠ Reg.HL_REG_ERR_SEL) (ch : Nat) :
    getF (cfgLocked s q o) f ch i = getF s f ch i := by
  have hc : getF (cnt s Reg.HL_CNT_CFG_LOCKED) f ch i = getF s f ch i :=
    getF_addF_other _ _ _ _ _ _ _ _ (fldKey_ne hf mem_cfgLockedCount h1 _ _)
  unfold cfgLocked
  dsimp only
  split
  · exact hc
  · rw [getF_setF_other _ _ _ _ _ _ _ _ (fldKey_ne hf mem_errSel h4 _ _),
      getF_setF_other _ _ _ _ _ _ _ _ (fldKey_ne hf mem_errOffset h3 _ _),
      getF_setF_other _ _ _ _ _ _ _ _ (fldKey_ne hf mem_errCfgLocked h2 _ _), hc]

theorem oneLocked_getF {s t : State} {q o off i : Nat} {f : Fld} (hf : (f, i) ∈ fieldsAt off) (h1 : f ≠ Reg.HL_CNT_CFG_LOCKED)
    (h3 : f ≠ Reg.HL_REG_ERR_OFFSET) (h4 : f ≠ Reg.HL_REG_ERR_SEL) (ch : Nat) :
    getF (oneLocked s q o t) f ch i = getF t f ch i := by
  have hc : ∀ v, getF (setF t Reg.HL_CNT_CFG_LOCKED 0 0 v) f ch i = getF t f ch i := fun v =>
    getF_setF_other _ _ _ _ _ _ _ _ (fldKey_ne hf mem_cfgLockedCount h1 _ _)
  unfold oneLocked
  dsimp only
  split
  · rfl
  · split
    · exact hc _
    · rw [getF_setF_other _ _ _ _ _ _ _ _ (fldKey_ne hf mem_errSel h4 _ _),
        getF_setF_other _ _ _ _ _ _ _ _ (fldKey_ne hf mem_errOffset h3 _ _), hc]

theorem oneLocked_frame (s t : State) (q off : Nat) : Frame (partMask [.regs]) t (oneLocked s q off t) := by
  unfold oneLocked
  dsimp only
  refine Frame.ite (Frame.refl _) (Frame.ite (setF_frame ..) ?_)
  exact Frame.step (setF_frame ..) rfl (Frame.step (setF_frame ..) rfl (setF_frame ..))

theorem useRing_getF {s : State} {r off i : Nat} {f : Fld} (hf : (f, i) ∈ fieldsAt off) (hne : f ≠ Reg.QM_CNT_CACHE_MISS) (ch : Nat) :
    getF (useRing s r) f ch i = getF s f ch i := by
  have hc : getF (cnt s Reg.QM_CNT_CACHE_MISS) f ch i = getF s f ch i :=
    getF_addF_other _ _ _ _ _ _ _ _ (fldKey_ne hf mem_cacheMiss hne _ _)
  unfold useRing
  dsimp only
  rw [getF_congr (updRing_regs ..)]
  split
  · rfl
  · split
    · rw [getF_congr (updRing_regs ..), hc]
    · exact hc

/-! ### What `commitBits` does to the fields of one register (R5, R6, R343) -/

/-- The step of `commitBits` at one field. -/
def commitStep (s : State) (q lo n v : Nat) (acc : State × Bool) (p : Fld × Nat) : State × Bool :=
  let f := p.1
  if f.own || f.lo < lo || lo + n < f.lo + f.w then acc
  else match chanIx acc.1 q f with
    | none => acc
    | some ch =>
      if fid f == fid Reg.HL_MSIX_MASK && bitsOf v f.lo 1 = 0 then (unmask acc.1 p.2, acc.2)
      else
        let r := writeField s acc.1 f ch p.2 (bitsOf v f.lo f.w)
        (r.1, acc.2 || r.2)

/-- What `commitBits` does behind its pass through the fields. -/
def commitEnd (s : State) (q off : Nat) (r : State × Bool) : State :=
  if r.2 then cfgLocked r.1 q off
  else if off = 0x300000 then logNotify r.1
  else if off = 0x601028 then ringDue r.1 (getF s Reg.QM_SEL_RING q 0) else r.1

theorem commitBits_eq (s : State) (q off lo n v : Nat) :
    commitBits s q off lo n v = commitEnd s q off ((fieldsAt off).foldl (commitStep s q lo n v) (s, false)) := rfl

theorem fid_msixMask {off i : Nat} {f : Fld} (hf : (f, i) ∈ fieldsAt off) (h : fid f = fid Reg.HL_MSIX_MASK) :
    f = Reg.HL_MSIX_MASK := by
  obtain ⟨-, hw, hw0, -, ho⟩ := fieldsAt_placed hf
  have hb := (mem_fieldsAt hf).1
  have hoff : f.off = 0x1180008 := by
    unfold fid at h
    have : Reg.HL_MSIX_MASK.off = 0x1180008 ∧ Reg.HL_MSIX_MASK.lo = 32 := by decide
    omega
  rw [← ho, hoff] at hb
  exact (by decide +kernel : ∀ f ∈ Reg.block (0x1180008 / 2 ^ 20), fid f = fid Reg.HL_MSIX_MASK → f = Reg.HL_MSIX_MASK) f hb h

theorem writeField_only (was s : State) (f : Fld) (ch i v : Nat) : OnlyField (f, i) s (writeField was s f ch i v).1 := by
  unfold writeField
  split
  · exact .of_regs rfl
  · exact .of_regs rfl
  · exact .of_regs rfl
  · exact .setF ..
  · dsimp only
    split
    · exact .setF ..
    · exact .setF ..
    · exact .setF ..
    · split
      · exact .of_regs rfl
      · split
        · exact .of_regs rfl
        · exact .setF ..
    · split
      · exact .of_regs rfl
      · exact (OnlyField.of_regs (t := { s with shadow := mset 0 s.shadow (fldKey f ch i) 0 }) (s := s) rfl).trans (.setF ..)

theorem unmask_only (s : State) (v : Nat) : OnlyField (Reg.HL_MSIX_MASK, v) s (unmask s v) := by
  unfold unmask
  dsimp only
  split
  · exact (OnlyField.setF ..).trans (.of_regs ((post_msix_frame ..).regs_eq.trans (updHl_regs ..)))
  · exact .setF ..

theorem commitStep_only {s : State} {q lo n v off : Nat} (acc : State × Bool) {p : Fld × Nat} (hp : p ∈ fieldsAt off) :
    OnlyField p acc.1 (commitStep s q lo n v acc p).1 := by
  unfold commitStep
  dsimp only
  split
  · exact .of_regs rfl
  · split
    · exact .of_regs rfl
    · split
      · next hm =>
        simp only [Bool.and_eq_true, beq_iff_eq] at hm
        have he : p = (Reg.HL_MSIX_MASK, p.2) := Prod.ext (fid_msixMask hp hm.1) rfl
        rw [he]
        exact unmask_only ..
      · exact writeField_only ..

theorem commitStep_frame (s : State) (q lo n v : Nat) (acc : State × Bool) (p : Fld × Nat) :
    Frame (partMask [.regs, .shadow, .hl]) acc.1 (commitStep s q lo n v acc p).1 := by
  unfold commitStep
  dsimp only
  split
  · exact Frame.refl _
  · split
    · exact Frame.refl _
    · split
      · exact Frame.step (unmask_link_frame ..) rfl (Frame.refl _)
      · exact Frame.step (writeField_frame ..) rfl (Frame.refl _)

/-- A field that software writes as it is and that takes effect at once holds, after its step, what was written. -/
theorem commitStep_getF {s : State} {q n v off i ch : Nat} {f : Fld} (acc : State × Bool) (hf : (f, i) ∈ fieldsAt off) (hown : f.own = false)
    (hw : f.lo + f.w ≤ n) (hacc : f.acc = .rw) (hupd : f.upd = .none ∨ f.upd = .live) (hfix : f.fix = .id)
    (hch : chanIx acc.1 q f = some ch) : getF (commitStep s q 0 n v acc (f, i)).1 f ch i = bitsOf v f.lo f.w := by
  have hcut : bitsOf v f.lo f.w % 2 ^ f.w = bitsOf v f.lo f.w := Nat.mod_mod _ _
  unfold commitStep
  dsimp only
  rw [if_neg (by simp [hown]; omega), hch]
  dsimp only
  split
  · next hm =>
    simp only [Bool.and_eq_true, beq_iff_eq, decide_eq_true_eq] at hm
    have he := fid_msixMask hf hm.1
    subst he
    obtain rfl : ch = 0 := by simpa [chanIx, Reg.HL_MSIX_MASK] using hch.symm
    have h0 : getF (setF acc.1 Reg.HL_MSIX_MASK 0 i 0) Reg.HL_MSIX_MASK 0 i = bitsOf v Reg.HL_MSIX_MASK.lo Reg.HL_MSIX_MASK.w := by
      rw [getF_setF_self, Nat.zero_mod]; exact hm.2.symm
    unfold unmask
    dsimp only
    split
    · rw [getF_congr (post_msix_frame ..).regs_eq]; exact h0
    · exact h0
  · have hu : fixed acc.1 f i (bitsOf v f.lo f.w) = bitsOf v f.lo f.w := by unfold fixed; rw [hfix]
    unfold writeField
    rcases hupd with hupd | hupd <;> simp only [hacc, hupd, hu, getF_setF_self, hcut]

/-- What the pass of `commitBits` leaves in such a field. -/
theorem commitFold_getF {s : State} {q n v off i ch : Nat} {f : Fld} (hf : (f, i) ∈ fieldsAt off) (hown : f.own = false)
    (hw : f.lo + f.w ≤ n) (hacc : f.acc = .rw) (hupd : f.upd = .none ∨ f.upd = .live) (hfix : f.fix = .id)
    (hch : chanIx s q f = some ch) :
    getF ((fieldsAt off).foldl (commitStep s q 0 n v) (s, false)).1 f ch i = bitsOf v f.lo f.w := by
  refine foldl_fields Prod.fst _ (fun y => chanIx y.1 q f = some ch) hf hch (fun y p hp => commitStep_only y hp) ?_ ?_
  · intro y p hp hy
    have hfr := commitStep_frame s q 0 n v y p
    rw [(commitStep_only y hp).chanIx hp hf hfr.grid_eq (by rw [hfr.fm_eq])]
    exact hy
  · intro y hy
    exact commitStep_getF y hf hown hw hacc hupd hfix hy

theorem commitEnd_getF {s : State} {q off o i : Nat} {f : Fld} (r : State × Bool) (hf : (f, i) ∈ fieldsAt o) (hacc : f.acc = .rw)
    (ch : Nat) : getF (commitEnd s q off r) f ch i = getF r.1 f ch i := by
  have hne : ∀ g : Fld, g.acc ≠ .rw → f ≠ g := fun g hg he => hg (he ▸ hacc)
  unfold commitEnd
  split
  · exact cfgLocked_getF hf (hne _ (by decide)) (hne _ (by decide)) (hne _ (by decide)) (hne _ (by decide)) ch
  · split
    · exact getF_congr (logNotify_link_frame ..).regs_eq ..
    · split
      · exact ringDue_getF hf (hne _ (by decide)) ch
      · rfl

theorem commitBits_link_frame (s : State) (q off lo n v : Nat) : Frame (partMask [.regs, .shadow, .fm, .hl, .rings]) s (commitBits s q off lo n v) := by
  have hr : Frame (partMask [.regs, .shadow, .fm, .hl, .rings]) s ((fieldsAt off).foldl (commitStep s q lo n v) (s, false)).1 :=
    Frame.foldl_fst (fun y p hy => Frame.step (commitStep_frame ..) rfl hy) (Frame.refl _)
  rw [commitBits_eq]
  unfold commitEnd
  refine Frame.ite (Frame.step (cfgLocked_frame ..) rfl hr) (Frame.ite (Frame.step (logNotify_link_frame ..) rfl hr) ?_)
  exact Frame.ite (Frame.step (ringDue_link_frame ..) rfl hr) hr

/-- Only a write of `FM_CTL` may send the error log's message. -/
theorem commitBits_fm {s : State} {q off lo n v : Nat} (h : off ≠ 0x300000) : (commitBits s q off lo n v).fm = s.fm := by
  have hr : Frame (partMask [.regs, .shadow, .hl]) s ((fieldsAt off).foldl (commitStep s q lo n v) (s, false)).1 :=
    Frame.foldl_fst (fun y p hy => Frame.step (commitStep_frame ..) rfl hy) (Frame.refl _)
  rw [commitBits_eq]
  unfold commitEnd
  rw [← hr.fm_eq]
  split
  · exact (cfgLocked_frame ..).fm_eq
  · split
    · exact (ringDue_link_frame ..).fm_eq
    · rfl

end Sys2Proof.Machine
end

section
/-! PROOFS. Reads and writes of one register, by their size and place. -/

namespace Sys2Proof.Machine

set_option Elab.async false

/-! ### Reaching a register: the window of the queue manager (R341, R357, R359) -/

theorem inQmWindow_of_outside {off : Nat} (h : off / 2 ^ 20 ≠ 6) (s : State) (size : Nat) : inQmWindow s off size = false := by
  unfold inQmWindow
  simp only [h, decide_false, Bool.and_false, Bool.false_and]

theorem inQmWindow_of_bad {off size : Nat} (h : okAccess off size = false) (s : State) : inQmWindow s off size = false := by
  unfold inQmWindow
  simp only [h, Bool.false_and]

theorem touchWindow_of_not {s : State} {off size : Nat} (h : inQmWindow s off size = false) (q : Nat) :
    touchWindow s q off size = s := by
  unfold touchWindow
  simp only [h, Bool.false_eq_true, if_false]

theorem windowShut_of_not {s : State} {off size : Nat} (h : inQmWindow s off size = false) (q : Nat) :
    windowShut s q off size = false := by
  unfold windowShut
  simp only [h, Bool.false_and]

theorem touchWindow_getF {s : State} {q o size off i : Nat} {f : Fld} (hf : (f, i) ∈ fieldsAt off) (hne : f ≠ Reg.QM_CNT_CACHE_MISS)
    (ch : Nat) : getF (touchWindow s q o size) f ch i = getF s f ch i := by
  unfold touchWindow
  split
  · exact useRing_getF hf hne ch
  · rfl

/-- The use of a ring's context moves no selection and no tile. -/
theorem touchWindow_chanIx (s : State) (q off size : Nat) (f : Fld) : chanIx (touchWindow s q off size) q f = chanIx s q f := by
  have hfr := touchWindow_frame s q off size
  refine chanIx_congr (fun g hg => ?_) hfr.grid_eq (by rw [hfr.fm_eq]) f
  obtain ⟨hm, hrw, -⟩ := selFields_mem g hg
  exact touchWindow_getF hm (fun he => absurd (he ▸ hrw) (by decide)) q

theorem answers_congr {s t : State} (hp : t.pins = s.pins) (hb : t.boot = s.boot) (hm : t.fm = s.fm) (off : Nat) :
    answers t off = answers s off := by
  unfold answers ready
  rw [hp, hb, hm]

theorem touchWindow_answers (s : State) (q o size off : Nat) : answers (touchWindow s q o size) off = answers s off :=
  have hfr := touchWindow_frame s q o size
  answers_congr (hfr.keeps .pins (by decide)) (hfr.keeps .boot (by decide)) hfr.fm_eq off

theorem touchWindow_secLocked (s : State) (q o size off : Nat) : secLocked (touchWindow s q o size) off = secLocked s off := by
  unfold secLocked
  rw [(touchWindow_frame s q o size).keeps .sec (by decide)]

theorem okAccess_eight {off : Nat} (h : off % 8 = 0) : okAccess off 8 = true := by simp [okAccess, h]

theorem okAccess_four {off : Nat} (h : off % 8 = 0) : okAccess off 4 = true := by
  have : off % 4 = 0 := by omega
  simp [okAccess, this]

/-! ### Writes -/

theorem exec_registerWrite {s : State} {req : Req} {off size : Nat} {data : Word} (hr : reached s req = true)
    (hw : windowShut s (reqIx req) off size = false) :
    exec (.registerWrite req off size data) s =
      .next (regWrite (touchWindow s (reqIx req) off size) (reqIx req) off size data.toNat) := by
  change execRegisterWrite req off size data s = _
  simp [execRegisterWrite, hr, hw]

/-- A state that holds no half of a register's write for a requester. -/
def noHeld (s : State) (q off : Nat) : State := put_heldLow s (mset 0 s.heldLow (halfKey q off) 0)

/-- A write of 8 bytes goes to the fields of its register (R341). -/
theorem regStore_eight {s : State} {q off data : Nat} (ha : answers s off = true) (h8 : off % 8 = 0) (hb : off / 0x80000 ≠ 5)
    (hl : secLocked s off = false) (hc : off ≠ 0x200030) :
    regStore s q off 8 data = writeBits (noHeld s q off) q off 0 64 (data % 2 ^ 64) := by
  have hbase : off / 8 * 8 = off := by omega
  have hwin : ¬(0x280000 ≤ off ∧ off < 0x300000) := by omega
  unfold regStore noHeld put_heldLow
  simp only [okAccess_eight h8, ha, hl, hc, hwin, hbase, Bool.not_true, Bool.false_eq_true, if_false, if_true]

/-- The first of the two 4-byte writes of a 64-bit register is held (R341). -/
theorem regStore_low {s : State} {q off data : Nat} (ha : answers s off = true) (h8 : off % 8 = 0) (hb : off / 0x80000 ≠ 5)
    (hl : secLocked s off = false) (h64 : is64 off = true) :
    regStore s q off 4 data = put_heldLow s (mset 0 s.heldLow (halfKey q off) (data % 2 ^ 32 + 1)) := by
  have hbase : off / 8 * 8 = off := by omega
  have hwin : ¬(0x280000 ≤ off ∧ off < 0x300000) := by omega
  have hc : off ≠ 0x200030 := fun he => absurd (he ▸ h64) (by decide +kernel)
  have hm : inMsixTable off = false := by
    have h := h64
    simp only [is64, Bool.and_eq_true, Bool.not_eq_true'] at h
    exact h.1
  unfold regStore
  simp [okAccess_four h8, ha, hl, hc, hwin, hbase, hm, h64, h8, put_heldLow]

theorem writeBits_no_own {s : State} {q off lo n v : Nat} (h : ((fieldsAt off).all fun p => !p.1.own) = true) :
    writeBits s q off lo n v = commitBits s q off lo n v := by
  refine writeBits_plain s q off lo n v (List.find?_eq_none.2 fun p hp => ?_)
  have hno : p.1.own = false := by simpa using List.all_eq_true.1 h p hp
  simp only [hno, Bool.false_and, Bool.false_eq_true, not_false_eq_true]

/-- A write of 8 bytes of a register without commands of their own stores every live field as written (R5, R343). -/
theorem regWrite_eight_stores {s : State} {q off i ch data : Nat} {f : Fld} (ha : answers s off = true) (h8 : off % 8 = 0)
    (hb : off / 0x80000 ≠ 5) (hl : secLocked s off = false) (hown : ((fieldsAt off).all fun p => !p.1.own) = true)
    (hf : (f, i) ∈ fieldsAt off) (hacc : f.acc = .rw) (hupd : f.upd = .none ∨ f.upd = .live) (hfix : f.fix = .id)
    (hch : chanIx s q f = some ch) (hd : data < 2 ^ 64) :
    getF (regWrite s q off 8 data) f ch i = bitsOf data f.lo f.w := by
  have hc : off ≠ 0x200030 := fun he => absurd (he ▸ hown) (by decide +kernel)
  have hne : ∀ g : Fld, g.acc ≠ .rw → f ≠ g := fun g hg he => hg (he ▸ hacc)
  have hof : f.own = false := by simpa using List.all_eq_true.1 hown _ hf
  have hw : f.lo + f.w ≤ 0 + 64 := by simpa using (fieldsAt_placed hf).2.1
  unfold regWrite
  rw [oneLocked_getF hf (hne _ (by decide)) (hne _ (by decide)) (hne _ (by decide)), regStore_eight ha h8 hb hl hc,
    writeBits_no_own hown, Nat.mod_eq_of_lt hd, commitBits_eq, commitEnd_getF _ hf hacc]
  exact commitFold_getF hf hof (by omega) hacc hupd hfix (by unfold noHeld; rw [← hch]; exact chanIx_congr (fun _ _ => rfl) rfl rfl f)

theorem regWrite_eight_frame {s : State} {q off data : Nat} (ha : answers s off = true) (h8 : off % 8 = 0)
    (hb : off / 0x80000 ≠ 5) (hl : secLocked s off = false) (hown : ((fieldsAt off).all fun p => !p.1.own) = true) :
    Frame (partMask [.regs, .shadow, .heldLow, .fm, .hl, .rings]) s (regWrite s q off 8 data) ∧ (off ≠ 0x300000 → (regWrite s q off 8 data).fm = s.fm) := by
  have hc : off ≠ 0x200030 := fun he => absurd (he ▸ hown) (by decide +kernel)
  have hs : regStore s q off 8 data = commitBits (noHeld s q off) q off 0 64 (data % 2 ^ 64) := by
    rw [regStore_eight ha h8 hb hl hc, writeBits_no_own hown]
  have h0 : Frame (partMask [.heldLow]) s (noHeld s q off) := put_heldLow_frame s _
  unfold regWrite
  rw [hs]
  refine ⟨Frame.step (oneLocked_frame ..) rfl (Frame.step (commitBits_link_frame ..) rfl (Frame.step h0 rfl (Frame.refl _))), fun hne => ?_⟩
  rw [(oneLocked_frame ..).fm_eq, commitBits_fm hne]
  rfl

/-- A held low half changes nothing else (R341). -/
theorem regWrite_low {s : State} {q off data : Nat} (ha : answers s off = true) (h8 : off % 8 = 0) (hb : off / 0x80000 ≠ 5)
    (hl : secLocked s off = false) (h64 : is64 off = true) :
    regWrite s q off 4 data = put_heldLow s (mset 0 s.heldLow (halfKey q off) (data % 2 ^ 32 + 1)) := by
  unfold regWrite
  rw [regStore_low ha h8 hb hl h64]
  exact oneLocked_none _ _ _ _ (Nat.le_refl _)

/-! ### A register of one field -/

/-- A write of a register of one plain field is the write of that field. -/
theorem commitBits_one {s : State} {q off v i ch : Nat} {f : Fld} (hfs : fieldsAt off = [(f, i)]) (hown : f.own = false)
    (hch : chanIx s q f = some ch) (hmask : fid f ≠ fid Reg.HL_MSIX_MASK) (h1 : off ≠ 0x300000) (h2 : off ≠ 0x601028) :
    commitBits s q off 0 64 v =
      if (writeField s s f ch i (bitsOf v f.lo f.w)).2 then cfgLocked (writeField s s f ch i (bitsOf v f.lo f.w)).1 q off
      else (writeField s s f ch i (bitsOf v f.lo f.w)).1 := by
  have hw := (fieldsAt_placed (hfs ▸ List.mem_singleton_self (f, i))).2.1
  have hn : ¬(64 < f.lo + f.w) := by omega
  rw [commitBits_eq, hfs]
  unfold commitEnd commitStep
  simp [hown, hch, hmask, h1, h2, hn]

/-- A write of 8 bytes of such a register. -/
theorem regStore_one {s : State} {q off data i ch : Nat} {f : Fld} (ha : answers s off = true) (h8 : off % 8 = 0)
    (hb : off / 0x80000 ≠ 5) (hl : secLocked s off = false) (hfs : fieldsAt off = [(f, i)]) (hown : f.own = false)
    (hch : chanIx s q f = some ch) (hmask : fid f ≠ fid Reg.HL_MSIX_MASK) (h1 : off ≠ 0x300000) (h2 : off ≠ 0x601028)
    (hd : data < 2 ^ 64) :
    regStore s q off 8 data =
      let n := noHeld s q off
      let r := writeField n n f ch i (bitsOf data f.lo f.w)
      if r.2 then cfgLocked r.1 q off else r.1 := by
  have ho : ((fieldsAt off).all fun p => !p.1.own) = true := by simp [hfs, hown]
  have hc : off ≠ 0x200030 := fun he => absurd (he ▸ ho) (by decide +kernel)
  rw [regStore_eight ha h8 hb hl hc, writeBits_no_own ho, Nat.mod_eq_of_lt hd]
  refine commitBits_one hfs hown ?_ hmask h1 h2
  rw [← hch]
  exact chanIx_congr (fun _ _ => rfl) rfl rfl f

/-! ### Reads -/

/-- The step of `clearRc` at one field. -/
def clearStep (q lo n : Nat) (s' : State) (p : Fld × Nat) : State :=
  if p.1.acc = .rc && lo ≤ p.1.lo && p.1.lo < lo + n then
    match chanIx s' q p.1 with
    | none => s'
    | some ch => setF s' p.1 ch p.2 (if fid p.1 == fid Reg.HV_RAIL_MIN_MV then p.1.reset else 0)
  else s'

theorem clearRc_eq {s : State} {off : Nat} (ha : answers s off = true) (q lo n : Nat) :
    clearRc s q off lo n = (fieldsAt off).foldl (clearStep q lo n) s := by
  unfold clearRc
  simp only [ha, Bool.not_true, Bool.false_eq_true, if_false]
  rfl

theorem clearStep_only (q lo n : Nat) (s : State) (p : Fld × Nat) : OnlyField p s (clearStep q lo n s p) := by
  unfold clearStep
  split
  · split
    · exact .of_regs rfl
    · exact .setF ..
  · exact .of_regs rfl

theorem clearStep_frame (q lo n : Nat) (s : State) (p : Fld × Nat) : Frame (partMask [.regs]) s (clearStep q lo n s p) := by
  unfold clearStep
  split
  · split
    · exact Frame.refl _
    · exact setF_frame ..
  · exact Frame.refl _

/-- A read of a whole register clears its RC fields (R5). -/
theorem clearRc_getF {s : State} {q off i ch : Nat} {f : Fld} (ha : answers s off = true) (hf : (f, i) ∈ fieldsAt off)
    (hacc : f.acc = .rc) (hrail : fid f ≠ fid Reg.HV_RAIL_MIN_MV) (hch : chanIx s q f = some ch) :
    getF (clearRc s q off 0 64) f ch i = 0 := by
  have hlo : f.lo < 64 := by have := fieldsAt_placed hf; omega
  rw [clearRc_eq ha]
  refine foldl_fields id _ (fun y => chanIx y q f = some ch) hf hch (fun y p _ => clearStep_only q 0 64 y p) ?_ ?_
  · intro y p hp hy
    have hfr := clearStep_frame q 0 64 y p
    rw [(clearStep_only q 0 64 y p).chanIx hp hf hfr.grid_eq (by rw [hfr.fm_eq])]
    exact hy
  · intro y hy
    have hb : (fid f == fid Reg.HV_RAIL_MIN_MV) = false := by simpa using hrail
    unfold clearStep
    simp only [id, hacc, hy, hlo, hb, Nat.zero_le, Nat.zero_add, decide_true, Bool.and_self, if_true, Bool.false_eq_true, if_false,
      getF_setF_self, Nat.zero_mod]

theorem readTo_open {s : State} {req : Req} {off size : Nat} (hw : windowShut s (reqIx req) off size = false) :
    readTo s req off size =
      put_readData_readError (regRead (touchWindow s (reqIx req) off size) (reqIx req) off size).2
        (regRead (touchWindow s (reqIx req) off size) (reqIx req) off size).1 (!okAccess off size) := by
  unfold readTo
  simp only [hw, Bool.false_eq_true, if_false]
  rfl

theorem exec_registerRead {s : State} {req : Req} (hr : reached s req = true) (off size : Nat) :
    exec (.registerReadClear req off size) s = .next (readTo s req off size) := by
  change execRegisterReadClear req off size s = _
  simp only [execRegisterReadClear, hr, if_true]

theorem exec_lowHalfRead {s : State} {req : Req} {off : Nat} (hr : reached s req = true) (h8 : off % 8 = 0) :
    exec (.lowHalfRead req off) s = .next (readTo s req off 4) := by
  change execLowHalfRead req off s = _
  simp only [execLowHalfRead, hr, h8, decide_true, Bool.and_self, if_true]

theorem regRead_eight {s : State} {q off : Nat} (h8 : off % 8 = 0) :
    regRead s q off 8 = (natLE 8 (regValue s q off), clearRc s q off 0 64) := by
  have hbase : off / 8 * 8 = off := by omega
  unfold regRead
  simp only [okAccess_eight h8, hbase, Bool.not_true, Bool.false_eq_true, if_false, if_true]

theorem regRead_low {s : State} {q off : Nat} (h8 : off % 8 = 0) (h64 : is64 off = true) :
    regRead s q off 4 = (natLE 4 (regValue s q off),
      clearRc (put_latched s (mset 0 s.latched (halfKey q off) (regValue s q off / 2 ^ 32 + 1))) q off 0 32) := by
  have hbase : off / 8 * 8 = off := by omega
  unfold regRead
  simp only [okAccess_four h8, hbase, h8, h64, Bool.not_true, Bool.false_eq_true, if_false, if_true]
  rfl

/-- The high half that a read of the low half has latched is what the next read of it returns. -/
theorem regRead_high {s : State} {q off h : Nat} (h8 : off % 8 = 4) (hl : mget 0 s.latched (halfKey q (off / 8 * 8)) = h + 1) :
    (regRead s q off 4).1 = natLE 4 h := by
  have hok : okAccess off 4 = true := by
    have : off % 4 = 0 := by omega
    simp [okAccess, this]
  unfold regRead
  simp [hok, h8, hl]

end Sys2Proof.Machine
end

section
/-! PROOFS. Register accesses: the clauses of `RegisterAccesses`, and the statement. -/

namespace Sys2Proof.Machine

set_option Elab.async false

/-! ### Events leave the registers of other blocks (R422) -/

theorem mem_fieldsAt_of {f : Fld} {i : Nat} (hb : f ∈ Reg.block ((f.off + f.stride * i) / 2 ^ 20)) (hs : 0 < f.stride) (hi : i < f.cnt) :
    (f, i) ∈ fieldsAt (f.off + f.stride * i) := by
  refine List.mem_filterMap.2 ⟨f, hb, ?_⟩
  have hix : indexAt f (f.off + f.stride * i) = some i := by
    unfold indexAt
    rw [if_neg (by omega), if_neg (by omega), Nat.add_sub_cancel_left, Nat.mul_mod_right, Nat.mul_div_cancel_left _ hs,
      if_pos ⟨rfl, hi⟩]
  rw [hix]
  rfl

theorem mem_coalesced {n : Nat} (hn : n < 1024) :
    (Reg.EV_SRC_COALESCED, n) ∈ fieldsAt (Reg.EV_SRC_COALESCED.off + Reg.EV_SRC_COALESCED.stride * n) := by
  refine mem_fieldsAt_of ?_ (by decide) hn
  have : (Reg.EV_SRC_COALESCED.off + Reg.EV_SRC_COALESCED.stride * n) / 2 ^ 20 = 5 := by
    simp only [Reg.EV_SRC_COALESCED]; omega
  rw [this]
  decide

theorem mem_coalescedCount : (Reg.EV_CNT_COALESCED, 0) ∈ fieldsAt Reg.EV_CNT_COALESCED.off := by decide +kernel

theorem evSet_getF {s : State} {n off i : Nat} {f : Fld} (hn : n < 1024) (hf : (f, i) ∈ fieldsAt off) (h1 : f ≠ Reg.EV_SRC_COALESCED)
    (h2 : f ≠ Reg.EV_CNT_COALESCED) (ch : Nat) : getF (evSet s n) f ch i = getF s f ch i := by
  have hc : getF (cnt (addF s Reg.EV_SRC_COALESCED 0 n 1) Reg.EV_CNT_COALESCED) f ch i = getF s f ch i := by
    unfold cnt
    rw [getF_addF_other _ _ _ _ _ _ _ _ (fldKey_ne hf mem_coalescedCount h2 _ _),
      getF_addF_other _ _ _ _ _ _ _ _ (fldKey_ne hf (mem_coalesced hn) h1 _ _)]
  unfold evSet
  split
  · rfl
  · rfl
  · exact hc
  · exact hc

/-! ### The clauses of `RegisterAccesses` -/

/-- Writes of `CFG_LOCKED` and its capture: what stands in the count, the bit and the offset afterwards (R344). -/
theorem cfgLocked_count (s : State) (q off : Nat) : Counted Reg.HL_CNT_CFG_LOCKED 0 0 1 s (cfgLocked s q off) := by
  have hc : Counted Reg.HL_CNT_CFG_LOCKED 0 0 1 s (cnt s Reg.HL_CNT_CFG_LOCKED) := getF_addF_self ..
  unfold Counted at *
  unfold cfgLocked
  dsimp only
  split
  · exact hc
  · rw [getF_setF_other _ _ _ _ _ _ _ _ (by decide), getF_setF_other _ _ _ _ _ _ _ _ (by decide),
      getF_setF_other _ _ _ _ _ _ _ _ (by decide), hc]

theorem cfgLocked_bit (s : State) (q off : Nat) : getF (cfgLocked s q off) Reg.HL_REG_ERR_CFG_LOCKED 0 0 = 1 := by
  have hk : getF (cnt s Reg.HL_CNT_CFG_LOCKED) Reg.HL_REG_ERR_CFG_LOCKED 0 0 = getF s Reg.HL_REG_ERR_CFG_LOCKED 0 0 :=
    getF_addF_other _ _ _ _ _ _ _ _ (by decide)
  unfold cfgLocked bit
  dsimp only
  split
  · next h => simpa [hk] using h
  · rw [getF_setF_other _ _ _ _ _ _ _ _ (by decide), getF_setF_other _ _ _ _ _ _ _ _ (by decide), getF_setF_self]
    decide

theorem cfgLocked_offset {s : State} {q off : Nat} (h : bit s Reg.HL_REG_ERR_CFG_LOCKED 0 0 = false) (ho : off < 2 ^ 26) :
    getF (cfgLocked s q off) Reg.HL_REG_ERR_OFFSET 0 0 = off := by
  unfold cfgLocked
  simp only [h, Bool.false_eq_true, if_false]
  rw [getF_setF_other _ _ _ _ _ _ _ _ (by decide), getF_setF_self]
  exact Nat.mod_eq_of_lt ho

/-- A write that has raised `CFG_LOCKED` once stands as it is. -/
theorem oneLocked_count {s t : State} {q off : Nat} (h : Counted Reg.HL_CNT_CFG_LOCKED 0 0 1 s t) :
    Counted Reg.HL_CNT_CFG_LOCKED 0 0 1 s (oneLocked s q off t) := by
  unfold Counted at *
  unfold oneLocked fld
  dsimp only
  split
  · exact h
  · next hn =>
    have hv : getF (setF t Reg.HL_CNT_CFG_LOCKED 0 0 (getF s Reg.HL_CNT_CFG_LOCKED 0 0 + 1)) Reg.HL_CNT_CFG_LOCKED 0 0 =
        min (2 ^ Reg.HL_CNT_CFG_LOCKED.w - 1) (getF s Reg.HL_CNT_CFG_LOCKED 0 0 + 1) := by
      rw [getF_setF_self, Nat.mod_eq_of_lt] <;> (have := Nat.two_pow_pos Reg.HL_CNT_CFG_LOCKED.w; omega)
    split
    · exact hv
    · rw [getF_setF_other _ _ _ _ _ _ _ _ (by decide), getF_setF_other _ _ _ _ _ _ _ _ (by decide), hv]

theorem oneLocked_offset {s t : State} {q off : Nat} (ho : off < 2 ^ 26) (h : getF t Reg.HL_REG_ERR_OFFSET 0 0 = off) :
    getF (oneLocked s q off t) Reg.HL_REG_ERR_OFFSET 0 0 = off := by
  have hc : ∀ v, getF (setF t Reg.HL_CNT_CFG_LOCKED 0 0 v) Reg.HL_REG_ERR_OFFSET 0 0 = off := fun v => by
    rw [getF_setF_other _ _ _ _ _ _ _ _ (by decide), h]
  unfold oneLocked
  dsimp only
  split
  · exact h
  · split
    · exact hc _
    · rw [getF_setF_other _ _ _ _ _ _ _ _ (by decide), getF_setF_self]
      exact Nat.mod_eq_of_lt ho

theorem registerWrite_stores {req : Req} {off i ch : Nat} {f : Fld} {data : Word} {s : State} (hr : reached s req = true)
    (ha : answers s off = true) (h8 : off % 8 = 0) (hb : off / 0x80000 ≠ 5) (hl : secLocked s off = false)
    (hw : windowShut s (reqIx req) off 8 = false) (hown : ((fieldsAt off).all fun p => !p.1.own) = true) (hf : (f, i) ∈ fieldsAt off)
    (hacc : f.acc = .rw) (hupd : f.upd = .none ∨ f.upd = .live) (hfix : f.fix = .id) (hch : chanIx s (reqIx req) f = some ch) :
    ∃ t, exec (.registerWrite req off 8 data) s = .next t ∧ getF t f ch i = bitsOf data.toNat f.lo f.w ∧
      (off ≠ 0x300000 → KeepsBut [.regs, .shadow, .heldLow, .hl, .rings] s t) ∧
      KeepsBut [.regs, .shadow, .heldLow, .hl, .rings, .hostMem, .fm] s t := by
  have ha' := (touchWindow_answers s (reqIx req) off 8 off).trans ha
  have hl' := (touchWindow_secLocked s (reqIx req) off 8 off).trans hl
  have hch' := (touchWindow_chanIx s (reqIx req) off 8 f).trans hch
  obtain ⟨hfr, hfm⟩ := regWrite_eight_frame (q := reqIx req) (data := data.toNat) ha' h8 hb hl' hown
  have hall : Frame (partMask [.regs, .shadow, .heldLow, .fm, .hl, .rings]) s (regWrite (touchWindow s (reqIx req) off 8) (reqIx req) off 8 data.toNat) :=
    Frame.step hfr rfl (Frame.step (touchWindow_frame ..) rfl (Frame.refl _))
  refine ⟨_, exec_registerWrite hr hw, regWrite_eight_stores ha' h8 hb hl' hown hf hacc hupd hfix hch' data.isLt, fun hne p hp => ?_,
    hall.named⟩
  by_cases hpf : p = .fm
  · subst hpf
    exact (hfm hne).trans (touchWindow_frame s (reqIx req) off 8).fm_eq
  · exact (hall.named (ps := [.regs, .shadow, .heldLow, .hl, .rings, .fm])) p (by simpa [hpf] using hp)

/-- A write of `EV_SET` is the event set command (R5, R422). -/
theorem registerWrite_eventSet {req : Req} {data : Word} {s : State} (hr : reached s req = true) (ha : answers s 0x500010 = true) :
    exec (.registerWrite req 0x500010 8 data) s = exec (.eventSet (Fin.ofNat 1024 (bitsOf data.toNat 0 64)))
      { s with heldLow := mset 0 s.heldLow (halfKey (reqIx req) 0x500010) 0 } := by
  have ho := inQmWindow_of_outside (off := 0x500010) (by decide) s 8
  have hfs : fieldsAt 0x500010 = [(Reg.EV_SET_SOURCE, 0)] := by decide +kernel
  have hl : secLocked s 0x500010 = false := by simp [secLocked]
  rw [exec_registerWrite hr (windowShut_of_not ho _), touchWindow_of_not ho]
  have hs : regStore s (reqIx req) 0x500010 8 data.toNat =
      after (execEventSet (Fin.ofNat 1024 (data.toNat % 2 ^ 64))) (noHeld s (reqIx req) 0x500010) := by
    rw [regStore_eight ha (by decide) (by decide) hl (by decide)]
    exact writeBits_command (ch := 0) (p := (Reg.EV_SET_SOURCE, 0)) _ _ _ _ _ _ (by rw [hfs]; decide +kernel) rfl
  have hb : bitsOf data.toNat 0 64 = data.toNat % 2 ^ 64 := by simp [bitsOf]
  rw [hb]
  change _ = execEventSet (Fin.ofNat 1024 (data.toNat % 2 ^ 64)) (noHeld s (reqIx req) 0x500010)
  unfold regWrite
  rw [hs]
  unfold execEventSet after
  dsimp only
  rw [oneLocked_none]
  refine Nat.le_of_eq ?_
  unfold fld
  split
  · rfl
  · exact evSet_getF (Fin.isLt _) mem_cfgLockedCount (by decide) (by decide) 0

theorem registerWrite_lowHalf {req : Req} {off : Nat} {data : Word} {s : State} (hr : reached s req = true) (ha : answers s off = true)
    (h8 : off % 8 = 0) (hb : off / 0x80000 ≠ 5) (hl : secLocked s off = false) (hw : windowShut s (reqIx req) off 4 = false)
    (h64 : is64 off = true) :
    ∃ t, exec (.registerWrite req off 4 data) s = .next t ∧
      t.heldLow = mset 0 s.heldLow (halfKey (reqIx req) off) (data.toNat % 2 ^ 32 + 1) ∧ KeepsBut [.regs, .heldLow, .rings] s t := by
  have hfr := touchWindow_frame s (reqIx req) off 4
  refine ⟨_, exec_registerWrite hr hw, ?_⟩
  rw [regWrite_low ((touchWindow_answers ..).trans ha) h8 hb ((touchWindow_secLocked ..).trans hl) h64]
  refine ⟨?_, (Frame.step (put_heldLow_frame _ _) (m := partMask [.regs, .heldLow, .rings]) rfl (Frame.step hfr rfl (Frame.refl _))).named⟩
  exact congrArg (fun m => mset 0 m (halfKey (reqIx req) off) (data.toNat % 2 ^ 32 + 1)) (hfr.keeps .heldLow (by decide))

theorem registerRead_clears {req : Req} {off : Nat} {s : State} (hr : reached s req = true) (ha : answers s off = true)
    (h8 : off % 8 = 0) (hw : windowShut s (reqIx req) off 8 = false) :
    ∃ t, exec (.registerReadClear req off 8) s = .next t ∧
      t.readData = natLE 8 (regValue (touchWindow s (reqIx req) off 8) (reqIx req) off) ∧ t.readError = false ∧
      (∀ (f : Fld) (i ch : Nat), (f, i) ∈ fieldsAt off → f.acc = .rc → chanIx s (reqIx req) f = some ch →
        fid f ≠ fid Reg.HV_RAIL_MIN_MV → getF t f ch i = 0) ∧
      KeepsBut [.regs, .readData, .readError, .rings] s t := by
  refine ⟨_, exec_registerRead hr off 8, ?_⟩
  rw [readTo_open hw, regRead_eight h8, okAccess_eight h8]
  refine ⟨rfl, rfl, fun f i ch hf hacc hch hrail => ?_, ?_⟩
  · exact clearRc_getF ((touchWindow_answers ..).trans ha) hf hacc hrail ((touchWindow_chanIx ..).trans hch)
  · exact (Frame.step (put_readData_readError_frame _ _ _) (m := partMask [.regs, .readData, .readError, .rings]) rfl
      (Frame.step (clearRc_frame ..) rfl (Frame.step (touchWindow_frame ..) rfl (Frame.refl _)))).named

theorem lowHalfRead_latches {req : Req} {off : Nat} {s : State} (hr : reached s req = true) (h8 : off % 8 = 0)
    (h64 : is64 off = true) (hw : windowShut s (reqIx req) off 4 = false) :
    ∃ t, exec (.lowHalfRead req off) s = .next t ∧
      t.readData = natLE 4 (regValue (touchWindow s (reqIx req) off 4) (reqIx req) off) ∧ t.readError = false ∧
      t.latched = mset 0 s.latched (halfKey (reqIx req) off)
        (regValue (touchWindow s (reqIx req) off 4) (reqIx req) off / 2 ^ 32 + 1) ∧
      KeepsBut [.regs, .latched, .readData, .readError, .rings] s t := by
  have hfr := touchWindow_frame s (reqIx req) off 4
  refine ⟨_, exec_lowHalfRead hr h8, ?_⟩
  rw [readTo_open hw, regRead_low h8 h64, okAccess_four h8]
  refine ⟨rfl, rfl, ?_, ?_⟩
  · refine ((clearRc_frame ..).keeps .latched (by decide)).trans ?_
    exact congrArg (fun m => mset 0 m (halfKey (reqIx req) off) (regValue (touchWindow s (reqIx req) off 4) (reqIx req) off / 2 ^ 32 + 1))
      (hfr.keeps .latched (by decide))
  · exact (Frame.step (put_readData_readError_frame _ _ _) (m := partMask [.regs, .latched, .readData, .readError, .rings]) rfl (Frame.step (clearRc_frame ..) rfl
      (Frame.step (put_latched_frame _ _) rfl (Frame.step hfr rfl (Frame.refl _))))).named

/-- A write of the scratch register stores it. -/
theorem registerWrite_scratch {req : Req} {data : Word} {s : State} (hr : reached s req = true) (ha : answers s 0x20 = true) :
    ∃ t, exec (.registerWrite req 0x20 8 data) s = .next t ∧ getF t Reg.GC_SCRATCH 0 0 = data.toNat ∧
      RegsKeptBut [fldKey Reg.GC_SCRATCH 0 0] s t ∧ KeepsBut [.regs, .heldLow] s t := by
  have ho := inQmWindow_of_outside (off := 0x20) (by decide) s 8
  have hst : regWrite s (reqIx req) 0x20 8 data.toNat = setF (noHeld s (reqIx req) 0x20) Reg.GC_SCRATCH 0 0 (bitsOf data.toNat 0 64) := by
    have hs : regStore s (reqIx req) 0x20 8 data.toNat = setF (noHeld s (reqIx req) 0x20) Reg.GC_SCRATCH 0 0 (bitsOf data.toNat 0 64) := by
      rw [regStore_one (f := Reg.GC_SCRATCH) (i := 0) (ch := 0) ha (by decide) (by decide) (by simp [secLocked]) (by decide +kernel) rfl rfl
        (by decide) (by decide) (by decide) data.isLt]
      rfl
    unfold regWrite
    rw [hs, oneLocked_none]
    refine Nat.le_of_eq ?_
    exact getF_setF_other _ _ _ _ _ _ _ _ (by decide)
  refine ⟨_, exec_registerWrite hr (windowShut_of_not ho _), ?_⟩
  rw [touchWindow_of_not ho, hst]
  refine ⟨?_, fun f ch i hk => ?_, ?_⟩
  · rw [getF_setF_self]
    have hd : data.toNat < 2 ^ 64 := data.isLt
    change data.toNat / 2 ^ 0 % 2 ^ 64 % 2 ^ 64 = _
    omega
  · exact getF_setF_other _ _ _ _ _ _ _ _ (by simpa using hk)
  · exact (Frame.step (setF_frame ..) (m := partMask [.regs, .heldLow]) rfl (Frame.step (put_heldLow_frame _ _) rfl (Frame.refl _))).named

/-- A read of the `CFG_LOCKED` count returns it and starts it again at 0. -/
theorem registerRead_cfgLocked {req : Req} {s : State} (hr : reached s req = true) (ha : answers s 0x1100200 = true) :
    ∃ t, exec (.registerReadClear req 0x1100200 8) s = .next t ∧
      t.readData = natLE 8 (getF s Reg.HL_CNT_CFG_LOCKED 0 0 % 2 ^ 64) ∧ t.readError = false ∧
      getF t Reg.HL_CNT_CFG_LOCKED 0 0 = 0 ∧
      RegsKeptBut [fldKey Reg.HL_CNT_CFG_LOCKED 0 0] s t ∧ KeepsBut [.regs, .readData, .readError] s t := by
  have ho := inQmWindow_of_outside (off := 0x1100200) (by decide) s 8
  have hfs : fieldsAt 0x1100200 = [(Reg.HL_CNT_CFG_LOCKED, 0)] := by decide +kernel
  have hv : regValue s (reqIx req) 0x1100200 = getF s Reg.HL_CNT_CFG_LOCKED 0 0 % 2 ^ 64 := by
    have hf : readF s Reg.HL_CNT_CFG_LOCKED 0 0 = getF s Reg.HL_CNT_CFG_LOCKED 0 0 % 2 ^ 64 := rfl
    have hlo : Reg.HL_CNT_CFG_LOCKED.lo = 0 := rfl
    simp [regValue, ha, hfs, chanIx, hf, hlo, show Reg.HL_CNT_CFG_LOCKED.ch = .none from rfl]
  have hc : clearRc s (reqIx req) 0x1100200 0 64 = setF s Reg.HL_CNT_CFG_LOCKED 0 0 0 := by
    rw [clearRc_eq ha, hfs]
    rfl
  refine ⟨_, exec_registerRead hr _ _, ?_⟩
  rw [readTo_open (windowShut_of_not ho _), touchWindow_of_not ho, regRead_eight (by decide), hv, hc]
  refine ⟨rfl, rfl, ?_, fun f ch i hk => ?_, ?_⟩
  · exact (getF_congr rfl ..).trans (getF_setF_self s Reg.HL_CNT_CFG_LOCKED 0 0 0)
  · exact (getF_congr rfl ..).trans (getF_setF_other s Reg.HL_CNT_CFG_LOCKED f 0 0 0 ch i (by simpa using hk))
  · exact (Frame.step (put_readData_readError_frame _ _ _) (m := partMask [.regs, .readData, .readError]) rfl (Frame.step (setF_frame ..) rfl (Frame.refl _))).named

/-- The two halves of the time base are read as one (R93). -/
theorem lowHalfRead_timeBase {req : Req} {s : State} (hr : reached s req = true) (ha : answers s 0xB00A00 = true) :
    ∃ t, exec (.lowHalfRead req 0xB00A00) s = .next t ∧ t.readData = natLE 4 (nowNs s) ∧
      mget 0 t.latched (halfKey (reqIx req) 0xB00A00) = nowNs s / 2 ^ 32 + 1 ∧
      KeepsBut [.latched, .readData, .readError] s t ∧
      ∀ u : State, u.latched = t.latched → reached u req = true →
        ∃ v, exec (.registerReadClear req 0xB00A04 4) u = .next v ∧ v.readData = natLE 4 (nowNs s / 2 ^ 32) := by
  have ho := inQmWindow_of_outside (off := 0xB00A00) (by decide) s 4
  have hfs : fieldsAt 0xB00A00 = [(Reg.LT_TB_TIME, 0)] := by decide +kernel
  have h64 : is64 0xB00A00 = true := by decide +kernel
  have hv : regValue s (reqIx req) 0xB00A00 = nowNs s := by
    have hf : readF s Reg.LT_TB_TIME 0 0 = nowNs s := Nat.mod_mod (s.clk.tb / 2 ^ 28) (2 ^ 64)
    have hlo : Reg.LT_TB_TIME.lo = 0 := rfl
    simp [regValue, ha, hfs, chanIx, hf, hlo, show Reg.LT_TB_TIME.ch = .none from rfl]
  have hc : ∀ x : State, answers x 0xB00A00 = true → clearRc x (reqIx req) 0xB00A00 0 32 = x := fun x hx => by
    rw [clearRc_eq hx, hfs]
    rfl
  have hl : mget 0 (mset 0 s.latched (halfKey (reqIx req) 0xB00A00) (nowNs s / 2 ^ 32 + 1)) (halfKey (reqIx req) 0xB00A00) =
      nowNs s / 2 ^ 32 + 1 := mget_mset_self ..
  refine ⟨_, exec_lowHalfRead hr (by decide), ?_⟩
  rw [readTo_open (windowShut_of_not ho _), touchWindow_of_not ho, regRead_low (by decide) h64, hv,
    hc (put_latched s (mset 0 s.latched (halfKey (reqIx req) 0xB00A00) (nowNs s / 2 ^ 32 + 1))) ha]
  refine ⟨rfl, hl, ?_, fun u hu hru => ⟨_, exec_registerRead hru _ _, ?_⟩⟩
  · exact (Frame.step (put_readData_readError_frame _ _ _) (m := partMask [.latched, .readData, .readError]) rfl
      (Frame.step (put_latched_frame _ _) rfl (Frame.refl _))).named
  · have ho' := inQmWindow_of_outside (off := 0xB00A04) (by decide) u 4
    have hh : mget 0 u.latched (halfKey (reqIx req) 0xB00A00) = nowNs s / 2 ^ 32 + 1 := by
      rw [hu]; exact hl
    rw [readTo_open (windowShut_of_not ho' _), touchWindow_of_not ho']
    exact regRead_high (by decide) hh

/-- An access of the wrong size or alignment is discarded, flagged and counted (R341). -/
theorem registerWrite_bad {req : Req} {off size : Nat} {data : Word} {s : State} (hr : reached s req = true)
    (hok : okAccess off size = false) :
    ∃ t, exec (.registerWrite req off size data) s = .next t ∧ getF t Reg.HL_REG_ERR_BAD_ACCESS 0 0 = 1 ∧
      Counted Reg.HL_CNT_BAD_ACCESS 0 0 1 s t ∧
      RegsKeptBut [fldKey Reg.HL_REG_ERR_BAD_ACCESS 0 0, fldKey Reg.HL_CNT_BAD_ACCESS 0 0] s t ∧ KeepsBut [.regs] s t := by
  have ho := inQmWindow_of_bad hok s
  refine ⟨_, exec_registerWrite hr (windowShut_of_not ho _), ?_⟩
  rw [touchWindow_of_not ho, regWrite_refused _ _ _ _ _ hok]
  refine ⟨?_, ?_, fun f ch i hk => ?_, (badAccess_frame s).named⟩
  · exact getF_setF_self ..
  · exact (getF_setF_other _ _ _ _ _ _ _ _ (by decide)).trans (getF_addF_self ..)
  · simp only [List.mem_cons, List.not_mem_nil, or_false, not_or] at hk
    exact (getF_setF_other _ _ _ _ _ _ _ _ hk.1).trans (getF_addF_other _ _ _ _ _ _ _ _ hk.2)

theorem fieldsAt_hostWinBase : fieldsAt 0x1100010 = [(Reg.HL_HOST_WIN_BASE, 0)] := by decide +kernel

/-- A write that would change the host window's base is refused while the device may reach the host (R343). -/
theorem writeField_lockedBase {s : State} {v : Nat} (hb : busMaster s = true) (hv : v / 4096 * 4096 ≠ getF s Reg.HL_HOST_WIN_BASE 0 0) :
    writeField s s Reg.HL_HOST_WIN_BASE 0 0 v = (s, true) := by
  change (if v / 4096 * 4096 = getF s Reg.HL_HOST_WIN_BASE 0 0 then (s, false) else if busMaster s then (s, true) else _) = _
  rw [if_neg hv, if_pos hb]

theorem regStore_lockedBase {s : State} {q data : Nat} (ha : answers s 0x1100010 = true) (hb : busMaster s = true)
    (hv : data / 4096 * 4096 ≠ getF s Reg.HL_HOST_WIN_BASE 0 0) (hd : data < 2 ^ 64) :
    regStore s q 0x1100010 8 data = cfgLocked (noHeld s q 0x1100010) q 0x1100010 := by
  have hbits : bitsOf data Reg.HL_HOST_WIN_BASE.lo Reg.HL_HOST_WIN_BASE.w = data := by
    change data / 2 ^ 0 % 2 ^ 64 = _
    omega
  rw [regStore_one (f := Reg.HL_HOST_WIN_BASE) (i := 0) (ch := 0) ha (by decide) (by decide) (by simp [secLocked]) fieldsAt_hostWinBase
    rfl rfl (by decide) (by decide) (by decide) hd, hbits]
  dsimp only
  rw [writeField_lockedBase (s := noHeld s q 0x1100010) hb hv]
  rfl

/-- A write that would change the host window's base while the device may reach the host is ignored, and raises `CFG_LOCKED` (R343, R344). -/
theorem registerWrite_lockedBase {req : Req} {data : Word} {s : State} (hr : reached s req = true) (ha : answers s 0x1100010 = true)
    (hb : busMaster s = true) (hd : data.toNat / 4096 * 4096 ≠ getF s Reg.HL_HOST_WIN_BASE 0 0) :
    ∃ t, exec (.registerWrite req 0x1100010 8 data) s = .next t ∧
      getF t Reg.HL_HOST_WIN_BASE 0 0 = getF s Reg.HL_HOST_WIN_BASE 0 0 ∧ getF t Reg.HL_REG_ERR_CFG_LOCKED 0 0 = 1 ∧
      (bit s Reg.HL_REG_ERR_CFG_LOCKED 0 0 = false → getF t Reg.HL_REG_ERR_OFFSET 0 0 = 0x1100010) ∧
      Counted Reg.HL_CNT_CFG_LOCKED 0 0 1 s t ∧ KeepsBut [.regs, .heldLow] s t := by
  have ho := inQmWindow_of_outside (off := 0x1100010) (by decide) s 8
  have hm : (Reg.HL_HOST_WIN_BASE, 0) ∈ fieldsAt 0x1100010 := fieldsAt_hostWinBase ▸ List.mem_singleton_self _
  have hcount : Counted Reg.HL_CNT_CFG_LOCKED 0 0 1 s (cfgLocked (noHeld s (reqIx req) 0x1100010) (reqIx req) 0x1100010) :=
    cfgLocked_count (noHeld s (reqIx req) 0x1100010) ..
  refine ⟨_, exec_registerWrite hr (windowShut_of_not ho _), ?_⟩
  rw [touchWindow_of_not ho]
  unfold regWrite
  rw [regStore_lockedBase ha hb hd data.isLt]
  refine ⟨?_, ?_, fun hbit => ?_, oneLocked_count hcount, ?_⟩
  · rw [oneLocked_getF hm (by decide) (by decide) (by decide), cfgLocked_getF hm (by decide) (by decide) (by decide) (by decide)]
    rfl
  · rw [oneLocked_getF mem_errCfgLocked (by decide) (by decide) (by decide)]
    exact cfgLocked_bit ..
  · exact oneLocked_offset (by decide) (cfgLocked_offset (s := noHeld s (reqIx req) 0x1100010) hbit (by decide))
  · exact (Frame.step (oneLocked_frame ..) (m := partMask [.regs, .heldLow]) rfl (Frame.step (cfgLocked_frame ..) rfl
      (Frame.step (put_heldLow_frame s _) rfl (Frame.refl _)))).named

/-- An access to the queue manager's window waits while the ring's context cannot be loaded (R359, log 34). -/
theorem registerAccess_waits {req : Req} {off size : Nat} {data : Word} {s : State} (hr : reached s req = true)
    (hw : windowShut s (reqIx req) off size = true) :
    ∃ t, exec (.registerWrite req off size data) s = .next t ∧ exec (.registerReadClear req off size) s = .next t ∧
      (getF s Reg.QM_SEL_RING (reqIx req) 0, none) ∈ t.hl.dbWait ∧ KeepsBut [.hl] s t := by
  refine ⟨waitWindow s (getF s Reg.QM_SEL_RING (reqIx req) 0), ?_, ?_, ?_, (waitWindow_frame ..).named⟩
  · change execRegisterWrite req off size data s = _
    simp only [execRegisterWrite, hr, hw, Bool.and_self, if_true]
  · rw [exec_registerRead hr]
    simp only [readTo, hw, if_true]
  · change _ ∈ if s.hl.dbWait.contains _ then s.hl.dbWait else s.hl.dbWait ++ [_]
    split
    · next h => exact List.contains_iff_mem.1 h
    · exact List.mem_append_right _ (List.mem_singleton_self _)

end Sys2Proof.Machine

open Sys2Proof Sys2Proof.Machine

set_option Elab.async false

/-- Settles O7: each clause is what the access does at its register, shown above for that kind of access. -/
theorem registerAccesses : Obligations.RegisterAccesses := by
  unfold Obligations.RegisterAccesses
  refine ⟨⟨?_, ?_, ?_, ?_, ?_⟩, ⟨?_, ?_, ?_⟩, ?_, ?_, ?_⟩
  · exact fun _ _ _ _ _ _ _ => registerWrite_stores
  · exact fun _ _ _ => registerWrite_eventSet
  · exact fun _ _ _ _ => registerWrite_lowHalf
  · exact fun _ _ _ => registerRead_clears
  · exact fun _ _ _ hr _ h8 h64 hw => lowHalfRead_latches hr h8 h64 hw
  · exact fun _ _ _ => registerWrite_scratch
  · exact fun _ _ => registerRead_cfgLocked
  · exact fun _ _ => lowHalfRead_timeBase
  · exact fun _ _ _ _ _ => registerWrite_bad
  · exact fun _ _ _ => registerWrite_lockedBase
  · exact fun _ _ _ _ _ => registerAccess_waits

end

section
/-! PROOFS. Reads of device memory: what they return and what they leave. -/

namespace Sys2Proof.Machine

set_option Elab.async false

/-! ### Reports -/

/-- A detected fault joins those that wait for the fault manager (R434). -/
theorem report_reported (s : State) (r : Report) : Reported s (report s r) r := ⟨_, rfl, rfl⟩

theorem Reported.congr {s s' t : State} {r : Report} (h : Reported s' t r) (hs : s'.fm = s.fm) : Reported s t r := by
  obtain ⟨w, hw, hi⟩ := h
  exact ⟨w, hw, by rw [hi, hs]⟩

/-- Behind the reports that waited, more may wait. -/
def IntakeGrown (s t : State) : Prop := ∃ pre, t.fm.intake = s.fm.intake ++ pre

theorem IntakeGrown.of_fm {s t : State} (h : t.fm = s.fm) : IntakeGrown s t := ⟨[], by rw [h, List.append_nil]⟩

theorem IntakeGrown.of_fm_and {s t : State} (h : t.fm = s.fm) (P : Prop) : IntakeGrown s t ∧ (P → t.fm = s.fm) := ⟨.of_fm h, fun _ => h⟩

theorem IntakeGrown.trans {s t u : State} (h : IntakeGrown s t) (h' : IntakeGrown t u) : IntakeGrown s u := by
  obtain ⟨p, hp⟩ := h
  obtain ⟨p', hp'⟩ := h'
  exact ⟨p ++ p', by rw [hp', hp, List.append_assoc]⟩

theorem IntakeGrown.report {s t : State} (h : IntakeGrown s t) (r : Report) : IntakeGrown s (Machine.report t r) :=
  h.trans ⟨_, rfl⟩

/-! ### Reads of device memory (R325) -/

theorem rdBytes_length (d : Byte) (m : SMap Byte) (n : Nat) : ∀ a, (rdBytes d m a n).length = n := by
  induction n with
  | zero => intro a; rfl
  | succ n ih => intro a; simp only [rdBytes, List.length_cons, ih]

theorem blockBytes_length (s : State) (b : Nat) : (blockBytes s b).length = 64 := by
  unfold blockBytes
  split
  · exact rdBytes_length ..
  · simp only [upto, List.length_map, List.length_range]

theorem readBlock_length (s : State) (b : Nat) (tries : ReadTry) (job : JobId) (scrub : Bool) :
    (readBlock s b tries job scrub).1.length = 64 := by
  unfold readBlock
  dsimp only
  split
  · simp [upto]
  · split
    · exact blockBytes_length ..
    · split <;> exact blockBytes_length ..

/-- A read of a block reports at most what it finds wrong, and nothing where it finds the block good. -/
theorem readBlock_fm (s : State) (b : Nat) (tries : ReadTry) (job : JobId) (scrub : Bool) :
    IntakeGrown s (readBlock s b tries job scrub).2.2 ∧
      ((readBlock s b tries job scrub).2.1 = false → (readBlock s b tries job scrub).2.2.fm = s.fm) := by
  unfold readBlock
  dsimp only
  split
  · exact IntakeGrown.of_fm_and rfl _
  · split
    · refine ⟨IntakeGrown.report (.of_fm ?_) _, fun h => nomatch h⟩
      rw [(evSet_frame ..).fm_eq]
      simp only [updChannel_fm, addF_fm, apply_ite State.fm, drawn_fm, ite_self]
    · split
      all_goals
        refine IntakeGrown.of_fm_and ?_ _
        simp only [addF_fm, apply_ite State.fm, drawn_fm, ite_self]

/-- A read of one piece of a range. -/
def readPiece (tries : ReadTry) (job : JobId) (acc : List (Byte × Bool) × State) (p : Nat × Nat × Nat) : List (Byte × Bool) × State :=
  let r := readBlock acc.2 p.1 tries job false
  (acc.1 ++ ((r.1.drop p.2.1).take p.2.2).map fun x => (x, r.2.1), r.2.2)

theorem devRead_dram {s : State} {a : Nat} (h : region s a = .dram) (n : Nat) (tries : ReadTry) (job : JobId) :
    devRead s a n tries job = (pieces a n).foldl (readPiece tries job) ([], s) := by
  unfold devRead
  rw [h]
  rfl

theorem devRead_beyond {s : State} {a : Nat} (h : region s a ≠ .dram) (n : Nat) (tries : ReadTry) (job : JobId) :
    (devRead s a n tries job).2 = s := by
  unfold devRead
  split
  · next hd => exact absurd hd h
  all_goals rfl

/-- Each piece of a range has a byte, and lies in its block. -/
theorem pieces_bounds {a n : Nat} {p : Nat × Nat × Nat} (h : p ∈ pieces a n) : p.2.1 < 64 ∧ 0 < p.2.2 := by
  obtain ⟨i, hi, rfl⟩ := List.mem_map.1 h
  have hi := List.mem_range.1 hi
  dsimp only
  split at hi
  · omega
  · split <;> omega

theorem devRead_intake (s : State) (a n : Nat) (tries : ReadTry) (job : JobId) : IntakeGrown s (devRead s a n tries job).2 := by
  by_cases h : region s a = .dram
  · rw [devRead_dram h]
    have hall : ∀ (l : List (Nat × Nat × Nat)) (acc : List (Byte × Bool) × State), IntakeGrown acc.2 (l.foldl (readPiece tries job) acc).2 := by
      intro l
      induction l with
      | nil => intro acc; exact .of_fm rfl
      | cons p l ih => intro acc; exact (readBlock_fm acc.2 p.1 tries job false).1.trans (ih (readPiece tries job acc p))
    exact hall _ _
  · rw [devRead_beyond h]; exact .of_fm rfl

theorem readPieces_clean {tries : ReadTry} {job : JobId} : ∀ (l : List (Nat × Nat × Nat)) (acc : List (Byte × Bool) × State),
    (∀ p ∈ l, p.2.1 < 64 ∧ 0 < p.2.2) → (l.foldl (readPiece tries job) acc).1.any (·.2) = false →
    acc.1.any (·.2) = false ∧ (l.foldl (readPiece tries job) acc).2.fm = acc.2.fm
  | [], _, _, h => ⟨h, rfl⟩
  | p :: l, acc, hb, h => by
    obtain ⟨hstep, hfm⟩ := readPieces_clean l _ (fun q hq => hb q (List.mem_cons_of_mem _ hq)) h
    obtain ⟨hlo, hlen⟩ := hb p (List.mem_cons_self ..)
    simp only [readPiece, List.any_append, Bool.or_eq_false_iff] at hstep
    obtain ⟨hacc, hpiece⟩ := hstep
    have hgood : (readBlock acc.2 p.1 tries job false).2.1 = false := by
      have hne : ((readBlock acc.2 p.1 tries job false).1.drop p.2.1).take p.2.2 ≠ [] := by
        apply List.ne_nil_of_length_pos
        simp only [List.length_take, List.length_drop, readBlock_length]
        omega
      obtain ⟨x, hx⟩ := List.exists_mem_of_ne_nil _ hne
      simpa using List.any_eq_false.1 hpiece _ (List.mem_map_of_mem hx)
    exact ⟨hacc, hfm.trans ((readBlock_fm acc.2 p.1 tries job false).2 hgood)⟩

/-- A read whose bytes all come good has reported nothing. -/
theorem devRead_clean {s : State} {a n : Nat} {tries : ReadTry} {job : JobId} (h : (devRead s a n tries job).1.any (·.2) = false) :
    (devRead s a n tries job).2.fm = s.fm := by
  by_cases hr : region s a = .dram
  · rw [devRead_dram hr] at h ⊢
    exact (readPieces_clean _ _ (fun p hp => pieces_bounds hp) h).2
  · rw [devRead_beyond hr]

end Sys2Proof.Machine
end

section
/-! PROOFS. Correction tables: the clauses of `CorrectionTables`, and the statement. -/

namespace Sys2Proof.Machine

set_option Elab.async false

/-! ### What the engines keep -/

theorem Frame.engine_eq {m : Nat} {s t : State} (h : Frame m s t) (b : Nat)
    (hm : m.testBit Part.engines.ctorIdx = false := by decide) : engine t b = engine s b :=
  engine_congr (h.keeps .engines hm) b

theorem readImage_engine (s : State) (a n b : Nat) : engine (readImage s a n).2.2 b = engine s b := (readImage_frame s a n).engine_eq b

/-- The old bank's release changes nothing else of an engine (R115). -/
theorem bankPass_engine (s : State) (b : Nat) : ∃ o, engine (bankPass s) b = { engine s b with oldBusy := o } := by
  have hall : ∀ (l : List (Nat × BEngine)) (x : State), (∃ o, engine x b = { engine s b with oldBusy := o }) →
      ∃ o, engine (l.foldl (fun s' (e : Nat × BEngine) =>
        let x := getF s' Reg.BE_CTL_STREAM e.1 0
        if e.2.oldBusy && !(s'.stripes.any fun k => k.stream = x && k.row < e.2.since) && e.2.since ≤ (stream s' x).row then
          updEngine s' e.1 fun k => { k with oldBusy := false }
        else s') x) b = { engine s b with oldBusy := o } := by
    intro l
    induction l with
    | nil => intro x hx; exact hx
    | cons e l ih =>
      rintro x ⟨o, hx⟩
      refine ih _ ?_
      dsimp only
      split
      · rw [engine_updEngine]
        split
        · next he => exact ⟨false, by rw [← he, hx]⟩
        · exact ⟨o, hx⟩
      · exact ⟨o, hx⟩
  exact hall _ _ ⟨_, rfl⟩

/-- After a swap the banks have changed places, and the new one governs from the row (R115). -/
theorem swapBanks_engine (s : State) (b row : Nat) : ∃ o, engine (swapBanks s b row) b =
    { engine s b with active := (engine s b).inactive, inactive := (engine s b).active, ready := false, since := row,
                      oldBusy := o, swapStaged := false, loading := none } := by
  have h0 : engine (if (engine s b).loading.isSome then loadErr s b else s) b = engine s b := by
    split
    · exact (loadErr_frame s b).engine_eq b
    · rfl
  unfold swapBanks
  dsimp only
  obtain ⟨o, ho⟩ := bankPass_engine _ b
  refine ⟨o, ho.trans ?_⟩
  rw [(streamEvent_frame ..).engine_eq b, engine_updEngine_self, h0]

/-! ### The clauses of `CorrectionTables` -/

theorem tableLoad_starts {b : Fin 32} {addr : Addr} {s : State} (ha : answers s 0xD01008 = true) (ho : (engine s b.val).oldBusy = false)
    (hl : (engine s b.val).loading = none) (hr : (readImage s (addr.toNat / 64 * 64) 64).2.1 = false)
    (hh : headerOk s b.val (readImage s (addr.toNat / 64 * 64) 64).1 = true) :
    ∃ t, exec (.tableLoad b addr) s = .next t ∧ (engine t b.val).loading = some (addr.toNat / 64 * 64) ∧
      (engine t b.val).ready = false ∧ (engine t b.val).active = (engine s b.val).active := by
  refine ⟨updEngine (readImage s (addr.toNat / 64 * 64) 64).2.2 b.val fun e =>
    { e with loading := some (addr.toNat / 64 * 64), ready := false }, ?_, ?_⟩
  · change execTableLoad b addr s = _
    simp [execTableLoad, ha, ho, hl, hr, hh]
  · rw [engine_updEngine_self, readImage_engine]
    exact ⟨rfl, rfl, rfl⟩

theorem tableLoadComplete_readies {b : Fin 32} {a : Nat} {s : State} (hl : (engine s b.val).loading = some a)
    (hr : (readImage s a (tblBytes (boundW s b.val))).2.1 = false)
    (hh : headerOk s b.val ((readImage s a (tblBytes (boundW s b.val))).1.take 64) = true)
    (he : (bankOfImage a (readImage s a (tblBytes (boundW s b.val))).1).entries.any (fun e => decide (2 ^ 33 ≤ e.2.toNat)) = false) :
    ∃ t, exec (.tableLoadComplete b) s = .next t ∧ (engine t b.val).loading = none ∧ (engine t b.val).ready = true ∧
      (engine t b.val).inactive = bankOfImage a (readImage s a (tblBytes (boundW s b.val))).1 ∧
      (engine t b.val).active = (engine s b.val).active := by
  refine ⟨updEngine (updEngine (readImage s a (tblBytes (boundW s b.val))).2.2 b.val fun e => { e with loading := none }) b.val fun e =>
    { e with inactive := bankOfImage a (readImage s a (tblBytes (boundW s b.val))).1, ready := true }, ?_, ?_⟩
  · change execTableLoadComplete b s = _
    unfold execTableLoadComplete
    simp only [hl, hr, hh, he, Bool.not_true, Bool.or_self, Bool.false_eq_true, if_false]
  · rw [engine_updEngine_self, engine_updEngine_self, readImage_engine]
    exact ⟨rfl, rfl, rfl, rfl⟩

theorem tableSwapRequest_disabled {b : Fin 32} {s : State} (ha : answers s 0xD01010 = true) (hr : (engine s b.val).ready = true)
    (he : beEn s b.val = false) :
    ∃ t, exec (.tableSwapRequest b) s = .next t ∧
      (engine t b.val).active = (engine s b.val).inactive ∧ (engine t b.val).inactive = (engine s b.val).active ∧
      (engine t b.val).ready = false ∧ (engine t b.val).since = (stream s (getF s Reg.BE_CTL_STREAM b.val 0)).row := by
  obtain ⟨o, ho⟩ := swapBanks_engine s b.val (stream s (getF s Reg.BE_CTL_STREAM b.val 0)).row
  refine ⟨swapBanks s b.val (stream s (getF s Reg.BE_CTL_STREAM b.val 0)).row, ?_, ?_⟩
  · change execTableSwapRequest b s = _
    unfold execTableSwapRequest
    simp only [ha, hr, he, Bool.not_true, Bool.not_false, Bool.false_eq_true, if_false, if_true]
  · rw [ho]
    exact ⟨rfl, rfl, rfl, rfl⟩

theorem tableSwapRequest_enabled {b : Fin 32} {s : State} (ha : answers s 0xD01010 = true) (hr : (engine s b.val).ready = true)
    (he : beEn s b.val = true) :
    ∃ t, exec (.tableSwapRequest b) s = .next t ∧ (engine t b.val).swapStaged = true ∧
      (engine t b.val).swapEpoch = (stream s (getF s Reg.BE_CTL_STREAM b.val 0)).epoch ∧
      (engine t b.val).active = (engine s b.val).active ∧ KeepsBut [.engines] s t := by
  refine ⟨updEngine s b.val fun k =>
    { k with swapStaged := true, swapEpoch := (stream s (getF s Reg.BE_CTL_STREAM b.val 0)).epoch, applied := false }, ?_, ?_⟩
  · change execTableSwapRequest b s = _
    simp [execTableSwapRequest, ha, hr, he]
  · rw [engine_updEngine_self]
    exact ⟨rfl, rfl, rfl, (updEngine_frame ..).named⟩

/-- The state in which a due swap exchanges the banks: its `B_APPLIED` event is still owed unless it has been posted. -/
def swapOwed (s : State) (b : Nat) : State :=
  updEngine s b fun k => { k with applyDue := if k.applied then none else some (swapLine s b) }

theorem tableSwap_due {b : Fin 32} {s : State} (hd : swapDue s b.val = true) :
    ∃ t, exec (.tableSwap b) s = .next t ∧ (engine t b.val).active = (engine s b.val).inactive ∧
      (engine t b.val).inactive = (engine s b.val).active ∧ (engine t b.val).ready = false ∧
      (engine t b.val).swapStaged = false := by
  obtain ⟨o, ho⟩ := swapBanks_engine (swapOwed s b.val) b.val (swapLine s b.val / (stream s (getF s Reg.BE_CTL_STREAM b.val 0)).h)
  refine ⟨swapBanks (swapOwed s b.val) b.val (swapLine s b.val / (stream s (getF s Reg.BE_CTL_STREAM b.val 0)).h), ?_, ?_⟩
  · change execTableSwap b s = _
    unfold execTableSwap
    simp only [hd, if_true]
    rfl
  · rw [ho]
    unfold swapOwed
    rw [engine_updEngine_self]
    exact ⟨rfl, rfl, rfl, rfl⟩

/-- Entries that can be reloaded leave no report of their own, and none lost. -/
theorem reloadEntries_some {s s2 : State} {b col : Nat} {old : Bool} (h : reloadEntries s b old col = some s2) :
    s2.fm = s.fm ∧ (engine s2 b).lost = none := by
  unfold reloadEntries at h
  dsimp only at h
  split at h
  · cases h
  · next hc =>
    cases h
    refine ⟨devRead_clean (by simpa [readImage] using hc), ?_⟩
    rw [engine_updEngine_self]

theorem tableParityError_reloads {b : Fin 32} {column : Nat} {s : State} (hv : (tblOf (engine s b.val) (jobOld s b.val)).valid = true)
    (hc : column < (tblOf (engine s b.val) (jobOld s b.val)).cols)
    (h : (reloadEntries (cntB s Reg.BE_CNT_PARITY b.val 1) b.val (jobOld s b.val) column).isSome = true) :
    ∃ t, exec (.tableParityError b column) s = .next t ∧ (engine t b.val).lost = none ∧
      Reported s t (mkReport 0x44 .boundary b.val column ((engineJob s b.val).elim 0 (·.id)) 0) := by
  obtain ⟨s2, hs2⟩ := Option.isSome_iff_exists.1 h
  obtain ⟨hfm, hlost⟩ := reloadEntries_some hs2
  refine ⟨report (evSet s2 (192 + b.val)) (mkReport 0x44 .boundary b.val column ((engineJob s b.val).elim 0 (·.id)) 0), ?_, ?_, ?_⟩
  · change execTableParityError b column s = _
    unfold execTableParityError
    simp only [hv, hs2, Nat.not_le.2 hc, Bool.not_true, decide_false, Bool.or_self, Bool.false_eq_true, if_false]
  · rw [(report_frame ..).engine_eq b.val, (evSet_frame ..).engine_eq b.val, hlost]
  · exact (report_reported ..).congr ((evSet_frame ..).fm_eq.trans hfm)

/-- The state in which a column's entries are lost: their block has been read in vain. -/
def entriesLost (s : State) (b column : Nat) : State :=
  updEngine (readImage (cntB s Reg.BE_CNT_PARITY b 1) ((tblOf (engine s b) (jobOld s b)).addr + 64 + 8 * (column / 8 * 8)) 64).2.2 b
    fun e => { e with lost := some column, lostOld := jobOld s b }

theorem entriesLost_intake (s : State) (b column : Nat) : IntakeGrown s (entriesLost s b column) := by
  obtain ⟨pre, hpre⟩ := devRead_intake (cntB s Reg.BE_CNT_PARITY b 1)
    ((tblOf (engine s b) (jobOld s b)).addr + 64 + 8 * (column / 8 * 8)) 64 .clean 0
  exact ⟨pre, hpre⟩

theorem tableParityError_loses {b : Fin 32} {column : Nat} {s : State} (hv : (tblOf (engine s b.val) (jobOld s b.val)).valid = true)
    (hc : column < (tblOf (engine s b.val) (jobOld s b.val)).cols)
    (h : reloadEntries (cntB s Reg.BE_CNT_PARITY b.val 1) b.val (jobOld s b.val) column = none) :
    ∃ t, exec (.tableParityError b column) s = .next t ∧ (engine t b.val).lost = some column ∧
      (engine t b.val).lostOld = jobOld s b.val ∧
      ∃ w pre, w.rep = mkReport 0x45 .boundary b.val column ((engineJob s b.val).elim 0 (·.id)) 0 ∧
        t.fm.intake = s.fm.intake ++ pre ++ [w] := by
  obtain ⟨pre, hpre⟩ := entriesLost_intake s b.val column
  obtain ⟨w, hw, hi⟩ := report_reported (evSet (entriesLost s b.val column) (192 + b.val))
    (mkReport 0x45 .boundary b.val column ((engineJob s b.val).elim 0 (·.id)) 0)
  refine ⟨report (evSet (entriesLost s b.val column) (192 + b.val))
    (mkReport 0x45 .boundary b.val column ((engineJob s b.val).elim 0 (·.id)) 0), ?_, ?_⟩
  · change execTableParityError b column s = _
    unfold execTableParityError
    simp only [hv, h, Nat.not_le.2 hc, Bool.not_true, decide_false, Bool.or_self, Bool.false_eq_true, if_false]
    rfl
  · have he : engine (entriesLost s b.val column) b.val = _ := engine_updEngine_self ..
    rw [(report_frame ..).engine_eq b.val, (evSet_frame ..).engine_eq b.val, he]
    exact ⟨rfl, rfl, w, pre, hw, by rw [hi, (evSet_frame ..).fm_eq, hpre]⟩

end Sys2Proof.Machine

open Sys2Proof Sys2Proof.Machine

set_option Elab.async false

/-- Settles O16: each clause is what its command does to the engine and its banks, shown above. -/
theorem correctionTables : Obligations.CorrectionTables := by
  unfold Obligations.CorrectionTables
  refine ⟨?_, ?_, ?_, ?_, ?_, ?_⟩
  · exact fun _ _ _ => tableLoad_starts
  · exact fun _ _ _ => tableLoadComplete_readies
  · exact fun _ _ => tableSwapRequest_disabled
  · exact fun _ _ => tableSwapRequest_enabled
  · exact fun _ _ => tableSwap_due
  · exact fun _ _ _ hv hc => ⟨tableParityError_reloads hv hc, tableParityError_loses hv hc⟩

end

section
/-! PROOFS. The state after reset, and the BAR4 window. -/

namespace Sys2Proof.Machine

set_option Elab.async false

/-! ### A closed window takes counts while a stripe waits

The counts of a credit block are taken, and what they free settles: whatever stripe still waits for a place in the retention area is
written to DRAM then, if there is a place now (R104, R107). So the write that the closed window drops can go along with a change of
memory, which `BarWindow` denies. -/

/-- A stripe of one byte, complete in the ingest SRAM, that waits for its place in the retention area. -/
def waitingStripe : Stripe :=
  { stream := 0, row := 0, seg := 0, image := [7], valid := 16, flushed := false, gapFlag := false, blocks := 1, bytes := 1,
    units := none, announced := false, lostA := false, lostB := false }

/-- The device at S8, with peer messaging enabled, receive window 0 of class 1 at 0x200000000, closed, and a waiting stripe, for which
the retention area of reset has room. -/
def closedWindow : State :=
  let up := { State.reset with boot := { Boot.start with stage := 8 }, stripes := [waitingStripe] }
  setF (setF (setF up Reg.PM_CTL_EN 0 0 1) Reg.PM_WIN_BASE 0 0 0x200000000) Reg.PM_WIN_CFG_CLASS 0 0 1

/-- The two counts of a credit block (R391), both 0. -/
def zeroCounts : List Byte := zeros 16

/-- The write reaches the closed window, and peer messaging takes its counts. -/
theorem closedWindow_takes_counts :
    ready closedWindow = true ∧ closedWindow.hl.d3 = false ∧ inBar4 closedWindow 0x200000000 zeroCounts.length = true ∧
      bar4Window closedWindow (bar4Base closedWindow + 0x200000000) zeroCounts.length = some 0 ∧ (winOf closedWindow 0).state = .closed := by
  decide +kernel

/-- Memory afterwards: both copies of the stripe. -/
theorem closedWindow_writes_stripe :
    closedWindow.mem = [] ∧
      (landShut (bar4Drop closedWindow) 0 (bar4Base closedWindow + 0x200000000 - winBase closedWindow 0) (0 : BitVec 16).toNat zeroCounts false).mem =
        [(0, 7), (0x80000000, 7)] := by
  decide +kernel

end Sys2Proof.Machine

open Sys2Proof Sys2Proof.Machine

set_option Elab.async false

/-- Settles O5: nothing has run, and no register field is stored. -/
theorem resetState : Obligations.ResetState := by
  unfold Obligations.ResetState
  exact ⟨⟨rfl, rfl, rfl, rfl, rfl, rfl, fun _ _ _ => rfl⟩, rfl, rfl, rfl, rfl, rfl⟩

/-- Refutes O35: a write of a credit block's counts inside a closed window leaves `mem` changed, where a stripe waits that the
retention area has room for. -/
theorem not_barWindow : ¬ Obligations.BarWindow := by
  unfold Obligations.BarWindow
  rintro ⟨-, -, hwrite⟩
  obtain ⟨hready, hd3, hin, hwin, hclosed⟩ := closedWindow_takes_counts
  obtain ⟨-, -, hshut⟩ := hwrite 0x200000000 zeroCounts false 0 closedWindow hready hd3 hin
  obtain ⟨t, -, -, hmem, ht, -⟩ := hshut 0 hwin hclosed
  obtain ⟨hbefore, hafter⟩ := closedWindow_writes_stripe
  rw [ht, hafter, hbefore] at hmem
  cases hmem

end

section
/-! PROOFS. Folds of a step over a list, and what a frame says of one part. -/

namespace Sys2Proof.Machine

set_option Elab.async false

theorem thread_keeps {α β : Type} {P : β → Prop} {f : β → α → β} {b : β} (l : List α) (hf : ∀ y a, P y → P (f y a)) (hb : P b) :
    P (thread f b l) := List.foldlRecOn l f hb fun y hy a _ => hf y a hy

/-- What one element's step establishes under an invariant, and every step keeps, holds at the end. -/
theorem thread_reaches {α β : Type} {P Q : β → Prop} {f : β → α → β} {b : β} {l : List α} {m : α} (hm : m ∈ l)
    (hP : ∀ y a, P y → P (f y a)) (hQ : ∀ y a, Q y → Q (f y a)) (hPQ : ∀ y, P y → Q (f y m)) (hb : P b) : Q (thread f b l) := by
  obtain ⟨before, after, rfl⟩ := List.append_of_mem hm
  unfold thread
  rw [List.foldl_append, List.foldl_cons]
  exact thread_keeps after hQ (hPQ _ (thread_keeps before hP hb))

theorem Frame.pending_eq {m : Nat} {s t : State} (h : Frame m s t) (hm : m.testBit Part.pending.ctorIdx = false := by decide) :
    t.pending = s.pending := h.keeps .pending hm

theorem Frame.clk_eq {m : Nat} {s t : State} (h : Frame m s t) (hm : m.testBit Part.clk.ctorIdx = false := by decide) :
    t.clk = s.clk := h.keeps .clk hm

theorem Frame.free_eq {m : Nat} {s t : State} (h : Frame m s t) (hm : m.testBit Part.free.ctorIdx = false := by decide) :
    t.free = s.free := h.keeps .free hm

theorem Frame.mem_eq {m : Nat} {s t : State} (h : Frame m s t) (hm : m.testBit Part.mem.ctorIdx = false := by decide) :
    t.mem = s.mem := h.keeps .mem hm

theorem Frame.hl_eq {m : Nat} {s t : State} (h : Frame m s t) (hm : m.testBit Part.hl.ctorIdx = false := by decide) :
    t.hl = s.hl := h.keeps .hl hm

theorem Frame.rings_eq {m : Nat} {s t : State} (h : Frame m s t) (hm : m.testBit Part.rings.ctorIdx = false := by decide) :
    t.rings = s.rings := h.keeps .rings hm

theorem Frame.latches_eq {m : Nat} {s t : State} (h : Frame m s t) (hm : m.testBit Part.latches.ctorIdx = false := by decide) :
    t.latches = s.latches := h.keeps .latches hm

theorem Frame.stream_eq {m : Nat} {s t : State} (h : Frame m s t) (x : Nat)
    (hm : m.testBit Part.streams.ctorIdx = false := by decide) : stream t x = stream s x := stream_congr (h.keeps .streams hm) x

theorem Frame.jobOf_eq {m : Nat} {s t : State} (h : Frame m s t) (id : JobId)
    (hm : m.testBit Part.jobs.ctorIdx = false := by decide) : jobOf t id = jobOf s id := by
  have hj : t.jobs = s.jobs := h.keeps .jobs hm
  unfold jobOf
  rw [hj]

end Sys2Proof.Machine
end

section
/-! PROOFS. One FCLK cycle on an empty queue, and the statement about a step. -/

namespace Sys2Proof.Machine

set_option Elab.async false

/-! ### The parts of a cycle -/

/-- The clocks of one FCLK cycle, with the time base and the filters of a CCLK cycle where one ends. -/
def clocked (s : State) : State :=
  let s1 := updClk s fun k => { k with fclk := k.fclk + 1, aclk := k.aclk + aclkIn s s.clk.fclk }
  if (s.clk.fclk + 1) % 4 = 0 then filterCycle (tbCycle s1) else s1

theorem tick_stopped {s : State} (h : s.pins.fclkRuns = false) : tick s = s := by simp [tick, h]

theorem tick_running {s : State} (h : s.pins.fclkRuns = true) : tick s =
    if ready s then tickOuter (tickCompute (clocked s) (aclkIn s s.clk.fclk))
    else thread tickCore (clocked s) ((clocked s).cores.map (·.1)) := by
  unfold tick
  rw [h]
  rfl

theorem clocked_fclk (s : State) : (clocked s).clk.fclk = s.clk.fclk + 1 := by
  unfold clocked
  dsimp only
  split
  · rw [(filterCycle_frame _).clk_eq]; rfl
  · rfl

theorem clocked_between_frame {s : State} (h : (s.clk.fclk + 1) % 4 ≠ 0) : Frame (partMask [.clk]) s (clocked s) := by
  unfold clocked
  dsimp only
  rw [if_neg h]
  exact updClk_frame ..

theorem tickCores_frame (s : State) (l : List Nat) : Frame (partMask [.regs]) s (thread tickCore s l) :=
  Frame.thread (fun _ _ h => (tickCore_frame ..).step rfl h) (Frame.refl s)

/-! ### What a cycle counts, and what it leaves -/

theorem tick_fclk (s : State) : (tick s).clk.fclk = if s.pins.fclkRuns then s.clk.fclk + 1 else s.clk.fclk := by
  cases h : s.pins.fclkRuns
  · rw [tick_stopped h]; rfl
  · rw [tick_running h, ← clocked_fclk]
    split
    · rw [(tickOuter_frame _).clk_eq, (tickCompute_frame ..).clk_eq]; rfl
    · rw [(tickCores_frame ..).clk_eq]; rfl

/-- With no access and no record waiting for a ring's context (R359), the pass over them does nothing. -/
theorem cachePass_idle {s : State} (hw : s.hl.dbWait = []) (hr : ∀ e ∈ s.rings, e.2.waiting = []) : cachePass s = s := by
  have hnone : (s.rings.filter fun e => !e.2.waiting.isEmpty) = [] := List.filter_eq_nil_iff.2 fun e he => by simp [hr e he]
  unfold cachePass
  simp only [hw, hnone]
  rfl

/-- Beside the blocks that compute, a cycle counts, and then lets go on what waits for a ring's context. -/
theorem tickOuter_steps (s : State) : ∃ u, Frame (partMask [.regs]) s u ∧ tickOuter s = cachePass u := by
  refine ⟨_, ?_, rfl⟩
  have hwaits := (tickIf_frame npStalls Reg.HL_CNT_NP_STALL _).step rfl <| (tickIf_frame masterStalls Reg.HL_CNT_BME_STALL _).step rfl <|
    (tickIf_frame creditWaits Reg.PM_CNT_CREDIT_WAIT _).step rfl <| tickIf_frame retWaits Reg.IG_RET_STALL s
  exact (tickIf_frame ..).step rfl (Frame.thread (fun _ _ h => (tickFeed_frame ..).step rfl h) hwaits)

theorem tickOuter_idle_frame {s : State} (hw : s.hl.dbWait = []) (hr : ∀ e ∈ s.rings, e.2.waiting = []) :
    Frame (partMask [.regs]) s (tickOuter s) := by
  obtain ⟨u, hu, ht⟩ := tickOuter_steps s
  rwa [ht, cachePass_idle (by rw [hu.hl_eq]; exact hw) (by rw [hu.rings_eq]; exact hr)]

/-- Between two CCLK cycles, with nothing waiting for a ring's context, a cycle moves the clocks, counts, and refills buckets. -/
theorem tick_idle_frame {s : State} (h4 : (s.clk.fclk + 1) % 4 ≠ 0) (hw : s.hl.dbWait = []) (hr : ∀ e ∈ s.rings, e.2.waiting = []) :
    Frame (partMask [.regs, .clk, .jobs, .bwTokens]) s (tick s) := by
  have hclk := clocked_between_frame h4
  cases h : s.pins.fclkRuns
  · rw [tick_stopped h]; exact Frame.refl s
  · rw [tick_running h]
    have hcompute : Frame (partMask [.regs, .clk, .jobs, .bwTokens]) s (tickCompute (clocked s) (aclkIn s s.clk.fclk)) :=
      (tickCompute_frame ..).step rfl (hclk.step rfl (Frame.refl s))
    split
    · refine (tickOuter_idle_frame ?_ ?_).step rfl hcompute
      · rw [hcompute.hl_eq]; exact hw
      · rw [hcompute.rings_eq]; exact hr
    · exact (tickCores_frame ..).step rfl (hclk.step rfl (Frame.refl s))

end Sys2Proof.Machine

open Sys2Proof Sys2Proof.Machine

set_option Elab.async false

/-- Settles O1: a command at the front is `exec`'s by definition, and the empty queue is the frame of one FCLK cycle. -/
theorem stepRunsTheFrontCommand : Obligations.StepRunsTheFrontCommand := by
  unfold Obligations.StepRunsTheFrontCommand
  refine ⟨fun _ _ _ => rfl, fun s hs => ⟨tick s, ?_, (tick_frame s).pending_eq.trans hs, tick_fclk s, fun h4 hw hr => ?_⟩⟩
  · simp only [step, hs]
  · have h := tick_idle_frame h4 hw hr
    exact ⟨h.free_eq, h.mem_eq⟩

end

section
/-! PROOFS. Stripes and epochs: the clauses of `EpochEvents`, and the statement. -/

namespace Sys2Proof.Machine

set_option Elab.async false

/-! ### Jobs that are in the list -/

theorem jobOf_isSome {s : State} {id : JobId} : (jobOf s id).isSome = true ↔ ∃ j ∈ s.jobs, j.id = id := by
  simp [jobOf, List.find?_isSome]

theorem jobOf_id {s : State} {id : JobId} {j : Job} (h : jobOf s id = some j) : j.id = id := by
  simpa using List.find?_some h

/-- A job that is there stays there under any change that keeps its id. -/
theorem updJob_isSome {s : State} {id i : JobId} {f : Job → Job} (hf : ∀ j, j.id = id → (f j).id = id)
    (h : (jobOf s i).isSome = true) : (jobOf (updJob s id f) i).isSome = true := by
  obtain ⟨j, hj, rfl⟩ := jobOf_isSome.1 h
  refine jobOf_isSome.2 ⟨_, List.mem_map_of_mem hj, ?_⟩
  split
  · next he => exact (hf j (eq_of_beq he)).trans (eq_of_beq he).symm
  · rfl

/-- A waiting job of that id is in the list. -/
def Awaits (s : State) (id : JobId) : Prop := ∃ j ∈ s.jobs, j.id = id ∧ j.state = .waiting

/-- The jobs of that id, if there are any, are waiting. -/
def OnlyAwaits (s : State) (id : JobId) : Prop := ∀ j ∈ s.jobs, j.id = id → j.state = .waiting

theorem Awaits.isSome {s : State} {id : JobId} (h : Awaits s id) : (jobOf s id).isSome = true := by
  obtain ⟨j, hj, hid, -⟩ := h
  exact jobOf_isSome.2 ⟨j, hj, hid⟩

theorem onlyAwaits_of_none {s : State} {id : JobId} (h : jobOf s id = none) : OnlyAwaits s id := fun j hj hid => by
  have hsome := jobOf_isSome.2 ⟨j, hj, hid⟩
  rw [h] at hsome
  cases hsome

theorem mem_addJob {s : State} {j k : Job} (h : k ∈ (addJob s j).jobs) : k ∈ s.jobs ∨ k = j := by
  unfold addJob at h
  split at h
  · exact .inl h
  · simpa using h

theorem addJob_awaits_of {s : State} {j : Job} {id : JobId} (h : Awaits s id) : Awaits (addJob s j) id := by
  obtain ⟨k, hk, hid⟩ := h
  unfold addJob
  split
  · exact ⟨k, hk, hid⟩
  · exact ⟨k, List.mem_append_left _ hk, hid⟩

theorem addJob_onlyAwaits {s : State} {j : Job} {id : JobId} (hj : j.state = .waiting) (h : OnlyAwaits s id) :
    OnlyAwaits (addJob s j) id := fun k hk hid => by
  rcases mem_addJob hk with hk | rfl
  · exact h k hk hid
  · exact hj

theorem addJob_awaits {s : State} {j : Job} (hj : j.state = .waiting) (h : OnlyAwaits s j.id) : Awaits (addJob s j) j.id := by
  unfold addJob
  split
  · next hs =>
    obtain ⟨k, hk, hid⟩ := jobOf_isSome.1 hs
    exact ⟨k, hk, hid, h k hk hid⟩
  · exact ⟨j, by simp, rfl, hj⟩

/-! ### The jobs of a stripe (R34) -/

/-- What one template creates for stripe (r, g) of a stream. -/
def createJob (k : Stream) (x r g valid : Nat) (s : State) (t : Template) : State :=
  let j := newJob (instAt x t r g) (if t.kind = 2 then .band else .stripe) k.plan t.index k.prio
  if t.kind = 1 then addJob s { j with validLines := valid }
  else if t.kind = 2 && r % t.bandRows = 0 && g % t.bandSegs = 0 then addJob s j else s

theorem createStripeJobs_eq (s : State) (x r g valid : Nat) :
    createStripeJobs s x r g valid = thread (createJob (stream s x) x r g valid) s (templates s (stream s x).plan) := rfl

/-- A template adds at most one job, which waits. -/
theorem createJob_cases (k : Stream) (x r g valid : Nat) (s : State) (t : Template) :
    createJob k x r g valid s t = s ∨ ∃ j : Job, j.state = .waiting ∧ createJob k x r g valid s t = addJob s j := by
  unfold createJob
  dsimp only
  split
  · exact .inr ⟨_, rfl, rfl⟩
  · split
    · exact .inr ⟨_, rfl, rfl⟩
    · exact .inl rfl

theorem createJob_awaits_of {k : Stream} {x r g valid : Nat} {s : State} {t : Template} {id : JobId} (h : Awaits s id) :
    Awaits (createJob k x r g valid s t) id := by
  obtain hc | ⟨j, -, hc⟩ := createJob_cases k x r g valid s t <;> rw [hc]
  · exact h
  · exact addJob_awaits_of h

theorem createJob_onlyAwaits {k : Stream} {x r g valid : Nat} {s : State} {t : Template} {id : JobId} (h : OnlyAwaits s id) :
    OnlyAwaits (createJob k x r g valid s t) id := by
  obtain hc | ⟨j, hj, hc⟩ := createJob_cases k x r g valid s t <;> rw [hc]
  · exact h
  · exact addJob_onlyAwaits hj h

theorem createJob_awaits {k : Stream} {x r g valid : Nat} {s : State} {t : Template} (ht : t.kind = 1)
    (h : OnlyAwaits s (instAt x t r g)) : Awaits (createJob k x r g valid s t) (instAt x t r g) := by
  unfold createJob
  dsimp only
  rw [if_pos ht]
  exact addJob_awaits rfl h

/-- A stripe template's job, not there before, waits in the list afterwards. -/
theorem createStripeJobs_awaits {s : State} {x r g valid : Nat} {m : Template} (hm : m ∈ templates s (stream s x).plan)
    (hk : m.kind = 1) (hn : jobOf s (instAt x m r g) = none) : Awaits (createStripeJobs s x r g valid) (instAt x m r g) := by
  rw [createStripeJobs_eq]
  exact thread_reaches (P := fun y => OnlyAwaits y (instAt x m r g)) (Q := fun y => Awaits y (instAt x m r g)) hm (fun _ _ => createJob_onlyAwaits)
    (fun _ _ => createJob_awaits_of) (fun _ => createJob_awaits hk) (onlyAwaits_of_none hn)

/-! ### Settling frees no waiting job, drops none, and announces nothing -/

/-- A waiting job is never freed (R46). -/
theorem freePass_isSome {s : State} {id : JobId} (h : Awaits s id) : (jobOf (freePass s) id).isSome = true := by
  unfold freePass
  dsimp only
  rw [(bankPass_frame _).jobOf_eq]
  refine Awaits.isSome (thread_keeps (P := fun y => Awaits y id) _ ?_ h)
  rintro y - ⟨j, hj, hid, hw⟩
  exact ⟨j, List.mem_filter.2 ⟨hj, by simp [jobFreeable, hw]⟩, hid, hw⟩

theorem countAt_announcedTo (s : State) (x line n : Nat) (f : Bank → Nat → Bank) (y : Nat) :
    (stream (countAt s x line n f) y).announcedTo = (stream s y).announcedTo := by
  unfold countAt
  rw [stream_updStream]
  split
  · next hy =>
    subst hy
    repeat' split
    all_goals rfl
  · rfl

/-- A regeneration changes one job in its place, and counts itself (R47). -/
theorem regenerate_cases (s : State) (id : JobId) : regenerate s id = s ∨ ∃ k : Job, k.id = id ∧
    (regenerate s id = updJob s id (fun _ => k) ∨ ∃ x line, regenerate s id = countAt (updJob s id fun _ => k) x line 1 addRegens) := by
  unfold regenerate
  split
  · exact .inl rfl
  · next j hj =>
    have hid := jobOf_id hj
    split
    · exact .inl rfl
    · dsimp only
      generalize hk : ite (jobReady s _ = true) _ _ = k
      refine .inr ⟨k, ?_, ?_⟩
      · rw [← hk]
        split <;> exact hid
      · split
        · split
          · exact .inr ⟨_, _, rfl⟩
          · exact .inl rfl
        · exact .inl rfl

theorem regenerate_isSome {s : State} {id i : JobId} (h : (jobOf s i).isSome = true) : (jobOf (regenerate s id) i).isSome = true := by
  obtain hr | ⟨k, hk, hr | ⟨x, line, hr⟩⟩ := regenerate_cases s id <;> rw [hr]
  · exact h
  · exact updJob_isSome (fun _ _ => hk) h
  · rw [(countAt_frame ..).jobOf_eq]
    exact updJob_isSome (fun _ _ => hk) h

theorem regenerate_announcedTo (s : State) (id : JobId) (x : Nat) :
    (stream (regenerate s id) x).announcedTo = (stream s x).announcedTo := by
  obtain hr | ⟨k, -, hr | ⟨y, line, hr⟩⟩ := regenerate_cases s id <;> rw [hr]
  · rfl
  · rw [countAt_announcedTo]; rfl

/-- What every regeneration keeps, the pass over all of them keeps. -/
theorem regenPass_keeps {P : State → Prop} (hP : ∀ y id, P y → P (regenerate y id)) {s : State} (h : P s) : P (regenPass s) := by
  refine thread_keeps _ (fun y j hy => ?_) h
  dsimp only
  split
  · exact hy
  · refine thread_keeps _ (fun z id hz => ?_) hy
    split
    · exact hP z id hz
    · exact hz

theorem eligPass_isSome {s : State} {id : JobId} (h : (jobOf s id).isSome = true) : (jobOf (eligPass s) id).isSome = true := by
  refine thread_keeps (P := fun y => (jobOf y id).isSome = true) _ (fun y j hy => ?_) h
  split
  · exact updJob_isSome (fun _ hj => hj) hy
  · exact hy

theorem settle_isSome {s : State} {id : JobId} (h : Awaits s id) : (jobOf (settle s) id).isSome = true := by
  refine eligPass_isSome (thread_keeps (P := fun y => (jobOf y id).isSome = true) _
    (fun y _ hy => regenPass_keeps (P := fun y => (jobOf y id).isSome = true) (fun _ _ => regenerate_isSome) hy) ?_)
  rw [(creditPass_frame _).jobOf_eq, (writeWaiting_frame _).jobOf_eq]
  exact freePass_isSome h

theorem settle_announcedTo (s : State) (x : Nat) : (stream (settle s) x).announcedTo = (stream s x).announcedTo := by
  unfold settle
  dsimp only
  rw [(eligPass_frame _).stream_eq]
  refine thread_keeps (P := fun y => (stream y x).announcedTo = (stream s x).announcedTo) _ (fun y _ hy =>
    regenPass_keeps (P := fun y => (stream y x).announcedTo = (stream s x).announcedTo)
      (fun z id hz => (regenerate_announcedTo z id x).trans hz) hy) ?_
  rw [(creditPass_frame _).stream_eq, (writeWaiting_frame _).stream_eq, (freePass_frame _).stream_eq]

/-! ### Snapshots (R30, R492) -/

/-- A snapshot is its records and its readable copy, then one more of the stream's count and source 30. -/
theorem writeSnapshot_steps (s : State) (x e : Nat) (b : Bank) (incomplete part : Bool) :
    ∃ u, Frame (partMask [.regs, .free, .mem, .hostMem, .blocks, .spPoison, .fm, .sources, .hl, .rings, .chans]) s u ∧
      writeSnapshot s x e b incomplete part = latchSource (updStream u x fun k => { k with snaps := k.snaps + 1 }) 30 :=
  ⟨_, Frame.thread (fun _ _ h => (setF_frame ..).step rfl h) (deliver_frame ..), rfl⟩

/-! ### The clauses of `EpochEvents` -/

/-- The stripe is marked, and counted as announced. -/
def stripeMarked (s : State) (x : Nat) (e : Stripe) : State :=
  updStream (updStripe s x e.row e.seg fun q => { q with announced := true }) x fun q => { q with announcedTo := q.announcedTo + 1 }

theorem stripeAnnounce_creates {x : Fin 64} {e : Stripe} {s : State} (hb : (stream s x.val).bound = true)
    (hf : s.stripes.find? (fun e => e.stream = x.val && !e.announced &&
      e.row * nSegs (stream s x.val) + e.seg = (stream s x.val).announcedTo) = some e) (hu : e.units.isSome = true)
    (hr : announceRoom s (stream s x.val).plan = true) :
    ∃ t, exec (.stripeAnnounce x) s = .next t ∧ (stream t x.val).announcedTo = (stream s x.val).announcedTo + 1 ∧
      ∀ m ∈ templates s (stream s x.val).plan, m.kind = 1 → jobOf s (instAt x.val m e.row e.seg) = none →
        (jobOf t (instAt x.val m e.row e.seg)).isSome = true := by
  have hmark : stream (stripeMarked s x.val e) x.val = { stream s x.val with announcedTo := (stream s x.val).announcedTo + 1 } :=
    stream_updStream_self ..
  refine ⟨settle (createStripeJobs (stripeMarked s x.val e) x.val e.row e.seg e.valid), ?_, ?_, fun m hm hk hn => ?_⟩
  · have hplaced : e.units.isNone = false := by rw [← Option.not_isSome, hu]; rfl
    change execStripeAnnounce x s = _
    unfold execStripeAnnounce
    simp only [hf, hplaced, hb, hr, Bool.not_true, Bool.or_self, Bool.false_eq_true, if_false]
    rfl
  · rw [settle_announcedTo, (createStripeJobs_frame ..).stream_eq, hmark]
  · exact settle_isSome (createStripeJobs_awaits (by rw [hmark]; exact hm) hk hn)

theorem harvestSnapshot_writes {x : Fin 64} {b : Bank} {s : State} (hp : (stream s x.val).prev = some b)
    (hb : (stream s x.val).bound = true) (hd : epochDone s x.val ((stream s x.val).epoch - 1) = true) :
    ∃ t, exec (.harvestSnapshot x) s = .next t ∧ (stream t x.val).prev = none ∧
      (stream t x.val).snaps = (stream s x.val).snaps + 1 ∧ (stream t x.val).bank = (stream s x.val).bank ∧
      t.latches = s.latches ||| 0x4000 := by
  obtain ⟨u, hu, hw⟩ := writeSnapshot_steps s x.val ((stream s x.val).epoch - 1) b false false
  refine ⟨updStream (latchSource (updStream u x.val fun k => { k with snaps := k.snaps + 1 }) 30) x.val fun q =>
    { q with prev := none }, ?_, ?_⟩
  · change execHarvestSnapshot x s = _
    unfold execHarvestSnapshot
    simp only [hp, hb, hd, Bool.and_self, if_true, hw]
  · rw [stream_updStream_self, (latchSource_frame ..).stream_eq, stream_updStream_self, hu.stream_eq]
    refine ⟨rfl, rfl, rfl, ?_⟩
    change u.latches ||| _ = _
    rw [hu.latches_eq]
    rfl

theorem bApplied_due {b : Fin 32} {line : Nat} {s : State} (h : (engine s b.val).applyDue = some line) :
    ∃ t, exec (.bApplied b) s = .next t ∧ (engine t b.val).applyDue = none ∧
      (engine t b.val).active = (engine s b.val).active := by
  refine ⟨updEngine (appliedEvent s b.val line) b.val fun k => { k with applyDue := none }, ?_, ?_⟩
  · change execBApplied b s = _
    unfold execBApplied
    simp only [h]
  · rw [engine_updEngine_self, (appliedEvent_frame ..).engine_eq]
    exact ⟨rfl, rfl⟩

theorem bApplied_staged {b : Fin 32} {s : State} (h : (engine s b.val).applyDue = none) (hd : swapDue s b.val = true)
    (ha : (engine s b.val).applied = false) :
    ∃ t, exec (.bApplied b) s = .next t ∧ (engine t b.val).applied = true ∧ (engine t b.val).active = (engine s b.val).active ∧
      (engine t b.val).swapStaged = true := by
  have hstaged : (engine s b.val).swapStaged = true := (Bool.and_eq_true_iff.1 hd).1
  refine ⟨updEngine (appliedEvent s b.val (swapLine s b.val)) b.val fun k => { k with applied := true }, ?_, ?_⟩
  · change execBApplied b s = _
    unfold execBApplied
    simp only [h, hd, ha, Bool.not_false, Bool.and_self, if_true]
  · rw [engine_updEngine_self, (appliedEvent_frame ..).engine_eq]
    exact ⟨rfl, rfl, hstaged⟩

end Sys2Proof.Machine

open Sys2Proof Sys2Proof.Machine

set_option Elab.async false

/-- Settles O15: a new job waits and so outlasts the settling, and the records that are posted leave the streams and engines alone. -/
theorem epochEvents : Obligations.EpochEvents := by
  unfold Obligations.EpochEvents
  exact ⟨fun _ _ _ => stripeAnnounce_creates, fun _ _ _ => harvestSnapshot_writes, fun _ _ _ => bApplied_due,
    fun _ _ => bApplied_staged⟩

end

section
/-! PROOFS. The clock commands: a log index that no write can store. -/

namespace Sys2Proof.Machine

set_option Elab.async false

/-! ### The head of the log beyond its 16 bits

`FM_LOG_IDX.HEAD` has 16 bits (R453), and every write of it is cut to them; but a `State` may list any number at its key. With HEAD more
than 2¹⁶ above TAIL the natural subtraction in `unread` stops at 0, before a record is written and after it, while `ClockCommands` has the
count go up by one in every state. -/

/-- A part in stage S4, with an index beyond 16 bits listed at `FM_LOG_IDX.HEAD`. -/
def headBeyond : State :=
  { State.reset with boot := { Boot.start with stage := 4 }, regs := [(fldKey Reg.FM_LOG_IDX_HEAD 0 0, 2 ^ 16 + 1)] }

theorem headBeyond_logs : ready headBeyond = false ∧ headBeyond.boot.stage ≠ 0 ∧ headBeyond.pins.hold = .none ∧ unread headBeyond = 0 := by
  decide +kernel

/-- The record is written and TAIL is 1, but the count stands at 0. -/
theorem headBeyond_unread : logTail (pllLost headBeyond) = 1 ∧ unread (pllLost headBeyond) = 0 := by decide +kernel

end Sys2Proof.Machine

open Sys2Proof Sys2Proof.Machine

set_option Elab.async false

/-- Refutes O9: where HEAD is more than 2¹⁶ above TAIL, which no write can bring about, the record of a lost PLL lock leaves `unread` at 0. -/
theorem not_clockCommands : ¬ Obligations.ClockCommands := by
  unfold Obligations.ClockCommands
  rintro ⟨-, -, hlost⟩
  obtain ⟨hready, hstage, hhold, hempty⟩ := headBeyond_logs
  obtain ⟨t, ht, -, -, -, hlog⟩ := hlost headBeyond
  obtain ⟨hgrown, -⟩ := hlog hready hstage hhold (by omega)
  have ht : pllLost headBeyond = t := Host.Outcome.next.inj ht
  rw [← ht, headBeyond_unread.2, hempty] at hgrown
  cases hgrown

end

section
/-! PROOFS. Line timing's low fields: that events, device writes, flushes and pulse requests leave them. -/

namespace Sys2Proof.Machine

set_option Elab.async false

/-! ### Fields that no other operation counts in

A line-timing command that posts an event or flushes a stream writes registers of other blocks: the rings' counters, those of the DRAM
channels and of ingest, the snapshots. In its own block it counts pulses merged (R91) and stamps that fell back (R95), and an event source
counts what it coalesced (R422): all at bit 16 or above. So the fields of line timing below bit 16 stand. -/

/-- The key of a field of line timing's registers with its low bit below bit 16, on channel 0. -/
def lowKey (k : Nat) : Prop := 0xB00000 * 64 ≤ k ∧ k < 0xC00000 * 64 ∧ k % 64 < 16

/-- A field of a row of line-timing registers, one for each unit. -/
theorem lowKey_unit {n : Nat} (i : Fin (n + 1)) {f : Fld}
    (hf : f.lo < 16 ∧ 0xB00000 ≤ f.off ∧ f.off + f.stride * n < 0xC00000 := by decide) : lowKey (fldKey f 0 i.val) := by
  have := Nat.mul_le_mul_left f.stride (Nat.le_of_lt_succ i.isLt)
  unfold lowKey fldKey
  omega

/-- No field at bit 16 or above is a low one, at whatever channel and index. -/
theorem not_lowKey_high {f : Fld} (h : 16 ≤ f.lo ∧ f.lo < 64) (ch i : Nat) : ¬ lowKey (fldKey f ch i) := by
  unfold lowKey fldKey
  omega

/-- Nor is a field of another block. -/
theorem not_lowKey_block {f : Fld} {i : Nat} (hlo : f.lo < 64) (h : f.off + f.stride * i < 0xB00000 ∨ 0xC00000 ≤ f.off) (ch : Nat) :
    ¬ lowKey (fldKey f ch i) := by
  unfold lowKey fldKey
  omega

/-- The low fields of line timing are as they were. -/
structure LowKept (s t : State) : Prop where
  same : ∀ d k, lowKey k → mget d t.regs k = mget d s.regs k

theorem LowKept.of_regs {s t : State} (h : t.regs = s.regs) : LowKept s t := ⟨fun _ _ _ => by rw [h]⟩

theorem LowKept.refl (s : State) : LowKept s s := .of_regs rfl

/-- What is done to `x`, which has kept the low fields of `s`. -/
theorem LowKept.after {s x t : State} (h : LowKept x t) (h' : LowKept s x) : LowKept s t :=
  ⟨fun d k hk => (h.same d k hk).trans (h'.same d k hk)⟩

/-- A part of the state other than the registers has changed. -/
theorem LowKept.frame {m : Nat} {s x t : State} (h : Frame m x t) (h' : LowKept s x)
    (hm : m.testBit Part.regs.ctorIdx = false := by decide) : LowKept s t := (LowKept.of_regs (h.regs_eq hm)).after h'

theorem LowKept.getF {s t : State} (h : LowKept s t) (f : Fld) {i : Nat} (hk : lowKey (fldKey f 0 i)) :
    getF t f 0 i = getF s f 0 i := h.same _ _ hk

theorem LowKept.setF {s : State} {f : Fld} {ch i v : Nat} (hk : ¬ lowKey (fldKey f ch i)) : LowKept s (Machine.setF s f ch i v) :=
  ⟨fun _ _ hk' => mget_mset_other _ _ _ _ fun he => hk (he ▸ hk')⟩

/-- A counter of another block, which has no index. -/
theorem LowKept.count (s : State) (f : Fld) (ch n : Nat)
    (h : f.lo < 64 ∧ (f.off + f.stride * 0 < 0xB00000 ∨ 0xC00000 ≤ f.off) := by decide) : LowKept s (addF s f ch 0 n) :=
  .setF (not_lowKey_block h.1 h.2 ch)

/-- A counter at bit 16 or above. -/
theorem LowKept.countHigh (s : State) (f : Fld) (ch i n : Nat) (h : 16 ≤ f.lo ∧ f.lo < 64 := by decide) :
    LowKept s (addF s f ch i n) := .setF (not_lowKey_high h ch i)

theorem LowKept.ite {s a b : State} {c : Prop} {_ : Decidable c} (ha : LowKept s a) (hb : LowKept s b) :
    LowKept s (if c then a else b) := by
  split
  · exact ha
  · exact hb

theorem LowKept.thread {α : Type} {f : State → α → State} {l : List α} (s : State) (hf : ∀ y, ∀ a ∈ l, LowKept y (f y a)) :
    LowKept s (Machine.thread f s l) :=
  List.foldlRecOn l f (motive := LowKept s) (.refl s) fun y hy a ha => (hf y a ha).after hy

/-! ### Events and device writes (R325, R326, R376 to R382, R422) -/

theorem evSet_low (s : State) (n : Nat) : LowKept s (evSet s n) := by
  have hcoalesced : LowKept s (cnt (addF s Reg.EV_SRC_COALESCED 0 n 1) Reg.EV_CNT_COALESCED) :=
    (LowKept.count ..).after (LowKept.countHigh ..)
  unfold evSet
  split
  · exact .of_regs rfl
  · exact .of_regs rfl
  · exact hcoalesced
  · exact hcoalesced

theorem readBlock_low (s : State) (b : Nat) (tries : ReadTry) (job : JobId) (scrub : Bool) :
    LowKept s (readBlock s b tries job scrub).2.2 := by
  have hcount : ∀ c, LowKept s (if scrub then addF s Reg.MEM_CNT_SCRUB c 0 1 else addF s Reg.MEM_CNT_RD c 0 1) := fun c =>
    .ite (.count ..) (.count ..)
  have hread : ∀ c, LowKept s (if (blockMeta s b).gen = s.dram.gen then
      if scrub then addF s Reg.MEM_CNT_SCRUB c 0 1 else addF s Reg.MEM_CNT_RD c 0 1
      else drawn (if scrub then addF s Reg.MEM_CNT_SCRUB c 0 1 else addF s Reg.MEM_CNT_RD c 0 1)) := fun c =>
    .ite (hcount c) (.frame (drawn_frame _) (hcount c))
  unfold readBlock
  dsimp only
  split
  · exact LowKept.frame (drawn_frame _) (.count ..)
  · split
    · refine LowKept.frame (report_frame ..) ((evSet_low ..).after (LowKept.frame (updChannel_frame ..) ?_))
      exact (LowKept.count ..).after (hread _)
    · split
      · exact (LowKept.count ..).after (.ite ((LowKept.count ..).after (hread _)) (hread _))
      · exact .ite ((LowKept.count ..).after (hread _)) (hread _)

theorem putBlock_low (s : State) (b : Nat) (bytes : List Byte) (poison : Bool) : LowKept s (putBlock s b bytes poison) := by
  unfold putBlock
  dsimp only
  refine .ite ((LowKept.count ..).after ?_) ?_ <;> exact (LowKept.count ..).after (.of_regs rfl)

theorem writeBlock_low (s : State) (b off : Nat) (bytes : List Byte) (poison : Bool) (tries : ReadTry) (job : JobId) :
    LowKept s (writeBlock s b off bytes poison tries job) := by
  unfold writeBlock
  dsimp only
  refine .ite (.count ..) (.ite (putBlock_low ..) ?_)
  exact (putBlock_low ..).after ((LowKept.count ..).after (readBlock_low ..))

theorem devWrite_low (s : State) (a : Nat) (bs : List (Byte × Bool)) (tries : ReadTry) (job : JobId) :
    LowKept s (devWrite s a bs tries job) := by
  unfold devWrite
  split
  · exact .thread s fun y p _ => writeBlock_low ..
  · exact .frame (spWrite_frame ..) (.refl _)
  · exact .thread s fun y p _ => .frame (post_frame ..) (.refl _)
  · exact .thread s fun y p _ => .frame (post_frame ..) (.refl _)
  · exact .refl s

theorem useRing_low (s : State) (r : Nat) : LowKept s (useRing s r) := by
  unfold useRing
  dsimp only
  refine LowKept.frame (updRing_frame ..) (.ite (.refl s) ?_)
  split
  · exact LowKept.frame (updRing_frame ..) (.count ..)
  · exact .count ..

theorem ringNotify_low (s : State) (r n : Nat) : LowKept s (ringNotify s r n) := by
  unfold ringNotify ringDue sendRing
  refine .ite (.after (.ite ?_ (.refl _)) (.frame (updRing_frame ..) (.refl _))) (.refl s)
  exact LowKept.frame (msix_link_frame ..) ((LowKept.count ..).after (.frame (updRing_frame ..) (.refl _)))

theorem ringWrite_low (s : State) (r : Nat) (entries : List (List Byte)) : LowKept s (ringWrite s r entries) := by
  unfold ringWrite
  refine (ringNotify_low ..).after ((devWrite_low ..).after ((useRing_low ..).after (.thread s fun y e _ => ?_)))
  exact LowKept.frame (updRing_frame ..) (devWrite_low ..)

theorem deliver_low (s : State) (r kind format : Nat) (entries : List (List Byte)) :
    LowKept s (deliver s r kind format entries).1 := by
  unfold deliver
  split
  · exact .count ..
  · split
    · exact .frame (updRing_frame ..) (.refl _)
    · split
      · exact (LowKept.countHigh ..).after (useRing_low ..)
      · exact (LowKept.count ..).after (LowKept.frame (updRing_frame ..) (ringWrite_low ..))

theorem ltEvent_low (s : State) (code src : Nat) (args : List Nat) : LowKept s (ltEvent s code src args) := by
  have hpost : LowKept s (postEvent s (fld s Reg.LT_CTL_RING) code 0 src args) := deliver_low ..
  unfold ltEvent
  exact .ite ((evSet_low ..).after hpost) (.ite ((evSet_low ..).after hpost) hpost)

/-! ### Flushes of a stream (R28, R103 to R110) -/

theorem writeSnapshot_low {x : Nat} (hx : x < 64) (s : State) (e : Nat) (b : Bank) (incomplete part : Bool) :
    LowKept s (writeSnapshot s x e b incomplete part) := by
  unfold writeSnapshot
  dsimp only
  refine .frame (latchSource_frame ..) (.frame (updStream_frame ..) (.after (.thread _ fun y p hp => ?_) (deliver_low ..)))
  have hp : p.1 < 16 := List.mem_range.1 (List.of_mem_zip hp).1
  refine .setF (not_lowKey_block (by decide) (.inl ?_) 0)
  simp only [Reg.HV_SNAP]
  omega

theorem epochBoundary_low {x : Nat} (hx : x < 64) (s : State) : LowKept s (epochBoundary s x) := by
  unfold epochBoundary
  refine LowKept.frame (updStream_frame ..) ?_
  split
  · exact writeSnapshot_low hx ..
  · exact .refl s

theorem stampSlot_low (s : State) (x n rx : Nat) : LowKept s (stampSlot s x n rx) := by
  have halign : LowKept s (alignLink s x n rx) := .frame (alignLink_frame ..) (.refl _)
  unfold stampSlot
  dsimp only
  split
  · exact .frame (putLine_frame ..) (.frame (updLink_frame ..) halign)
  · exact LowKept.frame (putLine_frame ..) ((LowKept.countHigh ..).after halign)

theorem openSlots_low {x : Nat} (hx : x < 64) (s : State) (n rx : Nat) : LowKept s (openSlots s x n rx) := by
  unfold openSlots
  refine .thread s fun y _ _ => LowKept.frame (updStream_frame ..) ?_
  refine .ite ?_ ((stampSlot_low ..).after ?_) <;> exact .ite (epochBoundary_low hx y) (.refl y)

theorem putCopies_low (s : State) (u : Nat) (k : Stripe) : LowKept s (putCopies s u k) := by
  unfold putCopies
  exact (devWrite_low ..).after ((devWrite_low ..).after (.ite (.frame (drawn_frame s) (.refl s)) (.refl s)))

theorem writeWaiting_low (s : State) : LowKept s (writeWaiting s) := by
  unfold writeWaiting
  refine thread_keeps (P := fun acc : State × List Nat => LowKept s acc.1) s.stripes (fun acc k hacc => ?_) (.refl s)
  dsimp only
  split
  · exact hacc
  · split
    · exact hacc
    · exact (putCopies_low ..).after (LowKept.frame (updStripe_frame ..) hacc)

theorem gapRecord_low (s : State) (x cause count first time segMask : Nat) :
    LowKept s (gapRecord s x cause count first time segMask) := by
  unfold gapRecord
  exact .ite (LowKept.frame (countAt_frame ..) (deliver_low ..)) (deliver_low ..)

theorem closeRow_low (s : State) (x : Nat) : LowKept s (closeRow s x) := by
  unfold closeRow
  dsimp only
  simp only [put_stripes_def]
  refine (writeWaiting_low _).after (.after (.setF ?_) (.frame (updStream_frame ..) (.frame (put_stripes_frame ..) ?_)))
  · exact not_lowKey_block (by decide) (.inr (by decide)) 0
  · exact (LowKept.thread _ fun y g _ => gapRecord_low ..).after (.thread s fun y g _ => gapRecord_low ..)

theorem closeRows_low {x : Nat} (hx : x < 64) (s : State) : LowKept s (closeRows s x) := by
  unfold closeRows
  exact .thread s fun y _ _ => .ite ((closeRow_low ..).after (openSlots_low hx ..)) (.refl y)

theorem fillLine_low {x : Nat} (hx : x < 64) (s : State) (n : Nat) (g : LineGap) : LowKept s (fillLine s x n g) := by
  unfold fillLine
  refine .ite (.refl s) ((closeRows_low hx _).after ?_)
  split
  · exact LowKept.frame (countAt_frame ..) (.frame (putLine_frame ..) (.refl _))
  · exact LowKept.frame (countAt_frame ..) (.frame (putLine_frame ..) (.refl _))
  · exact .frame (putLine_frame ..) (.refl _)

theorem flushStream_low {x : Nat} (hx : x < 64) (s : State) : LowKept s (flushStream s x) := by
  unfold flushStream flushBefore endRow
  dsimp only
  simp only [put_pstreams_def]
  refine .ite (.ite (.refl s) (.after (.thread _ fun y i _ => ?_) ?_)) (.refl s)
  · exact (fillLine_low hx ..).after (.frame (putLine_frame ..) (.refl _))
  · exact .frame (put_pstreams_frame ..) (.frame (updLink_frame ..) (.frame (updStream_frame ..) (.refl s)))

/-! ### What an edge of an input brings about (R87, R89, R91, R96) -/

theorem pulseRequest_low (s : State) (t : Nat) : LowKept s (pulseRequest s t) := by
  unfold pulseRequest
  exact .ite (.refl s) (.ite (.refl s) (.ite (.countHigh ..) (.frame (updTrig_frame ..) (.refl _))))

theorem requestAll_low (s : State) (ts : List Nat) : LowKept s (requestAll s ts) := .thread s fun y t _ => pulseRequest_low y t

theorem uplinkEdge_low (s : State) (t : Nat) (level : Bool) : LowKept s (uplinkEdge s t level) := by
  unfold uplinkEdge
  exact .thread s fun y p _ => .ite (.ite (.count ..) (.frame (updPort_frame ..) (.refl _))) (.refl y)

theorem motionTo_low (s : State) (e : Nat) (m : Motion) (code : Nat) (args : List Nat) : LowKept s (motionTo s e m code args) :=
  (ltEvent_low ..).after (.frame (updEnc_frame ..) (.refl _))

theorem endOfStrip_low (s : State) (e cause : Nat) : LowKept s (endOfStrip s e cause) := by
  unfold endOfStrip
  exact .after (.thread _ fun y x hx => .ite (flushStream_low (List.mem_range.1 hx) y) (.refl y)) (motionTo_low ..)

end Sys2Proof.Machine
end

section
/-! PROOFS. The fields of a register that a command of its own performs, and the bits of pins and levels. -/

namespace Sys2Proof.Machine

set_option Elab.async false

/-! ### What `storeOthers` leaves (R5, R343) -/

theorem cfgLocked_low (s : State) (q off : Nat) : LowKept s (cfgLocked s q off) := by
  have hset : ∀ (y : State) (f : Fld) (v : Nat), f.lo < 64 ∧ 0xC00000 ≤ f.off → LowKept y (setF y f 0 0 v) := fun y f v h =>
    .setF (not_lowKey_block h.1 (.inr h.2) 0)
  unfold cfgLocked
  dsimp only
  refine .ite (.count ..) ?_
  exact (hset _ _ _ (by decide)).after ((hset _ _ _ (by decide)).after ((hset _ _ _ (by decide)).after (.count ..)))

/-- A command that performs a register's write stores that register's other fields alone: a low field of line timing that is none of them
stands. -/
theorem storeOthers_getF {s : State} {off i data off' j : Nat} {g : Fld} (hi : ∀ p ∈ fieldsAt off, p.2 = i) (hg : (g, j) ∈ fieldsAt off')
    (hk : lowKey (fldKey g 0 j)) (hne : ∀ p ∈ fieldsAt off, p.1.own = false → p.1 ≠ g) :
    getF (storeOthers s off 0 i data) g 0 j = getF s g 0 j := by
  have hfold : getF ((fieldsAt off).foldl (fun (acc : State × Bool) p =>
      if p.1.own then acc
      else ((writeField s acc.1 p.1 0 i (bitsOf data p.1.lo p.1.w)).1, acc.2 || (writeField s acc.1 p.1 0 i (bitsOf data p.1.lo p.1.w)).2))
      (s, false)).1 g 0 j = getF s g 0 j := by
    refine List.foldlRecOn (fieldsAt off) _ (motive := fun acc : State × Bool => getF acc.1 g 0 j = getF s g 0 j) rfl
      fun acc hacc p hp => ?_
    split
    · exact hacc
    · next hown =>
      have hp' : (p.1, i) ∈ fieldsAt off := by rw [← hi p hp]; exact hp
      refine ((writeField_only ..).getF hp' hg (fun he => ?_) 0).trans hacc
      exact hne p hp (by simpa using hown) (congrArg Prod.fst he).symm
  unfold storeOthers
  dsimp only
  split
  · exact ((cfgLocked_low ..).getF g hk).trans hfold
  · exact hfold

theorem getF_setF_bit (s : State) (f : Fld) (ch i v : Nat) (hf : f.w = 1 := by rfl) : getF (setF s f ch i v) f ch i = v % 2 := by
  rw [getF_setF_self, hf, Nat.pow_one]

/-! ### One bit of a vector of levels -/

/-- Bit `i` is set to a level: it is at that level, and every other bit stands. -/
theorem getLsbD_putBit {n : Nat} (w : BitVec n) {i : Nat} (hi : i < n) (v : Bool) (j : Nat) :
    (if v then w ||| BitVec.ofNat n (2 ^ i) else w &&& ~~~BitVec.ofNat n (2 ^ i)).getLsbD j = if j = i then v else w.getLsbD j := by
  have hbit : ∀ k, (BitVec.ofNat n (2 ^ i)).getLsbD k = decide (k = i) := fun k => by
    rw [BitVec.getLsbD_ofNat, Nat.testBit_two_pow]
    by_cases hk : k = i
    · simp only [hk, hi, decide_true, Bool.and_self]
    · simp only [hk, Ne.symm hk, decide_false, Bool.and_false]
  generalize BitVec.ofNat n (2 ^ i) = m at hbit
  by_cases hj : j = i
  · cases v <;> simp [BitVec.getLsbD_or, BitVec.getLsbD_and, BitVec.getLsbD_not, hbit, hj]
  · have hlt : w.getLsbD j = true → j < n := BitVec.lt_of_getLsbD
    cases v
    · simp only [Bool.false_eq_true, if_false, BitVec.getLsbD_and, BitVec.getLsbD_not, hbit, hj, decide_false, Bool.not_false, Bool.and_true]
      cases hw : w.getLsbD j
      · rfl
      · simp only [hlt hw, decide_true, Bool.and_self]
    · simp only [if_true, BitVec.getLsbD_or, hbit, hj, decide_false, Bool.or_false, if_false]

end Sys2Proof.Machine
end

section
/-! PROOFS. Encoders: the clauses of `Encoders`, and the statement. -/

namespace Sys2Proof.Machine

set_option Elab.async false

theorem Frame.enc_eq {m : Nat} {s t : State} (h : Frame m s t) (e : Nat)
    (hm : m.testBit Part.encs.ctorIdx = false := by decide) : enc t e = enc s e := enc_congr (h.keeps .encs hm) e

/-! ### Enabling (R97) -/

theorem encCtl_fields : ∀ e : Fin 8, (Reg.LT_ENC_CTL_EN, e.val) ∈ fieldsAt (0xB00100 + 0x40 * e.val) ∧
    ∀ p ∈ fieldsAt (0xB00100 + 0x40 * e.val), p.2 = e.val := by decide +kernel

theorem storeOthers_encEn (s : State) (e : Fin 8) (data : Nat) :
    getF (storeOthers s (0xB00100 + 0x40 * e.val) 0 e.val data) Reg.LT_ENC_CTL_EN 0 e.val = getF s Reg.LT_ENC_CTL_EN 0 e.val := by
  obtain ⟨hmem, hix⟩ := encCtl_fields e
  exact storeOthers_getF hix hmem (lowKey_unit e) fun p _ hown he => absurd (he ▸ hown) (by decide)

theorem encoderEnable_enables {e : Fin 8} {data : Word} {s : State} (ha : answers s 0xB00100 = true) (hd : data.getLsbD 0 = true)
    (h0 : getF s Reg.LT_ENC_CTL_EN 0 e.val = 0) :
    ∃ t, exec (.encoderEnable e data) s = .next t ∧ getF t Reg.LT_ENC_CTL_EN 0 e.val = 1 ∧ (enc t e.val).pos = 0 ∧
      (enc t e.val).hwm = 0 ∧ KeepsBut [.regs, .shadow, .encs] s t := by
  refine ⟨updEnc (setF (storeOthers s (0xB00100 + 0x40 * e.val) 0 e.val data.toNat) Reg.LT_ENC_CTL_EN 0 e.val 1) e.val fun k =>
    { k with pos := 0, hwm := 0, winPos := 0, winErrs := 0, winFault := false, countAt := s.clk.fclk, winAt := s.clk.fclk }, ?_, ?_, ?_⟩
  · change execEncoderEnable e data s = _
    unfold execEncoderEnable bit
    simp only [ha, hd, storeOthers_encEn, h0, Nat.zero_ne_one, decide_false, Bool.not_true, Bool.true_eq_false, Bool.false_eq_true, if_false]
  · exact (getF_congr (updEnc_regs ..) ..).trans (getF_setF_bit ..)
  · rw [enc_updEnc_self]
    exact ⟨rfl, rfl, (Frame.step (updEnc_frame ..) (m := partMask [.regs, .shadow, .encs]) rfl (Frame.step (setF_frame ..) rfl
      (Frame.step (storeOthers_frame ..) rfl (Frame.refl _)))).named⟩

theorem encoderEnable_disables {e : Fin 8} {data : Word} {s : State} (ha : answers s 0xB00100 = true) (hd : data.getLsbD 0 = false) :
    ∃ t, exec (.encoderEnable e data) s = .next t ∧ getF t Reg.LT_ENC_CTL_EN 0 e.val = 0 ∧ t.encs = s.encs := by
  refine ⟨setF (storeOthers s (0xB00100 + 0x40 * e.val) 0 e.val data.toNat) Reg.LT_ENC_CTL_EN 0 e.val 0, ?_, ?_, ?_⟩
  · change execEncoderEnable e data s = _
    unfold execEncoderEnable
    simp only [ha, hd, Bool.not_true, Bool.false_eq_true, if_false, if_true]
  · exact getF_setF_bit _ Reg.LT_ENC_CTL_EN ..
  · exact (storeOthers_frame ..).keeps .encs (by decide)

/-! ### What an accepted change does to its encoder (R85, R87) -/

theorem motionTo_enc (s : State) (e : Nat) (m : Motion) (code : Nat) (args : List Nat) :
    enc (motionTo s e m code args) e = { enc s e with motion := m } := by
  unfold motionTo
  dsimp only
  rw [(ltEvent_frame ..).enc_eq, enc_updEnc_self]

/-- An encoder back in motion, by a count after a stop or one past the mark. -/
def motionResumed (s : State) (e : Nat) (hwm : Int) : State :=
  match (enc s e).motion with
  | .stopped => motionTo s e .moving 0x21 []
  | .reversed => if hwm < (enc s e).pos then motionTo s e .moving 0x23 [] else s
  | .ended => if hwm < (enc s e).pos then motionTo s e .moving 0x21 [] else s
  | .moving => s

theorem motionOf_eq (s : State) (e : Nat) (hwm : Int) : motionOf s e hwm =
    if (enc (motionResumed s e hwm) e).motion = .moving &&
      (enc s e).pos + (getF s Reg.LT_ENC_CTL_REV_HYST 0 e : Nat) ≤ (enc (motionResumed s e hwm) e).hwm then
      motionTo (motionResumed s e hwm) e .reversed 0x22 []
    else motionResumed s e hwm := by
  unfold motionOf motionResumed
  rfl

theorem motionResumed_enc (s : State) (e : Nat) (hwm : Int) : ∃ m, enc (motionResumed s e hwm) e = { enc s e with motion := m } := by
  unfold motionResumed
  split
  · exact ⟨_, motionTo_enc ..⟩
  · split
    · exact ⟨_, motionTo_enc ..⟩
    · exact ⟨_, rfl⟩
  · split
    · exact ⟨_, motionTo_enc ..⟩
    · exact ⟨_, rfl⟩
  · exact ⟨_, rfl⟩

theorem motionOf_enc (s : State) (e : Nat) (hwm : Int) : ∃ m, enc (motionOf s e hwm) e = { enc s e with motion := m } := by
  obtain ⟨m, hm⟩ := motionResumed_enc s e hwm
  rw [motionOf_eq]
  split
  · exact ⟨.reversed, by rw [motionTo_enc, hm]⟩
  · exact ⟨m, hm⟩

/-- From `k` to `k'` an encoder has accepted the levels `a` and `b` as one count, in the direction of the edge or against it. -/
def CountedTo (inv : Bool) (k : Encoder) (a b : Bool) (k' : Encoder) : Prop :=
  k'.a = a ∧ k'.b = b ∧ k'.pos = k.pos + (if inv then - countDir k.a a b else countDir k.a a b) ∧ k'.hwm = max k.hwm k'.pos

theorem encAccept_counts {s : State} {e : Nat} {a b : Bool} (hon : encOn s e = true)
    (h : ¬((enc s e).a ≠ a ∧ (enc s e).b ≠ b)) :
    CountedTo (bit s Reg.LT_ENC_CTL_INVERT 0 e) (enc s e) a b (enc (encAccept s e a b) e) := by
  have hlegal : ((enc s e).a != a && (enc s e).b != b) = false := by simpa using h
  unfold encAccept
  simp only [hon, hlegal, Bool.not_true, Bool.false_eq_true, if_false]
  rw [(requestAll_frame ..).enc_eq]
  obtain ⟨m, hm⟩ := motionOf_enc (updEnc s e fun k =>
    { k with a := a, b := b,
             pos := k.pos + (if bit s Reg.LT_ENC_CTL_INVERT 0 e then - countDir (enc s e).a a b else countDir (enc s e).a a b),
             hwm := max k.hwm (k.pos +
               (if bit s Reg.LT_ENC_CTL_INVERT 0 e then - countDir (enc s e).a a b else countDir (enc s e).a a b)),
             countAt := s.clk.fclk }) e (enc s e).hwm
  rw [hm, enc_updEnc_self]
  exact ⟨rfl, rfl, rfl, rfl⟩

/-- The state in which an illegal transition has been counted. -/
def illegalCounted (s : State) (e : Nat) (a b : Bool) : State :=
  updEnc (addF s Reg.LT_ENC_ERRS 0 e 1) e fun k => { k with a := a, b := b, winErrs := k.winErrs + 1 }

theorem illegalCounted_enc (s : State) (e : Nat) (a b : Bool) :
    enc (illegalCounted s e a b) e = { enc s e with a := a, b := b, winErrs := (enc s e).winErrs + 1 } := enc_updEnc_self ..

/-- The same with the fault set, which a window sets once. -/
def illegalFaulted (s : State) (e : Nat) (a b : Bool) : State :=
  setF (updEnc (illegalCounted s e a b) e fun k => { k with winFault := true }) Reg.LT_ENC_STAT_FAULT 0 e 1

theorem illegalEdge_eq (s : State) (e : Nat) (a b : Bool) : illegalEdge s e a b =
    if getF s Reg.LT_ENC_CTL_ERR_LIMIT 0 e < (enc s e).winErrs + 1 && !(enc s e).winFault then
      ltEvent (illegalFaulted s e a b) 0x25 e [encPos (illegalCounted s e a b) e]
    else illegalCounted s e a b := by
  change (if getF s Reg.LT_ENC_CTL_ERR_LIMIT 0 e < (enc (illegalCounted s e a b) e).winErrs && !(enc (illegalCounted s e a b) e).winFault
    then ltEvent (illegalFaulted s e a b) 0x25 e [encPos (illegalCounted s e a b) e] else illegalCounted s e a b) = _
  rw [illegalCounted_enc]

theorem illegalEdge_enc (s : State) (e : Nat) (a b : Bool) : ∃ f, enc (illegalEdge s e a b) e =
    { enc s e with a := a, b := b, winErrs := (enc s e).winErrs + 1, winFault := f } := by
  rw [illegalEdge_eq]
  split
  · refine ⟨true, ?_⟩
    rw [(ltEvent_frame ..).enc_eq, illegalFaulted, (setF_frame ..).enc_eq, enc_updEnc_self, illegalCounted_enc]
  · exact ⟨_, illegalCounted_enc ..⟩

theorem encAccept_illegal {s : State} {e : Nat} {a b : Bool} (hon : encOn s e = true) (ha : (enc s e).a ≠ a) (hb : (enc s e).b ≠ b) :
    encAccept s e a b = illegalEdge s e a b := by simp [encAccept, hon, ha, hb]

/-- Whatever an accepted change does beside, the encoder stands at the new levels. -/
theorem encAccept_levels (s : State) (e : Nat) (a b : Bool) :
    (enc (encAccept s e a b) e).a = a ∧ (enc (encAccept s e a b) e).b = b := by
  by_cases hon : encOn s e = true
  · by_cases hill : (enc s e).a ≠ a ∧ (enc s e).b ≠ b
    · obtain ⟨f, hf⟩ := illegalEdge_enc s e a b
      rw [encAccept_illegal hon hill.1 hill.2, hf]
      exact ⟨rfl, rfl⟩
    · obtain ⟨ha, hb, -⟩ := encAccept_counts hon hill
      exact ⟨ha, hb⟩
  · have hoff : encAccept s e a b = updEnc s e fun k => { k with a := a, b := b } := by simp [encAccept, hon]
    rw [hoff, enc_updEnc_self]
    exact ⟨rfl, rfl⟩

/-! ### The glitch filters (R84) -/

/-- The levels of an encoder's inputs. -/
def PinsAt (s : State) (e : Nat) (a b : Bool) : Prop := s.pins.encA.getLsbD e = a ∧ s.pins.encB.getLsbD e = b

/-- Inputs that stand at the accepted levels bring nothing. -/
theorem encFilter_settled {s : State} {e : Nat} (h : PinsAt s e (enc s e).a (enc s e).b) : encFilter s e = s := by
  obtain ⟨ha, hb⟩ := h
  simp [encFilter, ha, hb]

/-- Levels that are new and not yet held long enough bring nothing. -/
theorem encFilter_waits {s : State} {e : Nat} {a b : Bool} (h : PinsAt s e a b)
    (ha : a ≠ (enc s e).a → s.clk.fclk < (enc s e).aFrom + 4 * getF s Reg.LT_ENC_CTL_FILT 0 e)
    (hb : b ≠ (enc s e).b → s.clk.fclk < (enc s e).bFrom + 4 * getF s Reg.LT_ENC_CTL_FILT 0 e) : encFilter s e = s := by
  obtain ⟨rfl, rfl⟩ := h
  have hA : (s.pins.encA.getLsbD e != (enc s e).a &&
      decide ((enc s e).aFrom + 4 * getF s Reg.LT_ENC_CTL_FILT 0 e ≤ s.clk.fclk)) = false := by simpa using ha
  have hB : (s.pins.encB.getLsbD e != (enc s e).b &&
      decide ((enc s e).bFrom + 4 * getF s Reg.LT_ENC_CTL_FILT 0 e ≤ s.clk.fclk)) = false := by simpa using hb
  simp only [encFilter, hA, hB, Bool.and_self, Bool.false_eq_true, if_false]

/-- New levels that have been held long enough, two of them from one CCLK cycle on, are accepted as one change. -/
theorem encFilter_accepts {s : State} {e : Nat} {a b : Bool} (h : PinsAt s e a b)
    (ha : a ≠ (enc s e).a → (enc s e).aFrom + 4 * getF s Reg.LT_ENC_CTL_FILT 0 e ≤ s.clk.fclk)
    (hb : b ≠ (enc s e).b → (enc s e).bFrom + 4 * getF s Reg.LT_ENC_CTL_FILT 0 e ≤ s.clk.fclk)
    (hnew : a ≠ (enc s e).a ∨ b ≠ (enc s e).b)
    (hboth : a ≠ (enc s e).a → b ≠ (enc s e).b → (enc s e).aFrom / 4 = (enc s e).bFrom / 4) : encFilter s e = encAccept s e a b := by
  obtain ⟨rfl, rfl⟩ := h
  unfold encFilter
  by_cases hA : s.pins.encA.getLsbD e = (enc s e).a
  · have hB : s.pins.encB.getLsbD e ≠ (enc s e).b := hnew.resolve_left fun hn => hn hA
    simp [hA, hB, hb hB]
  · by_cases hB : s.pins.encB.getLsbD e = (enc s e).b
    · simp [hA, hB, ha hA]
    · simp [hA, hB, ha hA, hb hB, hboth hA hB]

theorem encSample_enc (s : State) (e : Nat) (a b : Bool) : enc (encSample s e a b) e =
    { enc s e with aFrom := if s.pins.encA.getLsbD e = a then (enc s e).aFrom else s.clk.fclk,
                   bFrom := if s.pins.encB.getLsbD e = b then (enc s e).bFrom else s.clk.fclk } := enc_updEnc_self ..

theorem encSample_pins (s : State) (e : Fin 8) (a b : Bool) : PinsAt (encSample s e.val a b) e.val a b := by
  constructor
  · exact (getLsbD_putBit _ e.isLt a e.val).trans (if_pos rfl)
  · exact (getLsbD_putBit _ e.isLt b e.val).trans (if_pos rfl)

/-! ### ENCODER_COUNT (R84, R85) -/

/-- The new levels are accepted with this command: they have been held, or need no time. -/
def Due (s : State) (e : Nat) (a b : Bool) : Prop :=
  (s.pins.encA.getLsbD e = a ∧ s.pins.encB.getLsbD e = b ∧ (enc s e).aFrom + 4 * getF s Reg.LT_ENC_CTL_FILT 0 e ≤ s.clk.fclk ∧
      (enc s e).bFrom + 4 * getF s Reg.LT_ENC_CTL_FILT 0 e ≤ s.clk.fclk) ∨
    (getF s Reg.LT_ENC_CTL_FILT 0 e = 0 ∧ s.pins.encA.getLsbD e = (enc s e).a ∧ s.pins.encB.getLsbD e = (enc s e).b)

/-- The change is accepted before the inputs are sampled, or at once as they are. -/
theorem encoderCount_accepts {s : State} {e : Fin 8} {a b : Bool} (hdue : Due s e.val a b)
    (hnew : a ≠ (enc s e.val).a ∨ b ≠ (enc s e.val).b)
    (hboth : PinsAt s e.val a b → a ≠ (enc s e.val).a → b ≠ (enc s e.val).b → (enc s e.val).aFrom / 4 = (enc s e.val).bFrom / 4) :
    ∃ t, exec (.encoderCount e a b) s = .next t ∧
      (t = encSample (encAccept s e.val a b) e.val a b ∨ t = encAccept (encSample s e.val a b) e.val a b) := by
  refine ⟨encFilter (encSample (encFilter s e.val) e.val a b) e.val, rfl, ?_⟩
  have hpins := fun u => encSample_pins u e a b
  rcases hdue with ⟨hpa, hpb, hA, hB⟩ | ⟨hF, hpa, hpb⟩
  · left
    obtain ⟨hla, hlb⟩ := encAccept_levels s e.val a b
    rw [encFilter_accepts ⟨hpa, hpb⟩ (fun _ => hA) (fun _ => hB) hnew (hboth ⟨hpa, hpb⟩)]
    refine encFilter_settled ?_
    rw [encSample_enc, hla, hlb]
    exact hpins _
  · right
    have hF' : getF (encSample s e.val a b) Reg.LT_ENC_CTL_FILT 0 e.val = 0 := hF
    have hnow : ∀ (p q : Bool) (n : Nat), q ≠ p → (if p = q then n else s.clk.fclk) = s.clk.fclk := fun p q n h => if_neg h.symm
    rw [encFilter_settled ⟨hpa, hpb⟩]
    refine encFilter_accepts (hpins s) ?_ ?_ ?_ ?_ <;> rw [encSample_enc]
    · intro ha
      simp only [hF', hpa, hnow _ _ _ ha]
      exact Nat.le_refl _
    · intro hb
      simp only [hF', hpb, hnow _ _ _ hb]
      exact Nat.le_refl _
    · exact hnew
    · intro ha hb
      simp only [hpa, hpb, hnow _ _ _ ha, hnow _ _ _ hb]

theorem encoderCount_counts {e : Fin 8} {a b : Bool} {s : State} (hon : encOn s e.val = true) (hdue : Due s e.val a b)
    (hone : ((enc s e.val).a ≠ a ∧ (enc s e.val).b = b) ∨ ((enc s e.val).a = a ∧ (enc s e.val).b ≠ b)) :
    ∃ t, exec (.encoderCount e a b) s = .next t ∧
      CountedTo (bit s Reg.LT_ENC_CTL_INVERT 0 e.val) (enc s e.val) a b (enc t e.val) := by
  have hlegal : ¬((enc s e.val).a ≠ a ∧ (enc s e.val).b ≠ b) := by
    rintro ⟨ha, hb⟩
    rcases hone with ⟨-, hb'⟩ | ⟨ha', -⟩
    · exact hb hb'
    · exact ha ha'
  have hnew : a ≠ (enc s e.val).a ∨ b ≠ (enc s e.val).b := hone.imp (fun h => h.1.symm) fun h => h.2.symm
  obtain ⟨t, ht, hcase⟩ := encoderCount_accepts hdue hnew fun _ ha hb => absurd ⟨ha.symm, hb.symm⟩ hlegal
  refine ⟨t, ht, ?_⟩
  rcases hcase with rfl | rfl
  · rw [encSample_enc]
    exact encAccept_counts hon hlegal
  · have h := encAccept_counts (s := encSample s e.val a b) (a := a) (b := b) hon (by rw [encSample_enc]; exact hlegal)
    rw [encSample_enc] at h
    exact h

theorem encoderCount_samples {e : Fin 8} {a b : Bool} {s : State} (hF : 0 < getF s Reg.LT_ENC_CTL_FILT 0 e.val)
    (hpa : s.pins.encA.getLsbD e.val = (enc s e.val).a) (hpb : s.pins.encB.getLsbD e.val = (enc s e.val).b) :
    ∃ t, exec (.encoderCount e a b) s = .next t ∧ (enc t e.val).a = (enc s e.val).a ∧ (enc t e.val).b = (enc s e.val).b ∧
      (enc t e.val).pos = (enc s e.val).pos ∧ t.pins.encA.getLsbD e.val = a ∧ t.pins.encB.getLsbD e.val = b ∧
      (a ≠ (enc s e.val).a → (enc t e.val).aFrom = s.clk.fclk) ∧ (b ≠ (enc s e.val).b → (enc t e.val).bFrom = s.clk.fclk) ∧
      KeepsBut [.pins, .encs] s t := by
  have hF' : 0 < getF (encSample s e.val a b) Reg.LT_ENC_CTL_FILT 0 e.val := hF
  have hpins := encSample_pins s e a b
  have hnow : ∀ (p q : Bool) (n : Nat), q ≠ p → (if p = q then n else s.clk.fclk) = s.clk.fclk := fun p q n h => if_neg h.symm
  have hshort : ∀ n, 0 < n → s.clk.fclk < s.clk.fclk + 4 * n := fun n hn => by omega
  refine ⟨encSample s e.val a b, ?_, ?_⟩
  · change Host.Outcome.next (encFilter (encSample (encFilter s e.val) e.val a b) e.val) = _
    rw [encFilter_settled ⟨hpa, hpb⟩, encFilter_waits hpins ?_ ?_] <;> rw [encSample_enc]
    · intro ha
      simp only [hpa, hnow _ _ _ ha]
      exact hshort _ hF'
    · intro hb
      simp only [hpb, hnow _ _ _ hb]
      exact hshort _ hF'
  · rw [encSample_enc]
    refine ⟨rfl, rfl, rfl, hpins.1, hpins.2, fun ha => ?_, fun hb => ?_, (encSample_frame ..).named⟩
    · simp only [hpa, hnow _ _ _ ha]
    · simp only [hpb, hnow _ _ _ hb]

/-- From `s` to `t` an encoder has met one illegal transition. -/
def IllegalTo (s : State) (e : Nat) (a b : Bool) (t : State) : Prop :=
  (enc t e).pos = (enc s e).pos ∧ (enc t e).a = a ∧ (enc t e).b = b ∧ Counted Reg.LT_ENC_ERRS 0 e 1 s t ∧
    (getF s Reg.LT_ENC_CTL_ERR_LIMIT 0 e < (enc s e).winErrs + 1 → (enc s e).winFault = false →
      (enc t e).winFault = true ∧ getF t Reg.LT_ENC_STAT_FAULT 0 e = 1) ∧
    ((enc s e).winErrs + 1 ≤ getF s Reg.LT_ENC_CTL_ERR_LIMIT 0 e →
      RegsKeptBut [fldKey Reg.LT_ENC_ERRS 0 e] s t ∧ KeepsBut [.regs, .pins, .encs] s t)

theorem illegalCounted_errs (s : State) (e : Nat) (a b : Bool) : Counted Reg.LT_ENC_ERRS 0 e 1 s (illegalCounted s e a b) :=
  getF_addF_self s Reg.LT_ENC_ERRS 0 e 1

theorem illegalEdge_to (s : State) (e : Fin 8) (a b : Bool) : IllegalTo s e.val a b (illegalEdge s e.val a b) := by
  rw [illegalEdge_eq]
  split
  · next h =>
    have hlow := ltEvent_low (illegalFaulted s e.val a b) 0x25 e.val [encPos (illegalCounted s e.val a b) e.val]
    have henc : enc (illegalFaulted s e.val a b) e.val = { enc (illegalCounted s e.val a b) e.val with winFault := true } := by
      rw [illegalFaulted, (setF_frame ..).enc_eq, enc_updEnc_self]
    have herrs : getF (illegalFaulted s e.val a b) Reg.LT_ENC_ERRS 0 e.val = getF (illegalCounted s e.val a b) Reg.LT_ENC_ERRS 0 e.val :=
      getF_setF_other _ _ _ _ _ _ _ _ (by simp only [fldKey, Reg.LT_ENC_ERRS, Reg.LT_ENC_STAT_FAULT]; omega)
    simp only [Bool.and_eq_true, decide_eq_true_eq] at h
    unfold IllegalTo
    rw [(ltEvent_frame ..).enc_eq, henc, illegalCounted_enc]
    refine ⟨rfl, rfl, rfl, ?_, fun _ _ => ⟨rfl, ?_⟩, fun hle => absurd h.1 (Nat.not_lt.2 hle)⟩
    · exact (hlow.getF _ (lowKey_unit e)).trans (herrs.trans (illegalCounted_errs ..))
    · exact (hlow.getF _ (lowKey_unit e)).trans (getF_setF_bit _ Reg.LT_ENC_STAT_FAULT ..)
  · next h =>
    unfold IllegalTo
    rw [illegalCounted_enc]
    refine ⟨rfl, rfl, rfl, illegalCounted_errs .., fun hlt hf => absurd (by simp [hlt, hf]) h, fun _ => ⟨fun f ch i hk => ?_, ?_⟩⟩
    · exact getF_addF_other _ _ _ _ _ _ _ _ (by simpa using hk)
    · exact (Frame.step (updEnc_frame ..) (m := partMask [.regs, .encs]) rfl
        (Frame.step (addF_frame ..) rfl (Frame.refl _))).named

theorem encSample_getF (s : State) (e : Nat) (a b : Bool) (f : Fld) (ch i : Nat) : getF (encSample s e a b) f ch i = getF s f ch i :=
  getF_congr rfl f ch i

theorem KeepsBut.trans {ps : List Part} {s x t : State} (h : KeepsBut ps s x) (h' : KeepsBut ps x t) : KeepsBut ps s t :=
  fun p hp => Part.same_trans (h p hp) (h' p hp)

theorem encSample_keeps (s : State) (e : Nat) (a b : Bool) : KeepsBut [.regs, .pins, .encs] s (encSample s e a b) :=
  (encSample_frame s e a b).named

theorem IllegalTo.then_sampled {s t : State} {e : Nat} {a b : Bool} (h : IllegalTo s e a b t) : IllegalTo s e a b (encSample t e a b) := by
  obtain ⟨hpos, hA, hB, herrs, hfault, hkept⟩ := h
  unfold IllegalTo Counted RegsKeptBut
  simp only [encSample_enc, encSample_getF]
  exact ⟨hpos, hA, hB, herrs, hfault, fun hle => ⟨(hkept hle).1, KeepsBut.trans (hkept hle).2 (encSample_keeps _ _ _ _)⟩⟩

theorem IllegalTo.of_sampled {s t : State} {e : Nat} {a b : Bool} (h : IllegalTo (encSample s e a b) e a b t) : IllegalTo s e a b t := by
  unfold IllegalTo Counted RegsKeptBut at h
  simp only [encSample_enc, encSample_getF] at h
  obtain ⟨hpos, hA, hB, herrs, hfault, hkept⟩ := h
  exact ⟨hpos, hA, hB, herrs, hfault, fun hle => ⟨(hkept hle).1, KeepsBut.trans (encSample_keeps _ _ _ _) (hkept hle).2⟩⟩

theorem encoderCount_illegal {e : Fin 8} {a b : Bool} {s : State} (hon : encOn s e.val = true) (hdue : Due s e.val a b)
    (hboth : PinsAt s e.val a b → (enc s e.val).aFrom / 4 = (enc s e.val).bFrom / 4)
    (ha : (enc s e.val).a ≠ a) (hb : (enc s e.val).b ≠ b) :
    ∃ t, exec (.encoderCount e a b) s = .next t ∧ IllegalTo s e.val a b t := by
  obtain ⟨t, ht, hcase⟩ := encoderCount_accepts hdue (.inl ha.symm) fun h _ _ => hboth h
  refine ⟨t, ht, ?_⟩
  rcases hcase with rfl | rfl
  · rw [encAccept_illegal hon ha hb]
    exact (illegalEdge_to s e a b).then_sampled
  · rw [encAccept_illegal (s := encSample s e.val a b) hon (by rw [encSample_enc]; exact ha) (by rw [encSample_enc]; exact hb)]
    exact (illegalEdge_to (encSample s e.val a b) e a b).of_sampled

/-! ### Speed, stop and end of strip (R86, R87, R96) -/

theorem speedWindow_ends {e : Fin 8} {s : State} (hon : encOn s e.val = true)
    (hdue : (enc s e.val).winAt + 1000 * getF s Reg.LT_ENC_CTL_SPD_WIN 0 e.val ≤ s.clk.fclk) :
    ∃ t, exec (.speedWindow e) s = .next t ∧ (enc t e.val).winPos = (enc s e.val).pos ∧
      (enc t e.val).speed = ((enc s e.val).pos - (enc s e.val).winPos) * 1000000 / (getF s Reg.LT_ENC_CTL_SPD_WIN 0 e.val : Nat) ∧
      (enc t e.val).range = decide (getF s Reg.LT_ENC_LIMITS_SPD_MAX 0 e.val < (enc t e.val).speed.natAbs) ∧
      (enc t e.val).pos = (enc s e.val).pos := by
  refine ⟨_, rfl, ?_⟩
  simp only [hon, Nat.not_lt.2 hdue, Bool.not_true, decide_false, Bool.or_self, Bool.false_eq_true, if_false]
  split
  · rw [(ltEvent_frame ..).enc_eq, enc_updEnc_self]
    exact ⟨rfl, rfl, rfl, rfl⟩
  · rw [enc_updEnc_self]
    exact ⟨rfl, rfl, rfl, rfl⟩

theorem stripStop_stops {e : Fin 8} {s : State} (hon : encOn s e.val = true) (hm : (enc s e.val).motion = .moving)
    (hdue : (enc s e.val).countAt + 1000 * getF s Reg.LT_ENC_LIMITS_STALL_US 0 e.val ≤ s.clk.fclk) :
    ∃ t, exec (.stripStop e) s = .next t ∧ (enc t e.val).motion = .stopped ∧ (enc t e.val).pos = (enc s e.val).pos := by
  refine ⟨motionTo (updEnc s e.val fun k => { k with stopAt := s.clk.fclk }) e.val .stopped 0x20 [], ?_, ?_⟩
  · change execStripStop e s = _
    unfold execStripStop
    simp only [hon, hm, hdue, decide_true, Bool.and_self, if_true]
  · rw [motionTo_enc, enc_updEnc_self]
    exact ⟨rfl, rfl⟩

theorem endOfStrip_enc (s : State) (e cause : Nat) : enc (endOfStrip s e cause) e = { enc s e with motion := .ended } := by
  unfold endOfStrip
  rw [(Frame.thread (m := 283914575810434) (fun y x hy => Frame.ite (Frame.step (flushStream_frame ..) rfl hy) hy) (Frame.refl _)).enc_eq,
    motionTo_enc]

theorem eosStopTimeout_ends {e : Fin 8} {s : State} (hon : encOn s e.val = true) (hm : (enc s e.val).motion = .stopped)
    (h0 : getF s Reg.LT_ENC_LIMITS_EOS_MS 0 e.val ≠ 0)
    (hdue : (enc s e.val).stopAt + 1000000 * getF s Reg.LT_ENC_LIMITS_EOS_MS 0 e.val ≤ s.clk.fclk) :
    ∃ t, exec (.eosStopTimeout e) s = .next t ∧ (enc t e.val).motion = .ended ∧ (enc t e.val).pos = (enc s e.val).pos := by
  refine ⟨endOfStrip s e.val 2, ?_, ?_⟩
  · change execEosStopTimeout e s = _
    simp [execEosStopTimeout, eosDue, hon, hm, h0, hdue]
  · rw [endOfStrip_enc]
    exact ⟨rfl, rfl⟩

end Sys2Proof.Machine

open Sys2Proof Sys2Proof.Machine

set_option Elab.async false

/-- Settles O17: each clause is what its command does to the encoder, shown above; a change is accepted before the inputs are sampled
where it has been held, and at once where `FILT` is 0. -/
theorem encoders : Obligations.Encoders := by
  unfold Obligations.Encoders
  refine ⟨?_, ?_, ?_, ?_, ?_, ?_, ?_, ?_⟩
  · exact fun _ _ _ => encoderEnable_enables
  · exact fun _ _ _ => encoderEnable_disables
  · exact fun _ _ _ _ => encoderCount_counts
  · exact fun _ _ _ _ => encoderCount_samples
  · intro e a b s hon hdue ha
    refine encoderCount_illegal hon (hdue.imp (fun ⟨hpa, hpb, _, hA, hB⟩ => ⟨hpa, hpb, hA, hB⟩) id) (fun hpins => ?_) ha
    rcases hdue with ⟨-, -, hcycle, -⟩ | ⟨-, hpa, -⟩
    · exact hcycle
    · exact absurd (hpa.symm.trans hpins.1) ha
  · exact fun _ _ => speedWindow_ends
  · exact fun _ _ => stripStop_stops
  · exact fun _ _ => eosStopTimeout_ends

end

section
/-! PROOFS. Trigger outputs: enables, pulse requests and pulses (R88 to R91). -/

namespace Sys2Proof.Machine

set_option Elab.async false

theorem Frame.trig_eq {m : Nat} {s t : State} (h : Frame m s t) (o : Nat)
    (hm : m.testBit Part.trigs.ctorIdx = false := by decide) : trig t o = trig s o := trig_congr (h.keeps .trigs hm) o

theorem Frame.pins_eq {m : Nat} {s t : State} (h : Frame m s t) (hm : m.testBit Part.pins.ctorIdx = false := by decide) :
    t.pins = s.pins := h.keeps .pins hm

/-! ### Enabling (R88) -/

theorem trigCtl_fields : ∀ o : Fin 32, (Reg.LT_TRIG_CTL_EN, o.val) ∈ fieldsAt (0xB00400 + 0x20 * o.val) ∧
    (Reg.LT_TRIG_PERIOD, o.val) ∈ fieldsAt (0xB00408 + 0x20 * o.val) ∧
    ∀ p ∈ fieldsAt (0xB00400 + 0x20 * o.val), p.2 = o.val ∧ p.1 ≠ Reg.LT_TRIG_PERIOD := by decide +kernel

/-- TRIGGER_ENABLE's write of the fields that other commands do not perform. -/
def trigStored (s : State) (o data : Nat) : State := storeOthers s (0xB00400 + 0x20 * o) 0 o data

theorem trigStored_en (s : State) (o : Fin 32) (data : Nat) :
    getF (trigStored s o.val data) Reg.LT_TRIG_CTL_EN 0 o.val = getF s Reg.LT_TRIG_CTL_EN 0 o.val := by
  obtain ⟨hmem, -, hfields⟩ := trigCtl_fields o
  exact storeOthers_getF (fun p hp => (hfields p hp).1) hmem (lowKey_unit o) fun p _ hown he => absurd (he ▸ hown) (by decide)

theorem trigStored_off {s : State} {o : Fin 32} (h0 : getF s Reg.LT_TRIG_CTL_EN 0 o.val = 0) (data : Nat) :
    bit (storeOthers s (0xB00400 + 0x20 * o.val) 0 o.val data) Reg.LT_TRIG_CTL_EN 0 o.val = false :=
  decide_eq_false fun he => absurd (((trigStored_en s o data).trans h0).symm.trans he) (by decide)

theorem trigStored_period (s : State) (o : Fin 32) (data : Nat) :
    getF (trigStored s o.val data) Reg.LT_TRIG_PERIOD 0 o.val = getF s Reg.LT_TRIG_PERIOD 0 o.val := by
  obtain ⟨-, hmem, hfields⟩ := trigCtl_fields o
  exact storeOthers_getF (fun p hp => (hfields p hp).1) hmem (lowKey_unit o) fun p hp _ => (hfields p hp).2

theorem trigStored_frame (s : State) (o data : Nat) : Frame 6 s (trigStored s o data) := storeOthers_frame ..

/-- An output that ENABLE finds in order: it is on, from where its encoder stands, and its timer is set. -/
def trigEnabled (s : State) (o data : Nat) : State :=
  let s1 := trigStored s o data
  updTrig (setF s1 Reg.LT_TRIG_CTL_EN 0 o 1) o fun k =>
    { k with enabledPos := (enc s1 (getF s1 Reg.LT_TRIG_CTL_SRC_IDX 0 o)).pos, timerAt := timerFrom s1 o }

/-- The timer of an output that is not aligned first requests a period from now (R89). -/
theorem trigEnabled_timerAt {s : State} {o : Fin 32} {data : Nat}
    (h : bit (trigEnabled s o.val data) Reg.LT_TRIG_CTL_ALIGN 0 o.val = false) :
    (trig (trigEnabled s o.val data) o.val).timerAt = s.clk.fclk + getF s Reg.LT_TRIG_PERIOD 0 o.val := by
  have halign : bit (trigEnabled s o.val data) Reg.LT_TRIG_CTL_ALIGN 0 o.val = bit (trigStored s o.val data) Reg.LT_TRIG_CTL_ALIGN 0 o.val :=
    congrArg (fun n => decide (n = 1)) (getF_setF_other (trigStored s o.val data) Reg.LT_TRIG_CTL_EN Reg.LT_TRIG_CTL_ALIGN 0 o.val 1 0 o.val
      (by simp only [fldKey, Reg.LT_TRIG_CTL_EN, Reg.LT_TRIG_CTL_ALIGN]; omega))
  rw [halign] at h
  unfold trigEnabled
  dsimp only
  rw [trig_updTrig_self]
  simp only [timerFrom, h, trigStored_period, (trigStored_frame ..).clk_eq, Bool.false_eq_true, if_false]

theorem triggerEnable_enables {o : Fin 32} {data : BitVec 32} {s : State} (ha : answers s 0xB00400 = true) (hd : data.getLsbD 0 = true)
    (h0 : getF s Reg.LT_TRIG_CTL_EN 0 o.val = 0)
    (hok : trigCfgOk (storeOthers s (0xB00400 + 0x20 * o.val) 0 o.val data.toNat) o.val = true) :
    ∃ t, exec (.triggerEnable o data) s = .next t ∧ getF t Reg.LT_TRIG_CTL_EN 0 o.val = 1 ∧
      (bit t Reg.LT_TRIG_CTL_ALIGN 0 o.val = false →
        (trig t o.val).timerAt = s.clk.fclk + getF s Reg.LT_TRIG_PERIOD 0 o.val) ∧ KeepsBut [.regs, .shadow, .trigs] s t := by
  have hoff := trigStored_off h0 data.toNat
  refine ⟨trigEnabled s o.val data.toNat, ?_, ?_, trigEnabled_timerAt, ?_⟩
  · change execTriggerEnable o data s = _
    unfold execTriggerEnable
    simp only [ha, hd, hoff, hok, Bool.not_true, Bool.true_eq_false, Bool.false_eq_true, if_false, if_true]
    rfl
  · exact (getF_congr (updTrig_regs ..) ..).trans (getF_setF_bit ..)
  · exact (Frame.step (updTrig_frame ..) (m := partMask [.regs, .shadow, .trigs]) rfl (Frame.step (setF_frame ..) rfl
      (Frame.step (trigStored_frame ..) rfl (Frame.refl _)))).named

theorem triggerEnable_disables {o : Fin 32} {data : BitVec 32} {s : State} (ha : answers s 0xB00400 = true) (hd : data.getLsbD 0 = false) :
    ∃ t, exec (.triggerEnable o data) s = .next t ∧ getF t Reg.LT_TRIG_CTL_EN 0 o.val = 0 ∧ t.trigs = s.trigs := by
  refine ⟨setF (trigStored s o.val data.toNat) Reg.LT_TRIG_CTL_EN 0 o.val 0, ?_, getF_setF_bit .., ?_⟩
  · change execTriggerEnable o data s = _
    unfold execTriggerEnable
    simp only [ha, hd, Bool.not_true, Bool.false_eq_true, if_false, if_true]
    rfl
  · exact (trigStored_frame ..).keeps .trigs (by decide)

/-- A source out of range is refused, and `CFG_ERR` says so. -/
theorem triggerEnable_refuses {o : Fin 32} {data : BitVec 32} {s : State} (ha : answers s 0xB00400 = true) (hd : data.getLsbD 0 = true)
    (h0 : getF s Reg.LT_TRIG_CTL_EN 0 o.val = 0)
    (hbad : trigCfgOk (storeOthers s (0xB00400 + 0x20 * o.val) 0 o.val data.toNat) o.val = false) :
    ∃ t, exec (.triggerEnable o data) s = .next t ∧ getF t Reg.LT_TRIG_CTL_EN 0 o.val = 0 ∧
      getF t Reg.LT_TRIG_CTL_CFG_ERR 0 o.val = 1 ∧ t.trigs = s.trigs := by
  have hoff := trigStored_off h0 data.toNat
  have hmem : (Reg.LT_TRIG_CTL_CFG_ERR, o.val) ∈ fieldsAt (0xB00400 + 0x20 * o.val) :=
    (by decide +kernel : ∀ o : Fin 32, (Reg.LT_TRIG_CTL_CFG_ERR, o.val) ∈ fieldsAt (0xB00400 + 0x20 * o.val)) o
  refine ⟨evSet (setF (trigStored s o.val data.toNat) Reg.LT_TRIG_CTL_CFG_ERR 0 o.val 1) 232, ?_, ?_, ?_, ?_⟩
  · change execTriggerEnable o data s = _
    unfold execTriggerEnable
    simp only [ha, hd, hoff, hbad, Bool.not_true, Bool.true_eq_false, Bool.false_eq_true, if_false]
    rfl
  · rw [(evSet_low ..).getF _ (lowKey_unit o),
      getF_setF_other _ _ _ _ _ _ _ _ (by simp only [fldKey, Reg.LT_TRIG_CTL_EN, Reg.LT_TRIG_CTL_CFG_ERR]; omega), trigStored_en, h0]
  · rw [evSet_getF (by decide) hmem (by decide) (by decide), getF_setF_bit _ _ _ _ _ rfl]
  · exact ((evSet_frame ..).keeps .trigs (by decide)).trans ((trigStored_frame ..).keeps .trigs (by decide))

/-! ### Pulse requests (R90, R91) -/

/-- An output takes requests: line timing and the output are on. -/
def TrigOn (s : State) (o : Nat) : Prop := ltEn s = true ∧ bit s Reg.LT_TRIG_CTL_EN 0 o = true

/-- Its gate lets them pass. -/
def GateOpen (s : State) (o : Nat) : Prop :=
  bit s Reg.LT_TRIG_CTL_GATE_EN 0 o = false ∨ giOn s (getF s Reg.LT_TRIG_CTL_GATE_GI 0 o) = true

/-- The pulse of a request, in the output's shape. -/
def pulseBegun (s : State) (o : Nat) : State :=
  updTrig s o fun k => { k with busy := true, since := s.clk.fclk, delay := getF s Reg.LT_TRIG_SHAPE_DELAY 0 o / 4 * 4,
                                width := getF s Reg.LT_TRIG_SHAPE_WIDTH 0 o / 4 * 4 }

/-- What a request can do: nothing, count as merged, or begin a pulse. -/
theorem pulseRequest_cases (s : State) (o : Nat) : pulseRequest s o = s ∨
    ((trig s o).busy = true ∧ pulseRequest s o = addF s Reg.LT_TRIG_CNT_MERGED 0 o 1) ∨
    ((trig s o).busy = false ∧ pulseRequest s o = pulseBegun s o) := by
  unfold pulseRequest
  split
  · exact .inl rfl
  · split
    · exact .inl rfl
    · split
      · next hb => exact .inr (.inl ⟨hb, rfl⟩)
      · next hb => exact .inr (.inr ⟨by simpa using hb, rfl⟩)

theorem pulseRequest_passed {s : State} {o : Nat} (hon : TrigOn s o) (hgate : GateOpen s o) : pulseRequest s o =
    if (trig s o).busy then addF s Reg.LT_TRIG_CNT_MERGED 0 o 1 else pulseBegun s o := by
  obtain ⟨hlt, hen⟩ := hon
  have hopen : (bit s Reg.LT_TRIG_CTL_GATE_EN 0 o && !giOn s (getF s Reg.LT_TRIG_CTL_GATE_GI 0 o)) = false := by
    rcases hgate with h | h
    · simp only [h, Bool.false_and]
    · simp only [h, Bool.not_true, Bool.and_false]
  unfold pulseRequest
  simp only [hlt, hen, hopen, Bool.not_true, Bool.or_self, Bool.false_eq_true, if_false]
  rfl

theorem pulseRequest_gated {s : State} {o : Nat} (hg : bit s Reg.LT_TRIG_CTL_GATE_EN 0 o = true)
    (hi : giOn s (getF s Reg.LT_TRIG_CTL_GATE_GI 0 o) = false) : pulseRequest s o = s := by
  unfold pulseRequest
  simp only [hg, hi, Bool.not_false, Bool.and_self, if_true, ite_self]

/-- No request touches a pulse under way. -/
theorem pulseRequest_busyTrig {s : State} {o : Nat} (h : (trig s o).busy = true) (x : Nat) : trig (pulseRequest s x) o = trig s o := by
  rcases pulseRequest_cases s x with hs | ⟨-, hs⟩ | ⟨hb, hs⟩ <;> rw [hs]
  · exact (addF_frame ..).trig_eq o
  · unfold pulseBegun
    rw [trig_updTrig, if_neg]
    rintro rfl
    rw [h] at hb
    cases hb

theorem pulseRequest_timerAt (s : State) (o : Nat) : (trig (pulseRequest s o) o).timerAt = (trig s o).timerAt := by
  rcases pulseRequest_cases s o with hs | ⟨-, hs⟩ | ⟨-, hs⟩ <;> rw [hs]
  · rw [(addF_frame ..).trig_eq]
  · unfold pulseBegun
    rw [trig_updTrig_self]

theorem triggerFire_begins {o : Fin 32} {s : State} (hlt : ltEn s = true) (hen : bit s Reg.LT_TRIG_CTL_EN 0 o.val = true)
    (hgate : GateOpen s o.val) (hb : (trig s o.val).busy = false) :
    ∃ t, exec (.triggerFire o) s = .next t ∧ (trig t o.val).busy = true ∧ (trig t o.val).since = s.clk.fclk ∧
      (trig t o.val).delay = getF s Reg.LT_TRIG_SHAPE_DELAY 0 o.val / 4 * 4 ∧
      (trig t o.val).width = getF s Reg.LT_TRIG_SHAPE_WIDTH 0 o.val / 4 * 4 ∧ KeepsBut [.trigs] s t := by
  refine ⟨pulseRequest s o.val, rfl, ?_⟩
  rw [pulseRequest_passed ⟨hlt, hen⟩ hgate, hb]
  simp only [Bool.false_eq_true, if_false]
  unfold pulseBegun
  rw [trig_updTrig_self]
  exact ⟨rfl, rfl, rfl, rfl, (updTrig_frame ..).named⟩

theorem triggerFire_merges {o : Fin 32} {s : State} (hlt : ltEn s = true) (hen : bit s Reg.LT_TRIG_CTL_EN 0 o.val = true)
    (hgate : GateOpen s o.val) (hb : (trig s o.val).busy = true) :
    ∃ t, exec (.triggerFire o) s = .next t ∧ Counted Reg.LT_TRIG_CNT_MERGED 0 o.val 1 s t ∧
      RegsKeptBut [fldKey Reg.LT_TRIG_CNT_MERGED 0 o.val] s t ∧ KeepsBut [.regs] s t := by
  refine ⟨pulseRequest s o.val, rfl, ?_⟩
  rw [pulseRequest_passed ⟨hlt, hen⟩ hgate, hb]
  refine ⟨getF_addF_self s Reg.LT_TRIG_CNT_MERGED 0 o.val 1, fun f ch i hk => ?_, (addF_frame ..).named⟩
  exact getF_addF_other _ _ _ _ _ _ _ _ (by simpa using hk)

theorem triggerTimer_idle {o : Fin 32} {s : State} (h : getF s Reg.LT_TRIG_CTL_SRC 0 o.val ≠ 2 ∨ timerDue s o.val = false) :
    exec (.triggerTimer o) s = .next s := by
  change execTriggerTimer o s = _
  unfold execTriggerTimer
  rcases h with h | h
  · simp only [h, ne_eq, not_false_eq_true, decide_true, Bool.or_true, if_true]
  · simp only [h, Bool.false_eq_true, if_false, ite_self]

/-- The timer of an output moves on. -/
def timerMoved (s : State) (o : Nat) : State := updTrig s o fun k => { k with timerAt := timerNext s o }

theorem timerMoved_trig (s : State) (o : Nat) : trig (timerMoved s o) o = { trig s o with timerAt := timerNext s o } := trig_updTrig_self ..

theorem triggerTimer_requests {o : Fin 32} {s : State} (hlt : ltEn s = true) (hen : bit s Reg.LT_TRIG_CTL_EN 0 o.val = true)
    (hsrc : getF s Reg.LT_TRIG_CTL_SRC 0 o.val = 2) (hdue : timerDue s o.val = true) :
    ∃ t, exec (.triggerTimer o) s = .next t ∧ (trig t o.val).timerAt = timerNext s o.val ∧
      (GateOpen s o.val →
        (trig t o.val).busy = true ∧ ((trig s o.val).busy = true → Counted Reg.LT_TRIG_CNT_MERGED 0 o.val 1 s t)) ∧
      KeepsBut [.regs, .trigs] s t := by
  refine ⟨pulseRequest (timerMoved s o.val) o.val, ?_, ?_, fun hgate => ?_, ?_⟩
  · change execTriggerTimer o s = _
    unfold execTriggerTimer
    simp only [hlt, hen, hsrc, hdue, ne_eq, not_true_eq_false, decide_false, Bool.not_true, Bool.or_self, Bool.false_eq_true, if_false,
      if_true]
    rfl
  · rw [pulseRequest_timerAt, timerMoved_trig]
  · rw [pulseRequest_passed (s := timerMoved s o.val) ⟨hlt, hen⟩ hgate, timerMoved_trig]
    dsimp only
    split
    · next hb =>
      rw [(addF_frame ..).trig_eq, timerMoved_trig]
      exact ⟨hb, fun _ => getF_addF_self (timerMoved s o.val) Reg.LT_TRIG_CNT_MERGED 0 o.val 1⟩
    · next hb =>
      unfold pulseBegun
      rw [trig_updTrig_self]
      exact ⟨rfl, fun h => absurd h hb⟩
  · exact (Frame.step (pulseRequest_frame ..) (m := partMask [.regs, .trigs]) rfl (Frame.step (updTrig_frame ..) rfl (Frame.refl _))).named

/-! ### Pulses (R90, R95) -/

/-- The requests of one output's pulse leave every pulse under way, be it the output's own. -/
theorem requestAll_busyTrig {s : State} {o : Nat} (h : (trig s o).busy = true) (ts : List Nat) :
    trig (requestAll s ts) o = trig s o :=
  thread_keeps (P := fun y => trig y o = trig s o) ts (fun y x hy => (pulseRequest_busyTrig (by rw [hy]; exact h) x).trans hy) rfl

theorem drive_pin (s : State) (o : Fin 32) (on : Bool) : (drive s o.val on).pins.trigOut.getLsbD o.val = on :=
  (getLsbD_putBit s.pins.trigOut o.isLt on o.val).trans (if_pos rfl)

/-- The output has gone active and counts its pulse. -/
def pulseCounted (s : State) (o : Nat) : State := addF (updTrig s o fun k => { k with active := true }) Reg.LT_TRIG_CNT_PULSES 0 o 1

theorem pulseCounted_trig (s : State) (o : Nat) : trig (pulseCounted s o) o = { trig s o with active := true } := by
  unfold pulseCounted
  rw [(addF_frame ..).trig_eq, trig_updTrig_self]

/-- Its pin, its stamps and the uplinks that follow it, before its strobes request. -/
def pulseDriven (s : State) (o : Nat) : State := uplinkEdge (stampLinks (drive (pulseCounted s o) o true) o) o true

theorem pulseDriven_trig (s : State) (o : Nat) : trig (pulseDriven s o) o = { trig s o with active := true } := by
  unfold pulseDriven
  rw [(uplinkEdge_frame ..).trig_eq, (stampLinks_frame ..).trig_eq, (drive_frame ..).trig_eq, pulseCounted_trig]

theorem triggerPulseStart_drives {o : Fin 32} {s : State} (hb : (trig s o.val).busy = true) (ha : (trig s o.val).active = false)
    (hdue : (trig s o.val).since + (trig s o.val).delay ≤ s.clk.fclk) :
    ∃ t, exec (.triggerPulseStart o) s = .next t ∧ (trig t o.val).active = true ∧ (trig t o.val).busy = true ∧
      t.pins.trigOut.getLsbD o.val = true ∧ Counted Reg.LT_TRIG_CNT_PULSES 0 o.val 1 s t := by
  have hdriven := pulseDriven_trig s o.val
  refine ⟨requestAll (pulseDriven s o.val) (trigsOf s 3 o.val), ?_, ?_⟩
  · change execTriggerPulseStart o s = _
    unfold execTriggerPulseStart
    simp only [hb, ha, Nat.not_lt.2 hdue, Bool.not_true, decide_false, Bool.or_self, Bool.false_eq_true, if_false]
    rfl
  · rw [requestAll_busyTrig (by rw [hdriven]; exact hb), hdriven, (requestAll_frame ..).pins_eq]
    refine ⟨rfl, hb, ?_, ?_⟩
    · unfold pulseDriven
      rw [(uplinkEdge_frame ..).pins_eq, (stampLinks_frame ..).pins_eq, drive_pin]
    · unfold Counted
      rw [(requestAll_low ..).getF _ (lowKey_unit o)]
      unfold pulseDriven
      rw [(uplinkEdge_low ..).getF _ (lowKey_unit o), getF_congr (stampLinks_frame ..).regs_eq, getF_congr (drive_frame ..).regs_eq]
      exact getF_addF_self (updTrig s o.val fun k => { k with active := true }) Reg.LT_TRIG_CNT_PULSES 0 o.val 1

theorem triggerPulseEnd_drives {o : Fin 32} {s : State} (ha : (trig s o.val).active = true)
    (hdue : (trig s o.val).since + (trig s o.val).delay + (trig s o.val).width ≤ s.clk.fclk) :
    ∃ t, exec (.triggerPulseEnd o) s = .next t ∧ (trig t o.val).active = false ∧ (trig t o.val).busy = false ∧
      t.pins.trigOut.getLsbD o.val = false := by
  refine ⟨uplinkEdge (drive (updTrig s o.val fun k => { k with active := false, busy := false }) o.val false) o.val false, ?_, ?_⟩
  · change execTriggerPulseEnd o s = _
    unfold execTriggerPulseEnd
    simp only [ha, Nat.not_lt.2 hdue, Bool.not_true, decide_false, Bool.or_self, Bool.false_eq_true, if_false]
  · rw [(uplinkEdge_frame ..).trig_eq, (uplinkEdge_frame ..).pins_eq, (drive_frame ..).trig_eq, trig_updTrig_self]
    exact ⟨rfl, rfl, drive_pin ..⟩

end Sys2Proof.Machine
end

section
/-! PROOFS. General inputs and the time base: the rest of `TriggersInputsAndTimeBase`, and the statement. -/

namespace Sys2Proof.Machine

set_option Elab.async false

/-! ### A filtered edge (R92, R96) -/

/-- An edge is timed; its event, its requests and the strips and welds it marks leave line timing's low fields. -/
theorem giEdge_low (s : State) (g : Nat) (on : Bool) : LowKept (setF s Reg.LT_GI_TIME 0 g (nowNs s)) (giEdge s g on) := by
  unfold giEdge
  dsimp only
  have hrequested : ∀ (y : State) (c : Bool) (ts : List Nat),
      LowKept y (requestAll (if c then ltEvent y 0x27 g [b2n on] else y) ts) := fun y c ts =>
    (requestAll_low ..).after (.ite (ltEvent_low ..) (.refl y))
  split
  · exact .after (.thread _ fun y x _ => .frame (weldSeam_frame ..) (.refl y)) (hrequested ..)
  · exact .after (.thread _ fun y e _ => endOfStrip_low ..) (hrequested ..)

theorem giEdge_time (s : State) (g : Fin 16) (on : Bool) : getF (giEdge s g.val on) Reg.LT_GI_TIME 0 g.val = nowNs s := by
  rw [(giEdge_low ..).getF _ (lowKey_unit g), getF_setF_self]
  exact Nat.mod_mod (s.clk.tb / 2 ^ 28) (2 ^ 64)

theorem giEdge_filt (s : State) (g : Fin 16) (on : Bool) :
    getF (giEdge s g.val on) Reg.LT_GI_CTL_FILT 0 g.val = getF s Reg.LT_GI_CTL_FILT 0 g.val := by
  rw [(giEdge_low ..).getF _ (lowKey_unit g)]
  exact getF_setF_other _ _ _ _ _ _ _ _ (by simp only [fldKey, Reg.LT_GI_TIME, Reg.LT_GI_CTL_FILT]; omega)

/-! ### The filter of a general input (R92) -/

/-- The level of a pin has been held for its filter's time. -/
def GiHeld (s : State) (g : Nat) : Prop := mget 0 s.giFrom g + 1000 * getF s Reg.LT_GI_CTL_FILT 0 g ≤ s.clk.fclk

/-- The input's level is that of its pin. -/
def giTaken (s : State) (g : Nat) : State :=
  put_giLevel s (if s.pins.giPins.getLsbD g then s.giLevel ||| BitVec.ofNat 16 (2 ^ g) else s.giLevel &&& ~~~BitVec.ofNat 16 (2 ^ g))

theorem giTaken_level (s : State) (g : Fin 16) (h : Nat) : (giTaken s g.val).giLevel.getLsbD h =
    if h = g.val then s.pins.giPins.getLsbD g.val else s.giLevel.getLsbD h := getLsbD_putBit s.giLevel g.isLt (s.pins.giPins.getLsbD g.val) h

theorem giFilter_settled {s : State} {g : Nat} (h : s.pins.giPins.getLsbD g = s.giLevel.getLsbD g) : giFilter s g = s := by
  unfold giFilter
  simp only [h, decide_true, Bool.true_or, if_true]

theorem giFilter_waits {s : State} {g : Nat} (h : ¬GiHeld s g) : giFilter s g = s := by
  have hlt := Nat.lt_of_not_le h
  unfold giFilter
  simp only [hlt, decide_true, Bool.or_true, if_true]

theorem giFilter_takes {s : State} {g : Nat} (hnew : s.pins.giPins.getLsbD g ≠ s.giLevel.getLsbD g) (h : GiHeld s g) : giFilter s g =
    if ltEn s && bit s Reg.LT_GI_CTL_EN 0 g then giEdge (giTaken s g) g (giOn (giTaken s g) g) else giTaken s g := by
  have hle := Nat.not_lt.2 h
  unfold giFilter
  simp only [hnew, hle, decide_false, Bool.or_self, Bool.false_eq_true, if_false]
  rfl

theorem giEdge_level (s : State) (g : Nat) (on : Bool) : (giEdge s g on).giLevel = s.giLevel :=
  (giEdge_frame ..).keeps .giLevel (by decide)

/-- A filter changes no other input's level. -/
theorem giFilter_others (s : State) (g : Fin 16) {h : Nat} (hne : h ≠ g.val) :
    (giFilter s g.val).giLevel.getLsbD h = s.giLevel.getLsbD h := by
  by_cases hnew : s.pins.giPins.getLsbD g.val = s.giLevel.getLsbD g.val
  · rw [giFilter_settled hnew]
  · by_cases hheld : GiHeld s g.val
    · rw [giFilter_takes hnew hheld, apply_ite State.giLevel, giEdge_level, ite_self, giTaken_level, if_neg hne]
    · rw [giFilter_waits hheld]

/-- What has been held is the level. -/
theorem giFilter_level {s : State} {g : Fin 16} (h : GiHeld s g.val) :
    (giFilter s g.val).giLevel.getLsbD g.val = s.pins.giPins.getLsbD g.val := by
  by_cases hnew : s.pins.giPins.getLsbD g.val = s.giLevel.getLsbD g.val
  · rw [giFilter_settled hnew, hnew]
  · rw [giFilter_takes hnew h, apply_ite State.giLevel, giEdge_level, ite_self, giTaken_level, if_pos rfl]

/-- And its edge is timed while the input is on. -/
theorem giFilter_time {s : State} {g : Fin 16} (hnew : s.pins.giPins.getLsbD g.val ≠ s.giLevel.getLsbD g.val) (h : GiHeld s g.val)
    (hlt : ltEn s = true) (hen : bit s Reg.LT_GI_CTL_EN 0 g.val = true) :
    getF (giFilter s g.val) Reg.LT_GI_TIME 0 g.val = nowNs s := by
  rw [giFilter_takes hnew h, hlt, hen]
  exact giEdge_time (giTaken s g.val) g _

theorem giFilter_filt (s : State) (g : Fin 16) :
    getF (giFilter s g.val) Reg.LT_GI_CTL_FILT 0 g.val = getF s Reg.LT_GI_CTL_FILT 0 g.val := by
  by_cases hnew : s.pins.giPins.getLsbD g.val = s.giLevel.getLsbD g.val
  · rw [giFilter_settled hnew]
  · by_cases hheld : GiHeld s g.val
    · rw [giFilter_takes hnew hheld]
      split
      · exact giEdge_filt (giTaken s g.val) g _
      · rfl
    · rw [giFilter_waits hheld]

/-! ### GENERAL_INPUT_EDGE (R92) -/

theorem giSample_same {s : State} {g : Nat} {pin : Bool} (h : s.pins.giPins.getLsbD g = pin) : giSample s g pin = s := by
  unfold giSample
  simp only [h, if_true]

theorem giSample_pins (s : State) (g : Fin 16) (pin : Bool) (h : Nat) :
    (giSample s g.val pin).pins.giPins.getLsbD h = if h = g.val then pin else s.pins.giPins.getLsbD h := by
  by_cases hs : s.pins.giPins.getLsbD g.val = pin
  · rw [giSample_same hs]
    split
    · next he => rw [he, hs]
    · rfl
  · unfold giSample
    rw [if_neg hs]
    exact getLsbD_putBit s.pins.giPins g.isLt pin h

/-- A pin that changes has stood at its level from now on. -/
theorem giSample_from {s : State} {g : Nat} {pin : Bool} (h : s.pins.giPins.getLsbD g ≠ pin) :
    mget 0 (giSample s g pin).giFrom g = s.clk.fclk := by
  unfold giSample
  rw [if_neg h]
  exact mget_mset_self ..

/-- Beside its pin and the cycle from which that stands, nothing of the state is changed. -/
theorem giSample_rest (s : State) (g : Nat) (pin : Bool) : (giSample s g pin).giLevel = s.giLevel ∧ (giSample s g pin).clk = s.clk ∧
    (giSample s g pin).regs = s.regs ∧ (giSample s g pin).boot = s.boot := by
  have hfr := giSample_frame s g pin
  exact ⟨hfr.keeps .giLevel (by decide), hfr.clk_eq, hfr.regs_eq, hfr.keeps .boot (by decide)⟩

/-- A new pin of an input without a filter time is held at once. -/
theorem giSample_held {s : State} {g : Nat} {pin : Bool} (h : s.pins.giPins.getLsbD g ≠ pin) (hF : getF s Reg.LT_GI_CTL_FILT 0 g = 0) :
    GiHeld (giSample s g pin) g := by
  obtain ⟨-, hclk, hregs, -⟩ := giSample_rest s g pin
  unfold GiHeld
  rw [giSample_from h, getF_congr hregs, hF, hclk]
  exact Nat.le_refl _

/-- The level of the input has been held with its pin, or needs no time. -/
def GiDue (s : State) (g : Nat) (pin : Bool) : Prop :=
  (s.pins.giPins.getLsbD g = pin ∧ GiHeld s g) ∨ (getF s Reg.LT_GI_CTL_FILT 0 g = 0 ∧ s.pins.giPins.getLsbD g ≠ pin)

/-- The state that GENERAL_INPUT_EDGE leaves. -/
def giEdged (s : State) (g : Nat) (pin : Bool) : State := giFilter (giSample (giFilter s g) g pin) g

theorem giFilter_pins (s : State) (g : Nat) : (giFilter s g).pins = s.pins := (giFilter_frame ..).pins_eq

theorem giEdged_pins (s : State) (g : Fin 16) (pin : Bool) (h : Nat) :
    (giEdged s g.val pin).pins.giPins.getLsbD h = if h = g.val then pin else s.pins.giPins.getLsbD h := by
  unfold giEdged
  rw [giFilter_pins, giSample_pins, giFilter_pins]

theorem giEdged_others (s : State) (g : Fin 16) (pin : Bool) {h : Nat} (hne : h ≠ g.val) :
    (giEdged s g.val pin).giLevel.getLsbD h = s.giLevel.getLsbD h := by
  unfold giEdged
  rw [giFilter_others _ g hne, (giSample_rest ..).1, giFilter_others _ g hne]

/-- A pin that stays has had its turn in the first filter. -/
theorem giEdged_same {s : State} {g : Fin 16} {pin : Bool} (hpin : s.pins.giPins.getLsbD g.val = pin) (h : GiHeld s g.val) :
    giEdged s g.val pin = giFilter s g.val := by
  unfold giEdged
  rw [giSample_same (by rw [giFilter_pins]; exact hpin)]
  exact giFilter_settled (by rw [giFilter_pins, giFilter_level h])

theorem giEdged_level {s : State} {g : Fin 16} {pin : Bool} (h : GiDue s g.val pin) : (giEdged s g.val pin).giLevel.getLsbD g.val = pin := by
  rcases h with ⟨hpin, hheld⟩ | ⟨hF, hpin⟩
  · rw [giEdged_same hpin hheld, giFilter_level hheld, hpin]
  · have hheld : GiHeld (giSample (giFilter s g.val) g.val pin) g.val :=
      giSample_held (by rw [giFilter_pins]; exact hpin) (by rw [giFilter_filt]; exact hF)
    unfold giEdged
    rw [giFilter_level hheld, giSample_pins, if_pos rfl]

theorem giEdged_time {s : State} {g : Fin 16} {pin : Bool} (h : GiDue s g.val pin) (hnew : s.giLevel.getLsbD g.val ≠ pin)
    (hlt : ltEn s = true) (hen : bit s Reg.LT_GI_CTL_EN 0 g.val = true) :
    getF (giEdged s g.val pin) Reg.LT_GI_TIME 0 g.val = nowNs s := by
  rcases h with ⟨hpin, hheld⟩ | ⟨hF, hpin⟩
  · rw [giEdged_same hpin hheld]
    exact giFilter_time (by rw [hpin]; exact hnew.symm) hheld hlt hen
  · have hsettled : s.pins.giPins.getLsbD g.val = s.giLevel.getLsbD g.val := (Bool.eq_not.2 hpin).trans (Bool.eq_not.2 hnew).symm
    obtain ⟨hlevel, hclk, hregs, hboot⟩ := giSample_rest s g.val pin
    have hhold : (giSample s g.val pin).pins.hold = s.pins.hold := by
      unfold giSample
      rw [if_neg hpin]
      rfl
    unfold giEdged
    rw [giFilter_settled hsettled, giFilter_time]
    · unfold nowNs
      rw [hclk]
    · rw [giSample_pins, if_pos rfl, hlevel]
      exact hnew.symm
    · exact giSample_held hpin hF
    · rw [← hlt]
      unfold ltEn gated ready bit
      rw [hboot, hhold, getF_congr hregs, getF_congr hregs]
    · rw [← hen]
      unfold bit
      rw [getF_congr hregs]

theorem giEdged_waits {s : State} {g : Fin 16} {pin : Bool} (hsettled : s.pins.giPins.getLsbD g.val = s.giLevel.getLsbD g.val)
    (hpin : s.pins.giPins.getLsbD g.val ≠ pin) (hF : 0 < getF s Reg.LT_GI_CTL_FILT 0 g.val) :
    giEdged s g.val pin = giSample s g.val pin := by
  obtain ⟨-, hclk, hregs, -⟩ := giSample_rest s g.val pin
  unfold giEdged
  rw [giFilter_settled hsettled]
  refine giFilter_waits ?_
  unfold GiHeld
  rw [giSample_from hpin, getF_congr hregs, hclk]
  omega

theorem generalInputEdge_filters (g : Fin 16) (pin : Bool) (s : State) :
    ∃ t, exec (.generalInputEdge g pin) s = .next t ∧ t.pins.giPins.getLsbD g.val = pin ∧
      (∀ h : Fin 16, h ≠ g → t.giLevel.getLsbD h.val = s.giLevel.getLsbD h.val ∧
        t.pins.giPins.getLsbD h.val = s.pins.giPins.getLsbD h.val) ∧
      (GiDue s g.val pin → t.giLevel.getLsbD g.val = pin ∧
        (s.giLevel.getLsbD g.val ≠ pin → ltEn s = true → bit s Reg.LT_GI_CTL_EN 0 g.val = true →
          getF t Reg.LT_GI_TIME 0 g.val = nowNs s)) ∧
      (s.pins.giPins.getLsbD g.val = s.giLevel.getLsbD g.val → s.pins.giPins.getLsbD g.val ≠ pin →
          0 < getF s Reg.LT_GI_CTL_FILT 0 g.val →
        t.giLevel = s.giLevel ∧ mget 0 t.giFrom g.val = s.clk.fclk ∧ KeepsBut [.pins, .giFrom] s t) := by
  refine ⟨giEdged s g.val pin, rfl, ?_, fun h hne => ?_, fun hdue => ⟨giEdged_level hdue, giEdged_time hdue⟩, fun hsettled hpin hF => ?_⟩
  · rw [giEdged_pins, if_pos rfl]
  · have hne : h.val ≠ g.val := fun he => hne (Fin.ext he)
    exact ⟨giEdged_others s g pin hne, by rw [giEdged_pins, if_neg hne]⟩
  · rw [giEdged_waits hsettled hpin hF]
    exact ⟨(giSample_rest ..).1, giSample_from hpin, (giSample_frame ..).named⟩

/-! ### The time base (R94) -/

/-- The aligned timers go on from the value of a time step (R89). -/
def timersStepped (s : State) (value : Nat) : State :=
  thread (fun (y : State) (o : Nat) =>
    if getF s Reg.LT_TRIG_CTL_SRC 0 o = 2 && bit s Reg.LT_TRIG_CTL_ALIGN 0 o then
      updTrig y o fun k => { k with timerAt := multipleFrom s o value } else y) s (upto 32)

theorem timersStepped_frame (s : State) (value : Nat) : Frame (partMask [.trigs]) s (timersStepped s value) := by
  unfold timersStepped
  exact Frame.thread (fun y o hy => Frame.ite (Frame.step (updTrig_frame ..) rfl hy) hy) (Frame.refl _)

theorem timeStep_steps {value : Word} {s : State} (ha : answers s 0xB00A08 = true) :
    ∃ t, exec (.timeStep value) s = .next t ∧ nowNs t = value.toNat ∧ t.clk.slew = 0 ∧ t.clk.fclk = s.clk.fclk := by
  have hclk := (timersStepped_frame s value.toNat).clk_eq
  refine ⟨ltEvent (updClk (timersStepped s value.toNat) fun k => { k with tb := value.toNat * 2 ^ 28, slew := 0 }) 0x28 0
    [nowNs s, value.toNat], ?_, ?_⟩
  · change execTimeStep value s = _
    unfold execTimeStep
    simp only [ha, Bool.not_true, Bool.false_eq_true, if_false]
    rfl
  · unfold nowNs
    rw [(ltEvent_frame ..).clk_eq]
    refine ⟨?_, rfl, (congrArg Clocks.fclk hclk :)⟩
    change value.toNat * 2 ^ 28 / 2 ^ 28 % 2 ^ 64 = value.toNat
    rw [Nat.mul_div_cancel _ (by decide), Nat.mod_eq_of_lt value.isLt]

theorem timeAdjust_replaces {value : BitVec 32} {s : State} (ha : answers s 0xB00A18 = true) :
    ∃ t, exec (.timeAdjust value) s = .next t ∧ t.clk.slew = value.toInt * 2 ^ 28 ∧ nowNs t = nowNs s ∧ KeepsBut [.clk] s t := by
  refine ⟨updClk s fun k => { k with slew := value.toInt * 2 ^ 28 }, ?_, rfl, rfl, (updClk_frame ..).named⟩
  change execTimeAdjust value s = _
  unfold execTimeAdjust
  simp only [ha, Bool.not_true, Bool.false_eq_true, if_false]

end Sys2Proof.Machine

open Sys2Proof Sys2Proof.Machine

set_option Elab.async false

/-- Settles O18: each clause is what its command does, shown above; what an edge brings about beside leaves the fields the clauses speak of. -/
theorem triggersInputsAndTimeBase : Obligations.TriggersInputsAndTimeBase := by
  unfold Obligations.TriggersInputsAndTimeBase
  refine ⟨⟨?_, ?_, ?_, ?_, ?_, ?_, ?_, ?_, ?_, ?_⟩, ?_, ?_, ?_⟩
  · exact fun _ _ _ => triggerEnable_enables
  · exact fun _ _ _ => triggerEnable_disables
  · exact fun _ _ _ => triggerEnable_refuses
  · exact fun _ _ => triggerFire_begins
  · exact fun _ _ => triggerFire_merges
  · exact fun _ _ hg hi => congrArg Host.Outcome.next (pulseRequest_gated hg hi)
  · exact fun _ _ => triggerTimer_idle
  · exact fun _ _ => triggerTimer_requests
  · exact fun _ _ => triggerPulseStart_drives
  · exact fun _ _ => triggerPulseEnd_drives
  · exact generalInputEdge_filters
  · exact fun _ _ => timeStep_steps
  · exact fun _ _ => timeAdjust_replaces

end

section
/-! PROOFS. The issue of a bundle with one operation: the checks it has passed, and what it leaves behind its operation's effect. -/

namespace Sys2Proof.Machine

set_option Elab.async false

/-! ### What a passed check says (R160, R187) -/

theorem firstBad_ok {l : List Chk} (h : firstBad l = .ok) : ∀ x ∈ l, x = .ok := by
  induction l with
  | nil => intro x hx; cases hx
  | cons y l ih =>
    cases y with
    | ok => exact List.forall_mem_cons.2 ⟨rfl, ih h⟩
    | exc _ _ => cases h
    | wait _ _ => cases h
    | stall _ _ => cases h

theorem judge_ok {l : List Chk} (h : judge l = .ok) : ∀ x ∈ l, x = .ok := by
  unfold judge at h
  split at h
  · next x hx =>
    subst h
    cases List.find?_some hx
  · split at h
    · next x hx =>
      subst h
      cases List.find?_some hx
    · exact firstBad_ok h

theorem raiseIf_ok {b : Bool} {c : Nat} (h : raiseIf b c = .ok) : b = false := by
  cases b with
  | false => rfl
  | true => cases h

/-- Every slot of a bundle that may issue is legal, not barred, and passes its own check. -/
theorem bundleCheck_ok {s : State} {l : Lane} {f : Flow} {b next : BitVec 128} {ops : List SlotOp} {o : SlotOp}
    (hd : decodeBundle b = some ops) (ho : o ∈ ops) (h : bundleCheck s l f b next = .ok) :
    slotLegal o = true ∧ slotCheck s l ops next o = .ok ∧ (f.inSlot = true → barredInSlot [o] = false) := by
  obtain ⟨i, hi, rfl⟩ := List.mem_iff_getElem.1 ho
  unfold bundleCheck at h
  rw [hd] at h
  have hslot := judge_ok h _ (List.mem_map.2 ⟨(ops[i], i), by simp [List.mk_mem_zipIdx_iff_getElem?], rfl⟩)
  dsimp only at hslot
  split at hslot
  · cases hslot
  · next hbar =>
    refine ⟨?_, hslot, fun hin => ?_⟩
    · unfold slotCheck at hslot
      split at hslot
      · cases hslot
      · next hl => simpa using hl
    · unfold slotBarred at hbar
      simp only [hin, Bool.true_and, Bool.or_eq_true, not_or, Bool.not_eq_true] at hbar
      exact hbar.1

/-! ### Slots that hold no operation -/

theorem slotEffect_nop (s0 : State) (l : Lane) (upset : List Nat) (s : State) {o : SlotOp} (h : o.op = 0) :
    slotEffect s0 l upset s o = s := by
  unfold slotEffect
  cases o.kind with
  | s => simp [sEffect, h]
  | a => simp [aEffect, h]
  | v => simp [vEffect, h]
  | m => simp [mEffect, h]
  | c => simp [cEffect, h]
  | l => simp [lEffect, h]

theorem rowOfOp_nop {o : SlotOp} (h : o.op = 0) : rowOfOp o = none := by
  unfold rowOfOp
  cases o.kind <;> simp [h]

/-- Among slots of which one holds an operation, a fold that passes over the others meets that one alone. -/
theorem foldl_only {α β : Type} {p : α → Bool} {g : β → α → β} {o : α} (hg : ∀ y x, p x = false → g y x = y) (ops : List α) (b : β)
    (h : ops.filter p = [o]) : ops.foldl g b = g b o := by
  have hfold : ∀ (ops : List α) b, ops.foldl g b = (ops.filter p).foldl g b := by
    intro ops
    induction ops with
    | nil => intro b; rfl
    | cons x ops ih =>
      intro b
      cases hx : p x with
      | false => rw [List.foldl_cons, hg _ _ hx, List.filter_cons_of_neg (by simp [hx])]; exact ih b
      | true => rw [List.filter_cons_of_pos hx]; exact ih (g b x)
  rw [hfold, h]
  rfl

theorem flatMap_only {α β : Type} {p : α → Bool} {g : α → List β} {o : α} (hg : ∀ x, p x = false → g x = []) (ops : List α)
    (h : ops.filter p = [o]) : ops.flatMap g = g o := by
  have hflat : ops.flatMap g = (ops.filter p).flatMap g := by
    clear h
    induction ops with
    | nil => rfl
    | cons x ops ih =>
      cases hx : p x with
      | false => rw [List.flatMap_cons, hg _ hx, List.nil_append, List.filter_cons_of_neg (by simp [hx]), ih]
      | true => rw [List.filter_cons_of_pos hx, List.flatMap_cons, List.flatMap_cons, ih]
  rw [hflat, h, List.flatMap_singleton]

theorem find?_only {α : Type} {p q : α → Bool} {o : α} (hq : ∀ x, p x = false → q x = false) (ops : List α)
    (h : ops.filter p = [o]) : ops.find? q = if q o then some o else none := by
  have hfind : ops.find? q = (ops.filter p).find? q := by
    rw [List.find?_filter]
    refine congrArg (ops.find? ·) (funext fun x => ?_)
    cases hx : p x with
    | false => simp [hq x hx]
    | true => simp
  rw [hfind, h, List.find?_singleton]

/-! ### The bundle of one operation -/

/-- The scratchpad ranges that an operation's accesses are judged by (R286). -/
def judgedRanges (s : State) (l : Lane) (o : SlotOp) : List (Nat × Nat × Bool) :=
  if o.kind = .m then mRanges s l o else if o.kind = .c && o.op = 0x0B then emitRanges s l o else []

/-- The task's context once its bundle has issued. -/
def ctxBehind (l : Lane) (f : Flow) (o : SlotOp) (k : Ctx) : Ctx :=
  { k with flow := (flowAfter l f (asC o)).1, lastPc := l.r.pc, loadHeld := false,
           regs := { k.regs with pc := (flowAfter l f (asC o)).2 } }

/-- The task goes on, and its bundle is counted. -/
def wentOn (l : Lane) (f : Flow) (o : SlotOp) (x : State) : State :=
  cntT (updCtx x l.t l.c (ctxBehind l f o)) Reg.TA_CNT_BUNDLES l.t 1

/-- What a bundle's C-slot operation does to the predictor, the loop buffer and the tile's issue. -/
def controlled (l : Lane) (o : SlotOp) (x : State) : State :=
  match asC o with
  | none => x
  | some o =>
    let y := if o.op = 0x0E then dropLoop x l.t else predict x l o
    if o.op = 0x0F then leaveTile y l fun k => { k with state := .waiting, wait := 0, waitFor := .none } else y

/-- The accesses of an operation are judged. -/
def accessesJudged (s : State) (l : Lane) (o : SlotOp) (x : State) : State :=
  match jobOf x l.job with
  | some j => if (judgedRanges s l o).isEmpty then x else slotJudge x l.t l.job (placeReport x j 0x09) (judgedRanges s l o)
  | none => x

/-- What a bundle leaves behind the effect of its operation. -/
def behind (s : State) (l : Lane) (f : Flow) (o : SlotOp) (x : State) : State :=
  debugStop (accessesJudged s l o (controlled l o (wentOn l f o x))) l.t l.c

theorem cSlot_only {ops : List SlotOp} {o : SlotOp} (h : ops.filter (fun x => x.op ≠ 0) = [o]) : cSlot ops = asC o := by
  have ho : o.op ≠ 0 := by
    have : o ∈ ops.filter (fun x => x.op ≠ 0) := h ▸ List.mem_singleton_self o
    simpa using (List.mem_filter.1 this).2
  unfold cSlot asC
  rw [find?_only (p := fun x => x.op ≠ 0) (fun x hx => by simp_all) ops h]
  simp [ho]

theorem laneCommit_only {s : State} {l : Lane} {f : Flow} {b : BitVec 128} {upset : List Nat} {ops : List SlotOp} {o : SlotOp}
    (hd : decodeBundle b = some ops) (h : ops.filter (fun x => x.op ≠ 0) = [o]) : laneCommit s l f b upset =
      behind s l f o (slotEffect s l upset s o) := by
  have hfold : ops.foldl (slotEffect s l upset) s = slotEffect s l upset s o :=
    foldl_only (p := fun x => x.op ≠ 0) (fun y x hx => slotEffect_nop _ _ _ _ (by simpa using hx)) ops s h
  have hranges : (ops.flatMap fun o => if o.kind = .m then mRanges s l o
      else if o.kind = .c && o.op = 0x0B then emitRanges s l o else []) = judgedRanges s l o :=
    flatMap_only (p := fun x => x.op ≠ 0) (fun x hx => by
      have hx : x.op = 0 := by simpa using hx
      simp [mRanges, hx]) ops h
  have hwent : cntT (updCtx (slotEffect s l upset s o) l.t l.c fun k =>
      { k with flow := (flowAfter l f (asC o)).1, lastPc := l.r.pc, loadHeld := false,
               regs := { k.regs with pc := (flowAfter l f (asC o)).2 } }) Reg.TA_CNT_BUNDLES l.t 1 =
      wentOn l f o (slotEffect s l upset s o) := rfl
  unfold laneCommit
  rw [hd]
  dsimp only
  rw [hfold, hranges, cSlot_only h, hwent]
  unfold behind controlled
  cases asC o <;> rfl

section
variable {row : LaneRow} {t : Fin 256} {b next : BitVec 128} {l : Lane} {f : Flow} {o : SlotOp} {s : State}

/-- The bundle's slots, and the one among them that holds its operation. -/
theorem Issues.decoded (h : Issues row t b next l f o s) :
    ∃ ops, decodeBundle b = some ops ∧ ops.filter (fun x => x.op ≠ 0) = [o] ∧ o ∈ ops := by
  obtain ⟨-, hd, -⟩ := h
  obtain ⟨ops, hd, hf⟩ := Option.map_eq_some_iff.1 hd
  exact ⟨ops, hd, hf, (List.mem_filter.1 (hf ▸ List.mem_singleton_self o)).1⟩

theorem Issues.ofRow (h : Issues row t b next l f o s) : rowOfOp o = some row := h.2.2.1

theorem Issues.passes (h : Issues row t b next l f o s) :
    slotLegal o = true ∧ (f.inSlot = true → barredInSlot [o] = false) ∧
      ∃ ops, slotCheck s l ops next o = .ok := by
  obtain ⟨ops, hd, -, ho⟩ := h.decoded
  obtain ⟨-, -, -, -, -, hok⟩ := h
  obtain ⟨hlegal, hcheck, hbar⟩ := bundleCheck_ok hd ho hok
  exact ⟨hlegal, hbar, ops, hcheck⟩

theorem Issues.taken (h : Issues row t b next l f o s) : rowTakes row b = true := by
  obtain ⟨ops, hd, hf, ho⟩ := h.decoded
  obtain ⟨-, -, hrow, -⟩ := h
  have hrpt : row = .rpt ∨ ∀ x ∈ ops, rowOfOp x ≠ some .rpt := by
    by_cases hr : row = .rpt
    · exact .inl hr
    · refine .inr fun x hx hxr => ?_
      have hx0 : x.op ≠ 0 := fun h0 => by rw [rowOfOp_nop h0] at hxr; cases hxr
      have hxo : x ∈ ops.filter (fun x => x.op ≠ 0) := List.mem_filter.2 ⟨hx, by simpa using hx0⟩
      rw [hf, List.mem_singleton] at hxo
      rw [hxo, hrow] at hxr
      exact hr (Option.some.inj hxr)
  unfold rowTakes
  rw [hd]
  have hany : ops.any (fun x => decide (rowOfOp x = some row)) = true := List.any_eq_true.2 ⟨o, ho, by simp [hrow]⟩
  have hno : (decide (row = .rpt) || !ops.any fun x => decide (rowOfOp x = some .rpt)) = true := by
    rcases hrpt with hr | hr
    · simp [hr]
    · simpa [List.any_eq_false] using .inr hr
  simp only [hany, hno, Bool.and_self, Bool.true_or]

/-- A bundle of one operation that passes its checks issues. -/
theorem Issues.commits (h : Issues row t b next l f o s) (upset : List Nat) : laneIssue row t.val b next upset s =
    behind s l f o (slotEffect s l upset s o) := by
  obtain ⟨ops, hd, hf, -⟩ := h.decoded
  have htakes := h.taken
  obtain ⟨hat, -, -, hfetch, hmiss, hok⟩ := h
  unfold laneIssue
  rw [hat]
  simp only [htakes, hfetch, hmiss, hok, Bool.not_true, Bool.false_eq_true, if_false]
  exact laneCommit_only hd hf

/-- The task as its bundle sees it: its registers, and its job, which is in the list. -/
theorem laneAt_task (h : laneAt s t.val = some (l, f)) : l.t = t.val ∧ (tile s l.t).running = some l.c ∧
    (ctxOf s l.t l.c).regs = l.r ∧ (ctxOf s l.t l.c).state = .running ∧ ∃ j, jobOf s l.job = some j := by
  unfold laneAt at h
  split at h
  · cases h
  · next c hc =>
    split at h
    · cases h
    · next j hj =>
      dsimp only at h
      split at h
      · next hrun =>
        cases h
        obtain ⟨i, -, hi⟩ := Option.bind_eq_some_iff.1 hj
        rw [← jobOf_id hi] at hi
        simp only [Bool.and_eq_true, decide_eq_true_eq] at hrun
        exact ⟨rfl, hc, rfl, hrun.1.1, j, hi⟩
      · cases h

end

end Sys2Proof.Machine
end

section
/-! PROOFS. A task behind its bundle: what is left of it, of the tile's other tasks, and of the tile's queues, handles and caches. -/

namespace Sys2Proof.Machine

set_option Elab.async false

/-! ### Contexts and tiles after an update -/

theorem Frame.tiles_eq {m : Nat} {s t : State} (h : Frame m s t) (hm : m.testBit Part.tiles.ctorIdx = false := by decide) :
    t.tiles = s.tiles := h.keeps .tiles hm

theorem Frame.jobs_eq {m : Nat} {s t : State} (h : Frame m s t) (hm : m.testBit Part.jobs.ctorIdx = false := by decide) :
    t.jobs = s.jobs := h.keeps .jobs hm

theorem ctxOf_congr {s t : State} {u : Nat} (h : (tile t u).ctxs = (tile s u).ctxs) (c : Nat) : ctxOf t u c = ctxOf s u c := by
  unfold ctxOf
  rw [h]

theorem ctxOf_updCtx_other (s : State) (t : Nat) {c d : Nat} (f : Ctx → Ctx) (h : d ≠ c) : ctxOf (updCtx s t c f) t d = ctxOf s t d := by
  unfold ctxOf updCtx
  rw [tile_updTile_self]
  exact mget_mupd_ne _ _ _ h

/-- The registers, the flow and the last `pc` of the task stand; so do the tile's other tasks, every other tile, and what `TileKept` names. -/
structure TaskKept (l : Lane) (s t : State) : Prop where
  regs : (ctxOf t l.t l.c).regs = (ctxOf s l.t l.c).regs
  flow : (ctxOf t l.t l.c).flow = (ctxOf s l.t l.c).flow
  lastPc : (ctxOf t l.t l.c).lastPc = (ctxOf s l.t l.c).lastPc
  others : OthersKept l s t
  tile : TileKept l s t

theorem OthersKept.trans {l : Lane} {s x t : State} (h : OthersKept l s x) (h' : OthersKept l x t) : OthersKept l s t :=
  ⟨fun c hc => (h'.1 c hc).trans (h.1 c hc), fun u hu => (h'.2 u hu).trans (h.2 u hu)⟩

theorem TileKept.trans {l : Lane} {s x t : State} (h : TileKept l s x) (h' : TileKept l x t) : TileKept l s t := by
  obtain ⟨hsb, hmxq, hhandles, hcbs, hicache⟩ := h
  obtain ⟨hsb', hmxq', hhandles', hcbs', hicache'⟩ := h'
  exact ⟨hsb'.trans hsb, hmxq'.trans hmxq, hhandles'.trans hhandles, hcbs'.trans hcbs, hicache'.trans hicache⟩

theorem othersKept_updCtx (l : Lane) (s : State) (f : Ctx → Ctx) : OthersKept l s (updCtx s l.t l.c f) := by
  refine ⟨fun c hc => ctxOf_updCtx_other s l.t f hc, fun u hu => ?_⟩
  unfold updCtx
  rw [tile_updTile, if_neg hu]

theorem tileKept_updCtx (l : Lane) (s : State) (f : Ctx → Ctx) : TileKept l s (updCtx s l.t l.c f) := by
  unfold TileKept updCtx
  rw [tile_updTile_self]
  exact ⟨rfl, rfl, rfl, rfl, rfl⟩

/-- An update of the tile that leaves its contexts. -/
theorem othersKept_updTile (l : Lane) (s : State) {f : Tile → Tile} (hf : ∀ u, (f u).ctxs = u.ctxs) :
    OthersKept l s (updTile s l.t f) := by
  refine ⟨fun c _ => ctxOf_congr (by rw [tile_updTile_self, hf]) c, fun u hu => ?_⟩
  rw [tile_updTile, if_neg hu]

theorem ctxOf_updTile_self (s : State) (t c : Nat) {f : Tile → Tile} (hf : ∀ u, (f u).ctxs = u.ctxs) :
    ctxOf (updTile s t f) t c = ctxOf s t c := ctxOf_congr (by rw [tile_updTile_self, hf]) c

namespace TaskKept
variable {l : Lane} {s x t : State}

theorem of_tiles (h : t.tiles = s.tiles) : TaskKept l s t := by
  have ht : ∀ u, Machine.tile t u = Machine.tile s u := tile_congr h
  have hc : ∀ c, ctxOf t l.t c = ctxOf s l.t c := ctxOf_congr (by rw [ht])
  refine ⟨by rw [hc], by rw [hc], by rw [hc], ⟨fun c _ => hc c, fun u _ => ht u⟩, ?_⟩
  unfold TileKept
  rw [ht]
  exact ⟨rfl, rfl, rfl, rfl, rfl⟩

theorem refl (l : Lane) (s : State) : TaskKept l s s := of_tiles rfl

theorem trans (h : TaskKept l s x) (h' : TaskKept l x t) : TaskKept l s t :=
  ⟨h'.regs.trans h.regs, h'.flow.trans h.flow, h'.lastPc.trans h.lastPc, h.others.trans h'.others, h.tile.trans h'.tile⟩

/-- An update of the task that leaves its registers and its flow. -/
theorem updCtx (l : Lane) (s : State) {f : Ctx → Ctx} (hr : ∀ k, (f k).regs = k.regs) (hf : ∀ k, (f k).flow = k.flow)
    (hp : ∀ k, (f k).lastPc = k.lastPc) : TaskKept l s (Machine.updCtx s l.t l.c f) := by
  have hc := ctxOf_updCtx_self s l.t l.c f
  exact ⟨by rw [hc, hr], by rw [hc, hf], by rw [hc, hp], othersKept_updCtx l s f, tileKept_updCtx l s f⟩

/-- An update of the tile that leaves its contexts, stores, array, handles, codebooks and cache. -/
theorem updTile (l : Lane) (s : State) {f : Tile → Tile} (hc : ∀ u, (f u).ctxs = u.ctxs)
    (hf : ∀ u, (f u).sb = u.sb ∧ (f u).mxq = u.mxq ∧ (f u).handles = u.handles ∧ (f u).cbs = u.cbs ∧ (f u).icache = u.icache) :
    TaskKept l s (Machine.updTile s l.t f) := by
  have hx := ctxOf_updTile_self s l.t l.c hc
  refine ⟨by rw [hx], by rw [hx], by rw [hx], othersKept_updTile l s hc, ?_⟩
  unfold TileKept
  rw [tile_updTile_self]
  exact hf _

end TaskKept

/-! ### The steps behind an operation's effect -/

theorem wentOn_ctx (l : Lane) (f : Flow) (o : SlotOp) (x : State) :
    ctxOf (wentOn l f o x) l.t l.c = ctxBehind l f o (ctxOf x l.t l.c) := by
  unfold wentOn
  rw [ctxOf_congr (congrArg Tile.ctxs (tile_congr (cntT_frame ..).tiles_eq _)), ctxOf_updCtx_self]

theorem wentOn_regs {l : Lane} {f : Flow} {o : SlotOp} {x : State} {r : Regs} (hr : (ctxOf x l.t l.c).regs = r) :
    WentOn l f o r (wentOn l f o x) := by
  unfold WentOn
  rw [wentOn_ctx, ← hr]
  exact ⟨rfl, rfl, rfl⟩

theorem wentOn_others (l : Lane) (f : Flow) (o : SlotOp) (x : State) : OthersKept l x (wentOn l f o x) :=
  (othersKept_updCtx l x _).trans (TaskKept.of_tiles (cntT_frame ..).tiles_eq).others

theorem wentOn_tile (l : Lane) (f : Flow) (o : SlotOp) (x : State) : TileKept l x (wentOn l f o x) :=
  (tileKept_updCtx l x _).trans (TaskKept.of_tiles (cntT_frame ..).tiles_eq).tile

theorem wentOn_frame (l : Lane) (f : Flow) (o : SlotOp) (x : State) : Frame (partMask [.regs, .tiles]) x (wentOn l f o x) :=
  Frame.step (cntT_frame ..) rfl (Frame.step (updCtx_frame ..) rfl (Frame.refl _))

/-- Only a branch goes by the predictor. -/
theorem predict_other {l : Lane} {o : SlotOp} (h : isBranch o = false) (x : State) : predict x l o = x := by
  unfold predict
  simp only [h, Bool.not_false, Bool.or_true, if_true]
  split <;> rfl

theorem predict_kept (l : Lane) (o : SlotOp) (x : State) : TaskKept l x (predict x l o) := by
  unfold predict
  split
  · exact .refl l x
  · split
    · exact .refl l x
    · refine .trans ?_ (.updTile l _ ?_ ?_)
      · split
        · exact .refl l x
        · exact .of_tiles (cntT_frame ..).tiles_eq
      · exact fun _ => rfl
      · exact fun _ => ⟨rfl, rfl, rfl, rfl, rfl⟩

theorem dropLoop_kept (l : Lane) (x : State) : TaskKept l x (dropLoop x l.t) :=
  .updTile l x (fun _ => rfl) fun _ => ⟨rfl, rfl, rfl, rfl, rfl⟩

theorem leaveTile_kept (l : Lane) (x : State) {f : Ctx → Ctx} (hr : ∀ k, (f k).regs = k.regs) (hf : ∀ k, (f k).flow = k.flow)
    (hp : ∀ k, (f k).lastPc = k.lastPc) : TaskKept l x (leaveTile x l f) :=
  (TaskKept.updCtx l x hr hf hp).trans (.updTile l _ (fun _ => rfl) fun _ => ⟨rfl, rfl, rfl, rfl, rfl⟩)

theorem controlled_kept (l : Lane) (o : SlotOp) (x : State) : TaskKept l x (controlled l o x) := by
  have hc : ∀ o : SlotOp, TaskKept l x (if o.op = 0x0E then dropLoop x l.t else predict x l o) := by
    intro o
    split
    · exact dropLoop_kept l x
    · exact predict_kept l o x
  unfold controlled
  cases asC o with
  | none => exact .refl l x
  | some c =>
    dsimp only
    split
    · exact (hc c).trans (leaveTile_kept l _ (fun _ => rfl) (fun _ => rfl) fun _ => rfl)
    · exact hc c

theorem controlled_frame (l : Lane) (o : SlotOp) (x : State) : Frame (partMask [.regs, .tiles]) x (controlled l o x) := by
  unfold controlled
  cases asC o with
  | none => exact Frame.refl _
  | some c =>
    have hc : Frame (partMask [.regs, .tiles]) x (if c.op = 0x0E then dropLoop x l.t else predict x l c) :=
      Frame.ite (Frame.step (dropLoop_frame ..) rfl (Frame.refl _)) (Frame.step (predict_frame ..) rfl (Frame.refl _))
    exact Frame.ite (Frame.step (leaveTile_frame ..) rfl hc) hc

/-- Only a branch counts beside its bundle, a misprediction. -/
theorem controlled_regs {l : Lane} {o : SlotOp} (h : o.kind = .c → isBranch o = false) (x : State) : (controlled l o x).regs = x.regs := by
  unfold controlled asC
  by_cases hk : o.kind = .c
  · have hp : predict x l o = x := by
      unfold predict
      simp only [h hk, Bool.not_false, Bool.or_true, if_true]
      split <;> rfl
    have hc : (if o.op = 0x0E then dropLoop x l.t else predict x l o).regs = x.regs := by
      rw [predict_other (h hk)]
      split
      · exact (dropLoop_frame ..).regs_eq
      · rfl
    simp only [hk, if_true]
    split
    · rw [(leaveTile_frame ..).regs_eq, hc]
    · exact hc
  · simp only [hk, if_false]

/-- An operation of another slot than C, or one of a C slot that is no branch, `isync` or `done`, does nothing but go on. -/
theorem controlled_plain {l : Lane} {o : SlotOp} (h : o.kind = .c → isBranch o = false ∧ o.op ≠ 0x0E ∧ o.op ≠ 0x0F) (x : State) :
    controlled l o x = x := by
  unfold controlled asC
  by_cases hk : o.kind = .c
  · obtain ⟨hb, he, hf⟩ := h hk
    simp only [hk, he, hf, if_true, if_false, predict_other hb]
  · simp only [hk, if_false]

theorem slotJudge_tiles (s : State) (t : Nat) (id : JobId) (rep : Report) (acc : List (Nat × Nat × Bool)) :
    (slotJudge s t id rep acc).tiles = s.tiles := (slotJudge_frame ..).tiles_eq

theorem accessesJudged_kept (s : State) (l : Lane) (o : SlotOp) (x : State) : TaskKept l x (accessesJudged s l o x) := by
  unfold accessesJudged
  split
  · split
    · exact .refl l x
    · exact .of_tiles (slotJudge_tiles ..)
  · exact .refl l x

theorem accessesJudged_none {s : State} {l : Lane} {o : SlotOp} (h : judgedRanges s l o = []) (x : State) :
    accessesJudged s l o x = x := by
  unfold accessesJudged
  rw [h]
  split <;> rfl

theorem judgedRanges_none {s : State} {l : Lane} {o : SlotOp} (hm : o.kind ≠ .m) (he : o.kind = .c → o.op ≠ 0x0B) :
    judgedRanges s l o = [] := by
  unfold judgedRanges
  rw [if_neg hm, if_neg]
  simpa using he

theorem debugStop_cases (s : State) (t c : Nat) : debugStop s t c = s ∨ (ctxOf s t c).state = .running ∧ debugStop s t c =
    updTile (updCtx s t c fun x => { x with state := .halted }) t fun u => { u with haltReq := none } := by
  unfold debugStop
  dsimp only
  split
  · next h =>
    simp only [Bool.and_eq_true, decide_eq_true_eq] at h
    exact .inr ⟨h.1.1.2, rfl⟩
  · exact .inl rfl

theorem debugStop_kept (l : Lane) (x : State) : TaskKept l x (debugStop x l.t l.c) := by
  rcases debugStop_cases x l.t l.c with h | ⟨-, h⟩
  · rw [h]
    exact .refl l x
  · rw [h]
    refine .trans (.updCtx l x ?_ ?_ ?_) (.updTile l _ ?_ ?_)
    iterate 4 exact fun _ => rfl
    exact fun _ => ⟨rfl, rfl, rfl, rfl, rfl⟩

theorem leaveTile_ctx (l : Lane) (x : State) (f : Ctx → Ctx) : ctxOf (leaveTile x l f) l.t l.c = f (ctxOf x l.t l.c) :=
  (ctxOf_updTile_self _ _ _ (by intro _; rfl)).trans (ctxOf_updCtx_self ..)

theorem leaveTile_running (l : Lane) (x : State) (f : Ctx → Ctx) : (tile (leaveTile x l f) l.t).running = none := by
  unfold leaveTile
  rw [tile_updTile_self]

/-! ### All of them -/

section
variable (s : State) (l : Lane) (f : Flow) (o : SlotOp) (x : State)

theorem behind_kept : TaskKept l (wentOn l f o x) (behind s l f o x) :=
  (controlled_kept ..).trans ((accessesJudged_kept ..).trans (debugStop_kept ..))

theorem behind_others : OthersKept l x (behind s l f o x) := (wentOn_others l f o x).trans (behind_kept s l f o x).others

theorem behind_tile : TileKept l x (behind s l f o x) := (wentOn_tile l f o x).trans (behind_kept s l f o x).tile

variable {x}

theorem behind_wentOn {r : Regs} (hr : (ctxOf x l.t l.c).regs = r) : WentOn l f o r (behind s l f o x) := by
  have hk := behind_kept s l f o x
  obtain ⟨hregs, hflow, hpc⟩ := wentOn_regs (f := f) (o := o) hr
  exact ⟨hk.regs.trans hregs, hk.flow.trans hflow, hk.lastPc.trans hpc⟩

variable {s l o}

theorem behind_frame (hj : judgedRanges s l o = []) : Frame (partMask [.regs, .tiles]) x (behind s l f o x) := by
  unfold behind
  rw [accessesJudged_none hj]
  exact Frame.step (debugStop_frame ..) rfl (Frame.step (controlled_frame ..) rfl (wentOn_frame ..))

/-- Where the effect has left the registers of the device, the bundle is what is counted. -/
theorem behind_counted (hj : judgedRanges s l o = []) (hb : o.kind = .c → isBranch o = false) (hr : x.regs = s.regs) (hg : x.grid = s.grid) :
    BundleCounted l s (behind s l f o x) := by
  intro p hp
  have hphys : physOf (updCtx x l.t l.c (ctxBehind l f o)) l.t = some p := by
    rw [← hp]
    unfold physOf passRows
    rw [updCtx_grid, hg]
  have hregs : (behind s l f o x).regs = (addF s Reg.TA_CNT_BUNDLES p 0 1).regs := by
    unfold behind
    rw [accessesJudged_none hj, (debugStop_frame ..).regs_eq, controlled_regs hb]
    unfold wentOn cntT
    rw [hphys]
    unfold addF setF getF
    simp only [updCtx_regs, hr]
  refine ⟨?_, fun g ch i hk => ?_⟩
  · unfold Counted
    rw [getF_congr hregs, getF_addF_self]
  · rw [getF_congr hregs, getF_addF_other]
    simpa using hk

end

end Sys2Proof.Machine
end

section
/-! PROOFS. Scalar, predicate and address operations: the clauses of `ScalarOperations`, and the statement. -/

namespace Sys2Proof.Machine

set_option Elab.async false

/-! ### The rows of the lane engine and their slots (R158 to R160) -/

/-- The slot kind of a row's operations. -/
def rowKind : LaneRow → Kind
  | .scalar | .vtake | .vform | .pred => .s
  | .addr => .a
  | .li => .l
  | .vint | .vcmp | .vperm | .vcvt | .vfloat | .vred | .vfredsum | .vbexp => .v
  | .sload | .sstore | .vld | .vst | .vgather | .vscatter | .ist => .m
  | .br | .call | .jr | .rpt | .sywait | .syadd | .hqpush | .hqpop | .hqrel | .emit | .mxRun | .mxCbload | .mxSignal | .mxfence
  | .isync | .done => .c

theorem rowOfOp_kind {o : SlotOp} {r : LaneRow} (h : rowOfOp o = some r) : o.kind = rowKind r := by
  unfold rowOfOp at h
  cases hk : o.kind <;> simp only [hk] at h <;> grind [rowKind]

theorem rowOfOp_op {o : SlotOp} {r : LaneRow} (h : rowOfOp o = some r) : o.op ≠ 0 := fun h0 => by
  rw [rowOfOp_nop h0] at h
  cases h

/-- What tells the rows of S slots apart. -/
theorem rowOfOp_s {o : SlotOp} {r : LaneRow} (h : rowOfOp o = some r) (hr : rowKind r = .s) : o.kind = .s ∧ o.op ≠ 0 ∧
    r = if o.op = 0x18 then .vtake else if o.op = 0x19 then .vform else if 0x20 ≤ o.op then .pred else .scalar := by
  have hk := (rowOfOp_kind h).trans hr
  have h0 := rowOfOp_op h
  refine ⟨hk, h0, ?_⟩
  unfold rowOfOp at h
  simp only [hk, h0, if_false] at h
  grind

/-- An A slot holds one of the five operations of R168. -/
theorem addressOp_listed {o : SlotOp} (hk : o.kind = .a) (h0 : o.op ≠ 0) (h : slotLegal o = true) : 1 ≤ o.op ∧ o.op ≤ 5 := by
  unfold slotLegal listed at h
  simp only [hk, Bool.and_eq_true, decide_eq_true_eq] at h
  exact ⟨Nat.one_le_iff_ne_zero.2 h0, h.1⟩

/-! ### A register is written, and nothing else -/

theorem put_tile (l : Lane) (s : State) (g : Regs → Regs) : OthersKept l s (l.put s g) ∧ TileKept l s (l.put s g) :=
  ⟨othersKept_updCtx l s _, tileKept_updCtx l s _⟩

theorem put_regs_task (l : Lane) (s : State) (g : Regs → Regs) : (ctxOf (l.put s g) l.t l.c).regs = g (ctxOf s l.t l.c).regs := by
  unfold Lane.put
  rw [ctxOf_updCtx_self]

/-- What stands once an operation of another slot than M has written its task's registers. -/
theorem put_behind {s x : State} {t : Fin 256} {l : Lane} {f f' : Flow} {o : SlotOp} {g : Regs → Regs} (hat : laneAt s t.val = some (l, f'))
    (hk : o.kind ≠ .m ∧ o.kind ≠ .c) (hx : x = l.put s g ∨ x = drawn (l.put s g)) :
    WentOn l f o (g l.r) (behind s l f o x) ∧ OthersKept l s (behind s l f o x) ∧ TileKept l s (behind s l f o x) ∧
      BundleCounted l s (behind s l f o x) := by
  obtain ⟨-, -, hregs, -, -⟩ := laneAt_task hat
  have hj : judgedRanges s l o = [] := judgedRanges_none hk.1 fun hc => absurd hc hk.2
  have hput : TaskKept l (l.put s g) x := by
    rcases hx with rfl | rfl
    · exact .refl l _
    · exact .of_tiles (drawn_tiles _)
  obtain ⟨hothers, htile⟩ := put_tile l s g
  refine ⟨behind_wentOn s l f o ?_, (hothers.trans hput.others).trans (behind_others s l f o x),
    (htile.trans hput.tile).trans (behind_tile s l f o x), behind_counted f hj (fun hc => absurd hc hk.2) ?_ ?_⟩
  · rw [hput.regs, put_regs_task, hregs]
  all_goals rcases hx with rfl | rfl <;> rfl

/-- The operation writes its task's registers by `g`, and the bundle issues. -/
theorem Issues.puts {row : LaneRow} {t : Fin 256} {b : BitVec 128} {l : Lane} {f : Flow} {o : SlotOp} {s : State} {g : Regs → Regs}
    (h : Issues row t b 0 l f o s) (hk : rowKind row ≠ .m ∧ rowKind row ≠ .c) (he : slotEffect s l [] s o = l.put s g) :
    ∃ s', laneIssue row t.val b 0 [] s = s' ∧ WentOn l f o (g l.r) s' ∧ OthersKept l s s' ∧ TileKept l s s' ∧ BundleCounted l s s' ∧
      KeepsBut [.regs, .tiles] s s' := by
  have hcommits := h.commits []
  obtain ⟨hat, -, hrow, -⟩ := h
  rw [← rowOfOp_kind hrow] at hk
  rw [he] at hcommits
  obtain ⟨hwent, hothers, htile, hcount⟩ := put_behind (f := f) hat hk (.inl rfl)
  refine ⟨_, hcommits, hwent, hothers, htile, hcount, ?_⟩
  have hj : judgedRanges s l o = [] := judgedRanges_none hk.1 fun hc => absurd hc hk.2
  exact (Frame.step (behind_frame f hj) rfl (Frame.step (Lane.put_frame ..) rfl (Frame.refl _))
    : Frame (partMask [.regs, .tiles]) s _).named

/-! ### The operations -/

section
variable {t : Fin 256} {b : BitVec 128} {l : Lane} {f : Flow} {o : SlotOp} {s : State}

theorem scalar_put (hs : rowOfOp o = some .scalar) :
    slotEffect s l [] s o = l.put s (fun r => r.wS (o.f 27 5) (sResult l o s.free).1 (sResult l o s.free).2) ∨
    slotEffect s l [] s o = drawn (l.put s (fun r => r.wS (o.f 27 5) (sResult l o s.free).1 (sResult l o s.free).2)) := by
  obtain ⟨hk, h0, hr⟩ := rowOfOp_s hs rfl
  have hop : o.op ≠ 0x18 ∧ o.op ≠ 0x19 ∧ ¬ 0x20 ≤ o.op := by grind
  obtain ⟨h1, h2, h3⟩ := hop
  unfold slotEffect sEffect
  simp only [hk, h0, h1, h2, h3, if_false]
  split
  · exact .inr rfl
  · exact .inl rfl

theorem pred_put (hs : rowOfOp o = some .pred) : slotEffect s l [] s o = l.put s (fun r => r.wP (o.f 27 5 % 8) (pResult l o)) := by
  obtain ⟨hk, h0, hr⟩ := rowOfOp_s hs rfl
  have hop : o.op ≠ 0x18 ∧ o.op ≠ 0x19 ∧ 0x20 ≤ o.op := by grind
  obtain ⟨h1, h2, h3⟩ := hop
  unfold slotEffect sEffect
  simp only [hk, h0, h1, h2, h3, if_false, if_true]

theorem vtake_put (hs : rowOfOp o = some .vtake) : slotEffect s l [] s o = l.put s (fun r =>
    { r.wS (o.f 27 5) ((l.second o).1 - min (l.second o).1 l.cap) false with vn := min (l.second o).1 l.cap }) := by
  obtain ⟨hk, h0, hr⟩ := rowOfOp_s hs rfl
  have hop : o.op = 0x18 := by grind
  unfold slotEffect sEffect
  simp only [hk, hop]
  rfl

/-- The lane with another vector format. -/
def Lane.withFormat (l : Lane) (v : BitVec 8) : Lane := { l with r := { l.r with vfmt := v } }

theorem vform_put (hs : rowOfOp o = some .vform) : slotEffect s l [] s o = l.put s (fun r =>
    { r.wS (o.f 27 5) (l.withFormat (BitVec.ofNat 8 (l.second o).1)).cap false with
      vn := (l.withFormat (BitVec.ofNat 8 (l.second o).1)).cap, vfmt := BitVec.ofNat 8 (l.second o).1 }) := by
  obtain ⟨hk, h0, hr⟩ := rowOfOp_s hs rfl
  have hop : o.op = 0x19 := by grind
  unfold slotEffect sEffect
  simp only [hk, hop]
  rfl

/-- What an A-slot operation writes (R165, R168). -/
def addressWritten (l : Lane) (o : SlotOp) (r : Regs) : Regs :=
  match o.op with
  | 0x01 => r.wA (o.f 28 4) (unsgn 48 (l.a (o.f 24 4) + (l.step o).1)) (l.ap (o.f 24 4) || (l.step o).2)
  | 0x02 => r.wA (o.f 28 4) ((modStep (l.a (o.f 24 4)) (l.m (o.f 21 3)) (l.step o).1).getD 0)
      (l.ap (o.f 24 4) || (l.step o).2 || l.mp (o.f 21 3))
  | 0x03 => r.wA (o.f 28 4) (unsgn 48 (l.step o).1) (l.step o).2
  | 0x04 => r.wM (o.f 28 3) (l.s (o.f 15 5)) (l.sp (o.f 15 5))
  | _ => r.wA (o.f 28 4) (2 ^ 47 + o.f 0 8 * 2 ^ 39) false

theorem modifier_field (o : SlotOp) : o.f 28 4 % 8 = o.f 28 3 := by
  unfold SlotOp.f bitsOf
  omega

theorem addr_put (hs : rowOfOp o = some .addr) (hl : slotLegal o = true) : slotEffect s l [] s o = l.put s (addressWritten l o) := by
  have hk := rowOfOp_kind hs
  obtain ⟨h1, h5⟩ := addressOp_listed hk (rowOfOp_op hs) hl
  have hop : o.op = 1 ∨ o.op = 2 ∨ o.op = 3 ∨ o.op = 4 ∨ o.op = 5 := by omega
  unfold slotEffect aEffect addressWritten
  rcases hop with hop | hop | hop | hop | hop <;> simp only [hk, rowKind, hop, modifier_field]

/-- What `li` writes (R162). -/
def immediateWritten (o : SlotOp) (r : Regs) : Regs :=
  match o.f 65 2 with
  | 0 => r.wS (o.f 67 5) (o.f 0 64) false
  | 1 => r.wA (o.f 67 5) (o.f 0 64) false
  | _ => r.wM (o.f 67 5) (o.f 0 64) false

theorem li_put (hs : rowOfOp o = some .li) : slotEffect s l [] s o = l.put s (immediateWritten o) := by
  have hk := rowOfOp_kind hs
  have h0 := rowOfOp_op hs
  unfold slotEffect lEffect immediateWritten
  simp only [hk, rowKind, h0, if_false]
  split
  · next hs => simp only [hs]
  · next ha => simp only [ha]
  · simp only

/-! ### The clauses of `ScalarOperations` -/

theorem scalarAlu_writes (h : Issues .scalar t b 0 l f o s) : ∃ s', exec (.scalarAlu t b) s = .next s' ∧
    WentOn l f o (l.r.wS (o.f 27 5) (sResult l o s.free).1 (sResult l o s.free).2) s' ∧
    OthersKept l s s' ∧ TileKept l s s' ∧ BundleCounted l s s' ∧ KeepsBut [.regs, .free, .tiles] s s' := by
  have hcommits := h.commits []
  obtain ⟨hat, -, hrow, -⟩ := h
  have hk : o.kind ≠ .m ∧ o.kind ≠ .c := by rw [rowOfOp_kind hrow]; decide
  obtain ⟨hwent, hothers, htile, hcount⟩ := put_behind (f := f) hat hk (scalar_put hrow)
  refine ⟨_, congrArg Host.Outcome.next hcommits, hwent, hothers, htile, hcount, ?_⟩
  have hj : judgedRanges s l o = [] := judgedRanges_none hk.1 fun hc => absurd hc hk.2
  have heffect : Frame (partMask [.regs, .free, .tiles]) s (slotEffect s l [] s o) := by
    rcases scalar_put (l := l) (s := s) hrow with he | he <;> rw [he]
    · exact Frame.step (Lane.put_frame ..) rfl (Frame.refl _)
    · exact Frame.step (drawn_frame ..) rfl (Frame.step (Lane.put_frame ..) rfl (Frame.refl _))
  exact (Frame.step (behind_frame f hj) rfl heffect).named

theorem vform_writes (h : Issues .vform t b 0 l f o s) : ∃ s', exec (.vform t b) s = .next s' ∧
    (l.after s').r.vfmt = BitVec.ofNat 8 (l.second o).1 ∧ (l.after s').vn = (l.after s').cap ∧
    WentOn l f o { l.r.wS (o.f 27 5) (l.after s').cap false with vn := (l.after s').cap, vfmt := (l.after s').r.vfmt } s' ∧
    OthersKept l s s' ∧ TileKept l s s' ∧ BundleCounted l s s' ∧ KeepsBut [.regs, .tiles] s s' := by
  obtain ⟨s', hs', hwent, hkept⟩ := h.puts (by decide) (vform_put h.ofRow)
  obtain ⟨hregs, -, -⟩ := id hwent
  have hfmt : (l.after s').r.vfmt = BitVec.ofNat 8 (l.second o).1 := congrArg Regs.vfmt hregs
  have hcap : (l.after s').cap = (l.withFormat (BitVec.ofNat 8 (l.second o).1)).cap := by
    unfold Lane.cap Lane.vbits Lane.long Lane.ew
    rw [hfmt]
    rfl
  have hvn : (l.after s').vn = (l.after s').cap := (congrArg Regs.vn hregs).trans hcap.symm
  refine ⟨s', congrArg Host.Outcome.next hs', hfmt, hvn, ?_, hkept⟩
  rw [hcap, hfmt]
  exact hwent

end

end Sys2Proof.Machine

open Sys2Proof Sys2Proof.Machine

set_option Elab.async false

/-- Settles O23: each operation is a write of its task's registers, behind which its bundle goes on. -/
theorem scalarOperations : Obligations.ScalarOperations := by
  unfold Obligations.ScalarOperations
  refine fun t b l f o s => ⟨scalarAlu_writes, fun h => ?_, fun h => ?_, vform_writes, fun h => ?_, fun h => ?_⟩
  · obtain ⟨s', hs', hkept⟩ := h.puts (by decide) (pred_put h.ofRow)
    exact ⟨s', congrArg Host.Outcome.next hs', hkept⟩
  · obtain ⟨s', hs', hkept⟩ := h.puts (by decide) (vtake_put h.ofRow)
    exact ⟨s', congrArg Host.Outcome.next hs', hkept⟩
  · obtain ⟨s', hs', hkept⟩ := h.puts (by decide) (addr_put h.ofRow h.passes.1)
    exact ⟨s', congrArg Host.Outcome.next hs', hkept⟩
  · obtain ⟨s', hs', hkept⟩ := h.puts (by decide) (li_put h.ofRow)
    exact ⟨s', congrArg Host.Outcome.next hs', hkept⟩

end

section
/-! PROOFS. Sync objects, handle queues and the jobs in the list: what an add, a push, a pop and the wakes they bring about leave. -/

namespace Sys2Proof.Machine

set_option Elab.async false

/-! ### Wakes leave the registers of every task (R134) -/

/-- A map over every entry of a finite map, which leaves the default as it is. -/
theorem mget_mapped {α : Type} {d : α} {g : Nat → α → α} (hd : ∀ k, g k d = d) (m : List (Nat × α)) (k : Nat) :
    mget d (m.map fun e => (e.1, g e.1 e.2)) k = g k (mget d m k) := by
  induction m with
  | nil => exact (hd k).symm
  | cons e m ih =>
    rw [List.map_cons]
    unfold mget
    dsimp only
    split
    · next h => rw [h]
    · exact ih

theorem ctxOf_wakeTasks (s : State) (f : Nat → WaitFor → Bool) (t c : Nat) : ctxOf (wakeTasks s f) t c = wakeCtx (f t) (ctxOf s t c) := by
  have htile : tile (wakeTasks s f) t = { tile s t with ctxs := (tile s t).ctxs.map fun k => (k.1, wakeCtx (f t) k.2) } :=
    mget_mapped (d := Tile.zero) (g := fun t u => { u with ctxs := u.ctxs.map fun k => (k.1, wakeCtx (f t) k.2) }) (fun _ => rfl) s.tiles t
  unfold ctxOf
  rw [htile]
  exact mget_mapped (d := Ctx.empty) (g := fun _ => wakeCtx (f t)) (fun _ => rfl) _ c

/-- The object with its counter set. -/
def countSet (s : State) (o n : Nat) : State := updObj s o fun k => { k with count := BitVec.ofNat 64 n }

/-- The counter is set, tasks and engines' jobs are woken; then stream contexts run on and SYNC_WAIT commands complete. -/
theorem setCount_wakes (s : State) (o n : Nat) : ∃ k f p,
    Frame (partMask [.regs, .free, .mem, .hostMem, .blocks, .spPoison, .fm, .sources, .hl, .rings, .descs, .sctx, .chans])
      (wakeJobs (wakeTasks (addF (countSet s o n) Reg.SY_CNT_WAKES 0 0 k) f) p)
      (setCount s o n) := by
  refine ⟨wokenCount s (countSet s o n) o, wokenBy (countSet s o n) o, queueOfObj (countSet s o n) o, ?_⟩
  unfold setCount
  exact Frame.thread (fun y d hy => Frame.step (complete_frame ..) rfl hy) (Frame.step (put_sctx_frame ..) rfl (Frame.refl _))

/-- An add sets the counter; one that saturates is noted beside. -/
theorem addObj_sets (s : State) (o v : Nat) (job : JobId) : Frame (partMask [.regs, .fm, .sources])
    (setCount (cnt s Reg.SY_CNT_ADDS) o (min (2 ^ 64 - 1) ((obj s o).count.toNat + v))) (addObj s o v job) := by
  unfold addObj
  refine Frame.ite (Frame.step (report_frame ..) rfl ?_) (Frame.refl _)
  exact Frame.step (evSet_frame ..) rfl (Frame.step (setF_frame ..) rfl (Frame.refl _))

/-- No task's registers differ. -/
def RegistersKept (s t : State) : Prop := ∀ u c, (ctxOf t u c).regs = (ctxOf s u c).regs

namespace RegistersKept
variable {s x t : State}

theorem trans (h : RegistersKept s x) (h' : RegistersKept x t) : RegistersKept s t := fun u c => (h' u c).trans (h u c)

theorem of_tiles (h : t.tiles = s.tiles) : RegistersKept s t := fun u c => by rw [ctxOf_congr (congrArg Tile.ctxs (tile_congr h u))]

theorem wakeTasks (s : State) (f : Nat → WaitFor → Bool) : RegistersKept s (Machine.wakeTasks s f) := fun u c => by
  rw [ctxOf_wakeTasks]
  unfold wakeCtx
  split <;> rfl

theorem setCount (s : State) (o n : Nat) : RegistersKept s (Machine.setCount s o n) := by
  obtain ⟨k, f, p, h⟩ := setCount_wakes s o n
  have hcount : RegistersKept s (addF (countSet s o n) Reg.SY_CNT_WAKES 0 0 k) := .of_tiles rfl
  exact hcount.trans (.trans (.wakeTasks _ f) (.of_tiles (h.tiles_eq.trans (wakeJobs_frame ..).tiles_eq)))

theorem putQueue (s : State) (q : Nat) (u : Queue) : RegistersKept s (Machine.putQueue s q u) := by
  have hput : RegistersKept s (updQueue s q fun _ => u) := .of_tiles (updQueue_tiles ..)
  exact hput.trans (.trans (.wakeTasks _ _) (.of_tiles (wakeJobs_frame ..).tiles_eq))

theorem addObj (s : State) (o v : Nat) (job : JobId) : RegistersKept s (Machine.addObj s o v job) := by
  have hadds : RegistersKept s (cnt s Reg.SY_CNT_ADDS) := .of_tiles (cnt_tiles ..)
  exact hadds.trans (.trans (.setCount _ _ _) (.of_tiles (addObj_sets s o v job).tiles_eq))

theorem publishHalo (s : State) (qn n : Nat) (poison : Bool) (refs : List JobId) :
    RegistersKept s (Machine.publishHalo s qn n poison refs) := by
  unfold Machine.publishHalo
  exact .trans (.putQueue _ _ _) (.setCount _ _ _)

end RegistersKept

/-! ### Counters of objects (R279) -/

theorem setCount_obj (s : State) (o n k : Nat) :
    obj (setCount s o n) k = if k = o then { obj s o with count := BitVec.ofNat 64 n } else obj s k := by
  obtain ⟨_, f, p, h⟩ := setCount_wakes s o n
  rw [obj_congr (h.keeps .objs (by decide)), obj_congr ((wakeJobs_frame ..).keeps .objs (by decide)),
    obj_congr ((wakeTasks_frame ..).keeps .objs (by decide)), obj_congr (addF_objs ..), countSet, obj_updObj]

theorem addObj_obj (s : State) (o v : Nat) (job : JobId) (k : Nat) : obj (addObj s o v job) k = if k = o then
    { obj s o with count := BitVec.ofNat 64 (min (2 ^ 64 - 1) ((obj s o).count.toNat + v)) } else obj s k := by
  rw [obj_congr ((addObj_sets s o v job).keeps .objs (by decide)), setCount_obj]
  rfl

/-! ### Queues (R282 to R284) -/

theorem putQueue_queue (s : State) (q : Nat) (u : Queue) (n : Nat) : queue (putQueue s q u) n = if n = q then u else queue s n := by
  unfold putQueue
  dsimp only
  rw [queue_congr (Frame.keeps (wakeJobs_frame ..) .queues (by decide)), queue_congr (Frame.keeps (wakeTasks_frame ..) .queues (by decide)),
    queue_updQueue]

theorem publishHalo_queue {s : State} {qn n k : Nat} {poison : Bool} {refs : List JobId} (h : k ≠ qn) :
    queue (publishHalo s qn n poison refs) k = queue s k := by
  unfold publishHalo
  dsimp only
  rw [queue_congr (Frame.keeps (setCount_frame ..) .queues (by decide)), putQueue_queue, if_neg h]

/-! ### Jobs in the list -/

theorem jobOf_mapped {s t : State} {g : Job → Job} (h : t.jobs = s.jobs.map g) (hg : ∀ j, (g j).id = j.id) (id : JobId) :
    jobOf t id = (jobOf s id).map g := by
  unfold jobOf
  rw [h, List.find?_map]
  simp only [Function.comp_def, hg]

theorem jobOf_updJob {s : State} {id : JobId} {f : Job → Job} (hf : ∀ j, (f j).id = j.id) :
    jobOf (updJob s id f) id = (jobOf s id).map f := by
  have hg : ∀ j : Job, (if j.id == id then f j else j).id = j.id := fun j => by
    split
    · exact hf j
    · rfl
  rw [jobOf_mapped (s := s) (t := updJob s id f) rfl hg]
  cases hj : jobOf s id with
  | none => rfl
  | some j => simp [jobOf_id hj]

theorem jobOf_orderAbort (s : State) (id : JobId) (cause : Nat) : jobOf (orderAbort s id cause) id =
    (jobOf s id).map fun j => if holdsPlace j && j.abortOrder.isNone then { j with abortOrder := some cause } else j :=
  jobOf_updJob fun j => by split <;> rfl

/-- Jobs have at most been woken: each holds its place as before, with the same order to abort and the same mark of poison. -/
def JobsWoken (s t : State) : Prop := ∃ g : Job → Job, t.jobs = s.jobs.map g ∧ ∀ j, (g j).id = j.id ∧
  holdsPlace (g j) = holdsPlace j ∧ (g j).abortOrder = j.abortOrder ∧ (g j).poisonOut = j.poisonOut

namespace JobsWoken
variable {s x t : State}

theorem of_jobs (h : t.jobs = s.jobs) : JobsWoken s t := ⟨id, by rw [h, List.map_id], fun _ => ⟨rfl, rfl, rfl, rfl⟩⟩

theorem trans (h : JobsWoken s x) (h' : JobsWoken x t) : JobsWoken s t := by
  obtain ⟨g, hg, hkeeps⟩ := h
  obtain ⟨g', hg', hkeeps'⟩ := h'
  refine ⟨g' ∘ g, by rw [hg', hg, List.map_map], fun j => ?_⟩
  obtain ⟨hid, hplace, horder, hpoison⟩ := hkeeps j
  obtain ⟨hid', hplace', horder', hpoison'⟩ := hkeeps' (g j)
  exact ⟨hid'.trans hid, hplace'.trans hplace, horder'.trans horder, hpoison'.trans hpoison⟩

theorem wakeJobs (s : State) (p : Nat → Bool) : JobsWoken s (Machine.wakeJobs s p) := by
  refine ⟨fun j => if wokenJob s p j then { j with state := .running, waitEnd := none, waitNs := 0 } else j, rfl, fun j => ?_⟩
  dsimp only
  split
  · next h =>
    have hsusp : j.state = .suspended := by
      unfold wokenJob at h
      simp only [Bool.and_eq_true, decide_eq_true_eq] at h
      exact h.1
    refine ⟨rfl, ?_, rfl, rfl⟩
    unfold holdsPlace
    rw [hsusp]
    rfl
  · exact ⟨rfl, rfl, rfl, rfl⟩

theorem putQueue (s : State) (q : Nat) (u : Queue) : JobsWoken s (Machine.putQueue s q u) := by
  have hput : JobsWoken s (wakeTasks (updQueue s q fun _ => u) (wokenQueue (updQueue s q fun _ => u) q)) := .of_jobs (wakeTasks_frame ..).jobs_eq
  exact hput.trans (.wakeJobs _ _)

theorem setCount (s : State) (o n : Nat) : JobsWoken s (Machine.setCount s o n) := by
  obtain ⟨k, f, p, h⟩ := setCount_wakes s o n
  have hcount : (Machine.wakeTasks (addF (countSet s o n) Reg.SY_CNT_WAKES 0 0 k) f).jobs =
    s.jobs := (wakeTasks_frame ..).jobs_eq
  exact .trans (.of_jobs hcount) (.trans (.wakeJobs _ p) (.of_jobs h.jobs_eq))

theorem publishHalo (s : State) (qn n : Nat) (poison : Bool) (refs : List JobId) :
    JobsWoken s (Machine.publishHalo s qn n poison refs) := by
  unfold Machine.publishHalo
  exact .trans (.putQueue _ _ _) (.setCount _ _ _)

theorem jobOf (h : JobsWoken s t) {id : JobId} {j : Job} (hj : Machine.jobOf s id = some j) : ∃ k, Machine.jobOf t id = some k ∧
    holdsPlace k = holdsPlace j ∧ k.abortOrder = j.abortOrder ∧ k.poisonOut = j.poisonOut := by
  obtain ⟨g, hg, hkeeps⟩ := h
  refine ⟨g j, ?_, (hkeeps j).2⟩
  rw [jobOf_mapped hg (fun j => (hkeeps j).1), hj]
  rfl

end JobsWoken

end Sys2Proof.Machine
end

section
/-! PROOFS. Branches, repeats, sync and handle-queue operations: the clauses of `BranchesSyncAndQueues`, and the statement. -/

namespace Sys2Proof.Machine

set_option Elab.async false

/-! ### C slots (R178 to R187) -/

/-- The opcode of a row's operations, for the rows of C slots. -/
def cOp : LaneRow → Nat
  | .br => 0x01 | .call => 0x02 | .jr => 0x03 | .rpt => 0x04 | .sywait => 0x05 | .syadd => 0x06
  | .hqpush => 0x08 | .hqpop => 0x09 | .hqrel => 0x0A | .emit => 0x0B
  | .mxRun | .mxCbload | .mxSignal => 0x0C
  | .mxfence => 0x0D | .isync => 0x0E | .done => 0x0F
  | _ => 0

theorem rowOfOp_c {o : SlotOp} {r : LaneRow} (h : rowOfOp o = some r) (hr : rowKind r = .c) : o.kind = .c ∧ o.op = cOp r := by
  have hk := (rowOfOp_kind h).trans hr
  refine ⟨hk, ?_⟩
  unfold rowOfOp at h
  simp only [hk] at h
  split at h <;> grind [cOp]

section
variable {row : LaneRow} {t : Fin 256} {b next : BitVec 128} {l : Lane} {f : Flow} {o : SlotOp} {s : State}

theorem Issues.inC (h : Issues row t b next l f o s) (hr : rowKind row = .c := by rfl) : o.kind = .c ∧ o.op = cOp row :=
  rowOfOp_c h.ofRow hr

theorem Issues.cChecked (h : Issues row t b next l f o s) (hr : rowKind row = .c := by rfl) : cCheck s l next o = .ok := by
  obtain ⟨hlegal, -, ops, hcheck⟩ := h.passes
  unfold slotCheck at hcheck
  simpa only [hlegal, (h.inC hr).1, Bool.not_true, Bool.false_eq_true, if_false] using hcheck

/-- A bundle with a branch, an `rpt`, an `isync` or a `done` is no delay slot. -/
theorem Issues.notInSlot (h : Issues row t b next l f o s) (hr : rowKind row = .c := by rfl)
    (hop : [0x01, 0x02, 0x03, 0x04, 0x0E, 0x0F].contains (cOp row) = true := by decide) : f.inSlot = false := by
  obtain ⟨-, hbar, -⟩ := h.passes
  obtain ⟨hk, hc⟩ := h.inC hr
  cases hin : f.inSlot with
  | false => rfl
  | true =>
    have hbarred := hbar hin
    unfold barredInSlot cSlot at hbarred
    simp [hk, rowOfOp_op h.ofRow] at hbarred
    rw [hc] at hbarred
    simp at hop
    omega

/-- A bundle with a C-slot operation other than `emit`: the effect, then the task goes on. -/
theorem Issues.control (h : Issues row t b next l f o s) {x : State} {r : Regs} (hx : cEffect l o s = x)
    (hr : (ctxOf x l.t l.c).regs = r) (hrow : rowKind row = .c := by rfl) (he : row ≠ .emit := by decide) :
    ∃ s', laneIssue row t.val b next [] s = s' ∧ WentOn l f o r s' ∧ Frame (partMask [.regs, .tiles]) x s' ∧ OthersKept l x s' ∧
      TileKept l x s' ∧ (isBranch o = false → x.regs = s.regs → x.grid = s.grid → BundleCounted l s s') := by
  obtain ⟨hk, hop⟩ := h.inC hrow
  have heffect : slotEffect s l [] s o = x := by
    unfold slotEffect
    simp only [hk]
    exact hx
  have hj : judgedRanges s l o = [] := judgedRanges_none (by rw [hk]; decide) fun _ => by
    rw [hop]
    revert he hrow
    cases row <;> decide
  refine ⟨_, (h.commits []).trans (by rw [heffect]), behind_wentOn s l f o hr, behind_frame f hj, behind_others .., behind_tile ..,
    fun hb hregs hgrid => behind_counted f hj (fun _ => hb) hregs hgrid⟩

/-- The same, where the operation has no effect of its own. -/
theorem Issues.controlAlone (h : Issues row t b next l f o s) (hx : cEffect l o s = s) (hrow : rowKind row = .c := by rfl)
    (he : row ≠ .emit := by decide) : ∃ s', laneIssue row t.val b next [] s = s' ∧ WentOn l f o l.r s' ∧ OthersKept l s s' ∧
      TileKept l s s' ∧ (isBranch o = false → BundleCounted l s s') ∧ KeepsBut [.regs, .tiles] s s' := by
  obtain ⟨-, -, hregs, -, -⟩ := laneAt_task h.1
  obtain ⟨s', hs', hwent, hframe, hothers, htile, hcount⟩ := h.control hx hregs hrow he
  exact ⟨s', hs', hwent, hothers, htile, fun hb => hcount hb rfl rfl, hframe.named⟩

theorem asC_self (hk : o.kind = .c) : asC o = some o := if_pos hk

/-! ### Branches (R178, R179) -/

/-- A branch outside a repeat and a delay slot: the next bundle is its delay slot, which goes to the target where it is taken. -/
theorem flowAfter_branch (hb : isBranch o = true) (hrpt : f.rpt = 0) (hin : f.inSlot = false) :
    flowAfter l f (some o) = ({ slot := branchTo l o, inSlot := true, rpt := 0 }, l.r.pc + 16) := by
  unfold flowAfter
  simp only [hrpt, hin, hb, Nat.lt_irrefl, Bool.false_eq_true, if_false, if_true]

/-- What a branch leaves that has written its link by `r`. -/
theorem WentOn.branched {s' : State} {r : Regs} (h : WentOn l f o r s') (hk : o.kind = .c) (hb : isBranch o = true) (hrpt : f.rpt = 0)
    (hin : f.inSlot = false) : (ctxOf s' l.t l.c).regs = { r with pc := l.r.pc + 16 } ∧
      (ctxOf s' l.t l.c).flow = { slot := branchTo l o, inSlot := true, rpt := 0 } := by
  obtain ⟨hregs, hflow, -⟩ := h
  rw [asC_self hk, flowAfter_branch hb hrpt hin] at hregs hflow
  exact ⟨hregs, hflow⟩

theorem br_branches (h : Issues .br t b 0 l f o s) (hrpt : f.rpt = 0) : ∃ s', exec (.br t b) s = .next s' ∧
    (ctxOf s' l.t l.c).regs = { l.r with pc := l.r.pc + 16 } ∧
    (ctxOf s' l.t l.c).flow = { slot := (if condHolds l o then some (BitVec.ofInt 32 (l.r.pc.toNat + 16 * o.sf 0 24)) else none),
                                inSlot := true, rpt := 0 } ∧ OthersKept l s s' ∧ KeepsBut [.regs, .tiles] s s' := by
  obtain ⟨hk, hop⟩ := h.inC
  have hx : cEffect l o s = s := by simp only [cEffect, hop, cOp]
  obtain ⟨s', hs', hwent, hothers, -, -, hkeeps⟩ := h.controlAlone hx
  obtain ⟨hregs, hflow⟩ := hwent.branched hk (by rw [isBranch, hop]; rfl) hrpt h.notInSlot
  refine ⟨s', congrArg Host.Outcome.next hs', hregs, ?_, hothers, hkeeps⟩
  rw [hflow]
  simp only [branchTo, hop, cOp]

/-- A branch that links: the address behind its delay slot goes to register `d`. -/
theorem Issues.links (h : Issues row t b 0 l f o s) {d : Nat} (hrow : row = .call ∨ row = .jr)
    (hx : cEffect l o s = l.put s fun r => r.wS d (l.r.pc + 32).toNat false) (hrpt : f.rpt = 0) :
    ∃ s', laneIssue row t.val b 0 [] s = s' ∧ (ctxOf s' l.t l.c).regs = { l.r.wS d (l.r.pc + 32).toNat false with pc := l.r.pc + 16 } ∧
      (ctxOf s' l.t l.c).flow = { slot := branchTo l o, inSlot := true, rpt := 0 } ∧ OthersKept l s s' ∧ KeepsBut [.regs, .tiles] s s' := by
  have hc : rowKind row = .c ∧ row ≠ .emit ∧ [0x01, 0x02, 0x03, 0x04, 0x0E, 0x0F].contains (cOp row) = true := by
    rcases hrow with rfl | rfl <;> decide
  obtain ⟨-, -, htask, -, -⟩ := laneAt_task h.1
  obtain ⟨hk, hop⟩ := h.inC hc.1
  have hb : isBranch o = true := by
    unfold isBranch
    rw [hop]
    rcases hrow with rfl | rfl <;> rfl
  obtain ⟨s', hs', hwent, hframe, hothers, -⟩ := h.control hx (by rw [put_regs_task, htask]) hc.1 hc.2.1
  obtain ⟨hregs, hflow⟩ := hwent.branched hk hb hrpt (h.notInSlot hc.1 hc.2.2)
  exact ⟨s', hs', hregs, hflow, (put_tile l s _).1.trans hothers,
    (Frame.step hframe rfl (Frame.step (Lane.put_frame ..) rfl (Frame.refl _)) : Frame (partMask [.regs, .tiles]) s s').named⟩

theorem call_links (h : Issues .call t b 0 l f o s) (hrpt : f.rpt = 0) : ∃ s', exec (.call t b) s = .next s' ∧
    (ctxOf s' l.t l.c).regs = { l.r.wS 31 (l.r.pc + 32).toNat false with pc := l.r.pc + 16 } ∧
    (ctxOf s' l.t l.c).flow = { slot := some (BitVec.ofInt 32 (l.r.pc.toNat + 16 * o.sf 0 24)), inSlot := true, rpt := 0 } ∧
    OthersKept l s s' ∧ KeepsBut [.regs, .tiles] s s' := by
  obtain ⟨-, hop⟩ := h.inC
  obtain ⟨s', hs', hregs, hflow, hkept⟩ := h.links (d := 31) (.inl rfl) (by simp only [cEffect, hop, cOp]) hrpt
  simp only [branchTo, hop, cOp] at hflow
  exact ⟨s', congrArg Host.Outcome.next hs', hregs, hflow, hkept⟩

theorem jr_links (h : Issues .jr t b 0 l f o s) (hrpt : f.rpt = 0) : ∃ s', exec (.jr t b) s = .next s' ∧
    (ctxOf s' l.t l.c).regs = { l.r.wS (o.f 22 5) (l.r.pc + 32).toNat false with pc := l.r.pc + 16 } ∧
    (ctxOf s' l.t l.c).flow = { slot := some (BitVec.ofNat 32 (l.s (o.f 27 5))), inSlot := true, rpt := 0 } ∧
    OthersKept l s s' ∧ KeepsBut [.regs, .tiles] s s' := by
  obtain ⟨-, hop⟩ := h.inC
  obtain ⟨s', hs', hregs, hflow, hkept⟩ := h.links (d := o.f 22 5) (.inr rfl) (by simp only [cEffect, hop, cOp]) hrpt
  simp only [branchTo, hop, cOp] at hflow
  exact ⟨s', congrArg Host.Outcome.next hs', hregs, hflow, hkept⟩

/-! ### Repeats (R180) -/

theorem rpt_repeats (h : Issues .rpt t b next l f o s) (hrpt : f.rpt = 0) (hin : f.inSlot = false) :
    ∃ s', exec (.rpt t b next) s = .next s' ∧
      (let n := if o.f 26 1 = 1 then o.f 0 12 + 1 else l.s (o.f 27 5)
       (ctxOf s' l.t l.c).flow = { slot := none, inSlot := false, rpt := n } ∧
       (ctxOf s' l.t l.c).regs = { l.r with pc := l.r.pc + (if n = 0 then 32 else 16) }) ∧
      OthersKept l s s' ∧ KeepsBut [.regs, .tiles] s s' := by
  obtain ⟨hk, hop⟩ := h.inC
  have hx : cEffect l o s = s := by simp only [cEffect, hop, cOp]
  obtain ⟨s', hs', ⟨hregs, hflow, -⟩, hothers, -, -, hkeeps⟩ := h.controlAlone hx
  refine ⟨s', congrArg Host.Outcome.next hs', ?_, hothers, hkeeps⟩
  rw [hflow, hregs, asC_self hk]
  unfold flowAfter isBranch
  simp only [hrpt, hin, hop, cOp]
  generalize (if o.f 26 1 = 1 then o.f 0 12 + 1 else l.s (o.f 27 5)) = n
  by_cases hn : n = 0
  · simp [hn]
  · simp [hn]

/-! ### Sync objects (R183, R277 to R279) -/

theorem scalar_lt (l : Lane) (i : Nat) : l.s i < 2 ^ 64 := by
  unfold Lane.s
  split
  · decide
  · exact BitVec.isLt _

theorem sywait_passes (h : Issues .sywait t b 0 l f o s) : l.s (o.f 27 5) ≤ (obj s (objNamed l o).1).count.toNat ∧
    ∃ s', exec (.sywait t b) s = .next s' ∧ WentOn l f o l.r s' ∧ OthersKept l s s' ∧ TileKept l s s' ∧ BundleCounted l s s' ∧
      KeepsBut [.regs, .tiles] s s' := by
  obtain ⟨-, hop⟩ := h.inC
  have hchecks := h.cChecked
  simp only [cCheck, hop, cOp] at hchecks
  have hmet := firstBad_ok hchecks _ (List.mem_cons_of_mem _ (List.mem_cons_of_mem _ (List.mem_singleton_self _)))
  refine ⟨?_, ?_⟩
  · split at hmet
    · next hsync =>
      have hle := of_decide_eq_true hsync
      rwa [BitVec.toNat_ofNat, Nat.mod_eq_of_lt (scalar_lt l _)] at hle
    · cases hmet
  · obtain ⟨s', hs', hwent, hothers, htile, hcount, hkeeps⟩ := h.controlAlone (by simp only [cEffect, hop, cOp])
    exact ⟨s', congrArg Host.Outcome.next hs', hwent, hothers, htile, hcount (by rw [isBranch, hop]; rfl), hkeeps⟩

/-- The amount a list of adds gives an object. -/
def addedTo (n : Nat) (adds : List (Nat × Nat)) : Option Nat := (adds.find? fun a => a.1 = n).map (·.2)

theorem addedTo_map (n v : Nat) (adds : List (Nat × Nat)) :
    addedTo n (adds.map fun a => if a.1 = n then (n, a.2 + v) else a) = (addedTo n adds).map (· + v) := by
  unfold addedTo
  induction adds with
  | nil => rfl
  | cons a adds ih => by_cases ha : a.1 = n <;> simp_all

theorem addedTo_append {n : Nat} {adds : List (Nat × Nat)} (h : (adds.any fun a => a.1 = n) = false) (v : Nat) :
    addedTo n (adds ++ [(n, v)]) = some v := by
  unfold addedTo
  rw [List.find?_append, List.find?_eq_none.2 (by simpa [List.any_eq_false] using h)]
  simp

/-- An add on behalf of a job waits for its retirement together with those to the same object (R278). -/
theorem addedTo_merged (n v : Nat) (adds : List (Nat × Nat)) : addedTo n (if adds.any fun a => a.1 = n then
    adds.map fun a => if a.1 = n then (n, a.2 + v) else a else adds ++ [(n, v)]) = some ((adds.find? fun a => a.1 = n).elim 0 (·.2) + v) := by
  have helim : (adds.find? fun a => a.1 = n).elim 0 (·.2) = (addedTo n adds).getD 0 := by
    unfold addedTo
    cases adds.find? fun a => a.1 = n <;> rfl
  rw [helim]
  cases h : adds.any fun a => a.1 = n with
  | true =>
    obtain ⟨a, ha, han⟩ := List.any_eq_true.1 h
    have hsome : (addedTo n adds).isSome = true := by
      unfold addedTo
      rw [Option.isSome_map, List.find?_isSome]
      exact ⟨a, ha, han⟩
    obtain ⟨w, hw⟩ := Option.isSome_iff_exists.1 hsome
    rw [if_pos rfl, addedTo_map, hw]
    rfl
  | false =>
    have hnone : addedTo n adds = none := by
      unfold addedTo
      rw [List.find?_eq_none.2 (by simpa [List.any_eq_false] using h)]
      rfl
    simp only [Bool.false_eq_true, if_false]
    rw [addedTo_append h, hnone, Option.getD_none, Nat.zero_add]

theorem jobAdds_commit {id : JobId} {n v : Nat} {j : Job} (hkind : (obj s n).kind = 0) (hj : jobOf s id = some j) :
    ∃ k, jobOf (jobAdds s id n v) id = some k ∧
      addedTo n k.adds = some ((j.adds.find? fun a => a.1 = n).elim 0 (·.2) + v) := by
  unfold jobAdds
  rw [if_pos hkind, jobOf_updJob (by intro _; rfl), hj]
  exact ⟨_, rfl, addedTo_merged n v j.adds⟩

theorem jobAdds_registers (s : State) (id : JobId) (n v : Nat) : RegistersKept s (jobAdds s id n v) := by
  unfold jobAdds
  split
  · exact .of_tiles (updJob_tiles ..)
  · exact .addObj _ _ _ _

theorem jobAdds_obj (s : State) (id : JobId) {n k : Nat} (v : Nat) (h : k ≠ n) : obj (jobAdds s id n v) k = obj s k := by
  unfold jobAdds
  split
  · exact obj_congr (updJob_objs ..) k
  · rw [addObj_obj, if_neg h]

theorem jobAdds_atOnce {id : JobId} {n : Nat} (v : Nat) (h : (obj s n).kind ≠ 0) : jobAdds s id n v = addObj s n v id := by
  unfold jobAdds
  rw [if_neg h]

theorem syadd_adds (h : Issues .syadd t b 0 l f o s) : ∃ s', exec (.syadd t b) s = .next s' ∧
    WentOn l f o l.r s' ∧
    ((obj s (objNamed l o).1).kind ≠ 0 →
      (obj s' (objNamed l o).1).count = BitVec.ofNat 64 (min (2 ^ 64 - 1) ((obj s (objNamed l o).1).count.toNat + l.s (o.f 27 5))) ∧
      KeepsBut wakeParts s s') ∧
    ((obj s (objNamed l o).1).kind = 0 →
      (∃ j k, jobOf s l.job = some j ∧ jobOf s' l.job = some k ∧
        ((k.adds.find? fun a => a.1 = (objNamed l o).1).map (·.2)) =
          some (((j.adds.find? fun a => a.1 = (objNamed l o).1).elim 0 (·.2)) + l.s (o.f 27 5))) ∧
      OthersKept l s s' ∧ KeepsBut [.regs, .jobs, .tiles] s s') ∧
    (∀ n, n ≠ (objNamed l o).1 → obj s' n = obj s n) := by
  obtain ⟨-, hop⟩ := h.inC
  obtain ⟨-, -, htask, -, j, hj⟩ := laneAt_task h.1
  have hx : cEffect l o s = jobAdds s l.job (objNamed l o).1 (l.s (o.f 27 5)) := by simp only [cEffect, hop, cOp]
  have hregs := (jobAdds_registers s l.job (objNamed l o).1 (l.s (o.f 27 5)) l.t l.c).trans htask
  obtain ⟨s', hs', hwent, hframe, hothers, -, -⟩ := h.control hx hregs
  have hobj : ∀ n, obj s' n = obj (jobAdds s l.job (objNamed l o).1 (l.s (o.f 27 5))) n := obj_congr (hframe.keeps .objs (by decide))
  refine ⟨s', congrArg Host.Outcome.next hs', hwent, fun hkind => ?_, fun hkind => ?_, fun n hn => ?_⟩
  · rw [jobAdds_atOnce _ hkind] at hobj hframe
    refine ⟨by rw [hobj, addObj_obj, if_pos rfl], ?_⟩
    exact (Frame.step hframe rfl (Frame.step (addObj_frame ..) rfl (Frame.refl _)) : Frame (partMask wakeParts) s s').named
  · obtain ⟨k, hk, hadds⟩ := jobAdds_commit (v := l.s (o.f 27 5)) hkind hj
    have hcommit : Frame (partMask [.jobs]) s (jobAdds s l.job (objNamed l o).1 (l.s (o.f 27 5))) := by
      unfold jobAdds
      rw [if_pos hkind]
      exact updJob_frame ..
    refine ⟨⟨j, k, hj, (hframe.jobOf_eq l.job).trans hk, hadds⟩, (TaskKept.of_tiles hcommit.tiles_eq).others.trans hothers, ?_⟩
    exact (Frame.step hframe rfl (Frame.step hcommit rfl (Frame.refl _)) : Frame (partMask [.regs, .jobs, .tiles]) s s').named
  · rw [hobj, jobAdds_obj s l.job _ hn]

/-! ### Handle queues (R183, R282 to R284) -/

/-- Poison in what slot `k` publishes has reached an output of the job (R38, R193). -/
def spoiledBy (s : State) (l : Lane) (q : Queue) (k : Nat) (x : State) : State :=
  if slotPoisoned s q k then orderAbort (updJob x l.job fun j => { j with poisonOut := true }) l.job 0 else x

theorem spoiledBy_frame (s : State) (l : Lane) (q : Queue) (k : Nat) (x : State) : Frame (partMask [.jobs]) x (spoiledBy s l q k x) := by
  unfold spoiledBy
  exact Frame.ite (Frame.step (orderAbort_frame ..) rfl (updJob_frame ..)) (Frame.refl _)

theorem spoiledBy_orders {x : State} {q : Queue} {k : Nat} {j : Job} (hp : slotPoisoned s q k = true) (hj : jobOf x l.job = some j)
    (hplace : holdsPlace j = true) (hnone : j.abortOrder = none) :
    (jobOf (spoiledBy s l q k x) l.job).map (fun k => (k.poisonOut, k.abortOrder)) = some (true, some 0) := by
  have hheld : (holdsPlace { j with poisonOut := true } && j.abortOrder.isNone) = true := by
    rw [hnone]
    exact Bool.and_eq_true_iff.2 ⟨hplace, rfl⟩
  unfold spoiledBy
  rw [if_pos hp, jobOf_orderAbort, jobOf_updJob (by intro _; rfl), hj]
  simp only [Option.map_some, hheld, if_true]

/-- A HALO queue once the entry that the task holds has been published, if it holds one. -/
def entryPublished (s : State) (l : Lane) (qn a : Nat) : State :=
  let q := queue s qn
  if a = 0 then s else spoiledBy s l q (q.tail - 1) (cnt (publishHalo s qn (q.tail - 1) (slotPoisoned s q (q.tail - 1))
    (l.job :: List.replicate q.decl.refs 0)) Reg.SY_CNT_PUSHES)

/-- A slot of another queue has been pushed, if the task holds one: that of a STREAMING queue is published at once. -/
def slotPublished (s : State) (l : Lane) (qn a : Nat) : State :=
  let q := queue s qn
  let x := if a = 0 then s else cnt s Reg.SY_CNT_PUSHES
  match if a = 0 || q.decl.kind ≠ 1 then none else fillingSlot q with
  | some k => spoiledBy s l q k x
  | none => x

theorem doPush_halo {qn : Nat} (hk : (queue s qn).decl.kind = 2) (ad a : Nat) : doPush s l qn ad a =
    l.put (putQueue (entryPublished s l qn a) qn (takeHalo (queue (entryPublished s l qn a) qn) l.job
      (haloTagOf s l.job qn (queue s qn).tail))) (fun r => r.wA ad (slotRef (queue s qn) (queue s qn).tail) false) := by
  unfold doPush
  dsimp only
  rw [if_pos hk]
  rfl

theorem doPush_slot {qn : Nat} (hk : (queue s qn).decl.kind ≠ 2) (ad a : Nat) : doPush s l qn ad a =
    l.put (putQueue (slotPublished s l qn a) qn (takeSlot (if a = 0 then queue s qn
      else (fillingSlot (queue s qn)).elim (queue s qn) (pushSlot (queue s qn)))))
      (fun r => r.wA ad (slotRef (queue s qn) (queue s qn).tail) false) := by
  unfold doPush
  dsimp only
  rw [if_neg hk]
  rfl

theorem slotPublished_frame (s : State) (l : Lane) (qn a : Nat) : Frame (partMask [.regs, .jobs]) s (slotPublished s l qn a) := by
  have hcount : Frame (partMask [.regs, .jobs]) s (if a = 0 then s else cnt s Reg.SY_CNT_PUSHES) :=
    Frame.ite (Frame.refl _) (Frame.step (cnt_frame ..) rfl (Frame.refl _))
  unfold slotPublished
  dsimp only
  split
  · exact Frame.step (spoiledBy_frame ..) rfl hcount
  · exact hcount

theorem entryPublished_registers (s : State) (l : Lane) (qn a : Nat) : RegistersKept s (entryPublished s l qn a) := by
  unfold entryPublished
  dsimp only
  split
  · exact .of_tiles rfl
  · exact .trans (.publishHalo _ _ _ _ _) (.of_tiles ((spoiledBy_frame ..).tiles_eq.trans (cnt_tiles ..)))

theorem entryPublished_queue (s : State) (l : Lane) (qn a n : Nat) : queue (entryPublished s l qn a) n = if a = 0 then queue s n else
    queue (publishHalo s qn ((queue s qn).tail - 1) (slotPoisoned s (queue s qn) ((queue s qn).tail - 1))
      (l.job :: List.replicate (queue s qn).decl.refs 0)) n := by
  unfold entryPublished
  dsimp only
  split
  · rfl
  · rw [queue_congr ((spoiledBy_frame ..).keeps .queues (by decide)), queue_congr (cnt_queues ..)]

theorem entryPublished_orders {qn a : Nat} {j : Job} (ha : a ≠ 0)
    (hp : slotPoisoned s (queue s qn) ((queue s qn).tail - 1) = true) (hj : jobOf s l.job = some j)
    (hplace : holdsPlace j = true) (hnone : j.abortOrder = none) :
    (jobOf (entryPublished s l qn a) l.job).map (fun k => (k.poisonOut, k.abortOrder)) = some (true, some 0) := by
  obtain ⟨k, hk, hplace', horder, -⟩ := (JobsWoken.publishHalo s qn ((queue s qn).tail - 1)
    (slotPoisoned s (queue s qn) ((queue s qn).tail - 1)) (l.job :: List.replicate (queue s qn).decl.refs 0)).jobOf hj
  unfold entryPublished
  rw [if_neg ha]
  exact spoiledBy_orders hp hk (hplace'.trans hplace) (horder.trans hnone)

theorem JobsWoken.marks {s t : State} (h : JobsWoken s t) {id : JobId} {m : Bool × Option Nat}
    (hm : (Machine.jobOf s id).map (fun k => (k.poisonOut, k.abortOrder)) = some m) :
    (Machine.jobOf t id).map (fun k => (k.poisonOut, k.abortOrder)) = some m := by
  obtain ⟨j, hj, rfl⟩ := Option.map_eq_some_iff.1 hm
  obtain ⟨k, hk, -, horder, hpoison⟩ := h.jobOf hj
  rw [hk, Option.map_some, horder, hpoison]

/-- What a push leaves: the address in its register, and the queue with its next slot taken. -/
theorem doPush_registers (s : State) (l : Lane) (qn ad a : Nat) : (ctxOf (doPush s l qn ad a) l.t l.c).regs =
    (ctxOf s l.t l.c).regs.wA ad (slotRef (queue s qn) (queue s qn).tail) false := by
  by_cases hk : (queue s qn).decl.kind = 2
  · rw [doPush_halo hk, put_regs_task, RegistersKept.putQueue, entryPublished_registers]
  · rw [doPush_slot hk, put_regs_task, RegistersKept.putQueue, RegistersKept.of_tiles (slotPublished_frame ..).tiles_eq]

theorem put_queue (l : Lane) (s : State) (g : Regs → Regs) (n : Nat) : queue (l.put s g) n = queue s n :=
  queue_congr ((Lane.put_frame ..).keeps .queues (by decide)) n

theorem doPush_others (s : State) (l : Lane) {qn n : Nat} (ad a : Nat) (hn : n ≠ qn) : queue (doPush s l qn ad a) n = queue s n := by
  by_cases hk : (queue s qn).decl.kind = 2
  · rw [doPush_halo hk, put_queue, putQueue_queue, if_neg hn, entryPublished_queue]
    split
    · rfl
    · exact publishHalo_queue hn
  · rw [doPush_slot hk, put_queue, putQueue_queue, if_neg hn, queue_congr ((slotPublished_frame ..).keeps .queues (by decide))]

theorem hqpush_pushes (h : Issues .hqpush t b 0 l f o s) : ∃ s', exec (.hqpush t b) s = .next s' ∧
    (let qn := (queueNamed l o).1
     let q := queue s qn
     let a := l.a (o.f 28 4)
     WentOn l f o (l.r.wA (o.f 28 4) (slotRef q q.tail) false) s' ∧
     (q.decl.kind ≠ 2 → queue s' qn = takeSlot (if a = 0 then q else (fillingSlot q).elim q (pushSlot q))) ∧
     (q.decl.kind = 2 → queue s' qn = takeHalo (if a = 0 then q
       else queue (publishHalo s qn (q.tail - 1) (slotPoisoned s q (q.tail - 1)) (l.job :: List.replicate q.decl.refs 0)) qn)
       l.job (haloTagOf s l.job qn q.tail)) ∧
     (q.decl.kind ≠ 2 → KeepsBut [.regs, .jobs, .queues, .tiles] s s') ∧
     (a ≠ 0 → q.decl.kind = 2 → slotPoisoned s q (q.tail - 1) = true → ∀ j, jobOf s l.job = some j → holdsPlace j = true →
       j.abortOrder = none → (jobOf s' l.job).map (fun k => (k.poisonOut, k.abortOrder)) = some (true, some 0)) ∧
     (∀ n, n ≠ qn → queue s' n = queue s n)) ∧ KeepsBut ([.jobs, .queues] ++ wakeParts) s s' := by
  obtain ⟨-, hop⟩ := h.inC
  obtain ⟨-, -, htask, -, -⟩ := laneAt_task h.1
  have hx : cEffect l o s = doPush s l (queueNamed l o).1 (o.f 28 4) (l.a (o.f 28 4)) := by simp only [cEffect, hop, cOp]
  obtain ⟨s', hs', hwent, hframe, -, -, -⟩ := h.control hx (by rw [doPush_registers, htask])
  have hqueue : ∀ n, queue s' n = queue (doPush s l (queueNamed l o).1 (o.f 28 4) (l.a (o.f 28 4))) n :=
    queue_congr (hframe.keeps .queues (by decide))
  refine ⟨s', congrArg Host.Outcome.next hs', ⟨hwent, fun hk => ?_, fun hk => ?_, fun hk => ?_, fun ha hk hp j hj hplace hnone => ?_,
    fun n hn => by rw [hqueue, doPush_others s l _ _ hn]⟩, ?_⟩
  · rw [hqueue, doPush_slot hk, put_queue, putQueue_queue, if_pos rfl]
  · rw [hqueue, doPush_halo hk, put_queue, putQueue_queue, if_pos rfl, entryPublished_queue]
  · rw [doPush_slot hk] at hframe
    exact (Frame.step hframe rfl (Frame.step (Lane.put_frame ..) rfl (Frame.step (putQueue_frame ..) rfl
      (Frame.step (slotPublished_frame ..) rfl (Frame.refl _)))) : Frame (partMask [.regs, .jobs, .queues, .tiles]) s s').named
  · rw [hframe.jobOf_eq, doPush_halo hk, (Lane.put_frame ..).jobOf_eq]
    exact (JobsWoken.putQueue ..).marks (entryPublished_orders ha hp hj hplace hnone)
  · exact (Frame.step hframe rfl (Frame.step (doPush_frame ..) rfl (Frame.refl _)) :
      Frame (partMask ([.jobs, .queues] ++ wakeParts)) s s').named

/-- A pop puts back the queue with its next slot taken, and writes the slot's address. -/
theorem doPop_eq (s : State) (l : Lane) (qn ad : Nat) : doPop s l qn ad =
    l.put (putQueue (cnt s Reg.SY_CNT_POPS) qn (if (queue s qn).decl.kind = 2 then popHalo (queue s qn) l.job l.tmpl else popSlot (queue s qn)))
      (fun r => r.wA ad (slotRef (queue s qn) (if (queue s qn).decl.kind = 2 then mget 0 (queue s qn).hpos l.tmpl else (queue s qn).head)) false) := by
  unfold doPop
  dsimp only
  split <;> rfl

theorem hqpop_pops (h : Issues .hqpop t b 0 l f o s) : ∃ s', exec (.hqpop t b) s = .next s' ∧
    (let qn := (queueNamed l o).1
     let q := queue s qn
     WentOn l f o (l.r.wA (o.f 28 4) (slotRef q (if q.decl.kind = 2 then mget 0 q.hpos l.tmpl else q.head)) false) s' ∧
     queue s' qn = (if q.decl.kind = 2 then popHalo q l.job l.tmpl else popSlot q) ∧
     ∀ n, n ≠ qn → queue s' n = queue s n) ∧ KeepsBut [.regs, .jobs, .queues, .tiles] s s' := by
  obtain ⟨-, hop⟩ := h.inC
  obtain ⟨-, -, htask, -, -⟩ := laneAt_task h.1
  have hx : cEffect l o s = doPop s l (queueNamed l o).1 (o.f 28 4) := by simp only [cEffect, hop, cOp]
  have hcount : RegistersKept s (cnt s Reg.SY_CNT_POPS) := .of_tiles (cnt_tiles ..)
  obtain ⟨s', hs', hwent, hframe, -, -, -⟩ := h.control hx
    (by rw [doPop_eq, put_regs_task, RegistersKept.putQueue, hcount, htask])
  have hqueue : ∀ n, queue s' n = if n = (queueNamed l o).1 then _ else queue s n := fun n => by
    rw [queue_congr (hframe.keeps .queues (by decide)), doPop_eq, put_queue, putQueue_queue, queue_congr (cnt_queues ..)]
  refine ⟨s', congrArg Host.Outcome.next hs', ⟨hwent, by rw [hqueue, if_pos rfl], fun n hn => by rw [hqueue, if_neg hn]⟩, ?_⟩
  exact (Frame.step hframe rfl (Frame.step (doPop_frame ..) rfl (Frame.refl _)) :
    Frame (partMask [.regs, .jobs, .queues, .tiles]) s s').named

theorem doRel_queue (s : State) (qn n : Nat) : queue (doRel s qn) n = if n = qn then
    (if (queue s qn).decl.kind = 2 then queue s qn else (drainingSlot (queue s qn)).elim (queue s qn) (releaseSlot (queue s qn)))
    else queue s n := by
  unfold doRel
  dsimp only
  split
  · split <;> simp_all
  · split
    · next k hk => rw [putQueue_queue, hk]; rfl
    · next hk =>
      rw [hk]
      split <;> simp_all

theorem doRel_registers (s : State) (qn : Nat) : RegistersKept s (doRel s qn) := by
  unfold doRel
  dsimp only
  split
  · exact .of_tiles rfl
  · split
    · exact .putQueue _ _ _
    · exact .of_tiles rfl

theorem hqrel_releases (h : Issues .hqrel t b 0 l f o s) : ∃ s', exec (.hqrel t b) s = .next s' ∧
    (let qn := (queueNamed l o).1
     let q := queue s qn
     WentOn l f o l.r s' ∧
     queue s' qn = (if q.decl.kind = 2 then q else (drainingSlot q).elim q (releaseSlot q)) ∧
     ∀ n, n ≠ qn → queue s' n = queue s n) ∧ KeepsBut [.regs, .jobs, .queues, .tiles] s s' := by
  obtain ⟨-, hop⟩ := h.inC
  obtain ⟨-, -, htask, -, -⟩ := laneAt_task h.1
  have hx : cEffect l o s = doRel s (queueNamed l o).1 := by simp only [cEffect, hop, cOp]
  obtain ⟨s', hs', hwent, hframe, -, -, -⟩ := h.control hx ((doRel_registers s _ l.t l.c).trans htask)
  have hqueue : ∀ n, queue s' n = queue (doRel s (queueNamed l o).1) n := queue_congr (hframe.keeps .queues (by decide))
  refine ⟨s', congrArg Host.Outcome.next hs', ⟨hwent, by rw [hqueue, doRel_queue, if_pos rfl],
    fun n hn => by rw [hqueue, doRel_queue, if_neg hn]⟩, ?_⟩
  exact (Frame.step hframe rfl (Frame.step (doRel_frame ..) rfl (Frame.refl _)) :
    Frame (partMask [.regs, .jobs, .queues, .tiles]) s s').named

end

end Sys2Proof.Machine

open Sys2Proof Sys2Proof.Machine

set_option Elab.async false

/-- Settles O26: each clause is what its operation does, shown above, behind which the bundle goes on. -/
theorem branchesSyncAndQueues : Obligations.BranchesSyncAndQueues := by
  unfold Obligations.BranchesSyncAndQueues
  refine ⟨fun _ _ _ _ _ _ _ => ⟨br_branches, call_links, jr_links, rpt_repeats⟩, fun _ _ _ _ _ _ => ⟨?_, ?_, ?_, ?_, ?_⟩⟩
  · exact sywait_passes
  · exact syadd_adds
  · exact hqpush_pushes
  · exact hqpop_pops
  · exact hqrel_releases

end

section
/-! PROOFS. What a lane task hands over: `emit`, the array's commands, fences, `isync` and `done`; the clauses of `EmitArrayAndEnd`,
and the statement. -/

namespace Sys2Proof.Machine

set_option Elab.async false

/-! ### Orders to abort leave what a job has staged (R191, R286) -/

/-- Jobs have at most been ordered to abort: what each has staged stands, and so does an order it had. -/
def JobsOrdered (s t : State) : Prop := ∃ g : Job → Job, t.jobs = s.jobs.map g ∧ ∀ j, (g j).id = j.id ∧
  (g j).staged = j.staged ∧ (g j).emits = j.emits ∧ (g j).poisonOut = j.poisonOut ∧
  (j.abortOrder ≠ none → (g j).abortOrder = j.abortOrder)

namespace JobsOrdered
variable {s x t : State}

theorem of_jobs (h : t.jobs = s.jobs) : JobsOrdered s t :=
  ⟨id, by rw [h, List.map_id], fun _ => ⟨rfl, rfl, rfl, rfl, fun _ => rfl⟩⟩

theorem trans (h : JobsOrdered s x) (h' : JobsOrdered x t) : JobsOrdered s t := by
  obtain ⟨g, hg, hkeeps⟩ := h
  obtain ⟨g', hg', hkeeps'⟩ := h'
  refine ⟨g' ∘ g, by rw [hg', hg, List.map_map], fun j => ?_⟩
  obtain ⟨hid, hstaged, hemits, hpoison, horder⟩ := hkeeps j
  obtain ⟨hid', hstaged', hemits', hpoison', horder'⟩ := hkeeps' (g j)
  exact ⟨hid'.trans hid, hstaged'.trans hstaged, hemits'.trans hemits, hpoison'.trans hpoison,
    fun hj => (horder' (by rwa [horder hj])).trans (horder hj)⟩

theorem ite {a b : State} {c : Prop} [Decidable c] (ha : JobsOrdered s a) (hb : JobsOrdered s b) : JobsOrdered s (if c then a else b) := by
  split
  · exact ha
  · exact hb

theorem orderAbort (s : State) (id : JobId) (cause : Nat) : JobsOrdered s (Machine.orderAbort s id cause) := by
  refine ⟨fun j => if j.id == id then (if holdsPlace j && j.abortOrder.isNone then { j with abortOrder := some cause } else j) else j,
    rfl, fun j => ?_⟩
  dsimp only
  split
  · split
    · next h =>
      refine ⟨rfl, rfl, rfl, rfl, fun hj => absurd ?_ hj⟩
      simp only [Bool.and_eq_true, Option.isNone_iff_eq_none] at h
      exact h.2
    · exact ⟨rfl, rfl, rfl, rfl, fun _ => rfl⟩
  · exact ⟨rfl, rfl, rfl, rfl, fun _ => rfl⟩

theorem ordered (s : State) (ids : List JobId) : JobsOrdered s (thread (fun s' v => Machine.orderAbort s' v 0) s ids) := by
  induction ids generalizing s with
  | nil => exact .of_jobs rfl
  | cons v ids ih => exact (JobsOrdered.orderAbort s v 0).trans (ih _)

theorem slotJudge (s : State) (u : Nat) (id : JobId) (rep : Report) (acc : List (Nat × Nat × Bool)) :
    JobsOrdered s (Machine.slotJudge s u id rep acc) := by
  have hfails : JobsOrdered s (attemptFails (cntT s Reg.TA_CNT_SLOTPROT u 1) id rep) :=
    .trans (.of_jobs (cntT_frame ..).jobs_eq) (.trans (.orderAbort _ id _) (.of_jobs (report_jobs ..)))
  exact .ite (.of_jobs rfl) (.ite (.of_jobs rfl) (hfails.trans (.ordered _ _)))

theorem accessesJudged (s : State) (l : Lane) (o : SlotOp) (x : State) : JobsOrdered x (Machine.accessesJudged s l o x) := by
  unfold Machine.accessesJudged
  split
  · split
    · exact .of_jobs rfl
    · exact .slotJudge _ _ _ _ _
  · exact .of_jobs rfl

theorem behind (s : State) (l : Lane) (f : Flow) (o : SlotOp) (x : State) : JobsOrdered x (Machine.behind s l f o x) := by
  have hcontrolled : JobsOrdered x (controlled l o (wentOn l f o x)) :=
    .of_jobs ((controlled_frame ..).jobs_eq.trans (wentOn_frame ..).jobs_eq)
  exact hcontrolled.trans (.trans (.accessesJudged _ _ _ _) (.of_jobs (debugStop_frame ..).jobs_eq))

theorem jobOf (h : JobsOrdered s t) {id : JobId} {j : Job} (hj : Machine.jobOf s id = some j) : ∃ k, Machine.jobOf t id = some k ∧
    k.staged = j.staged ∧ k.emits = j.emits ∧ k.poisonOut = j.poisonOut ∧ (j.abortOrder ≠ none → k.abortOrder = j.abortOrder) := by
  obtain ⟨g, hg, hkeeps⟩ := h
  refine ⟨g j, ?_, (hkeeps j).2⟩
  rw [jobOf_mapped hg (fun j => (hkeeps j).1), hj]
  rfl

end JobsOrdered

theorem accessesJudged_frame (s : State) (l : Lane) (o : SlotOp) (x : State) :
    Frame (partMask [.regs, .fm, .jobs]) x (accessesJudged s l o x) := by
  unfold accessesJudged
  split
  · exact Frame.ite (Frame.refl _) (Frame.step (slotJudge_frame ..) rfl (Frame.refl _))
  · exact Frame.refl _

section
variable {row : LaneRow} {t : Fin 256} {b : BitVec 128} {l : Lane} {f : Flow} {o : SlotOp} {s : State}

/-! ### `emit` (R185, R193, R213) -/

theorem doEmit_stages {j : Job} (hj : jobOf s l.job = some j)
    (hp : (laneRead s l.t (emitBytes s l o).1 (emitBytes s l o).2 []).any (·.2) = false) : jobOf (doEmit s l o) l.job =
      some { j with
        staged := j.staged ++ [emitStaged s j (o.f 27 1 = 1)
          ((laneRead s l.t (emitBytes s l o).1 (emitBytes s l o).2 []).map (·.1))],
        emits := j.emits + 1 } := by
  unfold doEmit
  rw [hj]
  dsimp only
  rw [hp, if_neg Bool.false_ne_true, jobOf_updJob (by intro _; rfl), hj]
  rfl

theorem doEmit_fails {j : Job} (hj : jobOf s l.job = some j)
    (hp : (laneRead s l.t (emitBytes s l o).1 (emitBytes s l o).2 []).any (·.2) = true) : ∃ k, jobOf (doEmit s l o) l.job = some k ∧
      k.staged = j.staged ∧ k.poisonOut = true ∧ (holdsPlace j = true → j.abortOrder = none → k.abortOrder = some 0) := by
  unfold doEmit
  rw [hj]
  dsimp only
  rw [hp, if_pos rfl, jobOf_orderAbort, jobOf_updJob (by intro _; rfl), hj]
  refine ⟨_, rfl, ?_⟩
  dsimp only
  have hplace : holdsPlace { j with poisonOut := true } = holdsPlace j := rfl
  rw [hplace]
  split
  · exact ⟨rfl, rfl, fun _ _ => rfl⟩
  · next h => exact ⟨rfl, rfl, fun hh hn => absurd (by rw [hh, hn]; rfl) h⟩

theorem emit_stages (h : Issues .emit t b 0 l f o s) : ∃ s', exec (.emit t b) s = .next s' ∧ WentOn l f o l.r s' ∧ TileKept l s s' ∧
    (let bs := laneRead s l.t (emitBytes s l o).1 (emitBytes s l o).2 []
     ∃ j k, jobOf s l.job = some j ∧ jobOf s' l.job = some k ∧
       (bs.any (·.2) = false →
         k.staged = j.staged ++ [emitStaged s j (decide (o.f 27 1 = 1)) (bs.map (·.1))] ∧ k.emits = j.emits + 1) ∧
       (bs.any (·.2) = true → k.staged = j.staged ∧ k.poisonOut = true ∧
         (holdsPlace j = true → j.abortOrder = none → k.abortOrder = some 0))) ∧
    OthersKept l s s' ∧ KeepsBut [.regs, .fm, .jobs, .tiles] s s' := by
  obtain ⟨-, -, htask, -, j, hj⟩ := laneAt_task h.1
  obtain ⟨hk, hop⟩ := h.inC
  have heffect : slotEffect s l [] s o = doEmit s l o := by
    unfold slotEffect cEffect
    simp only [hk, hop, cOp]
  have hs' : exec (.emit t b) s = .next (behind s l f o (doEmit s l o)) :=
    congrArg Host.Outcome.next ((h.commits []).trans (by rw [heffect]))
  have hemit : TaskKept l s (doEmit s l o) := .of_tiles (doEmit_frame ..).tiles_eq
  have hordered := JobsOrdered.behind s l f o (doEmit s l o)
  refine ⟨_, hs', behind_wentOn s l f o (hemit.regs.trans htask), hemit.tile.trans (behind_tile ..), ?_,
    hemit.others.trans (behind_others ..), ?_⟩
  · cases hp : (laneRead s l.t (emitBytes s l o).1 (emitBytes s l o).2 []).any (·.2) with
    | false =>
      obtain ⟨k, hk, hstaged, hemits, -⟩ := hordered.jobOf (doEmit_stages hj hp)
      exact ⟨j, k, hj, hk, fun _ => ⟨hstaged, hemits⟩, fun hf => absurd (hp.symm.trans hf) Bool.false_ne_true⟩
    | true =>
      obtain ⟨i, hi, histaged, hipoison, hiorder⟩ := doEmit_fails hj hp
      obtain ⟨k, hk, hstaged, -, hpoison, horder⟩ := hordered.jobOf hi
      refine ⟨j, k, hj, hk, fun hf => absurd (hf.symm.trans hp) Bool.false_ne_true, fun _ => ⟨hstaged.trans histaged, hpoison.trans hipoison,
        fun hplace hnone => ?_⟩⟩
      have hset := hiorder hplace hnone
      rw [horder (by rw [hset]; exact Option.some_ne_none 0), hset]
  · unfold behind
    exact (Frame.step (debugStop_frame ..) rfl (Frame.step (accessesJudged_frame ..) rfl (Frame.step (controlled_frame ..) rfl
      (Frame.step (wentOn_frame ..) rfl (Frame.step (doEmit_frame ..) rfl (Frame.refl _))))) :
        Frame (partMask [.regs, .fm, .jobs, .tiles]) s (debugStop _ l.t l.c)).named

/-! ### Commands of the array (R184, R373) -/

/-- The command that an `mx` operation gives the array. -/
def mxCommand (l : Lane) (o : SlotOp) : MxCmd :=
  match o.f 28 4 with
  | 1 => .run l.c (o.f 0 5 + 1) (l.a (o.f 24 4)) (l.a (o.f 20 4)) (l.s (o.f 15 5)) (l.s (o.f 10 5)) l.r.pc
  | 2 => .cbload l.c (o.f 0 1 = 1) (o.f 1 1 = 1) (l.a (o.f 24 4)) l.r.pc
  | _ => .signal l.c (l.s (o.f 10 5)) (BitVec.ofNat 64 (l.s (o.f 15 5))) l.r.pc

theorem doMx_queues (s : State) (l : Lane) (o : SlotOp) :
    doMx s l o = updTile s l.t fun u => { u with mxq := u.mxq ++ [queued s l (mxCommand l o)] } := rfl

/-- The subcode of a row's operation, for the rows of the array's commands. -/
def mxCode : LaneRow → Nat
  | .mxRun => 1 | .mxCbload => 2 | .mxSignal => 3
  | _ => 0

theorem rowOfOp_mx {r : LaneRow} (h : rowOfOp o = some r) (hc : rowKind r = .c := by rfl) (hr : cOp r = 0x0C := by rfl) :
    o.f 28 4 = mxCode r := by
  obtain ⟨hk, hop⟩ := rowOfOp_c h hc
  unfold rowOfOp at h
  simp only [hk, hop, hr] at h
  split at h
  all_goals grind [mxCode]

theorem Issues.queues (h : Issues row t b 0 l f o s) (hc : rowKind row = .c := by rfl) (hx : cOp row = 0x0C := by rfl) :
    ∃ s', laneIssue row t.val b 0 [] s = s' ∧ WentOn l f o l.r s' ∧
      (tile s' l.t).mxq = (tile s l.t).mxq ++ [queued s l (mxCommand l o)] ∧
      OthersKept l s s' ∧ BundleCounted l s s' ∧ KeepsBut [.regs, .tiles] s s' := by
  obtain ⟨-, -, htask, -, -⟩ := laneAt_task h.1
  obtain ⟨-, hop⟩ := h.inC hc
  rw [hx] at hop
  have heffect : cEffect l o s = doMx s l o := by simp only [cEffect, hop]
  have hctxs : ∀ u : Tile, ({ u with mxq := u.mxq ++ [queued s l (mxCommand l o)] } : Tile).ctxs = u.ctxs := fun _ => rfl
  obtain ⟨s', hs', hwent, hframe, hothers, htile, hcount⟩ := h.control heffect
    (by rw [doMx_queues, ctxOf_updTile_self s l.t l.c hctxs, htask]) hc (by rintro rfl; cases hx)
  obtain ⟨-, hmxq, -⟩ := htile
  refine ⟨s', hs', hwent, ?_, (othersKept_updTile l s hctxs).trans hothers, hcount (by rw [isBranch, hop]; rfl) rfl rfl,
    (Frame.step hframe rfl (Frame.step (doMx_frame ..) rfl (Frame.refl _)) : Frame (partMask [.regs, .tiles]) s s').named⟩
  rw [hmxq, doMx_queues, tile_updTile_self]

theorem mxRun_queues (h : Issues .mxRun t b 0 l f o s) : ∃ s', exec (.mxRun t b) s = .next s' ∧ WentOn l f o l.r s' ∧
    (tile s' l.t).mxq = (tile s l.t).mxq ++
      [queued s l (.run l.c (o.f 0 5 + 1) (l.a (o.f 24 4)) (l.a (o.f 20 4)) (l.s (o.f 15 5)) (l.s (o.f 10 5)) l.r.pc)] ∧
    OthersKept l s s' ∧ BundleCounted l s s' ∧ KeepsBut [.regs, .tiles] s s' := by
  obtain ⟨s', hs', hqueued⟩ := h.queues
  simp only [mxCommand, rowOfOp_mx h.ofRow, mxCode] at hqueued
  exact ⟨s', congrArg Host.Outcome.next hs', hqueued⟩

theorem mxCbload_queues (h : Issues .mxCbload t b 0 l f o s) : ∃ s', exec (.mxCbload t b) s = .next s' ∧ WentOn l f o l.r s' ∧
    (tile s' l.t).mxq = (tile s l.t).mxq ++
      [queued s l (.cbload l.c (o.f 0 1 = 1) (o.f 1 1 = 1) (l.a (o.f 24 4)) l.r.pc)] ∧
    OthersKept l s s' ∧ BundleCounted l s s' ∧ KeepsBut [.regs, .tiles] s s' := by
  obtain ⟨s', hs', hqueued⟩ := h.queues
  simp only [mxCommand, rowOfOp_mx h.ofRow, mxCode] at hqueued
  exact ⟨s', congrArg Host.Outcome.next hs', hqueued⟩

theorem mxSignal_queues (h : Issues .mxSignal t b 0 l f o s) : ∃ s', exec (.mxSignal t b) s = .next s' ∧ WentOn l f o l.r s' ∧
    (tile s' l.t).mxq = (tile s l.t).mxq ++
      [queued s l (.signal l.c (l.s (o.f 10 5)) (BitVec.ofNat 64 (l.s (o.f 15 5))) l.r.pc)] ∧
    OthersKept l s s' ∧ BundleCounted l s s' ∧ KeepsBut [.regs, .tiles] s s' := by
  obtain ⟨s', hs', hqueued⟩ := h.queues
  simp only [mxCommand, rowOfOp_mx h.ofRow, mxCode] at hqueued
  exact ⟨s', congrArg Host.Outcome.next hs', hqueued⟩

theorem mxfence_passes (h : Issues .mxfence t b 0 l f o s) : (tile s l.t).mxq.any (fun e => e.job = l.job) = false ∧
    ∃ s', exec (.mxfence t b) s = .next s' ∧ WentOn l f o l.r s' ∧ OthersKept l s s' ∧ TileKept l s s' ∧ BundleCounted l s s' ∧
      KeepsBut [.regs, .tiles] s s' := by
  obtain ⟨-, hop⟩ := h.inC
  have hcheck := h.cChecked
  simp only [cCheck, hop, cOp] at hcheck
  refine ⟨?_, ?_⟩
  · split at hcheck
    · cases hcheck
    · next hnone => simpa using hnone
  · obtain ⟨s', hs', hwent, hothers, htile, hcount, hkeeps⟩ := h.controlAlone (by simp only [cEffect, hop, cOp])
    exact ⟨s', congrArg Host.Outcome.next hs', hwent, hothers, htile, hcount (by rw [isBranch, hop]; rfl), hkeeps⟩

/-! ### `isync` (R192, R216) -/

theorem iramShow_tile (x : State) (t u : Nat) : tile (iramShow x t) u = if u = t then { tile x t with istq := [] } else tile x u :=
  tile_updTile ..

/-- With `IC` the tile's instruction cache is empty. -/
def cacheDropped (s : State) (l : Lane) (o : SlotOp) : State :=
  if o.f 0 1 = 1 then updTile s l.t fun u => { u with icache := [] } else s

theorem cacheDropped_tile (s : State) (l : Lane) (o : SlotOp) (u : Nat) : tile (cacheDropped s l o) u =
    { tile s u with icache := if o.f 0 1 = 1 ∧ u = l.t then [] else (tile s u).icache } := by
  unfold cacheDropped
  by_cases hic : o.f 0 1 = 1
  · by_cases hu : u = l.t
    · simp only [hic, hu, if_true, and_self, tile_updTile_self]
    · simp only [hic, hu, if_true, and_false, if_false, tile_updTile]
  · simp only [hic, false_and, if_false]

/-- What `isync` does to the tile and to instruction RAM. -/
def isyncShown (s : State) (l : Lane) (o : SlotOp) : State := iramShow (cacheDropped s l o) l.t

theorem isyncShown_tile (s : State) (l : Lane) (o : SlotOp) : tile (isyncShown s l o) l.t =
    { tile s l.t with icache := if o.f 0 1 = 1 then [] else (tile s l.t).icache, istq := [] } := by
  rw [isyncShown, iramShow_tile, if_pos rfl, cacheDropped_tile]
  simp only [and_true]

theorem isyncShown_others (s : State) (l : Lane) (o : SlotOp) : OthersKept l s (isyncShown s l o) := by
  refine ⟨fun c _ => ctxOf_congr (by rw [isyncShown_tile]) c, fun u hu => ?_⟩
  rw [isyncShown, iramShow_tile, if_neg hu, cacheDropped_tile, if_neg fun h => hu h.2]

theorem cacheDropped_frame (s : State) (l : Lane) (o : SlotOp) : Frame (partMask [.tiles]) s (cacheDropped s l o) :=
  Frame.ite (Frame.step (updTile_frame ..) rfl (Frame.refl _)) (Frame.refl _)

theorem isyncShown_frame (s : State) (l : Lane) (o : SlotOp) : Frame (partMask [.iram, .tiles]) s (isyncShown s l o) :=
  Frame.step (iramShow_frame ..) rfl (Frame.step (cacheDropped_frame ..) rfl (Frame.refl _))

theorem isyncShown_iram (s : State) (l : Lane) (o : SlotOp) : (isyncShown s l o).iram =
    wrParts 0 s.iram ((tile s l.t).istq.map fun p => (iramKey l.t p.1, p.2)) := by
  have hiram : (cacheDropped s l o).iram = s.iram := (cacheDropped_frame ..).keeps .iram (by decide)
  have hshow : (isyncShown s l o).iram = wrParts 0 (cacheDropped s l o).iram
    ((tile (cacheDropped s l o) l.t).istq.map fun p => (iramKey l.t p.1, p.2)) := rfl
  rw [hshow, hiram, cacheDropped_tile]

theorem wentOn_tile_eq (l : Lane) (f : Flow) (o : SlotOp) (x : State) :
    ∃ cs, tile (wentOn l f o x) l.t = { tile x l.t with ctxs := cs } := by
  refine ⟨mupd Ctx.empty (tile x l.t).ctxs l.c (ctxBehind l f o), ?_⟩
  unfold wentOn updCtx
  rw [tile_congr (cntT_frame ..).tiles_eq, tile_updTile_self]

theorem debugStop_tile_eq (x : State) (u c : Nat) :
    ∃ cs r, tile (debugStop x u c) u = { tile x u with ctxs := cs, haltReq := r } := by
  rcases debugStop_cases x u c with h | ⟨-, h⟩
  · exact ⟨_, _, by rw [h]⟩
  · exact ⟨mupd Ctx.empty (tile x u).ctxs c fun k => { k with state := .halted }, none, by
      rw [h, tile_updTile_self, updCtx, tile_updTile_self]⟩

theorem isync_shows (h : Issues .isync t b 0 l f o s) : ∃ s', exec (.isync t b) s = .next s' ∧ WentOn l f o l.r s' ∧
    (tile s' l.t).icache = (if o.f 0 1 = 1 then [] else (tile s l.t).icache) ∧ (tile s' l.t).loopHeld = false ∧
    s'.iram = wrParts 0 s.iram ((tile s l.t).istq.map fun p => (iramKey l.t p.1, p.2)) ∧ (tile s' l.t).istq = [] ∧
    OthersKept l s s' ∧ BundleCounted l s s' ∧ KeepsBut [.regs, .iram, .tiles] s s' := by
  obtain ⟨-, -, htask, -, -⟩ := laneAt_task h.1
  obtain ⟨hk, hop⟩ := h.inC
  have heffect : cEffect l o s = isyncShown s l o := by simp only [cEffect, hop, cOp]; rfl
  have hshown := isyncShown_tile s l o
  obtain ⟨s', hs', hwent, hframe, hothers, ⟨-, -, -, -, hicache⟩, hcount⟩ := h.control heffect
    (by rw [ctxOf_congr (t := isyncShown s l o) (s := s) (by rw [hshown]), htask])
  have hbehind : s' = debugStop (dropLoop (wentOn l f o (isyncShown s l o)) l.t) l.t l.c := by
    have hnone : judgedRanges s l o = [] := judgedRanges_none (by rw [hk]; decide) fun _ => by rw [hop]; decide
    rw [← hs', h.commits [], slotEffect, hk]
    dsimp only
    rw [heffect, behind, accessesJudged_none hnone]
    simp only [controlled, asC_self hk, hop, cOp, if_true, Nat.reduceEqDiff, if_false]
  obtain ⟨cs, hcs⟩ := wentOn_tile_eq l f o (isyncShown s l o)
  obtain ⟨cs', r, htile⟩ := debugStop_tile_eq (dropLoop (wentOn l f o (isyncShown s l o)) l.t) l.t l.c
  rw [← hbehind, dropLoop, tile_updTile_self, hcs, hshown] at htile
  have hx := isyncShown_frame s l o
  exact ⟨s', congrArg Host.Outcome.next hs', hwent, by rw [htile], by rw [htile],
    (hframe.keeps .iram (by decide)).trans (isyncShown_iram s l o), by rw [htile], (isyncShown_others s l o).trans hothers,
    hcount (by rw [isBranch, hop]; rfl) hx.regs_eq hx.grid_eq,
    (Frame.step hframe rfl (Frame.step hx rfl (Frame.refl _)) : Frame (partMask [.regs, .iram, .tiles]) s s').named⟩

/-! ### `done` (R183, R387) -/

def taskEnded (s : State) (l : Lane) : State := updJob s l.job fun j => { j with ended := true }

/-- The task's context as `done` leaves it, which only the job's retirement ends. -/
def ctxEnded (k : Ctx) : Ctx := { k with state := .waiting, wait := 0, waitFor := .none }

theorem done_ends (h : Issues .done t b 0 l f o s) : ∃ s', exec (.done t b) s = .next s' ∧
    (jobOf s' l.job).map (·.ended) = some true ∧ (tile s' l.t).running = none ∧ (ctxOf s' l.t l.c).state = .waiting ∧
    (ctxOf s' l.t l.c).job = (ctxOf s l.t l.c).job ∧ OthersKept l s s' ∧ TileKept l s s' ∧
    KeepsBut [.regs, .jobs, .tiles] s s' := by
  obtain ⟨-, -, htask, -, j, hj⟩ := laneAt_task h.1
  obtain ⟨hk, hop⟩ := h.inC
  have heffect : cEffect l o s = taskEnded s l := by simp only [cEffect, hop, cOp]; rfl
  have hx : TaskKept l s (taskEnded s l) := .of_tiles rfl
  obtain ⟨s', hs', -, hframe, hothers, htile, -⟩ := h.control heffect (hx.regs.trans htask)
  have hctx : ctxOf (leaveTile (wentOn l f o (taskEnded s l)) l ctxEnded) l.t l.c =
      ctxEnded (ctxBehind l f o (ctxOf (taskEnded s l) l.t l.c)) := by rw [leaveTile_ctx, wentOn_ctx]
  have hbehind : s' = leaveTile (wentOn l f o (taskEnded s l)) l ctxEnded := by
    have hnone : judgedRanges s l o = [] := judgedRanges_none (by rw [hk]; decide) fun _ => by rw [hop]; decide
    have hstop : s' = debugStop (leaveTile (wentOn l f o (taskEnded s l)) l ctxEnded) l.t l.c := by
      rw [← hs', h.commits [], slotEffect, hk]
      dsimp only
      rw [heffect, behind, accessesJudged_none hnone]
      simp only [controlled, asC_self hk, hop, cOp, if_true, Nat.reduceEqDiff, if_false,
        predict_other (show isBranch o = false by rw [isBranch, hop]; rfl)]
      rfl
    rcases debugStop_cases (leaveTile (wentOn l f o (taskEnded s l)) l ctxEnded) l.t l.c with hgoes | ⟨hrun, -⟩
    · rw [hstop, hgoes]
    · rw [hctx] at hrun
      cases hrun
  refine ⟨s', congrArg Host.Outcome.next hs', ?_, ?_, ?_, ?_, hx.others.trans hothers, hx.tile.trans htile, ?_⟩
  · rw [hframe.jobOf_eq, taskEnded, jobOf_updJob (by intro _; rfl), hj]
    rfl
  · rw [hbehind, leaveTile_running]
  · rw [hbehind, hctx, ctxEnded]
  · rw [hbehind, hctx]
    rfl
  · exact (Frame.step hframe rfl (Frame.step (updJob_frame ..) rfl (Frame.refl _)) :
      Frame (partMask [.regs, .jobs, .tiles]) s s').named

end

end Sys2Proof.Machine

open Sys2Proof Sys2Proof.Machine

set_option Elab.async false

/-- Settles O27: each clause is what its operation does, shown above, behind which the bundle goes on. -/
theorem emitArrayAndEnd : Obligations.EmitArrayAndEnd := by
  unfold Obligations.EmitArrayAndEnd
  exact fun _ _ _ _ _ _ => ⟨emit_stages, mxRun_queues, mxCbload_queues, mxSignal_queues, mxfence_passes, isync_shows, done_ends⟩

end

section
/-! PROOFS. The task fault handler, debug halts and resumption: the clauses of `TaskFaultsAndDebug`, and the statement. -/

namespace Sys2Proof.Machine

set_option Elab.async false

/-! ### The task fault handler (R194, R276) -/

section
variable {t : Fin 256} {c : Fin 8} {j : Job} {s : State}

/-- The attempt fails at the fault of its task. -/
def faultFails (s : State) (t c : Nat) (j : Job) (cause : Nat) : State :=
  attemptFails (updCtx s t c fun x => { x with state := .waiting, faultAt := none }) j.id (placeReport s j cause)

/-- A buffer of the task's own outside Solstice mode that the access overran, and that may be as large as the access needs. -/
def bufferGrows (s : State) (t c h o n : Nat) : Prop :=
  bitsOf (ctxOf s t c).regs.tstat.toNat 8 8 = 0x04 ∧ 128 ≤ h ∧ (ctxOf s t c).regs.tstat.getLsbD 0 = false ∧
    128 * (handleOf s t (entryOf c h)).len < o + n ∧ o + n ≤ 128 * (handleOf s t (entryOf c h)).maxlen

/-- A shared buffer that is absent, and that has a copy to be filled from. -/
def bufferFills (s : State) (t c h : Nat) : Prop :=
  bitsOf (ctxOf s t c).regs.tstat.toNat 8 8 = 0x06 ∧ h < 128 ∧ (handleOf s t (entryOf c h)).copy.isSome = true

theorem resumeFaulted_state (s : State) (t c : Nat) : (ctxOf (resumeFaulted s t c) t c).state = .ready := by
  unfold resumeFaulted
  rw [ctxOf_updCtx_self]

theorem handleOf_updCtx (s : State) (t c e : Nat) (f : Ctx → Ctx) : handleOf (updCtx s t c f) t e = handleOf s t e := by
  unfold handleOf updCtx
  rw [tile_updTile_self]

/-- The bundle issues again once a handle of the tile has been updated, which is counted. -/
theorem resumed_handle (s : State) (t c e : Nat) (f : Handle → Handle) (r : Fld) :
    handleOf (resumeFaulted (cntT (updHandle s t e f) r t 1) t c) t e = f (handleOf s t e) := by
  unfold resumeFaulted
  rw [handleOf_updCtx, handleOf, tile_congr (cntT_frame ..).tiles_eq]
  exact handleOf_updHandle_self ..

theorem resumed_frame (s : State) (t c e : Nat) (f : Handle → Handle) (r : Fld) :
    Frame (partMask [.regs, .tiles]) s (resumeFaulted (cntT (updHandle s t e f) r t 1) t c) :=
  Frame.step (resumeFaulted_frame ..) rfl (Frame.step (cntT_frame ..) rfl (Frame.step (updHandle_frame ..) rfl (Frame.refl _)))

theorem faultFails_ctx (s : State) (t c : Nat) (j : Job) (cause : Nat) :
    ctxOf (faultFails s t c j cause) t c = { ctxOf s t c with state := .waiting, faultAt := none } := by
  unfold faultFails
  rw [ctxOf_congr (congrArg Tile.ctxs (tile_congr (attemptFails_frame ..).tiles_eq _)), ctxOf_updCtx_self]

theorem faultFails_ordered {i : JobId} (hj : jobOf s i = some j) (t c cause : Nat) (hplace : holdsPlace j = true)
    (hnone : j.abortOrder = none) : (jobOf (faultFails s t c j cause) j.id).map (·.abortOrder) = some (some cause) := by
  have hjobs : jobOf (updCtx s t c fun x => { x with state := .waiting, faultAt := none }) j.id = some j := by
    rw [(updCtx_frame ..).jobOf_eq, jobOf_id hj, hj]
  have hcause : (placeReport s j cause).cause = cause := by
    unfold placeReport
    split <;> rfl
  unfold faultFails attemptFails
  rw [(report_frame ..).jobOf_eq, jobOf_orderAbort, hjobs, hcause]
  simp [hplace, hnone]

theorem faultFails_reported (s : State) (t c : Nat) (j : Job) (cause : Nat) :
    Reported s (faultFails s t c j cause) (placeReport s j cause) :=
  (report_reported ..).congr ((orderAbort_frame ..).fm_eq.trans (updCtx_frame ..).fm_eq)

theorem faultFails_frame (s : State) (t c : Nat) (j : Job) (cause : Nat) :
    Frame (partMask [.fm, .jobs, .tiles]) s (faultFails s t c j cause) :=
  Frame.step (attemptFails_frame ..) rfl (Frame.step (updCtx_frame ..) rfl (Frame.refl _))

/-- The attempt fails with the fault's cause, its registers as the fault left them. -/
theorem faultFails_fails (hj : ctxJob s t.val c.val = some j) (cause : Nat) :
    (ctxOf (faultFails s t.val c.val j cause) t.val c.val).state = .waiting ∧
    (ctxOf (faultFails s t.val c.val j cause) t.val c.val).regs = (ctxOf s t.val c.val).regs ∧
    (holdsPlace j = true → j.abortOrder = none →
      (jobOf (faultFails s t.val c.val j cause) j.id).map (·.abortOrder) = some (some cause)) ∧
    Reported s (faultFails s t.val c.val j cause) (placeReport s j cause) ∧
    KeepsBut [.fm, .jobs, .tiles] s (faultFails s t.val c.val j cause) := by
  obtain ⟨i, -, hi⟩ := Option.bind_eq_some_iff.1 hj
  exact ⟨by rw [faultFails_ctx], by rw [faultFails_ctx], faultFails_ordered hi _ _ _, faultFails_reported .., (faultFails_frame ..).named⟩

theorem faultHandler_buffer {h o n : Nat} (hj : ctxJob s t.val c.val = some j) (hs : (ctxOf s t.val c.val).state = .faulted)
    (hf : (ctxOf s t.val c.val).faultAt = some (h, o, n)) :
    (bufferGrows s t.val c.val h o n → execTaskFaultHandler t c s = .next (resumeFaulted
      (cntT (updHandle s t.val (entryOf c.val h) fun y => { y with len := (o + n + 127) / 128 }) Reg.TA_CNT_GROW t.val 1) t.val c.val)) ∧
    (bufferFills s t.val c.val h → execTaskFaultHandler t c s = .next (resumeFaulted
      (cntT (beginFill s t.val (entryOf c.val h) false (handleOf s t.val (entryOf c.val h)).tag) Reg.TA_CNT_ABSENT t.val 1)
      t.val c.val)) ∧
    (¬bufferGrows s t.val c.val h o n → ¬bufferFills s t.val c.val h → execTaskFaultHandler t c s =
      .next (faultFails s t.val c.val j (bitsOf (ctxOf s t.val c.val).regs.tstat.toNat 8 8))) := by
  unfold execTaskFaultHandler bufferGrows bufferFills
  unfold ctxJob at hj
  refine ⟨?_, ?_, ?_⟩
  · rintro ⟨hcause, hh, hsol, hlen, hmax⟩
    simp only [hj, hs, hf, hcause, hh, hsol, hlen, hmax, ne_eq, not_true_eq_false, if_false, decide_true, Bool.not_false, Bool.and_self,
      if_true]
  · rintro ⟨hcause, hh, hcopy⟩
    simp [hj, hs, hf, hcause, hh, hcopy]
  · intro hgrows hfills
    simp only [hj, hs, hf, ne_eq, not_true_eq_false, if_false]
    rw [if_neg (by simpa [and_assoc] using hgrows), if_neg (by simpa [and_assoc] using hfills)]
    rfl

theorem faultHandler_plain (hj : ctxJob s t.val c.val = some j) (hs : (ctxOf s t.val c.val).state = .faulted)
    (hf : (ctxOf s t.val c.val).faultAt = none) : execTaskFaultHandler t c s =
      .next (faultFails s t.val c.val j (bitsOf (ctxOf s t.val c.val).regs.tstat.toNat 8 8)) := by
  unfold ctxJob at hj
  unfold execTaskFaultHandler
  simp only [hj, hs, hf, ne_eq, not_true_eq_false, if_false]
  rfl

theorem taskFault_buffer {h o n : Nat} (hj : ctxJob s t.val c.val = some j) (hs : (ctxOf s t.val c.val).state = .faulted)
    (hf : (ctxOf s t.val c.val).faultAt = some (h, o, n)) :
    let cause := bitsOf (ctxOf s t.val c.val).regs.tstat.toNat 8 8
    ∃ s', exec (.taskFaultHandler t c) s = .next s' ∧
      (bufferGrows s t.val c.val h o n → (ctxOf s' t.val c.val).state = .ready ∧
        handleOf s' t.val (entryOf c.val h) = { handleOf s t.val (entryOf c.val h) with len := (o + n + 127) / 128 } ∧
        KeepsBut [.regs, .tiles] s s') ∧
      (bufferFills s t.val c.val h → (ctxOf s' t.val c.val).state = .ready ∧ (handleOf s' t.val (entryOf c.val h)).filling = true ∧
        KeepsBut [.regs, .tiles] s s') ∧
      (¬bufferGrows s t.val c.val h o n → ¬bufferFills s t.val c.val h → (ctxOf s' t.val c.val).state = .waiting ∧
        (ctxOf s' t.val c.val).regs = (ctxOf s t.val c.val).regs ∧
        (holdsPlace j = true → j.abortOrder = none → (jobOf s' j.id).map (·.abortOrder) = some (some cause)) ∧
        Reported s s' (placeReport s j cause) ∧ KeepsBut [.fm, .jobs, .tiles] s s') := by
  obtain ⟨hgrow, hfill, hfail⟩ := faultHandler_buffer hj hs hf
  by_cases hg : bufferGrows s t.val c.val h o n
  · have hnofill : ¬bufferFills s t.val c.val h := fun hfl => by
      have hcauses := hg.1.symm.trans hfl.1
      cases hcauses
    exact ⟨_, hgrow hg, fun _ => ⟨resumeFaulted_state .., resumed_handle .., (resumed_frame ..).named⟩,
      fun h => absurd h hnofill, fun h => absurd hg h⟩
  · by_cases hfl : bufferFills s t.val c.val h
    · exact ⟨_, hfill hfl, fun h => absurd h hg, fun _ => ⟨resumeFaulted_state .., congrArg Handle.filling (resumed_handle ..),
        (resumed_frame ..).named⟩, fun _ h => absurd hfl h⟩
    · exact ⟨_, hfail hg hfl, fun h => absurd h hg, fun h => absurd h hfl, fun _ _ => faultFails_fails hj _⟩

theorem taskFault_plain (hj : ctxJob s t.val c.val = some j) (hs : (ctxOf s t.val c.val).state = .faulted)
    (hf : (ctxOf s t.val c.val).faultAt = none) :
    let cause := bitsOf (ctxOf s t.val c.val).regs.tstat.toNat 8 8
    ∃ s', exec (.taskFaultHandler t c) s = .next s' ∧ (ctxOf s' t.val c.val).state = .waiting ∧
      (holdsPlace j = true → j.abortOrder = none → (jobOf s' j.id).map (·.abortOrder) = some (some cause)) ∧
      Reported s s' (placeReport s j cause) ∧ KeepsBut [.fm, .jobs, .tiles] s s' := by
  obtain ⟨hstate, -, hfails⟩ := faultFails_fails hj (bitsOf (ctxOf s t.val c.val).regs.tstat.toNat 8 8)
  exact ⟨_, faultHandler_plain hj hs hf, hstate, hfails⟩

end

/-! ### Debug halts (R462, R482) -/

section
variable {t c : Nat} {s : State}

/-- The task stops before its next bundle, but for a delay slot and a repeat. -/
theorem debugStop_halts (hreq : (tile s t).haltReq = some c) (hrun : (ctxOf s t c).state = .running)
    (hin : (ctxOf s t c).flow.inSlot = false) (hrpt : (ctxOf s t c).flow.rpt = 0) :
    (ctxOf (debugStop s t c) t c).state = .halted ∧ (tile (debugStop s t c) t).haltReq = none := by
  unfold debugStop
  simp only [hreq, hrun, hin, hrpt, decide_true, Bool.not_false, Bool.and_self, if_true]
  exact ⟨by rw [ctxOf_updTile_self _ _ _ (by intro _; rfl), ctxOf_updCtx_self], by rw [tile_updTile_self]⟩

theorem debugStop_waits (h : (ctxOf s t c).state ≠ .running ∨ (ctxOf s t c).flow.inSlot = true ∨ (ctxOf s t c).flow.rpt ≠ 0) :
    debugStop s t c = s := by
  unfold debugStop
  rcases h with h | h | h <;> simp [h]

theorem debugStop_regs (s : State) (t c : Nat) : (ctxOf (debugStop s t c) t c).regs = (ctxOf s t c).regs := by
  rcases debugStop_cases s t c with h | ⟨-, h⟩
  · rw [h]
  · rw [h, ctxOf_updTile_self _ _ _ (by intro _; rfl), ctxOf_updCtx_self]

/-- The debug port asks for a halt of the task that runs on the tile. -/
def haltAsked (s : State) (t c : Nat) : State := updTile s t fun u => { u with haltReq := some c }

theorem haltAsked_ctx (s : State) (t c : Nat) : ctxOf (haltAsked s t c) t c = ctxOf s t c :=
  ctxOf_updTile_self _ _ _ (by intro _; rfl)

theorem haltAsked_haltReq (s : State) (t c : Nat) : (tile (haltAsked s t c) t).haltReq = some c := by
  rw [haltAsked, tile_updTile_self]

end

theorem debugHalt_stops {t : Fin 256} {c : Nat} {s : State} (hscope : s.sec.scopes.getLsbD 1 = true)
    (hrunning : (tile s t.val).running = some c) :
    ∃ s', exec (.debugHalt t) s = .next s' ∧ (ctxOf s' t.val c).regs = (ctxOf s t.val c).regs ∧
      ((ctxOf s t.val c).state = .running → (ctxOf s t.val c).flow.inSlot = false → (ctxOf s t.val c).flow.rpt = 0 →
        (ctxOf s' t.val c).state = .halted ∧ (tile s' t.val).haltReq = none) ∧
      (((ctxOf s t.val c).state ≠ .running ∨ (ctxOf s t.val c).flow.inSlot = true ∨ (ctxOf s t.val c).flow.rpt ≠ 0) →
        (ctxOf s' t.val c).state = (ctxOf s t.val c).state ∧ (tile s' t.val).haltReq = some c) ∧
      KeepsBut [.tiles] s s' := by
  have hexec : exec (.debugHalt t) s = .next (debugStop (haltAsked s t.val c) t.val c) := by
    change execDebugHalt t s = _
    unfold execDebugHalt
    simp only [hrunning, hscope, if_true]
    rfl
  have hctx := haltAsked_ctx s t.val c
  refine ⟨_, hexec, by rw [debugStop_regs, hctx], fun hrun hin hrpt => ?_, fun hwaits => ?_, ?_⟩
  · exact debugStop_halts (haltAsked_haltReq ..) (by rw [hctx, hrun]) (by rw [hctx, hin]) (by rw [hctx, hrpt])
  · rw [debugStop_waits (by rwa [hctx]), hctx]
    exact ⟨rfl, haltAsked_haltReq ..⟩
  · exact (Frame.step (debugStop_frame ..) rfl (Frame.step (updTile_frame ..) rfl (Frame.refl _)) :
      Frame (partMask [.tiles]) s (debugStop (haltAsked s t.val c) t.val c)).named

/-! ### Resumption (R462, R482) -/

section
variable {s : State}

theorem resumeTile_resumes {t c : Nat} (hrunning : (tile s t).running = some c) (hscope : s.sec.scopes.getLsbD 1 = true)
    (hhalted : (ctxOf s t c).state = .halted) (step : Bool) :
    (ctxOf (resumeTile s t step) t c).state = .running ∧ (tile (resumeTile s t step) t).running = some c ∧
      (tile (resumeTile s t step) t).haltReq = (if step then some c else none) ∧
      ∀ x, x ≠ t → tile (resumeTile s t step) x = tile s x := by
  have hresume : resumeTile s t step = updTile (updCtx s t c fun k => { k with state := .running }) t fun u =>
      { u with haltReq := if step then some c else none } := by
    unfold resumeTile
    simp only [hrunning, hscope, hhalted, decide_true, Bool.and_self, if_true]
  rw [hresume]
  refine ⟨by rw [ctxOf_updTile_self _ _ _ (by intro _; rfl), ctxOf_updCtx_self], ?_, by rw [tile_updTile_self], fun x hx => ?_⟩
  · rw [tile_updTile_self, updCtx, tile_updTile_self]
    exact hrunning
  · rw [tile_updTile, if_neg hx, updCtx, tile_updTile, if_neg hx]

theorem resumeTile_closed (hscope : s.sec.scopes.getLsbD 1 = false) (t : Nat) (step : Bool) : resumeTile s t step = s := by
  unfold resumeTile
  split
  · rfl
  · rw [hscope, Bool.false_and, if_neg Bool.false_ne_true]

theorem resumeCore_resumes {n : Nat} (hscope : s.sec.scopes.getLsbD 0 = true) (hhalted : (coreNo s n).run = .halted) (step : Bool) :
    resumeCore s n step = updCore s n fun k => { k with run := .running, step := step } := by
  unfold resumeCore
  rw [hscope, hhalted]
  rfl

theorem resumeCore_closed (hscope : s.sec.scopes.getLsbD 0 = false) (n : Nat) (step : Bool) : resumeCore s n step = s := by
  unfold resumeCore
  rw [hscope, Bool.false_and, if_neg Bool.false_ne_true]

theorem debugResume_closed {t : Option (Fin 256)} {c : Option (Fin 8)} {step : Bool} (hscopes : s.sec.scopes = 0) :
    exec (.debugResume t c step) s = .next s := by
  have htile : ∀ t, resumeTile s t step = s := fun t => resumeTile_closed (by rw [hscopes]; rfl) t step
  have hcore : ∀ n, resumeCore s n step = s := fun n => resumeCore_closed (by rw [hscopes]; rfl) n step
  change execDebugResume t c step s = _
  unfold execDebugResume
  cases t <;> cases c <;> simp only [htile, hcore]

end

end Sys2Proof.Machine

open Sys2Proof Sys2Proof.Machine

set_option Elab.async false

/-- Settles O28: the fault handler by the fault's kind, the halt by the task's state, and the resumption of a tile and of a core apart. -/
theorem taskFaultsAndDebug : Obligations.TaskFaultsAndDebug := by
  unfold Obligations.TaskFaultsAndDebug
  refine ⟨⟨?_, ?_, ?_⟩, fun step s => ⟨?_, ?_, ?_, ?_⟩⟩
  · exact fun _ _ _ _ _ _ _ => taskFault_buffer
  · exact fun _ _ _ _ => taskFault_plain
  · exact fun _ _ _ => debugHalt_stops
  · intro t c hrunning hscope hhalted
    obtain ⟨hstate, hrun, hreq, hothers⟩ := resumeTile_resumes hrunning hscope hhalted step
    exact ⟨_, rfl, hstate, hrun, hreq, hothers, (resumeTile_frame ..).named⟩
  · intro n hscope hhalted
    refine ⟨_, congrArg Host.Outcome.next (resumeCore_resumes hscope hhalted step), coreNo_updCore_self .., fun m hm => ?_,
      (updCore_frame ..).named⟩
    rw [coreNo_updCore, if_neg hm]
  · exact fun _ _ => ⟨_, _, rfl, rfl, rfl⟩
  · exact fun _ _ => debugResume_closed

end

section
/-! PROOFS. Fault reports: what the fault manager takes, counts, writes to its log and merges, and the reset that a lost lock of the PLL
brings; the clauses of `FaultReports`, and the statement. -/

namespace Sys2Proof.Machine

set_option Elab.async false

/-! ### The fault manager's registers beside those of other blocks -/

/-- The key of a field of the fault manager's block. -/
def fmKey (k : Nat) : Prop := 0x300000 * 64 ≤ k ∧ k < 0x400000 * 64

/-- The fields of the fault manager's block are as they were. -/
structure FmRegsKept (s t : State) : Prop where
  same : ∀ d k, fmKey k → mget d t.regs k = mget d s.regs k

namespace FmRegsKept
variable {s x t : State}

theorem of_regs (h : t.regs = s.regs) : FmRegsKept s t := ⟨fun _ _ _ => by rw [h]⟩

theorem trans (h : FmRegsKept s x) (h' : FmRegsKept x t) : FmRegsKept s t :=
  ⟨fun d k hk => (h'.same d k hk).trans (h.same d k hk)⟩

theorem ite {a b : State} {c : Prop} [Decidable c] (ha : FmRegsKept s a) (hb : FmRegsKept s b) : FmRegsKept s (if c then a else b) := by
  split
  · exact ha
  · exact hb

/-- A counter of a block behind the fault manager's. -/
theorem addF (s : State) (f : Fld) (ch i n : Nat) (h : 0x400000 ≤ f.off := by decide) : FmRegsKept s (Machine.addF s f ch i n) := by
  have hk : ¬fmKey (fldKey f ch i) := by
    unfold fmKey fldKey
    omega
  exact ⟨fun _ _ hk' => mget_mset_other _ _ _ _ fun he => hk (he ▸ hk')⟩

theorem evSet (s : State) (n : Nat) : FmRegsKept s (Machine.evSet s n) := by
  have hcoalesced : FmRegsKept s (cnt (Machine.addF s Reg.EV_SRC_COALESCED 0 n 1) Reg.EV_CNT_COALESCED) :=
    (addF s Reg.EV_SRC_COALESCED 0 n 1).trans (addF _ Reg.EV_CNT_COALESCED 0 0 1)
  unfold Machine.evSet
  split
  · exact of_regs rfl
  · exact of_regs rfl
  · exact hcoalesced
  · exact hcoalesced

theorem getF (h : FmRegsKept s t) (f : Fld) (i : Nat) (hk : fmKey (fldKey f 0 i) := by exact ⟨by decide, by decide⟩) :
    Machine.getF t f 0 i = Machine.getF s f 0 i := h.same _ _ hk

/-- A counter of the fault manager that has gone up since. -/
theorem counted (h : FmRegsKept s x) {f : Fld} {n : Nat} (hc : Counted f 0 0 n x t)
    (hk : fmKey (fldKey f 0 0) := by exact ⟨by decide, by decide⟩) : Counted f 0 0 n s t := by
  unfold Counted at *
  rw [hc, h.getF f 0 hk]

end FmRegsKept

theorem counted_addF (s : State) (f : Fld) (ch i n : Nat) : Counted f ch i n s (addF s f ch i n) := getF_addF_self ..

theorem Counted.congr {f : Fld} {ch i n : Nat} {s x t : State} (h : Counted f ch i n s x) (ht : getF t f ch i = getF x f ch i) :
    Counted f ch i n s t := ht.trans h

/-! ### Failed checks of a tile's memories (R191, R288) -/

section
variable {s : State} {r : Report}

theorem logicalOf_lt {p t : Nat} (h : logicalOf s p = some t) : t < 256 := by
  unfold logicalOf at h
  dsimp only at h
  split at h
  · cases h
  · split at h
    · cases h
      omega
    · cases h

/-- A tile's counter of failed checks, and the event of the tile. -/
theorem counted_evSet {f : Fld} {off ch t : Nat} (ht : t < 256) (hf : (f, 0) ∈ fieldsAt off) (h1 : f ≠ Reg.EV_SRC_COALESCED)
    (h2 : f ≠ Reg.EV_CNT_COALESCED) : Counted f ch 0 1 s (evSet (addF s f ch 0 1) (256 + t)) :=
  (counted_addF ..).congr (evSet_getF (by omega) hf h1 h2 ch)

theorem mem_spParity : (Reg.TA_CNT_SP_PARITY, 0) ∈ fieldsAt 0xf01178 := by decide +kernel
theorem mem_iparity : (Reg.TA_CNT_IPARITY, 0) ∈ fieldsAt 0xf01160 := by decide +kernel

theorem parityMark_scratchpad (hk : r.unitKind = .tile) (hu : r.unit < 272) (hc : r.cause = 0x42) :
    Counted Reg.TA_CNT_SP_PARITY r.unit 0 1 s (parityMark s r) ∧
      ∀ t, logicalOf s r.unit = some t → mget false (parityMark s r).spPoison (spAddr t (r.loc % 0x200000) / 8) = true := by
  unfold parityMark
  cases ht : logicalOf s r.unit with
  | none =>
    simp only [hk, hu, hc, decide_true, Bool.and_self, if_true]
    exact ⟨counted_addF .., fun _ h => by cases h⟩
  | some t =>
    simp only [hk, hu, hc, decide_true, Bool.and_self, if_true]
    refine ⟨counted_evSet (logicalOf_lt ht) mem_spParity (by decide) (by decide), fun _ h => ?_⟩
    cases h
    exact mget_mset_self ..

theorem parityMark_bundle (hk : r.unitKind = .tile) (hu : r.unit < 272) (hc : r.cause = 0x43) :
    Counted Reg.TA_CNT_IPARITY r.unit 0 1 s (parityMark s r) ∧ (parityMark s r).spPoison = s.spPoison := by
  unfold parityMark
  cases ht : logicalOf s r.unit with
  | none =>
    simp only [hk, hu, hc, decide_true, Bool.and_self, if_true]
    exact ⟨counted_addF .., rfl⟩
  | some t =>
    simp only [hk, hu, hc, decide_true, Bool.and_self, if_true]
    exact ⟨counted_evSet (logicalOf_lt ht) mem_iparity (by decide) (by decide), (evSet_frame ..).keeps .spPoison (by decide)⟩

theorem parityMark_other (h : (r.cause ≠ 0x42 ∧ r.cause ≠ 0x43) ∨ r.unitKind ≠ .tile ∨ 272 ≤ r.unit) : parityMark s r = s := by
  unfold parityMark
  split
  · next htile =>
    simp only [Bool.and_eq_true, decide_eq_true_eq] at htile
    obtain ⟨h42, h43⟩ : r.cause ≠ 0x42 ∧ r.cause ≠ 0x43 := by
      rcases h with h | h | h
      · exact h
      · exact absurd htile.1 h
      · omega
    split
    · next hc _ => exact absurd hc h43
    · next hc _ => exact absurd hc h43
    · next hc _ => exact absurd hc h42
    · next hc _ => exact absurd hc h42
    · rfl
  · rfl

theorem parityMark_fmRegs (s : State) (r : Report) : FmRegsKept s (parityMark s r) := by
  unfold parityMark
  refine .ite ?_ (.of_regs rfl)
  split
  · exact .addF s Reg.TA_CNT_IPARITY r.unit 0 1
  · exact .trans (.addF s Reg.TA_CNT_IPARITY r.unit 0 1) (.evSet ..)
  · exact .addF s Reg.TA_CNT_SP_PARITY r.unit 0 1
  · exact .trans (.addF s Reg.TA_CNT_SP_PARITY r.unit 0 1) (.trans (.evSet _ _) (.of_regs rfl))
  · exact .of_regs rfl

end

/-! ### The queue of reports (R434) -/

section
variable {s : State} {r : Report} {w : Waiting} {rest : List Waiting}

/-- A report as it waits to be taken. -/
def waitingOf (s : State) (r : Report) : Waiting := { rep := r, esc := false, ns := nowNs s, attempt := (jobOf s r.job).elim 0 (·.attempt) }

theorem report_fm (s : State) (r : Report) : (report s r).fm = { s.fm with intake := s.fm.intake ++ [waitingOf s r] } := rfl

theorem takeReport_nil (h : s.fm.intake = []) : takeReport s = s := by
  unfold takeReport
  rw [h]

theorem takeReport_cons (h : s.fm.intake = w :: rest) (hesc : w.esc = false) :
    takeReport s = takeUnit (updFm s fun m => { m with intake := rest }) w := by
  unfold takeReport
  rw [h]
  dsimp only
  rw [hesc, if_neg Bool.false_ne_true]

/-- A report that no other waits before is taken at once. -/
theorem takeReport_report (h : s.fm.intake = []) : takeReport (report s r) = takeUnit s (waitingOf s r) := by
  have hqueue : (report s r).fm.intake = [waitingOf s r] := by rw [report_fm, h, List.nil_append]
  have htaken : updFm (report s r) (fun m => { m with intake := [] }) = s := by
    change { s with fm := { s.fm with intake := [] } } = s
    rw [← h]
  rw [takeReport_cons hqueue rfl, htaken]

theorem faultReport_some (hready : ready s = true) : exec (.faultReport (some r)) s = .next (takeReport (report (parityMark s r) r)) := by
  change execFaultReport (some r) s = _
  unfold execFaultReport
  rw [hready]
  rfl

theorem faultReport_none (hready : ready s = true) : exec (.faultReport none) s = .next (takeReport s) := by
  change execFaultReport none s = _
  unfold execFaultReport
  rw [hready]
  rfl

theorem parityMark_fm (s : State) (r : Report) : (parityMark s r).fm = s.fm := (parityMark_frame ..).fm_eq

/-- The fault manager takes the head of a queue that a new report has at most joined. -/
theorem faultReport_takes (hready : ready s = true) (f : Option Report) : ∃ v new, exec (.faultReport f) s = .next (takeReport v) ∧
    FmRegsKept s v ∧ v.fm = { s.fm with intake := s.fm.intake ++ new } ∧ (f = none → new = []) := by
  cases f with
  | none => exact ⟨s, [], faultReport_none hready, .of_regs rfl, by rw [List.append_nil], fun _ => rfl⟩
  | some r =>
    refine ⟨_, [waitingOf (parityMark s r) r], faultReport_some hready, (parityMark_fmRegs s r).trans (.of_regs rfl), ?_,
      fun h => by cases h⟩
    rw [report_fm, parityMark_fm]

/-! ### Reports whose recovery is under way (R438) -/

theorem noteDomain_fm (s : State) (id : JobId) (d : Domain) : ∃ ds, (noteDomain s id d).fm = { s.fm with jobDom := ds } := by
  unfold noteDomain
  split
  · exact ⟨s.fm.jobDom, rfl⟩
  · exact ⟨_, rfl⟩

/-- A recovery is under way for the same report. -/
def recoversFrom (s : State) (r : Report) : Prop := ∃ k, k ∈ s.fm.recoveries ∧ k.rep.cause = r.cause ∧
  k.rep.unitKind = r.unitKind ∧ k.rep.unit = r.unit ∧ k.rep.loc = r.loc

theorem takeUnit_merged (hp : isProgram w.rep.cause = false) (hk : recoversFrom s w.rep) :
    takeUnit s w = cnt (noteDomain (cnt s Reg.FM_CNT_ERRORS) w.rep.job (domainOf s w.rep)) Reg.FM_CNT_MERGED := by
  have hany : (s.fm.recoveries.any fun k => k.rep.cause = w.rep.cause && k.rep.unitKind = w.rep.unitKind && k.rep.unit = w.rep.unit &&
      k.rep.loc = w.rep.loc) = true := by
    obtain ⟨k, hmem, hcause, hkind, hunit, hloc⟩ := hk
    exact List.any_eq_true.2 ⟨k, hmem, by simp only [hcause, hkind, hunit, hloc, decide_true, Bool.and_self]⟩
  unfold takeUnit
  simp only [hp, hany, Bool.false_eq_true, if_false, if_true]

theorem takeUnit_counts_merged (hp : isProgram w.rep.cause = false) (hk : recoversFrom s w.rep) :
    Counted Reg.FM_CNT_ERRORS 0 0 1 s (takeUnit s w) ∧ Counted Reg.FM_CNT_MERGED 0 0 1 s (takeUnit s w) ∧
      (takeUnit s w).fm.intake = s.fm.intake ∧ (takeUnit s w).fm.recoveries = s.fm.recoveries ∧ (takeUnit s w).fm.phase = s.fm.phase ∧
      KeepsBut [.regs, .fm] s (takeUnit s w) := by
  rw [takeUnit_merged hp hk]
  generalize domainOf s w.rep = d
  have hnoted : ∀ f ch i, getF (noteDomain (cnt s Reg.FM_CNT_ERRORS) w.rep.job d) f ch i = getF (cnt s Reg.FM_CNT_ERRORS) f ch i :=
    getF_congr (noteDomain_frame ..).regs_eq
  obtain ⟨ds, hfm⟩ := noteDomain_fm (cnt s Reg.FM_CNT_ERRORS) w.rep.job d
  have hfm' : (cnt (noteDomain (cnt s Reg.FM_CNT_ERRORS) w.rep.job d) Reg.FM_CNT_MERGED).fm = { s.fm with jobDom := ds } := hfm
  refine ⟨?_, ?_, by rw [hfm'], by rw [hfm'], by rw [hfm'], ?_⟩
  · refine (counted_addF ..).congr ?_
    unfold cnt at *
    rw [getF_addF_other _ _ _ _ _ _ _ _ (by decide), hnoted]
  · unfold Counted
    rw [cnt, getF_addF_self, hnoted, cnt, getF_addF_other _ _ _ _ _ _ _ _ (by decide)]
  · exact (Frame.step (cnt_frame ..) rfl (Frame.step (noteDomain_frame ..) rfl (Frame.step (cnt_frame ..) rfl (Frame.refl _))) :
      Frame (partMask [.regs, .fm]) s _).named

theorem head_merged (hready : ready s = true) (f : Option Report) (hq : s.fm.intake = w :: rest) (hesc : w.esc = false)
    (hp : isProgram w.rep.cause = false) (hk : recoversFrom s w.rep) : ∃ t, exec (.faultReport f) s = .next t ∧
      Counted Reg.FM_CNT_ERRORS 0 0 1 s t ∧ Counted Reg.FM_CNT_MERGED 0 0 1 s t ∧ (∀ x, x ∈ rest → x ∈ t.fm.intake) ∧
      (f = none → t.fm.intake = rest) ∧ t.fm.recoveries = s.fm.recoveries ∧ t.fm.phase = s.fm.phase := by
  obtain ⟨v, new, hexec, hregs, hfm, hnone⟩ := faultReport_takes hready f
  have hqueue : v.fm.intake = w :: (rest ++ new) := by rw [hfm, hq, List.cons_append]
  have hk' : recoversFrom (updFm v fun m => { m with intake := rest ++ new }) w.rep := by
    have hrec : (updFm v fun m => { m with intake := rest ++ new }).fm.recoveries = s.fm.recoveries := by
      change v.fm.recoveries = _
      rw [hfm]
    unfold recoversFrom
    rwa [hrec]
  obtain ⟨herrors, hmerged, hintake, hrecoveries, hphase, -⟩ := takeUnit_counts_merged hp hk'
  have hregs' : FmRegsKept s (updFm v fun m => { m with intake := rest ++ new }) := hregs.trans (.of_regs rfl)
  have htaken : (takeUnit (updFm v fun m => { m with intake := rest ++ new }) w).fm.intake = rest ++ new := hintake
  refine ⟨_, hexec.trans (by rw [takeReport_cons hqueue hesc]), hregs'.counted herrors, hregs'.counted hmerged, fun x hx => ?_,
    fun hf => ?_, hrecoveries.trans ?_, hphase.trans ?_⟩
  · rw [htaken]
    exact List.mem_append_left _ hx
  · rw [htaken, hnone hf, List.append_nil]
  · change v.fm.recoveries = _
    rw [hfm]
  · change v.fm.phase = _
    rw [hfm]

theorem new_merged (hready : ready s = true) (hq : s.fm.intake = []) (hp : isProgram r.cause = false) (hk : recoversFrom s r) :
    ∃ t, exec (.faultReport (some r)) s = .next t ∧ Counted Reg.FM_CNT_ERRORS 0 0 1 s t ∧ Counted Reg.FM_CNT_MERGED 0 0 1 s t ∧
      t.fm.intake = [] ∧ t.fm.recoveries = s.fm.recoveries ∧ t.fm.phase = s.fm.phase ∧
      KeepsBut [.regs, .spPoison, .fm, .sources] s t := by
  have hfm := parityMark_fm s r
  have hk' : recoversFrom (parityMark s r) r := by
    unfold recoversFrom
    rwa [hfm]
  obtain ⟨herrors, hmerged, hintake, hrecoveries, hphase, hkeeps⟩ :=
    takeUnit_counts_merged (w := waitingOf (parityMark s r) r) hp hk'
  rw [hfm] at hintake hrecoveries hphase
  refine ⟨_, (faultReport_some hready).trans (by rw [takeReport_report (by rw [hfm, hq])]), (parityMark_fmRegs s r).counted herrors,
    (parityMark_fmRegs s r).counted hmerged, hintake.trans hq, hrecoveries, hphase, ?_⟩
  have hmark : KeepsBut [.regs, .spPoison, .fm, .sources] s (parityMark s r) := (parityMark_frame ..).named
  exact hmark.trans fun p hp => hkeeps p (by simp_all)

/-! ### Reports that begin a recovery, or need none (R435, R437) -/

theorem recovering_none (h : s.fm.recoveries = []) (d : Domain) : recovering s d = none := by
  unfold recovering
  rw [h]
  split <;> rfl

theorem sramLost_other (h : r.cause ≠ 0x46) : sramLost s r = s := by
  unfold sramLost
  simp [h]

/-- The report is counted and its job's domain noted. -/
def noted (s : State) (r : Report) : State := noteDomain (cnt s Reg.FM_CNT_ERRORS) r.job (domainOf s r)

theorem takeUnit_fresh (hp : isProgram w.rep.cause = false) (hr : s.fm.recoveries = []) (hc : w.rep.cause ≠ 0x46) : takeUnit s w =
    if s.fm.phase = .frost then containFrozen (noted s w.rep) w (domainOf s w.rep) (initialClass w.rep) false
    else contain (noted s w.rep) w (domainOf s w.rep) (initialClass w.rep) false := by
  unfold takeUnit
  simp only [hp, hr, List.any_nil, recovering_none hr, sramLost_other hc, Bool.false_eq_true, if_false]
  cases s.fm.phase <;> rfl

/-! ### The log (R447, R448, R450, R452) -/

/-- The log behind a new record's four words and its tail. -/
def logged (s : State) (ws : List Nat) : State :=
  setF (thread (fun s' (w : Nat × Nat) => setF s' Reg.FM_LOG 0 (4 * (logTail s % 64) + w.2) w.1) s ws.zipIdx) Reg.FM_LOG_IDX_TAIL 0 0
    (logTail s + 1)

/-- The event and the count that a record's class brings with it. -/
def logMarked (s : State) (m : LogMark) : State :=
  if m.escalated then cnt (if 2 ≤ m.cls && m.cls ≠ 5 then evSet s 1 else s) Reg.FM_CNT_ESCALATED
  else if 2 ≤ m.cls && m.cls ≠ 5 then evSet s 1 else s

theorem writeLog_eq (s : State) (r : Report) (ns aux : Nat) (m : LogMark) : writeLog s r ns aux m =
    if 64 ≤ unread (logMarked s m) then cnt (setF (logMarked s m) Reg.FM_STAT_OVERFLOW 0 0 1) Reg.FM_CNT_LOST
    else logNotify (evSet (logged (logMarked s m) (logWords (logMarked s m) r ns aux m)) 0) := rfl

theorem logMarked_fm (s : State) (m : LogMark) : (logMarked s m).fm = s.fm := by
  have hevent : (if 2 ≤ m.cls && m.cls ≠ 5 then evSet s 1 else s).fm = s.fm := by
    split
    · exact (evSet_frame ..).fm_eq
    · rfl
  unfold logMarked
  split
  · exact hevent
  · exact hevent

/-- The mark of a record of class 0 for a report that stands by itself. -/
def plainMark : LogMark := { cls := 0, escalated := false, nested := false, requested := false }

theorem writeLog_writes {ns aux : Nat} (h : unread s < 64) :
    writeLog s r ns aux plainMark = logNotify (evSet (logged s (logWords s r ns aux plainMark)) 0) :=
  (writeLog_eq ..).trans (if_neg (Nat.not_le.2 h))

theorem writeLog_full {ns aux : Nat} (h : 64 ≤ unread s) :
    writeLog s r ns aux plainMark = cnt (setF s Reg.FM_STAT_OVERFLOW 0 0 1) Reg.FM_CNT_LOST :=
  (writeLog_eq ..).trans (if_pos h)

theorem fldKey_log {k i j : Nat} (h : i ≠ j) : fldKey Reg.FM_LOG 0 (k + i) ≠ fldKey Reg.FM_LOG 0 (k + j) := by
  simp only [fldKey, Reg.FM_LOG]
  omega

/-- Words written to the log from the place `k` on: each stands at its own, and every other field is as it was. -/
theorem getF_logWords (ws : List Nat) (k n : Nat) (x : State) :
    (∀ i, i < ws.length → getF (thread (fun s' (w : Nat × Nat) => setF s' Reg.FM_LOG 0 (k + w.2) w.1) x (ws.zipIdx n)) Reg.FM_LOG 0 (k + n + i) =
      ws.getD i 0 % 2 ^ 64) ∧
    ∀ f j, (∀ i, fldKey f 0 j ≠ fldKey Reg.FM_LOG 0 (k + n + i)) →
      getF (thread (fun s' (w : Nat × Nat) => setF s' Reg.FM_LOG 0 (k + w.2) w.1) x (ws.zipIdx n)) f 0 j = getF x f 0 j := by
  induction ws generalizing n x with
  | nil => exact ⟨fun i hi => absurd hi (Nat.not_lt_zero i), fun _ _ _ => rfl⟩
  | cons v ws ih =>
    rw [List.zipIdx_cons]
    change (∀ i, _ → getF (thread _ (setF x Reg.FM_LOG 0 (k + n) v) (ws.zipIdx (n + 1))) _ _ _ = _) ∧
      ∀ f j, _ → getF (thread _ (setF x Reg.FM_LOG 0 (k + n) v) (ws.zipIdx (n + 1))) f 0 j = _
    obtain ⟨hwords, hother⟩ := ih (n + 1) (setF x Reg.FM_LOG 0 (k + n) v)
    refine ⟨fun i hi => ?_, fun f j hf => ?_⟩
    · cases i with
      | zero =>
        have hapart : ∀ i, fldKey Reg.FM_LOG 0 (k + n + 0) ≠ fldKey Reg.FM_LOG 0 (k + (n + 1) + i) := fun i => by
          rw [Nat.add_assoc k, Nat.add_assoc k]
          exact fldKey_log (by omega)
        exact (hother _ _ hapart).trans (getF_setF_self ..)
      | succ i =>
        have hplace : k + n + (i + 1) = k + (n + 1) + i := by omega
        rw [hplace, hwords i (Nat.lt_of_succ_lt_succ hi)]
        rfl
    · have hapart : ∀ i, fldKey f 0 j ≠ fldKey Reg.FM_LOG 0 (k + (n + 1) + i) := fun i => by
        have hplace : k + (n + 1) + i = k + n + (i + 1) := by omega
        rw [hplace]
        exact hf (i + 1)
      exact (hother f j hapart).trans (getF_setF_other _ _ _ _ _ _ _ _ (hf 0))

theorem logged_word {ws : List Nat} {i : Nat} (hi : i < ws.length) :
    getF (logged s ws) Reg.FM_LOG 0 (4 * (logTail s % 64) + i) = ws.getD i 0 % 2 ^ 64 := by
  unfold logged
  rw [getF_setF_other _ _ _ _ _ _ _ _ (by simp only [fldKey, Reg.FM_LOG, Reg.FM_LOG_IDX_TAIL]; omega)]
  exact (getF_logWords ws _ 0 s).1 i hi

theorem logged_tail (s : State) (ws : List Nat) : logTail (logged s ws) = (logTail s + 1) % 2 ^ 16 := getF_setF_self ..

theorem logged_other (s : State) (ws : List Nat) {f : Fld} (hf : fldKey f 0 0 < fldKey Reg.FM_LOG 0 0 := by decide)
    (ht : fldKey f 0 0 ≠ fldKey Reg.FM_LOG_IDX_TAIL 0 0 := by decide) : getF (logged s ws) f 0 0 = getF s f 0 0 := by
  unfold logged
  rw [getF_setF_other _ _ _ _ _ _ _ _ ht]
  refine (getF_logWords ws _ 0 s).2 f 0 fun i => ?_
  have : fldKey Reg.FM_LOG 0 0 ≤ fldKey Reg.FM_LOG 0 (4 * (logTail s % 64) + 0 + i) := by
    simp only [fldKey, Reg.FM_LOG]
    omega
  omega

theorem logged_frame (s : State) (ws : List Nat) : Frame (partMask [.regs]) s (logged s ws) :=
  Frame.step (setF_frame ..) rfl (Frame.thread (fun _ _ hy => Frame.step (setF_frame ..) rfl hy) (Frame.refl _))

theorem logWords_lt {ns aux : Nat} (hns : ns < 2 ^ 64) (i : Nat) : (logWords s r ns aux plainMark).getD i 0 < 2 ^ 64 := by
  have hunit : unitCode r.unitKind < 2 ^ 8 := by cases r.unitKind <;> decide
  have hjob : r.job.toNat < 2 ^ 64 := r.job.isLt
  match i with
  | 0 =>
    simp only [logWords, plainMark, b2n, List.getD_cons_zero, Bool.false_eq_true, if_false]
    omega
  | 1 => exact hns
  | 2 => exact hjob
  | 3 => exact Nat.mod_lt _ (by decide)
  | _ + 4 => exact Nat.two_pow_pos 64

theorem logNotify_noted (s : State) : ThreshNoted s (logNotify s) := by
  have hunread : unread (logNotify s) = unread s := by
    unfold unread logTail logHead fld
    simp only [getF_congr (logNotify_link_frame s).regs_eq]
  unfold ThreshNoted
  rw [hunread]
  unfold logNotify
  split
  · next h => rw [decide_eq_false (Nat.not_le.2 h), Bool.false_and]; rfl
  · next h =>
    rw [decide_eq_true (Nat.not_lt.1 h), Bool.true_and]
    split
    · next hn =>
      have hsame : (s.fm.notified || bit s Reg.FM_CTL_IRQ_EN 0 0) = s.fm.notified := by
        revert hn
        cases s.fm.notified <;> simp
      rw [hsame]
    · next hn =>
      have hon : (s.fm.notified || bit s Reg.FM_CTL_IRQ_EN 0 0) = true := by
        revert hn
        cases s.fm.notified <;> simp
      rw [hon]
      exact (msix_link_frame ..).fm_eq

theorem ThreshNoted.congr {x t : State} (h : ThreshNoted x t) (hx : x.fm = s.fm)
    (hthresh : fld x Reg.FM_CTL_LOG_THRESH = fld s Reg.FM_CTL_LOG_THRESH)
    (hirq : bit x Reg.FM_CTL_IRQ_EN 0 0 = bit s Reg.FM_CTL_IRQ_EN 0 0) : ThreshNoted s t := by
  unfold ThreshNoted at *
  rw [h, hx, hthresh, hirq]

end

end Sys2Proof.Machine

end

section
/-! PROOFS. Reports of class 0 and the lost lock of the PLL: what stands in the log, and the reset; then the statement of `FaultReports`. -/

namespace Sys2Proof.Machine

set_option Elab.async false

section
variable {s : State} {r : Report}

/-! ### Reports of class 0 (R437, R447, R448, R450, R452) -/

/-- Causes that need no containment, whatever their place. -/
theorem plainCause_facts (h1 : 0x48 ≤ r.cause) (h2 : r.cause ≤ 0x4C) : isProgram r.cause = false ∧ initialClass r = 0 ∧
    domainOf s r = .none ∧ r.cause ≠ 0x46 ∧ cacheParity r = false := by
  have hc : r.cause = 0x48 ∨ r.cause = 0x49 ∨ r.cause = 0x4A ∨ r.cause = 0x4B ∨ r.cause = 0x4C := by omega
  unfold initialClass domainOf isProgram cacheParity
  rcases hc with hc | hc | hc | hc | hc <;> simp [hc]

theorem contain_plain {w : Waiting} (hc : initialClass w.rep = 0) (hp : cacheParity w.rep = false) :
    contain s w .none 0 false = writeLog s w.rep w.ns w.rep.aux plainMark := by
  unfold contain dropLine plainMark
  simp [hc, hp]

theorem takeUnit_plain {w : Waiting} (h1 : 0x48 ≤ w.rep.cause) (h2 : w.rep.cause ≤ 0x4C) (hjob : w.rep.job = 0)
    (hr : s.fm.recoveries = []) (hphase : s.fm.phase = .normal) :
    takeUnit s w = writeLog (cnt s Reg.FM_CNT_ERRORS) w.rep w.ns w.rep.aux plainMark := by
  obtain ⟨hprog, hclass, hdom, hsram, hcache⟩ := plainCause_facts (s := s) h1 h2
  have hnoted : noted s w.rep = cnt s Reg.FM_CNT_ERRORS := by
    unfold noted noteDomain
    rw [if_pos hjob]
  rw [takeUnit_fresh hprog hr hsram, hphase, if_neg (by decide), hclass, hdom, hnoted, contain_plain hclass hcache]

theorem logHead_cnt (s : State) : logHead (cnt s Reg.FM_CNT_ERRORS) = logHead s := getF_addF_other _ _ _ _ _ _ _ _ (by decide)
theorem logTail_cnt (s : State) : logTail (cnt s Reg.FM_CNT_ERRORS) = logTail s := getF_addF_other _ _ _ _ _ _ _ _ (by decide)

theorem unread_cnt (s : State) : unread (cnt s Reg.FM_CNT_ERRORS) = unread s := by
  unfold unread
  rw [logHead_cnt, logTail_cnt]

/-- The state behind a record of class 0. -/
theorem plainLog_writes {ns aux : Nat} (hns : ns < 2 ^ 64) (h : unread s < 64) :
    let t := writeLog (cnt s Reg.FM_CNT_ERRORS) r ns aux plainMark
    Counted Reg.FM_CNT_ERRORS 0 0 1 s t ∧ ThreshNoted s t ∧ logTail t = (logTail s + 1) % 2 ^ 16 ∧ logHead t = logHead s ∧
      (∀ i, i < 4 → getF t Reg.FM_LOG 0 (4 * (logTail s % 64) + i) =
        (logWords (cnt s Reg.FM_CNT_ERRORS) r ns aux plainMark).getD i 0) ∧
      KeepsBut [.regs, .hostMem, .fm, .sources, .hl] s t := by
  intro t
  let x := cnt s Reg.FM_CNT_ERRORS
  let ws := logWords x r ns aux plainMark
  have ht : t = logNotify (evSet (logged x ws) 0) := writeLog_writes (by rw [unread_cnt]; exact h)
  have hnotify : ∀ f ch i, getF t f ch i = getF (evSet (logged x ws) 0) f ch i := by
    rw [ht]
    exact getF_congr (logNotify_link_frame ..).regs_eq
  have hkept : FmRegsKept (logged x ws) t := (FmRegsKept.evSet _ 0).trans (.of_regs (by rw [ht]; exact (logNotify_link_frame ..).regs_eq))
  have hfm : (evSet (logged x ws) 0).fm = s.fm := (evSet_frame ..).fm_eq.trans ((logged_frame ..).fm_eq.trans (cnt_frame ..).fm_eq)
  refine ⟨(counted_addF ..).congr ((hkept.getF _ 0).trans (logged_other x ws)), ?_, ?_, ?_, fun i hi => ?_, ?_⟩
  · have hkept' : FmRegsKept (logged x ws) (evSet (logged x ws) 0) := .evSet _ 0
    have hfield : ∀ f, fmKey (fldKey f 0 0) → fldKey f 0 0 < fldKey Reg.FM_CNT_ERRORS 0 0 → fldKey f 0 0 ≠ fldKey Reg.FM_LOG_IDX_TAIL 0 0 →
        getF (evSet (logged x ws) 0) f 0 0 = getF s f 0 0 := fun f hk hlt hne => by
      have hlog : fldKey Reg.FM_CNT_ERRORS 0 0 < fldKey Reg.FM_LOG 0 0 := by decide
      rw [hkept'.getF f 0 hk, logged_other x ws (Nat.lt_trans hlt hlog) hne]
      exact getF_addF_other _ _ _ _ _ _ _ _ (Nat.ne_of_lt hlt)
    have hirq : bit (evSet (logged x ws) 0) Reg.FM_CTL_IRQ_EN 0 0 = bit s Reg.FM_CTL_IRQ_EN 0 0 := by
      unfold bit
      rw [hfield _ ⟨by decide, by decide⟩ (by decide) (by decide)]
    rw [ht]
    exact (logNotify_noted _).congr hfm (hfield _ ⟨by decide, by decide⟩ (by decide) (by decide)) hirq
  · have htail : logTail t = logTail (logged x ws) := hkept.getF Reg.FM_LOG_IDX_TAIL 0
    rw [htail, logged_tail, logTail_cnt]
  · exact (hkept.getF Reg.FM_LOG_IDX_HEAD 0).trans ((logged_other x ws).trans (logHead_cnt s))
  · have hlog : fmKey (fldKey Reg.FM_LOG 0 (4 * (logTail s % 64) + i)) := by
      simp only [fmKey, fldKey, Reg.FM_LOG]
      omega
    rw [hkept.getF Reg.FM_LOG _ hlog, ← logTail_cnt s, logged_word hi, Nat.mod_eq_of_lt (logWords_lt hns i)]
  · rw [ht]
    exact (Frame.step (logNotify_link_frame ..) rfl (Frame.step (evSet_frame ..) rfl (Frame.step (logged_frame ..) rfl
      (Frame.step (cnt_frame ..) rfl (Frame.refl _)))) : Frame (partMask [.regs, .hostMem, .fm, .sources, .hl]) s _).named

theorem plainLog_full {ns aux : Nat} (h : 64 ≤ unread s) :
    let t := writeLog (cnt s Reg.FM_CNT_ERRORS) r ns aux plainMark
    Counted Reg.FM_CNT_ERRORS 0 0 1 s t ∧ t.fm = s.fm ∧ logTail t = logTail s ∧ Counted Reg.FM_CNT_LOST 0 0 1 s t ∧
      bit t Reg.FM_STAT_OVERFLOW 0 0 = true ∧ KeepsBut [.regs, .hostMem, .fm, .sources, .hl] s t := by
  intro t
  let x := setF (cnt s Reg.FM_CNT_ERRORS) Reg.FM_STAT_OVERFLOW 0 0 1
  have ht : t = cnt x Reg.FM_CNT_LOST := writeLog_full (by rw [unread_cnt]; exact h)
  have hlost : ∀ f, fldKey f 0 0 ≠ fldKey Reg.FM_CNT_LOST 0 0 → getF t f 0 0 = getF x f 0 0 := fun f hf => by
    rw [ht]
    exact getF_addF_other _ _ _ _ _ _ _ _ hf
  have hover : ∀ f, fldKey f 0 0 ≠ fldKey Reg.FM_STAT_OVERFLOW 0 0 → getF x f 0 0 = getF (cnt s Reg.FM_CNT_ERRORS) f 0 0 := fun f hf =>
    getF_setF_other _ _ _ _ _ _ _ _ hf
  refine ⟨(counted_addF ..).congr ((hlost _ (by decide)).trans (hover _ (by decide))), by rw [ht]; rfl, ?_, ?_, ?_, ?_⟩
  · exact (hlost Reg.FM_LOG_IDX_TAIL (by decide)).trans ((hover _ (by decide)).trans (logTail_cnt s))
  · have hsame : getF x Reg.FM_CNT_LOST 0 0 = getF s Reg.FM_CNT_LOST 0 0 :=
      (hover _ (by decide)).trans (getF_addF_other _ _ _ _ _ _ _ _ (by decide))
    unfold Counted
    rw [ht, cnt, getF_addF_self, hsame]
  · unfold bit
    rw [hlost _ (by decide), getF_setF_self]
    rfl
  · rw [ht]
    exact (Frame.step (cnt_frame ..) rfl (Frame.step (setF_frame ..) rfl (Frame.step (cnt_frame ..) rfl (Frame.refl _))) :
      Frame (partMask [.regs]) s _).named.trans fun _ _ => Part.same_refl _ _

theorem plainReport_logged (hready : ready s = true) (hq : s.fm.intake = []) (h1 : 0x48 ≤ r.cause) (h2 : r.cause ≤ 0x4C) (hjob : r.job = 0)
    (hr : s.fm.recoveries = []) (hphase : s.fm.phase = .normal) :
    ∃ t, exec (.faultReport (some r)) s = .next t ∧ Counted Reg.FM_CNT_ERRORS 0 0 1 s t ∧
      (unread s < 64 → ThreshNoted s t ∧ logTail t = (logTail s + 1) % 2 ^ 16 ∧ logHead t = logHead s ∧
        ∀ i, i < 4 → getF t Reg.FM_LOG 0 (4 * (logTail s % 64) + i) = (logWords (cnt s Reg.FM_CNT_ERRORS) r (nowNs s) r.aux
          { cls := 0, escalated := false, nested := false, requested := false }).getD i 0) ∧
      (64 ≤ unread s → t.fm = s.fm ∧ logTail t = logTail s ∧ Counted Reg.FM_CNT_LOST 0 0 1 s t ∧ bit t Reg.FM_STAT_OVERFLOW 0 0 = true) ∧
      KeepsBut [.regs, .hostMem, .fm, .sources, .hl] s t := by
  have hmark : parityMark s r = s := parityMark_other (.inl ⟨by omega, by omega⟩)
  have hexec : exec (.faultReport (some r)) s = .next (writeLog (cnt s Reg.FM_CNT_ERRORS) r (nowNs s) r.aux plainMark) := by
    rw [faultReport_some hready, hmark, takeReport_report hq, takeUnit_plain (w := waitingOf s r) h1 h2 hjob hr hphase]
    rfl
  by_cases hfull : 64 ≤ unread s
  · obtain ⟨herrors, hfm, htail, hlost, hover, hkeeps⟩ := plainLog_full (r := r) (ns := nowNs s) (aux := r.aux) hfull
    exact ⟨_, hexec, herrors, fun h => absurd hfull (Nat.not_le.2 h), fun _ => ⟨hfm, htail, hlost, hover⟩, hkeeps⟩
  · obtain ⟨herrors, hthresh, htail, hhead, hwords, hkeeps⟩ := plainLog_writes (r := r) (ns := nowNs s) (aux := r.aux)
      (Nat.mod_lt _ (by decide)) (Nat.not_le.1 hfull)
    exact ⟨_, hexec, herrors, fun _ => ⟨hthresh, htail, hhead, hwords⟩, fun h => absurd h hfull, hkeeps⟩

/-! ### The lost lock of the PLL (R437, R447) -/

/-- The device starts over from `x`. -/
theorem deviceReset_startsOver (x : State) (cause faultCause : Nat) (hold : Hold) :
    StartsOver cause faultCause hold [] x (deviceReset x cause faultCause hold) := by
  refine ⟨rfl, rfl, rfl, rfl, rfl, rfl, rfl, rfl, rfl, rfl, rfl, rfl, rfl, fun p hp => ?_⟩
  cases p
  case pending | free | hostMem | latches | ports | hl | pins | boot | sec | giLevel => exact absurd (by decide) hp
  all_goals rfl

/-- What the device keeps through a reset besides. -/
structure ResetKept (s t : State) : Prop where
  giPins : t.pins.giPins = s.pins.giPins
  pending : t.pending = s.pending
  latches : t.latches = s.latches
  flash : t.sec.flash = s.sec.flash

theorem StartsOver.congr {x t : State} {cause faultCause : Nat} {hold : Hold} {ps : List Part} (h : StartsOver cause faultCause hold ps x t)
    (hx : ResetKept s x) : StartsOver cause faultCause hold ps s t := by
  unfold StartsOver at *
  rwa [hx.giPins, hx.pending, hx.latches, hx.flash] at h

namespace ResetKept
variable {x t : State}

theorem trans (h : ResetKept s x) (h' : ResetKept x t) : ResetKept s t :=
  ⟨h'.giPins.trans h.giPins, h'.pending.trans h.pending, h'.latches.trans h.latches, h'.flash.trans h.flash⟩

theorem of_frame {m : Nat} (h : Frame m s t) (hm : ∀ p ∈ [Part.pins, .pending, .latches, .sec], m.testBit p.ctorIdx = false := by decide) :
    ResetKept s t :=
  ⟨congrArg Pins.giPins (h.keeps .pins (hm _ (by decide))), h.keeps .pending (hm _ (by decide)), h.keeps .latches (hm _ (by decide)),
    congrArg Sec.flash (h.keeps .sec (hm _ (by decide)))⟩

theorem askReset (s : State) : ResetKept s (Machine.askReset s) := by
  have hrepair : ResetKept s (writeRepair s (repairRows s true)) := ⟨rfl, rfl, rfl, rfl⟩
  refine hrepair.trans (.trans (.of_frame (updFm_frame ..)) (.trans (.of_frame (evSet_frame ..)) (.of_frame (fmNotify_frame ..))))

theorem writeLog (s : State) (r : Report) (ns aux : Nat) (m : LogMark) : ResetKept s (Machine.writeLog s r ns aux m) :=
  .of_frame (writeLog_frame ..)

end ResetKept

/-- The device reset is decided. -/
def resetDecided (s : State) (resetCause cause : Nat) : State :=
  updFm (askReset s) fun m => { m with phase := .devPending, since := nowNs s, cause := cause, resetCause := resetCause }

theorem performReset_pll_eq (h : s.fm.phase ≠ .devPending) (cause : Nat) :
    performReset s cause 0x4D = finishReset (resetDecided s cause 0x4D) := by
  unfold performReset
  rw [if_neg h, if_pos rfl, resetDecided]

theorem finishReset_startsOver (s : State) : StartsOver s.fm.resetCause s.fm.cause .none [] s (finishReset s) := by
  have hkept : ResetKept s (logQueue s 2 (errorLog s)) := by
    generalize errorLog s = payload
    exact ⟨rfl, rfl, rfl, rfl⟩
  unfold finishReset
  exact (deviceReset_startsOver ..).congr hkept

/-- Reset is at once where the clock is gone. -/
theorem performReset_pll (h : s.fm.phase ≠ .devPending) (cause : Nat) : StartsOver cause 0x4D .none [] s (performReset s cause 0x4D) := by
  have hdecided : ResetKept s (resetDecided s cause 0x4D) := (ResetKept.askReset s).trans (.of_frame (updFm_frame ..))
  rw [performReset_pll_eq h]
  exact (finishReset_startsOver (resetDecided s cause 0x4D)).congr hdecided

theorem logNotify_phase (s : State) : (logNotify s).fm.phase = s.fm.phase := by
  rw [show (logNotify s).fm = _ from logNotify_noted s]

theorem writeLog_phase (s : State) (r : Report) (ns aux : Nat) (m : LogMark) : (writeLog s r ns aux m).fm.phase = s.fm.phase := by
  rw [← logMarked_fm s m, writeLog_eq]
  split
  · rfl
  · rw [logNotify_phase, (evSet_frame ..).fm_eq, (logged_frame ..).fm_eq]

/-- The mark of the record of a report of class 4 that the fault manager acts on itself. -/
def resetMark (r : Report) : LogMark := { cls := 4, escalated := initialClass r < 4, nested := false, requested := false }

theorem containFrozen_resets (s : State) (w : Waiting) :
    containFrozen s w .device 4 false = performReset (writeLog s w.rep w.ns w.rep.aux (resetMark w.rep)) 3 w.rep.cause := by
  unfold containFrozen resetMark
  exact if_pos (by decide)

theorem contain_resets (s : State) (w : Waiting) :
    contain s w .device 4 false = performReset (writeLog s w.rep w.ns w.rep.aux (resetMark w.rep)) 3 w.rep.cause := by
  unfold contain performs resetMark
  simp

theorem pllReport_resets (hready : ready s = true) (hq : s.fm.intake = []) (hc : r.cause = 0x4D) (hr : s.fm.recoveries = [])
    (hphase : s.fm.phase ≠ .devPending) : ∃ t, exec (.faultReport (some r)) s = .next t ∧ StartsOver 3 0x4D .none [] s t := by
  have hmark : parityMark s r = s := parityMark_other (.inl ⟨by omega, by omega⟩)
  have hprog : isProgram r.cause = false := by rw [hc]; rfl
  have hclass : initialClass r = 4 := by simp only [initialClass, hc]
  have hdom : domainOf s r = .device := by
    unfold domainOf
    rw [hprog]
    simp only [hc, Bool.false_eq_true, if_false]
  have hresets : takeUnit s (waitingOf s r) = performReset (writeLog (noted s r) r (nowNs s) r.aux (resetMark r)) 3 0x4D := by
    have hfresh := takeUnit_fresh (w := waitingOf s r) hprog hr (show r.cause ≠ 0x46 by omega)
    rw [show initialClass (waitingOf s r).rep = 4 from hclass, show domainOf s (waitingOf s r).rep = .device from hdom] at hfresh
    rw [hfresh, ← hc]
    split
    · exact containFrozen_resets (noted s r) (waitingOf s r)
    · exact contain_resets (noted s r) (waitingOf s r)
  obtain ⟨ds, hnoted⟩ := noteDomain_fm (cnt s Reg.FM_CNT_ERRORS) r.job (domainOf s r)
  have hphase' : (writeLog (noted s r) r (nowNs s) r.aux (resetMark r)).fm.phase ≠ .devPending := by
    rw [writeLog_phase]
    unfold noted
    rwa [hnoted]
  have hkept : ResetKept s (writeLog (noted s r) r (nowNs s) r.aux (resetMark r)) :=
    .trans (.of_frame (cnt_frame ..)) (.trans (.of_frame (noteDomain_frame ..)) (.writeLog ..))
  refine ⟨_, ?_, (performReset_pll hphase' 3).congr hkept⟩
  rw [faultReport_some hready, hmark, takeReport_report hq, hresets]

theorem notReady_keeps (hready : ready s = false) (f : Option Report) : exec (.faultReport f) s = .next s := by
  change execFaultReport f s = _
  unfold execFaultReport
  rw [hready]
  rfl

end

end Sys2Proof.Machine

open Sys2Proof Sys2Proof.Machine

set_option Elab.async false

/-- Settles O54: what a failed check marks, the queue, merged reports, the log and the reset, each shown above. -/
theorem faultReports : Obligations.FaultReports := by
  unfold Obligations.FaultReports
  intro r s
  refine ⟨notReady_keeps, faultReport_none, takeReport_nil, ⟨fun hready => ?_, fun hk hu => ?_, parityMark_other, (parityMark_frame ..).named⟩,
    fun hready f w rest => head_merged hready f, fun hready hq => ⟨plainReport_logged hready hq, new_merged hready hq, pllReport_resets hready hq⟩⟩
  · exact ⟨_, faultReport_some hready, report_reported .., (report_frame ..).named⟩
  · exact ⟨parityMark_scratchpad hk hu, parityMark_bundle hk hu⟩

end
